-- ==== Sys2Proof/Word.lean ====
section
/-! DEFINITION. The word types of the part and their plainest arithmetic. -/

set_option Elab.async false

namespace Sys2Proof

/-- A register: 64 bits (R11). -/
abbrev Word := BitVec 64

/-- One byte. -/
abbrev Byte := BitVec 8

/-- One listed byte of a sparse memory: its address and its value. -/
abbrev Cell := Nat × BitVec 8

/-- A time-base value, in ticks of 0.25 ns (R9). -/
abbrev Tick := Nat

/-- Ticks in one microsecond (R9). -/
def ticksPerUs : Nat := 4000

/-- Ticks in one millisecond (R9). -/
def ticksPerMs : Nat := 4000000

/-- Ticks in one second (R9). -/
def ticksPerS : Nat := 4000000000

/-- Division rounded up. -/
def ceilDiv (a b : Nat) : Nat := (a + b - 1) / b

end Sys2Proof
end

