-- ==== Sys2Proof/Syntax.lean ====
section
/-! DEFINITION. The commands that the block takes: one constructor for each row of the table of operations and
events, with the operands the row needs. -/

set_option Elab.async false

namespace Sys2Proof

/-- The function whose BAR or queue an access comes from: the management physical function, or the
virtual function that serves partition `p` (R520). -/
inductive Fn where
  | mgmt
  | vf (p : Fin 16)
deriving DecidableEq, Repr

/-- How much of a 64-bit register an access reaches (R522). -/
inductive Lane where
  | full | low | high
deriving DecidableEq, Repr

/-- A 64-byte command packet as its bytes stand in the slot (R53): `params` is bytes 16 to 63, byte 16
in its bits 7:0. -/
structure Packet where
  opcode : BitVec 8
  flags : BitVec 8
  tag : BitVec 16
  object : BitVec 32
  job : BitVec 32
  reserved : BitVec 32
  params : BitVec 384
deriving DecidableEq, Repr

/-- A write of one slot of a command window (R48): the queue, the slot and the packet that the host writes there. -/
structure SlotWrite where
  queue : BitVec 8
  slot : BitVec 9
  pkt : Packet
deriving DecidableEq, Repr

/-- A command packet and the command queue that carried it. -/
structure Cmd where
  queue : BitVec 8
  pkt : Packet
deriving DecidableEq, Repr

/-- One weight block as WEIGHT_LOAD's source gives it: its place, its KIND and its raw layout (R215, R217), and the de-interleaved address at
which firmware lays its processor-layout copy (R154). -/
structure RawBlock where
  layer : BitVec 8
  matrix : BitVec 8
  index : BitVec 32
  kind : BitVec 4
  raw : List (BitVec 8)
  near : BitVec 38
deriving DecidableEq, Repr

/-- One token's rows of one layer as the projections give them: FP32 keys and values, key-value head by
key-value head (R106). -/
structure AppendRow where
  handle : BitVec 18
  layer : BitVec 8
  position : BitVec 23
  keys : List (BitVec 32)
  values : List (BitVec 32)
deriving DecidableEq, Repr

/-- The logits of one sequence at one step: the main model's at each query position, the maquette's
distribution logits at each draft position, and the drafted tokens (R163, R165). -/
structure LogitRow where
  handle : BitVec 18
  main : List (List (BitVec 32))
  draft : List (List (BitVec 32))
  drafted : List (BitVec 32)
deriving DecidableEq, Repr

/-- The function that a tile's vector lane applies to an output block (R181). -/
inductive LaneFn where
  | none | relu | silu | gelu | gated
deriving DecidableEq, Repr

/-- The destination format of a tile's output (R183): FP32, BF16, or the activation format of the pair, for the next kernel. -/
inductive TileDest where
  | fp32 | bf16 | activation
deriving DecidableEq, Repr

/-- A row of FP32 values that a kernel reads or hands on: values that the issuer's firmware brings itself (an embedding, a constant), a
part of an output row of an earlier work of the same entry, a part of an output row of the partition's last entry on the tiles, or
what the near-bank reduction gave: a weight product of a tag and kind (false MATVEC_ROW, true MATVEC_COL), or the attention of a sequence. -/
inductive Vec where
  | given (xs : List (BitVec 32))
  | tile (job row first count : Nat)
  | made (job row first count : Nat)
  | near (tag : BitVec 16) (col : Bool) (query first count : Nat)
  | nearAttn (handle : BitVec 18) (query : Nat)
deriving DecidableEq, Repr

/-- One tile's part of a kernel C = A × W as its descriptor gives it (R177 to R183): the physical tile, the half of its operand buffer that
holds the panel, the operand format pair, the rows of A with their RMS normalisation (epsilon and gains) where they have one, the output
columns that count, the vector lane's column scales, bias, function and residual rows, and the destination format. -/
structure TileJob where
  tile : BitVec 8
  half : Bool
  pair : Fin 6
  rows : List Vec
  norm : Option (BitVec 32 × List (BitVec 32))
  cols : BitVec 16
  scale : List (BitVec 32)
  bias : List (BitVec 32)
  fn : LaneFn
  residual : List Vec
  dest : TileDest
deriving DecidableEq, Repr

/-- One query row of prefill attention on the tiles (R196): the sequence, the query's position and head, and its FP32 values. -/
structure AttnJob where
  handle : BitVec 18
  position : BitVec 23
  head : BitVec 7
  row : Vec
deriving DecidableEq, Repr

/-- One work of an entry on the tiles: a part of a product, or prefill attention over the pages of the rows' sequences. -/
inductive TileWork where
  | product (job : TileJob)
  | attention (rows : List AttnJob)
deriving DecidableEq, Repr

/-- One token's rows of one layer as a kernel's completion hands them to the Ladle. -/
structure RowWork where
  handle : BitVec 18
  layer : BitVec 8
  position : BitVec 23
  keys : Vec
  values : Vec
deriving DecidableEq, Repr

/-- The logits of one sequence as a kernel's completion hands them on. -/
structure LogitWork where
  handle : BitVec 18
  main : List Vec
  draft : List Vec
  drafted : List (BitVec 32)
deriving DecidableEq, Repr

/-- What a kernel's or an entry's completion is made of: the works that ran on the tiles, the rows to append, the logits from which tokens
are selected, whether its output is poisoned, and whether it ends the running pass's present layer (R189). -/
structure KernelWork where
  jobs : List TileWork
  rows : List RowWork
  logits : List LogitWork
  poisoned : Bool
  passLayer : Bool
deriving DecidableEq, Repr

/-- A group sync message (R266). `exclude` is bytes 64 to 191, candidate 0 in bit 0. -/
structure SyncMsg where
  group : BitVec 16
  member : BitVec 9
  cycle : BitVec 32
  point : BitVec 6
  late : Bool
  void : Bool
  mismatch : Bool
  stretchValid : Bool
  margin : BitVec 32
  digest : BitVec 32
  stretch : BitVec 16
  swapTick : BitVec 64
  exclude : BitVec 1024
deriving DecidableEq, Repr

/-- An Asith frame: the header of R318 and the payload. -/
structure Frame where
  op : BitVec 8
  flags : BitVec 8
  epoch : BitVec 8
  status : BitVec 8
  srcNode : BitVec 16
  dstNode : BitVec 16
  dstConn : BitVec 16
  srcConn : BitVec 16
  psn : BitVec 32
  ackPsn : BitVec 32
  key : BitVec 32
  offset : BitVec 64
  payload : List (BitVec 8)
  arg : BitVec 32
  ts : BitVec 32
  tsEcho : BitVec 32
  txCount : BitVec 64
deriving DecidableEq, Repr

/-- A frame at a receiving port: the port, whether its GCM tag verified (R233) and whether it came with
the congestion mark (R341). -/
structure Rx where
  port : Fin 8
  tagOk : Bool
  ce : Bool
  frame : Frame
deriving DecidableEq, Repr

/-- What a sequence brings with it when it moves: the sequence descriptor's fields and its journal (R34). -/
structure MoveOffer where
  handle : BitVec 18
  srcPart : Fin 16
  dstPart : Fin 16
  state : BitVec 4
  reason : BitVec 2
  spec : BitVec 32
  lastStep : BitVec 32
  model : BitVec 16
  tenant : BitVec 12
  format : BitVec 2
  layers : BitVec 9
  kvHeads : BitVec 7
  headDim : BitVec 9
  length : BitVec 23
  limit : BitVec 23
  tail : Bool
  priority : BitVec 2
  speculate : Bool
  prot : Bool
  seed : BitVec 64
  temperature : BitVec 32
  topP : BitVec 32
  topK : BitVec 16
  stops : List (BitVec 32)
  journal : List (BitVec 32)
  pageIndices : List (BitVec 18)
  mirror : BitVec 16
  fp8Kind : BitVec 1
deriving DecidableEq, Repr

/-- What a write frame's bytes are to the device that receives them, beyond bytes in memory: the streams
of the Ladle and the records of the manager's firmware have no wire layout of their own in the manual. -/
inductive WriteUse where
  | data
  | moveOffer (o : MoveOffer)
  | moveGroup (handle : BitVec 18) (index : BitVec 18)
  | journalRecord (handle : BitVec 18) (position : BitVec 23) (token : BitVec 32) (kind : BitVec 2)
  | sliceGrant (base : BitVec 48) (slots : BitVec 32)
  | journalGrant (base : BitVec 48)
  | memberCopy (part : Fin 16) (group : BitVec 64) (swapTick : BitVec 64) (period : BitVec 64) (stretch : BitVec 14) (rows : List (BitVec 256))
  | spareRefused (lost spare : BitVec 16)
deriving DecidableEq, Repr

/-- A host AtomicOp through a remote window (R332). -/
inductive AtomicOp where
  | fetchAdd (v : BitVec 64)
  | swap (v : BitVec 64)
  | cas64 (cmp new : BitVec 64)
  | cas128 (cmp new : BitVec 128)
  | narrow
deriving DecidableEq, Repr

/-- A plain memory access. -/
inductive MemOp where
  | read (len : Nat)
  | write (data : List (BitVec 8))
deriving DecidableEq, Repr

/-- A logic-side access that reaches a channel (R132). -/
structure LogicAccess where
  isWrite : Bool
  bank : Fin 64
  offset : BitVec 26
  data : BitVec 8
deriving DecidableEq, Repr

/-- A stored sector whose symbols a read finds changed (R212): the sector's de-interleaved address divided by 32, and what its 36 symbols are
XORed with, symbol 0 (data byte 0) in bits 7:0. -/
structure Upset where
  sector : BitVec 33
  flips : BitVec 288
deriving DecidableEq, Repr

/-- What the start of an armature entry finds (R242): the entry, the leaf chunks of page lists that have left tier 0 since the
last walk (R105), and for a FILL or IDLE kernel the length that firmware reckons for it, in ticks (R243). -/
structure EntryStart where
  entry : Nat
  evicted : List (BitVec 18)
  declared : Nat
deriving DecidableEq, Repr

/-- A near-bank descriptor as its channel's sequencer takes it (R137): its 32 bytes, and how many bytes of a vector buffer its
inputs and results take (R139). -/
structure NbIssue where
  desc : BitVec 256
  need : Nat
deriving DecidableEq, Repr

/-- What a unit's watchdog leaves (R130, R159): the tag under which the poisoned result is reduced, and the unit's temperature. -/
structure WatchdogEnd where
  tag : BitVec 16
  temp : BitVec 8
deriving DecidableEq, Repr

/-- What fills a sequence's draft ring (R162): its handle, and the rows that the fill from the journal makes. -/
structure RingFill where
  handle : BitVec 18
  rows : List AppendRow
deriving DecidableEq, Repr

/-- A host's access to DRAM through BAR4 (R126): the access, and the sectors that its read finds changed (R212). -/
structure DramAccess where
  op : MemOp
  upsets : List Upset
deriving DecidableEq, Repr

/-- A stored block's place in its set, and the sectors that the fill finds changed, counted from the block's header (R212, R224 step 1). -/
structure BlockRead where
  model : BitVec 16
  layer : BitVec 8
  matrix : BitVec 8
  index : BitVec 32
  upsets : List Upset
deriving DecidableEq, Repr

/-- A block of 32 weight elements in the bytes that a unit reads: the first byte of its elements, and that of its E8M0 scale where it has
one, both counted from OFFSET. -/
structure BlockPlace where
  first : Nat
  scale : Option Nat
deriving DecidableEq, Repr

/-- The output rows of one unit in a MATVEC, each as its blocks in ascending order: the places of the weights in processor layout, which
the spec gives no byte layout of its own. -/
structure UnitRows where
  unit : Fin 32
  rows : List (List BlockPlace)
deriving DecidableEq, Repr

/-- What the channel bus brings in a VEC_LOAD (R138, R142): plain bytes; input vectors, which the logic die quantises; or query rows of a
weight set at their positions, which it rotates and quantises. -/
inductive BusLoad where
  | bytes (l : List (BitVec 8))
  | vectors (rows : List Vec)
  | queries (model : BitVec 16) (rows : List (BitVec 23 × Vec))
deriving DecidableEq, Repr

/-- The operands of a near-bank operation's completion, beside its descriptor and what banks and vector buffers hold: for MATVEC where the
weights of each masked unit lie and the number of the reduction that the result belongs to, for VEC_LOAD what the channel bus brings, for
TEST the units that failed; the sectors that were read with changed symbols, whether a vector buffer failed its parity, and the junction
temperature. -/
structure NbInput where
  rows : List UnitRows
  tag : BitVec 16
  load : BusLoad
  failed : List (Fin 32)
  upsets : List Upset
  parity : Bool
  temp : BitVec 8
deriving DecidableEq, Repr

/-- What a self-test or a replay runs on (R205, R206). -/
inductive TestUnit where
  | tile (t : BitVec 8)
  | unit (ch : Fin 64) (u : Fin 32)
deriving DecidableEq, Repr

/-- Words of an output that a faulty tile or unit gives otherwise than the arithmetic has them: index and what the word is XORed with. -/
abbrev Faults := List (Nat × BitVec 32)

/-- What a replay samples (R202): a tile's kernel, or the result that a near-bank operation's inputs give. -/
inductive SampleWork where
  | tile (job : TileJob)
  | unit (result : List (BitVec 32))
deriving DecidableEq, Repr

/-- A kernel or near-bank operation that is sampled as it runs (R202, R205): the entries of the active table that are eligible, what it ran
on, its work, and the faults in its output. -/
structure KernelSample where
  eligible : List Nat
  ran : TestUnit
  work : SampleWork
  faults : Faults
deriving DecidableEq, Repr

/-- One page of the Ladle's bulk work (R538). -/
inductive PageJob where
  | prefetch (p : Fin 16) (page : BitVec 32)
  | evict (p : Fin 16) (page : BitVec 32)
  | fetch (p : Fin 16) (page : BitVec 32) (tier : BitVec 2)
  | stream (p : Fin 16) (page : BitVec 32)
  | move (handle : BitVec 18)
  | recast (handle : BitVec 18)
  | copy (handle : BitVec 18)
  | drain (lodging : Fin 16)
  | churn
deriving DecidableEq, Repr

/-- The level at which one codeword decoded (R310). -/
inductive DecodeLevel where
  | hard | retry (n : Fin 16) | soft | failed
deriving DecidableEq, Repr

/-- A PTP message, as far as R361 tells them apart. -/
inductive PtpMsg where
  | announce (clock : BitVec 64) (domain : BitVec 8) (priority : BitVec 64)
  | syncFollow (clock : BitVec 64) (domain : BitVec 8) (t1 t2 t3 t4 : BitVec 64)
  | unsupported
deriving DecidableEq, Repr

/-- A credit bucket (R372): a port's class, or a connection group. -/
inductive BucketId where
  | port (q : Fin 8) (c : Fin 8)
  | group (g : Fin 17)
deriving DecidableEq, Repr

/-- An error as its unit reports it (R400). -/
structure ErrorReport where
  sev : BitVec 2
  unit : BitVec 8
  code : BitVec 16
  part : Option (Fin 16)
  location : BitVec 64
  info0 : BitVec 64
  info1 : BitVec 64
  handle : Option (BitVec 18)
  job : BitVec 32
deriving DecidableEq, Repr

/-- What the controller reads in one window (R430, R438): measured power, and the engine-time share of each
class in 1/65,536, with the activity of each job. -/
structure PowerSample where
  measured : BitVec 16
  shares : List Nat
  railWatts : List Nat
  jobShares : List (Nat × Nat × Nat)
deriving DecidableEq, Repr

/-- A trace event as its source reports it (R479). -/
structure TraceRec where
  kind : BitVec 8
  part : Option (Fin 16)
  waiter : BitVec 16
  waitedOn : BitVec 16
  merged : BitVec 16
  wait : BitVec 32
  context : BitVec 32
  data : List (BitVec 8)
deriving DecidableEq, Repr

/-- The algorithms that an SPDM requester offers (R465). -/
structure SpdmOffer where
  rsassa4096 : Bool
  sha384 : Bool
  secp384r1 : Bool
  aes256gcm : Bool
deriving DecidableEq, Repr

/-- What the plinth finds at a cold start: the fuses, the test pin and the quarantine copies of boot flash. -/
structure ColdStart where
  lifecycleBits : List (BitVec 3)
  revoked : BitVec 2
  bootSource : Bool
  ownerKey : Bool
  secondKey : Bool
  fieldLock : Bool
  svnFloor : BitVec 7
  testEn : Bool
  copyGood : Bool
  copyGeneration : BitVec 48
  copyIndex : Bool
  quarTiles : List (BitVec 8)
  quarUnits : List (Fin 64 × Fin 32)
deriving DecidableEq, Repr

/-- What firmware finds while it comes up (R507, R510): tiles and units that failed a self-test, ports whose
links trained. -/
structure FirmwareInit where
  failedTiles : List (BitVec 8)
  failedUnits : List (Fin 64 × Fin 32)
  linksUp : BitVec 8
deriving DecidableEq, Repr

/-- One flash target as its ONFI parameter page gives it (R303). -/
structure FlashTarget where
  channel : Fin 32
  dataBytes : Nat
  spareBytes : Nat
  blocks : Nat
  pagesPerBlock : Nat
deriving DecidableEq, Repr

/-- What an IDE_KM request asks of a stream's keys (R467). -/
inductive IdeAction where
  | program | go | stop
deriving DecidableEq, Repr

/-- What arrives for a read that the device made of host memory. -/
inductive HostRead where
  | packets (q : BitVec 8) (ps : List Packet)
  | packetsFailed (q : BitVec 8)
  | context (conn : BitVec 16) (tagOk : Bool)
  | contextFailed (conn : BitVec 16)
  | fabric (conn : BitVec 16) (data : List (BitVec 8))
  | fabricFailed (conn : BitVec 16)
  | buffer
deriving DecidableEq, Repr


/-- A command or an event: one constructor for each row of the table, in the table's order. -/
inductive Instr where
  /-- CMD_DB_TAIL (R49): Host writes a command queue's tail doorbell, making packets up to INDEX available for fetching. -/
  | cmdDbTail (fn : Fn) (q : BitVec 8) (index : BitVec 16)
  /-- CMD_DB_HEAD (R49): Host writes a reply queue or token ring head doorbell, releasing entries so that held replies or token records can be written. -/
  | cmdDbHead (fn : Fn) (q : BitVec 8) (index : BitVec 16)
  /-- COMMAND_FETCH (R81): Device fetches a burst of up to 64 packets from a partition's command queues in round-robin order. -/
  | commandFetch (who : Fn) (writes : List SlotWrite)
  /-- CMD_ADMQ_CTRL_WRITE (R52): Write to CMD_ADMQ_CTRL enables or disables the function's administration pair, or refuses the enable on a bad depth. -/
  | cmdAdmqCtrlWrite (fn : Fn) (lane : Lane) (v : BitVec 64)
  /-- IDENTIFY (R532): Writes the 4 KiB identity structure to the host buffer and replies. -/
  | identify (c : Cmd)
  /-- QUEUE_CREATE (R75): Creates a queue of a given kind, placement and depth, paired with a reply queue. -/
  | queueCreate (c : Cmd)
  /-- QUEUE_DELETE (R75): Deletes a queue; replies once every accepted command of the queue has replied. -/
  | queueDelete (c : Cmd)
  /-- ROLE_SET (R3): Sets the device role when no sequence handle is open in any partition. -/
  | roleSet (c : Cmd)
  /-- PARTITION_CONFIG (R172): Sets a partition's tile groups, privileged mark, queue quota and channel mask. -/
  | partitionConfig (c : Cmd)
  /-- PARTITION_RESET (R259): Resets a partition's work in flight and keeps its committed state. -/
  | partitionReset (c : Cmd)
  /-- PARTITION_RESET_COMPLETE (R260): Reset ends: unreplied commands reply under R260 and RESETTING returns to 0. -/
  | partitionResetComplete (p : Fin 16)
  /-- SCH_TABLE_LOAD (R246): Loads an armature table into the shadow slot after checking it and computing its digest. -/
  | schTableLoad (c : Cmd) (rows : List (BitVec 256))
  /-- SCH_TABLE_SWAP (R247): Arms a swap of the shadow table at the first boundary at or after the swap tick. -/
  | schTableSwap (c : Cmd)
  /-- WEIGHT_LOAD (R84): Loads layers of a weight set in operand and/or processor layout, including its key-value geometry record. -/
  | weightLoad (c : Cmd) (record : List Cell) (blocks : List RawBlock)
  /-- CHURN_PASS (R221): Builds prefix-code tables per matrix and re-encodes the blocks of the named layers. -/
  | churnPass (c : Cmd)
  /-- REGION_REGISTER (R324): Registers a region of one offset space with its rights and returns its key. -/
  | regionRegister (c : Cmd)
  /-- REGION_REVOKE (R329): Puts a region into draining and replies once its accepted writes and atomics have retired. -/
  | regionRevoke (c : Cmd)
  /-- CONN_OPEN (R336): Allocates a connection context and sends CONNECT; replies when CONNECT_ACK returns. -/
  | connOpen (c : Cmd)
  /-- CONN_CLOSE (R336): Stops new requests on a connection, lets outstanding ones retire and exchanges DISCONNECT. -/
  | connClose (c : Cmd)
  /-- EPOCH_SET (R348): Installs a new node map under a new epoch, keeping the old map live. -/
  | epochSet (c : Cmd) (map : List (BitVec 256))
  /-- PWR_CLASS_POINT (R440): Sets a partition's preferred operating point for one slot class. -/
  | pwrClassPoint (c : Cmd)
  /-- PWR_CAP_SET (R435): Sets the host power cap. -/
  | pwrCapSet (c : Cmd)
  /-- JOB_ENERGY (R449): Returns the energy charged to a job, optionally releasing its entry. -/
  | jobEnergy (c : Cmd)
  /-- TENANT_SET (R254): Sets a tenant's token rate and burst and adjusts its budget. -/
  | tenantSet (c : Cmd)
  /-- TENANT_QUERY (R257): Returns a tenant's remaining budget in whole tokens. -/
  | tenantQuery (c : Cmd)
  /-- TRACE_CONFIG (R482): Configures trace mode, payload, filters and triggers, discarding the buffer. -/
  | traceConfig (c : Cmd)
  /-- TRACE_TRIGGER (R483): Fires the armed trace trigger by command. -/
  | traceTrigger (c : Cmd)
  /-- DEBUG_HALT (R487): Halts a partition and replies when its engines have drained. -/
  | debugHalt (c : Cmd)
  /-- DEBUG_MEM_READ (R478): Copies bytes from the state, metadata or device space to a destination without side effects. -/
  | debugMemRead (c : Cmd)
  /-- FW_IMAGE (R461): Verifies a firmware image and programs it into boot flash. -/
  | fwImage (c : Cmd) (image : List (BitVec 8)) (code : BitVec 12)
  /-- DEBUG_TOKEN (R472): Verifies a debug token and enters FIELD_DEBUG with the named features and partition. -/
  | debugToken (c : Cmd) (token : List (BitVec 8))
  /-- LIFECYCLE_SET (R453): Performs a lifecycle transition or blows FIELD_LOCK. -/
  | lifecycleSet (c : Cmd)
  /-- NOP (R74): Does nothing and replies OK on acceptance. -/
  | nop (c : Cmd)
  /-- SEQ_OPEN (R69): Assigns a sequence handle from the free list and records the sequence's parameters. -/
  | seqOpen (c : Cmd) (stops : List (BitVec 32))
  /-- SEQ_PROMPT (R68): Journals prompt tokens, assigns their page groups and makes the sequence PREFILLING. -/
  | seqPrompt (c : Cmd) (tokens : List (BitVec 32))
  /-- SEQ_STEP_ENABLE (R40): Enables a READY or PAUSED sequence for stepping once its pages are ready. -/
  | seqStepEnable (c : Cmd)
  /-- SEQ_PAUSE (R22): Suspends stepping of a STEPPING sequence at a boundary. -/
  | seqPause (c : Cmd)
  /-- SEQ_RESUME (R40): Returns a PAUSED sequence to stepping once its pages are ready. -/
  | seqResume (c : Cmd)
  /-- SEQ_CANCEL (R31): Makes a sequence DONE with reason CANCELLED at a boundary. -/
  | seqCancel (c : Cmd)
  /-- SEQ_CLOSE (R23): Frees a DONE sequence's state in every tier and at the mirror and returns the handle. -/
  | seqClose (c : Cmd)
  /-- SEQ_QUERY (R69): Returns one sequence's state or lists the partition's sequences in a state. -/
  | seqQuery (c : Cmd)
  /-- STATE_MOVE (R33): Starts streaming a READY or PAUSED sequence to another device and makes it MOVING. -/
  | stateMove (c : Cmd)
  /-- STATE_MIRROR (R72): Protects or unprotects a sequence at a partner; replies when the partner holds or has dropped every page. -/
  | stateMirror (c : Cmd)
  /-- STATE_FETCH (R292): Migrates the named page groups to the named tier regardless of age. -/
  | stateFetch (c : Cmd) (code : BitVec 12)
  /-- PAGE_LIST_SET (R103): Writes page-list entries atomically, placing, replacing or releasing groups. -/
  | pageListSet (c : Cmd) (entries : List (BitVec 32))
  /-- BAD_OPCODE_COMMAND (R66): A packet with a reserved or unlisted opcode is refused with BAD_OPCODE. -/
  | badOpcodeCommand (c : Cmd)
  /-- STEP_BOUNDARY (R26): At B(n) the partition commits step n, applies accepted commands, fixes the next batch and begins the next cycle. -/
  | stepBoundary (p : Fin 16)
  /-- BOUNDARY_SCHEDULED_TICK (R236): The scheduled tick of B(n) is reached; the boundary occurs then or when the last decode entry and the barrier release allow. -/
  | boundaryScheduledTick (p : Fin 16)
  /-- MIRROR_ACK (R383): The ACK covering a step's commit record arrives from the mirror, releasing token records, completion records and replies. -/
  | mirrorAck (p : Fin 16) (node : BitVec 16) (step : BitVec 64)
  /-- JOURNAL_ACK (R384): The group manager acknowledges a step's journal records, allowing the sequence's next commit. -/
  | journalAck (p : Fin 16) (step : BitVec 64)
  /-- COMMIT_RECORD_SEND (R383): The home sends a step's commit record once ACKs cover every append frame of the step. -/
  | commitRecordSend (p : Fin 16) (node : BitVec 16)
  /-- ARMATURE_ENTRY_START (R242): An armature entry starts at its START, or when its engines become free. -/
  | armatureEntryStart (p : Fin 16) (start : EntryStart)
  /-- KERNEL_COMPLETE (R242): A kernel or entry's work ends, freeing its engines and counting lateness. -/
  | kernelComplete (p : Fin 16) (entry : Nat) (work : KernelWork)
  /-- SYNC_POINT_REACH (R266): A member reaches a sync point and sends its sync message to every member. -/
  | syncPointReach (p : Fin 16) (point : Fin 64)
  /-- SYNC (R267): A sync message arrives and enters the release-tick computation. -/
  | sync (p : Fin 16) (src : BitVec 16) (m : SyncMsg)
  /-- SYNC_RELEASE (R267): A member passes a sync point at the later of the release tick and the arrival of every message. -/
  | syncRelease (p : Fin 16) (point : Fin 64)
  /-- SYNC_RESEND_TIMER (R365): A waiting member resends its sync message every 50 µs. -/
  | syncResendTimer (p : Fin 16)
  /-- SYNC_SLACK_EXPIRY (R267): Slack beyond the scheduled tick expires and waiting domains enter D1. -/
  | syncSlackExpiry (p : Fin 16)
  /-- MOVE_FLIP (R35): The destination holds every group and mirror acknowledgement and stamps the flip tick. -/
  | moveFlip (node : BitVec 16) (handle : BitVec 18)
  /-- MOVE_FLIP_ACK (R36): The flip acknowledgement reaches the source, which frees its copy and replies to STATE_MOVE. -/
  | moveFlipAck (handle : BitVec 18) (newHandle : BitVec 18) (flipTick : BitVec 64)
  /-- MOVE_ABANDON_REQUEST (R37): An abandon request reaches the destination, which answers ABANDONED or FLIPPED. -/
  | moveAbandonRequest (node : BitVec 16) (handle : BitVec 18)
  /-- MOVE_REFUSED (R88): The destination refuses a move for a geometry mismatch and the source restores the sequence. -/
  | moveRefused (handle : BitVec 18)
  /-- NEAR_BANK_DESCRIPTOR_ISSUE (R137): A channel sequencer issues a queued near-bank descriptor to its units. -/
  | nearBankDescriptorIssue (ch : Fin 64) (p : Fin 16) (d : NbIssue)
  /-- NEAR_BANK_OP_COMPLETE (R146): A near-bank operation ends and its results pass along the chain and reduce stages. -/
  | nearBankOpComplete (ch : Fin 64) (inp : NbInput)
  /-- NEAR_BANK_WATCHDOG (R130): A unit's watchdog ends an operation at 8,000 ticks, poisoning its result. -/
  | nearBankWatchdog (ch : Fin 64) (u : Fin 32) (fin : WatchdogEnd)
  /-- CHANNEL_SWITCH_COMPLETE (R129): A channel finishes its 200 ns switch into processor or memory mode. -/
  | channelSwitchComplete (ch : Fin 64)
  /-- LOGIC_ACCESS_HELD (R132): A logic-side access reaches a channel in processor mode and is held. -/
  | logicAccessHeld (ch : Fin 64) (a : LogicAccess)
  /-- MEMORY_MODE_WINDOW_EXPIRY (R133): A channel's memory-mode window reaches its minimum or maximum and may switch back. -/
  | memoryModeWindowExpiry (ch : Fin 64)
  /-- REFRESH_DUE (R131): A refresh falls due and is inserted between operations. -/
  | refreshDue (ch : Fin 64)
  /-- GEN_CHMODE_WRITE (R136): Setting FORCE_MEM holds the channel in memory mode after its running operation. -/
  | genChmodeWrite (fn : Fn) (ch : Fin 64) (lane : Lane) (v : BitVec 64)
  /-- GEN_DRAFT_CFG_WRITE (R169): A change of draft model, group or window is recorded and waits for draft rings to be released. -/
  | genDraftCfgWrite (fn : Fn) (lane : Lane) (v : BitVec 64)
  /-- DRAFT_CFG_APPLY (R169): A pending draft configuration takes effect once no sequence holds a draft ring. -/
  | draftCfgApply
  /-- DRAFT_RING_FILL_COMPLETE (R162): A draft ring is filled from the journal and the sequence may speculate. -/
  | draftRingFillComplete (fill : RingFill)
  /-- PANEL_FILL_COMPLETE (R184): An operand-buffer half is filled with the next panel after separator checks. -/
  | panelFillComplete (p : Fin 16) (tile : BitVec 8) (half : Bool) (panel : List BlockRead)
  /-- TILE_SRAM_ERROR (R187): An operand-buffer or accumulator check-bit error is corrected, or the panel refetched and the kernel rerun. -/
  | tileSramError (p : Fin 16) (tile : BitVec 8) (correctable : Bool) (accumulator : Bool) (temp : BitVec 8)
  /-- REPLAY_SAMPLE (R202): Every INTERVAL cycles a kernel is sampled and its inputs and output copied to the replay area. -/
  | replaySample (p : Fin 16) (sample : KernelSample)
  /-- REPLAY_COMPARE (R204): A replay tile recomputes the sampled kernel and compares it bit for bit, running a third tile on mismatch. -/
  | replayCompare (replay : Faults) (third : Faults) (temp : BitVec 8)
  /-- SELF_TEST (R206): Fixed stress patterns run on tiles and near-bank units in an IDLE slot. -/
  | selfTest (unit : TestUnit) (pattern : Fin 10) (signatureOk : Bool) (temp : BitVec 8)
  /-- PAGE_STEP (R538): The Ladle reads, transforms and sends or writes one page of bulk work in free time. -/
  | pageStep (job : PageJob)
  /-- MIGRATION_FLIP (R289): A migration's destination write completes and the page entry is rewritten to the new home. -/
  | migrationFlip (p : Fin 16) (page : BitVec 32)
  /-- CLOCK_HAND_VISIT (R294): The tier-1 clock hand visits a page, updating REF and AGE. -/
  | clockHandVisit
  /-- T2_AGE_TICK (R297): The tier-2 clock adds 1 to each lodged page's AGE once per AGE_PERIOD. -/
  | t2AgeTick
  /-- STALL_MAX_EXPIRY (R301): A waiting entry reaches STALL_MAX and sequences with missing pages are dropped from the step. -/
  | stallMaxExpiry (p : Fin 16) (entry : Nat)
  /-- TIR_PEER_CTRL_WRITE (R280): Write to a lodging's control enables it or starts its drain, or is refused while in use. -/
  | tirPeerCtrlWrite (fn : Fn) (i : Fin 16) (lane : Lane) (v : BitVec 64)
  /-- FLASH_READ_COMPLETE (R310): A granule read completes, with retries and soft decoding as needed. -/
  | flashReadComplete (granule : BitVec 30) (levels : List DecodeLevel)
  /-- FLASH_PROGRAM_COMPLETE (R537): The programs of a granule's pages complete. -/
  | flashProgramComplete (granule : BitVec 30) (ok : Bool)
  /-- JOURNAL_COMMIT (R306): The FTL commits its map-change journal at 4 MiB of changes or 100 ms, flipping covered migrations. -/
  | journalCommit (code : BitVec 12)
  /-- HOLDUP_RETRY (R312): A refused device-started store is tried again every 1 ms. -/
  | holdupRetry (code : BitVec 12)
  /-- GARBAGE_COLLECTION (R308): Free blocks fall below GC_START and valid codewords are relocated. -/
  | garbageCollection
  /-- STATIC_WEAR_LEVELLING (R308): The erase-count spread exceeds STATIC_DELTA and the lowest-count block is relocated. -/
  | staticWearLevelling
  /-- READ_DISTURB_REFRESH (R308): A block's reads reach READ_LIMIT and it is refreshed. -/
  | readDisturbRefresh (block : Nat)
  /-- RETENTION_SCRUB (R308): A block is read once every SCRUB_DAYS and queued for refresh if weak. -/
  | retentionScrub (block : Nat) (weak : Bool) (correctedBits : Nat)
  /-- GROWN_BAD_BLOCK (R308): A program or erase fails or ENDURANCE is reached and the block is retired. -/
  | grownBadBlock (block : Nat) (failed : Bool)
  /-- READ_REQ (R330): A read request frame is checked and served, stalled or answered RETRY_AFTER. -/
  | readReq (rx : Rx)
  /-- READ_RESP (R346): A read response frame returns data, or poison that ends the load. -/
  | readResp (rx : Rx)
  /-- WRITE (R330): A write frame is checked in connection order and its data written. -/
  | write (rx : Rx) (use : WriteUse)
  /-- WRITE_IMM (R334): A write with immediate deposits its data and a notification ring entry. -/
  | writeImm (rx : Rx)
  /-- FETCH_ADD (R333): An atomic fetch-and-add is applied and answered with the old value. -/
  | fetchAdd (rx : Rx)
  /-- SWAP (R333): An atomic swap is applied and answered with the old value. -/
  | swap (rx : Rx)
  /-- CAS (R333): An atomic compare-and-swap is applied and answered with the old value. -/
  | cas (rx : Rx)
  /-- ATOMIC_RESP (R335): An atomic response returns the old value to the issuer. -/
  | atomicResp (rx : Rx)
  /-- ACK (R341): An acknowledgement retires requests and updates the RTT estimate and congestion window. -/
  | ack (rx : Rx)
  /-- NAK (R335): A negative acknowledgement causes resend, wait or failure by its status. -/
  | nak (rx : Rx)
  /-- CONNECT (R336): A connect request allocates a context or is answered NAK NO_CONN. -/
  | connect (rx : Rx)
  /-- CONNECT_ACK (R336): A connect acknowledgement completes CONN_OPEN with the remote context. -/
  | connectAck (rx : Rx)
  /-- DISCONNECT (R336): A disconnect frame closes the remote side of a connection. -/
  | disconnect (rx : Rx)
  /-- DISCONNECT_ACK (R336): A disconnect acknowledgement completes CONN_CLOSE. -/
  | disconnectAck (rx : Rx)
  /-- RESERVED_OP_FRAME (R321): A frame with a reserved OP is discarded after the tag check and counted. -/
  | reservedOpFrame (rx : Rx)
  /-- ACK_TIMER (R335): An acknowledgement is sent within 2 µs of the oldest unacknowledged request. -/
  | ackTimer (conn : BitVec 16)
  /-- RETRANSMISSION_TIMEOUT (R335): The oldest unacknowledged request waits RTO_US and every unacknowledged frame is resent. -/
  | retransmissionTimeout (conn : BitVec 16)
  /-- RNR_WAIT_EXPIRY (R339): After RNR_WAIT_US the sender resends from the refused frame. -/
  | rnrWaitExpiry (conn : BitVec 16)
  /-- RETRY_AFTER_EXPIRY (R344): After ARG µs the sender resends a request answered RETRY_AFTER. -/
  | retryAfterExpiry (conn : BitVec 16)
  /-- CONTEXT_FETCH_COMPLETE (R339): A missed connection context is fetched and waiting frames proceed. -/
  | contextFetchComplete (conn : BitVec 16) (tagOk : Bool)
  /-- PAGING_STALL_LIMIT (R342): A stalled state-window request reaches STALL_LIMIT_US and is answered RETRY_AFTER. -/
  | pagingStallLimit (conn : BitVec 16)
  /-- DEAD_TARGET_TIMEOUT (R345): No response for TIMEOUT_US makes the connection DEAD and fails its operations. -/
  | deadTargetTimeout (conn : BitVec 16)
  /-- FRAME_TX_START (R368): A port chooses the next frame among open, fitting and credited queues. -/
  | frameTxStart (port : Fin 8)
  /-- PORT_LINK_DOWN (R337): A port goes down and its connections rebind to remaining ports. -/
  | portLinkDown (port : Fin 8)
  /-- PORT_LINK_UP (R315): A port's link trains and comes up. -/
  | portLinkUp (port : Fin 8)
  /-- OLD_EPOCH_EXPIRE (R348): The old map ceases to be live when OLD_INFLIGHT reaches 0 or 10 ms pass. -/
  | oldEpochExpire
  /-- HOST_WINDOW_WRITE (R332): A host memory write through a remote window becomes an Asith WRITE. -/
  | hostWindowWrite (fn : Fn) (w : Fin 16) (off : BitVec 26) (data : List (BitVec 8))
  /-- HOST_WINDOW_READ (R332): A host memory read through a remote window becomes a READ_REQ. -/
  | hostWindowRead (fn : Fn) (w : Fin 16) (off : BitVec 26) (len : Nat)
  /-- HOST_WINDOW_ATOMIC (R332): A host AtomicOp through a remote window becomes an Asith atomic. -/
  | hostWindowAtomic (fn : Fn) (w : Fin 16) (off : BitVec 26) (op : AtomicOp)
  /-- ASF_RWIN_IMM (R332): A write to a window's immediate register sends a WRITE_IMM with no payload. -/
  | asfRwinImm (fn : Fn) (w : Fin 16) (lane : Lane) (v : BitVec 64)
  /-- ASF_OWN_CMD (R327): A write moves a region's ownership to a new node. -/
  | asfOwnCmd (fn : Fn) (lane : Lane) (v : BitVec 64)
  /-- HOST_DRAM_ACCESS (R126): A host access through BAR4 reaches DRAM through the de-interleaved or interleaved view. -/
  | hostDramAccess (off : BitVec 38) (access : DramAccess)
  /-- GLB_BAR4_CFG_WRITE (R528): A write changes BAR4 mapping for requests received after it. -/
  | glbBar4CfgWrite (fn : Fn) (lane : Lane) (v : BitVec 64)
  /-- COPY_COMPARE (R352): Once per µs every local time copy is compared with the master count and reloaded if off. -/
  | copyCompare (copies : List (Nat × Int))
  /-- TIME_REQ_TIMER (R357): Each exchange interval the device sends TIME_REQ to its master. -/
  | timeReqTimer
  /-- TIME_REQ (R358): A node answers TIME_REQ from its own count with TIME_RESP. -/
  | timeReq (node : BitVec 16) (port : Fin 8) (t1 : BitVec 64)
  /-- TIME_RESP (R358): A TIME_RESP arrives and the offset is filtered and applied by slew. -/
  | timeResp (port : Fin 8) (t1 : BitVec 64) (t2 : BitVec 64) (t3 : BitVec 64)
  /-- TIME_CLK_IN_LOSS (R355): No TIME_CLK_IN edge for 10 µs makes the time base fall back to the system reference. -/
  | timeClkInLoss
  /-- TIME_CLK_IN_RETURN (R355): After 1 s of clean edges the time base returns to TIME_CLK_IN. -/
  | timeClkInReturn
  /-- PTP_MESSAGE (R361): A PTP message is processed as a slave-only ordinary clock or discarded. -/
  | ptpMessage (port : Fin 8) (m : PtpMsg)
  /-- SYNC_PPS_IN (R362): A rising PPS edge is timestamped and, with phase source 3, applied. -/
  | syncPpsIn
  /-- PPS_LOST (R362): No PPS edge for 1.5 s sets PPS_LOST and enters holdover. -/
  | ppsLost
  /-- SYNC_PPS_OUT (R363): The PPS output rises at each whole second and falls after WIDTH. -/
  | syncPpsOut
  /-- TMB_ADJ (R354): A write requests a step of the count, applied or refused under the step condition. -/
  | tmbAdj (fn : Fn) (lane : Lane) (v : BitVec 64)
  /-- GATE_ENTRY_ADVANCE (R369): A gate list entry's duration ends and the next entry's mask takes force. -/
  | gateEntryAdvance (port : Fin 8)
  /-- GATE_ARM (R370): Setting ARM arms the shadow gate list, or refuses the arm. -/
  | gateArm (fn : Fn) (port : Fin 8) (lane : Lane) (v : BitVec 64)
  /-- GATE_CANCEL (R370): Setting CANCEL disarms an armed gate swap. -/
  | gateCancel (fn : Fn) (port : Fin 8) (lane : Lane) (v : BitVec 64)
  /-- GATE_TAKEOVER (R370): The shadow gate list takes over at its swap tick or partition boundary. -/
  | gateTakeover (port : Fin 8)
  /-- BUCKET_REFILL (R372): Every 1,024 ticks each credit bucket gains RATE/256 credits. -/
  | bucketRefill
  /-- SHP_BUCKET_WRITE (R372): Enabling a bucket fills it with BURST credits. -/
  | shpBucketWrite (fn : Fn) (b : BucketId) (lane : Lane) (v : BitVec 64)
  /-- QUEUE_SAMPLE (R373): Every 4,000 ticks each sampled port's queues are recorded in the sample ring. -/
  | queueSample
  /-- SLICE_REQUEST (R380): A partner registers a mirror slice when a home asks and MAX_SLICES allows. -/
  | sliceRequest (home : BitVec 16)
  /-- MIRROR_COPY_COMPLETE (R385): A sequence's copy to a new partner completes and its commit records go there. -/
  | mirrorCopyComplete (handle : BitVec 18) (ok : Bool)
  /-- HEARTBEAT_TIMER (R386): Every BEAT_US the device sends a heartbeat to its manager and deputies. -/
  | heartbeatTimer
  /-- HEARTBEAT (R387): A heartbeat arrives and resets the watcher's timing, or triggers loss when FAILING. -/
  | heartbeat (rx : Rx)
  /-- SUSPICION_TIMER (R387): MISS_LIMIT intervals pass without a heartbeat and the manager probes the suspect. -/
  | suspicionTimer (node : BitVec 16)
  /-- LOSS_TIMER (R387): A further MISS_LIMIT intervals pass and the manager declares the device lost. -/
  | lossTimer (node : BitVec 16)
  /-- PROBE (R387): A probe is answered, or an answer ends the suspicion. -/
  | probe (rx : Rx)
  /-- DECISION (R388): A loss or spare decision arrives; recipients mark the node dead, derive a map and promote slices. -/
  | decision (rx : Rx)
  /-- DECISION_RESEND (R388): The manager resends DECISION each beat to recipients not yet on the new epoch. -/
  | decisionResend
  /-- DEPUTY_TAKEOVER_TIMER (R389): A deputy hears no beats from the manager and lower deputies and takes over. -/
  | deputyTakeoverTimer
  /-- TAKEOVER (R389): A takeover arrives with a higher term and the sender becomes acting manager. -/
  | takeover (rx : Rx)
  /-- SPARE_RETRY_TIMER (R394): Every 1 ms the manager retries spare assignment when none qualified. -/
  | spareRetryTimer
  /-- RECAST_FLIP (R395): A promoted sequence flips to the spare, whose copy becomes home with the partner as mirror. -/
  | recastFlip (handle : BitVec 18) (newHandle : BitVec 18)
  /-- ERROR_RAISED (R403): An error record is raised and handled by severity, pre-empting lower-severity handling. -/
  | errorRaised (e : ErrorReport)
  /-- CE_MERGE_WINDOW_END (R402): The 1 ms merge period of a corrected error ends and a summary record is written. -/
  | ceMergeWindowEnd (u : BitVec 8) (code : BitVec 16) (location : BitVec 64)
  /-- CE_THRESHOLD_WINDOW_END (R402): A threshold window ends and its count restarts at 0. -/
  | ceThresholdWindowEnd
  /-- GLB_ERRLOG_CTRL_WRITE (R531): Enabling the error log sets TAIL to HEAD; HEAD writes free entries. -/
  | glbErrlogCtrlWrite (fn : Fn) (lane : Lane) (v : BitVec 64)
  /-- DOMAIN_IDLE_TIMER (R412): A domain's idle timer expires and it enters D1, D2 or D3. -/
  | domainIdleTimer (d : Fin 102)
  /-- RIND_WAKE (R410): An access or work item held at the rind wakes a sleeping domain. -/
  | rindWake (d : Fin 102) (source : BitVec 4)
  /-- SCHEDULED_WAKE (R413): A sleeping domain's wake begins at the next entry's START minus its wake time. -/
  | scheduledWake (d : Fin 102)
  /-- DOMAIN_WAKE_COMPLETE (R417): A waking domain's save list is restored and its clock and rind released. -/
  | domainWakeComplete (d : Fin 102) (restoreOk : Bool)
  /-- C3_ENTRY (R432): After C3_IDLE_MS of idleness the device enters C3. -/
  | c3Entry
  /-- C3_EXIT (R432): A wake event returns the device from C3 to C0. -/
  | c3Exit (source : BitVec 4)
  /-- C5_ENTRY (R433): After C5_IDLE_S in C3 with conditions met the device enters C5. -/
  | c5Entry
  /-- C5_EXIT (R433): WAKE_N or link exit returns the device from C5 with its retained image checked. -/
  | c5Exit (source : BitVec 4) (imageOk : Bool)
  /-- CAPPING_WINDOW (R438): Each 1 ms window measures M, forms E, learns needs and compares them. -/
  | cappingWindow (sample : PowerSample)
  /-- AVS_RAISE (R428): A point raise writes the rail voltages and awaits VDone before raising clocks. -/
  | avsRaise (point : Fin 8)
  /-- VDONE_POLL (R428): Status is read every 2 µs until each rail reports VDone. -/
  | vdonePoll (core : Bool) (sram : Bool) (mem : Bool)
  /-- VDONE_TIMEOUT (R429): No VDone within VDONE_TIMEOUT_US is an AVSBus failure. -/
  | vdoneTimeout
  /-- AVS_BUSY_RETRY (R429): After a busy SlaveAck the write is resent after 10 µs. -/
  | avsBusyRetry (ackc : BitVec 2)
  /-- DROOP (R444): A supply droop doubles a domain's clock period for at least 64 cycles. -/
  | droop (d : Fin 102)
  /-- PWR_LIMIT_N (R445): The power-limit input drops tile and hub clocks to POINT within 1 µs. -/
  | pwrLimitN (asserted : Bool)
  /-- POWER_LIMIT_HOLD_EXPIRY (R445): HOLD_MS after release the loop raises points again. -/
  | powerLimitHoldExpiry
  /-- THERMAL_SAMPLE (R446): Every 10 µs logic and DRAM sensors are read and thermal actions taken. -/
  | thermalSample (logic : List (BitVec 8)) (dram : List (BitVec 8))
  /-- THROTTLE_STEP_TIMER (R446): A hot domain's point falls every 100 µs or rises every 1 ms after cooling. -/
  | throttleStepTimer (d : Fin 102)
  /-- RACK_SHARE_PERIOD (R436): Each PERIOD_MS the manager computes and sends each member's power share. -/
  | rackSharePeriod
  /-- DEMAND_RECORD (R437): Each period a member writes its demand record to the manager. -/
  | demandRecord
  /-- SHARE_RECORD (R437): A share record arrives and sets the member's share cap. -/
  | shareRecord (r : BitVec 128)
  /-- SHARE_FAILSAFE (R437): No share record for 4 periods makes the member use FAILSAFE_W and raise BUDGET_LOST. -/
  | shareFailsafe
  /-- CMP_DRAM_XTS_WRITE (R232): A write enables or disables a partition's DRAM encryption, or is refused and counted. -/
  | cmpDramXtsWrite (fn : Fn) (lane : Lane) (v : BitVec 64)
  /-- SCH_TENANT_WRITE (R253): A write assigns a tenant to a partition unless the tenant has open sequences. -/
  | schTenantWrite (fn : Fn) (t : BitVec 12) (lane : Lane) (v : BitVec 64)
  /-- SCH_PART_WRITE (R252): A write of BATCH_MAX below CAP sets CAP to BATCH_MAX. -/
  | schPartWrite (fn : Fn) (p : Fin 16) (lane : Lane) (v : BitVec 64)
  /-- REGISTER_WRITE (R522): A write to a register without behaviour of its own updates its writable fields. -/
  | registerWrite (fn : Fn) (off : BitVec 25) (size : Nat) (v : BitVec 64)
  /-- SEC_RECOVERY_GO (R460): Writing GO starts verification of a host-streamed image. -/
  | secRecoveryGo (fn : Fn) (lane : Lane) (v : BitVec 64)
  /-- DBG_HALT_RESUME (R488): Writing RESUME resumes a halted partition with a full-period cycle. -/
  | dbgHaltResume (fn : Fn) (p : Fin 16) (lane : Lane) (v : BitVec 64)
  /-- DBG_GSTOP_ASSERT (R489): Writing ASSERT begins a global stop and drives GSTOP_N. -/
  | dbgGstopAssert (fn : Fn) (lane : Lane) (v : BitVec 64)
  /-- PLASTER (R490): After a stop, scan-out of each domain's chains starts as the matrix allows. -/
  | plaster (jtag : Bool) (chains : List (Nat × BitVec 32 × BitVec 32))
  /-- JTAG_GSTOP (R489): The JTAG GSTOP instruction begins a global stop. -/
  | jtagGstop
  /-- JTAG_BOUNDARY_TAKEOVER (R476): EXTEST, CLAMP or HIGHZ hand the lands to boundary scan and raise a Device-fatal error. -/
  | jtagBoundaryTakeover
  /-- BREAKPOINT_HIT (R486): A debug trigger on a partition's core halts the partition as DEBUG_HALT does. -/
  | breakpointHit (core : Fin 16)
  /-- TRACE_FRAME (R485): The trace port sends a frame of 64 records over its lanes. -/
  | traceFrame
  /-- TRACE_RECORD (R484): A trace record enters the buffer, dropping an old segment or stalling when full. -/
  | traceRecord (r : TraceRec)
  /-- GET_VERSION (R465): SPDM request for supported versions. -/
  | getVersion
  /-- GET_CAPABILITIES (R465): SPDM request for responder capabilities. -/
  | getCapabilities
  /-- NEGOTIATE_ALGORITHMS (R465): SPDM request negotiating algorithms. -/
  | negotiateAlgorithms (offer : SpdmOffer)
  /-- GET_DIGESTS (R465): SPDM request for certificate chain digests. -/
  | getDigests
  /-- GET_CERTIFICATE (R465): SPDM request for the slot 0 certificate chain. -/
  | getCertificate (slot : BitVec 8) (off : BitVec 16) (len : BitVec 16)
  /-- CHALLENGE (R465): SPDM challenge signed with the Alias key. -/
  | challenge (nonce : BitVec 256)
  /-- GET_MEASUREMENTS (R466): SPDM request returning the five measurement blocks. -/
  | getMeasurements (index : BitVec 8) (signed : Bool)
  /-- KEY_EXCHANGE (R465): SPDM key exchange starting a secured session. -/
  | keyExchange (key : List (BitVec 8))
  /-- FINISH (R465): SPDM finish completing a secured session. -/
  | finish (verifyOk : Bool)
  /-- SPDM_HEARTBEAT (R465): SPDM session heartbeat. -/
  | spdmHeartbeat
  /-- KEY_UPDATE (R465): SPDM session key update. -/
  | keyUpdate (op : BitVec 8)
  /-- END_SESSION (R465): SPDM request ending a secured session. -/
  | endSession
  /-- CHUNK_GET (R465): SPDM request for a chunk of a large response. -/
  | chunkGet (chunk : BitVec 16)
  /-- SET_NODE_KEY (R469): Vendor-defined SPDM request installing a node key generation inside a secured session. -/
  | setNodeKey (inSession : Bool) (opcode : BitVec 8) (node : BitVec 16) (gen : BitVec 8) (key : BitVec 256)
  /-- SPDM_UNSUPPORTED_REQUEST (R465): An SPDM request outside the supported set is answered UnsupportedRequest. -/
  | spdmUnsupportedRequest (code : BitVec 8)
  /-- COLD_START (R507): VDD_AON comes within range and the plinth begins power-on. -/
  | coldStart (inp : ColdStart)
  /-- RAIL_SEQUENCE_START (R506): At 1,000 ms, absent STAY_OFF, the plinth begins enabling rails. -/
  | railSequenceStart
  /-- RAIL_IN_RANGE (R497): A rail is within range for 2 ms and the next rail is enabled. -/
  | railInRange
  /-- RAIL_FAULT (R508): A rail fails to come within range in 18 ms and the plinth shuts down to FAULT. -/
  | railFault
  /-- CLOCKS_LOCKED (R507): Loops lock on the system reference and the hub is released at stage CLOCKS. -/
  | clocksLocked
  /-- DRAM_INIT_COMPLETE (R507): DRAM PHYs are trained and all DRAM written with zeros and check bytes. -/
  | dramInitComplete
  /-- BOOT_VERIFY (R458): The boot ROM reads and verifies the firmware image, or enters recovery. -/
  | bootVerify (flashAnswers : Bool) (image : List (BitVec 8))
  /-- DICE_DERIVATION_COMPLETE (R462): The DICE identity keys and Alias certificate are derived and control core 0 starts. -/
  | diceDerivationComplete (certMatches : Bool)
  /-- FIRMWARE_INIT_COMPLETE (R507): Firmware finishes tile map, self-tests and link training and the device reaches READY. -/
  | firmwareInitComplete (inp : FirmwareInit)
  /-- FTL_IN_SERVICE (R507): FTL start-up reads, map rebuild and trim complete and tier 3 enters service. -/
  | ftlInService (targets : List FlashTarget)
  /-- XTAL_ABSENT (R498): The crystal is absent for 1 s and the plinth runs from its RC oscillator. -/
  | xtalAbsent
  /-- REF_ABSENT (R498): The system reference is absent for 100 ms and start-up enters FAULT. -/
  | refAbsent
  /-- PORT_REF_ABSENT (R498): A fabric reference is absent and its ports stay down. -/
  | portRefAbsent (refB : Bool)
  /-- PERST_N (R511): PERST_N asserts a fundamental reset; release restarts from stage CLOCKS. -/
  | perstN (asserted : Bool)
  /-- PCIE_HOT_RESET (R524): A PCIe hot reset is handled as a fundamental reset. -/
  | pcieHotReset
  /-- PCIE_LINK_DOWN (R401): The PCIe link goes down, raising a Device-fatal error. -/
  | pcieLinkDown
  /-- FUNCTION_LEVEL_RESET (R525): FLR of a virtual function resets its partition, deletes its queues and clears its windows. -/
  | functionLevelReset (p : Fin 16)
  /-- GSTOP_N (R489): An asserted GSTOP_N stops every clock domain but the plinth's. -/
  | gstopN (asserted : Bool)
  /-- PFAIL_N (R313): Power failure stops new FTL writes and makes one last journal commit. -/
  | pfailN (asserted : Bool)
  /-- WAKE_N (R504): WAKE_N returns the device from C3 or C5. -/
  | wakeN (asserted : Bool)
  /-- ALERT_N (R504): ALERT_N triggers a status read on both AVSBus masters. -/
  | alertN (asserted : Bool)
  /-- HOLDUP_OK (R504): HOLDUP_OK low refuses every persistent store until release. -/
  | holdupOk (asserted : Bool)
  /-- INPUT_EVENT_WINDOW_END (R503): At the end of an input's 100 µs merge period a further event reports a changed level. -/
  | inputEventWindowEnd (i : Fin 8)
  /-- INPUT_STUCK (R504): An input asserted beyond its stuck limit is declared stuck and its stuck action taken. -/
  | inputStuck (i : Fin 8)
  /-- STATUS (R514): SMBus read of the device status word, releasing SMB_ALERT_N. -/
  | status
  /-- TEMPS (R514): SMBus read of the hottest temperatures. -/
  | temps
  /-- POWER (R514): SMBus read of measured power, cap and energy. -/
  | power
  /-- INPUTS (R514): SMBus read of the filtered input states. -/
  | inputs
  /-- RECORD (R514): SMBus read of the oldest unread plinth record. -/
  | record
  /-- BOARD_CAP (R514): SMBus write of the board power cap. -/
  | boardCap (v : BitVec 16) (pecOk : Bool)
  /-- RACK_BUDGET (R514): SMBus write of the rack budget. -/
  | rackBudget (v : BitVec 24) (pecOk : Bool)
  /-- RECOVERY (R514): SMBus write arming or cancelling host-stream recovery at the next start-up. -/
  | recovery (v : BitVec 8) (pecOk : Bool)
  /-- POWER_ON (R514): SMBus command beginning the rail sequence from C6. -/
  | powerOn (v : BitVec 8) (pecOk : Bool)
  /-- POWER_OFF (R512): SMBus command stopping partitions and removing the rails. -/
  | powerOff (v : BitVec 8) (pecOk : Bool)
  /-- STAY_OFF (R514): SMBus command holding or releasing the device in C6 before its rail sequence. -/
  | stayOff (v : BitVec 8) (pecOk : Bool)
  /-- SET_ADDR (R514): SMBus command changing the target address from the next transaction. -/
  | setAddr (v : BitVec 8) (pecOk : Bool)
  /-- ALERT_RESPONSE_ADDRESS (R513): The SMBus target answers the Alert Response Address. -/
  | alertResponseAddress
  /-- ABANDONED_ANSWER (R37): The destination's answer ABANDONED reaches the move source, which makes the sequence DONE with reason CANCELLED, replies ALREADY_DONE to STATE_MOVE and OK to SEQ_CANCEL. -/
  | abandonedAnswer (handle : BitVec 18)
  /-- JTAG_BOUNDARY_RELEASE (R476): EXTEST, CLAMP or HIGHZ leaves the JTAG instruction register and the device resets. -/
  | jtagBoundaryRelease
  /-- PCIE_LINK_UP (R531): The PCIe link trains and comes up, and error records held while it was down are written to an enabled log. -/
  | pcieLinkUp
  /-- SEC_FUSE_PROG_WRITE (R455): A management-function write to SEC_FUSE_PROG in BLANK or PROVISIONED blows the owner debug-key hash, second vendor key slot or BOOT_SOURCE fuse, and is ignored from FIELD onwards. -/
  | secFuseProgWrite (fn : Fn) (i : Fin 16) (lane : Lane) (v : BitVec 64)
  /-- IDE_KM_REQUEST (R467): An IDE_KM request inside an SPDM secured session programs or activates the keys of the link or a selective IDE stream. -/
  | ideKmRequest (inSession : Bool) (stream : Fin 9) (action : IdeAction)
  /-- CORE_WATCHDOG (R401): A control core's watchdog runs out, raising a Partition-fatal error and partition reset (cause 5) or a Device-fatal error. -/
  | coreWatchdog (core : Fin 16)
  /-- FLASH_ERASE_COMPLETE (R308): A NAND block erase ends, its erase count advances and it rejoins the free blocks, or a suspended erase resumes. -/
  | flashEraseComplete (block : Nat) (suspended : Bool)
  /-- HOST_READ_COMPLETION (R52): Completion data for a device read of host memory (command packets, tables, weights, buffers, context records) arrives, or the read fails or returns poison. -/
  | hostReadCompletion (r : HostRead)
  /-- SUPPLIES_REMOVED (R434): The board removes the device's supplies, or VDD_AON, and the device enters C6, losing DRAM contents and what the plinth does not keep. -/
  | suppliesRemoved (aonToo : Bool)
deriving DecidableEq, Repr

end Sys2Proof
end

