-- ==== Sys2Proof/Decode.lean ====
section
/-! DEFINITION. Which command a word spells. The spec's table gives none of its rows any bits: its commands are packets,
register accesses, frames, pin events and timers, not words of an encoding. -/

set_option Elab.async false

namespace Sys2Proof

/-- The command that a word spells by the table's bits. No row of the table has bits, so no word spells one. -/
def decodeTableWord (_nbits _w : Nat) : Option Instr := none

end Sys2Proof
end

