-- ==== Sys2Proof/Config.lean ====
section
/-! DEFINITION. What an implementation fixes and what the spec leaves open: the free values, and the functions of
standards that the spec names without stating them (cryptography). None has a body, so nothing can be proved of a
value of one. -/

set_option Elab.async false

namespace Sys2Proof.Config

/-- A fresh value each time: the model's counter `State.freeCtr` is its argument. -/
opaque freeWord : Nat → BitVec 64

/-- SHA-384 (FIPS 180-4), which the spec names and does not state (R457). -/
opaque sha384 : List (BitVec 8) → BitVec 384

/-- RSASSA-PSS verification with RSA-4096 and SHA-384 (R457): modulus, message, signature. -/
opaque pssVerify : List (BitVec 8) → List (BitVec 8) → List (BitVec 8) → Bool

/-- RSASSA-4096 signature made with the private key that the prime search of R462 draws from a seed (R465). -/
opaque aliasSign : BitVec 384 → List (BitVec 8) → BitVec 4096

/-- HMAC-SHA-384 (R462): key, message. -/
opaque hmac384 : BitVec 384 → List (BitVec 8) → BitVec 384

/-- The key derivation of NIST SP 800-108 in counter mode with HMAC-SHA-384 (R462): key, label, context. -/
opaque kdf : BitVec 384 → List (BitVec 8) → List (BitVec 8) → BitVec 384

/-- The modulus of the key pair that the prime search of R462 draws from a seed. -/
opaque deviceIdModulus : BitVec 384 → List (BitVec 8)

/-- The DeviceID certificate that the device signs itself with the key of a seed (R464). -/
opaque selfSigned : BitVec 384 → List (BitVec 8)

/-- The Alias certificate (R462): signed with the key of the DeviceID seed for the key of the Alias seed. -/
opaque aliasCert : BitVec 384 → BitVec 384 → List (BitVec 8)

/-- The DeviceID certificate in the certificate area of boot flash as the device left provisioning (R464). -/
opaque storedCert : List (BitVec 8)

/-- The chain of slot 0 (R465) in SPDM's format, from the DeviceID certificate and the Alias certificate. -/
opaque certChain : List (BitVec 8) → List (BitVec 8) → List (BitVec 8)

/-- SHA-384 of the fuse shadows other than UDS (R466), whose layout the spec does not give, by what they hold. -/
opaque fuseDigest : List Nat → BitVec 384

/-- The largest SPDM response that goes out whole; a larger one is fetched by CHUNK_GET (R465), whose sizes the spec does not give. -/
opaque spdmTransfer : Nat

/-- SHA-384 of the boot ROM (R466). -/
opaque bootRomDigest : BitVec 384

/-- The hash in a vendor key slot's fuses (R458 step 3), by the slot and the fuse words that the machine has blown itself. -/
opaque vendorKeyHash : Nat → List (Nat × BitVec 64) → BitVec 384

/-- The owner debug-key hash in its fuses (R455), by the fuse words that the machine has blown itself. -/
opaque ownerKeyHash : List (Nat × BitVec 64) → BitVec 384

/-- What a programming word of SEC_FUSE_PROG blows (R455): 0 the owner debug-key hash, 1 the second vendor key slot, 2 the BOOT_SOURCE
fuse, anything else nothing that GLB_LIFECYCLE shows. The spec does not give the words' order. -/
opaque fuseWord : Nat → Nat

/-- Whether a control core runs a partition's firmware (R492, DBG_HALT.CORES): the firmware's choice. -/
opaque coreRuns : Nat → Nat → Bool

/-- The bits that the device's entropy source yields at a draw (R453, R468), by the model's counter. -/
opaque entropy : Nat → BitVec 384

/-- AES-256-XTS of one 32-byte sector (R231): partition, sector number, the key's draw, plaintext. -/
opaque xtsEncrypt : Nat → Nat → Nat → BitVec 256 → BitVec 256

/-- The inverse direction of R231. -/
opaque xtsDecrypt : Nat → Nat → Nat → BitVec 256 → BitVec 256

/-- What AES-256-XTS gives for stored blocks that were encrypted under a key that is no longer in force (R233), by write and plaintext. -/
opaque wrongKey : Nat → List (BitVec 8) → List (BitVec 8)

/-- Whether firmware holds a tier-1 frame back from the page-frame pool (R284), by unit and frame, for a given
generation of its layout: which frames firmware data, weights, the flash map and the lending reserve occupy is
firmware's choice. -/
opaque frameWithheld : Nat → Nat → Nat → Bool

/-- The tier-1 frame, as unit · 1,536 + frame, that firmware sets aside as lent frame `k` (R284, R299), for a given generation of its
layout: the spec gives the number of lent frames and not their places. -/
opaque lendFrame : Nat → Nat → Nat

/-- The hold-up converter's code (R311) at the check the counter numbers. -/
opaque holdupCode : Nat → BitVec 12

/-- Why a domain outside the spec's tables is needed by an entry: the physical tile of a unit of work that the
issuer's firmware chose (R183). -/
opaque firmwareChoice : Nat → Nat

/-- Where, in steps of 64 KiB, a partner's or a manager's firmware lays a region that it grants (R380, R384), by the model's counter. -/
opaque regionPlace : Nat → Nat

/-- The failure domain of the partner that promotes a lost node's slices, as the manager learns it (R394); the spec gives the message no
layout. -/
opaque promoterDomain : Nat → Nat

/-- A command of a lost device as its last acknowledged control copy lists it (R82, R393): the manager reply queue that its queue names,
its queue, tag and opcode, and the handle that it names; kind 0 took effect, with its recorded status, effect tick and result; 1 a
SEQ_PROMPT whose first token is not committed; 3 a STATE_MOVE under way; any other not yet in effect. -/
structure LostCommand where
  reply : Nat
  handle : Nat
  queue : Nat
  tag : Nat
  op : Nat
  kind : Nat
  status : Nat
  effTick : Nat
  result : Nat

/-- A sequence of a lost device: its old handle, its new node, partition and handle, and whether it is rebuilt. -/
structure LostSequence where
  old : Nat
  node : Nat
  part : Nat
  handle : Nat
  rebuilt : Bool

/-- The command list that the promoting partner of a lost node sends to the manager; the spec gives the control copy no layout. -/
opaque lostCommands : Nat → Nat → List LostCommand

/-- The sequences that partners of a lost node have promoted, as they tell the manager. -/
opaque lostSequences : Nat → Nat → List LostSequence

/-- Whether a command queue of a lost node names a manager reply queue. -/
opaque namesReplyQueue : Nat → Nat → Bool

/-- Whether a node has promoted sequences of a lost home, as the manager learns it. -/
opaque promotedAt : Nat → Nat → Bool

/-- The sequences of a lost home whose recast the loss of the promoting node ends, by home and node: those that were not copied whole are
rebuilt (R398). -/
opaque recastSequences : Nat → Nat → Nat → List LostSequence

/-- How a STATE_MOVE ends whose destination is lost, as the manager tells the source with the results of its decision (R38): kind 0 lost
before the flip tick, 1 promoted at the destination's mirror, 2 rebuilt there, any other held there without a handle until the recast
flip; and the node, partition and handle of the new home. -/
structure MoveOutcome where
  kind : Nat
  node : Nat
  part : Nat
  handle : Nat
deriving Inhabited

/-- The outcome for a destination and the source's handle, by the model's counter; the spec gives the manager's message no layout. -/
opaque moveOutcome : Nat → Nat → Nat → MoveOutcome

/-- Whether a domain lies beside a logic temperature sensor (R446): sensor and domain; the spec gives no floor plan. -/
opaque besideSensor : Nat → Nat → Bool

/-- The node of a member of a lockstep group (R264): group and member; the spec gives members no node numbers. -/
opaque memberNode : Nat → Nat → Nat

end Sys2Proof.Config
end

