-- ==== Sys2Proof/AMap.lean ====
section
/-! DEFINITION. Sparse tables with natural-number keys, kept in one canonical form: keys strictly rising. -/

set_option Elab.async false

namespace Sys2Proof

/-- A sparse table: key and value pairs, keys strictly rising. -/
abbrev AMap (α : Type) := List (Nat × α)

/-- The value at a key, if the key is listed. -/
def mget {α : Type} : AMap α → Nat → Option α
  | [], _ => none
  | (k, v) :: m, x => if k = x then some v else mget m x

/-- The value at a key, or the given default. -/
def mgetD {α : Type} (m : AMap α) (x : Nat) (d : α) : α := (mget m x).getD d

/-- Lists `v` at key `x`, in place of any value listed there. -/
def mset {α : Type} : AMap α → Nat → α → AMap α
  | [], x, v => [(x, v)]
  | (k, w) :: m, x, v =>
    if x < k then (x, v) :: (k, w) :: m
    else if x = k then (x, v) :: m
    else (k, w) :: mset m x v

/-- Takes key `x` out of the table. -/
def mdel {α : Type} : AMap α → Nat → AMap α
  | [], _ => []
  | (k, w) :: m, x => if k = x then m else (k, w) :: mdel m x

/-- Changes the value at `x` where one is listed. -/
def mmod {α : Type} (m : AMap α) (x : Nat) (f : α → α) : AMap α :=
  match mget m x with
  | some v => mset m x (f v)
  | none => m

/-- Changes every listed value. -/
def mmap {α : Type} (m : AMap α) (f : Nat → α → α) : AMap α := m.map fun kv => (kv.1, f kv.1 kv.2)

/-- Keeps the pairs that satisfy the test. -/
def mfilter {α : Type} (m : AMap α) (f : Nat → α → Bool) : AMap α := m.filter fun kv => f kv.1 kv.2

/-- Whether a key is listed. -/
def mhas {α : Type} (m : AMap α) (x : Nat) : Bool := (mget m x).isSome

/-- The canonical form: keys strictly rising. -/
def mwf {α : Type} : AMap α → Bool
  | [] => true
  | [_] => true
  | (a, _) :: (b, v) :: m => decide (a < b) && mwf ((b, v) :: m)

end Sys2Proof
end

