-- ==== Sys2Proof/Machine/Registers.lean ====
section
/-! DEFINITION. The register bank: every register of BAR0 as the spec lays it out, with its offset, its
instances, and each field's place, access type, reset value and accepted range. -/

set_option Elab.async false

namespace Sys2Proof.Machine

/-- The access types of R13. -/
inductive Acc where
  | ro | rw | w1c | w1s | rc | wo
deriving DecidableEq, Repr

/-- The registers of BAR0 (R533); a register with several instances is one constructor. -/
inductive Reg where
  /-- CMD_ADMQ_CTRL at 0x010_0000 (R52): Enable and depth of the function's administration pair. -/
  | cmdAdmqCtrl
  /-- CMD_ADMQ_CMD_BASE at 0x010_0008 (R52): Host address of the administration command queue, 4 KiB aligned. -/
  | cmdAdmqCmdBase
  /-- CMD_ADMQ_REPLY_BASE at 0x010_0010 (R52): Host address of the administration reply queue, 4 KiB aligned. -/
  | cmdAdmqReplyBase
  /-- CMD_QFAULT at 0x010_0018 (R52): Most recent queue fault. -/
  | cmdQfault
  /-- CMD_INFLIGHT at 0x010_0020 (R52): Accepted, unreplied commands of the function's partition, RO, bits 16:0. -/
  | cmdInflight
  /-- CMD_RING_SKIP at 0x010_0100 + 8 × p (R52): Token-ring-full sit-outs of partition p, RC, bits 31:0. -/
  | cmdRingSkip
  /-- CMD_REPLY_WAIT at 0x010_0200 + 8 × q (R52): Replies held because reply queue q was full, RC, bits 31:0. -/
  | cmdReplyWait
  /-- LDL_META at 0x020_0000 (R120): Free leaf chunks of the pool. -/
  | ldlMeta
  /-- LDL_WALK_MISS at 0x020_0008 (R120): Leaf-chunk fetches from tier 1, RC, bits 31:0. -/
  | ldlWalkMiss
  /-- LDL_BIAS_FIX at 0x020_0010 (R120): Bias entries read as −∞ under R117, RC, bits 31:0. -/
  | ldlBiasFix
  /-- LDL_META_FAULT at 0x020_0018 (R120): Unassigned entries found under R102, RC, bits 15:0. -/
  | ldlMetaFault
  /-- LDL_QUANT_STAT at 0x020_0100 + 8 × p (R120): Append and quantisation counts of partition p. -/
  | ldlQuantStat
  /-- LDL_NOPAGE_SKIP at 0x020_0200 + 8 × p (R120): Sit-outs of partition p under R96, RC, bits 31:0. -/
  | ldlNopageSkip
  /-- LDL_GROUPS at 0x020_0300 + 8 × p (R120): Page groups assigned in partition p, RO, bits 31:0. -/
  | ldlGroups
  /-- GEN_MMWIN at 0x040_0000 (R169): Memory-mode window limits. -/
  | genMmwin
  /-- GEN_DRAFT_CFG at 0x040_0008 (R169): Draft weight set, reserved group and ring window. -/
  | genDraftCfg
  /-- GEN_APERTURE_HOLE at 0x040_0010 (R169): Accesses beyond the aperture under R127, RC, bits 31:0. -/
  | genApertureHole
  /-- GEN_CHMODE at 0x040_0100 + 8 × c (R169): Mode and switch count of channel c. -/
  | genChmode
  /-- GEN_CH_WAIT at 0x040_0300 + 8 × c (R169): Held-access counts of channel c. -/
  | genChWait
  /-- GEN_CH_UNITS at 0x040_0500 + 8 × c (R169): Quarantine state of channel c. -/
  | genChUnits
  /-- GEN_CH_ECC at 0x040_0700 + 8 × c (R169): Check-byte events seen by the units of channel c. -/
  | genChEcc
  /-- GEN_SPEC_STAT at 0x040_0900 + 8 × p (R169): Speculation counts of partition p. -/
  | genSpecStat
  /-- GEN_CROSSOVER at 0x040_1000 + 8 × l (R169): Thin/dense crossover of layer l, 0 to 255. -/
  | genCrossover
  /-- PRM_STATUS at 0x080_0000 (R210): Tile health, spares and SRAM error counts. -/
  | prmStatus
  /-- PRM_REPLAY at 0x080_0008 (R210): Replay control. -/
  | prmReplay
  /-- PRM_REPLAY_STAT at 0x080_0010 (R210): Replay counts. -/
  | prmReplayStat
  /-- PRM_SELFTEST at 0x080_0018 (R210): Self-test control and status. -/
  | prmSelftest
  /-- PRM_SELFTEST_TEMP at 0x080_0020 (R210): Temperature of the last pass of patterns 0 to 7, one byte each, pattern 0 in bits 7:0; RO. -/
  | prmSelftestTemp
  /-- PRM_SELFTEST_TEMP2 at 0x080_0028 (R210): As above for patterns 8 and 9 in bits 15:0; bits 63:16 reserved; RO. -/
  | prmSelftestTemp2
  /-- PRM_PART at 0x080_0100 + 8 × p (R210): Tile groups and prompt settings of partition p. -/
  | prmPart
  /-- PRM_GROUP at 0x080_0200 + 8 × g (R210): Owner and state of logical group g, 0 to 23. -/
  | prmGroup
  /-- PRM_TILE_MAP at 0x080_0400 + 8 × i (R210): Physical tile of logical tile i, 0 to 191. -/
  | prmTileMap
  /-- PRM_QREC_TICK at 0x080_1000 + 16 × j (R210): Quarantine record j, 0 to 63, under R209. -/
  | prmQrecTick
  /-- PRM_QREC_INFO at 0x080_1008 + 16 × j (R210): Quarantine record j, under R209. -/
  | prmQrecInfo
  /-- CMP_CHURN at 0x0A0_0000 (R234): Churn pass progress. -/
  | cmpChurn
  /-- CMP_STAT at 0x0A0_0008 (R234): Block and refusal counts. -/
  | cmpStat
  /-- CMP_ERR_INFO at 0x0A0_0010 (R234): Most recent expander error. -/
  | cmpErrInfo
  /-- CMP_ERR_BLOCK at 0x0A0_0018 (R234): Header word 1 of the block of that error, RO, bits 63:0. -/
  | cmpErrBlock
  /-- CMP_DRAM_XTS at 0x0A0_0020 (R234): DRAM encryption enables. -/
  | cmpDramXts
  /-- SCH_SKIM_CFG at 0x0B0_0000 (R274): Prompt charge of the skimmer. -/
  | schSkimCfg
  /-- SCH_PART at 0x0B0_0100 + 8 × p (R274): Table state, batch limit and cap of partition p. -/
  | schPart
  /-- SCH_PERIOD at 0x0B0_0200 + 8 × p (R274): Period and stretch in force. -/
  | schPeriod
  /-- SCH_SWAP_TICK at 0x0B0_0300 + 8 × p (R274): Pending swap tick, RO, bits 63:0; 0 when none is pending. -/
  | schSwapTick
  /-- SCH_STEP at 0x0B0_0400 + 8 × p (R274): Boundary count, RO, bits 63:0. -/
  | schStep
  /-- SCH_GOAL at 0x0B0_0500 + 8 × p (R274): Latency goal. -/
  | schGoal
  /-- SCH_LATE at 0x0B0_0600 + 8 × p (R274): Lateness and void counts. -/
  | schLate
  /-- SCH_SKIP at 0x0B0_0700 + 8 × p (R274): Hold and shed sit-outs. -/
  | schSkip
  /-- SCH_SKIP2 at 0x0B0_0800 + 8 × p (R274): Mirror-late and group-excluded sit-outs. -/
  | schSkip2
  /-- SCH_GROUP at 0x0B0_0900 + 8 × p (R274): Lockstep group membership. -/
  | schGroup
  /-- SCH_RESET at 0x0B0_0A00 + 8 × p (R274): Partition reset record. -/
  | schReset
  /-- SCH_SYNC at 0x0B0_0B00 + 8 × p (R274): Release lag and lag misses of a group partition (R267). -/
  | schSync
  /-- SCH_TENANT at 0x0B1_0000 + 8 × t (R274): Assignment and hold of tenant t, 0 to 4,095; management function only. -/
  | schTenant
  /-- SCH_TENANT_BUDGET at 0x0B2_0000 + 8 × t (R274): Budget of tenant t in 2^−16 tokens, two's complement, RO, bits 63:0; management function only. -/
  | schTenantBudget
  /-- TIR_CFG at 0x0C0_0000 (R314): Ageing and stall limits. -/
  | tirCfg
  /-- TIR_T1_WM at 0x0C0_0008 (R314): Tier-1 watermarks. -/
  | tirT1Wm
  /-- TIR_POOL at 0x0C0_0010 (R314): Page-frame pool. -/
  | tirPool
  /-- TIR_LEND at 0x0C0_0018 (R314): Lending reserve and tier-0 slots. -/
  | tirLend
  /-- TIR_EVICT at 0x0C0_0020 (R314): Eviction counts. -/
  | tirEvict
  /-- TIR_STALL at 0x0C0_0100 + 8 × c (R314): Stall counts of cause c, 1 to 8. -/
  | tirStall
  /-- TIR_PEER_CTRL at 0x0C0_0200 + 32 × i (R314): Lodging i, 0 to 15. -/
  | tirPeerCtrl
  /-- TIR_PEER_BASE at 0x0C0_0208 + 32 × i (R314): Region base and slots of lodging i. -/
  | tirPeerBase
  /-- TIR_PEER_USED at 0x0C0_0210 + 32 × i (R314): Slots in use in lodging i, RO, bits 23:0. -/
  | tirPeerUsed
  /-- TIR_OCC_LO at 0x0C1_0000 + 16 × t (R314): Occupancy of tenant t in tiers 0 to 2. -/
  | tirOccLo
  /-- TIR_OCC_HI at 0x0C1_0008 + 16 × t (R314): Occupancy of tenant t in tier 3. -/
  | tirOccHi
  /-- FTL_POLICY at 0x0D0_0000 (R314): Flash thresholds. -/
  | ftlPolicy
  /-- FTL_POLICY2 at 0x0D0_0008 (R314): Flash thresholds. -/
  | ftlPolicy2
  /-- FTL_HEALTH at 0x0D0_0010 (R314): Flash state. -/
  | ftlHealth
  /-- FTL_LDPC at 0x0D0_0018 (R314): Decoding counts. -/
  | ftlLdpc
  /-- FTL_HOLDUP_CFG at 0x0D0_0020 (R314): Hold-up bank. -/
  | ftlHoldupCfg
  /-- FTL_HOLDUP_COST at 0x0D0_0028 (R314): Hold-up costs. -/
  | ftlHoldupCost
  /-- FTL_HOLDUP at 0x0D0_0030 (R314): Last hold-up check. -/
  | ftlHoldup
  /-- ASF_NODE at 0x100_0000 (R350): Own node and failure domain. -/
  | asfNode
  /-- ASF_MAC at 0x100_0008 (R350): BASE_MAC, RW, bits 47:0; bits 63:48 reserved. -/
  | asfMac
  /-- ASF_FRAME_CFG at 0x100_0010 (R350): Encapsulation. -/
  | asfFrameCfg
  /-- ASF_TIMERS at 0x100_0018 (R350): Timers and limits. -/
  | asfTimers
  /-- ASF_PAGING at 0x100_0020 (R350): Demand paging limits and counts. -/
  | asfPaging
  /-- ASF_WINDOW_CFG at 0x100_0028 (R350): Delay target. -/
  | asfWindowCfg
  /-- ASF_CTX_BASE at 0x100_0030 (R350): Backing store host address, RW, bits 63:12; bits 11:0 reserved. -/
  | asfCtxBase
  /-- ASF_CTX_STAT at 0x100_0038 (R350): Context counts. -/
  | asfCtxStat
  /-- ASF_EPOCH at 0x100_0040 (R350): Epoch state. -/
  | asfEpoch
  /-- ASF_FAULT at 0x100_0048 (R350): Most recent operation failure. -/
  | asfFault
  /-- ASF_RX_DROP at 0x100_0050 (R350): Receive drops and refusals. -/
  | asfRxDrop
  /-- ASF_NOTIFY_BASE at 0x100_0100 + 16 × r (R350): Ring r (0 to 15 partitions, 16 management): host address, RW, bits 63:12. -/
  | asfNotifyBase
  /-- ASF_NOTIFY_CTRL at 0x100_0108 + 16 × r (R350): Ring r control. -/
  | asfNotifyCtrl
  /-- ASF_OWN_CMD at 0x100_0300 (R350): Ownership move. -/
  | asfOwnCmd
  /-- ASF_OWN_STAT at 0x100_0308 (R350): Ownership move status. -/
  | asfOwnStat
  /-- ASF_RWIN_TARGET at 0x101_0000 + 32 × w (R350): Window w, 0 to 15: NODE RW bits 63:48, OFFSET RW bits 47:0 in multiples of 4,096. -/
  | asfRwinTarget
  /-- ASF_RWIN_CTRL at 0x101_0008 + 32 × w (R350): Window w control. -/
  | asfRwinCtrl
  /-- ASF_RWIN_IMM at 0x101_0010 + 32 × w (R350): Window w: WO, bits 31:0 immediate value (R332); bits 63:32 reserved. -/
  | asfRwinImm
  /-- TMB_NOW at 0x190_0000 (R375): Master count, RO, bits 63:0; read as one 64-bit value. -/
  | tmbNow
  /-- TMB_CTRL at 0x190_0008 (R375): Sources and servo limits. -/
  | tmbCtrl
  /-- TMB_STAT at 0x190_0010 (R375): Synchronisation state. -/
  | tmbStat
  /-- TMB_OFFSET at 0x190_0018 (R375): Last filtered offset in ticks, two's complement, RO, bits 63:0. -/
  | tmbOffset
  /-- TMB_ADJ at 0x190_0020 (R375): Step request in ticks, two's complement, WO, bits 63:0 (R354). -/
  | tmbAdj
  /-- TMB_PPS_CFG at 0x190_0028 (R375): Bit 63 ENABLE RW, reset 0; bits 50:32 WIDTH in µs RW, 1 to 500,000, reset 100,000; bits 15:0 OUT_COMP in ticks, two's complement, RW, reset 0; other bits reserved. -/
  | tmbPpsCfg
  /-- TMB_PPS_IN_TS at 0x190_0030 (R375): Tick of the last accepted PPS edge, RO, bits 63:0. -/
  | tmbPpsInTs
  /-- TMB_PTP_CFG at 0x190_0038 (R375): Bits 10:8 PORT RW, reset 0; bits 7:0 DOMAIN RW, reset 0; other bits reserved. -/
  | tmbPtpCfg
  /-- TMB_PORT_ASYM at 0x190_0100 + 8 × q (R375): Asymmetry of port q in ticks, two's complement, RW, bits 15:0, reset 0. -/
  | tmbPortAsym
  /-- SHP_CLASS at 0x180_0000 (R375): Byte c bits 5:0: DSCP of class c, RW, reset 8 × c; bits 7:6 of each byte reserved. -/
  | shpClass
  /-- SHP_SAMPLE_BASE at 0x180_0010 (R375): Ring host address, RW, bits 63:12. -/
  | shpSampleBase
  /-- SHP_SAMPLE_CTRL at 0x180_0018 (R375): Sample ring control. -/
  | shpSampleCtrl
  /-- SHP_GRP_BUCKET at 0x180_0020 + 8 × g (R375): Bucket of connection group g, 0 to 16; SHP_BUCKET layout. -/
  | shpGrpBucket
  /-- SHP_GATE_CTRL at 0x181_0000 + 0x1000 × q (R375): Gate list control of port q. -/
  | shpGateCtrl
  /-- SHP_GATE_SWAP at 0x181_0008 + 0x1000 × q (R375): Swap tick of port q, RW, bits 63:0. -/
  | shpGateSwap
  /-- SHP_GATE_STAT at 0x181_0010 + 0x1000 × q (R375): Gate counts of port q. -/
  | shpGateStat
  /-- SHP_BUCKET at 0x181_0040 + 0x1000 × q + 8 × c (R375): Bucket of class c on port q. -/
  | shpBucket
  /-- SHP_GATE_ENTRY at 0x181_0800 + 0x1000 × q + 8 × e (R375): Shadow entry e, 0 to 255, of port q. -/
  | shpGateEntry
  /-- RES_CTRL at 0x1A0_0000 (R407): Heartbeat and recast control. -/
  | resCtrl
  /-- RES_MGR at 0x1A0_0008 (R407): Manager and term. -/
  | resMgr
  /-- RES_DEPUTY at 0x1A0_0010 (R407): Deputies in order. -/
  | resDeputy
  /-- RES_STAT at 0x1A0_0018 (R407): Resilience state. -/
  | resStat
  /-- RES_MIRROR_CFG at 0x1A0_0020 (R407): Slices granted as a partner. -/
  | resMirrorCfg
  /-- RES_RECAST at 0x1A0_0028 (R407): Recast progress. -/
  | resRecast
  /-- RES_CE_CFG at 0x1A0_0030 (R407): Corrected-error threshold. -/
  | resCeCfg
  /-- RES_ERR_STAT at 0x1A0_0038 (R407): Handling counts. -/
  | resErrStat
  /-- RES_PARTNER at 0x1A0_0100 + 8 × (4r + i) (R407): Candidate i (0 to 3) of role r (0 prompt, 1 generation, 2 cache). -/
  | resPartner
  /-- RES_SPARE at 0x1A0_0200 + 8 × i (R407): Spare i, 0 to 15, in order of preference. -/
  | resSpare
  /-- RES_PLINTH_REC at 0x1A0_1000 + 64 × j + 8 × w (R407): Word w of plinth record j under R400, RO; j 0 to 15 the history, newest at j 0 (R406); 16 and 17 the escalation pair. -/
  | resPlinthRec
  /-- PWR_DEV_CFG at 0x1B0_0000 (R451): Device-state enables and timers. -/
  | pwrDevCfg
  /-- PWR_DEV_STAT at 0x1B0_0008 (R451): Device state. -/
  | pwrDevStat
  /-- PWR_CAP at 0x1B0_0010 (R451): Caps. -/
  | pwrCap
  /-- PWR_CTRL_STAT at 0x1B0_0018 (R451): Controller state. -/
  | pwrCtrlStat
  /-- PWR_AVS_CFG at 0x1B0_0020 (R451): Bits 47:32 VDONE_TIMEOUT_US, RW, reset 100, 10 to 1,000; other bits reserved. -/
  | pwrAvsCfg
  /-- PWR_AVS_STAT at 0x1B0_0028 (R451): AVSBus counts. -/
  | pwrAvsStat
  /-- PWR_LIMIT_CFG at 0x1B0_0030 (R451): Power-limit input. -/
  | pwrLimitCfg
  /-- PWR_THERM at 0x1B0_0038 (R451): Temperatures. -/
  | pwrTherm
  /-- PWR_RACK at 0x1B0_0040 (R451): Rack budget. -/
  | pwrRack
  /-- PWR_ENERGY_TOTAL at 0x1B0_0048 (R451): Device energy in mJ since reset, RO, bits 63:0. -/
  | pwrEnergyTotal
  /-- PWR_ENERGY_UNATTR at 0x1B0_0050 (R451): Unattributed energy in mJ, RO, bits 63:0. -/
  | pwrEnergyUnattr
  /-- PWR_JOB_STAT at 0x1B0_0058 (R451): Bits 63:32 FULL, RC: charges unattributed for a full table; bits 13:0 ENTRIES, RO; other bits reserved. -/
  | pwrJobStat
  /-- PWR_CLASS_POINT at 0x1B0_0100 + 8 × p (R451): Preferred points of partition p. -/
  | pwrClassPoint
  /-- PWR_REFUSE at 0x1B0_0200 + 8 × r (R451): Refusals of partition r, 0 to 15, or device 16. -/
  | pwrRefuse
  /-- PWR_CLASS_TABLE at 0x1B0_0300 + 8 × c (R451): Class c, 0 to 6: bits 31:16 FIXED, bits 15:0 SCALED, in W, RO. -/
  | pwrClassTable
  /-- PWR_NEED at 0x1B0_0400 + 8 × (8c + p) (R451): Learned need of class c at point p in W, RO, bits 15:0. -/
  | pwrNeed
  /-- PWR_DOM_CFG at 0x1B0_1000 + 8 × d (R451): Timers of domain d, 0 to 101. -/
  | pwrDomCfg
  /-- PWR_DOM_STAT at 0x1B0_2000 + 8 × d (R451): State of domain d. -/
  | pwrDomStat
  /-- SEC_BOOT at 0x1D0_0000 (R492): Boot outcome. -/
  | secBoot
  /-- SEC_RECOVERY at 0x1D0_0008 (R492): Host-stream recovery. -/
  | secRecovery
  /-- SEC_DEBUG at 0x1D0_0010 (R492): FIELD_DEBUG state. -/
  | secDebug
  /-- SEC_DBG_NONCE0 at 0x1D0_0018 (R492): Nonce bytes 0–7, RO. -/
  | secDbgNonce0
  /-- SEC_DBG_NONCE1 at 0x1D0_0020 (R492): Nonce bytes 8–15, RO. -/
  | secDbgNonce1
  /-- SEC_FUSE_PROG at 0x1D0_0100 + 8 × i (R492): Fuse programming word i, 0 to 15; WO; locked from FIELD (R455). -/
  | secFuseProg
  /-- DBG_TRACE_STAT at 0x1E0_0000 (R492): Trace state. -/
  | dbgTraceStat
  /-- DBG_GSTOP at 0x1E0_0008 (R492): Global stop. -/
  | dbgGstop
  /-- DBG_HALT at 0x1E0_0100 + 8 × p (R492): Halt control of partition p. -/
  | dbgHalt
  /-- PLN_BOOT at 0x1C0_0000 (R519): Start-up stage and last reset. -/
  | plnBoot
  /-- PLN_QSTATE at 0x1C0_0008 (R519): Quarantine persistence. -/
  | plnQstate
  /-- PIN_INPUT at 0x1F0_0000 + 8 × i (R519): Input i: 0 GSTOP_N, 1 PWR_LIMIT_N, 2 PFAIL_N, 3 WAKE_N, 4 ALERT_N, 5 HOLDUP_OK, 6 PERST_N, 7 SYNC_PPS_IN. -/
  | pinInput
  /-- GLB_ID at 0x000_0000 (R530): Part, stepping and source. -/
  | glbId
  /-- GLB_CAP0 at 0x000_0008 (R530): Resource counts. -/
  | glbCap0
  /-- GLB_CAP1 at 0x000_0010 (R530): Capacities and fitted parts. -/
  | glbCap1
  /-- GLB_LIFECYCLE at 0x000_0018 (R530): Lifecycle and fuse state. -/
  | glbLifecycle
  /-- GLB_FN at 0x000_0020 (R530): The reading function, and the role. -/
  | glbFn
  /-- GLB_BAR4_CFG at 0x000_0028 (R530): BAR4 mapping; management function only. -/
  | glbBar4Cfg
  /-- GLB_ERRLOG_BASE at 0x000_0030 (R530): Error log host address; management function only. -/
  | glbErrlogBase
  /-- GLB_ERRLOG_CTRL at 0x000_0038 (R530): Error log control; management function only. -/
  | glbErrlogCtrl
  /-- GLB_ERR_STAT at 0x000_0040 (R530): Error and access counts; management function only. -/
  | glbErrStat
deriving DecidableEq, Repr

/-- A field: its register, its bits, its access type, its reset value and the ranges of the values that a write
may give it (an empty list accepts every value). -/
structure Field where
  reg : Reg
  hi : Nat
  lo : Nat
  acc : Acc
  reset : Nat
  ok : List (Nat × Nat)
deriving DecidableEq, Repr

/-- The width of a field. -/
def Field.width (f : Field) : Nat := f.hi - f.lo + 1

/-- CMD_ADMQ_CTRL.FAULT: 1: enable refused or queue faulted. -/
def cmdAdmqCtrl_fault : Field := ⟨.cmdAdmqCtrl, 32, 32, .ro, 0, []⟩
/-- CMD_ADMQ_CTRL.REPLY_DEPTH_LOG2: 4 to 12 (16 to 4,096 entries). Other values: enable refused, FAULT set. -/
def cmdAdmqCtrl_replyDepthLog2 : Field := ⟨.cmdAdmqCtrl, 23, 20, .rw, 0, []⟩
/-- CMD_ADMQ_CTRL.CMD_DEPTH_LOG2: As REPLY_DEPTH_LOG2. -/
def cmdAdmqCtrl_cmdDepthLog2 : Field := ⟨.cmdAdmqCtrl, 19, 16, .rw, 0, []⟩
/-- CMD_ADMQ_CTRL.ENABLE: 1: pair in service. Writing 0 stops fetching; accepted commands still reply. -/
def cmdAdmqCtrl_enable : Field := ⟨.cmdAdmqCtrl, 0, 0, .rw, 0, []⟩
/-- CMD_ADMQ_CMD_BASE.ADDR: the value. -/
def cmdAdmqCmdBase_addr : Field := ⟨.cmdAdmqCmdBase, 63, 12, .rw, 0, []⟩
/-- CMD_ADMQ_REPLY_BASE.ADDR: the value. -/
def cmdAdmqReplyBase_addr : Field := ⟨.cmdAdmqReplyBase, 63, 12, .rw, 0, []⟩
/-- CMD_QFAULT.COUNT: Faults since last read, saturating at 0xFFFF. -/
def cmdQfault_count : Field := ⟨.cmdQfault, 63, 48, .rc, 0, []⟩
/-- CMD_QFAULT.QUEUE: Queue number of the most recent fault. -/
def cmdQfault_queue : Field := ⟨.cmdQfault, 47, 40, .ro, 0, []⟩
/-- CMD_QFAULT.CAUSE: 1: index beyond depth. 2: fetch read failed or returned poison. 3: fabric fetch target dead. 4: doorbell from a node other than the owner. 0 and 5–255: never written. -/
def cmdQfault_cause : Field := ⟨.cmdQfault, 39, 32, .ro, 0, []⟩
/-- CMD_QFAULT.POSITION: Slot index at the fault. -/
def cmdQfault_position : Field := ⟨.cmdQfault, 31, 16, .ro, 0, []⟩
/-- CMD_INFLIGHT.COUNT: the value. -/
def cmdInflight_count : Field := ⟨.cmdInflight, 16, 0, .ro, 0, []⟩
/-- CMD_RING_SKIP.COUNT: the value. -/
def cmdRingSkip_count : Field := ⟨.cmdRingSkip, 31, 0, .rc, 0, []⟩
/-- CMD_REPLY_WAIT.COUNT: the value. -/
def cmdReplyWait_count : Field := ⟨.cmdReplyWait, 31, 0, .rc, 0, []⟩
/-- LDL_META.FREE_CHUNKS: Leaf chunks free in the pool, 0 to 262,144. -/
def ldlMeta_freeChunks : Field := ⟨.ldlMeta, 18, 0, .ro, 262144, []⟩
/-- LDL_WALK_MISS.COUNT: the value. -/
def ldlWalkMiss_count : Field := ⟨.ldlWalkMiss, 31, 0, .rc, 0, []⟩
/-- LDL_BIAS_FIX.COUNT: the value. -/
def ldlBiasFix_count : Field := ⟨.ldlBiasFix, 31, 0, .rc, 0, []⟩
/-- LDL_META_FAULT.COUNT: the value. -/
def ldlMetaFault_count : Field := ⟨.ldlMetaFault, 15, 0, .rc, 0, []⟩
/-- LDL_QUANT_STAT.NAN_COUNT: Elements stored as NaN or in a NaN block, saturating at 0xFFFF. -/
def ldlQuantStat_nanCount : Field := ⟨.ldlQuantStat, 63, 48, .rc, 0, []⟩
/-- LDL_QUANT_STAT.SAT_COUNT: Elements saturated, saturating at 0xFFFF. -/
def ldlQuantStat_satCount : Field := ⟨.ldlQuantStat, 47, 32, .rc, 0, []⟩
/-- LDL_QUANT_STAT.APPEND_COUNT: Token rows written, one per token, layer and head pair; wraps at 2^32. -/
def ldlQuantStat_appendCount : Field := ⟨.ldlQuantStat, 31, 0, .rc, 0, []⟩
/-- LDL_NOPAGE_SKIP.COUNT: the value. -/
def ldlNopageSkip_count : Field := ⟨.ldlNopageSkip, 31, 0, .rc, 0, []⟩
/-- LDL_GROUPS.COUNT: the value. -/
def ldlGroups_count : Field := ⟨.ldlGroups, 31, 0, .ro, 0, []⟩
/-- GEN_MMWIN.MAX: Window maximum in ticks, 2,000 to 32,000 (500 ns to 8 µs). Writes outside the range, or below MIN, leave the register unchanged. -/
def genMmwin_max : Field := ⟨.genMmwin, 31, 16, .rw, 8000, [(2000, 32000)]⟩
/-- GEN_MMWIN.MIN: Window minimum in ticks, 2,000 to 16,000 (500 ns to 4 µs). Writes outside the range, or above MAX, leave the register unchanged. -/
def genMmwin_min : Field := ⟨.genMmwin, 15, 0, .rw, 2000, [(2000, 16000)]⟩
/-- GEN_DRAFT_CFG.MODEL: Draft weight set; 0xFFFF for none, which acts as a group of 0. A set that is not loaded in processor layout on the reserved channels acts as 0xFFFF while it is not loaded, and the field keeps the value written. A change waits, as a GROUP change does, until no sequence of any partition holds a draft ring. Until then the field reads the new value and BUSY is 1. -/
def genDraftCfg_model : Field := ⟨.genDraftCfg, 31, 16, .rw, 65535, []⟩
/-- GEN_DRAFT_CFG.GROUP: Reserved channels: 0, 2 or 4. Other values leave the field unchanged. Changes take effect when no sequence of any partition holds a draft ring; until then the field reads the new value and BUSY is 1. -/
def genDraftCfg_group : Field := ⟨.genDraftCfg, 10, 8, .rw, 2, [(0, 0), (2, 2), (4, 4)]⟩
/-- GEN_DRAFT_CFG.BUSY: 1: a MODEL, GROUP or WINDOW change waits for rings to be released. -/
def genDraftCfg_busy : Field := ⟨.genDraftCfg, 7, 7, .ro, 0, []⟩
/-- GEN_DRAFT_CFG.WINDOW: W = 64 × 2^WINDOW: 0 gives 64, 1 gives 128 and 4 gives 1,024. Values 5–15 leave the field unchanged. -/
def genDraftCfg_window : Field := ⟨.genDraftCfg, 3, 0, .rw, 1, [(0, 4)]⟩
/-- GEN_APERTURE_HOLE.COUNT: the value. -/
def genApertureHole_count : Field := ⟨.genApertureHole, 31, 0, .rc, 0, []⟩
/-- GEN_CHMODE.SWITCHES: Switches into processor mode, wrapping at 2^32. -/
def genChmode_switches : Field := ⟨.genChmode, 63, 32, .rc, 0, []⟩
/-- GEN_CHMODE.FORCE_MEM: 1: channel held in memory mode (R136). -/
def genChmode_forceMem : Field := ⟨.genChmode, 2, 2, .rw, 0, []⟩
/-- GEN_CHMODE.MODE: Current mode under R128. -/
def genChmode_mode : Field := ⟨.genChmode, 1, 0, .ro, 0, []⟩
/-- GEN_CH_WAIT.WAIT_TICKS: Sum of held-access waits in units of 256 ticks (64 ns), saturating. -/
def genChWait_waitTicks : Field := ⟨.genChWait, 63, 32, .rc, 0, []⟩
/-- GEN_CH_WAIT.HELD: Accesses held, saturating. -/
def genChWait_held : Field := ⟨.genChWait, 31, 0, .rc, 0, []⟩
/-- GEN_CH_UNITS.MEM_ONLY: 1: channel withdrawn from processor work (R160). -/
def genChUnits_memOnly : Field := ⟨.genChUnits, 32, 32, .ro, 0, []⟩
/-- GEN_CH_UNITS.QUARANTINE: Bit u: unit u quarantined; kept across resets in the plinth. -/
def genChUnits_quarantine : Field := ⟨.genChUnits, 31, 0, .ro, 0, []⟩
/-- GEN_CH_ECC.UNCORRECTED: Uncorrectable sectors met by units, saturating. -/
def genChEcc_uncorrected : Field := ⟨.genChEcc, 63, 48, .rc, 0, []⟩
/-- GEN_CH_ECC.SCRUBBED: Sectors written back from the scrub queue, saturating. -/
def genChEcc_scrubbed : Field := ⟨.genChEcc, 47, 32, .rc, 0, []⟩
/-- GEN_CH_ECC.CORRECTED: Sectors corrected on unit reads, saturating. -/
def genChEcc_corrected : Field := ⟨.genChEcc, 31, 0, .rc, 0, []⟩
/-- GEN_SPEC_STAT.NO_RING: Sequence-boundaries stepped at k = 0 for want of a ring, saturating. -/
def genSpecStat_noRing : Field := ⟨.genSpecStat, 63, 48, .rc, 0, []⟩
/-- GEN_SPEC_STAT.HALVINGS: Halvings that lowered K_CUR (R168), saturating. -/
def genSpecStat_halvings : Field := ⟨.genSpecStat, 47, 32, .rc, 0, []⟩
/-- GEN_SPEC_STAT.PROBES: Probe steps, saturating. -/
def genSpecStat_probes : Field := ⟨.genSpecStat, 31, 16, .rc, 0, []⟩
/-- GEN_SPEC_STAT.PROBES_ACCEPTED: Probe steps with the draft token accepted, saturating. -/
def genSpecStat_probesAccepted : Field := ⟨.genSpecStat, 15, 0, .rc, 0, []⟩
/-- GEN_CROSSOVER.POSITIONS: Largest query-position count run on the near-bank units (R152, R153). -/
def genCrossover_positions : Field := ⟨.genCrossover, 5, 0, .rw, 32, [(0, 32)]⟩
/-- PRM_STATUS.SRAM_CORRECTED: Corrected operand-buffer and accumulator errors, saturating. -/
def prmStatus_sramCorrected : Field := ⟨.prmStatus, 63, 48, .rc, 0, []⟩
/-- PRM_STATUS.QREC_LOST: Quarantine records replaced when the list was full, saturating. -/
def prmStatus_qrecLost : Field := ⟨.prmStatus, 47, 40, .rc, 0, []⟩
/-- PRM_STATUS.QUARANTINED: Physical tiles quarantined, 0 to 200. -/
def prmStatus_quarantined : Field := ⟨.prmStatus, 31, 24, .ro, 0, []⟩
/-- PRM_STATUS.SPARES_FREE: Free spares under R170, 0 to 8. -/
def prmStatus_sparesFree : Field := ⟨.prmStatus, 23, 16, .ro, 8, []⟩
/-- PRM_STATUS.WITHDRAWN: Groups withdrawn under R201, 0 to 24. -/
def prmStatus_withdrawn : Field := ⟨.prmStatus, 15, 8, .ro, 0, []⟩
/-- PRM_STATUS.GROUPS_FREE: Groups available and owned by no partition, 0 to 24. -/
def prmStatus_groupsFree : Field := ⟨.prmStatus, 7, 0, .ro, 24, []⟩
/-- PRM_REPLAY.INTERVAL: Cycles between samples, 256 to 65,536; 0 turns replay off. Other values leave the field unchanged. -/
def prmReplay_interval : Field := ⟨.prmReplay, 16, 0, .rw, 4096, [(0, 0), (256, 65536)]⟩
/-- PRM_REPLAY_STAT.SAMPLES: Samples compared, saturating. -/
def prmReplayStat_samples : Field := ⟨.prmReplayStat, 63, 32, .rc, 0, []⟩
/-- PRM_REPLAY_STAT.MISMATCHES: Samples that disagreed, saturating. -/
def prmReplayStat_mismatches : Field := ⟨.prmReplayStat, 31, 16, .rc, 0, []⟩
/-- PRM_REPLAY_STAT.UNRESOLVED: Mismatches resolved by self-test under R204, saturating. -/
def prmReplayStat_unresolved : Field := ⟨.prmReplayStat, 15, 8, .rc, 0, []⟩
/-- PRM_REPLAY_STAT.NO_TILE: Samples skipped for want of a tile, saturating. -/
def prmReplayStat_noTile : Field := ⟨.prmReplayStat, 7, 0, .rc, 0, []⟩
/-- PRM_SELFTEST.FAILS: Self-test failures of tiles, saturating. -/
def prmSelftest_fails : Field := ⟨.prmSelftest, 63, 48, .rc, 0, []⟩
/-- PRM_SELFTEST.PASSES: Self-test passes of tiles, saturating. -/
def prmSelftest_passes : Field := ⟨.prmSelftest, 47, 32, .rc, 0, []⟩
/-- PRM_SELFTEST.PATTERNS: Bit n: pattern n is run; bits for patterns 10 to 15 do not exist. -/
def prmSelftest_patterns : Field := ⟨.prmSelftest, 25, 16, .rw, 1023, []⟩
/-- PRM_SELFTEST.NEXT_TILE: Physical tile to be tested next. -/
def prmSelftest_nextTile : Field := ⟨.prmSelftest, 11, 4, .ro, 0, []⟩
/-- PRM_SELFTEST.PER_SLOT: Tiles tested per IDLE slot, 1 to 7; 0 leaves the field unchanged. -/
def prmSelftest_perSlot : Field := ⟨.prmSelftest, 3, 1, .rw, 1, [(1, 7)]⟩
/-- PRM_SELFTEST.ENABLE: 1: tile self-tests run in IDLE slots. -/
def prmSelftest_enable : Field := ⟨.prmSelftest, 0, 0, .rw, 1, []⟩
/-- PRM_SELFTEST_TEMP.TEMPS: the value. -/
def prmSelftestTemp_temps : Field := ⟨.prmSelftestTemp, 63, 0, .ro, 0, []⟩
/-- PRM_SELFTEST_TEMP2.TEMPS: the value. -/
def prmSelftestTemp2_temps : Field := ⟨.prmSelftestTemp2, 15, 0, .ro, 0, []⟩
/-- PRM_PART.FILL_TOKENS: Tokens per prefill pass under R188, 256 to 8,192. Other values leave the field unchanged. -/
def prmPart_fillTokens : Field := ⟨.prmPart, 47, 32, .rw, 2048, [(256, 8192)]⟩
/-- PRM_PART.CHUNK: Ride-along chunk size under R192, 16 to 512, or 0 for off. Other values leave the field unchanged. -/
def prmPart_chunk : Field := ⟨.prmPart, 25, 16, .rw, 0, [(0, 0), (16, 512)]⟩
/-- PRM_PART.PRIVILEGED: Set by PARTITION_CONFIG (R174). -/
def prmPart_privileged : Field := ⟨.prmPart, 8, 8, .ro, 0, []⟩
/-- PRM_PART.GROUPS: Groups owned, 0 to 24. -/
def prmPart_groups : Field := ⟨.prmPart, 4, 0, .ro, 0, []⟩
/-- PRM_GROUP.STATE: 0 idle; 1 owned; 2 withdrawn; 3 never written. -/
def prmGroup_state : Field := ⟨.prmGroup, 5, 4, .ro, 0, []⟩
/-- PRM_GROUP.OWNER: Owning partition when STATE is 1; 0 otherwise. -/
def prmGroup_owner : Field := ⟨.prmGroup, 3, 0, .ro, 0, []⟩
/-- PRM_TILE_MAP.VALID: 0: the logical tile's group is withdrawn and the tile has no physical tile. -/
def prmTileMap_valid : Field := ⟨.prmTileMap, 8, 8, .ro, 1, []⟩
/-- PRM_TILE_MAP.PHYSICAL: Physical tile of logical tile i, 0 to 199. Reset: i (see Reg.reset). -/
def prmTileMap_physical : Field := ⟨.prmTileMap, 7, 0, .ro, 0, []⟩
/-- PRM_QREC_TICK.TICK: the value. -/
def prmQrecTick_tick : Field := ⟨.prmQrecTick, 63, 0, .ro, 0, []⟩
/-- PRM_QREC_INFO.KIND: 0 tile; 1 near-bank unit; 2 and 3 never written. -/
def prmQrecInfo_kind : Field := ⟨.prmQrecInfo, 63, 62, .ro, 0, []⟩
/-- PRM_QREC_INFO.CAUSE: 0 replay mismatch; 1 self-test failure; 2 watchdog (R130); 3 recurring SRAM error (R198); 4–7 never written. -/
def prmQrecInfo_cause : Field := ⟨.prmQrecInfo, 61, 59, .ro, 0, []⟩
/-- PRM_QREC_INFO.TEMP: Junction temperature at detection, °C, two's complement, −128 to 127. -/
def prmQrecInfo_temp : Field := ⟨.prmQrecInfo, 55, 48, .ro, 0, []⟩
/-- PRM_QREC_INFO.PATTERN: Self-test pattern 0 to 9; 0xFF when CAUSE is not 1. -/
def prmQrecInfo_pattern : Field := ⟨.prmQrecInfo, 47, 40, .ro, 0, []⟩
/-- PRM_QREC_INFO.PART_VALID: 1: PARTITION names the partition whose work found the fault. -/
def prmQrecInfo_partValid : Field := ⟨.prmQrecInfo, 36, 36, .ro, 0, []⟩
/-- PRM_QREC_INFO.PARTITION: Partition. -/
def prmQrecInfo_partition : Field := ⟨.prmQrecInfo, 35, 32, .ro, 0, []⟩
/-- PRM_QREC_INFO.KERNEL: Low 16 bits of the kernel or layer identifier of the armature entry; 0 when none. -/
def prmQrecInfo_kernel : Field := ⟨.prmQrecInfo, 31, 16, .ro, 0, []⟩
/-- PRM_QREC_INFO.LOCATION: Tile: physical tile 0 to 199. Unit: channel × 32 + unit, 0 to 2,047. -/
def prmQrecInfo_location : Field := ⟨.prmQrecInfo, 15, 0, .ro, 0, []⟩
/-- CMP_CHURN.BUSY: 1: a CHURN_PASS is running. -/
def cmpChurn_busy : Field := ⟨.cmpChurn, 63, 63, .ro, 0, []⟩
/-- CMP_CHURN.WEIGHT_SET: Set being processed; last set when BUSY is 0. -/
def cmpChurn_weightSet : Field := ⟨.cmpChurn, 47, 32, .ro, 0, []⟩
/-- CMP_CHURN.LAYER: Layer being processed. -/
def cmpChurn_layer : Field := ⟨.cmpChurn, 23, 16, .ro, 0, []⟩
/-- CMP_STAT.CODED: Blocks stored coded by churn passes, saturating. -/
def cmpStat_coded : Field := ⟨.cmpStat, 63, 40, .rc, 0, []⟩
/-- CMP_STAT.ESCAPED: Blocks stored escaped by churn passes, saturating. -/
def cmpStat_escaped : Field := ⟨.cmpStat, 39, 16, .rc, 0, []⟩
/-- CMP_STAT.XTS_REFUSED: Refused changes of CMP_DRAM_XTS (R232), saturating. -/
def cmpStat_xtsRefused : Field := ⟨.cmpStat, 7, 0, .rc, 0, []⟩
/-- CMP_ERR_INFO.CODE: Error code under R225; 0 when none has occurred. -/
def cmpErrInfo_code : Field := ⟨.cmpErrInfo, 63, 60, .ro, 0, []⟩
/-- CMP_ERR_INFO.PARTITION: Partition reset by the error. -/
def cmpErrInfo_partition : Field := ⟨.cmpErrInfo, 59, 56, .ro, 0, []⟩
/-- CMP_ERR_INFO.KIND: KIND of the block. -/
def cmpErrInfo_kind : Field := ⟨.cmpErrInfo, 55, 52, .ro, 0, []⟩
/-- CMP_ERR_INFO.ESCAPE: ESCAPE of the block. -/
def cmpErrInfo_escape : Field := ⟨.cmpErrInfo, 51, 51, .ro, 0, []⟩
/-- CMP_ERR_INFO.TABLE: TABLE of the block. -/
def cmpErrInfo_table : Field := ⟨.cmpErrInfo, 47, 40, .ro, 0, []⟩
/-- CMP_ERR_INFO.SITE: Physical tile 0 to 199 for a separator; 0xFFFF for the Ladle expander. -/
def cmpErrInfo_site : Field := ⟨.cmpErrInfo, 31, 16, .ro, 0, []⟩
/-- CMP_ERR_INFO.COUNT: Expander errors since last read, saturating. -/
def cmpErrInfo_count : Field := ⟨.cmpErrInfo, 15, 0, .rc, 0, []⟩
/-- CMP_ERR_BLOCK.WORD1: the value. -/
def cmpErrBlock_word1 : Field := ⟨.cmpErrBlock, 63, 0, .ro, 0, []⟩
/-- CMP_DRAM_XTS.ENABLE: Bit p: DRAM encryption for partition p, under R231 and R232. -/
def cmpDramXts_enable : Field := ⟨.cmpDramXts, 15, 0, .rw, 0, []⟩
/-- SCH_SKIM_CFG.PROMPT_WEIGHT: Charge per prompt token in sixteenths of a token, 0 to 16. Values 17–31 leave the field unchanged. -/
def schSkimCfg_promptWeight : Field := ⟨.schSkimCfg, 4, 0, .rw, 0, [(0, 16)]⟩
/-- SCH_PART.BATCH_MAX: Largest batch, 1 to 1,024. Other values leave the field unchanged. -/
def schPart_batchMax : Field := ⟨.schPart, 47, 37, .rw, 1024, [(1, 1024)]⟩
/-- SCH_PART.CAP: Batch cap under R252, 1 to 1,024. -/
def schPart_cap : Field := ⟨.schPart, 36, 26, .ro, 1024, []⟩
/-- SCH_PART.RESETTING: 1: a partition reset is running. -/
def schPart_resetting : Field := ⟨.schPart, 5, 5, .ro, 0, []⟩
/-- SCH_PART.SWAP_PENDING: 1: a swap is armed. -/
def schPart_swapPending : Field := ⟨.schPart, 4, 4, .ro, 0, []⟩
/-- SCH_PART.SHADOW_VALID: 1: the shadow slot holds a table. -/
def schPart_shadowValid : Field := ⟨.schPart, 3, 3, .ro, 0, []⟩
/-- SCH_PART.ACTIVE_VALID: 1: the partition has an active table. -/
def schPart_activeValid : Field := ⟨.schPart, 2, 2, .ro, 0, []⟩
/-- SCH_PERIOD.STRETCH: Stretch factor S in force, 1,024 to 8,192. -/
def schPeriod_stretch : Field := ⟨.schPeriod, 47, 32, .ro, 1024, []⟩
/-- SCH_PERIOD.PERIOD: Period in force after stretching, in ticks; 0 without an active table. -/
def schPeriod_period : Field := ⟨.schPeriod, 31, 0, .ro, 0, []⟩
/-- SCH_SWAP_TICK.TICK: the value. -/
def schSwapTick_tick : Field := ⟨.schSwapTick, 63, 0, .ro, 0, []⟩
/-- SCH_STEP.COUNT: the value. -/
def schStep_count : Field := ⟨.schStep, 63, 0, .ro, 0, []⟩
/-- SCH_GOAL.GOAL: Goal interval in ticks, 40,000 to 4,000,000,000, or 0 for off. Other values leave the field unchanged. -/
def schGoal_goal : Field := ⟨.schGoal, 31, 0, .rw, 0, [(0, 0), (40000, 4000000000)]⟩
/-- SCH_LATE.VOID: Steps voided under R269, saturating. -/
def schLate_void : Field := ⟨.schLate, 63, 48, .rc, 0, []⟩
/-- SCH_LATE.ENTRIES: Entries that ended after START + BUDGET, saturating. -/
def schLate_entries : Field := ⟨.schLate, 47, 32, .rc, 0, []⟩
/-- SCH_LATE.MAX_LATENESS: Largest lateness of a boundary beyond its scheduled tick, in ticks, saturating. -/
def schLate_maxLateness : Field := ⟨.schLate, 31, 0, .rc, 0, []⟩
/-- SCH_SKIP.SHED: Sequence-boundaries shed under R250 step 4, saturating. -/
def schSkip_shed : Field := ⟨.schSkip, 63, 32, .rc, 0, []⟩
/-- SCH_SKIP.HOLD: Sequence-boundaries sat out under a skimmer hold, saturating. -/
def schSkip_hold : Field := ⟨.schSkip, 31, 0, .rc, 0, []⟩
/-- SCH_SKIP2.EXCLUDED: Sequence-boundaries removed by another member's EXCLUDE, saturating. -/
def schSkip2_excluded : Field := ⟨.schSkip2, 63, 32, .rc, 0, []⟩
/-- SCH_SKIP2.MIRROR_LATE: Sit-outs under R30, for a late mirror acknowledgement or a late manager journal acknowledgement (R29), saturating. -/
def schSkip2_mirrorLate : Field := ⟨.schSkip2, 31, 0, .rc, 0, []⟩
/-- SCH_GROUP.MANAGER: Node number of the group manager. -/
def schGroup_manager : Field := ⟨.schGroup, 63, 48, .rw, 0, []⟩
/-- SCH_GROUP.GROUP_ID: Group identifier. -/
def schGroup_groupId : Field := ⟨.schGroup, 47, 32, .rw, 0, []⟩
/-- SCH_GROUP.MEMBERS: Member count, 1 to 512, or 0 for no group. Values 513–1,023 leave the register unchanged. -/
def schGroup_members : Field := ⟨.schGroup, 31, 22, .rw, 0, [(0, 512)]⟩
/-- SCH_GROUP.INDEX: This member's index, 0 to MEMBERS − 1. An index at or above MEMBERS leaves the register unchanged. -/
def schGroup_index : Field := ⟨.schGroup, 21, 13, .rw, 0, []⟩
/-- SCH_GROUP.SLACK: Slack in µs, 0 to 1,000. Values above 1,000 leave the register unchanged. -/
def schGroup_slack : Field := ⟨.schGroup, 12, 3, .rw, 10, [(0, 1000)]⟩
/-- SCH_RESET.COUNT: Reset causes, including those joined under R261, saturating. -/
def schReset_count : Field := ⟨.schReset, 63, 48, .rc, 0, []⟩
/-- SCH_RESET.CAUSE: Cause that began the last reset, under R262. -/
def schReset_cause : Field := ⟨.schReset, 47, 44, .ro, 0, []⟩
/-- SCH_RESET.DURATION: Ticks from cause to completion of the last reset, at most 8,000,000. -/
def schReset_duration : Field := ⟨.schReset, 31, 0, .ro, 0, []⟩
/-- SCH_SYNC.LAG_MISSES: Sync points passed after their release tick under R267, saturating. -/
def schSync_lagMisses : Field := ⟨.schSync, 63, 32, .rc, 0, []⟩
/-- SCH_SYNC.LAG_US: Release lag in µs, 1 to 100. Other values leave the field unchanged. Writable only while the partition has no STEPPING sequence, as for SCH_GROUP (R263). -/
def schSync_lagUs : Field := ⟨.schSync, 6, 0, .rw, 8, [(1, 100)]⟩
/-- SCH_TENANT.VALID: 1: the tenant is assigned to PARTITION (R253). -/
def schTenant_valid : Field := ⟨.schTenant, 16, 16, .rw, 0, []⟩
/-- SCH_TENANT.PARTITION: Assigned partition. -/
def schTenant_partition : Field := ⟨.schTenant, 15, 12, .rw, 0, []⟩
/-- SCH_TENANT.HOLD: 1: skimmer hold set. -/
def schTenant_hold : Field := ⟨.schTenant, 1, 1, .ro, 0, []⟩
/-- SCH_TENANT.UNLIMITED: 1: the tenant is unlimited under R254. -/
def schTenant_unlimited : Field := ⟨.schTenant, 0, 0, .ro, 1, []⟩
/-- SCH_TENANT_BUDGET.BUDGET: the value. -/
def schTenantBudget_budget : Field := ⟨.schTenantBudget, 63, 0, .ro, 0, []⟩
/-- TIR_CFG.STALL_MAX: Stall limit in ms, 1 to 1,000. -/
def tirCfg_stallMax : Field := ⟨.tirCfg, 41, 32, .rw, 100, [(1, 1000)]⟩
/-- TIR_CFG.AGE_PERIOD: Clock revolution in units of 0.25 s, 1 to 240. -/
def tirCfg_agePeriod : Field := ⟨.tirCfg, 23, 16, .rw, 16, [(1, 240)]⟩
/-- TIR_CFG.AGE_LIMIT: Age for eviction without pressure, 1 to 7; 0 for off. -/
def tirCfg_ageLimit : Field := ⟨.tirCfg, 2, 0, .rw, 5, []⟩
/-- TIR_T1_WM.HIGH_FREE: Free frames ending pressure, in 1/1,024 of the pool, 2 to 512, above LOW_FREE. -/
def tirT1Wm_highFree : Field := ⟨.tirT1Wm, 25, 16, .rw, 41, [(2, 512)]⟩
/-- TIR_T1_WM.LOW_FREE: Free frames starting pressure, in 1/1,024 of the pool, 1 to 511, below HIGH_FREE. -/
def tirT1Wm_lowFree : Field := ⟨.tirT1Wm, 9, 0, .rw, 20, [(1, 511)]⟩
/-- TIR_POOL.POOL: Frames in the page-frame pool, 0 to 3,145,728. -/
def tirPool_pool : Field := ⟨.tirPool, 53, 32, .ro, 0, []⟩
/-- TIR_POOL.FREE: Free pool frames. -/
def tirPool_free : Field := ⟨.tirPool, 21, 0, .ro, 0, []⟩
/-- TIR_LEND.LENT: Lent frames in use. -/
def tirLend_lent : Field := ⟨.tirLend, 48, 32, .ro, 0, []⟩
/-- TIR_LEND.T0_FREE: Free tier-0 slots. -/
def tirLend_t0Free : Field := ⟨.tirLend, 27, 17, .ro, 1536, []⟩
/-- TIR_LEND.LEND_FRAMES: Lending reserve, 0 to 65,536. A write while LENT is not 0 leaves the field unchanged. -/
def tirLend_lendFrames : Field := ⟨.tirLend, 16, 0, .rw, 16384, [(0, 65536)]⟩
/-- TIR_EVICT.ABANDONED: Downward migrations abandoned under R290, saturating. -/
def tirEvict_abandoned : Field := ⟨.tirEvict, 63, 48, .rc, 0, []⟩
/-- TIR_EVICT.TO_T3: Pages evicted to tier 3, saturating. -/
def tirEvict_toT3 : Field := ⟨.tirEvict, 47, 24, .rc, 0, []⟩
/-- TIR_EVICT.TO_T2: Pages evicted to tier 2, saturating. -/
def tirEvict_toT2 : Field := ⟨.tirEvict, 23, 0, .rc, 0, []⟩
/-- TIR_STALL.DROPS: Sequences dropped under R301, saturating. -/
def tirStall_drops : Field := ⟨.tirStall, 63, 48, .rc, 0, []⟩
/-- TIR_STALL.WAIT: Wait charged, in units of 65,536 ticks (16.384 µs), saturating. -/
def tirStall_wait : Field := ⟨.tirStall, 47, 24, .rc, 0, []⟩
/-- TIR_STALL.COUNT: Waits begun, saturating. -/
def tirStall_count : Field := ⟨.tirStall, 23, 0, .rc, 0, []⟩
/-- TIR_PEER_CTRL.NODE: Peer node number. -/
def tirPeerCtrl_node : Field := ⟨.tirPeerCtrl, 63, 48, .rw, 0, []⟩
/-- TIR_PEER_CTRL.KEY: Region key of the lodging. -/
def tirPeerCtrl_key : Field := ⟨.tirPeerCtrl, 47, 16, .rw, 0, []⟩
/-- TIR_PEER_CTRL.DRAINED: 1: USED is 0. -/
def tirPeerCtrl_drained : Field := ⟨.tirPeerCtrl, 3, 3, .ro, 1, []⟩
/-- TIR_PEER_CTRL.DRAIN: 1: lodging being emptied (R280). -/
def tirPeerCtrl_drain : Field := ⟨.tirPeerCtrl, 2, 2, .rw, 0, []⟩
/-- TIR_PEER_CTRL.ENABLE: 1: lodging in service. -/
def tirPeerCtrl_enable : Field := ⟨.tirPeerCtrl, 0, 0, .rw, 0, []⟩
/-- TIR_PEER_BASE.BASE_64K: Region offset at the peer, in units of 64 KiB. -/
def tirPeerBase_base64k : Field := ⟨.tirPeerBase, 63, 32, .rw, 0, []⟩
/-- TIR_PEER_BASE.SLOTS: Slots in the lodging, 0 to 16,777,215. -/
def tirPeerBase_slots : Field := ⟨.tirPeerBase, 23, 0, .rw, 0, []⟩
/-- TIR_PEER_USED.USED: the value. -/
def tirPeerUsed_used : Field := ⟨.tirPeerUsed, 23, 0, .ro, 0, []⟩
/-- TIR_OCC_LO.T0: Pages of the tenant homed in tier 0. -/
def tirOccLo_t0 : Field := ⟨.tirOccLo, 56, 46, .ro, 0, []⟩
/-- TIR_OCC_LO.T2: Pages homed in tier 2, saturating. -/
def tirOccLo_t2 : Field := ⟨.tirOccLo, 45, 22, .ro, 0, []⟩
/-- TIR_OCC_LO.T1: Pages homed in tier 1. -/
def tirOccLo_t1 : Field := ⟨.tirOccLo, 21, 0, .ro, 0, []⟩
/-- TIR_OCC_HI.T3: Pages homed in granules. -/
def tirOccHi_t3 : Field := ⟨.tirOccHi, 29, 0, .ro, 0, []⟩
/-- FTL_POLICY.GC_START: In 1/1,024 of usable blocks, 5 to 100, below GC_STOP. -/
def ftlPolicy_gcStart : Field := ⟨.ftlPolicy, 63, 56, .rw, 20, [(5, 100)]⟩
/-- FTL_POLICY.GC_STOP: In 1/1,024, 6 to 200, above GC_START. -/
def ftlPolicy_gcStop : Field := ⟨.ftlPolicy, 55, 48, .rw, 41, [(6, 200)]⟩
/-- FTL_POLICY.STATIC_DELTA: Erase counts, 32 to 4,096. -/
def ftlPolicy_staticDelta : Field := ⟨.ftlPolicy, 47, 32, .rw, 256, [(32, 4096)]⟩
/-- FTL_POLICY.RESERVE_MIN: In 1/1,024 of usable blocks, 1 to 100. -/
def ftlPolicy_reserveMin : Field := ⟨.ftlPolicy, 31, 24, .rw, 5, [(1, 100)]⟩
/-- FTL_POLICY.SCRUB_DAYS: Days, 1 to 90. -/
def ftlPolicy_scrubDays : Field := ⟨.ftlPolicy, 23, 16, .rw, 7, [(1, 90)]⟩
/-- FTL_POLICY.ENDURANCE: Erase cycles, 100 to 65,535. -/
def ftlPolicy_endurance : Field := ⟨.ftlPolicy, 15, 0, .rw, 3000, [(100, 65535)]⟩
/-- FTL_POLICY2.READ_LIMIT: Reads per block since erase, 10,000 to 10,000,000. -/
def ftlPolicy2_readLimit : Field := ⟨.ftlPolicy2, 63, 32, .rw, 100000, [(10000, 10000000)]⟩
/-- FTL_POLICY2.REFRESH_BITS: Corrected bits per codeword, 8 to 200. -/
def ftlPolicy2_refreshBits : Field := ⟨.ftlPolicy2, 15, 8, .rw, 48, [(8, 200)]⟩
/-- FTL_POLICY2.RETRIES: Read-retry steps, 0 to 15. -/
def ftlPolicy2_retries : Field := ⟨.ftlPolicy2, 3, 0, .rw, 7, []⟩
/-- FTL_HEALTH.MODE: 0 normal; 1 read-only; 2 absent; 3 never written. -/
def ftlHealth_mode : Field := ⟨.ftlHealth, 63, 62, .ro, 2, []⟩
/-- FTL_HEALTH.TARGETS_REFUSED: Targets refused under R303. -/
def ftlHealth_targetsRefused : Field := ⟨.ftlHealth, 55, 48, .ro, 0, []⟩
/-- FTL_HEALTH.GROWN_BAD: Blocks retired in service, saturating. -/
def ftlHealth_grownBad : Field := ⟨.ftlHealth, 47, 32, .ro, 0, []⟩
/-- FTL_HEALTH.ERASE_MAX: Highest erase count, saturating. -/
def ftlHealth_eraseMax : Field := ⟨.ftlHealth, 31, 16, .ro, 0, []⟩
/-- FTL_HEALTH.ERASE_MIN: Lowest erase count of blocks in use. -/
def ftlHealth_eraseMin : Field := ⟨.ftlHealth, 15, 0, .ro, 0, []⟩
/-- FTL_LDPC.UNCORRECTABLE: Codewords failed at every level, saturating. -/
def ftlLdpc_uncorrectable : Field := ⟨.ftlLdpc, 63, 48, .rc, 0, []⟩
/-- FTL_LDPC.SOFT: Codewords corrected by soft decoding, saturating. -/
def ftlLdpc_soft : Field := ⟨.ftlLdpc, 47, 32, .rc, 0, []⟩
/-- FTL_LDPC.RETRY: Codewords corrected after a read retry, saturating. -/
def ftlLdpc_retry : Field := ⟨.ftlLdpc, 31, 0, .rc, 0, []⟩
/-- FTL_HOLDUP_CFG.CAP: Bank capacitance in µF, 0 to 1,048,575. -/
def ftlHoldupCfg_cap : Field := ⟨.ftlHoldupCfg, 63, 44, .rw, 0, []⟩
/-- FTL_HOLDUP_CFG.VMIN_MV: Lowest usable bank voltage, in mV. -/
def ftlHoldupCfg_vminMv : Field := ⟨.ftlHoldupCfg, 31, 16, .rw, 0, []⟩
/-- FTL_HOLDUP_CFG.DIV8: Divider ratio in eighths, 8 to 255; 0 means no divider is programmed, and every store is refused. -/
def ftlHoldupCfg_div8 : Field := ⟨.ftlHoldupCfg, 15, 8, .rw, 0, [(0, 0), (8, 255)]⟩
/-- FTL_HOLDUP_COST.RESERVE_MJ: Energy kept for the commit of R313, in mJ. -/
def ftlHoldupCost_reserveMj : Field := ⟨.ftlHoldupCost, 63, 48, .rw, 200, []⟩
/-- FTL_HOLDUP_COST.FIXED_MJ: Fixed cost per store, in mJ. -/
def ftlHoldupCost_fixedMj : Field := ⟨.ftlHoldupCost, 47, 32, .rw, 30, []⟩
/-- FTL_HOLDUP_COST.PER_MIB_MJ: Cost per MiB stored, in mJ. -/
def ftlHoldupCost_perMibMj : Field := ⟨.ftlHoldupCost, 31, 16, .rw, 8, []⟩
/-- FTL_HOLDUP.REFUSED: Stores refused, saturating. -/
def ftlHoldup_refused : Field := ⟨.ftlHoldup, 63, 48, .rc, 0, []⟩
/-- FTL_HOLDUP.ENERGY_MJ: E of the last check, in mJ, saturating at 65,535. -/
def ftlHoldup_energyMj : Field := ⟨.ftlHoldup, 47, 32, .ro, 0, []⟩
/-- FTL_HOLDUP.CODE: Converter code of the last check. -/
def ftlHoldup_code : Field := ⟨.ftlHoldup, 11, 0, .ro, 0, []⟩
/-- ASF_NODE.NODE: Own node number; 0xFFFF sends and accepts no Asith frame. -/
def asfNode_node : Field := ⟨.asfNode, 63, 48, .rw, 65535, []⟩
/-- ASF_NODE.FDOM: Own failure domain. -/
def asfNode_fdom : Field := ⟨.asfNode, 47, 40, .rw, 0, []⟩
/-- ASF_MAC.BASE_MAC: the value. -/
def asfMac_baseMac : Field := ⟨.asfMac, 47, 0, .rw, 0, []⟩
/-- ASF_FRAME_CFG.ETHERTYPE: Mode 0 EtherType, 0x0600 to 0xFFFF. -/
def asfFrameCfg_ethertype : Field := ⟨.asfFrameCfg, 63, 48, .rw, 34997, [(1536, 65535)]⟩
/-- ASF_FRAME_CFG.UDP_PORT: Destination port, 1,024 to 65,535. -/
def asfFrameCfg_udpPort : Field := ⟨.asfFrameCfg, 47, 32, .rw, 49317, [(1024, 65535)]⟩
/-- ASF_FRAME_CFG.VLAN_ID: 0 to 4,094. -/
def asfFrameCfg_vlanId : Field := ⟨.asfFrameCfg, 31, 20, .rw, 0, [(0, 4094)]⟩
/-- ASF_FRAME_CFG.MODE: 0 EtherType, 1 UDP/IPv4, 2 UDP/IPv6. -/
def asfFrameCfg_mode : Field := ⟨.asfFrameCfg, 17, 16, .rw, 0, [(0, 2)]⟩
/-- ASF_FRAME_CFG.MAX_PAYLOAD: 0: 1,024; 1: 2,048; 2: 4,096 bytes. -/
def asfFrameCfg_maxPayload : Field := ⟨.asfFrameCfg, 3, 2, .rw, 2, [(0, 2)]⟩
/-- ASF_TIMERS.TIMEOUT_US: Dead-target limit, 50 to 100,000 µs. -/
def asfTimers_timeoutUs : Field := ⟨.asfTimers, 63, 44, .rw, 1000, [(50, 100000)]⟩
/-- ASF_TIMERS.RTO_US: Retransmission timer, 8 to 4,095 µs, below TIMEOUT_US. -/
def asfTimers_rtoUs : Field := ⟨.asfTimers, 43, 32, .rw, 64, [(8, 4095)]⟩
/-- ASF_TIMERS.RNR_WAIT_US: 1 to 1,000 µs. -/
def asfTimers_rnrWaitUs : Field := ⟨.asfTimers, 31, 22, .rw, 8, [(1, 1000)]⟩
/-- ASF_TIMERS.RNR_MAX: 1 to 4,095. -/
def asfTimers_rnrMax : Field := ⟨.asfTimers, 21, 10, .rw, 1000, [(1, 4095)]⟩
/-- ASF_PAGING.RETRY_MAX_MS: 1 to 1,000 ms. -/
def asfPaging_retryMaxMs : Field := ⟨.asfPaging, 63, 54, .rw, 100, [(1, 1000)]⟩
/-- ASF_PAGING.T3_WAIT_US: 10 to 1,000 µs. -/
def asfPaging_t3WaitUs : Field := ⟨.asfPaging, 53, 44, .rw, 100, [(10, 1000)]⟩
/-- ASF_PAGING.STALL_LIMIT_US: 5 to 1,000 µs. -/
def asfPaging_stallLimitUs : Field := ⟨.asfPaging, 43, 32, .rw, 50, [(5, 1000)]⟩
/-- ASF_PAGING.STALLS: Requests stalled at this target, saturating. -/
def asfPaging_stalls : Field := ⟨.asfPaging, 31, 16, .rc, 0, []⟩
/-- ASF_PAGING.RETRIES_SENT: RETRY_AFTER answers sent, saturating. -/
def asfPaging_retriesSent : Field := ⟨.asfPaging, 15, 0, .rc, 0, []⟩
/-- ASF_WINDOW_CFG.TARGET_EXTRA_US: Delay target above base RTT, 1 to 255 µs. -/
def asfWindowCfg_targetExtraUs : Field := ⟨.asfWindowCfg, 7, 0, .rw, 8, [(1, 255)]⟩
/-- ASF_CTX_BASE.ADDR: the value. -/
def asfCtxBase_addr : Field := ⟨.asfCtxBase, 63, 12, .rw, 0, []⟩
/-- ASF_CTX_STAT.RNR_SENT: RNR answers for want of miss-buffer room, saturating. -/
def asfCtxStat_rnrSent : Field := ⟨.asfCtxStat, 63, 48, .rc, 0, []⟩
/-- ASF_CTX_STAT.MISSES: Context misses, saturating. -/
def asfCtxStat_misses : Field := ⟨.asfCtxStat, 47, 32, .rc, 0, []⟩
/-- ASF_CTX_STAT.OPEN: Contexts open, 0 to 65,536. -/
def asfCtxStat_open : Field := ⟨.asfCtxStat, 31, 15, .ro, 0, []⟩
/-- ASF_CTX_STAT.CACHED: Contexts cached on chip, 0 to 8,192. -/
def asfCtxStat_cached : Field := ⟨.asfCtxStat, 13, 0, .ro, 0, []⟩
/-- ASF_EPOCH.CURRENT: Current epoch. -/
def asfEpoch_current : Field := ⟨.asfEpoch, 63, 56, .ro, 0, []⟩
/-- ASF_EPOCH.PREVIOUS: Old epoch. -/
def asfEpoch_previous : Field := ⟨.asfEpoch, 55, 48, .ro, 0, []⟩
/-- ASF_EPOCH.PREV_LIVE: 1: the old map is live. -/
def asfEpoch_prevLive : Field := ⟨.asfEpoch, 47, 47, .ro, 0, []⟩
/-- ASF_EPOCH.INSTALLED: 1: a map is installed. -/
def asfEpoch_installed : Field := ⟨.asfEpoch, 46, 46, .ro, 0, []⟩
/-- ASF_EPOCH.STALE_SENT: STALE_EPOCH answers sent, saturating. -/
def asfEpoch_staleSent : Field := ⟨.asfEpoch, 31, 16, .rc, 0, []⟩
/-- ASF_EPOCH.OLD_INFLIGHT: Count of R348, saturating at 0xFFFF. -/
def asfEpoch_oldInflight : Field := ⟨.asfEpoch, 15, 0, .ro, 0, []⟩
/-- ASF_FAULT.COUNT: Failures since last read, saturating. -/
def asfFault_count : Field := ⟨.asfFault, 63, 48, .rc, 0, []⟩
/-- ASF_FAULT.NODE: Target node of the most recent failure. -/
def asfFault_node : Field := ⟨.asfFault, 47, 32, .ro, 0, []⟩
/-- ASF_FAULT.CAUSE: 1 TARGET_DEAD (R345); 2 PAGING_LIMIT (R344); 3 POISONED; 4 REMOTE_ACCESS; 5 STALE_EPOCH (R349); 6 CONTEXT (R338); 0 and 7–255 never written. -/
def asfFault_cause : Field := ⟨.asfFault, 31, 24, .ro, 0, []⟩
/-- ASF_FAULT.CONN: Local connection. -/
def asfFault_conn : Field := ⟨.asfFault, 15, 0, .ro, 0, []⟩
/-- ASF_RX_DROP.TAG_FAIL: Frames whose GCM tag failed, saturating. -/
def asfRxDrop_tagFail : Field := ⟨.asfRxDrop, 63, 48, .rc, 0, []⟩
/-- ASF_RX_DROP.BAD_OP: Reserved operations and statuses received, saturating. -/
def asfRxDrop_badOp : Field := ⟨.asfRxDrop, 47, 32, .rc, 0, []⟩
/-- ASF_RX_DROP.SEQ_DISCARD: Out-of-order frames discarded, saturating. -/
def asfRxDrop_seqDiscard : Field := ⟨.asfRxDrop, 31, 16, .rc, 0, []⟩
/-- ASF_RX_DROP.REFUSED: REMOTE_ACCESS answers sent, saturating. -/
def asfRxDrop_refused : Field := ⟨.asfRxDrop, 15, 0, .rc, 0, []⟩
/-- ASF_NOTIFY_BASE.ADDR: the value. -/
def asfNotifyBase_addr : Field := ⟨.asfNotifyBase, 63, 12, .rw, 0, []⟩
/-- ASF_NOTIFY_CTRL.HEAD: Index of the next entry the host will read. -/
def asfNotifyCtrl_head : Field := ⟨.asfNotifyCtrl, 31, 16, .rw, 0, []⟩
/-- ASF_NOTIFY_CTRL.DEPTH_LOG2: 4 to 16 (16 to 65,536 entries); writable while ENABLE is 0. -/
def asfNotifyCtrl_depthLog2 : Field := ⟨.asfNotifyCtrl, 8, 4, .rw, 4, [(4, 16)]⟩
/-- ASF_NOTIFY_CTRL.ENABLE: 1: ring in service. -/
def asfNotifyCtrl_enable : Field := ⟨.asfNotifyCtrl, 0, 0, .rw, 0, []⟩
/-- ASF_OWN_CMD.KEY: Region key. -/
def asfOwnCmd_key : Field := ⟨.asfOwnCmd, 63, 32, .wo, 0, []⟩
/-- ASF_OWN_CMD.NEW_OWNER: New owning node. -/
def asfOwnCmd_newOwner : Field := ⟨.asfOwnCmd, 31, 16, .wo, 0, []⟩
/-- ASF_OWN_STAT.OWNER: Owner of the region last commanded. -/
def asfOwnStat_owner : Field := ⟨.asfOwnStat, 63, 48, .ro, 0, []⟩
/-- ASF_OWN_STAT.REFUSED: 1: the last command named no live region of the function. -/
def asfOwnStat_refused : Field := ⟨.asfOwnStat, 1, 1, .ro, 0, []⟩
/-- ASF_OWN_STAT.BUSY: 1: old owner's accepted writes still retiring (R327). -/
def asfOwnStat_busy : Field := ⟨.asfOwnStat, 0, 0, .ro, 0, []⟩
/-- ASF_RWIN_TARGET.NODE: the value. -/
def asfRwinTarget_node : Field := ⟨.asfRwinTarget, 63, 48, .rw, 0, []⟩
/-- ASF_RWIN_TARGET.OFFSET: the value. -/
def asfRwinTarget_offset : Field := ⟨.asfRwinTarget, 47, 0, .rw, 0, []⟩
/-- ASF_RWIN_CTRL.KEY: Key presented; 0 for owner access. -/
def asfRwinCtrl_key : Field := ⟨.asfRwinCtrl, 63, 32, .rw, 0, []⟩
/-- ASF_RWIN_CTRL.CONN: Connection of the function's partition. -/
def asfRwinCtrl_conn : Field := ⟨.asfRwinCtrl, 31, 16, .rw, 0, []⟩
/-- ASF_RWIN_CTRL.ENABLE: 1: window in service. -/
def asfRwinCtrl_enable : Field := ⟨.asfRwinCtrl, 0, 0, .rw, 0, []⟩
/-- ASF_RWIN_IMM.IMM: the value. -/
def asfRwinImm_imm : Field := ⟨.asfRwinImm, 31, 0, .wo, 0, []⟩
/-- TMB_NOW.COUNT: the value. -/
def tmbNow_count : Field := ⟨.tmbNow, 63, 0, .ro, 0, []⟩
/-- TMB_CTRL.MASTER: Node for phase source 1. -/
def tmbCtrl_master : Field := ⟨.tmbCtrl, 63, 48, .rw, 65535, []⟩
/-- TMB_CTRL.INTERVAL: Exchange interval 125 µs × 2^INTERVAL, 0 to 7. -/
def tmbCtrl_interval : Field := ⟨.tmbCtrl, 43, 40, .rw, 3, [(0, 7)]⟩
/-- TMB_CTRL.MAX_SLEW: Slew limit in ppm, 1 to 500. -/
def tmbCtrl_maxSlew : Field := ⟨.tmbCtrl, 39, 30, .rw, 100, [(1, 500)]⟩
/-- TMB_CTRL.STEP_LIMIT: Step threshold in ns, 100 to 10,000. -/
def tmbCtrl_stepLimit : Field := ⟨.tmbCtrl, 29, 16, .rw, 1000, [(100, 10000)]⟩
/-- TMB_CTRL.PHASE_SRC: Under R356. -/
def tmbCtrl_phaseSrc : Field := ⟨.tmbCtrl, 5, 4, .rw, 0, []⟩
/-- TMB_CTRL.FREQ_SRC: 0 system reference; 1 TIME_CLK_IN. -/
def tmbCtrl_freqSrc : Field := ⟨.tmbCtrl, 0, 0, .rw, 0, []⟩
/-- TMB_STAT.RELOCKS: Local copies reloaded (R352), saturating. -/
def tmbStat_relocks : Field := ⟨.tmbStat, 63, 48, .rc, 0, []⟩
/-- TMB_STAT.PPS_IGNORED: PPS edges ignored (R362), saturating. -/
def tmbStat_ppsIgnored : Field := ⟨.tmbStat, 47, 40, .rc, 0, []⟩
/-- TMB_STAT.STEP_REFUSED: Steps refused (R354), saturating. -/
def tmbStat_stepRefused : Field := ⟨.tmbStat, 39, 32, .rc, 0, []⟩
/-- TMB_STAT.PPS_LOST: Under R362. -/
def tmbStat_ppsLost : Field := ⟨.tmbStat, 5, 5, .ro, 0, []⟩
/-- TMB_STAT.FREQ_LOST: Under R355. -/
def tmbStat_freqLost : Field := ⟨.tmbStat, 4, 4, .ro, 0, []⟩
/-- TMB_STAT.HOLDOVER: Under R360. -/
def tmbStat_holdover : Field := ⟨.tmbStat, 3, 3, .ro, 0, []⟩
/-- TMB_STAT.ALIGN_LOST: Under R360. -/
def tmbStat_alignLost : Field := ⟨.tmbStat, 2, 2, .ro, 0, []⟩
/-- TMB_STAT.LOCKED: 1: 16 consecutive filtered offsets within 80 ticks. -/
def tmbStat_locked : Field := ⟨.tmbStat, 1, 1, .ro, 0, []⟩
/-- TMB_STAT.STEPPED: 1: a step has been applied. -/
def tmbStat_stepped : Field := ⟨.tmbStat, 0, 0, .w1c, 0, []⟩
/-- TMB_OFFSET.OFFSET: the value. -/
def tmbOffset_offset : Field := ⟨.tmbOffset, 63, 0, .ro, 0, []⟩
/-- TMB_ADJ.ADJ: the value. -/
def tmbAdj_adj : Field := ⟨.tmbAdj, 63, 0, .wo, 0, []⟩
/-- TMB_PPS_CFG.ENABLE: the value. -/
def tmbPpsCfg_enable : Field := ⟨.tmbPpsCfg, 63, 63, .rw, 0, []⟩
/-- TMB_PPS_CFG.WIDTH: the value. -/
def tmbPpsCfg_width : Field := ⟨.tmbPpsCfg, 50, 32, .rw, 100000, [(1, 500000)]⟩
/-- TMB_PPS_CFG.OUT_COMP: the value. -/
def tmbPpsCfg_outComp : Field := ⟨.tmbPpsCfg, 15, 0, .rw, 0, []⟩
/-- TMB_PPS_IN_TS.TICK: the value. -/
def tmbPpsInTs_tick : Field := ⟨.tmbPpsInTs, 63, 0, .ro, 0, []⟩
/-- TMB_PTP_CFG.PORT: the value. -/
def tmbPtpCfg_port : Field := ⟨.tmbPtpCfg, 10, 8, .rw, 0, []⟩
/-- TMB_PTP_CFG.DOMAIN: the value. -/
def tmbPtpCfg_domain : Field := ⟨.tmbPtpCfg, 7, 0, .rw, 0, []⟩
/-- TMB_PORT_ASYM.ASYM: the value. -/
def tmbPortAsym_asym : Field := ⟨.tmbPortAsym, 15, 0, .rw, 0, []⟩
/-- SHP_CLASS.DSCP7: the value. -/
def shpClass_dscp7 : Field := ⟨.shpClass, 61, 56, .rw, 56, []⟩
/-- SHP_CLASS.DSCP6: the value. -/
def shpClass_dscp6 : Field := ⟨.shpClass, 53, 48, .rw, 48, []⟩
/-- SHP_CLASS.DSCP5: the value. -/
def shpClass_dscp5 : Field := ⟨.shpClass, 45, 40, .rw, 40, []⟩
/-- SHP_CLASS.DSCP4: the value. -/
def shpClass_dscp4 : Field := ⟨.shpClass, 37, 32, .rw, 32, []⟩
/-- SHP_CLASS.DSCP3: the value. -/
def shpClass_dscp3 : Field := ⟨.shpClass, 29, 24, .rw, 24, []⟩
/-- SHP_CLASS.DSCP2: the value. -/
def shpClass_dscp2 : Field := ⟨.shpClass, 21, 16, .rw, 16, []⟩
/-- SHP_CLASS.DSCP1: the value. -/
def shpClass_dscp1 : Field := ⟨.shpClass, 13, 8, .rw, 8, []⟩
/-- SHP_CLASS.DSCP0: the value. -/
def shpClass_dscp0 : Field := ⟨.shpClass, 5, 0, .rw, 0, []⟩
/-- SHP_SAMPLE_BASE.ADDR: the value. -/
def shpSampleBase_addr : Field := ⟨.shpSampleBase, 63, 12, .rw, 0, []⟩
/-- SHP_SAMPLE_CTRL.HEAD: Index of the next record the host will read. -/
def shpSampleCtrl_head : Field := ⟨.shpSampleCtrl, 63, 44, .rw, 0, []⟩
/-- SHP_SAMPLE_CTRL.PORTS: Bit q: port q sampled. -/
def shpSampleCtrl_ports : Field := ⟨.shpSampleCtrl, 39, 32, .rw, 0, []⟩
/-- SHP_SAMPLE_CTRL.DEPTH_LOG2: 4 to 20 (16 to 1,048,576 records); writable while ENABLE is 0. -/
def shpSampleCtrl_depthLog2 : Field := ⟨.shpSampleCtrl, 8, 4, .rw, 4, [(4, 20)]⟩
/-- SHP_SAMPLE_CTRL.ENABLE: 1: sampling in service. -/
def shpSampleCtrl_enable : Field := ⟨.shpSampleCtrl, 0, 0, .rw, 0, []⟩
/-- SHP_GRP_BUCKET.ENABLE: 1: bucket applies (R372). -/
def shpGrpBucket_enable : Field := ⟨.shpGrpBucket, 63, 63, .rw, 0, []⟩
/-- SHP_GRP_BUCKET.BURST: Credits, 1 to 16,777,215. -/
def shpGrpBucket_burst : Field := ⟨.shpGrpBucket, 55, 32, .rw, 0, [(1, 16777215)]⟩
/-- SHP_GRP_BUCKET.RATE: 1/256 credit per 1,024 ticks, 0 to 16,777,215. -/
def shpGrpBucket_rate : Field := ⟨.shpGrpBucket, 31, 8, .rw, 0, []⟩
/-- SHP_GATE_CTRL.CANCEL: Disarms an armed swap; reads 0. -/
def shpGateCtrl_cancel : Field := ⟨.shpGateCtrl, 49, 49, .w1s, 0, []⟩
/-- SHP_GATE_CTRL.ARM: Arms the swap under R370; reads 0. -/
def shpGateCtrl_arm : Field := ⟨.shpGateCtrl, 48, 48, .w1s, 0, []⟩
/-- SHP_GATE_CTRL.ENTRIES: Shadow entries in use, minus 1. -/
def shpGateCtrl_entries : Field := ⟨.shpGateCtrl, 47, 40, .rw, 0, []⟩
/-- SHP_GATE_CTRL.PARTITION: Partition of a bound list. -/
def shpGateCtrl_partition : Field := ⟨.shpGateCtrl, 39, 36, .rw, 0, []⟩
/-- SHP_GATE_CTRL.BIND: 1: shadow list bound to PARTITION. -/
def shpGateCtrl_bind : Field := ⟨.shpGateCtrl, 35, 35, .rw, 0, []⟩
/-- SHP_GATE_CTRL.ARMED: 1: swap armed. -/
def shpGateCtrl_armed : Field := ⟨.shpGateCtrl, 33, 33, .ro, 0, []⟩
/-- SHP_GATE_CTRL.ACTIVE: 1: a list is active. -/
def shpGateCtrl_active : Field := ⟨.shpGateCtrl, 32, 32, .ro, 0, []⟩
/-- SHP_GATE_CTRL.CYCLE: Unbound cycle in ticks, 1,000 to 4,000,000,000; ignored when bound. -/
def shpGateCtrl_cycle : Field := ⟨.shpGateCtrl, 31, 0, .rw, 0, [(1000, 4000000000)]⟩
/-- SHP_GATE_SWAP.TICK: the value. -/
def shpGateSwap_tick : Field := ⟨.shpGateSwap, 63, 0, .rw, 0, []⟩
/-- SHP_GATE_STAT.REFUSED: Refused arms, saturating. -/
def shpGateStat_refused : Field := ⟨.shpGateStat, 63, 48, .rc, 0, []⟩
/-- SHP_GATE_STAT.SWAPS: Takeovers, saturating. -/
def shpGateStat_swaps : Field := ⟨.shpGateStat, 47, 32, .rc, 0, []⟩
/-- SHP_GATE_STAT.HELD_FIT: Frames held under R371, saturating. -/
def shpGateStat_heldFit : Field := ⟨.shpGateStat, 31, 16, .rc, 0, []⟩
/-- SHP_GATE_STAT.GATES: Gate mask in force. -/
def shpGateStat_gates : Field := ⟨.shpGateStat, 7, 0, .ro, 255, []⟩
/-- SHP_BUCKET.ENABLE: 1: bucket applies (R372). -/
def shpBucket_enable : Field := ⟨.shpBucket, 63, 63, .rw, 0, []⟩
/-- SHP_BUCKET.BURST: Credits, 1 to 16,777,215. -/
def shpBucket_burst : Field := ⟨.shpBucket, 55, 32, .rw, 0, [(1, 16777215)]⟩
/-- SHP_BUCKET.RATE: 1/256 credit per 1,024 ticks, 0 to 16,777,215. -/
def shpBucket_rate : Field := ⟨.shpBucket, 31, 8, .rw, 0, []⟩
/-- SHP_GATE_ENTRY.DURATION: Ticks, 1 to 4,294,967,295. -/
def shpGateEntry_duration : Field := ⟨.shpGateEntry, 39, 8, .rw, 0, [(1, 4294967295)]⟩
/-- SHP_GATE_ENTRY.GATES: Bit c: class c open. -/
def shpGateEntry_gates : Field := ⟨.shpGateEntry, 7, 0, .rw, 0, []⟩
/-- RES_CTRL.BEAT_US: Heartbeat interval, 10 to 1,000 µs. -/
def resCtrl_beatUs : Field := ⟨.resCtrl, 41, 32, .rw, 50, [(10, 1000)]⟩
/-- RES_CTRL.MISS_LIMIT: Missed intervals before suspicion, 2 to 15. -/
def resCtrl_missLimit : Field := ⟨.resCtrl, 27, 24, .rw, 4, [(2, 15)]⟩
/-- RES_CTRL.AUTO_RECAST: 1: the manager assigns spares under R394. -/
def resCtrl_autoRecast : Field := ⟨.resCtrl, 1, 1, .rw, 1, []⟩
/-- RES_CTRL.ENABLE: 1: heartbeats sent and watched. -/
def resCtrl_enable : Field := ⟨.resCtrl, 0, 0, .rw, 0, []⟩
/-- RES_MGR.MANAGER: Appointed manager; 0xFFFF for none. -/
def resMgr_manager : Field := ⟨.resMgr, 63, 48, .rw, 65535, []⟩
/-- RES_MGR.ACTING: Acting manager after takeovers. -/
def resMgr_acting : Field := ⟨.resMgr, 47, 32, .ro, 65535, []⟩
/-- RES_MGR.TERM: Highest term seen. -/
def resMgr_term : Field := ⟨.resMgr, 31, 0, .ro, 0, []⟩
/-- RES_DEPUTY.DEP3: Deputy 3; 0xFFFF for none. -/
def resDeputy_dep3 : Field := ⟨.resDeputy, 63, 48, .rw, 65535, []⟩
/-- RES_DEPUTY.DEP2: Deputy 2. -/
def resDeputy_dep2 : Field := ⟨.resDeputy, 47, 32, .rw, 65535, []⟩
/-- RES_DEPUTY.DEP1: Deputy 1. -/
def resDeputy_dep1 : Field := ⟨.resDeputy, 31, 16, .rw, 65535, []⟩
/-- RES_DEPUTY.DEP0: Deputy 0, first in succession. -/
def resDeputy_dep0 : Field := ⟨.resDeputy, 15, 0, .rw, 65535, []⟩
/-- RES_STAT.LOSSES: Loss decisions received, saturating. -/
def resStat_losses : Field := ⟨.resStat, 63, 48, .rc, 0, []⟩
/-- RES_STAT.LAST_LOST: Node of the last loss decision. -/
def resStat_lastLost : Field := ⟨.resStat, 47, 32, .ro, 0, []⟩
/-- RES_STAT.FENCED: 1: fenced under R390. -/
def resStat_fenced : Field := ⟨.resStat, 4, 4, .ro, 0, []⟩
/-- RES_STAT.RECAST_SOURCE: 1: streaming promoted sequences to a spare. -/
def resStat_recastSource : Field := ⟨.resStat, 3, 3, .ro, 0, []⟩
/-- RES_STAT.RECAST_DEST: 1: receiving a recast. -/
def resStat_recastDest : Field := ⟨.resStat, 2, 2, .ro, 0, []⟩
/-- RES_STAT.PROMOTING: 1: a promotion is running. -/
def resStat_promoting : Field := ⟨.resStat, 1, 1, .ro, 0, []⟩
/-- RES_STAT.MANAGING: 1: this device is the acting manager. -/
def resStat_managing : Field := ⟨.resStat, 0, 0, .ro, 0, []⟩
/-- RES_MIRROR_CFG.MAX_SLICES: Slices this device may grant, 0 to 16. -/
def resMirrorCfg_maxSlices : Field := ⟨.resMirrorCfg, 63, 56, .rw, 0, [(0, 16)]⟩
/-- RES_MIRROR_CFG.SLICES_USED: Slices granted. -/
def resMirrorCfg_slicesUsed : Field := ⟨.resMirrorCfg, 55, 48, .ro, 0, []⟩
/-- RES_MIRROR_CFG.SLOTS: Slots per slice, 1,024 to 2,097,152. MAX_SLICES and SLOTS ignore writes while SLICES_USED is not 0. -/
def resMirrorCfg_slots : Field := ⟨.resMirrorCfg, 31, 0, .rw, 0, [(1024, 2097152)]⟩
/-- RES_RECAST.SPARE: Spare of the running recast. -/
def resRecast_spare : Field := ⟨.resRecast, 63, 48, .ro, 0, []⟩
/-- RES_RECAST.SOURCE: Promoting partner. -/
def resRecast_source : Field := ⟨.resRecast, 47, 32, .ro, 0, []⟩
/-- RES_RECAST.SEQ_LEFT: Sequences not yet flipped, 0 to 262,144. -/
def resRecast_seqLeft : Field := ⟨.resRecast, 31, 13, .ro, 0, []⟩
/-- RES_CE_CFG.WINDOW_MS: Threshold window, 1 to 60,000 ms. -/
def resCeCfg_windowMs : Field := ⟨.resCeCfg, 47, 32, .rw, 1000, [(1, 60000)]⟩
/-- RES_CE_CFG.THRESHOLD: Corrected errors per record, 1 to 65,535. -/
def resCeCfg_threshold : Field := ⟨.resCeCfg, 15, 0, .rw, 16, [(1, 65535)]⟩
/-- RES_ERR_STAT.OVERFLOWS: Records lost under R404, saturating. -/
def resErrStat_overflows : Field := ⟨.resErrStat, 63, 56, .rc, 0, []⟩
/-- RES_ERR_STAT.ESCALATIONS: Escalations under R405, saturating. -/
def resErrStat_escalations : Field := ⟨.resErrStat, 55, 48, .rc, 0, []⟩
/-- RES_ERR_STAT.PREEMPTED: Handlings pre-empted, saturating. -/
def resErrStat_preempted : Field := ⟨.resErrStat, 47, 32, .rc, 0, []⟩
/-- RES_ERR_STAT.LOG_LOST: Records dropped from the error log, saturating. -/
def resErrStat_logLost : Field := ⟨.resErrStat, 31, 16, .rc, 0, []⟩
/-- RES_ERR_STAT.IN_HANDLING: Records in handling, 0 to 8. -/
def resErrStat_inHandling : Field := ⟨.resErrStat, 3, 0, .ro, 0, []⟩
/-- RES_PARTNER.VALID: the value. -/
def resPartner_valid : Field := ⟨.resPartner, 16, 16, .rw, 0, []⟩
/-- RES_PARTNER.NODE: the value. -/
def resPartner_node : Field := ⟨.resPartner, 15, 0, .rw, 0, []⟩
/-- RES_SPARE.VALID: the value. -/
def resSpare_valid : Field := ⟨.resSpare, 16, 16, .rw, 0, []⟩
/-- RES_SPARE.NODE: the value. -/
def resSpare_node : Field := ⟨.resSpare, 15, 0, .rw, 0, []⟩
/-- RES_PLINTH_REC.WORD: the value. -/
def resPlinthRec_word : Field := ⟨.resPlinthRec, 63, 0, .ro, 0, []⟩
/-- PWR_DEV_CFG.C5_IDLE_S: C3 residency before C5, 1 to 3,600 s. -/
def pwrDevCfg_c5IdleS : Field := ⟨.pwrDevCfg, 47, 32, .rw, 60, [(1, 3600)]⟩
/-- PWR_DEV_CFG.C3_IDLE_MS: Idle before C3, 1 to 10,000 ms. -/
def pwrDevCfg_c3IdleMs : Field := ⟨.pwrDevCfg, 31, 16, .rw, 10, [(1, 10000)]⟩
/-- PWR_DEV_CFG.C5_EN: 1: C5 allowed. -/
def pwrDevCfg_c5En : Field := ⟨.pwrDevCfg, 1, 1, .rw, 0, []⟩
/-- PWR_DEV_CFG.C3_EN: 1: C3 allowed. -/
def pwrDevCfg_c3En : Field := ⟨.pwrDevCfg, 0, 0, .rw, 1, []⟩
/-- PWR_DEV_STAT.C3_ENTRIES: Entries to C3, saturating. -/
def pwrDevStat_c3Entries : Field := ⟨.pwrDevStat, 63, 32, .rc, 0, []⟩
/-- PWR_DEV_STAT.LAST_WAKE: Source of the last exit from C3 or C5, under the wake source table. -/
def pwrDevStat_lastWake : Field := ⟨.pwrDevStat, 7, 4, .ro, 0, []⟩
/-- PWR_DEV_STAT.STATE: 0 C0, 1 C3, 2 C5; 3 never written. -/
def pwrDevStat_state : Field := ⟨.pwrDevStat, 1, 0, .ro, 0, []⟩
/-- PWR_CAP.EFFECTIVE: Effective cap in W (R435). -/
def pwrCap_effective : Field := ⟨.pwrCap, 63, 48, .ro, 1800, []⟩
/-- PWR_CAP.HOST: From PWR_CAP_SET; 0 for none. -/
def pwrCap_host : Field := ⟨.pwrCap, 47, 32, .ro, 0, []⟩
/-- PWR_CAP.SHARE: Manager's share; 0 for none. -/
def pwrCap_share : Field := ⟨.pwrCap, 31, 16, .ro, 0, []⟩
/-- PWR_CAP.BOARD: Board cap, 100 to 1,800 W, or 0 for none. -/
def pwrCap_board : Field := ⟨.pwrCap, 15, 0, .rw, 0, [(0, 0), (100, 1800)]⟩
/-- PWR_CTRL_STAT.MEASURED_W: M of the last window. -/
def pwrCtrlStat_measuredW : Field := ⟨.pwrCtrlStat, 63, 48, .ro, 0, []⟩
/-- PWR_CTRL_STAT.ESTIMATE_W: E of the last window. -/
def pwrCtrlStat_estimateW : Field := ⟨.pwrCtrlStat, 47, 32, .ro, 0, []⟩
/-- PWR_CTRL_STAT.DISAGREE: Consecutive disagreeing windows, 0 to 8. -/
def pwrCtrlStat_disagree : Field := ⟨.pwrCtrlStat, 31, 24, .ro, 0, []⟩
/-- PWR_CTRL_STAT.AGREE: Consecutive agreeing windows while frozen, 0 to 64. -/
def pwrCtrlStat_agree : Field := ⟨.pwrCtrlStat, 23, 16, .ro, 0, []⟩
/-- PWR_CTRL_STAT.RAIL_FLAG: Bit 0 VDD_CORE, bit 1 VDD_SRAM, bit 2 VDD_MEM; bit 3 never set. -/
def pwrCtrlStat_railFlag : Field := ⟨.pwrCtrlStat, 7, 4, .ro, 0, []⟩
/-- PWR_CTRL_STAT.DIRECTION: 0: M above E; 1: M below E. -/
def pwrCtrlStat_direction : Field := ⟨.pwrCtrlStat, 3, 3, .ro, 0, []⟩
/-- PWR_CTRL_STAT.TELEMETRY_FAULT: Under R442. -/
def pwrCtrlStat_telemetryFault : Field := ⟨.pwrCtrlStat, 2, 2, .ro, 0, []⟩
/-- PWR_CTRL_STAT.FALLBACK: 1: planning from the conservative table. -/
def pwrCtrlStat_fallback : Field := ⟨.pwrCtrlStat, 1, 1, .ro, 0, []⟩
/-- PWR_CTRL_STAT.FROZEN: 1: learning frozen. -/
def pwrCtrlStat_frozen : Field := ⟨.pwrCtrlStat, 0, 0, .ro, 0, []⟩
/-- PWR_AVS_CFG.VDONE_TIMEOUT_US: the value. -/
def pwrAvsCfg_vdoneTimeoutUs : Field := ⟨.pwrAvsCfg, 47, 32, .rw, 100, [(10, 1000)]⟩
/-- PWR_AVS_STAT.FAILURES: Failures under R429, saturating. -/
def pwrAvsStat_failures : Field := ⟨.pwrAvsStat, 63, 48, .rc, 0, []⟩
/-- PWR_AVS_STAT.BUSY_RETRIES: Saturating. -/
def pwrAvsStat_busyRetries : Field := ⟨.pwrAvsStat, 47, 32, .rc, 0, []⟩
/-- PWR_AVS_STAT.CRC_RESENDS: Saturating. -/
def pwrAvsStat_crcResends : Field := ⟨.pwrAvsStat, 31, 16, .rc, 0, []⟩
/-- PWR_AVS_STAT.LAST_MASTER: Master of the last failure. -/
def pwrAvsStat_lastMaster : Field := ⟨.pwrAvsStat, 12, 12, .ro, 0, []⟩
/-- PWR_AVS_STAT.LAST_RAIL: Rail select of the last failure. -/
def pwrAvsStat_lastRail : Field := ⟨.pwrAvsStat, 11, 8, .ro, 0, []⟩
/-- PWR_AVS_STAT.LAST_CAUSE: 1 busy exhausted, 2 CRC exhausted, 3 invalid data, 4 VDone timeout; others never written. -/
def pwrAvsStat_lastCause : Field := ⟨.pwrAvsStat, 7, 4, .ro, 0, []⟩
/-- PWR_AVS_STAT.HELD: Bit per rail held under R429: 0 core, 1 SRAM, 2 memory. -/
def pwrAvsStat_held : Field := ⟨.pwrAvsStat, 3, 0, .ro, 0, []⟩
/-- PWR_LIMIT_CFG.ASSERTIONS: Assertions seen, saturating. -/
def pwrLimitCfg_assertions : Field := ⟨.pwrLimitCfg, 47, 32, .rc, 0, []⟩
/-- PWR_LIMIT_CFG.HOLD_MS: Hold after release, 1 to 1,000 ms. -/
def pwrLimitCfg_holdMs : Field := ⟨.pwrLimitCfg, 31, 16, .rw, 1, [(1, 1000)]⟩
/-- PWR_LIMIT_CFG.ACTIVE: 1: limit in force. -/
def pwrLimitCfg_active : Field := ⟨.pwrLimitCfg, 3, 3, .ro, 0, []⟩
/-- PWR_LIMIT_CFG.POINT: Fallback point, 0 to 7. -/
def pwrLimitCfg_point : Field := ⟨.pwrLimitCfg, 2, 0, .rw, 6, []⟩
/-- PWR_THERM.LOGIC_MAX: Hottest logic sensor, °C. -/
def pwrTherm_logicMax : Field := ⟨.pwrTherm, 63, 56, .ro, 0, []⟩
/-- PWR_THERM.DRAM_MAX: Hottest DRAM layer, °C. -/
def pwrTherm_dramMax : Field := ⟨.pwrTherm, 55, 48, .ro, 0, []⟩
/-- PWR_THERM.THROTTLES: Point reductions under R446, saturating. -/
def pwrTherm_throttles : Field := ⟨.pwrTherm, 47, 32, .rc, 0, []⟩
/-- PWR_THERM.DRAM_HOLDS: Channels held at 95 °C, saturating. -/
def pwrTherm_dramHolds : Field := ⟨.pwrTherm, 31, 16, .rc, 0, []⟩
/-- PWR_THERM.HOT_SENSOR: Logic sensor of LOGIC_MAX, 0 to 63. -/
def pwrTherm_hotSensor : Field := ⟨.pwrTherm, 15, 8, .ro, 0, []⟩
/-- PWR_RACK.BUDGET: Rack budget in W, 0 to 16,777,215; 0 for none. Also written over SMBus. -/
def pwrRack_budget : Field := ⟨.pwrRack, 63, 40, .rw, 0, []⟩
/-- PWR_RACK.PERIOD_MS: Share-out period, 1 to 1,000 ms. -/
def pwrRack_periodMs : Field := ⟨.pwrRack, 39, 30, .rw, 10, [(1, 1000)]⟩
/-- PWR_RACK.CLASS: Traffic class of budget records. -/
def pwrRack_class : Field := ⟨.pwrRack, 29, 27, .rw, 4, []⟩
/-- PWR_RACK.FAILSAFE_W: 100 to 1,800 W. -/
def pwrRack_failsafeW : Field := ⟨.pwrRack, 26, 16, .rw, 1000, [(100, 1800)]⟩
/-- PWR_RACK.REPORTING: Members reporting in the last period. -/
def pwrRack_reporting : Field := ⟨.pwrRack, 15, 0, .ro, 0, []⟩
/-- PWR_ENERGY_TOTAL.MJ: the value. -/
def pwrEnergyTotal_mj : Field := ⟨.pwrEnergyTotal, 63, 0, .ro, 0, []⟩
/-- PWR_ENERGY_UNATTR.MJ: the value. -/
def pwrEnergyUnattr_mj : Field := ⟨.pwrEnergyUnattr, 63, 0, .ro, 0, []⟩
/-- PWR_JOB_STAT.FULL: the value. -/
def pwrJobStat_full : Field := ⟨.pwrJobStat, 63, 32, .rc, 0, []⟩
/-- PWR_JOB_STAT.ENTRIES: the value. -/
def pwrJobStat_entries : Field := ⟨.pwrJobStat, 13, 0, .ro, 0, []⟩
/-- PWR_CLASS_POINT.WAIT: Point of class 6. -/
def pwrClassPoint_wait : Field := ⟨.pwrClassPoint, 20, 18, .ro, 7, []⟩
/-- PWR_CLASS_POINT.IDLE: Point of class 5. -/
def pwrClassPoint_idle : Field := ⟨.pwrClassPoint, 17, 15, .ro, 7, []⟩
/-- PWR_CLASS_POINT.FILL: Point of class 4. -/
def pwrClassPoint_fill : Field := ⟨.pwrClassPoint, 14, 12, .ro, 1, []⟩
/-- PWR_CLASS_POINT.MIGRATE: Point of class 3. -/
def pwrClassPoint_migrate : Field := ⟨.pwrClassPoint, 11, 9, .ro, 4, []⟩
/-- PWR_CLASS_POINT.DECODE_THIN: Point of class 2. -/
def pwrClassPoint_decodeThin : Field := ⟨.pwrClassPoint, 8, 6, .ro, 2, []⟩
/-- PWR_CLASS_POINT.DECODE_DENSE: Point of class 1. -/
def pwrClassPoint_decodeDense : Field := ⟨.pwrClassPoint, 5, 3, .ro, 0, []⟩
/-- PWR_CLASS_POINT.PREFILL: Point of class 0. -/
def pwrClassPoint_prefill : Field := ⟨.pwrClassPoint, 2, 0, .ro, 0, []⟩
/-- PWR_REFUSE.COUNT: Refusals, saturating. -/
def pwrRefuse_count : Field := ⟨.pwrRefuse, 63, 32, .rc, 0, []⟩
/-- PWR_REFUSE.DOMAIN: Domain of the last refusal; 0x7F for a device state. -/
def pwrRefuse_domain : Field := ⟨.pwrRefuse, 14, 8, .ro, 0, []⟩
/-- PWR_REFUSE.REFUSER: Under R414. -/
def pwrRefuse_refuser : Field := ⟨.pwrRefuse, 3, 0, .ro, 0, []⟩
/-- PWR_CLASS_TABLE.FIXED: the value. -/
def pwrClassTable_fixed : Field := ⟨.pwrClassTable, 31, 16, .ro, 0, []⟩
/-- PWR_CLASS_TABLE.SCALED: the value. -/
def pwrClassTable_scaled : Field := ⟨.pwrClassTable, 15, 0, .ro, 0, []⟩
/-- PWR_NEED.NEED: the value. -/
def pwrNeed_need : Field := ⟨.pwrNeed, 15, 0, .ro, 0, []⟩
/-- PWR_DOM_CFG.IDLE_D3_MS: 1 to 60,000 ms; 0 never. Reset: By kind (see Reg.reset). -/
def pwrDomCfg_idleD3Ms : Field := ⟨.pwrDomCfg, 47, 32, .rw, 0, [(0, 60000)]⟩
/-- PWR_DOM_CFG.IDLE_D2_US: 20 to 65,535 µs; 0 never. Reset: By kind (see Reg.reset). -/
def pwrDomCfg_idleD2Us : Field := ⟨.pwrDomCfg, 31, 16, .rw, 0, [(0, 0), (20, 65535)]⟩
/-- PWR_DOM_CFG.IDLE_D1_NS: 50 to 4,095 ns; 0 never. -/
def pwrDomCfg_idleD1Ns : Field := ⟨.pwrDomCfg, 15, 4, .rw, 200, [(0, 0), (50, 4095)]⟩
/-- PWR_DOM_CFG.MIN_STATE: Deepest state allowed, D0 to D3. -/
def pwrDomCfg_minState : Field := ⟨.pwrDomCfg, 1, 0, .rw, 3, []⟩
/-- PWR_DOM_STAT.WAKES: Wakes, saturating. -/
def pwrDomStat_wakes : Field := ⟨.pwrDomStat, 63, 32, .rc, 0, []⟩
/-- PWR_DOM_STAT.DROOPS: Droop events, saturating. -/
def pwrDomStat_droops : Field := ⟨.pwrDomStat, 31, 16, .rc, 0, []⟩
/-- PWR_DOM_STAT.LAST_WAKE: Source of the last wake, under the wake source table. -/
def pwrDomStat_lastWake : Field := ⟨.pwrDomStat, 15, 12, .ro, 0, []⟩
/-- PWR_DOM_STAT.POINT: Current point: P0 to P7, or M0 to M2 for channels; 0 otherwise. -/
def pwrDomStat_point : Field := ⟨.pwrDomStat, 6, 4, .ro, 0, []⟩
/-- PWR_DOM_STAT.STATE: D0 to D3. -/
def pwrDomStat_state : Field := ⟨.pwrDomStat, 1, 0, .ro, 0, []⟩
/-- SEC_BOOT.SVN_FLOOR: Fused floor, 0 to 64. -/
def secBoot_svnFloor : Field := ⟨.secBoot, 63, 56, .ro, 0, []⟩
/-- SEC_BOOT.SVN: SVN of the running image. -/
def secBoot_svn : Field := ⟨.secBoot, 55, 48, .ro, 0, []⟩
/-- SEC_BOOT.KEYS_LOST: Under R475. -/
def secBoot_keysLost : Field := ⟨.secBoot, 9, 9, .ro, 0, []⟩
/-- SEC_BOOT.STREAMED: 1: the running image came by host stream. -/
def secBoot_streamed : Field := ⟨.secBoot, 8, 8, .ro, 0, []⟩
/-- SEC_BOOT.RESULT: 0 no failure; 1 to 6 the failed step of R458; 7 no boot flash; 8–15 never written. -/
def secBoot_result : Field := ⟨.secBoot, 7, 4, .ro, 0, []⟩
/-- SEC_RECOVERY.CERT_LENGTH: Bytes of certificate at window offset 0x400_0000 (R460), 0 to 16,384. -/
def secRecovery_certLength : Field := ⟨.secRecovery, 63, 49, .rw, 0, [(0, 16384)]⟩
/-- SEC_RECOVERY.LENGTH: Image bytes, 2,049 to 67,108,864. -/
def secRecovery_length : Field := ⟨.secRecovery, 48, 22, .rw, 0, [(2049, 67108864)]⟩
/-- SEC_RECOVERY.GO: Starts verification under R460; reads 0. -/
def secRecovery_go : Field := ⟨.secRecovery, 1, 1, .w1s, 0, []⟩
/-- SEC_RECOVERY.READY: 1: the ROM awaits an image. -/
def secRecovery_ready : Field := ⟨.secRecovery, 0, 0, .ro, 0, []⟩
/-- SEC_DEBUG.FEATURES: Bit 0 C; bit 1 D; bit 2 trace digests; bit 3 never set. -/
def secDebug_features : Field := ⟨.secDebug, 11, 8, .ro, 0, []⟩
/-- SEC_DEBUG.PARTITION: Named partition. -/
def secDebug_partition : Field := ⟨.secDebug, 7, 4, .ro, 0, []⟩
/-- SEC_DEBUG.ACTIVE: 1: FIELD_DEBUG. -/
def secDebug_active : Field := ⟨.secDebug, 0, 0, .ro, 0, []⟩
/-- SEC_DBG_NONCE0.NONCE: the value. -/
def secDbgNonce0_nonce : Field := ⟨.secDbgNonce0, 63, 0, .ro, 0, []⟩
/-- SEC_DBG_NONCE1.NONCE: the value. -/
def secDbgNonce1_nonce : Field := ⟨.secDbgNonce1, 63, 0, .ro, 0, []⟩
/-- SEC_FUSE_PROG.WORD: the value. -/
def secFuseProg_word : Field := ⟨.secFuseProg, 63, 0, .wo, 0, []⟩
/-- DBG_TRACE_STAT.LOST: Records dropped (R484), saturating. -/
def dbgTraceStat_lost : Field := ⟨.dbgTraceStat, 63, 33, .rc, 0, []⟩
/-- DBG_TRACE_STAT.FILL: Records in the buffer, 0 to 1,048,576. -/
def dbgTraceStat_fill : Field := ⟨.dbgTraceStat, 32, 12, .ro, 0, []⟩
/-- DBG_TRACE_STAT.FROZEN: Under R483. -/
def dbgTraceStat_frozen : Field := ⟨.dbgTraceStat, 2, 2, .ro, 0, []⟩
/-- DBG_TRACE_STAT.TRIGGERED: 1: the armed trigger has fired. -/
def dbgTraceStat_triggered : Field := ⟨.dbgTraceStat, 1, 1, .ro, 0, []⟩
/-- DBG_TRACE_STAT.ENABLED: 1: trace enabled. -/
def dbgTraceStat_enabled : Field := ⟨.dbgTraceStat, 0, 0, .ro, 0, []⟩
/-- DBG_GSTOP.SUPPRESSED: 1: a scan was suppressed (R490). -/
def dbgGstop_suppressed : Field := ⟨.dbgGstop, 7, 7, .ro, 0, []⟩
/-- DBG_GSTOP.SOURCE: 0 GSTOP_N, 1 ASSERT, 2 JTAG, 3 escalation. -/
def dbgGstop_source : Field := ⟨.dbgGstop, 6, 5, .ro, 0, []⟩
/-- DBG_GSTOP.STOPPED: 1: the device is stopped; kept in the plinth until read after reset. -/
def dbgGstop_stopped : Field := ⟨.dbgGstop, 4, 4, .ro, 0, []⟩
/-- DBG_GSTOP.SINK: 0 trace port; 1 TDO. -/
def dbgGstop_sink : Field := ⟨.dbgGstop, 3, 3, .rw, 0, []⟩
/-- DBG_GSTOP.PLASTER: Starts scan-out after a stop; ignored otherwise; reads 0. -/
def dbgGstop_plaster : Field := ⟨.dbgGstop, 1, 1, .w1s, 0, []⟩
/-- DBG_GSTOP.ASSERT: Starts a global stop when E is available; reads 0. -/
def dbgGstop_assert : Field := ⟨.dbgGstop, 0, 0, .w1s, 0, []⟩
/-- DBG_HALT.CORES: Bit i: control core i runs the partition's firmware. -/
def dbgHalt_cores : Field := ⟨.dbgHalt, 63, 48, .ro, 0, []⟩
/-- DBG_HALT.BREAKPOINTS: Debug triggers armed on those cores. -/
def dbgHalt_breakpoints : Field := ⟨.dbgHalt, 47, 40, .ro, 0, []⟩
/-- DBG_HALT.RESUME: Resumes under R488 when C is available; reads 0. -/
def dbgHalt_resume : Field := ⟨.dbgHalt, 2, 2, .w1s, 0, []⟩
/-- DBG_HALT.DRAINED: 1: halted and drained. -/
def dbgHalt_drained : Field := ⟨.dbgHalt, 1, 1, .ro, 0, []⟩
/-- DBG_HALT.HALTED: 1: halted by DEBUG_HALT or a breakpoint. -/
def dbgHalt_halted : Field := ⟨.dbgHalt, 0, 0, .ro, 0, []⟩
/-- PLN_BOOT.READY_MS: Milliseconds from the start of the last reset to READY; 0 before READY. -/
def plnBoot_readyMs : Field := ⟨.plnBoot, 63, 32, .ro, 0, []⟩
/-- PLN_BOOT.RECOVERY_ARMED: 1: SMBus RECOVERY is set for the next start-up. -/
def plnBoot_recoveryArmed : Field := ⟨.plnBoot, 10, 10, .ro, 0, []⟩
/-- PLN_BOOT.XTAL_FAULT: 1: the plinth runs from its RC oscillator. -/
def plnBoot_xtalFault : Field := ⟨.plnBoot, 9, 9, .ro, 0, []⟩
/-- PLN_BOOT.QSTATE_LOST: Under R510. -/
def plnBoot_qstateLost : Field := ⟨.plnBoot, 8, 8, .ro, 0, []⟩
/-- PLN_BOOT.LAST_RESET: 0 cold start; 1 fundamental reset; 2 self-reset; 3 C5 exit; 4 restart from C6; 5–15 never written. -/
def plnBoot_lastReset : Field := ⟨.plnBoot, 7, 4, .ro, 0, []⟩
/-- PLN_BOOT.STAGE: 0 POWER_ON; 1 RAILS; 2 CLOCKS; 3 ROM_VERIFY; 4 RECOVERY; 5 IDENTITY; 6 FIRMWARE_INIT; 7 READY; 8 FAULT; 9 STAY_OFF; 10–15 never written. -/
def plnBoot_stage : Field := ⟨.plnBoot, 3, 0, .ro, 0, []⟩
/-- PLN_QSTATE.GENERATION: Generation of the last copy written or loaded. -/
def plnQstate_generation : Field := ⟨.plnQstate, 63, 16, .ro, 0, []⟩
/-- PLN_QSTATE.WRITE_FAILS: Copies that failed to write, saturating. -/
def plnQstate_writeFails : Field := ⟨.plnQstate, 15, 8, .rc, 0, []⟩
/-- PLN_QSTATE.COPY: Copy written last, 0 or 1. -/
def plnQstate_copy : Field := ⟨.plnQstate, 1, 1, .ro, 0, []⟩
/-- PLN_QSTATE.FLASH_VALID: 1: a good copy exists in boot flash. -/
def plnQstate_flashValid : Field := ⟨.plnQstate, 0, 0, .ro, 0, []⟩
/-- PIN_INPUT.MERGED: Edges merged under R503, saturating. -/
def pinInput_merged : Field := ⟨.pinInput, 63, 32, .rc, 0, []⟩
/-- PIN_INPUT.EVENTS: Events raised, saturating. -/
def pinInput_events : Field := ⟨.pinInput, 31, 16, .rc, 0, []⟩
/-- PIN_INPUT.STUCK: 1: stuck under R504. -/
def pinInput_stuck : Field := ⟨.pinInput, 2, 2, .ro, 0, []⟩
/-- PIN_INPUT.MASKED: 1: masked as stuck (WAKE_N, ALERT_N). -/
def pinInput_masked : Field := ⟨.pinInput, 1, 1, .ro, 0, []⟩
/-- PIN_INPUT.LEVEL: 1: filtered level is asserted. -/
def pinInput_level : Field := ⟨.pinInput, 0, 0, .ro, 0, []⟩
/-- GLB_ID.PART: Part number. -/
def glbId_part : Field := ⟨.glbId, 63, 48, .ro, 37888, []⟩
/-- GLB_ID.STEP_LETTER: 0 A, 1 B, and so on. -/
def glbId_stepLetter : Field := ⟨.glbId, 47, 44, .ro, 0, []⟩
/-- GLB_ID.STEP_NUMBER: Digit of the stepping. -/
def glbId_stepNumber : Field := ⟨.glbId, 43, 40, .ro, 2, []⟩
/-- GLB_ID.SOURCE: 0x00 Luahisel; 0x01–0xFE a second source that Luahisel has assigned; 0xFF never read. -/
def glbId_source : Field := ⟨.glbId, 39, 32, .ro, 0, []⟩
/-- GLB_ID.MAP_VERSION: Version of this register map. -/
def glbId_mapVersion : Field := ⟨.glbId, 31, 16, .ro, 1, []⟩
/-- GLB_CAP0.TILES: Physical matrix tiles. -/
def glbCap0_tiles : Field := ⟨.glbCap0, 63, 56, .ro, 200, []⟩
/-- GLB_CAP0.SPARE_TILES: Tiles beyond the 192 logical tiles. -/
def glbCap0_spareTiles : Field := ⟨.glbCap0, 55, 48, .ro, 8, []⟩
/-- GLB_CAP0.CHANNELS: DRAM channels. -/
def glbCap0_channels : Field := ⟨.glbCap0, 47, 40, .ro, 64, []⟩
/-- GLB_CAP0.BANKS: Banks per channel. -/
def glbCap0_banks : Field := ⟨.glbCap0, 39, 32, .ro, 64, []⟩
/-- GLB_CAP0.PORTS: Fabric ports. -/
def glbCap0_ports : Field := ⟨.glbCap0, 31, 24, .ro, 8, []⟩
/-- GLB_CAP0.FLASH_CHANNELS: ONFI channels. -/
def glbCap0_flashChannels : Field := ⟨.glbCap0, 23, 16, .ro, 32, []⟩
/-- GLB_CAP0.PARTITIONS: Partitions. -/
def glbCap0_partitions : Field := ⟨.glbCap0, 15, 8, .ro, 16, []⟩
/-- GLB_CAP0.CORES: Control cores. -/
def glbCap0_cores : Field := ⟨.glbCap0, 7, 0, .ro, 16, []⟩
/-- GLB_CAP1.DRAM_GIB: Bonded DRAM in GiB. -/
def glbCap1_dramGib : Field := ⟨.glbCap1, 63, 48, .ro, 192, []⟩
/-- GLB_CAP1.STAGING_MIB: Staging SRAM in MiB. -/
def glbCap1_stagingMib : Field := ⟨.glbCap1, 47, 32, .ro, 128, []⟩
/-- GLB_CAP1.GROUP_MAX: Largest lockstep group. -/
def glbCap1_groupMax : Field := ⟨.glbCap1, 31, 22, .ro, 512, []⟩
/-- GLB_CAP1.QUEUES: Queue numbers. -/
def glbCap1_queues : Field := ⟨.glbCap1, 21, 13, .ro, 256, []⟩
/-- GLB_CAP1.BOOT_FLASH: 1: an xSPI device answered at stage ROM_VERIFY. -/
def glbCap1_bootFlash : Field := ⟨.glbCap1, 12, 12, .ro, 0, []⟩
/-- GLB_CAP1.FLASH_FITTED: 1: the FTL found a usable target under R303. -/
def glbCap1_flashFitted : Field := ⟨.glbCap1, 11, 11, .ro, 0, []⟩
/-- GLB_LIFECYCLE.REVOKED: Bit i: vendor key slot i revoked. Reset: Fuses (see Reg.reset). -/
def glbLifecycle_revoked : Field := ⟨.glbLifecycle, 13, 12, .ro, 0, []⟩
/-- GLB_LIFECYCLE.BOOT_SOURCE: R459. Reset: Fuses (see Reg.reset). -/
def glbLifecycle_bootSource : Field := ⟨.glbLifecycle, 11, 11, .ro, 0, []⟩
/-- GLB_LIFECYCLE.OWNER_KEY: 1: the owner debug-key hash is programmed. Reset: Fuses (see Reg.reset). -/
def glbLifecycle_ownerKey : Field := ⟨.glbLifecycle, 10, 10, .ro, 0, []⟩
/-- GLB_LIFECYCLE.SECOND_KEY: 1: vendor key slot 1 is programmed (R455). Reset: Fuses (see Reg.reset). -/
def glbLifecycle_secondKey : Field := ⟨.glbLifecycle, 9, 9, .ro, 0, []⟩
/-- GLB_LIFECYCLE.FIELD_LOCK: R456. Reset: Fuses (see Reg.reset). -/
def glbLifecycle_fieldLock : Field := ⟨.glbLifecycle, 8, 8, .ro, 0, []⟩
/-- GLB_LIFECYCLE.STATE: Lifecycle state under R452; 3 while FIELD_DEBUG is active. Reset: Fuses (see Reg.reset). -/
def glbLifecycle_state : Field := ⟨.glbLifecycle, 2, 0, .ro, 0, []⟩
/-- GLB_FN.ROLE: Role set by ROLE_SET: 0 prompt, 1 generation, 2 cache; 3 never read. Kept in the plinth; 1 after VDD_AON is applied. -/
def glbFn_role : Field := ⟨.glbFn, 7, 6, .ro, 1, []⟩
/-- GLB_FN.MGMT: 1: the reading function is the management physical function. Reset: Per function (see Reg.reset). -/
def glbFn_mgmt : Field := ⟨.glbFn, 5, 5, .ro, 0, []⟩
/-- GLB_FN.PARTITION: Partition of the reading virtual function; 0 when MGMT is 1. Reset: Per function (see Reg.reset). -/
def glbFn_partition : Field := ⟨.glbFn, 3, 0, .ro, 0, []⟩
/-- GLB_BAR4_CFG.SIZE_LOG2: Current BAR4 size, 31 to 38. -/
def glbBar4Cfg_sizeLog2 : Field := ⟨.glbBar4Cfg, 39, 32, .ro, 38, []⟩
/-- GLB_BAR4_CFG.VIEW: Sliding window: 0 de-interleaved, 1 interleaved (R527). -/
def glbBar4Cfg_view : Field := ⟨.glbBar4Cfg, 16, 16, .rw, 0, []⟩
/-- GLB_BAR4_CFG.SLIDE_GIB: Sliding window base in GiB, 0 to 191; other values leave the field unchanged. -/
def glbBar4Cfg_slideGib : Field := ⟨.glbBar4Cfg, 15, 8, .rw, 0, [(0, 191)]⟩
/-- GLB_BAR4_CFG.INT_BASE_GIB: Interleaved window base in GiB, 0 to 144; other values leave the field unchanged. -/
def glbBar4Cfg_intBaseGib : Field := ⟨.glbBar4Cfg, 7, 0, .rw, 0, [(0, 144)]⟩
/-- GLB_ERRLOG_BASE.ADDR: Host address of the log, 4 KiB aligned; writable while ENABLE is 0. -/
def glbErrlogBase_addr : Field := ⟨.glbErrlogBase, 63, 12, .rw, 0, []⟩
/-- GLB_ERRLOG_CTRL.HEAD: Index of the next record the host will read; a value at or above the depth leaves the field unchanged. -/
def glbErrlogCtrl_head : Field := ⟨.glbErrlogCtrl, 63, 48, .rw, 0, []⟩
/-- GLB_ERRLOG_CTRL.TAIL: Index of the next record the device writes. -/
def glbErrlogCtrl_tail : Field := ⟨.glbErrlogCtrl, 47, 32, .ro, 0, []⟩
/-- GLB_ERRLOG_CTRL.VECTOR: MSI-X vector, 0 to 2,047; other values leave the field unchanged. -/
def glbErrlogCtrl_vector : Field := ⟨.glbErrlogCtrl, 31, 16, .rw, 0, [(0, 2047)]⟩
/-- GLB_ERRLOG_CTRL.DEPTH_LOG2: 4 to 16 (16 to 65,536 records); writable while ENABLE is 0. -/
def glbErrlogCtrl_depthLog2 : Field := ⟨.glbErrlogCtrl, 8, 4, .rw, 4, [(4, 16)]⟩
/-- GLB_ERRLOG_CTRL.FULL: 1: the log holds depth − 1 unread records. -/
def glbErrlogCtrl_full : Field := ⟨.glbErrlogCtrl, 1, 1, .ro, 0, []⟩
/-- GLB_ERRLOG_CTRL.ENABLE: 1: the log is in service. Writing 1 sets TAIL to HEAD. -/
def glbErrlogCtrl_enable : Field := ⟨.glbErrlogCtrl, 0, 0, .rw, 0, []⟩
/-- GLB_ERR_STAT.LAST_ID: Low 16 bits of the ID of the last record raised. -/
def glbErrStat_lastId : Field := ⟨.glbErrStat, 63, 48, .ro, 0, []⟩
/-- GLB_ERR_STAT.DEFERRED: Deferred records, saturating. -/
def glbErrStat_deferred : Field := ⟨.glbErrStat, 47, 32, .rc, 0, []⟩
/-- GLB_ERR_STAT.CORRECTED: Corrected records, saturating. -/
def glbErrStat_corrected : Field := ⟨.glbErrStat, 31, 16, .rc, 0, []⟩
/-- GLB_ERR_STAT.PFATAL: Partition-fatal records, saturating. -/
def glbErrStat_pfatal : Field := ⟨.glbErrStat, 15, 8, .rc, 0, []⟩
/-- GLB_ERR_STAT.BAD_ACCESS: Accesses refused under R522, saturating. -/
def glbErrStat_badAccess : Field := ⟨.glbErrStat, 7, 0, .rc, 0, []⟩

/-- A register's fields, most significant first; bits in no field are reserved (R12). -/
def Reg.fields : Reg → List Field
  | .cmdAdmqCtrl => [cmdAdmqCtrl_fault, cmdAdmqCtrl_replyDepthLog2, cmdAdmqCtrl_cmdDepthLog2, cmdAdmqCtrl_enable]
  | .cmdAdmqCmdBase => [cmdAdmqCmdBase_addr]
  | .cmdAdmqReplyBase => [cmdAdmqReplyBase_addr]
  | .cmdQfault => [cmdQfault_count, cmdQfault_queue, cmdQfault_cause, cmdQfault_position]
  | .cmdInflight => [cmdInflight_count]
  | .cmdRingSkip => [cmdRingSkip_count]
  | .cmdReplyWait => [cmdReplyWait_count]
  | .ldlMeta => [ldlMeta_freeChunks]
  | .ldlWalkMiss => [ldlWalkMiss_count]
  | .ldlBiasFix => [ldlBiasFix_count]
  | .ldlMetaFault => [ldlMetaFault_count]
  | .ldlQuantStat => [ldlQuantStat_nanCount, ldlQuantStat_satCount, ldlQuantStat_appendCount]
  | .ldlNopageSkip => [ldlNopageSkip_count]
  | .ldlGroups => [ldlGroups_count]
  | .genMmwin => [genMmwin_max, genMmwin_min]
  | .genDraftCfg => [genDraftCfg_model, genDraftCfg_group, genDraftCfg_busy, genDraftCfg_window]
  | .genApertureHole => [genApertureHole_count]
  | .genChmode => [genChmode_switches, genChmode_forceMem, genChmode_mode]
  | .genChWait => [genChWait_waitTicks, genChWait_held]
  | .genChUnits => [genChUnits_memOnly, genChUnits_quarantine]
  | .genChEcc => [genChEcc_uncorrected, genChEcc_scrubbed, genChEcc_corrected]
  | .genSpecStat => [genSpecStat_noRing, genSpecStat_halvings, genSpecStat_probes, genSpecStat_probesAccepted]
  | .genCrossover => [genCrossover_positions]
  | .prmStatus => [prmStatus_sramCorrected, prmStatus_qrecLost, prmStatus_quarantined, prmStatus_sparesFree, prmStatus_withdrawn, prmStatus_groupsFree]
  | .prmReplay => [prmReplay_interval]
  | .prmReplayStat => [prmReplayStat_samples, prmReplayStat_mismatches, prmReplayStat_unresolved, prmReplayStat_noTile]
  | .prmSelftest => [prmSelftest_fails, prmSelftest_passes, prmSelftest_patterns, prmSelftest_nextTile, prmSelftest_perSlot, prmSelftest_enable]
  | .prmSelftestTemp => [prmSelftestTemp_temps]
  | .prmSelftestTemp2 => [prmSelftestTemp2_temps]
  | .prmPart => [prmPart_fillTokens, prmPart_chunk, prmPart_privileged, prmPart_groups]
  | .prmGroup => [prmGroup_state, prmGroup_owner]
  | .prmTileMap => [prmTileMap_valid, prmTileMap_physical]
  | .prmQrecTick => [prmQrecTick_tick]
  | .prmQrecInfo => [prmQrecInfo_kind, prmQrecInfo_cause, prmQrecInfo_temp, prmQrecInfo_pattern, prmQrecInfo_partValid, prmQrecInfo_partition, prmQrecInfo_kernel, prmQrecInfo_location]
  | .cmpChurn => [cmpChurn_busy, cmpChurn_weightSet, cmpChurn_layer]
  | .cmpStat => [cmpStat_coded, cmpStat_escaped, cmpStat_xtsRefused]
  | .cmpErrInfo => [cmpErrInfo_code, cmpErrInfo_partition, cmpErrInfo_kind, cmpErrInfo_escape, cmpErrInfo_table, cmpErrInfo_site, cmpErrInfo_count]
  | .cmpErrBlock => [cmpErrBlock_word1]
  | .cmpDramXts => [cmpDramXts_enable]
  | .schSkimCfg => [schSkimCfg_promptWeight]
  | .schPart => [schPart_batchMax, schPart_cap, schPart_resetting, schPart_swapPending, schPart_shadowValid, schPart_activeValid]
  | .schPeriod => [schPeriod_stretch, schPeriod_period]
  | .schSwapTick => [schSwapTick_tick]
  | .schStep => [schStep_count]
  | .schGoal => [schGoal_goal]
  | .schLate => [schLate_void, schLate_entries, schLate_maxLateness]
  | .schSkip => [schSkip_shed, schSkip_hold]
  | .schSkip2 => [schSkip2_excluded, schSkip2_mirrorLate]
  | .schGroup => [schGroup_manager, schGroup_groupId, schGroup_members, schGroup_index, schGroup_slack]
  | .schReset => [schReset_count, schReset_cause, schReset_duration]
  | .schSync => [schSync_lagMisses, schSync_lagUs]
  | .schTenant => [schTenant_valid, schTenant_partition, schTenant_hold, schTenant_unlimited]
  | .schTenantBudget => [schTenantBudget_budget]
  | .tirCfg => [tirCfg_stallMax, tirCfg_agePeriod, tirCfg_ageLimit]
  | .tirT1Wm => [tirT1Wm_highFree, tirT1Wm_lowFree]
  | .tirPool => [tirPool_pool, tirPool_free]
  | .tirLend => [tirLend_lent, tirLend_t0Free, tirLend_lendFrames]
  | .tirEvict => [tirEvict_abandoned, tirEvict_toT3, tirEvict_toT2]
  | .tirStall => [tirStall_drops, tirStall_wait, tirStall_count]
  | .tirPeerCtrl => [tirPeerCtrl_node, tirPeerCtrl_key, tirPeerCtrl_drained, tirPeerCtrl_drain, tirPeerCtrl_enable]
  | .tirPeerBase => [tirPeerBase_base64k, tirPeerBase_slots]
  | .tirPeerUsed => [tirPeerUsed_used]
  | .tirOccLo => [tirOccLo_t0, tirOccLo_t2, tirOccLo_t1]
  | .tirOccHi => [tirOccHi_t3]
  | .ftlPolicy => [ftlPolicy_gcStart, ftlPolicy_gcStop, ftlPolicy_staticDelta, ftlPolicy_reserveMin, ftlPolicy_scrubDays, ftlPolicy_endurance]
  | .ftlPolicy2 => [ftlPolicy2_readLimit, ftlPolicy2_refreshBits, ftlPolicy2_retries]
  | .ftlHealth => [ftlHealth_mode, ftlHealth_targetsRefused, ftlHealth_grownBad, ftlHealth_eraseMax, ftlHealth_eraseMin]
  | .ftlLdpc => [ftlLdpc_uncorrectable, ftlLdpc_soft, ftlLdpc_retry]
  | .ftlHoldupCfg => [ftlHoldupCfg_cap, ftlHoldupCfg_vminMv, ftlHoldupCfg_div8]
  | .ftlHoldupCost => [ftlHoldupCost_reserveMj, ftlHoldupCost_fixedMj, ftlHoldupCost_perMibMj]
  | .ftlHoldup => [ftlHoldup_refused, ftlHoldup_energyMj, ftlHoldup_code]
  | .asfNode => [asfNode_node, asfNode_fdom]
  | .asfMac => [asfMac_baseMac]
  | .asfFrameCfg => [asfFrameCfg_ethertype, asfFrameCfg_udpPort, asfFrameCfg_vlanId, asfFrameCfg_mode, asfFrameCfg_maxPayload]
  | .asfTimers => [asfTimers_timeoutUs, asfTimers_rtoUs, asfTimers_rnrWaitUs, asfTimers_rnrMax]
  | .asfPaging => [asfPaging_retryMaxMs, asfPaging_t3WaitUs, asfPaging_stallLimitUs, asfPaging_stalls, asfPaging_retriesSent]
  | .asfWindowCfg => [asfWindowCfg_targetExtraUs]
  | .asfCtxBase => [asfCtxBase_addr]
  | .asfCtxStat => [asfCtxStat_rnrSent, asfCtxStat_misses, asfCtxStat_open, asfCtxStat_cached]
  | .asfEpoch => [asfEpoch_current, asfEpoch_previous, asfEpoch_prevLive, asfEpoch_installed, asfEpoch_staleSent, asfEpoch_oldInflight]
  | .asfFault => [asfFault_count, asfFault_node, asfFault_cause, asfFault_conn]
  | .asfRxDrop => [asfRxDrop_tagFail, asfRxDrop_badOp, asfRxDrop_seqDiscard, asfRxDrop_refused]
  | .asfNotifyBase => [asfNotifyBase_addr]
  | .asfNotifyCtrl => [asfNotifyCtrl_head, asfNotifyCtrl_depthLog2, asfNotifyCtrl_enable]
  | .asfOwnCmd => [asfOwnCmd_key, asfOwnCmd_newOwner]
  | .asfOwnStat => [asfOwnStat_owner, asfOwnStat_refused, asfOwnStat_busy]
  | .asfRwinTarget => [asfRwinTarget_node, asfRwinTarget_offset]
  | .asfRwinCtrl => [asfRwinCtrl_key, asfRwinCtrl_conn, asfRwinCtrl_enable]
  | .asfRwinImm => [asfRwinImm_imm]
  | .tmbNow => [tmbNow_count]
  | .tmbCtrl => [tmbCtrl_master, tmbCtrl_interval, tmbCtrl_maxSlew, tmbCtrl_stepLimit, tmbCtrl_phaseSrc, tmbCtrl_freqSrc]
  | .tmbStat => [tmbStat_relocks, tmbStat_ppsIgnored, tmbStat_stepRefused, tmbStat_ppsLost, tmbStat_freqLost, tmbStat_holdover, tmbStat_alignLost, tmbStat_locked, tmbStat_stepped]
  | .tmbOffset => [tmbOffset_offset]
  | .tmbAdj => [tmbAdj_adj]
  | .tmbPpsCfg => [tmbPpsCfg_enable, tmbPpsCfg_width, tmbPpsCfg_outComp]
  | .tmbPpsInTs => [tmbPpsInTs_tick]
  | .tmbPtpCfg => [tmbPtpCfg_port, tmbPtpCfg_domain]
  | .tmbPortAsym => [tmbPortAsym_asym]
  | .shpClass => [shpClass_dscp7, shpClass_dscp6, shpClass_dscp5, shpClass_dscp4, shpClass_dscp3, shpClass_dscp2, shpClass_dscp1, shpClass_dscp0]
  | .shpSampleBase => [shpSampleBase_addr]
  | .shpSampleCtrl => [shpSampleCtrl_head, shpSampleCtrl_ports, shpSampleCtrl_depthLog2, shpSampleCtrl_enable]
  | .shpGrpBucket => [shpGrpBucket_enable, shpGrpBucket_burst, shpGrpBucket_rate]
  | .shpGateCtrl => [shpGateCtrl_cancel, shpGateCtrl_arm, shpGateCtrl_entries, shpGateCtrl_partition, shpGateCtrl_bind, shpGateCtrl_armed, shpGateCtrl_active, shpGateCtrl_cycle]
  | .shpGateSwap => [shpGateSwap_tick]
  | .shpGateStat => [shpGateStat_refused, shpGateStat_swaps, shpGateStat_heldFit, shpGateStat_gates]
  | .shpBucket => [shpBucket_enable, shpBucket_burst, shpBucket_rate]
  | .shpGateEntry => [shpGateEntry_duration, shpGateEntry_gates]
  | .resCtrl => [resCtrl_beatUs, resCtrl_missLimit, resCtrl_autoRecast, resCtrl_enable]
  | .resMgr => [resMgr_manager, resMgr_acting, resMgr_term]
  | .resDeputy => [resDeputy_dep3, resDeputy_dep2, resDeputy_dep1, resDeputy_dep0]
  | .resStat => [resStat_losses, resStat_lastLost, resStat_fenced, resStat_recastSource, resStat_recastDest, resStat_promoting, resStat_managing]
  | .resMirrorCfg => [resMirrorCfg_maxSlices, resMirrorCfg_slicesUsed, resMirrorCfg_slots]
  | .resRecast => [resRecast_spare, resRecast_source, resRecast_seqLeft]
  | .resCeCfg => [resCeCfg_windowMs, resCeCfg_threshold]
  | .resErrStat => [resErrStat_overflows, resErrStat_escalations, resErrStat_preempted, resErrStat_logLost, resErrStat_inHandling]
  | .resPartner => [resPartner_valid, resPartner_node]
  | .resSpare => [resSpare_valid, resSpare_node]
  | .resPlinthRec => [resPlinthRec_word]
  | .pwrDevCfg => [pwrDevCfg_c5IdleS, pwrDevCfg_c3IdleMs, pwrDevCfg_c5En, pwrDevCfg_c3En]
  | .pwrDevStat => [pwrDevStat_c3Entries, pwrDevStat_lastWake, pwrDevStat_state]
  | .pwrCap => [pwrCap_effective, pwrCap_host, pwrCap_share, pwrCap_board]
  | .pwrCtrlStat => [pwrCtrlStat_measuredW, pwrCtrlStat_estimateW, pwrCtrlStat_disagree, pwrCtrlStat_agree, pwrCtrlStat_railFlag, pwrCtrlStat_direction, pwrCtrlStat_telemetryFault, pwrCtrlStat_fallback, pwrCtrlStat_frozen]
  | .pwrAvsCfg => [pwrAvsCfg_vdoneTimeoutUs]
  | .pwrAvsStat => [pwrAvsStat_failures, pwrAvsStat_busyRetries, pwrAvsStat_crcResends, pwrAvsStat_lastMaster, pwrAvsStat_lastRail, pwrAvsStat_lastCause, pwrAvsStat_held]
  | .pwrLimitCfg => [pwrLimitCfg_assertions, pwrLimitCfg_holdMs, pwrLimitCfg_active, pwrLimitCfg_point]
  | .pwrTherm => [pwrTherm_logicMax, pwrTherm_dramMax, pwrTherm_throttles, pwrTherm_dramHolds, pwrTherm_hotSensor]
  | .pwrRack => [pwrRack_budget, pwrRack_periodMs, pwrRack_class, pwrRack_failsafeW, pwrRack_reporting]
  | .pwrEnergyTotal => [pwrEnergyTotal_mj]
  | .pwrEnergyUnattr => [pwrEnergyUnattr_mj]
  | .pwrJobStat => [pwrJobStat_full, pwrJobStat_entries]
  | .pwrClassPoint => [pwrClassPoint_wait, pwrClassPoint_idle, pwrClassPoint_fill, pwrClassPoint_migrate, pwrClassPoint_decodeThin, pwrClassPoint_decodeDense, pwrClassPoint_prefill]
  | .pwrRefuse => [pwrRefuse_count, pwrRefuse_domain, pwrRefuse_refuser]
  | .pwrClassTable => [pwrClassTable_fixed, pwrClassTable_scaled]
  | .pwrNeed => [pwrNeed_need]
  | .pwrDomCfg => [pwrDomCfg_idleD3Ms, pwrDomCfg_idleD2Us, pwrDomCfg_idleD1Ns, pwrDomCfg_minState]
  | .pwrDomStat => [pwrDomStat_wakes, pwrDomStat_droops, pwrDomStat_lastWake, pwrDomStat_point, pwrDomStat_state]
  | .secBoot => [secBoot_svnFloor, secBoot_svn, secBoot_keysLost, secBoot_streamed, secBoot_result]
  | .secRecovery => [secRecovery_certLength, secRecovery_length, secRecovery_go, secRecovery_ready]
  | .secDebug => [secDebug_features, secDebug_partition, secDebug_active]
  | .secDbgNonce0 => [secDbgNonce0_nonce]
  | .secDbgNonce1 => [secDbgNonce1_nonce]
  | .secFuseProg => [secFuseProg_word]
  | .dbgTraceStat => [dbgTraceStat_lost, dbgTraceStat_fill, dbgTraceStat_frozen, dbgTraceStat_triggered, dbgTraceStat_enabled]
  | .dbgGstop => [dbgGstop_suppressed, dbgGstop_source, dbgGstop_stopped, dbgGstop_sink, dbgGstop_plaster, dbgGstop_assert]
  | .dbgHalt => [dbgHalt_cores, dbgHalt_breakpoints, dbgHalt_resume, dbgHalt_drained, dbgHalt_halted]
  | .plnBoot => [plnBoot_readyMs, plnBoot_recoveryArmed, plnBoot_xtalFault, plnBoot_qstateLost, plnBoot_lastReset, plnBoot_stage]
  | .plnQstate => [plnQstate_generation, plnQstate_writeFails, plnQstate_copy, plnQstate_flashValid]
  | .pinInput => [pinInput_merged, pinInput_events, pinInput_stuck, pinInput_masked, pinInput_level]
  | .glbId => [glbId_part, glbId_stepLetter, glbId_stepNumber, glbId_source, glbId_mapVersion]
  | .glbCap0 => [glbCap0_tiles, glbCap0_spareTiles, glbCap0_channels, glbCap0_banks, glbCap0_ports, glbCap0_flashChannels, glbCap0_partitions, glbCap0_cores]
  | .glbCap1 => [glbCap1_dramGib, glbCap1_stagingMib, glbCap1_groupMax, glbCap1_queues, glbCap1_bootFlash, glbCap1_flashFitted]
  | .glbLifecycle => [glbLifecycle_revoked, glbLifecycle_bootSource, glbLifecycle_ownerKey, glbLifecycle_secondKey, glbLifecycle_fieldLock, glbLifecycle_state]
  | .glbFn => [glbFn_role, glbFn_mgmt, glbFn_partition]
  | .glbBar4Cfg => [glbBar4Cfg_sizeLog2, glbBar4Cfg_view, glbBar4Cfg_slideGib, glbBar4Cfg_intBaseGib]
  | .glbErrlogBase => [glbErrlogBase_addr]
  | .glbErrlogCtrl => [glbErrlogCtrl_head, glbErrlogCtrl_tail, glbErrlogCtrl_vector, glbErrlogCtrl_depthLog2, glbErrlogCtrl_full, glbErrlogCtrl_enable]
  | .glbErrStat => [glbErrStat_lastId, glbErrStat_deferred, glbErrStat_corrected, glbErrStat_pfatal, glbErrStat_badAccess]

/-- Where a register's instances lie: instance `i` at `base + s1 * (i / n2) + s2 * (i % n2)`, for `i` from `first` to
`n1 * n2 - 1`. -/
structure Layout where
  base : Nat
  s1 : Nat
  n1 : Nat
  s2 : Nat
  n2 : Nat
  first : Nat
deriving DecidableEq, Repr

/-- The layout of each register. The administration pair registers of CMD are banked per function (R52): instance 0
is the management function's and instance `p + 1` that of the virtual function of partition `p`, kept apart in the bank by
an offset beyond BAR0. The window registers of ASF are banked in the same way, and instance `16 * n + w` of virtual
function `n` has the alias of R350. -/
def Reg.layout : Reg → Layout
  | .cmdAdmqCtrl => ⟨0x100000, 33554432, 17, 8, 1, 0⟩
  | .cmdAdmqCmdBase => ⟨0x100008, 33554432, 17, 8, 1, 0⟩
  | .cmdAdmqReplyBase => ⟨0x100010, 33554432, 17, 8, 1, 0⟩
  | .cmdQfault => ⟨0x100018, 33554432, 17, 8, 1, 0⟩
  | .cmdInflight => ⟨0x100020, 33554432, 17, 8, 1, 0⟩
  | .cmdRingSkip => ⟨0x100100, 0, 1, 8, 16, 0⟩
  | .cmdReplyWait => ⟨0x100200, 0, 1, 8, 256, 0⟩
  | .ldlMeta => ⟨0x200000, 0, 1, 8, 1, 0⟩
  | .ldlWalkMiss => ⟨0x200008, 0, 1, 8, 1, 0⟩
  | .ldlBiasFix => ⟨0x200010, 0, 1, 8, 1, 0⟩
  | .ldlMetaFault => ⟨0x200018, 0, 1, 8, 1, 0⟩
  | .ldlQuantStat => ⟨0x200100, 0, 1, 8, 16, 0⟩
  | .ldlNopageSkip => ⟨0x200200, 0, 1, 8, 16, 0⟩
  | .ldlGroups => ⟨0x200300, 0, 1, 8, 16, 0⟩
  | .genMmwin => ⟨0x400000, 0, 1, 8, 1, 0⟩
  | .genDraftCfg => ⟨0x400008, 0, 1, 8, 1, 0⟩
  | .genApertureHole => ⟨0x400010, 0, 1, 8, 1, 0⟩
  | .genChmode => ⟨0x400100, 0, 1, 8, 64, 0⟩
  | .genChWait => ⟨0x400300, 0, 1, 8, 64, 0⟩
  | .genChUnits => ⟨0x400500, 0, 1, 8, 64, 0⟩
  | .genChEcc => ⟨0x400700, 0, 1, 8, 64, 0⟩
  | .genSpecStat => ⟨0x400900, 0, 1, 8, 16, 0⟩
  | .genCrossover => ⟨0x401000, 0, 1, 8, 256, 0⟩
  | .prmStatus => ⟨0x800000, 0, 1, 8, 1, 0⟩
  | .prmReplay => ⟨0x800008, 0, 1, 8, 1, 0⟩
  | .prmReplayStat => ⟨0x800010, 0, 1, 8, 1, 0⟩
  | .prmSelftest => ⟨0x800018, 0, 1, 8, 1, 0⟩
  | .prmSelftestTemp => ⟨0x800020, 0, 1, 8, 1, 0⟩
  | .prmSelftestTemp2 => ⟨0x800028, 0, 1, 8, 1, 0⟩
  | .prmPart => ⟨0x800100, 0, 1, 8, 16, 0⟩
  | .prmGroup => ⟨0x800200, 0, 1, 8, 24, 0⟩
  | .prmTileMap => ⟨0x800400, 0, 1, 8, 192, 0⟩
  | .prmQrecTick => ⟨0x801000, 0, 1, 16, 64, 0⟩
  | .prmQrecInfo => ⟨0x801008, 0, 1, 16, 64, 0⟩
  | .cmpChurn => ⟨0xa00000, 0, 1, 8, 1, 0⟩
  | .cmpStat => ⟨0xa00008, 0, 1, 8, 1, 0⟩
  | .cmpErrInfo => ⟨0xa00010, 0, 1, 8, 1, 0⟩
  | .cmpErrBlock => ⟨0xa00018, 0, 1, 8, 1, 0⟩
  | .cmpDramXts => ⟨0xa00020, 0, 1, 8, 1, 0⟩
  | .schSkimCfg => ⟨0xb00000, 0, 1, 8, 1, 0⟩
  | .schPart => ⟨0xb00100, 0, 1, 8, 16, 0⟩
  | .schPeriod => ⟨0xb00200, 0, 1, 8, 16, 0⟩
  | .schSwapTick => ⟨0xb00300, 0, 1, 8, 16, 0⟩
  | .schStep => ⟨0xb00400, 0, 1, 8, 16, 0⟩
  | .schGoal => ⟨0xb00500, 0, 1, 8, 16, 0⟩
  | .schLate => ⟨0xb00600, 0, 1, 8, 16, 0⟩
  | .schSkip => ⟨0xb00700, 0, 1, 8, 16, 0⟩
  | .schSkip2 => ⟨0xb00800, 0, 1, 8, 16, 0⟩
  | .schGroup => ⟨0xb00900, 0, 1, 8, 16, 0⟩
  | .schReset => ⟨0xb00a00, 0, 1, 8, 16, 0⟩
  | .schSync => ⟨0xb00b00, 0, 1, 8, 16, 0⟩
  | .schTenant => ⟨0xb10000, 0, 1, 8, 4096, 0⟩
  | .schTenantBudget => ⟨0xb20000, 0, 1, 8, 4096, 0⟩
  | .tirCfg => ⟨0xc00000, 0, 1, 8, 1, 0⟩
  | .tirT1Wm => ⟨0xc00008, 0, 1, 8, 1, 0⟩
  | .tirPool => ⟨0xc00010, 0, 1, 8, 1, 0⟩
  | .tirLend => ⟨0xc00018, 0, 1, 8, 1, 0⟩
  | .tirEvict => ⟨0xc00020, 0, 1, 8, 1, 0⟩
  | .tirStall => ⟨0xc00100, 0, 1, 8, 9, 1⟩
  | .tirPeerCtrl => ⟨0xc00200, 0, 1, 32, 16, 0⟩
  | .tirPeerBase => ⟨0xc00208, 0, 1, 32, 16, 0⟩
  | .tirPeerUsed => ⟨0xc00210, 0, 1, 32, 16, 0⟩
  | .tirOccLo => ⟨0xc10000, 0, 1, 16, 4096, 0⟩
  | .tirOccHi => ⟨0xc10008, 0, 1, 16, 4096, 0⟩
  | .ftlPolicy => ⟨0xd00000, 0, 1, 8, 1, 0⟩
  | .ftlPolicy2 => ⟨0xd00008, 0, 1, 8, 1, 0⟩
  | .ftlHealth => ⟨0xd00010, 0, 1, 8, 1, 0⟩
  | .ftlLdpc => ⟨0xd00018, 0, 1, 8, 1, 0⟩
  | .ftlHoldupCfg => ⟨0xd00020, 0, 1, 8, 1, 0⟩
  | .ftlHoldupCost => ⟨0xd00028, 0, 1, 8, 1, 0⟩
  | .ftlHoldup => ⟨0xd00030, 0, 1, 8, 1, 0⟩
  | .asfNode => ⟨0x1000000, 0, 1, 8, 1, 0⟩
  | .asfMac => ⟨0x1000008, 0, 1, 8, 1, 0⟩
  | .asfFrameCfg => ⟨0x1000010, 0, 1, 8, 1, 0⟩
  | .asfTimers => ⟨0x1000018, 0, 1, 8, 1, 0⟩
  | .asfPaging => ⟨0x1000020, 0, 1, 8, 1, 0⟩
  | .asfWindowCfg => ⟨0x1000028, 0, 1, 8, 1, 0⟩
  | .asfCtxBase => ⟨0x1000030, 0, 1, 8, 1, 0⟩
  | .asfCtxStat => ⟨0x1000038, 0, 1, 8, 1, 0⟩
  | .asfEpoch => ⟨0x1000040, 0, 1, 8, 1, 0⟩
  | .asfFault => ⟨0x1000048, 0, 1, 8, 1, 0⟩
  | .asfRxDrop => ⟨0x1000050, 0, 1, 8, 1, 0⟩
  | .asfNotifyBase => ⟨0x1000100, 0, 1, 16, 17, 0⟩
  | .asfNotifyCtrl => ⟨0x1000108, 0, 1, 16, 17, 0⟩
  | .asfOwnCmd => ⟨0x1000300, 0, 1, 8, 1, 0⟩
  | .asfOwnStat => ⟨0x1000308, 0, 1, 8, 1, 0⟩
  | .asfRwinTarget => ⟨0x1010000, 512, 17, 32, 16, 0⟩
  | .asfRwinCtrl => ⟨0x1010008, 512, 17, 32, 16, 0⟩
  | .asfRwinImm => ⟨0x1010010, 512, 17, 32, 16, 0⟩
  | .tmbNow => ⟨0x1900000, 0, 1, 8, 1, 0⟩
  | .tmbCtrl => ⟨0x1900008, 0, 1, 8, 1, 0⟩
  | .tmbStat => ⟨0x1900010, 0, 1, 8, 1, 0⟩
  | .tmbOffset => ⟨0x1900018, 0, 1, 8, 1, 0⟩
  | .tmbAdj => ⟨0x1900020, 0, 1, 8, 1, 0⟩
  | .tmbPpsCfg => ⟨0x1900028, 0, 1, 8, 1, 0⟩
  | .tmbPpsInTs => ⟨0x1900030, 0, 1, 8, 1, 0⟩
  | .tmbPtpCfg => ⟨0x1900038, 0, 1, 8, 1, 0⟩
  | .tmbPortAsym => ⟨0x1900100, 0, 1, 8, 8, 0⟩
  | .shpClass => ⟨0x1800000, 0, 1, 8, 1, 0⟩
  | .shpSampleBase => ⟨0x1800010, 0, 1, 8, 1, 0⟩
  | .shpSampleCtrl => ⟨0x1800018, 0, 1, 8, 1, 0⟩
  | .shpGrpBucket => ⟨0x1800020, 0, 1, 8, 17, 0⟩
  | .shpGateCtrl => ⟨0x1810000, 4096, 8, 8, 1, 0⟩
  | .shpGateSwap => ⟨0x1810008, 4096, 8, 8, 1, 0⟩
  | .shpGateStat => ⟨0x1810010, 4096, 8, 8, 1, 0⟩
  | .shpBucket => ⟨0x1810040, 4096, 8, 8, 8, 0⟩
  | .shpGateEntry => ⟨0x1810800, 4096, 8, 8, 256, 0⟩
  | .resCtrl => ⟨0x1a00000, 0, 1, 8, 1, 0⟩
  | .resMgr => ⟨0x1a00008, 0, 1, 8, 1, 0⟩
  | .resDeputy => ⟨0x1a00010, 0, 1, 8, 1, 0⟩
  | .resStat => ⟨0x1a00018, 0, 1, 8, 1, 0⟩
  | .resMirrorCfg => ⟨0x1a00020, 0, 1, 8, 1, 0⟩
  | .resRecast => ⟨0x1a00028, 0, 1, 8, 1, 0⟩
  | .resCeCfg => ⟨0x1a00030, 0, 1, 8, 1, 0⟩
  | .resErrStat => ⟨0x1a00038, 0, 1, 8, 1, 0⟩
  | .resPartner => ⟨0x1a00100, 0, 1, 8, 12, 0⟩
  | .resSpare => ⟨0x1a00200, 0, 1, 8, 16, 0⟩
  | .resPlinthRec => ⟨0x1a01000, 64, 18, 8, 8, 0⟩
  | .pwrDevCfg => ⟨0x1b00000, 0, 1, 8, 1, 0⟩
  | .pwrDevStat => ⟨0x1b00008, 0, 1, 8, 1, 0⟩
  | .pwrCap => ⟨0x1b00010, 0, 1, 8, 1, 0⟩
  | .pwrCtrlStat => ⟨0x1b00018, 0, 1, 8, 1, 0⟩
  | .pwrAvsCfg => ⟨0x1b00020, 0, 1, 8, 1, 0⟩
  | .pwrAvsStat => ⟨0x1b00028, 0, 1, 8, 1, 0⟩
  | .pwrLimitCfg => ⟨0x1b00030, 0, 1, 8, 1, 0⟩
  | .pwrTherm => ⟨0x1b00038, 0, 1, 8, 1, 0⟩
  | .pwrRack => ⟨0x1b00040, 0, 1, 8, 1, 0⟩
  | .pwrEnergyTotal => ⟨0x1b00048, 0, 1, 8, 1, 0⟩
  | .pwrEnergyUnattr => ⟨0x1b00050, 0, 1, 8, 1, 0⟩
  | .pwrJobStat => ⟨0x1b00058, 0, 1, 8, 1, 0⟩
  | .pwrClassPoint => ⟨0x1b00100, 0, 1, 8, 16, 0⟩
  | .pwrRefuse => ⟨0x1b00200, 0, 1, 8, 17, 0⟩
  | .pwrClassTable => ⟨0x1b00300, 0, 1, 8, 7, 0⟩
  | .pwrNeed => ⟨0x1b00400, 0, 1, 8, 56, 0⟩
  | .pwrDomCfg => ⟨0x1b01000, 0, 1, 8, 102, 0⟩
  | .pwrDomStat => ⟨0x1b02000, 0, 1, 8, 102, 0⟩
  | .secBoot => ⟨0x1d00000, 0, 1, 8, 1, 0⟩
  | .secRecovery => ⟨0x1d00008, 0, 1, 8, 1, 0⟩
  | .secDebug => ⟨0x1d00010, 0, 1, 8, 1, 0⟩
  | .secDbgNonce0 => ⟨0x1d00018, 0, 1, 8, 1, 0⟩
  | .secDbgNonce1 => ⟨0x1d00020, 0, 1, 8, 1, 0⟩
  | .secFuseProg => ⟨0x1d00100, 0, 1, 8, 16, 0⟩
  | .dbgTraceStat => ⟨0x1e00000, 0, 1, 8, 1, 0⟩
  | .dbgGstop => ⟨0x1e00008, 0, 1, 8, 1, 0⟩
  | .dbgHalt => ⟨0x1e00100, 0, 1, 8, 16, 0⟩
  | .plnBoot => ⟨0x1c00000, 0, 1, 8, 1, 0⟩
  | .plnQstate => ⟨0x1c00008, 0, 1, 8, 1, 0⟩
  | .pinInput => ⟨0x1f00000, 0, 1, 8, 8, 0⟩
  | .glbId => ⟨0x0, 0, 1, 8, 1, 0⟩
  | .glbCap0 => ⟨0x8, 0, 1, 8, 1, 0⟩
  | .glbCap1 => ⟨0x10, 0, 1, 8, 1, 0⟩
  | .glbLifecycle => ⟨0x18, 0, 1, 8, 1, 0⟩
  | .glbFn => ⟨0x20, 0, 1, 8, 1, 0⟩
  | .glbBar4Cfg => ⟨0x28, 0, 1, 8, 1, 0⟩
  | .glbErrlogBase => ⟨0x30, 0, 1, 8, 1, 0⟩
  | .glbErrlogCtrl => ⟨0x38, 0, 1, 8, 1, 0⟩
  | .glbErrStat => ⟨0x40, 0, 1, 8, 1, 0⟩
/-- Part 0 of the list of registers. -/
def regs0 : List Reg := [.cmdAdmqCtrl, .cmdAdmqCmdBase, .cmdAdmqReplyBase, .cmdQfault, .cmdInflight, .cmdRingSkip, .cmdReplyWait, .ldlMeta, .ldlWalkMiss, .ldlBiasFix, .ldlMetaFault, .ldlQuantStat, .ldlNopageSkip, .ldlGroups, .genMmwin, .genDraftCfg, .genApertureHole, .genChmode, .genChWait, .genChUnits]
/-- Part 1 of the list of registers. -/
def regs1 : List Reg := [.genChEcc, .genSpecStat, .genCrossover, .prmStatus, .prmReplay, .prmReplayStat, .prmSelftest, .prmSelftestTemp, .prmSelftestTemp2, .prmPart, .prmGroup, .prmTileMap, .prmQrecTick, .prmQrecInfo, .cmpChurn, .cmpStat, .cmpErrInfo, .cmpErrBlock, .cmpDramXts, .schSkimCfg]
/-- Part 2 of the list of registers. -/
def regs2 : List Reg := [.schPart, .schPeriod, .schSwapTick, .schStep, .schGoal, .schLate, .schSkip, .schSkip2, .schGroup, .schReset, .schSync, .schTenant, .schTenantBudget, .tirCfg, .tirT1Wm, .tirPool, .tirLend, .tirEvict, .tirStall, .tirPeerCtrl]
/-- Part 3 of the list of registers. -/
def regs3 : List Reg := [.tirPeerBase, .tirPeerUsed, .tirOccLo, .tirOccHi, .ftlPolicy, .ftlPolicy2, .ftlHealth, .ftlLdpc, .ftlHoldupCfg, .ftlHoldupCost, .ftlHoldup, .asfNode, .asfMac, .asfFrameCfg, .asfTimers, .asfPaging, .asfWindowCfg, .asfCtxBase, .asfCtxStat, .asfEpoch]
/-- Part 4 of the list of registers. -/
def regs4 : List Reg := [.asfFault, .asfRxDrop, .asfNotifyBase, .asfNotifyCtrl, .asfOwnCmd, .asfOwnStat, .asfRwinTarget, .asfRwinCtrl, .asfRwinImm, .tmbNow, .tmbCtrl, .tmbStat, .tmbOffset, .tmbAdj, .tmbPpsCfg, .tmbPpsInTs, .tmbPtpCfg, .tmbPortAsym, .shpClass, .shpSampleBase]
/-- Part 5 of the list of registers. -/
def regs5 : List Reg := [.shpSampleCtrl, .shpGrpBucket, .shpGateCtrl, .shpGateSwap, .shpGateStat, .shpBucket, .shpGateEntry, .resCtrl, .resMgr, .resDeputy, .resStat, .resMirrorCfg, .resRecast, .resCeCfg, .resErrStat, .resPartner, .resSpare, .resPlinthRec, .pwrDevCfg, .pwrDevStat]
/-- Part 6 of the list of registers. -/
def regs6 : List Reg := [.pwrCap, .pwrCtrlStat, .pwrAvsCfg, .pwrAvsStat, .pwrLimitCfg, .pwrTherm, .pwrRack, .pwrEnergyTotal, .pwrEnergyUnattr, .pwrJobStat, .pwrClassPoint, .pwrRefuse, .pwrClassTable, .pwrNeed, .pwrDomCfg, .pwrDomStat, .secBoot, .secRecovery, .secDebug, .secDbgNonce0]
/-- Part 7 of the list of registers. -/
def regs7 : List Reg := [.secDbgNonce1, .secFuseProg, .dbgTraceStat, .dbgGstop, .dbgHalt, .plnBoot, .plnQstate, .pinInput, .glbId, .glbCap0, .glbCap1, .glbLifecycle, .glbFn, .glbBar4Cfg, .glbErrlogBase, .glbErrlogCtrl, .glbErrStat]
/-- Every register, in the order of the tables. -/
def Reg.all : List Reg := regs0 ++ regs1 ++ regs2 ++ regs3 ++ regs4 ++ regs5 ++ regs6 ++ regs7

end Sys2Proof.Machine
end

