-- ==== Sys2Proof/Machine/Tables.lean ====
section
/-! DEFINITION. The power tables that the state after reset and the controller both read. -/

set_option Elab.async false

namespace Sys2Proof.Machine

/-- The dynamic-power scale of a core operating point (R424). -/
def pointScale (p : Nat) : Nat :=
  match p with
  | 0 => 1024 | 1 => 832 | 2 => 665 | 3 => 521 | 4 => 375 | 5 => 256 | 6 => 161 | _ => 89

/-- The fixed and scaled parts of a class's need (R439). -/
def classTable (c : Nat) : Nat × Nat :=
  match c with
  | 0 => (560, 1240) | 1 => (560, 1240) | 2 => (620, 420) | 3 => (480, 260) | 4 => (560, 1240)
  | 5 => (300, 120) | _ => (300, 80)

/-- The conservative need of class `c` at point `p`, in whole W rounded up (R439). -/
def conservativeNeed (c p : Nat) : Nat :=
  (classTable c).1 + ((classTable c).2 * pointScale p + 1023) / 1024

/-- The preferred points of reset, by class (R440). -/
def resetPoint (c : Nat) : Nat :=
  match c with
  | 0 => 0 | 1 => 0 | 2 => 2 | 3 => 4 | 4 => 1 | _ => 7

end Sys2Proof.Machine
end

