-- ==== Sys2Proof/Machine/State.lean ====
section
/-! DEFINITION. The state of the block: every register, queue, table, buffer, mode, pin and counter that the spec gives
it, as plain data, with the queue of waiting commands and the log of what it has sent out; and the state after reset. -/

set_option Elab.async false

namespace Sys2Proof.Machine

/-- How a step stops. No meaning raises either: the spec gives every path one defined behaviour (R7). -/
inductive Fault where
  /-- A command whose operands are outside their own widths; `WellFormed` shows that none exists. Raised by no meaning (safe). -/
  | illFormed
deriving DecidableEq, Repr

/-- Why a command has no meaning. -/
inductive Refusal where
  /-- The command of this mnemonic has no meaning in the model; raised by its arm of `exec` alone (safe). -/
  | notModelled (mnemonic : String)
deriving DecidableEq, Repr

/-! ### Buhorn -/

/-- The sequence states of R21. -/
inductive SeqState where
  | free | opened | prefilling | ready | stepping | paused | moving | done | rebuild
deriving DecidableEq, Repr

/-- A queue (R43 to R46, R74): kind 0 command, 1 reply, 2 token ring, 3 manager reply. `fn` is its function, 0 for the
management function and `p + 1` for partition `p`. `tail` is the doorbelled tail of a command queue, `head` the fetch
position of a command queue and the host's head of the others, `wr` and `phase` the device's place in a queue that it
writes (R56). `fetched` holds the packets fetched and not yet accepted, `reading` the packets asked of host memory; `sinceMsi` entries were written since the last MSI-X
message, the first of them at `firstMsi` (R74). `delayed` packets were made available by a doorbell that met C3 (R63). `deleting`
marks a queue whose QUEUE_DELETE has taken effect. -/
structure Queue where
  kind : Nat
  placement : Nat
  fn : Nat
  depth : Nat
  reply : Nat
  coalesce : Nat
  coalesceUs : Nat
  vector : Nat
  owner : Nat
  manager : Nat
  managerQueue : Nat
  base : Nat
  tail : Nat
  head : Nat
  wr : Nat
  phase : Bool
  faulted : Bool
  reading : Nat
  fetched : List Packet
  sinceMsi : Nat
  firstMsi : Tick
  delayed : Nat
  deleting : Bool
deriving DecidableEq, Repr

/-- What an accepted command waits for before its final reply (R64, R68, R74, R76). -/
inductive Wait where
  /-- A class-B command, or a class-I command deferred behind one (R76): its boundary. -/
  | boundary
  /-- The release of the boundary of this step (R26, R70). -/
  | release (step : Nat)
  /-- The release of the sequence's own records of steps up to this one (R27). -/
  | records (step : Nat)
  /-- The partner's acknowledgement of a closed sequence's free, behind the release of this step (R42). -/
  | freed (step : Nat)
  /-- The arrival at the source of the acknowledgement of the sequence's flip (R35). -/
  | flip
  /-- The first token of the sequence (R68). -/
  | firstToken
  /-- The first step of the sequence (R68, R70). -/
  | firstStep
  /-- The flip of a move (R36). -/
  | move
  /-- The cancel of a MOVING sequence: the destination's answer (R37). -/
  | abandon
  /-- The partner's copy or drop (R72). -/
  | mirror
  /-- Every named group in the named tier (R292): tier, first index, count. -/
  | fetch (tier first count : Nat)
  /-- A table swap (R247). -/
  | swap
  /-- A churn pass or a weight load in progress (R221). -/
  | churn
  /-- A draining region (R329). -/
  | revoke (index : Nat)
  /-- A connection's handshake or close (R336). -/
  | connOpen (conn : Nat)
  | connClose (conn : Nat)
  /-- The end of a partition reset (R260), or the drain of a halt (R487). -/
  | reset (p : Nat)
  | halt (p : Nat)
  /-- The programming of boot flash (R461). -/
  | firmware
  /-- The queue's last reply (R74). -/
  | queueDelete (q : Nat)
deriving DecidableEq, Repr

/-- An accepted, unreplied command (R61, R82). `part` is the partition at whose boundary it may take effect, `waked` says that
its acceptance waited for a wake from C3 (R63), `rebuilt` that its sequence entered REBUILD first (R539). -/
structure Pend where
  id : Nat
  queue : Nat
  fn : Nat
  tag : Nat
  op : Nat
  gaddr : Bool
  job : Nat
  obj : Nat
  part : Nat
  params : BitVec 384
  words : List (BitVec 32)
  code : BitVec 12
  accTick : Tick
  effTick : Tick
  wait : Wait
  status : Nat
  detail : Nat
  result : Nat
  rebuilt : Bool
  waked : Bool
deriving DecidableEq, Repr

/-- A reply as R55 lays it out. -/
structure Reply where
  tag : Nat
  status : Nat
  op : Nat
  queue : Nat
  detail : Nat
  effTick : Nat
  result : Nat
deriving DecidableEq, Repr

/-- A token ring record (R59): kind 0 token, 1 completion. -/
structure TokRec where
  handle : Nat
  kind : Nat
  reason : Nat
  token : Nat
  position : Nat
  step : Nat
deriving DecidableEq, Repr

/-- A step of one partition that has committed and is not yet released (R26, R383): the records of each sequence that
committed, the nodes whose commit record is still to be sent, the nodes whose acknowledgement is outstanding, and the
sequences whose commit is still to be shipped, with the first position and the first page-list index that are new. -/
structure Commit where
  step : Nat
  tick : Tick
  recs : List (Nat × List TokRec)
  toSend : List Nat
  waiting : List Nat
  fresh : List (Nat × Nat × Nat)
deriving DecidableEq, Repr

/-- A reply without room in its queue: the queue, the reply, and the function whose accepted command it ends, if it ends one (R60,
R79). -/
structure Held where
  rq : Nat
  reply : Reply
  owed : Option Nat
deriving DecidableEq, Repr

/-- The command interface's state. `heldReplies` are replies without room in their queue, `heldRecs` the records of a
step without room in the token ring (R60), by partition: sequence and records. `windows` holds what the host has written in the command
windows (R48, R51), by queue · 512 + slot. -/
structure Buhorn where
  queues : AMap Queue
  cmds : List Pend
  nextId : Nat
  lastAccept : AMap Tick
  roundRobin : AMap Nat
  heldReplies : List Held
  heldRecs : AMap (List (Nat × List TokRec))
  windows : AMap Packet
deriving DecidableEq, Repr

/-! ### Sequences -/

/-- A move in progress at the source, or at the destination until it has flipped and after (R33 to R38). `flipAcked` says that
the acknowledgement of the flip has arrived at the source, `mirror` is the node that mirrors the source's copy, `resolvedAt` the tick at
which the source resolved the destination again after a stale answer (R73). -/
structure Move where
  node : Nat
  part : Nat
  cls : Nat
  incoming : Bool
  srcHandle : Nat
  sent : Nat
  received : List Nat
  flipTick : Option Tick
  abandonSent : Bool
  retried : Bool
  recast : Bool
  byReset : Bool
  flipAcked : Bool
  mirror : Option Nat
  resolvedAt : Option Tick
deriving DecidableEq, Repr

/-- What the running step has selected for a sequence (R163 to R166): the drafted tokens, the number accepted, the
tokens selected in order. -/
structure Selected where
  drafted : Nat
  accepted : Nat
  tokens : List Nat
deriving DecidableEq, Repr

/-- A sequence: its descriptor (R97), its page list (R99), its journal (R377) and its place in the running step.
`prior` is the state held before MOVING or REBUILD (R22). `prompt` holds the prompt tokens accepted and not yet
committed; `promptTick` and `enableTick` are the acceptance ticks that R188 and R250 order by. `unacked` and `unjournaled`
name the steps whose mirror and manager acknowledgements are outstanding (R29, R30). `ring` is the draft ring that it holds: its
number in the reserved group, and whether it is filled (R162). `written` counts the rows of the running step or pass that each layer has (R113), `draft` is the draft length of the running step and `probing` whether it is a probe (R168). `kinds` marks the journal's generated tokens, `promoted` the lost home and the handle there of a promoted sequence (R392), `refusedBy` the spares that did not take it (R395). `rebuildPos` is the
next position of a re-prefill (R397). `copying` is a copy to a new partner in progress, and `oldMirror` the old
partner with the slots held there until it ends (R385); `copied` counts the parts of a copy that have left, `mirroring` says that the copy is a STATE_MIRROR's (R72). `leaves` gives the chunk of the
pool that holds each leaf of the page list (R99). `slots` gives the mirror slot of each page, keyed by index · 256 + layer, and
`journalSlots` that of each journal page (R381). -/
structure Seq where
  part : Nat
  tenant : Nat
  model : Nat
  format : Nat
  state : SeqState
  prior : SeqState
  priority : Nat
  speculate : Bool
  prot : Bool
  hold : Bool
  tail : Bool
  reason : Nat
  length : Nat
  limit : Nat
  tpp : Nat
  layers : Nat
  kvHeads : Nat
  headDim : Nat
  appended : Nat
  written : AMap Nat
  seed : BitVec 64
  temperature : BitVec 32
  topP : BitVec 32
  topK : Nat
  stops : List Nat
  probe : Nat
  fullRun : Nat
  zeroRun : Nat
  kMax : Nat
  kCur : Nat
  lastStep : Nat
  mirror : Option (Nat × Nat)
  oldMirror : Option (Nat × List Nat)
  job : Nat
  journal : List (BitVec 32)
  kinds : List Bool
  prompt : List Nat
  promptTick : Tick
  enableTick : Tick
  pages : AMap Nat
  leaves : AMap Nat
  slots : AMap Nat
  journalSlots : AMap Nat
  ring : Option (Nat × Bool)
  draft : Nat
  probing : Bool
  selected : Option Selected
  poisoned : Bool
  dropped : Bool
  unacked : Option Nat
  unjournaled : Option Nat
  copying : Bool
  copied : Nat
  mirroring : Bool
  move : Option Move
  rebuildPos : Nat
  rebuildTick : Tick
  promoted : Option (Nat × Nat)
  refusedBy : List Nat
  cancelled : Bool
deriving DecidableEq, Repr

/-- The handle free list of R19: first the handles never used, from `fresh` upwards, then the freed ones in order. -/
structure Handles where
  fresh : Nat
  freed : List Nat
deriving DecidableEq, Repr

/-! ### Armature -/

/-- An armature table entry (R239). -/
structure Entry where
  start : Nat
  budget : Nat
  weightSet : Nat
  kernel : Nat
  layer : Nat
  cls : Nat
  sync : Bool
  tiles : Nat
  channels : Nat
  engines : Nat
deriving DecidableEq, Repr

/-- An armature table with its period and digest (R241). -/
structure Table where
  entries : List Entry
  period : Nat
  digest : BitVec 32
deriving DecidableEq, Repr

/-- Where an entry of the running cycle stands (R242, R300): waiting for its engines or a page since a tick, running
since a tick, or ended at a tick. -/
inductive EntryRun where
  | waiting (since : Tick) (cause : Nat)
  | running (since : Tick)
  | ended (at_ : Tick)
deriving DecidableEq, Repr

/-- A prefill pass or a chunk (R188, R193): each sequence's number of tokens, the layer that a pass is at, and whether its last layer has
completed. -/
structure Pass where
  toks : List (Nat × Nat)
  layer : Nat
  done : Bool
deriving DecidableEq, Repr

/-- A group member's message for one sync point (R265 to R267), this member's own among them: `node` sent it, and it carries a stretch
factor with its swap tick where the manager gives one. -/
structure SyncMember where
  point : Nat
  member : Nat
  node : Nat
  cycle : Nat
  margin : Int
  flags : Nat
  exclude : BitVec 1024
  arrived : Tick
  digest : BitVec 32
  stretch : Option (Nat × Nat)
deriving DecidableEq, Repr

/-- A partition (R235 to R273): what PARTITION_CONFIG gives it beyond its registers, its tables, its cycle, the batch,
the weight kernels that run on the near-bank units in this cycle, each as (set · 256 + kernel) · 256 + layer (R152), the tile groups
withdrawn since the active table came, by their place among the partition's groups (R201), the group exchange, the page-group free list,
whether it has waited at a sync point beyond the slack and started no entry since (R416), and its unreleased steps. -/
structure Part where
  channelMask : Nat
  quota : Nat
  active : Option Table
  shadow : Option Table
  swapTick : Option Tick
  stretchNext : Option (Nat × Tick)
  cycleStart : Tick
  lastBoundary : Tick
  schedDue : Bool
  runs : AMap EntryRun
  batch : List Nat
  thin : List Nat
  gone : List Nat
  pass : Option Pass
  chunk : Option Pass
  overCap : Nat
  underCap : Nat
  void : Bool
  poisonedAll : Bool
  reached : AMap Tick
  passed : List Nat
  syncs : List SyncMember
  oldSyncs : List SyncMember
  lateMax : Nat
  minMargin : Int
  marginRun : Nat
  stretchSent : Bool
  mismatch : AMap Nat
  standIns : AMap Nat
  resentAt : Tick
  freshGroup : Nat
  skippedGroups : List Nat
  freedGroups : List Nat
  resetAt : Option Tick
  halted : Bool
  pastSlack : Bool
  commits : List Commit
deriving DecidableEq, Repr

/-- A tenant's budget (R254 to R256): rate, burst, budget in 1/65,536 token, the remainder and the tick of the last refill. -/
structure Tenant where
  rate : Nat
  burst : Nat
  budget : Int
  rem : Nat
  last : Tick
deriving DecidableEq, Repr

/-! ### Weights -/

/-- A stored block (R214 to R217): the header's four words and the payload. -/
structure Stored where
  word0 : BitVec 64
  word1 : BitVec 64
  word2 : BitVec 64
  word3 : BitVec 64
  payload : List (BitVec 8)
deriving DecidableEq, Repr

/-- A loaded layer: its layouts (R154). -/
structure Layer where
  operand : Bool
  processor : Bool
deriving DecidableEq, Repr

/-- A weight set: its geometry record as its bytes (R84), its layers, its operand-layout blocks by place as they are stored
and as they were loaded (the authoritative copy of R307), its processor-layout blocks (R154), its tables by layer · 256 +
matrix with their tag (R220), whether a load of it is running, and whether its durable copy is written. A place is layer · 2^40 +
matrix · 2^32 + block. `nearAt` gives the de-interleaved address at which each processor-layout block lies in the banks. -/
structure WeightSet where
  geometry : List Cell
  layers : AMap Layer
  blocks : AMap Stored
  loaded : AMap Stored
  near : AMap (List (BitVec 8))
  nearAt : AMap Nat
  tables : AMap (List Nat)
  tag : BitVec 32
  busy : Bool
  durable : Bool
deriving DecidableEq, Repr

/-- A churn pass in progress (R221): the set, the layer under way, the layers left, the page steps made for that layer, the tag
that the pass gives, and the command that asked for it, if one did. -/
structure Churn where
  set : Nat
  layer : Nat
  left : Nat
  steps : Nat
  tag : BitVec 32
  cmd : Option Nat
deriving DecidableEq, Repr

/-! ### Tiers and flash -/

/-- A group entry (R282): the owning handle, its tenant, PROTECTED, PIN, FROZEN, the group's layers, the extent in tier
3, and whether the host placed it (R94). -/
structure Group where
  handle : Nat
  tenant : Nat
  prot : Bool
  pin : Bool
  frozen : Bool
  layers : Nat
  extent : Option Nat
  placed : Bool
deriving DecidableEq, Repr

/-- A page entry (R282). -/
structure Page where
  tier : Nat
  ref : Bool
  age : Nat
  moving : Bool
  lodging : Nat
  loc : Nat
deriving DecidableEq, Repr

/-- A migration in progress (R288): the page's key, its destination, whether its write has completed, the command that asked
for it, and whether it moves down. -/
structure Migration where
  tier : Nat
  lodging : Nat
  loc : Nat
  written : Bool
  down : Bool
  cmd : Option Nat
deriving DecidableEq, Repr

/-- What holds a tier-1 frame: a page at home, a page on its way in, a page lent, a region. -/
inductive FrameUse where
  | home (page : Nat)
  | dest (page : Nat)
  | lent (page : Nat)
  | region (index : Nat)
deriving DecidableEq, Repr

/-- The tiers (R275 to R302). `groups` and `pages` are keyed by partition · 2^32 + number. `frames` is keyed by unit · 1,536 +
frame, `slots0` by tier-0 slot, `lodged` by lodging · 2^24 + slot. `hand` is the clock hand's place, `ageAt` the tick of the tier-2 clock's last round. `bytes` holds the pages'
contents, keyed by partition · 2^48 + state-range offset: a page has one home, so its bytes are held once, whatever its
tier; `poison` lists the poisoned sectors of the same space. `transit` holds the stored bytes that have arrived so far of a page
on its way back, or of a group on its way in, by its first page. `leafCache` lists the leaf chunks that the walker holds in tier 0 (R105,
R120), `streams` the pages whose streamed read is on its way (R299), `waitRows` the rows whose append waits for a flip (R287), `waitRem` the
ticks of waits that do not fill a unit of TIR_STALL.WAIT, by cause (R300). -/
structure Tiers where
  groups : AMap Group
  pages : AMap Page
  moves : AMap Migration
  frames : AMap FrameUse
  slots0 : AMap Nat
  lodged : AMap Nat
  lost : List Nat
  hand : Nat
  pressure : Bool
  lodgingPressure : List Nat
  layoutGen : Nat
  bytes : List Cell
  poison : List Nat
  transit : AMap (List (BitVec 8))
  ageAt : Tick
  leafCache : List Nat
  streams : List Nat
  waitRows : List AppendRow
  waitRem : AMap Nat
deriving DecidableEq, Repr

/-- A flash block (R308): erase count, page reads since its last erase, granules programmed since then, the valid granules it
holds, retired, open for writes and whether for relocation writes, queued for a refresh, its data relocated so that it
is erased at the next commit, an erase under way, that erase suspended, and the tick of its last scrub. -/
structure Block where
  erases : Nat
  reads : Nat
  used : Nat
  granules : List Nat
  retired : Bool
  open_ : Bool
  reloc : Bool
  refresh : Bool
  leaving : Bool
  erasing : Bool
  suspended : Bool
  scrubbed : Tick
deriving DecidableEq, Repr

/-- What the pages of a state granule hold (R230, R304): the write sequence number of their metadata, the draw of the key that the stored
blocks are encrypted under, and the sixteen sub-block slots that were encrypted. -/
structure Granule where
  seq : Nat
  key : Option Nat
  slots : List (BitVec 8)
deriving DecidableEq, Repr

/-- The flash translation layer (R303 to R313): the usable targets, blocks by number, the map of granules to blocks, the
extents in use, the programmed granules whose map change is not committed with their blocks, the uncommitted changes and the
tick of the oldest, the commits since the last checkpoint, the checkpoint portions left, the tick of a refused store that
waits, whether garbage collection runs, the durable granules: the blocks of each weight set, with their first granule and
number; what each written state granule holds, and the next write sequence number. -/
structure Ftl where
  inService : Bool
  targets : List FlashTarget
  blocks : AMap Block
  map : AMap Nat
  extents : AMap Nat
  pending : AMap Nat
  changes : Nat
  pendingSince : Option Tick
  commits : Nat
  portions : Nat
  refusedAt : Option Tick
  collecting : Bool
  durable : AMap (AMap Stored)
  durableAt : AMap (Nat × Nat)
  written : AMap Granule
  writes : Nat
deriving DecidableEq, Repr

/-! ### Engines -/

/-- An access that a channel holds (R132): of the logic side, or a host access of BAR4 at its de-interleaved addresses. -/
inductive HeldAccess where
  | logic (a : LogicAccess)
  | host (off : Nat) (places : List Nat) (op : MemOp) (upsets : List Upset)
  | fabric (conn : Nat) (places : List Nat)
  | chmode (fn : Nat) (lane : Lane) (v : BitVec 64)
deriving DecidableEq, Repr

/-- A channel (R128 to R136): its queue of descriptors with their partitions, the partition of the last one issued (R241), the running
operation, the held accesses with their arrivals, the ticks of their waits that do not fill a unit of WAIT_TICKS, the ends of a switch and
of a memory-mode window, the start of that window, whether an operation is owed before the next one (R133), the ticks that the last
operation took, the units' scrub queue, and the last refresh with one that is owed; a hold at 95 °C, half duty at 92 °C and doubled
refresh above 85 °C (R446). -/
structure Channel where
  queue : List (Nat × BitVec 256)
  lastPart : Option Nat
  running : Option (Nat × BitVec 256 × Tick)
  held : List (HeldAccess × Tick)
  waitRem : Nat
  switchAt : Tick
  windowStart : Tick
  owesOp : Bool
  lastTook : Nat
  scrub : List Nat
  refreshAt : Tick
  refreshOwed : Bool
  hold95 : Bool
  halfDuty : Bool
  doubled : Bool
deriving DecidableEq, Repr

/-- The result that a reduction hands on (R147 to R150): an ATTN partial as m, s and v, or rows; with its poison flag. -/
structure Partial where
  m : BitVec 32
  s : BitVec 32
  v : List (BitVec 32)
  poisoned : Bool
deriving DecidableEq, Repr

/-- The Generation Engine: channels, the partials that the reduction holds by handle, layer, channel and unit with one for each
query, the outputs of the last reduction by handle and layer, a draft configuration that waits
(R169) and the one in force, whether its set is loaded in processor layout on the reserved channels, the units owing a test, the vector
buffers (channel · 32 + unit) that are not clear, and the partitions that have issued to each unit as a mask (R122). -/
structure Gen where
  channels : AMap Channel
  reduce : AMap (AMap Partial)
  outputs : AMap (AMap Partial)
  draftModel : Nat
  draftGroup : Nat
  draftWindow : Nat
  draftOn : Bool
  testUnits : List (Nat × Nat)
  vbufs : AMap (List Cell)
  issuers : AMap Nat
deriving DecidableEq, Repr

/-- A tile kernel with its operands resolved: the job without its sources, the FP32 rows of A, the weight blocks of the panel column block
by column block in ascending K order, each as its KIND and raw bytes, and the residual rows (R177 to R185). -/
structure TileInput where
  job : TileJob
  rows : List (List (BitVec 32))
  weights : List (List (Nat × List (BitVec 8)))
  residual : List (List (BitVec 32))
deriving DecidableEq, Repr

/-- A row of a tile kernel's output: its FP32 values, and in another destination format its element codes with their E8M0 scale bytes
(R183). -/
structure TileRow where
  vals : List (BitVec 32)
  codes : List Nat
  scales : List Nat
deriving DecidableEq, Repr

/-- A sample in the replay area (R202): the partition, the kernel's identifier, what it ran on, the copied inputs (none for a near-bank
operation, which reads its banks again), what those inputs give, the copied output, and the step. -/
structure Sample where
  part : Nat
  kernel : Nat
  ran : TestUnit
  input : Option TileInput
  result : List (BitVec 32)
  output : List (BitVec 32)
  step : Nat
deriving DecidableEq, Repr

/-- The Prompt Engine: panels in the operand-buffer halves (tile · 2 + half), the half that each tile's running kernel reads, the tiles'
accumulators, the outputs that each partition's last tile entry handed on, tiles quarantined, replacements and withdrawals that wait for a
boundary, kernels rerun once, the partition, step and tick of the last uncorrectable error in each tile, tiles owing a self-test, the start of the last IDLE slot with
tests and the tiles tested in it by partition (R206), the replay sample, the step of the last sample by partition and the replay count. -/
structure Prm where
  panels : AMap (List (Nat × Nat × Nat × Nat))
  inUse : AMap Nat
  acc : AMap (List (List (BitVec 32)))
  made : AMap (List (List TileRow))
  quarantined : List Nat
  replace : List (Nat × Nat)
  withdraw : List Nat
  rerun : List Nat
  errCycle : AMap (Nat × Nat × Tick)
  mustTest : List Nat
  slotTests : AMap (Tick × List Nat)
  sample : Option Sample
  sampled : AMap Nat
  replays : Nat
deriving DecidableEq, Repr

/-! ### Asith -/

/-- The state of a connection context (R336, R345). -/
inductive ConnState where
  | opening | open_ | closing | dead
deriving DecidableEq, Repr

/-- What an outstanding operation is to its issuer (R331, R346). -/
inductive Purpose where
  | windowRead (fn w off len : Nat)
  | windowWrite
  | windowAtomic (fn w off len : Nat)
  | windowImm
  | queueFetch (q count : Nat)
  | queueWrite (q : Nat)
  | lodge (page : Nat)
  | fetchBack (page : Nat)
  | mirrorFetch (page : Nat)
  | append (handle step : Nat)
  | commitRecord (p step : Nat)
  | journalCopy (p step : Nat)
  | moveGroup (handle index : Nat)
  | mirrorCopy (handle : Nat)
  | weights (set : Nat)
  | demand
  | share
  | flip (handle : Nat)
  | buffer
  | control (p step : Nat)
deriving DecidableEq, Repr

/-- A request frame issued and not yet acknowledged (R335): with its purpose, when it was first sent, whether its transmission has
begun, whether it has met one STALE_EPOCH (R349), whether its operation has already failed, and the bytes that READ_RESP frames have
brought for it so far. -/
structure Sent where
  psn : Nat
  frame : Frame
  purpose : Purpose
  sentAt : Tick
  begun : Bool
  staleOnce : Bool
  ended : Bool
  got : List (BitVec 8)
deriving DecidableEq, Repr

/-- A region (R324 to R329): rights bit 0 read, 1 write, 2 atomic; the node whose mirror slice it is, if it is one (R380). -/
structure Region where
  gen : Nat
  base : Nat
  len : Nat
  rights : Nat
  owner : Nat
  fn : Nat
  draining : Bool
  slice : Option Nat
  journalOf : Option Nat
deriving DecidableEq, Repr

/-- What a stalled request waits for: a page (R342), host memory, or a channel that does not serve the logic side (R132). -/
inductive StallFor where
  | page (key : Nat)
  | host
  | channel
deriving DecidableEq, Repr

/-- A request that has been accepted and waits at the head of its connection's order: with the number of the region that accepted it, that
region as it was, and since when it waits. It stays accepted whatever becomes of the region (R329, R343). -/
structure Stall where
  rx : Rx
  use : WriteUse
  index : Nat
  region : Region
  reason : StallFor
  since : Tick
deriving DecidableEq, Repr

/-- A connection context (R336 to R345) with its congestion window (R340, R341). `w`, `alpha` and `srtt` are exact; `echo` is the TS of the newest request received;
`lp` and `dp` are the local and the destination port that it is bound to (R337). -/
structure Conn where
  state : ConnState
  fn : Nat
  node : Nat
  remote : Nat
  cls : Nat
  bulk : Option Nat
  lp : Option Nat
  dp : Option Nat
  mine : Bool
  cmd : Option Nat
  cached : Bool
  lastUse : Tick
  keyGen : Nat
  txCount : Nat
  nextPsn : Nat
  unacked : List Sent
  expect : Nat
  gapNaked : Bool
  refusedPsn : Option Nat
  unackedRx : Nat
  echo : BitVec 32
  oldestRx : Option Tick
  ceSeen : Bool
  atomics : List (Nat × List (BitVec 8))
  stalled : Option Stall
  waitingRx : List (Rx × WriteUse)
  lastResponse : Tick
  retryAt : Option Tick
  retryTotal : Nat
  rnrAt : Option Tick
  rnrRun : Nat
  w : Rat
  alpha : Rat
  srtt : Rat
  rtts : List (Tick × Nat)
  acked : Nat
  markedBytes : Nat
  roundStart : Rat
  retriedOpen : Bool
deriving DecidableEq, Repr

/-- A map entry (R347). -/
structure MapEntry where
  fdom : Nat
  valid : Bool
  ports : Nat
  mac : Nat
  ip : BitVec 128
deriving DecidableEq, Repr

/-- The fabric: contexts, regions and their index generations, the current and old maps, the links, the frames waiting in
each port's class queues (port · 8 + class) with the connection group of each, the notification rings' write indexes, the
frames in the miss buffer, node keys by node with up to two generations, the group-frame counts, and the operations that have failed and whose
issuers are still to be told: connection, cause and purpose (R346). -/
structure Asf where
  conns : AMap Conn
  regions : AMap Region
  gens : AMap Nat
  map : AMap MapEntry
  oldMap : AMap MapEntry
  oldSince : Tick
  links : List Nat
  txq : AMap (List (Nat × Frame))
  groupTx : AMap Nat
  ringWr : AMap (Nat × Bool)
  missBytes : Nat
  nodeKeys : AMap (List (Nat × BitVec 256))
  lost : List Nat
  ownMoving : Option (Nat × Nat)
  failing : List (Nat × Nat × Nat × Purpose)
deriving DecidableEq, Repr

/-! ### Time, shaping -/

/-- The time base's servo (R354 to R363): the rate corrections, the last exchanges, the runs of good and bad offsets, the
outstanding TIME_REQ as its port and its t1, when the exchange interval last began, the source in use and the PPS input. -/
structure Tmb where
  freq : Rat
  slew : Rat
  exchanges : List (Rat × Rat)
  bad : Nat
  good : Nat
  missed : Nat
  reqT1 : Option (Nat × Nat)
  reqAt : Option Tick
  exchanged : Bool
  masters : List (Nat × Nat)
  drift : List (Nat × Int)
  fallback : Bool
  lastPps : Option Tick
  ppsHigh : Option Tick
deriving DecidableEq, Repr

/-- A gate list in force on a port (R369): its entries, its cycle when unbound, its partition when bound, the start of
its cycle, and the entry in force with that entry's end. -/
structure GateList where
  entries : List (Nat × Nat)
  cycle : Nat
  bind : Option Nat
  start : Tick
  idx : Nat
  idxEnd : Option Tick
deriving DecidableEq, Repr

/-- Shaping: the gate list of each port, credit levels in 1/256 credit (port · 8 + class, and 64 + group), the sample
ring's place and the records lost per port, the round-robin places of R368, the tick from which each port may start a frame, and the queues whose head frame has been
counted as held under R371; and the ticks of the last refill and of the last sample. -/
structure Shp where
  gates : AMap GateList
  credits : AMap Int
  sampleWr : Nat
  samplePhase : Bool
  sampleLost : AMap Nat
  nextGroup : AMap Nat
  portFree : AMap Tick
  heldFit : List Nat
  refilledAt : Tick
  sampledAt : Tick
deriving DecidableEq, Repr

/-! ### Resilience and errors -/

/-- An error record (R400). -/
structure ErrRec where
  tick : Tick
  sev : Nat
  flags : Nat
  unit : Nat
  code : Nat
  part : Option Nat
  count : Nat
  location : BitVec 64
  info0 : BitVec 64
  info1 : BitVec 64
  handle : Option Nat
  job : Nat
  id : Nat
deriving DecidableEq, Repr

/-- A watched node (R387): the tick of its last heartbeat, whether it is suspected, the last flags and epoch it sent. -/
structure Watched where
  last : Tick
  suspected : Option Tick
  flags : Nat
  epoch : Nat
  fdom : Nat
deriving DecidableEq, Repr

/-- A slice that this device holds for a home (R380, R381): the region's index and base, its slots and its HEADER state. Its bytes lie
in DRAM, in the layout of R381. -/
structure Slice where
  region : Nat
  base : Nat
  slots : Nat
  state : Nat
deriving DecidableEq, Repr

/-- A slice that a partner has granted to this device (R380): its offset at the partner, its slots and those in use. -/
structure Grant where
  base : Nat
  slots : Nat
  taken : List Nat
deriving DecidableEq, Repr

/-- A loss decision of an acting manager, which it resends (R388): its term, node, epoch and tick, and when it was last sent. -/
structure Decision where
  term : Nat
  node : Nat
  epoch : Nat
  tick : Tick
  sentAt : Tick
deriving DecidableEq, Repr

/-- A SEQ_PROMPT of a lost device whose final reply the manager still owes (R82, R393): the lost node and the handle there, the node and
the handle of the sequence's present home, the manager reply queue and the reply but for its RESULT. -/
structure Deferred where
  lost : Nat
  old : Nat
  node : Nat
  handle : Nat
  rq : Nat
  reply : Reply
deriving DecidableEq, Repr

/-- Resilience: watched nodes, slices held and granted, the decisions being resent, the derived maps that wait for an old one (node and epoch), lost
nodes whose spare is to be found and the tick of the last attempt, the spares assigned by lost node, the promoted sequences without a
handle by their handle at the lost home, the tick of the last beat, whether the journals go to a new manager, the records in handling with the one handled first, the corrected errors in their merge window, the threshold
counts, the journals kept as manager, the beats sent, the records not yet read over SMBus, the journal region that the
manager has granted with the records sent there, the final replies that the manager owes to prompts
of lost devices, and the spares that have refused by lost node. -/
structure Res where
  watch : AMap Watched
  slices : AMap Slice
  grants : AMap Grant
  decisions : List Decision
  pendingMap : List (Nat × Nat)
  unspared : List Nat
  sparedAt : Tick
  recasts : AMap Nat
  unhandled : AMap Seq
  lastBeat : Tick
  reship : Bool
  handling : List ErrRec
  nested : Option ErrRec
  fatal : Bool
  merging : List (ErrRec × Tick × Nat)
  ceCounts : AMap Nat
  ceWindow : Tick
  nextErr : Nat
  held : List ErrRec
  journals : AMap (List (BitVec 32 × Nat))
  beats : Nat
  unread : List Nat
  logWr : Bool
  journalBase : Nat
  journalSent : Nat
  deferred : List Deferred
  refused : AMap (List Nat)
deriving DecidableEq, Repr

/-! ### Power -/

/-- A voltage raise in progress (R428): the target point of the core rails, that of the memory rail where it rises too, the rails
still to confirm (0 core, 1 SRAM, 2 memory), the start, resends. -/
structure Raise where
  point : Nat
  mem : Option Nat
  waiting : List Nat
  started : Tick
  busy : Nat
  crc : Nat
deriving DecidableEq, Repr

/-- Power: learned needs by class · 8 + point, the planned point of each class, the point the core rails were last confirmed at, the
memory rail's point, the raise in progress, the end of the last capping window, windows over the cap and windows of room, the classes
that the loop has lowered further, jobs in µJ, the ticks of the last work of each domain, domains in wake with source and start,
the held time-base copies of domains behind clamps (R418), the starts of the fast loops (R422), the hot sensors, the points that each domain is throttled by with the ticks of its last step, the power-limit input with its hold and the points
still to raise after it, the tick of C3's entry, rail failures, the demand region and the demands read there by node, the period number
and the tick of the last demand record, the tick of the last share-out, the tick of the last share record and whether the failsafe share is in force, the last shares of
the rails, the layers that hold the memory rail at M1, doubled clocks and droops of the window by domain, and whether LATE was sent. -/
structure Pwr where
  needs : List Rat
  plan : List Nat
  confirmed : Nat
  memPoint : Nat
  raise : Option Raise
  windowAt : Tick
  overWindows : Nat
  roomWindows : Nat
  lowered : List Nat
  jobs : AMap Nat
  unattr : AMap Nat
  unattrUj : Nat
  totalUj : Nat
  lastWork : AMap Tick
  waking : AMap (Nat × Tick)
  copies : AMap Tick
  loops : AMap Tick
  hot : List Nat
  throttled : AMap Nat
  stepAt : AMap Tick
  limitOn : Bool
  limitUntil : Option Tick
  floor : Nat
  c3Since : Tick
  failures : List (Nat × Tick)
  demandBase : Option Nat
  demands : AMap (Nat × Nat × Nat × Nat)
  period : Nat
  demandAt : Tick
  sharedAt : Tick
  lastShare : Tick
  failsafe : Bool
  railShares : List Nat
  m1 : List Nat
  doubledClock : AMap Tick
  droopWindow : AMap Nat
  lateFlag : Bool
deriving DecidableEq, Repr

/-! ### Security, debug, plinth -/

/-- The SPDM responder's progress (R465): 0 none, 1 version, 2 capabilities, 3 algorithms, 4 key exchanged, 5 session. -/
structure Spdm where
  phase : Nat
  version : Nat
  transcript : BitVec 384
  large : List (BitVec 8)
deriving DecidableEq, Repr

/-- What the boot ROM leaves to firmware of the identity that it derives (R462): the DeviceID public modulus, CDI_L1, the seed of the Alias
key pair, and the certificate chain of slot 0. UDS, CDI_L0 and the DeviceID private key are erased by then. -/
structure Identity where
  device : List (BitVec 8)
  cdi1 : BitVec 384
  aliasSeed : BitVec 384
  chain : List (BitVec 8)
deriving DecidableEq, Repr

/-- Security: the fuses, the identity, and in C5 the identity as it is sealed in DRAM with the draw of its plinth key (R463), the keys drawn
or derived (R468), the running image, the SPDM responder, IDE streams, what boot flash holds, whether its image is
torn, the image being programmed with its command, and the fuse words blown through SEC_FUSE_PROG. The lifecycle state is in GLB_LIFECYCLE; `uds` is
the draw of the device's secret. -/
structure Sec where
  fused : Nat
  fieldLock : Bool
  bootSource : Bool
  ownerKey : Bool
  secondKey : Bool
  revoked : Nat
  floor : Nat
  uds : Option Nat
  identity : Option Identity
  sealed : Option (Nat × Identity)
  image : Option (BitVec 384 × Nat)
  xtsDraw : AMap Nat
  stateKey : Option Nat
  durableKey : Option (BitVec 384)
  contextKey : Option Nat
  spdm : Spdm
  ide : AMap Nat
  bootFlash : Option (List (BitVec 8))
  torn : Bool
  programming : Option (Nat × List (BitVec 8))
  fuseWords : AMap (BitVec 64)
  cert : List (BitVec 8)
  plinthDigest : Option (BitVec 384)
deriving DecidableEq, Repr

/-- A trace record as stored (R479), with PROTECTED and TRIGGER, and the segment of the buffer that it lies in (R484). -/
structure Traced where
  tick : Tick
  rec_ : TraceRec
  prot : Bool
  trigger : Bool
  payload : Nat
  seg : Nat
deriving DecidableEq, Repr

/-- Trace: the settings of R482, the records in the buffer oldest first, the segment that is being filled with its slots used, the POST
records left, whether it froze, the frame number, and the events that wait for a slot in STALL mode. -/
structure Trace where
  enable : Bool
  stall : Bool
  payload : Nat
  parts : Nat
  kinds : Nat
  pre : Nat
  post : Nat
  triggers : Nat
  trigSev : Nat
  trigKind : Nat
  trigWait : Nat
  armed : Bool
  fired : Bool
  postLeft : Nat
  frozen : Bool
  buffer : List Traced
  seg : Nat
  segUsed : Nat
  frameNo : Nat
  heldEvents : List TraceRec
deriving DecidableEq, Repr

/-- An input's filter state (R503, R504): the last event's tick, its reported level, its present level and since when. -/
structure Input where
  lastEvent : Option Tick
  reported : Bool
  level : Bool
  since : Tick
deriving DecidableEq, Repr

/-- The plinth: the rails enabled, inputs, the SMBus address and alert, flags that the board has set, the time of
VDD_AON and of the last reset, and the latched faults. -/
structure Pln where
  powered : Bool
  rails : List Nat
  inputs : AMap Input
  smbAddr : Nat
  alert : Bool
  thermalTrip : Bool
  railFault : Bool
  gstopStuck : Bool
  stayOff : Bool
  c6 : Bool
  aonAt : Tick
  resetAt : Tick
  testEn : Bool
  pcieUp : Bool
  perst : Bool
  pfail : Bool
  lastCommitDone : Bool
  refB : Bool
  refA : Bool
  boundaryScan : Bool
  stopped : Bool
  stopTick : Tick
deriving DecidableEq, Repr

/-! ### Outputs -/

/-- A message between devices whose wire layout the manual does not give. -/
inductive Msg where
  /-- The abandon request of R37, and its answer ABANDONED. -/
  | abandon (handle : Nat)
  | abandoned (handle : Nat)
  /-- The flip acknowledgement of R35 and R36, which is also the answer FLIPPED: the source's handle, the new home's partition
  and handle, the flip tick. -/
  | flipped (handle part newHandle : Nat) (tick : Tick)
  /-- The refusal of R88. -/
  | refused (handle : Nat)
  /-- What a destination asks of the mirror of a source that is lost: the source, its handle and the groups that have not come (R38). -/
  | pull (source handle : Nat) (indices : List Nat)
  /-- A share record and a demand record (R437). -/
  | share (bytes : List (BitVec 8))
  | demand (bytes : List (BitVec 8))
  /-- A journal copy to the manager (R384): partition, step, records. -/
  | journal (part step : Nat) (records : List (Nat × Nat × Nat × Nat))
  /-- A commit record's bytes. -/
  | commitRecord (bytes : List (BitVec 8))
  /-- A request for a slice, and the grant with the slice's offset and slots (R380). -/
  | askSlice
  | sliceGrant (base slots : Nat)
  /-- The grant of a journal region (R384). -/
  | journalGrant (base : Nat)
  /-- The command list of a lost home, from its promoting partner to the manager (R82, R393): its entries in the layout of the control
  copy. -/
  | commandList (home : Nat) (entries : List (List (BitVec 8)))
  /-- What a spare takes of a lost member of a lockstep group (R396): the partition, and the head and the table of its control copy. -/
  | memberCopy (part : Nat) (bytes : List (BitVec 8))
  /-- A spare has not taken a sequence of a lost home: its promoting partner asks the manager for another (R395). -/
  | spareRefused (lost spare : Nat)
deriving DecidableEq, Repr

/-- The key that protects a frame (R319, R470): the pairwise key of a node and a generation, or the key of one direction of a connection,
named by SRC_NODE, SRC_CONN, DST_NODE and DST_CONN, with the number i of its rekeying. -/
structure FrameKey where
  peer : Nat
  gen : Nat
  conn : Option (Nat × Nat × Nat × Nat)
  rekey : Nat
deriving DecidableEq, Repr

/-- What a frame is wrapped in (R317): the mode, the 802.1Q tag, the EtherType of mode 0 or the UDP ports, and addresses; and the key that
protects it. -/
structure Encap where
  key : FrameKey
  mode : Nat
  pcp : Nat
  vlan : Nat
  etherType : Nat
  udpSrc : Nat
  udpDst : Nat
  dscp : Nat
  srcMac : Nat
  dstMac : Nat
  dstIp : BitVec 128
deriving DecidableEq, Repr

/-- What the block sends out. -/
inductive Output where
  /-- A reply entry written at an index of a reply queue, with PHASE and CQ_HEAD (R55, R56). -/
  | reply (q idx : Nat) (phase : Bool) (cqHead : Nat) (r : Reply)
  /-- A record written at an index of a token ring (R59). -/
  | token (q idx : Nat) (phase : Bool) (r : TokRec)
  /-- An MSI-X message of a function. -/
  | msix (fn vector : Nat)
  /-- A frame that a port starts (R368). -/
  | frame (port : Nat) (e : Encap) (f : Frame)
  /-- A message of the Ladle or of firmware to a node. -/
  | message (dst : Nat) (m : Msg)
  /-- Bytes written to memory of a function's host. -/
  | hostWrite (fn addr : Nat) (bytes : List (BitVec 8))
  /-- A read of memory of a function's host. -/
  | hostRead (fn addr len : Nat)
  /-- An error log record at an index (R531). -/
  | log (idx : Nat) (phase : Bool) (r : ErrRec)
  /-- The completion of a host read or AtomicOp, with EP (R332, R346); `ur` is Unsupported Request. -/
  | completion (fn off : Nat) (bytes : List (BitVec 8)) (ep ur : Bool)
  /-- A level driven on a pin: rail enables 0 to 5 in the order of R497, 6 THERMTRIP_N, 7 GSTOP_N, 8 SMB_ALERT_N,
  9 SYNC_PPS_OUT. -/
  | pin (pin : Nat) (level : Bool)
  /-- An AVSBus voltage write in mV (R427), or a status read. -/
  | avs (master rail mv : Nat)
  | avsStatus (master : Nat)
  /-- The voltage read and the current read of a rail (R427, R430). -/
  | avsRead (master rail : Nat)
  /-- An SMBus answer, and a NACK. -/
  | smbus (bytes : List (BitVec 8))
  | nack
  /-- An SPDM response code with its content. -/
  | spdm (code : Nat) (bytes : List (BitVec 8))
  /-- A trace frame (R485). -/
  | trace (number : Nat) (records : List Traced)
  /-- The scan header of a domain, to TDO or to the trace port (R490). -/
  | scan (tdo : Bool) (domain state bits : Nat) (tick : Tick) (crc : BitVec 32)
  /-- A sample record at an index (R373). -/
  | sample (idx : Nat) (phase : Bool) (bytes : List (BitVec 8))
  /-- The byte that a logic-side read of a channel returns to its reader (R132). -/
  | logic (ch bank offset : Nat) (byte : BitVec 8)
  /-- A notification ring entry (R334): ring, index, PHASE, immediate value, source node, region index, offset. -/
  | notify (ring idx : Nat) (phase : Bool) (imm src region off : Nat)
deriving DecidableEq, Repr

/-- The whole state. -/
structure State where
  /-- The commands that wait, first in, first out. -/
  pending : List Instr
  /-- The master count in ticks (R351). -/
  now : Tick
  /-- The model's own counter of free values drawn; no rule names it. -/
  freeCtr : Nat
  /-- The register bank: BAR0 offset and value, where the value is not the reset value. -/
  regs : AMap (BitVec 64)
  /-- The MSI-X tables: function · 2^16 + offset in the table, in 8-byte words; an unlisted word is 0 (R520, R523). -/
  msix : AMap (BitVec 64)
  /-- What has been sent out, newest first. -/
  out : List Output
  buhorn : Buhorn
  handles : Handles
  seqs : AMap Seq
  parts : AMap Part
  tenants : AMap Tenant
  weights : AMap WeightSet
  /-- The churn passes in progress, oldest first. -/
  churn : List Churn
  tiers : Tiers
  ftl : Ftl
  /-- The bonded DRAM outside page contents, by de-interleaved address (R125); an unlisted byte reads 0 (R507). -/
  dram : List Cell
  /-- Poisoned sectors of `dram`, by de-interleaved address divided by 32 (R213). -/
  poison : List Nat
  /-- Staging SRAM's recovery window (R460). -/
  staging : List Cell
  gen : Gen
  prm : Prm
  asf : Asf
  tmb : Tmb
  shp : Shp
  res : Res
  pwr : Pwr
  sec : Sec
  trace : Trace
  pln : Pln
deriving DecidableEq, Repr

/-! ### Reset -/

/-- Buhorn after reset: the pairs of every function exist once CMD_ADMQ_CTRL enables them (R45, R52). -/
def Buhorn.reset : Buhorn := ⟨[], [], 0, [], [], [], [], []⟩

/-- Tiers after reset. -/
def Tiers.reset : Tiers := ⟨[], [], [], [], [], [], [], 0, false, [], 0, [], [], [], 0, [], [], [], []⟩

/-- The flash translation layer after reset: absent until its start-up completes (R507). -/
def Ftl.reset : Ftl := ⟨false, [], [], [], [], [], 0, none, 0, 0, none, false, [], [], [], 0⟩

/-- The Generation Engine after reset: the draft configuration in force is that of GEN_DRAFT_CFG's reset value. -/
def Gen.reset : Gen := ⟨[], [], [], 0xFFFF, 2, 1, false, [], [], []⟩

/-- The Prompt Engine after reset. -/
def Prm.reset : Prm := ⟨[], [], [], [], [], [], [], [], [], [], [], none, [], 0⟩

/-- The fabric after reset: no link trained. -/
def Asf.reset : Asf := ⟨[], [], [], [], [], 0, [], [], [], [], 0, [], [], none, []⟩

/-- The time base after reset. -/
def Tmb.reset : Tmb := ⟨0, 0, [], 0, 0, 0, none, none, false, [], [], false, none, none⟩

/-- Shaping after reset: every gate open, no bucket enabled. -/
def Shp.reset : Shp := ⟨[], [], 0, true, [], [], [], [], 0, 0⟩

/-- Resilience after reset. -/
def Res.reset : Res := ⟨[], [], [], [], [], [], 0, [], [], 0, false, [], none, false, [], [], 0, 1, [], [], 0, [], true, 0, 0, [], []⟩

/-- Power after reset: learned needs from the conservative table (R438), the rails at P2 and M0 (R497). -/
def Pwr.reset : Pwr where
  needs := (List.range 56).map fun i => (conservativeNeed (i / 8) (i % 8) : Rat)
  plan := (List.range 7).map resetPoint
  confirmed := 2
  memPoint := 0
  raise := none
  windowAt := 0
  overWindows := 0
  roomWindows := 0
  lowered := []
  jobs := []
  unattr := []
  unattrUj := 0
  totalUj := 0
  lastWork := []
  waking := []
  copies := []
  loops := []
  hot := []
  throttled := []
  stepAt := []
  limitOn := false
  limitUntil := none
  floor := 0
  c3Since := 0
  failures := []
  demandBase := none
  demands := []
  period := 0
  demandAt := 0
  sharedAt := 0
  lastShare := 0
  failsafe := false
  railShares := []
  m1 := []
  doubledClock := []
  droopWindow := []
  lateFlag := false

/-- Security after reset: fuses unread until stage POWER_ON's load (R507). -/
def Sec.reset : Sec :=
  ⟨0, false, false, false, false, 0, 0, none, none, none, none, [], none, none, none, ⟨0, 0, 0, []⟩, [], none, false, none, [], [], none⟩

/-- Trace after reset: disabled. -/
def Trace.reset : Trace :=
  ⟨false, false, 0, 0, 0, 0, 1, 0, 0, 1, 0, false, false, 0, false, [], 0, 0, 0, []⟩

/-- The plinth after VDD_AON has come within range. -/
def Pln.reset : Pln :=
  ⟨true, [], [], 0x4C, false, false, false, false, false, false, 0, 0, false, false, false, false, false, true, true, false, false, 0⟩

/-- The machine right after reset: stage POWER_ON (R507), every register at its reset value, nothing open. -/
def State.reset : State where
  pending := []
  now := 0
  freeCtr := 0
  regs := []
  msix := []
  out := []
  buhorn := Buhorn.reset
  handles := ⟨0, []⟩
  seqs := []
  parts := []
  tenants := []
  weights := []
  churn := []
  tiers := Tiers.reset
  ftl := Ftl.reset
  dram := []
  poison := []
  staging := []
  gen := Gen.reset
  prm := Prm.reset
  asf := Asf.reset
  tmb := Tmb.reset
  shp := Shp.reset
  res := Res.reset
  pwr := Pwr.reset
  sec := Sec.reset
  trace := Trace.reset
  pln := Pln.reset

end Sys2Proof.Machine
end

