-- ==== Sys2Proof/Machine/Bank.lean ====
section
/-! DEFINITION. The register bank, outputs, free values and the lookups that every other operation uses. -/

set_option Elab.async false

namespace Sys2Proof.Machine

/-! ### The register bank -/

/-- The bank's key of instance `i`: its BAR0 offset (R350 for the aliases of the window registers). -/
def Reg.offset (r : Reg) (i : Nat) : Nat :=
  let l := r.layout
  match r with
  | .asfRwinTarget | .asfRwinCtrl | .asfRwinImm =>
    if i < 16 then l.base + 32 * i else l.base + 0xFE00 + 0x200 * (i / 16) + 32 * (i % 16)
  | _ => l.base + l.s1 * (i / l.n2) + l.s2 * (i % l.n2)

/-- The idle timers of reset of a domain by kind (R408): IDLE_D2_US and IDLE_D3_MS. -/
def domainIdle (d : Nat) : Nat × Nat :=
  if d ≤ 24 then (100, 1000) else if d ≤ 88 then (100, 0) else if d ≤ 96 then (0, 100)
  else if d = 98 then (1000, 0) else (0, 0)

/-- The value a register instance takes at reset: its fields' reset values, and the few that depend on the instance
(R171, R408, R439). -/
def Reg.resetWord (r : Reg) (i : Nat) : BitVec 64 :=
  let own : Nat := r.fields.foldl (fun a f => a + f.reset * 2 ^ f.lo) 0
  BitVec.ofNat 64 <| match r with
  | .prmTileMap => own + i
  | .pwrDomCfg => own + (domainIdle i).1 * 2 ^ 16 + (domainIdle i).2 * 2 ^ 32
  | .pwrClassTable => (classTable i).1 * 2 ^ 16 + (classTable i).2
  | .pwrNeed => conservativeNeed (i / 8) (i % 8)
  | _ => own

/-- A register's value. -/
def State.reg (s : State) (r : Reg) (i : Nat) : BitVec 64 := mgetD s.regs (r.offset i) (r.resetWord i)

/-- Whether a register has an instance of this number. -/
def Reg.has (r : Reg) (i : Nat) : Bool := r.layout.first ≤ i && i < r.layout.n1 * r.layout.n2

/-- Gives a register a value, keeping the bank canonical: a register at its reset value is not listed. An instance that the
register does not have takes no value. -/
def State.setReg (s : State) (r : Reg) (i : Nat) (v : BitVec 64) : State :=
  { s with regs :=
      if r.has i then if v = r.resetWord i then mdel s.regs (r.offset i) else mset s.regs (r.offset i) v else s.regs }

/-- A field of a word. -/
def Field.get (f : Field) (w : BitVec 64) : Nat := w.toNat / 2 ^ f.lo % 2 ^ f.width

/-- A word with one field changed and every other bit as it was. -/
def Field.put (f : Field) (w : BitVec 64) (v : Nat) : BitVec 64 :=
  BitVec.ofNat 64 (w.toNat - f.get w * 2 ^ f.lo + v % 2 ^ f.width * 2 ^ f.lo)

/-- A field of a register. -/
def State.fld (s : State) (f : Field) (i : Nat) : Nat := f.get (s.reg f.reg i)

/-- Whether a one-bit field is 1. -/
def State.flag (s : State) (f : Field) (i : Nat) : Bool := s.fld f i != 0

/-- Changes one field of a register. -/
def State.setFld (s : State) (f : Field) (i v : Nat) : State := s.setReg f.reg i (f.put (s.reg f.reg i) v)

/-- Changes one field of a register to a two's-complement value. -/
def State.setFldInt (s : State) (f : Field) (i : Nat) (v : Int) : State :=
  s.setFld f i (v % (2 ^ f.width : Nat)).toNat

/-- A field read as two's complement. -/
def State.fldInt (s : State) (f : Field) (i : Nat) : Int :=
  let v := s.fld f i
  if v < 2 ^ (f.width - 1) then v else (v : Int) - 2 ^ f.width

/-- The largest value of a field. -/
def Field.max (f : Field) : Nat := 2 ^ f.width - 1

/-- Adds to a counter that saturates (R13's RC counters and the status fields that say "saturating"). -/
def State.bump (s : State) (f : Field) (i n : Nat) : State := s.setFld f i (min (s.fld f i + n) f.max)

/-- Adds to a counter that wraps. -/
def State.bumpWrap (s : State) (f : Field) (i n : Nat) : State := s.setFld f i (s.fld f i + n)

/-- Sets or clears a one-bit field. -/
def State.setFlag (s : State) (f : Field) (i : Nat) (b : Bool) : State := s.setFld f i (if b then 1 else 0)

/-! ### Outputs, free values, lookups -/

/-- Sends one output. -/
def State.emit (s : State) (o : Output) : State := { s with out := o :: s.out }

/-- A fresh free value, and the state with the counter advanced. -/
def State.free (s : State) : BitVec 64 × State := (Config.freeWord s.freeCtr, { s with freeCtr := s.freeCtr + 1 })

/-- A power domain has worked until a tick (R412). -/
def State.workedUntil (s : State) (d : Nat) (t : Tick) : State :=
  { s with pwr := { s.pwr with lastWork := mset s.pwr.lastWork d (max t (mgetD s.pwr.lastWork d 0)) } }

/-- The start-up stage (R519). -/
def State.stage (s : State) : Nat := s.fld plnBoot_stage 0

/-- Whether the device is at stage READY, in C0 or C3 and not stopped: the states in which the block's run-time commands
happen. -/
def State.live (s : State) : Bool :=
  s.stage = 7 && !s.pln.stopped && !s.res.fatal && !s.pln.c6 && s.fld pwrDevStat_state 0 != 2

/-- The lifecycle state as reported (R452). -/
def State.lifecycle (s : State) : Nat := s.fld glbLifecycle_state 0

/-- An empty partition. -/
def Part.empty : Part where
  channelMask := 0
  quota := 0
  active := none
  shadow := none
  swapTick := none
  stretchNext := none
  cycleStart := 0
  lastBoundary := 0
  schedDue := false
  runs := []
  batch := []
  thin := []
  gone := []
  pass := none
  chunk := none
  overCap := 0
  underCap := 0
  void := false
  poisonedAll := false
  reached := []
  passed := []
  syncs := []
  oldSyncs := []
  lateMax := 0
  minMargin := 0
  marginRun := 0
  stretchSent := false
  mismatch := []
  standIns := []
  resentAt := 0
  freshGroup := 0
  skippedGroups := []
  freedGroups := []
  resetAt := none
  halted := false
  pastSlack := false
  commits := []

/-- The partition `p`. -/
def State.part (s : State) (p : Nat) : Part := mgetD s.parts p Part.empty

/-- Changes the partition `p`. -/
def State.setPart (s : State) (p : Nat) (x : Part) : State := { s with parts := mset s.parts p x }

/-- Changes the partition `p` by a function of it. -/
def State.modPart (s : State) (p : Nat) (f : Part → Part) : State := s.setPart p (f (s.part p))

/-- The sequence of an open handle. -/
def State.seq (s : State) (h : Nat) : Option Seq := mget s.seqs h

/-- Changes the sequence of a handle, if it is open. -/
def State.modSeq (s : State) (h : Nat) (f : Seq → Seq) : State := { s with seqs := mmod s.seqs h f }

/-- The handles and sequences of a partition. -/
def State.seqsOf (s : State) (p : Nat) : List (Nat × Seq) := s.seqs.filter fun x => x.2.part = p

/-- The function number of a partition: 0 is the management function. -/
def fnOf (p : Nat) : Nat := p + 1

/-- The function number of a function. -/
def fnNum : Fn → Nat
  | .mgmt => 0
  | .vf p => p.val + 1

/-- The administration command queue of a function number (R45). -/
def adminQueue (fn : Nat) : Nat := 2 * fn

/-- The queue of a number. -/
def State.queue (s : State) (q : Nat) : Option Queue := mget s.buhorn.queues q

/-- Changes a queue, if it exists. -/
def State.modQueue (s : State) (q : Nat) (f : Queue → Queue) : State :=
  { s with buhorn := { s.buhorn with queues := mmod s.buhorn.queues q f } }

/-- The token ring of a partition (R46). -/
def State.tokenRing (s : State) (p : Nat) : Option (Nat × Queue) :=
  s.buhorn.queues.find? fun x => x.2.kind = 2 && x.2.fn = fnOf p

/-- Entries free in a queue that the device writes: it holds at most depth − 1 unreleased entries. -/
def Queue.room (q : Queue) : Nat := q.depth - 1 - (q.wr + q.depth - q.head) % q.depth

/-- A queue after one entry is written: the index advances, PHASE inverts on each wrap (R56). -/
def Queue.advance (q : Queue) : Queue :=
  if q.wr + 1 < q.depth then { q with wr := q.wr + 1 } else { q with wr := 0, phase := !q.phase }

/-- Counts an entry written towards a queue's MSI-X message, and sends the message at the coalescing count (R74). -/
def State.noteEntry (s : State) (q : Nat) : State :=
  match s.queue q with
  | none => s
  | some x =>
    if x.sinceMsi + 1 ≥ x.coalesce then
      (s.modQueue q fun x => { x with sinceMsi := 0 }).emit (.msix x.fn x.vector)
    else s.modQueue q fun x =>
      { x with sinceMsi := x.sinceMsi + 1, firstMsi := if x.sinceMsi = 0 then s.now else x.firstMsi }

/-! ### Bytes -/

/-- `n` little-endian bytes of a number. -/
def leBytes (n v : Nat) : List (BitVec 8) := (List.range n).map fun i => BitVec.ofNat 8 (v / 2 ^ (8 * i))

/-- The number that little-endian bytes spell. -/
def ofLe : List (BitVec 8) → Nat
  | [] => 0
  | b :: bs => b.toNat + 256 * ofLe bs

end Sys2Proof.Machine
end

