-- ==== Sys2Proof/Machine/Rind.lean ====
section
/-! DEFINITION. The rind of a power domain: what holds at a domain that sleeps, its copy of the time base, the fast clocks, and the
beginning of a wake (R409, R410, R418, R422). -/

set_option Elab.async false

namespace Sys2Proof.Machine

/-! ### The fast clocks (R422) -/

/-- The loop that feeds a domain: one for each tile domain, 25 for the hub, 26 for the channels, 27 for the control cores, 28 for the fabric
ports. The table of R422 names none for the flash interface and the trace port. -/
def loopOf (d : Nat) : Option Nat :=
  if d < 25 then some d else if d < 89 then some 26 else if d < 97 then some 28 else if d = 97 then some 27
  else if d = 100 then some 25 else none

/-- The ticks in which a loop locks: 10 µs. -/
def lockTicks : Nat := 40000

/-- A domain's state. -/
def State.domainState (s : State) (d : Nat) : Nat := s.fld pwrDomStat_state d

/-- Whether a domain keeps its loop running: it is in D0 or D1, or on its way there. -/
def State.clocked (s : State) (d : Nat) : Bool := s.domainState d < 2 || mhas s.pwr.waking d

/-- Starts the loop of a domain, unless it runs. -/
def State.startLoop (s : State) (d : Nat) : State :=
  match loopOf d with
  | some l => if mhas s.pwr.loops l then s else { s with pwr := { s.pwr with loops := mset s.pwr.loops l s.now } }
  | none => s

/-- Starts the loop of every domain that is in D0 or D1, as the hub is released (R422, R507). -/
def State.startLoops (s : State) : State := (List.range 101).foldl (fun s d => if s.clocked d then s.startLoop d else s) s

/-- Stops the loop of a domain when none of those that it feeds needs it. -/
def State.stopLoop (s : State) (d : Nat) : State :=
  match loopOf d with
  | some l =>
    if (List.range 101).any fun k => loopOf k = some l && s.clocked k then s
    else { s with pwr := { s.pwr with loops := mdel s.pwr.loops l } }
  | none => s

/-- Whether a domain's loop has locked. -/
def State.locked (s : State) (d : Nat) : Bool :=
  match loopOf d with
  | some l => match mget s.pwr.loops l with
    | some t => t + lockTicks ≤ s.now
    | none => false
  | none => true

/-! ### The rind (R410, R417, R418) -/

/-- The ticks of a wake from a state. -/
def wakeTicks (st : Nat) : Nat :=
  match st with
  | 0 => 0 | 1 => 200 | 2 => 80000 | _ => 800000

/-- Whether the rind of a domain holds what comes: toward a domain in D2 or D3 it reads not ready. -/
def State.rindHolds (s : State) (d : Nat) : Bool := 2 ≤ s.domainState d

/-- The clamps go on around a domain: its copy of the time base holds the present tick. -/
def State.clampOn (s : State) (d : Nat) : State := { s with pwr := { s.pwr with copies := mset s.pwr.copies d s.now } }

/-- A domain enters D2 or D3 behind its clamps, and the loop that feeds it stops with the last domain that needs it (R417, R418, R422). -/
def State.clampIn (s : State) (d st : Nat) : State := ((s.setFld pwrDomStat_state d st).clampOn d).stopLoop d

/-- The clamps come off: the copy is loaded from the master count again (R352; DEDUCED, log 159). -/
def State.clampOff (s : State) (d : Nat) : State := { s with pwr := { s.pwr with copies := mdel s.pwr.copies d } }

/-- What a domain's copy of the time base reads: the master count, or where the rind holds it the tick that it had. -/
def State.copyOf (s : State) (d : Nat) : Tick := mgetD s.pwr.copies d s.now

/-- Counts a wake with its source. -/
def State.countWake (s : State) (d source : Nat) : State := (s.bump pwrDomStat_wakes d 1).setFld pwrDomStat_lastWake d source

/-- Begins a domain's wake, with its source: its loop starts. -/
def State.beginWake (s : State) (d source : Nat) : State :=
  if s.domainState d = 0 || (mget s.pwr.waking d).isSome then s
  else (({ s with pwr := { s.pwr with waking := mset s.pwr.waking d (source, s.now) } }).startLoop d).countWake d source

/-- A domain runs again. -/
def State.comeUp (s : State) (d : Nat) : State :=
  let s := (s.setFld pwrDomStat_state d 0).clampOff d
  ({ s with pwr := { s.pwr with waking := mdel s.pwr.waking d } }).startLoop d

/-- A domain works now. One that was clock-gated is in D0 with the work that reaches it: its wake of 50 ns is not shown (DESIGN CHOICE, log
92). -/
def State.rouse (s : State) (d source : Nat) : State :=
  let s := s.workedUntil d s.now
  if s.domainState d = 1 && !mhas s.pwr.waking d then (s.comeUp d).countWake d source else s

/-- A power domain works now. -/
def State.worked (s : State) (d : Nat) : State := s.rouse d 2

/-- Work reaches a domain: one that is clock-gated runs at once, one in D2 or D3 begins its wake. -/
def State.arrivesAt (s : State) (d source : Nat) : State := if s.rindHolds d then s.beginWake d source else s.rouse d source

end Sys2Proof.Machine
end

