-- ==== Sys2Proof/Machine/Codec.lean ====
section
/-! DEFINITION. The codes of chapter Compression, Encryption and Check Bits: CRC-32C, the DRAM sector code, stored blocks,
prefix-code tables, the separator and the Ladle's page blocks. -/

set_option Elab.async false

namespace Sys2Proof.Machine

/-! ### CRC-32C (R216) -/

/-- One bit of the reflected CRC with polynomial 0x1EDC_6F41. -/
def crcBit (c : BitVec 32) : BitVec 32 := if c.getLsbD 0 then (c >>> 1) ^^^ 0x82F63B78#32 else c >>> 1

/-- One byte of the CRC. -/
def crcByte (c : BitVec 32) (b : BitVec 8) : BitVec 32 :=
  crcBit (crcBit (crcBit (crcBit (crcBit (crcBit (crcBit (crcBit (c ^^^ b.zeroExtend 32))))))))

/-- CRC-32C: initial value and final XOR 0xFFFF_FFFF. -/
def crc32c (bs : List (BitVec 8)) : BitVec 32 := ~~~ bs.foldl crcByte 0xFFFFFFFF#32

/-! ### The DRAM sector code (R212, R213) -/

/-- Multiplication by α = 0x02 in GF(2^8) with the polynomial 0x11D. -/
def gfDouble (a : BitVec 8) : BitVec 8 := if a.getLsbD 7 then (a <<< 1) ^^^ 0x1D#8 else a <<< 1

/-- The sum over the set bits of `b` of `a` times the bit's power of α. -/
def gfMulBits (b : BitVec 8) : Nat → BitVec 8 → BitVec 8
  | 0, _ => 0
  | n + 1, a => (if b.getLsbD (7 - n) then a else 0) ^^^ gfMulBits b n (gfDouble a)

/-- Multiplication in GF(2^8). -/
def gfMul (a b : BitVec 8) : BitVec 8 := gfMulBits b 8 a

/-- α to a power. -/
def gfPow : Nat → BitVec 8
  | 0 => 1
  | n + 1 => gfDouble (gfPow n)

/-- One data symbol enters the division by g(x): the remainder's coefficients of x^3 to x^0. -/
def rsShift (r : BitVec 8 × BitVec 8 × BitVec 8 × BitVec 8) (d : BitVec 8) : BitVec 8 × BitVec 8 × BitVec 8 × BitVec 8 :=
  let f := d ^^^ r.1
  (r.2.1 ^^^ gfMul f 15, r.2.2.1 ^^^ gfMul f 54, r.2.2.2 ^^^ gfMul f 120, gfMul f 64)

/-- The four check bytes of a sector, check byte 0 first (R212). -/
def sectorCheck (d : List (BitVec 8)) : List (BitVec 8) :=
  let r := d.foldl rsShift (0, 0, 0, 0)
  [r.1, r.2.1, r.2.2.1, r.2.2.2]

/-- The check bytes of a poisoned sector (R213). -/
def poisonCheck (d : List (BitVec 8)) : List (BitVec 8) := (sectorCheck d).map (· ^^^ 0xA5#8)

/-- The syndrome of a codeword at α^j: its polynomial there. -/
def syndromeAt (j : Nat) (w : List (BitVec 8)) : BitVec 8 := w.foldl (fun a c => gfMul a (gfPow j) ^^^ c) 0

/-- The four syndromes of a codeword. -/
def syndrome (w : List (BitVec 8)) : List (BitVec 8) := (List.range 4).map fun j => syndromeAt j w

/-- A codeword with a value XORed into the symbol at an index. -/
def flipSymbol (w : List (BitVec 8)) (i : Nat) (v : BitVec 8) : List (BitVec 8) := w.modify i (· ^^^ v)

/-- The syndrome that one wrong symbol at index `i` gives: its value at each power. -/
def errorSyndrome (i : Nat) (v : BitVec 8) : List (BitVec 8) := (List.range 4).map fun j => gfMul v (gfPow (j * (35 - i)))

/-- What a read of one sector gives (R212, R213). -/
inductive SectorRead where
  | clean (d : List (BitVec 8))
  | corrected (d : List (BitVec 8)) (symbols : Nat)
  | poisoned
  | uncorrectable
deriving DecidableEq, Repr

/-- The single-symbol correction whose syndrome matches, if there is one. -/
def correctOne (s : List (BitVec 8)) : Option (Nat × BitVec 8) :=
  match s with
  | v :: _ => ((List.range 36).find? fun i => errorSyndrome i v = s).map fun i => (i, v)
  | [] => none

/-- The two-symbol correction whose syndrome matches: positions `i < j` and the values of both. -/
def correctTwo (s : List (BitVec 8)) : Option (Nat × BitVec 8 × Nat × BitVec 8) :=
  (List.range 36).findSome? fun i =>
    (List.range 256).findSome? fun v =>
      let e := errorSyndrome i (BitVec.ofNat 8 v)
      let rest := List.zipWith (· ^^^ ·) s e
      (correctOne rest).bind fun x => if i < x.1 && v != 0 && x.2 != 0 then some (i, BitVec.ofNat 8 v, x.1, x.2) else none

/-- Decodes one codeword of 36 symbols: the poison pattern is met before any correction. -/
def sectorDecode (w : List (BitVec 8)) : SectorRead :=
  let s := syndrome w
  if s = [0, 0, 0, 0] then .clean (w.take 32)
  else if s = syndrome (List.replicate 32 0 ++ [0xA5#8, 0xA5#8, 0xA5#8, 0xA5#8]) then .poisoned
  else match correctOne s with
    | some x => .corrected ((flipSymbol w x.1 x.2).take 32) 1
    | none =>
      match correctTwo s with
      | some x => .corrected ((flipSymbol (flipSymbol w x.1 x.2.1) x.2.2.1 x.2.2.2).take 32) 2
      | none => .uncorrectable

/-! ### Stored blocks (R214 to R217) -/

/-- The raw size R of a KIND, 0 for a reserved one (R217). -/
def kindRaw (k : Nat) : Nat :=
  match k with
  | 0 => 4096 | 1 => 4096 | 2 => 4096 | 3 => 3200 | 4 => 3200 | 5 => 2176 | 6 => 8192 | 15 => 4096 | _ => 0

/-- The uncoded bytes at the front of a non-escaped payload. -/
def kindPrefix (k : Nat) : Nat :=
  match k with
  | 3 => 128 | 4 => 128 | 5 => 128 | 6 => 4096 | _ => 0

/-- The number of coded symbols. -/
def kindSymbols (k : Nat) : Nat := if k = 5 then 2048 else 4096

/-- The bytes at even places, or at odd ones. -/
def everySecond : Bool → List (BitVec 8) → List (BitVec 8)
  | _, [] => []
  | true, b :: bs => b :: everySecond false bs
  | false, _ :: bs => everySecond true bs

/-- The 6-bit elements of packed groups of three bytes (R217). -/
def sixBits : List (BitVec 8) → List Nat
  | a :: b :: c :: rest =>
    let v := a.toNat + 256 * b.toNat + 65536 * c.toNat
    v % 64 :: v / 64 % 64 :: v / 4096 % 64 :: v / 262144 :: sixBits rest
  | _ => []

/-- Packs 6-bit elements, four to three bytes. -/
def packSix : List Nat → List (BitVec 8)
  | a :: b :: c :: d :: rest =>
    let v := a + 64 * b + 4096 * c + 262144 * d
    BitVec.ofNat 8 v :: BitVec.ofNat 8 (v / 256) :: BitVec.ofNat 8 (v / 65536) :: packSix rest
  | _ => []

/-- The uncoded prefix of a raw layout. -/
def rawPrefix (k : Nat) (raw : List (BitVec 8)) : List (BitVec 8) :=
  if k = 6 then everySecond true raw else raw.take (kindPrefix k)

/-- The coded symbols of a raw layout, in its order. -/
def rawSymbols (k : Nat) (raw : List (BitVec 8)) : List Nat :=
  if k = 3 || k = 4 then sixBits (raw.drop 128)
  else if k = 6 then (everySecond false raw).map BitVec.toNat
  else (raw.drop (kindPrefix k)).map BitVec.toNat

/-- Low and high bytes interleaved. -/
def weave : List (BitVec 8) → List (BitVec 8) → List (BitVec 8)
  | l :: ls, h :: hs => l :: h :: weave ls hs
  | _, _ => []

/-- The raw layout of a prefix and symbols. -/
def rawOf (k : Nat) (pre : List (BitVec 8)) (syms : List Nat) : List (BitVec 8) :=
  if k = 3 || k = 4 then pre ++ packSix syms
  else if k = 6 then weave pre (syms.map (BitVec.ofNat 8))
  else pre ++ syms.map (BitVec.ofNat 8)

/-- A bit field of a header word. -/
def bits (w : BitVec 64) (hi lo : Nat) : Nat := w.toNat / 2 ^ lo % 2 ^ (hi - lo + 1)

/-- Header fields (R216). -/
def Stored.version (b : Stored) : Nat := bits b.word0 63 56
def Stored.kind (b : Stored) : Nat := bits b.word0 55 52
def Stored.escape (b : Stored) : Bool := bits b.word0 51 51 = 1
def Stored.table (b : Stored) : Nat := bits b.word0 47 40
def Stored.coded (b : Stored) : Nat := bits b.word0 13 0
def Stored.tag (b : Stored) : Nat := bits b.word2 31 0
def Stored.digest (b : Stored) : Nat := bits b.word3 31 0

/-- Whether the header is well formed: no reserved bit, VERSION or KIND (R216). -/
def Stored.headerOk (b : Stored) : Bool :=
  b.version = 1 && 0 < kindRaw b.kind && bits b.word0 50 48 = 0 && bits b.word0 39 14 = 0 &&
  (if b.kind = 15 then bits b.word1 63 44 = 0 && bits b.word1 39 36 = 0 else bits b.word1 39 32 = 0) &&
  bits b.word2 63 32 = 0 && bits b.word3 63 32 = 0

/-- The header's word 0. -/
def headWord0 (kind : Nat) (escape : Bool) (table coded : Nat) : BitVec 64 :=
  BitVec.ofNat 64 (2 ^ 56 + kind * 2 ^ 52 + (if escape then 2 ^ 51 else 0) + table * 2 ^ 40 + coded)

/-- The header's word 1 of a weight block (R216). -/
def headWord1 (set layer index : Nat) : BitVec 64 :=
  BitVec.ofNat 64 (set * 2 ^ 48 + layer / 16 * 2 ^ 44 + layer % 16 * 2 ^ 40 + index)

/-- A weight block stored escaped, as WEIGHT_LOAD stores it. -/
def storeEscaped (kind set layer index : Nat) (raw : List (BitVec 8)) : Stored where
  word0 := headWord0 kind true 0 (kindRaw kind)
  word1 := headWord1 set layer index
  word2 := 0
  word3 := (crc32c raw).zeroExtend 64
  payload := raw

/-! ### Prefix-code tables (R218 to R220) -/

/-- The number of symbols of a length, for canonical codes: none of length 0. -/
def lenCount (lens : List Nat) (n : Nat) : Nat := if n = 0 then 0 else (lens.filter (· = n)).length

/-- The first codeword of length `n` (R218). -/
def firstCode (lens : List Nat) : Nat → Nat
  | 0 => 0
  | n + 1 => (firstCode lens n + lenCount lens n) * 2

/-- The coded symbols of a table: length, codeword, symbol. -/
def codeTable (lens : List Nat) : List (Nat × Nat × Nat) :=
  (lens.zipIdx.filter fun x => x.1 ≠ 0).map fun x =>
    (x.1, firstCode lens x.1 + ((lens.take x.2).filter (· = x.1)).length, x.2)

/-- Whether the Kraft sum is at most 1 (R220). -/
def kraftOk (lens : List Nat) : Bool :=
  (lens.filter (· ≠ 0)).foldl (fun a l => a + 2 ^ (15 - l)) 0 ≤ 2 ^ 15

/-- The 128 bytes of a table (R218). -/
def tableBytes : List Nat → List (BitVec 8)
  | a :: b :: rest => BitVec.ofNat 8 (a + 16 * b) :: tableBytes rest
  | [a] => [BitVec.ofNat 8 a]
  | [] => []

/-- The bits of a codeword, most significant first. -/
def codeBits : Nat → Nat → List Bool
  | 0, _ => []
  | n + 1, c => (c / 2 ^ n % 2 = 1) :: codeBits n c

/-- The bits of a byte, most significant first. -/
def byteBits (b : BitVec 8) : List Bool := codeBits 8 b.toNat

/-- Packs bits into bytes, most significant first, the last byte padded with 0. -/
def packBits : List Bool → Nat → Nat → List (BitVec 8)
  | [], 0, _ => []
  | [], n, a => [BitVec.ofNat 8 (a * 2 ^ (8 - n))]
  | b :: bs, n, a =>
    let a := 2 * a + (if b then 1 else 0)
    if n = 7 then BitVec.ofNat 8 a :: packBits bs 0 0 else packBits bs (n + 1) a

/-- The coded stream of symbols (R219). -/
def encodeSyms (codes : List (Nat × Nat × Nat)) (syms : List Nat) : List Bool :=
  syms.flatMap fun s =>
    match codes.find? fun c => c.2.2 = s with
    | some c => codeBits c.1 c.2.1
    | none => []

/-- How decoding a stream ends: the symbols and the unread bits, or the error of R225. -/
inductive Decoded where
  | done (syms : List Nat) (rest : List Bool)
  | badCode
  | underrun
deriving DecidableEq, Repr

/-- Reads `r` more symbols from a stream; `l` and `c` are the bits of the codeword under way (R224). -/
def decodeStream (codes : List (Nat × Nat × Nat)) : List Bool → Nat → Nat → Nat → List Nat → Decoded
  | [], _, _, r, out => if r = 0 then .done out.reverse [] else .underrun
  | b :: bs, l, c, r, out =>
    if r = 0 then .done out.reverse (b :: bs)
    else
      let c' := 2 * c + (if b then 1 else 0)
      match codes.find? fun k => k.1 = l + 1 && k.2.1 = c' with
      | some k => decodeStream codes bs 0 0 (r - 1) (k.2.2 :: out)
      | none =>
        if codes.any fun k => l + 1 < k.1 && k.2.1 / 2 ^ (k.1 - (l + 1)) = c' then decodeStream codes bs (l + 1) c' r out
        else .badCode

/-! ### Package-merge (R221 step 2) -/

/-- Merges two lists ascending in weight; an item precedes a package of equal weight. -/
def mergeWeights : Nat → List (Nat × List Nat) → List (Nat × List Nat) → List (Nat × List Nat)
  | 0, _, _ => []
  | _ + 1, [], ps => ps
  | _ + 1, is, [] => is
  | n + 1, i :: is, p :: ps =>
    if i.1 ≤ p.1 then i :: mergeWeights n is (p :: ps) else p :: mergeWeights n (i :: is) ps

/-- Pairs of neighbours, each with the sum of their weights; an odd last one is dropped. -/
def packages : List (Nat × List Nat) → List (Nat × List Nat)
  | a :: b :: rest => (a.1 + b.1, a.2 ++ b.2) :: packages rest
  | _ => []

/-- Inserts an item ascending in weight, then in symbol. -/
def insertItem (x : Nat × List Nat) : List (Nat × List Nat) → List (Nat × List Nat)
  | [] => [x]
  | y :: ys => if x.1 ≤ y.1 then x :: y :: ys else y :: insertItem x ys

/-- The symbols present, ascending in weight, then in symbol. -/
def sortItems (hist : List Nat) : List (Nat × List Nat) :=
  (hist.zipIdx.filter fun x => x.1 ≠ 0).foldr (fun x l => insertItem (x.1, [x.2]) l) []

/-- The list after each level of package-merge. -/
def mergeLevels (items : List (Nat × List Nat)) : Nat → List (Nat × List Nat)
  | 0 => items
  | n + 1 => mergeWeights 2048 items (packages (mergeLevels items n))

/-- The code lengths that minimise the coded bits with none above 15 (R221): one length for each of the 256 symbols. -/
def codeLengths (hist : List Nat) : List Nat :=
  let items := sortItems hist
  if items.length ≤ 1 then hist.map fun n => if n = 0 then 0 else 1
  else
    let chosen := ((mergeLevels items 14).take (2 * items.length - 2)).flatMap (·.2)
    (List.range 256).map fun s => chosen.count s

/-- The histogram of symbols over 256 bins. -/
def histogram (syms : List Nat) : List Nat := syms.foldl (fun h s => h.modify s (· + 1)) (List.replicate 256 0)

/-! ### The compressor and the separator (R221 to R225) -/

/-- The raw layout of a block whose header and payload are in order, without the checks: what the compressor reads. -/
def Stored.raw (b : Stored) (lens : List Nat) : List (BitVec 8) :=
  if b.escape then b.payload
  else
    match decodeStream (codeTable lens) ((b.payload.drop (kindPrefix b.kind)).flatMap byteBits) 0 0 (kindSymbols b.kind) [] with
    | .done syms _ => rawOf b.kind (b.payload.take (kindPrefix b.kind)) syms
    | _ => []

/-- Stores a raw layout under a table and tag by the escape rule (R223). -/
def storeCoded (kind set layer matrix index : Nat) (lens : List Nat) (tag : BitVec 32) (raw : List (BitVec 8)) : Stored :=
  let stream := packBits (encodeSyms (codeTable lens) (rawSymbols kind raw)) 0 0
  let n := kindPrefix kind + stream.length
  if kindRaw kind ≤ n then storeEscaped kind set layer index raw
  else
    { word0 := headWord0 kind false matrix n
      word1 := headWord1 set layer index
      word2 := tag.zeroExtend 64
      word3 := (crc32c raw).zeroExtend 64
      payload := rawPrefix kind raw ++ stream }

/-- What the separator finds: the raw layout, or an error code of R225. -/
inductive Separated where
  | ok (raw : List (BitVec 8))
  | error (code : Nat)
deriving DecidableEq, Repr

/-- The comparison of the raw layout with DIGEST. -/
def checkDigest (b : Stored) (raw : List (BitVec 8)) : Separated :=
  if (crc32c raw).toNat = b.digest then .ok raw else .error 7

/-- The separator's checks in the order of R224 and its decoding, for a weight block: `clean` is step 1, `lens` and `tag`
the set's table and tag. -/
def separate (b : Stored) (clean : Bool) (lens : List Nat) (tag : BitVec 32) : Separated :=
  if !clean then .error 1
  else if !b.headerOk then .error 2
  else if b.escape then
    if b.coded ≠ kindRaw b.kind then .error 2 else checkDigest b (b.payload.take b.coded)
  else if kindRaw b.kind ≤ b.coded then .error 2
  else if b.tag ≠ tag.toNat then .error 3
  else if !kraftOk lens then .error 3
  else if b.coded < kindPrefix b.kind then .error 5
  else
    let coded := (b.payload.take b.coded).drop (kindPrefix b.kind)
    match decodeStream (codeTable lens) (coded.flatMap byteBits) 0 0 (kindSymbols b.kind) [] with
    | .badCode => .error 4
    | .underrun => .error 5
    | .done syms rest =>
      if 8 ≤ rest.length || rest.any id then .error 6
      else checkDigest b (rawOf b.kind (b.payload.take (kindPrefix b.kind)) syms)

/-! ### Page sub-blocks (R227, R228) -/

/-- The sectors of bytes: pieces of 32. -/
def sectors : Nat → List (BitVec 8) → List (List (BitVec 8))
  | 0, _ => []
  | n + 1, bs => bs.take 32 :: sectors n (bs.drop 32)

/-- The sector map of 128 sectors as 16 bytes. -/
def sectorMap (ss : List (List (BitVec 8))) : List (BitVec 8) :=
  (List.range 16).map fun i => BitVec.ofNat 8 ((List.range 8).foldl (fun a j =>
    if (ss.getD (8 * i + j) []).any (· ≠ 0) then a + 2 ^ j else a) 0)

/-- A page sub-block as the Ladle stores it (R227). -/
def storeSub (part page sub : Nat) (raw : List (BitVec 8)) : Stored :=
  let ss := sectors 128 raw
  let kept := ss.filter fun s => s.any (· ≠ 0)
  let n := 16 + 32 * kept.length
  let esc := decide (4096 ≤ n)
  { word0 := headWord0 15 esc 0 (if esc then 4096 else n)
    word1 := BitVec.ofNat 64 (part * 2 ^ 40 + sub * 2 ^ 32 + page)
    word2 := 0
    word3 := (crc32c raw).zeroExtend 64
    payload := if esc then raw else sectorMap ss ++ kept.flatten }

/-- Spreads stored sectors over the marked places. -/
def spreadSectors : List Bool → List (BitVec 8) → List (BitVec 8)
  | [], _ => []
  | true :: ms, bs => bs.take 32 ++ spreadSectors ms (bs.drop 32)
  | false :: ms, bs => List.replicate 32 0 ++ spreadSectors ms bs

/-- The Ladle's expander (R228). -/
def expandSub (b : Stored) (clean : Bool) : Separated :=
  if !clean then .error 1
  else if !b.headerOk || b.kind ≠ 15 then .error 2
  else if b.escape then
    if b.coded ≠ 4096 then .error 2 else checkDigest b (b.payload.take 4096)
  else if 4096 ≤ b.coded then .error 2
  else
    let marks := (b.payload.take 16).flatMap fun x => (List.range 8).map fun j => x.getLsbD j
    let want := 16 + 32 * (marks.filter id).length
    if b.coded < want then .error 5
    else if want < b.coded then .error 6
    else checkDigest b (spreadSectors marks (b.payload.drop 16))

/-- The sixteen sub-blocks of a page. -/
def storePage (part page : Nat) (raw : List (BitVec 8)) : List Stored :=
  (List.range 16).map fun i => storeSub part page i ((raw.drop (4096 * i)).take 4096)

end Sys2Proof.Machine
end

