-- ==== Sys2Proof/Machine/Send.lean ====
section
/-! DEFINITION. The sending side of Asith: ports and binding, the transmit queues, requests, responses and group frames. -/

set_option Elab.async false

namespace Sys2Proof.Machine

/-! ### Nodes and ports (R316, R337) -/

/-- The device's own node number; 0xFFFF sends and accepts no frame. -/
def State.ownNode (s : State) : Nat := s.fld asfNode_node 0

/-- The usable ports that the map gives a node, ascending. -/
def State.mapPorts (s : State) (n : Nat) : List Nat :=
  match mget s.asf.map n with
  | some e => if e.valid then (List.range 8).filter fun q => e.ports / 2 ^ q % 2 = 1 else []
  | none => []

/-- The device's own usable ports: those of its map entry whose link is up. -/
def State.ownPorts (s : State) : List Nat := (s.mapPorts s.ownNode).filter s.asf.links.contains

/-- The (h mod n)-th of n ports. -/
def pickPort (ports : List Nat) (h : Nat) : Option Nat := ports[h % ports.length]?

/-- The connection hash (R337): CRC-32C over SRC_NODE, DST_NODE and SRC_CONN as six little-endian bytes. -/
def connHash (src dst conn : Nat) : Nat := (crc32c (leBytes 2 src ++ leBytes 2 dst ++ leBytes 2 conn)).toNat

/-- The hash that binds a connection: a bulk connection takes its number. -/
def State.hashOf (s : State) (c : Nat) (k : Conn) : Nat := k.bulk.getD (connHash s.ownNode k.node c)

/-- The local port of a connection: the one it is bound to, or the one it binds to next. -/
def State.portOf (s : State) (c : Nat) (k : Conn) : Option Nat :=
  match k.lp with
  | some q => if s.ownPorts.contains q then some q else pickPort s.ownPorts (s.hashOf c k)
  | none => pickPort s.ownPorts (s.hashOf c k)

/-- Whether a connection's bound ports are usable. -/
def State.bound (s : State) (k : Conn) : Bool := k.lp.any s.ownPorts.contains && k.dp.any (s.mapPorts k.node).contains

/-- A connection bound by the rule of R337 over the ports that are usable now. -/
def State.binding (s : State) (c : Nat) (k : Conn) : Conn :=
  let h := s.hashOf c k
  { k with lp := pickPort s.ownPorts h, dp := pickPort (s.mapPorts k.node) h }

/-- Whether the current map gives a node usable ports (R349). -/
def State.reachable (s : State) (n : Nat) : Bool := !(s.mapPorts n).isEmpty

/-! ### Queues -/

/-- The transmit queue of a port's class. -/
def State.txqueue (s : State) (port cls : Nat) : List (Nat × Frame) := mgetD s.asf.txq (port * 8 + cls) []

/-- Puts a frame of a connection group at the end of a port's class queue. Until the frame leaves, its TS holds the time at which it
was queued. -/
def State.enqueue (s : State) (port cls group : Nat) (f : Frame) : State :=
  let f := { f with ts := BitVec.ofNat 32 s.now }
  { s with asf := { s.asf with txq := mset s.asf.txq (port * 8 + cls) (s.txqueue port cls ++ [(group, f)]) } }

/-- The traffic class of a frame: bits 7:5 of FLAGS (R318). -/
def frameClass (f : Frame) : Nat := f.flags.toNat / 32

/-- The connection group of a function number: its partition, or 16 for the management function (R372). -/
def groupOf (fn : Nat) : Nat := if fn = 0 then 16 else fn - 1

/-! ### Requests (R335, R349) -/

/-- The connection context of a number. -/
def State.conn (s : State) (c : Nat) : Option Conn := mget s.asf.conns c

/-- Keeps ASF_CTX_STAT at the counts of contexts open and cached. -/
def State.noteCtx (s : State) : State :=
  (s.setFld asfCtxStat_open 0 s.asf.conns.length).setFld asfCtxStat_cached 0 (s.asf.conns.filter fun c => c.2.cached).length

/-- The generation of the newest key held for a node; 0 where none is (R469, R470). -/
def State.newestGen (s : State) (node : Nat) : Nat := ((mgetD s.asf.nodeKeys node []).head?.map Prod.fst).getD 0

/-- Gives a context a value. -/
def State.setConn (s : State) (c : Nat) (k : Conn) : State :=
  ({ s with asf := { s.asf with conns := mset s.asf.conns c { k with keyGen := s.newestGen k.node } } }).noteCtx

/-- Takes a context out. -/
def State.dropConn (s : State) (c : Nat) : State :=
  ({ s with asf := { s.asf with conns := mdel s.asf.conns c } }).noteCtx

/-- Changes a context, if it exists. -/
def State.modConn (s : State) (c : Nat) (f : Conn → Conn) : State :=
  { s with asf := { s.asf with conns := mmod s.asf.conns c f } }

/-- A fresh context (R336, R340): its window starts at 64 KiB. -/
def Conn.fresh (fn node cls : Nat) (now : Tick) : Conn where
  state := .opening
  fn := fn
  node := node
  remote := 0
  cls := cls
  bulk := none
  lp := none
  dp := none
  mine := true
  cmd := none
  cached := true
  lastUse := now
  keyGen := 0
  txCount := 0
  nextPsn := 0
  unacked := []
  expect := 0
  gapNaked := false
  refusedPsn := none
  unackedRx := 0
  echo := 0
  oldestRx := none
  ceSeen := false
  atomics := []
  stalled := none
  waitingRx := []
  lastResponse := now
  retryAt := none
  retryTotal := 0
  rnrAt := none
  rnrRun := 0
  w := 65536
  alpha := 0
  srtt := 0
  rtts := []
  acked := 0
  markedBytes := 0
  roundStart := 65536
  retriedOpen := false

/-- An empty frame. -/
def Frame.zero : Frame := ⟨0, 0, 0, 0, 0, 0, 0, 0, 0, 0, 0, 0, [], 0, 0, 0, 0⟩

/-- Hands a context's frame to its port's queue; a context without a usable port keeps it until it rebinds. -/
def State.queueFrame (s : State) (c : Nat) (k : Conn) (f : Frame) : State :=
  match s.portOf c k with
  | some q => s.enqueue q k.cls (groupOf k.fn) f
  | none => s

/-- The header that a context gives a request: numbers, class, PSN and the current epoch. -/
def State.header (s : State) (c : Nat) (k : Conn) (f : Frame) : Frame :=
  { f with
    flags := BitVec.ofNat 8 (f.flags.toNat % 32 + 32 * k.cls)
    epoch := BitVec.ofNat 8 (s.fld asfEpoch_current 0)
    srcNode := BitVec.ofNat 16 s.ownNode
    dstNode := BitVec.ofNat 16 k.node
    dstConn := BitVec.ofNat 16 k.remote
    srcConn := BitVec.ofNat 16 c }

/-- Records an operation that has failed and whose issuer is still to be told: the context, the cause, the target node, the purpose. -/
def State.failLater (s : State) (c cause node : Nat) (p : Purpose) : State :=
  { s with asf := { s.asf with failing := s.asf.failing ++ [(c, cause, node, p)] } }

/-- Fetches a context that is not on chip from the backing store (R338, R339). -/
def State.fetchContext (s : State) (c : Nat) : State :=
  (s.bump asfCtxStat_misses 0 1).emit (.hostRead 0 (s.fld asfCtxBase_addr 0 * 4096 + 256 * c) 256)

/-- Whether the context's fetch is under way. -/
def Conn.fetching (k : Conn) : Bool := !k.cached && !(k.waitingRx.isEmpty && k.unacked.isEmpty)

/-- Issues a request on a context. On a context that is DEAD, closing or absent the operation fails (R336, R345). One that is not on chip
is fetched first (DEDUCED, log 50). -/
def State.issue (s : State) (c : Nat) (f : Frame) (p : Purpose) : State :=
  match s.conn c with
  | none => s.failLater c 1 0xFFFF p
  | some k =>
    match k.state with
    | .dead => s.failLater c 1 k.node p
    | .closing => s.failLater c 1 k.node p
    | _ =>
      let s := if k.cached || k.fetching then s else s.fetchContext c
      let g := { s.header c k f with psn := BitVec.ofNat 32 k.nextPsn }
      let k' := { k with
        nextPsn := (k.nextPsn + 1) % 2 ^ 32
        unacked := k.unacked ++ [⟨k.nextPsn, g, p, s.now, false, false, false, []⟩]
        lastUse := s.now
        lastResponse := if k.unacked.isEmpty then s.now else k.lastResponse }
      let s := s.modConn c fun _ => k'
      if k.state = .open_ && k.cached && k.retryAt.isNone && k.rnrAt.isNone then s.queueFrame c k' g else s

/-- Cuts bytes into frames: at most `max` bytes each, none across a 4,096-byte boundary of offset (R320). -/
def cutFrames (max : Nat) : Nat → Nat → List (BitVec 8) → List (Nat × List (BitVec 8))
  | 0, _, _ => []
  | fuel + 1, off, bs =>
    match bs with
    | [] => []
    | _ =>
      let n := min max (4096 - off % 4096)
      (off, bs.take n) :: cutFrames max fuel (off + n) (bs.drop n)

/-- MAX_PAYLOAD in bytes. -/
def State.maxPayload (s : State) : Nat :=
  match s.fld asfFrameCfg_maxPayload 0 with
  | 0 => 1024 | 1 => 2048 | _ => 4096

/-- Issues a write, cut into frames, the last one with LAST. -/
def State.issueWrite (s : State) (c key off : Nat) (bs : List (BitVec 8)) (p : Purpose) : State :=
  let cuts := cutFrames s.maxPayload (bs.length + 1) off bs
  cuts.zipIdx.foldl (fun s x =>
    s.issue c { Frame.zero with
      op := 3, flags := if x.2 + 1 = cuts.length then 8 else 0, key := BitVec.ofNat 32 key,
      offset := BitVec.ofNat 64 x.1.1, payload := x.1.2 } p) s

/-- Cuts a length into reads of at most 65,536 bytes (R318): offset and length of each. -/
def cutReads : Nat → Nat → Nat → List (Nat × Nat)
  | 0, _, _ => []
  | fuel + 1, off, len => if len = 0 then [] else (off, min len 65536) :: cutReads fuel (off + 65536) (len - 65536)

/-- Issues a read of some bytes. -/
def State.issueRead (s : State) (c key off len : Nat) (p : Purpose) : State :=
  (cutReads (len / 65536 + 1) off len).foldl (fun s x =>
    s.issue c { Frame.zero with
      op := 1, flags := 8, key := BitVec.ofNat 32 key, offset := BitVec.ofNat 64 x.1, arg := BitVec.ofNat 32 x.2 } p) s

/-- The lowest free context number. -/
def State.freeConn (s : State) : Option Nat := (List.range 65536).find? fun c => !mhas s.asf.conns c

/-- Sends CONNECT for a context: outside the PSN order (R336). -/
def State.sendConnect (s : State) (c : Nat) : State :=
  match s.conn c with
  | some k => s.queueFrame c k { s.header c k Frame.zero with op := 0x0B, arg := BitVec.ofNat 32 k.cls }
  | none => s

/-- The context of bulk connection `i` to a node in a class, which firmware opens when it is first needed (R331, R337): its
number, and none when no context is free, or when the map does not reach the node (R349). -/
def State.bulkConn (s : State) (node cls i : Nat) : State × Option Nat :=
  match s.asf.conns.find? fun c => c.2.node = node && c.2.bulk = some i && c.2.cls = cls && c.2.mine with
  | some c => (s, some c.1)
  | none =>
    if !s.reachable node then (s, none) else
    match s.freeConn with
    | none => (s, none)
    | some c => ((s.setConn c (s.binding c { Conn.fresh 0 node cls s.now with bulk := some i })).sendConnect c, some c)

/-- Issues a request of the Ladle, Buhorn or firmware on a bulk connection; without a free context it fails. -/
def State.issueBulk (s : State) (node cls i : Nat) (f : Frame) (p : Purpose) : State :=
  match s.bulkConn node cls i with
  | (s, some c) => s.issue c f p
  | (s, none) => s.failLater 65536 1 node p

/-- Issues a write on a bulk connection. -/
def State.writeBulk (s : State) (node cls i key off : Nat) (bs : List (BitVec 8)) (p : Purpose) : State :=
  match s.bulkConn node cls i with
  | (s, some c) => s.issueWrite c key off bs p
  | (s, none) => s.failLater 65536 1 node p

/-- Issues a read on a bulk connection. -/
def State.readBulk (s : State) (node cls i key off len : Nat) (p : Purpose) : State :=
  match s.bulkConn node cls i with
  | (s, some c) => s.issueRead c key off len p
  | (s, none) => s.failLater 65536 1 node p

/-! ### Responses and group frames -/

/-- Answers a received request: a response with the request's class, PSN and numbers exchanged (R318, R367). -/
def State.respond (s : State) (rx : Rx) (op status ackPsn : Nat) (f : Frame) : State :=
  let r := rx.frame
  let g := { f with
    op := BitVec.ofNat 8 op
    flags := BitVec.ofNat 8 (f.flags.toNat % 32 + 32 * frameClass r)
    epoch := BitVec.ofNat 8 (s.fld asfEpoch_current 0)
    status := BitVec.ofNat 8 status
    srcNode := BitVec.ofNat 16 s.ownNode
    dstNode := r.srcNode
    dstConn := r.srcConn
    srcConn := r.dstConn
    psn := r.psn
    ackPsn := BitVec.ofNat 32 ackPsn
    tsEcho := r.ts }
  let group := match s.conn r.dstConn.toNat with
    | some k => groupOf k.fn
    | none => 16
  s.enqueue rx.port.val (frameClass r) group g

/-! ### Wrapping (R317, R366) -/

/-- The DSCP of a class (R366). -/
def State.dscpOf (s : State) (cls : Nat) : Nat :=
  match cls with
  | 0 => s.fld shpClass_dscp0 0 | 1 => s.fld shpClass_dscp1 0 | 2 => s.fld shpClass_dscp2 0 | 3 => s.fld shpClass_dscp3 0
  | 4 => s.fld shpClass_dscp4 0 | 5 => s.fld shpClass_dscp5 0 | 6 => s.fld shpClass_dscp6 0 | _ => s.fld shpClass_dscp7 0

/-- The destination port of a frame: the one that its connection is bound to, or the hash's pick. Until a PROBE leaves, its ARG holds the
destination port that it goes to, plus 1 (R387). -/
def State.destPort (s : State) (f : Frame) : Nat :=
  let ports := s.mapPorts f.dstNode.toNat
  let h := connHash f.srcNode.toNat f.dstNode.toNat f.srcConn.toNat
  let own := if f.op.toNat < 0x10 then (match s.conn f.srcConn.toNat with
    | some k => k.dp
    | none => none) else none
  if f.op = 0x15 && f.arg ≠ 0 then f.arg.toNat - 1 else (own.orElse fun _ => pickPort ports h).getD 0

/-- The connection hash of a frame, whose low 16 bits are its UDP source port: a bulk connection takes its number (R317, R337). -/
def State.frameHash (s : State) (f : Frame) : Nat :=
  let own := if f.op.toNat < 0x10 then (match s.conn f.srcConn.toNat with
    | some k => k.bulk
    | none => none) else none
  own.getD (connHash f.srcNode.toNat f.dstNode.toNat f.srcConn.toNat)

/-- The key of a frame (R470): CONNECT, CONNECT_ACK and group frames use the pairwise key; a frame with TX_COUNT x of a connection uses the
key Ki of its direction with i = x >> 40. -/
def State.keyOf (s : State) (f : Frame) : FrameKey :=
  let peer := f.dstNode.toNat
  if f.op = 11 || f.op = 12 || 0x10 ≤ f.op.toNat then ⟨peer, s.newestGen peer, none, 0⟩
  else
    ⟨peer, ((mget s.asf.conns f.srcConn.toNat).map Conn.keyGen).getD (s.newestGen peer),
      some (f.srcNode.toNat, f.srcConn.toNat, peer, f.dstConn.toNat), f.txCount.toNat / 2 ^ 40⟩

/-- What a frame is wrapped in. -/
def State.encap (s : State) (port cls : Nat) (f : Frame) : Encap :=
  let h := s.frameHash f
  let dp := s.destPort f
  let e := mget s.asf.map f.dstNode.toNat
  { key := s.keyOf f
    mode := s.fld asfFrameCfg_mode 0
    pcp := cls
    vlan := s.fld asfFrameCfg_vlanId 0
    etherType := s.fld asfFrameCfg_ethertype 0
    udpSrc := h % 65536
    udpDst := s.fld asfFrameCfg_udpPort 0
    dscp := s.dscpOf cls
    srcMac := s.fld asfMac_baseMac 0 + port
    dstMac := match e with
      | some e => e.mac + dp
      | none => 0
    dstIp := match e with
      | some e => BitVec.ofNat 128 (e.ip.toNat / 256 * 256 + (e.ip.toNat + dp) % 256)
      | none => 0 }

/-! ### Group frames (R364) -/

/-- A group frame to a node, with the next count of those sent there. -/
def State.groupFrame (s : State) (dst op : Nat) (payload : List (BitVec 8)) : Frame :=
  { Frame.zero with
      op := BitVec.ofNat 8 op, flags := 0xE0, epoch := BitVec.ofNat 8 (s.fld asfEpoch_current 0),
      srcNode := BitVec.ofNat 16 s.ownNode, dstNode := BitVec.ofNat 16 dst, dstConn := 0xFFFF, srcConn := 0xFFFF,
      payload := payload, txCount := BitVec.ofNat 64 (2 ^ 63 + mgetD s.asf.groupTx dst 0) }

/-- Counts a group frame to a node. -/
def State.countGroup (s : State) (dst : Nat) : State :=
  { s with asf := { s.asf with groupTx := mset s.asf.groupTx dst (mgetD s.asf.groupTx dst 0 + 1) } }

/-- The port that a group frame to a node takes: the one that the hash with SRC_CONN 0xFFFF selects. -/
def State.groupPort (s : State) (dst : Nat) : Option Nat := pickPort s.ownPorts (connHash s.ownNode dst 0xFFFF)

/-- Sends a group frame in class 7 outside connections (R364). -/
def State.sendGroup (s : State) (dst op : Nat) (payload : List (BitVec 8)) : State :=
  match s.groupPort dst with
  | none => s
  | some q => (s.countGroup dst).enqueue q 7 16 (s.groupFrame dst op payload)

/-- A PROBE to each usable port of a node (R387). -/
def State.sendProbes (s : State) (dst : Nat) (payload : List (BitVec 8)) : State :=
  (s.mapPorts dst).foldl (fun s dp =>
    match s.groupPort dst with
    | none => s
    | some q => (s.countGroup dst).enqueue q 7 16 { s.groupFrame dst 0x15 payload with arg := BitVec.ofNat 32 (dp + 1) }) s

/-- A group frame that leaves a port at once: the last one of a device that is about to reset. -/
def State.sendLast (s : State) (q dst op : Nat) (payload : List (BitVec 8)) : State :=
  let f := { s.groupFrame dst op payload with ts := BitVec.ofNat 32 s.now }
  (s.countGroup dst).emit (.frame q (s.encap q 7 f) f)

/-- A message of the Ladle or of firmware. -/
def State.send (s : State) (dst : Nat) (m : Msg) : State := s.emit (.message dst m)

end Sys2Proof.Machine
end

