-- ==== Sys2Proof/Machine/Trace.lean ====
section
/-! DEFINITION. The synchronisation trace: which events are recorded, the buffer and its segments, the trigger and the loss records
(R474, R479 to R485). -/

set_option Elab.async false

namespace Sys2Proof.Machine

/-! ### The matrix (R474) -/

/-- The column of the matrix that holds: 0 BLANK and PROVISIONED, 1 FIELD and every state once FIELD_LOCK is blown, 2 FIELD_DEBUG,
3 RETIRED. -/
def State.debugColumn (s : State) : Nat :=
  if s.sec.fieldLock then 1
  else
    match s.lifecycle with
    | 0 => 0
    | 1 => 0
    | 3 => 2
    | 4 => 3
    | _ => 1

/-- Whether FIELD_DEBUG has a feature for a partition: bit 0 C, bit 1 D, bit 2 trace digests. -/
def State.tokenGives (s : State) (bit p : Nat) : Bool :=
  s.fld secDebug_features 0 / 2 ^ bit % 2 = 1 && s.fld secDebug_partition 0 = p

/-- The payload that a record of a partition may carry: 0 OFF, 1 DIGEST, 2 RAW. -/
def State.payloadOf (s : State) (part : Option (Fin 16)) : Nat :=
  match s.debugColumn with
  | 1 => 0
  | 2 => if s.trace.payload = 1 && part.any (fun p => s.tokenGives 2 p.val) then 1 else 0
  | _ => s.trace.payload

/-- Whether TRACE_CONFIG may ask for a payload and for STALL. -/
def State.traceAllows (s : State) (payload : Nat) (stall : Bool) : Bool :=
  match s.debugColumn with
  | 1 => payload = 0 && !stall
  | 2 => (payload = 0 || (payload = 1 && s.fld secDebug_features 0 / 4 % 2 = 1)) && !stall
  | _ => true

/-! ### The buffer (R484) -/

/-- The records of a segment, and the segments of the buffer. -/
def segmentRecords : Nat := 4096
def segments : Nat := 256

/-- Keeps DBG_TRACE_STAT. -/
def State.noteTrace (s : State) : State :=
  let t := s.trace
  (((s.setFld dbgTraceStat_fill 0 t.buffer.length).setFlag dbgTraceStat_frozen 0 t.frozen).setFlag dbgTraceStat_triggered 0
    t.fired).setFlag dbgTraceStat_enabled 0 t.enable

/-- Whether a segment holds no record. -/
def Trace.segFree (t : Trace) (g : Nat) : Bool := g ≠ t.seg && t.buffer.all fun x => x.seg ≠ g

/-- A segment without a record, from the present one on. -/
def Trace.freeSeg (t : Trace) : Option Nat :=
  ((List.range segments).map fun i => (t.seg + 1 + i) % segments).find? t.segFree

/-- The oldest segment that is neither being sent nor holds a PROTECTED record. -/
def Trace.victim (t : Trace) : Option Nat :=
  let sending := (t.buffer.head?.map Traced.seg).getD segments
  (t.buffer.find? fun x => x.seg ≠ sending && x.seg ≠ t.seg && !t.buffer.any fun y => y.seg = x.seg && y.prot).map Traced.seg

/-- The records that stand behind one of the buffer: those that a loss record counts, or the record itself. -/
def Traced.weight (x : Traced) : Nat := if x.rec_.kind = 0x0F then x.rec_.wait.toNat else 1

/-- The record of a loss: its count, and the ticks of the first and the last record lost. -/
def lossRecord (lost : List Traced) (g : Nat) : Traced :=
  ⟨(lost.head?.map Traced.tick).getD 0, ⟨0x0F, none, 0, 0, 0, BitVec.ofNat 32 (min (2 ^ 32 - 1) (lost.map Traced.weight).sum), 0, []⟩, false, false,
    (lost.getLast?.map Traced.tick).getD 0, g⟩

/-- The list with a segment's records replaced by their loss record, at the place of the first of them. -/
def replaceLost (g : Nat) (loss : Traced) (l : List Traced) : List Traced :=
  l.takeWhile (fun x => x.seg ≠ g) ++ loss :: (l.dropWhile fun x => x.seg ≠ g).filter fun x => x.seg ≠ g

/-- Drops a segment: its first slot takes the loss record, and the segment is filled next. -/
def State.dropSegment (s : State) (g : Nat) : State :=
  let lost := s.trace.buffer.filter fun x => x.seg = g
  ({ s with trace := { s.trace with buffer := replaceLost g (lossRecord lost g) s.trace.buffer, seg := g, segUsed := 1 } }).bump
    dbgTraceStat_lost 0 (lost.filter fun (x : Traced) => decide (x.rec_.kind ≠ 0x0F)).length

/-- Whether the next record finds a slot without a drop. -/
def Trace.hasSlot (t : Trace) : Bool := t.segUsed < segmentRecords || t.freeSeg.isSome

/-- Makes a slot for the next record: the present segment, the next free one, or the one whose records are dropped. -/
def State.makeSlot (s : State) : State :=
  if s.trace.segUsed < segmentRecords then s
  else
    match s.trace.freeSeg with
    | some g => { s with trace := { s.trace with seg := g, segUsed := 0 } }
    | none =>
      match s.trace.victim with
      | some g => s.dropSegment g
      | none => s

/-- Writes a record in the next slot; after a trigger it is one of the POST records, the last of which freezes the buffer (R483). -/
def State.putTrace (s : State) (r : TraceRec) (payload : Nat) (prot trigger : Bool) : State :=
  let s := s.makeSlot
  let t := s.trace
  let post := t.fired && 0 < t.postLeft
  let x : Traced := ⟨s.now, r, post || prot, trigger, payload, t.seg⟩
  ({ s with trace := { t with
    buffer := t.buffer ++ [x]
    segUsed := t.segUsed + 1
    postLeft := t.postLeft - (if post then 1 else 0)
    frozen := t.fired && t.postLeft ≤ 1 && post } }).noteTrace

/-! ### The trigger (R483) -/

/-- The record of a trigger: KIND 0x0E with its source. -/
def triggerRecord (source : Nat) : TraceRec := ⟨0x0E, none, 0, 0, 0, 0, BitVec.ofNat 32 source, []⟩

/-- Marks the last PRE records PROTECTED. -/
def Trace.protectPre (t : Trace) : Trace :=
  let n := t.buffer.length - t.pre
  { t with buffer := t.buffer.take n ++ (t.buffer.drop n).map fun x => { x with prot := true } }

/-- The armed trigger fires: the last PRE records become PROTECTED, the trigger record follows, and POST records are still to come. The
sources are the bits of TRIGGERS. -/
def State.fireTrigger (s : State) (source : Nat) : State :=
  let s := ({ s with trace := s.trace.protectPre }).putTrace (triggerRecord source) 0 true false
  ({ s with trace := { s.trace with fired := true, armed := false, postLeft := s.trace.post } }).noteTrace

/-- Whether the trigger of a bit of TRIGGERS is armed. -/
def Trace.armedFor (t : Trace) (bit : Nat) : Bool := t.enable && t.armed && !t.fired && t.triggers / 2 ^ bit % 2 = 1

/-- A trigger source without a record of its own: 0 TRACE_TRIGGER, 2 the global stop. -/
def State.sourceTrigger (s : State) (bit : Nat) : State := if s.trace.armedFor bit then s.fireTrigger bit else s

/-- An error record of a severity. -/
def State.errorTrigger (s : State) (sev : Nat) : State := if s.trace.trigSev ≤ sev then s.sourceTrigger 1 else s

/-! ### Events (R482) -/

/-- The payload of an event's data: nothing, its digest, or its first 8 bytes (R479). -/
def payloadWord (mode : Nat) (data : List (BitVec 8)) : Nat :=
  match mode with
  | 0 => 0
  | 1 => (crc32c data).toNat
  | _ => ofLe (data.take 8)

/-- Whether the settings record an event. -/
def Trace.records (t : Trace) (r : TraceRec) : Bool :=
  t.enable && !t.frozen && 1 ≤ r.kind.toNat && r.kind.toNat ≤ 11 && t.kinds / 2 ^ r.kind.toNat % 2 = 1 &&
    r.part.all (fun p => t.parts / 2 ^ p.val % 2 = 1)

/-- Whether an event fires the armed trigger by its own record. -/
def Trace.firedBy (t : Trace) (r : TraceRec) : Bool := t.armedFor 3 && r.kind.toNat = t.trigKind && t.trigWait ≤ r.wait.toNat

/-- An event enters the buffer: the record that fires the trigger is written with TRIGGER set, followed by the trigger's record. -/
def State.recordEvent (s : State) (r : TraceRec) : State :=
  let fires := s.trace.firedBy r
  let s := s.putTrace r (payloadWord (s.payloadOf r.part) r.data) fires fires
  if fires then s.fireTrigger 3 else s

/-- A trace event: in STALL mode a full buffer holds it until a slot frees (R484). -/
def State.traceEvent (s : State) (r : TraceRec) : State :=
  if !s.trace.records r then s
  else if s.trace.stall && !s.trace.hasSlot then { s with trace := { s.trace with heldEvents := s.trace.heldEvents ++ [r] } }
  else s.recordEvent r

/-- The held events enter the buffer while it has slots. -/
def State.releaseEvents (s : State) : Nat → State
  | 0 => s
  | n + 1 =>
    match s.trace.heldEvents with
    | [] => s
    | r :: rs =>
      if !s.trace.hasSlot then s
      else ({ s with trace := { s.trace with heldEvents := rs } }.recordEvent r).releaseEvents n

/-- The port sends the oldest 64 records as one frame (R485), and what is left of a frozen buffer as a last, shorter one. -/
def State.sendTrace (s : State) : State :=
  let n := min 64 s.trace.buffer.length
  if n = 0 || (n < 64 && !s.trace.frozen) then s
  else
    let s := s.emit (.trace s.trace.frameNo (s.trace.buffer.take n))
    let s := { s with trace := { s.trace with buffer := s.trace.buffer.drop n, frameNo := (s.trace.frameNo + 1) % 2 ^ 32 } }
    (s.releaseEvents s.trace.heldEvents.length).noteTrace

/-- Trace with the settings of a TRACE_CONFIG (R482): the buffer is discarded, and a trigger is armed afresh. The trace port's domain is in
D0 while trace is enabled, and else in D3 (R408, R415). -/
def State.configTrace (s : State) (t : Trace) : State :=
  let s := if t.enable then s.comeUp 99 else s.clampIn 99 3
  ({ s with trace := { t with
    armed := t.enable && t.triggers ≠ 0, fired := false, postLeft := 0, frozen := false
    buffer := [], seg := 0, segUsed := 0, frameNo := s.trace.frameNo, heldEvents := [] } }).noteTrace

/-- Entry to C5 disables trace and discards the buffer (R477). -/
def State.stopTrace (s : State) : State := s.configTrace { s.trace with enable := false, payload := 0 }

end Sys2Proof.Machine
end

