-- ==== Sys2Proof/Machine/Ops.lean ====
section
/-! DEFINITION. The named operations over replies, memories, errors and resets. -/

set_option Elab.async false

namespace Sys2Proof.Machine

/-! ### Replies (R55, R60, R78) -/

/-- The 32 bytes of a reply (R55). -/
def Reply.bytes (r : Reply) (phase : Bool) (cqHead : Nat) : List (BitVec 8) :=
  leBytes 2 r.tag ++ leBytes 1 r.status ++ leBytes 1 r.op ++ leBytes 1 (if phase then 1 else 0) ++ leBytes 1 r.queue ++
    leBytes 2 cqHead ++ leBytes 2 r.detail ++ leBytes 6 0 ++ leBytes 8 r.effTick ++ leBytes 8 r.result

/-- The 16 bytes of a token ring record (R59). -/
def TokRec.bytes (r : TokRec) (phase : Bool) : List (BitVec 8) :=
  leBytes 4 (r.handle + r.kind * 2 ^ 18 + r.reason * 2 ^ 20 + if phase then 2 ^ 22 else 0) ++ leBytes 4 r.token ++
    leBytes 4 r.position ++ leBytes 4 r.step

/-- An entry of a queue that lies in a remote node's memory travels there as a write in class 5 (R47, R366). -/
def State.shipEntry (s : State) (q : Nat) (x : Queue) (bytes : List (BitVec 8)) : State :=
  if x.placement = 2 then s.writeBulk x.owner 5 (q % 8) 0 (x.base % 2 ^ 48 + x.wr * bytes.length) bytes (.queueWrite q) else s

/-- Writes a reply entry in its reply queue, which has room. -/
def State.putReply (s : State) (rq : Nat) (r : Reply) : State :=
  match s.queue rq with
  | none => s
  | some x =>
    let cq := if x.kind = 3 then 0 else match s.queue r.queue with
      | some c => c.head
      | none => 0
    let s := s.shipEntry rq x (r.bytes x.phase cq)
    ((s.emit (.reply rq x.wr x.phase cq r)).modQueue rq Queue.advance).noteEntry rq

/-- Writes a reply in a queue, or holds it behind others when the queue is full, which counts in CMD_REPLY_WAIT (R60). `owed` is the
function whose accepted command it ends. -/
def State.replyOwed (s : State) (rq : Nat) (owed : Option Nat) (r : Reply) : State :=
  match s.queue rq with
  | none => s
  | some x =>
    if x.room = 0 || s.buhorn.heldReplies.any (fun h => h.rq = rq) then
      ({ s with buhorn := { s.buhorn with heldReplies := s.buhorn.heldReplies ++ [Held.mk rq r owed] } }).bump cmdReplyWait_count rq 1
    else s.putReply rq r

/-- Writes a reply that ends no accepted command. -/
def State.replyTo (s : State) (rq : Nat) (r : Reply) : State := s.replyOwed rq none r

/-- The reply queue of a command queue; a reply owed to a deleted queue is discarded (R525). -/
def State.answer (s : State) (owed : Option Nat) (r : Reply) : State :=
  match s.queue r.queue with
  | some x => s.replyOwed x.reply owed r
  | none => s

/-- Writes a reply in the reply queue of its command queue, for a command that is not accepted or not ended by it. -/
def State.reply (s : State) (r : Reply) : State := s.answer none r

/-- An accepted command's final reply. -/
def Pend.final (c : Pend) (status detail result : Nat) : Reply :=
  ⟨c.tag, status, c.op, c.queue, detail, if status = 0 || status = 3 then c.effTick else 0, result⟩

/-- The in-flight count of a function: its accepted commands whose final reply is not written, those whose reply is held among them
(R52, R79). -/
def State.inflight (s : State) (fn : Nat) : Nat :=
  (s.buhorn.cmds.filter fun c => c.fn = fn).length + (s.buhorn.heldReplies.filter fun h => h.owed = some fn).length

/-- Keeps CMD_INFLIGHT at the count. -/
def State.noteInflight (s : State) (fn : Nat) : State := s.setFld cmdInflight_count fn (s.inflight fn)

/-- Writes the held replies of a queue while it has room, keeping CMD_INFLIGHT. -/
def State.drainReplies (s : State) (rq : Nat) : Nat → State
  | 0 => s
  | fuel + 1 =>
    match s.queue rq, s.buhorn.heldReplies.find? (fun h => h.rq = rq) with
    | some x, some h =>
      if x.room = 0 then s
      else
        let s := ({ s with buhorn := { s.buhorn with heldReplies := s.buhorn.heldReplies.erase h } }).putReply rq h.reply
        State.drainReplies (match h.owed with
          | some fn => s.noteInflight fn
          | none => s) rq fuel
    | _, _ => s

/-- Writes the final reply of an accepted command and takes it off the list. -/
def State.finishOne (s : State) (id status detail result : Nat) : State :=
  match s.buhorn.cmds.find? (fun c => c.id = id) with
  | none => s
  | some c =>
    let s := { s with buhorn := { s.buhorn with cmds := s.buhorn.cmds.filter fun c => c.id ≠ id } }
    let detail := if detail = 0 && c.waked then 7 else detail
    (s.answer (some c.fn) (c.final status detail result)).noteInflight c.fn

/-- Whether every accepted command of a queue but one has replied (R74). -/
def State.allReplied (s : State) (q id : Nat) : Bool :=
  !(s.buhorn.cmds.any fun x => x.queue = q && x.id ≠ id) && !s.buhorn.heldReplies.any fun h => h.owed.isSome && h.reply.queue = q

/-- Ends a QUEUE_DELETE whose queue has no other accepted command without its final reply: the queue goes (R74). -/
def State.endDelete (s : State) (c : Pend) : State :=
  match c.wait with
  | .queueDelete q =>
    if !s.allReplied q c.id then s
    else
      let s := s.finishOne c.id 0 0 0
      { s with buhorn := { s.buhorn with
          queues := mdel s.buhorn.queues q
          heldReplies := s.buhorn.heldReplies.filter fun h => h.rq ≠ q } }
  | _ => s

/-- Ends every deletion that waited for its queue's last reply and has it. -/
def State.endDeletes (s : State) : State := s.buhorn.cmds.foldl State.endDelete s

/-- Ends an accepted command with its final reply; a deletion that waited for the queue's last reply ends after it. -/
def State.finish (s : State) (id status detail result : Nat) : State := (s.finishOne id status detail result).endDeletes

/-- Changes an accepted command. -/
def State.modCmd (s : State) (id : Nat) (f : Pend → Pend) : State :=
  { s with buhorn := { s.buhorn with cmds := s.buhorn.cmds.map fun c => if c.id = id then f c else c } }

/-- The accepted commands of a kind of wait, oldest first. -/
def State.cmdsWhere (s : State) (f : Pend → Bool) : List Pend := s.buhorn.cmds.filter f

/-- The handle that a sequence or state command names (R68). -/
def Pend.handle (c : Pend) : Nat := c.obj % 2 ^ 18

/-- Parameter bytes `b` to `b + n - 1` of an accepted command (R53). -/
def Pend.par (c : Pend) (b n : Nat) : Nat := c.params.toNat / 2 ^ (8 * (b - 16)) % 2 ^ (8 * n)

/-! ### Bytes -/

/-- A memory of listed bytes: an unlisted byte reads 0. -/
def Cells.read (m : List Cell) (a : Nat) : BitVec 8 := mgetD m a 0

/-- Writes one byte, keeping the canonical form: a byte that is 0 is not listed. -/
def Cells.write (m : List Cell) (a : Nat) (v : BitVec 8) : List Cell := if v = 0 then mdel m a else mset m a v

/-- Writes bytes upwards from an address. -/
def Cells.writeList (m : List Cell) (a : Nat) : List (BitVec 8) → List Cell
  | [] => m
  | b :: bs => Cells.writeList (Cells.write m a b) (a + 1) bs

/-- Reads `n` bytes upwards from an address. -/
def Cells.readList (m : List Cell) (a n : Nat) : List (BitVec 8) := (List.range n).map fun i => Cells.read m (a + i)

/-- A memory without the bytes of a range: they read 0. -/
def Cells.clear (m : List Cell) (a n : Nat) : List Cell := m.filter fun c => c.1 < a || a + n ≤ c.1

/-- The canonical form of a memory: addresses strictly rising and no listed byte 0. -/
def Cells.wf (m : List Cell) : Bool := mwf m && m.all fun c => c.2 != 0

/-- The canonical form of every memory of the state. -/
def Memory.wf (s : State) : Bool := Cells.wf s.dram && Cells.wf s.tiers.bytes && Cells.wf s.staging

/-- The page key of page `n` of partition `p`. -/
def pageKey (p n : Nat) : Nat := p * 2 ^ 32 + n

/-- The place of byte `o` of a page in `Tiers.bytes`. -/
def pageByte (key o : Nat) : Nat := key * 65536 + o

/-! ### Near-bank units and tiles named by registers -/

/-- Whether a channel's unit is quarantined. -/
def State.unitQuarantined (s : State) (c u : Nat) : Bool := s.fld genChUnits_quarantine c / 2 ^ u % 2 = 1

/-- The units of a mask, ascending. -/
def maskUnits (m : Nat) : List Nat := (List.range 32).filter fun u => m / 2 ^ u % 2 = 1

/-- The unit that runs a unit's operations: its partner where it is quarantined (R160). -/
def State.runner (s : State) (c u : Nat) : Nat := if s.unitQuarantined c u then u ^^^ 1 else u

/-- Marks the units of a mask, and those that run for them, as issued to by a partition (R122). -/
def State.markIssuer (s : State) (c p m : Nat) : State :=
  (maskUnits m).foldl (fun s u =>
    [u, s.runner c u].dedup.foldl (fun s u =>
      { s with gen := { s.gen with issuers := mset s.gen.issuers (c * 32 + u) (mgetD s.gen.issuers (c * 32 + u) 0 ||| 2 ^ p) } }) s) s

/-- The draft configuration's reserved channels in force: the highest `draftGroup` ones, and none while no draft set is loaded there (R161,
R169). -/
def State.reserved (s : State) (c : Nat) : Bool := s.gen.draftOn && 64 - s.gen.draftGroup ≤ c

/-- The logical groups that a partition owns, ascending. -/
def State.groupsOf (s : State) (p : Nat) : List Nat :=
  (List.range 24).filter fun g => s.fld prmGroup_state g = 1 && s.fld prmGroup_owner g = p

/-- The group that bit `k` of a TILE_MASK names (R239): the partition's k-th group as the active table found them, or its lowest-numbered
remaining group where that one has been withdrawn since (R201). -/
def State.groupOfBit (s : State) (p k : Nat) : Option Nat :=
  let gone := (s.part p).gone
  if gone.contains k then (s.groupsOf p).head? else (s.groupsOf p)[k - (gone.filter (· < k)).length]?

/-- The groups that an entry's TILE_MASK names. -/
def State.entryGroups (s : State) (p : Nat) (e : Entry) : List Nat :=
  ((List.range 24).filterMap fun k => if e.tiles / 2 ^ k % 2 = 1 then s.groupOfBit p k else none).dedup

/-- The physical tiles of groups. -/
def State.tilesIn (s : State) (gs : List Nat) : List Nat :=
  gs.flatMap fun g => (List.range 8).map fun i => s.fld prmTileMap_physical (8 * g + i)

/-- The physical tiles of a partition's groups. -/
def State.tilesOf (s : State) (p : Nat) : List Nat :=
  s.tilesIn (s.groupsOf p)

/-! ### Tiles and their map (R170, R171, R199 to R201) -/

/-- Keeps the group counts of PRM_STATUS. -/
def State.noteGroups (s : State) : State :=
  (s.setFld prmStatus_groupsFree 0 ((List.range 24).filter fun g => s.fld prmGroup_state g = 0).length).setFld
    prmStatus_withdrawn 0 ((List.range 24).filter fun g => s.fld prmGroup_state g = 2).length

/-- The physical tiles that a logical tile maps to (R170). -/
def State.mapped (s : State) : List Nat :=
  (List.range 192).filterMap fun i => if s.flag prmTileMap_valid i then some (s.fld prmTileMap_physical i) else none

/-- The free spares, ascending: neither mapped nor quarantined (R170). -/
def State.spares (s : State) : List Nat :=
  let used := s.mapped
  (List.range 200).filter fun t => !used.contains t && !s.prm.quarantined.contains t

/-- The spares that are not chosen for a replacement that waits. -/
def State.openSpares (s : State) : List Nat := s.spares.filter fun t => !s.prm.replace.any fun r => r.2 = t

/-- Keeps the tile counts of PRM_STATUS. -/
def State.noteSpares (s : State) : State :=
  (s.setFld prmStatus_sparesFree 0 (min s.spares.length 255)).setFld prmStatus_quarantined 0 s.prm.quarantined.length

/-- The panels of physical tiles go: their operand buffers are marked empty, and no kernel reads them. -/
def State.emptyTiles (s : State) (f : Nat → Bool) : State :=
  { s with prm := { s.prm with panels := mfilter s.prm.panels fun k _ => !f (k / 2), inUse := mfilter s.prm.inUse fun t _ => !f t } }

/-- The accumulators of physical tiles are cleared. -/
def State.clearAcc (s : State) (f : Nat → Bool) : State :=
  { s with prm := { s.prm with acc := mfilter s.prm.acc fun t _ => !f t } }

/-- A replacement takes effect: the logical tile's panels are refetched from here on (R200). -/
def State.replaceTile (s : State) (logical phys : Nat) : State :=
  let old := s.fld prmTileMap_physical logical
  let s := (s.setFld prmTileMap_physical logical phys).emptyTiles fun t => t = old || t = phys
  ({ s with prm := { s.prm with replace := s.prm.replace.filter fun r => r.1 ≠ logical } }).noteSpares

/-- A group leaves its partition and service: its logical tiles have no physical tile (R201). -/
def State.withdraw (s : State) (g : Nat) : State :=
  let p := s.fld prmGroup_owner g
  let owned := s.fld prmGroup_state g = 1
  let s := (s.setFld prmGroup_state g 2).setFld prmGroup_owner g 0
  let s := (List.range 8).foldl (fun s i => s.setFlag prmTileMap_valid (8 * g + i) false) s
  let s := { s with prm := { s.prm with
      withdraw := s.prm.withdraw.filter (· ≠ g)
      replace := s.prm.replace.filter fun r => r.1 / 8 ≠ g } }
  let s := if owned then s.setFld prmPart_groups p (s.groupsOf p).length else s
  s.noteGroups.noteSpares

/-- The highest-numbered idle group, whose tiles may replace others (R199 step 2). -/
def State.lastIdle (s : State) : Option Nat := ((List.range 24).reverse).find? fun x => s.fld prmGroup_state x = 0

/-- The highest-numbered tile of a group that is not quarantined. -/
def State.lastTile (s : State) (g : Nat) : Option Nat :=
  (((List.range 8).reverse.map fun i => s.fld prmTileMap_physical (8 * g + i)).find? fun t => !s.prm.quarantined.contains t)

/-- The physical tile that replaces a quarantined one of a group, by the order of R199; none where the group itself is
withdrawn. A group whose tile is taken is withdrawn; where it is the tile's own group, nothing is left to replace. -/
def State.chooseTile (s : State) (g : Nat) : State × Option Nat :=
  match s.openSpares with
  | t :: _ => (s, some t)
  | [] =>
    match s.lastIdle with
    | some x => (s.withdraw x, if x = g then none else s.lastTile x)
    | none => (s, none)

/-- Whether a group's changes wait for a boundary: its owner runs a table (R200, R201). -/
def State.groupRuns (s : State) (g : Nat) : Bool :=
  s.fld prmGroup_state g = 1 && (s.part (s.fld prmGroup_owner g)).active.isSome

/-- Finds a replacement for the physical tile of a logical tile; at once where no table runs on its group. -/
def State.replaceLogical (s : State) (logical : Nat) : State :=
  let g := logical / 8
  let c := s.chooseTile g
  let s := c.1
  match c.2 with
  | some t =>
    if s.groupRuns g then { s with prm := { s.prm with replace := s.prm.replace ++ [(logical, t)] } }
    else s.replaceTile logical t
  | none =>
    if s.groupRuns g then { s with prm := { s.prm with withdraw := if s.prm.withdraw.contains g then s.prm.withdraw else s.prm.withdraw ++ [g] } }
    else s.withdraw g

/-- The logical tile that a physical tile serves. -/
def State.logicalOf (s : State) (t : Nat) : Option Nat :=
  (List.range 192).find? fun i => s.flag prmTileMap_valid i && s.fld prmTileMap_physical i = t

/-- The replacement of a quarantined physical tile, if a logical tile maps to it (R199). -/
def State.replaceQuarantined (s : State) (t : Nat) : State :=
  match s.logicalOf t with
  | some l => s.replaceLogical l
  | none => s

/-- The tile map as a reset loads it from the quarantine state (R171). -/
def State.loadTileMap (s : State) : State :=
  (((List.range 200).filter s.prm.quarantined.contains).foldl State.replaceQuarantined s).noteGroups.noteSpares

/-- Keeps a channel's MEM_ONLY: both units of a partner pair are quarantined (R160). -/
def State.noteMemOnly (s : State) (c : Nat) : State :=
  s.setFlag genChUnits_memOnly c ((List.range 16).any fun u => s.unitQuarantined c (2 * u) && s.unitQuarantined c (2 * u + 1))

/-! ### Partition reset (R259, R261) -/

/-- Discards what a sequence of a partition under reset had not committed (R259). -/
def Seq.discardStep (q : Seq) : Seq := { q with appended := 0, written := [], selected := none, draft := 0, probing := false, dropped := false, poisoned := false }

/-- The near-bank side of a reset (R140): queued descriptors go, a running operation ends with its result discarded, and
the vector buffers of units that the partition issued to are cleared, their partial results with them (R122). -/
def Gen.resetPart (g : Gen) (p : Nat) : Gen :=
  { g with
    channels := mmap g.channels fun _ c =>
      { c with
        queue := c.queue.filter fun d => d.1 ≠ p
        running := c.running.map fun d => if d.1 = p then (16, d.2) else d }
    vbufs := mfilter g.vbufs fun u _ => mgetD g.issuers u 0 / 2 ^ p % 2 = 0
    reduce := mfilter g.reduce fun k _ => mgetD g.issuers (k % 2048) 0 / 2 ^ p % 2 = 0 }

/-- Abandons the migrations of a partition's pages (R290): the destinations are released, the sources stay home. -/
def Tiers.abandonPart (t : Tiers) (p : Nat) : Tiers :=
  let gone := t.moves.filter fun m => m.1 / 2 ^ 32 = p
  { t with
    moves := t.moves.filter fun m => m.1 / 2 ^ 32 ≠ p
    pages := t.pages.map fun x => if x.1 / 2 ^ 32 = p then (x.1, { x.2 with moving := false }) else x
    frames := mfilter t.frames fun _ u => match u with
      | .dest k => k / 2 ^ 32 ≠ p
      | .lent k => k / 2 ^ 32 ≠ p
      | _ => true
    streams := t.streams.filter fun k => k / 2 ^ 32 ≠ p
    slots0 := mfilter t.slots0 fun _ k => !gone.any fun m => m.1 = k && m.2.tier = 0
    lodged := mfilter t.lodged fun l k => !gone.any fun m => m.1 = k && m.2.tier = 2 && m.2.lodging * 2 ^ 24 + m.2.loc = l }

/-- The reset causes that join or begin a reset (R262): counts the cause, and begins the reset of R259 unless one runs. -/
def State.beginReset (s : State) (p cause : Nat) : State :=
  let s := s.bump schReset_count p 1
  if s.flag schPart_resetting p then s
  else
    let s := (s.setFlag schPart_resetting p true).setFld schReset_cause p cause
    let s := s.modPart p fun x =>
      { x with resetAt := some s.now, pass := none, chunk := none, runs := [], void := true, batch := [], thin := [] }
    let tiles := s.tilesOf p
    { s with
      seqs := mmap s.seqs fun _ q => if q.part = p then q.discardStep else q
      gen := s.gen.resetPart p
      tiers := { s.tiers.abandonPart p with waitRows := s.tiers.waitRows.filter fun r => (s.seq r.handle.toNat).any fun q => q.part ≠ p }
      prm := { s.prm with
        panels := mfilter s.prm.panels fun k _ => !tiles.contains (k / 2)
        inUse := mfilter s.prm.inUse fun t _ => !tiles.contains t
        acc := mfilter s.prm.acc fun t _ => !tiles.contains t
        rerun := s.prm.rerun.filter fun t => !tiles.contains t
        made := mdel s.prm.made p } }

/-! ### Device resets (R511, R524) -/

/-- The registers that every reset but a C5 exit keeps (R524): the PLN and PIN blocks, the quarantine bits and records, the
plinth records, the stopped flag and the role; and GLB_LIFECYCLE, which the fuses load again. -/
def keepAcrossReset (off : Nat) : Bool :=
  (0x1C00000 ≤ off && off < 0x1D00000) || (0x1F00000 ≤ off && off < 0x2000000) ||
  (0x801000 ≤ off && off < 0x801400) || (0x1A01000 ≤ off && off < 0x1A02000) || off = 0x18

/-- The quarantine bits, the stopped flag and the role carried over a reset. -/
def State.carryFlags (old new : State) : State :=
  let new := (List.range 64).foldl (fun n c => (n.setFld genChUnits_quarantine c (old.fld genChUnits_quarantine c)).noteMemOnly c) new
  let new := (new.setFld dbgGstop_stopped 0 (old.fld dbgGstop_stopped 0)).setFld glbFn_role 0 (old.fld glbFn_role 0)
  new.setFld resStat_fenced 0 (old.fld resStat_fenced 0)

/-- A halted partition goes on (R488): its next cycle starts at once with its full period. A DEBUG_HALT that still waits replies. -/
def State.resumeHalt (s : State) (p : Nat) : State :=
  if !(s.part p).halted then s
  else
    let s := s.modPart p fun x =>
      { x with halted := false, cycleStart := s.now, schedDue := false, runs := [], reached := [], passed := [] }
    let s := (s.setFlag dbgHalt_halted p false).setFlag dbgHalt_drained p false
    (s.cmdsWhere fun c => c.wait = .halt p).foldl (fun s c => s.finish c.id 0 0 0) s

/-- FIELD_DEBUG ends (R473): every halted core is resumed, and trace payload returns to OFF. -/
def State.endFieldDebug (s : State) : State :=
  let s := (s.setFld glbLifecycle_state 0 s.sec.fused).setReg .secDebug 0 0
  if s.parts.any fun x => x.2.halted then
    let s := s.parts.foldl (fun s x => s.resumeHalt x.1) s
    { s with trace := { s.trace with payload := 0 } }
  else { s with trace := { s.trace with payload := 0 } }

/-- A debug nonce drawn afresh (R472). -/
def State.drawNonce (s : State) : State :=
  let x := Config.entropy s.freeCtr
  (({ s with freeCtr := s.freeCtr + 1 }).setFld secDbgNonce0_nonce 0 (x.toNat % 2 ^ 64)).setFld secDbgNonce1_nonce 0
    (x.toNat / 2 ^ 64 % 2 ^ 64)

/-- The security state over a reset: fuses and boot flash stay, keys and the running image go (R468). -/
def Sec.afterReset (x : Sec) : Sec :=
  { Sec.reset with
    fused := x.fused, fieldLock := x.fieldLock, bootSource := x.bootSource, ownerKey := x.ownerKey,
    secondKey := x.secondKey, revoked := x.revoked, floor := x.floor, uds := x.uds,
    bootFlash := x.bootFlash, cert := x.cert, fuseWords := x.fuseWords, torn := x.torn || x.programming.isSome }

/-- Whether a granule is one of those of a list of extents. -/
def inExtents (l : AMap (Nat × Nat)) (a : Nat) : Bool := l.any fun x => x.2.1 ≤ a && a < x.2.1 + x.2.2

/-- The flash over a reset: the durable granules of every completed commit stay, everything held in DRAM goes (R307, R505). -/
def Ftl.afterReset (f : Ftl) : Ftl :=
  let kept := f.durableAt.filter fun x => (List.range x.2.2).all fun i => !mhas f.pending (x.2.1 + i)
  let map := mfilter f.map fun a _ => inExtents kept a
  { Ftl.reset with
    blocks := mmap f.blocks fun b x =>
      { x with granules := x.granules.filter fun a => mget map a = some b, leaving := false, erasing := false, suspended := false }
    map := map
    durable := mfilter f.durable fun w _ => mhas kept w
    durableAt := kept
    extents := kept.map fun x => x.2
    writes := f.writes }

/-- A reset of every kind but the C5 exit (R511, R524): every register takes its reset value but those kept in the plinth;
the rails' stage is as the kind has it. Record numbers go on, as they count from power-up (R400), and the records that the plinth holds for
the log stay (R531). `kind` is LAST_RESET, `stage` the start-up stage that follows. -/
def State.reboot (s : State) (kind stage : Nat) : State :=
  let n : State := { State.reset with
    pending := s.pending
    now := s.now
    freeCtr := s.freeCtr
    out := s.out
    regs := s.regs.filter fun r => keepAcrossReset r.1
    ftl := s.ftl.afterReset
    prm := { Prm.reset with quarantined := s.prm.quarantined }
    sec := s.sec.afterReset
    res := { Res.reset with unread := s.res.unread, held := s.res.held, nextErr := s.res.nextErr }
    pln := { s.pln with resetAt := s.now, pcieUp := false, boundaryScan := false, stopped := false } }
  let n := (State.carryFlags s n).loadTileMap
  let n := (if 2 ≤ stage then n.startLoops else n).endFieldDebug.drawNonce
  ((n.setFld plnBoot_lastReset 0 kind).setFld plnBoot_stage 0 stage).setFld plnBoot_readyMs 0 0

/-! ### Errors (R399 to R406) -/

/-- The record of a report (R400). -/
def errorRecord (e : ErrorReport) (tick : Tick) : ErrRec :=
  ⟨tick, e.sev.toNat, 0, e.unit.toNat, e.code.toNat, e.part.map Fin.val, 1, e.location, e.info0, e.info1,
    e.handle.map BitVec.toNat, e.job.toNat, 0⟩

/-- The bytes of a record (R400). -/
def ErrRec.word (r : ErrRec) (w : Nat) : BitVec 64 :=
  let part := match r.part with
    | some p => p + 16
    | none => 0
  let h := match r.handle with
    | some x => x + 2 ^ 18
    | none => 0
  match w with
  | 0 => BitVec.ofNat 64 r.tick
  | 1 => BitVec.ofNat 64 (r.sev + r.flags + r.unit * 2 ^ 8 + r.code * 2 ^ 16 + part * 2 ^ 32 + min r.count 65535 * 2 ^ 48)
  | 2 => r.location
  | 3 => r.info0
  | 4 => r.info1
  | 5 => BitVec.ofNat 64 (h + r.job * 2 ^ 32)
  | 6 => 0
  | _ => BitVec.ofNat 64 r.id

/-- Writes a plinth record slot (R406). -/
def State.plinthPut (s : State) (j : Nat) (f : Nat → BitVec 64) : State :=
  (List.range 8).foldl (fun s w => s.setReg .resPlinthRec (8 * j + w) (f w)) s

/-- A new record enters the plinth's history at j 0 and moves the others up (R406). -/
def State.plinthPush (s : State) (r : ErrRec) : State :=
  let old := s
  let s := (List.range 15).foldl (fun s j => s.plinthPut (j + 1) fun w => old.reg .resPlinthRec (8 * j + w)) s
  let s := s.plinthPut 0 r.word
  { s with res := { s.res with unread := s.res.unread ++ [r.id] } }

/-- Sets a STATUS flag of the board management port, which asserts SMB_ALERT_N (R513). -/
def State.raiseAlert (s : State) : State :=
  if s.pln.alert then s else ({ s with pln := { s.pln with alert := true } }).emit (.pin 8 false)

/-- Writes a record to the error log when it is enabled, the link is up and it has a free entry (R406, R531). -/
def State.logRecord (s : State) (r : ErrRec) : State :=
  if !s.flag glbErrlogCtrl_enable 0 || !s.pln.pcieUp then s.bump resErrStat_logLost 0 1
  else
    let depth := 2 ^ s.fld glbErrlogCtrl_depthLog2 0
    let tail := s.fld glbErrlogCtrl_tail 0
    let head := s.fld glbErrlogCtrl_head 0
    if (tail + depth - head) % depth = depth - 1 then s.bump resErrStat_logLost 0 1
    else
      let next := (tail + 1) % depth
      let s := s.emit (.log tail s.res.logWr r)
      let s := (s.setFld glbErrlogCtrl_tail 0 next).setFlag glbErrlogCtrl_full 0 ((next + depth - head) % depth = depth - 1)
      let s := { s with res := { s.res with logWr := if next = 0 then !s.res.logWr else s.res.logWr } }
      s.emit (.msix 0 (s.fld glbErrlogCtrl_vector 0))

/-- Writes a record with the next ID: the counts of GLB_ERR_STAT, the log, and the plinth for the two higher severities. A
record raised before READY or while the link is down is held for the log (R531). -/
def State.writeRecord (s : State) (r : ErrRec) : State :=
  let r := { r with id := s.res.nextErr }
  let s := { s with res := { s.res with nextErr := s.res.nextErr + 1 } }
  let s := s.setFld glbErrStat_lastId 0 r.id
  let s := match r.sev with
    | 0 => s.bump glbErrStat_corrected 0 1
    | 1 => s.bump glbErrStat_deferred 0 1
    | 2 => s.bump glbErrStat_pfatal 0 1
    | _ => s
  let s := if 2 ≤ r.sev then (s.plinthPush r).raiseAlert else s
  let s := s.errorTrigger r.sev
  if s.stage = 7 && s.pln.pcieUp then s.logRecord r
  else if 2 ≤ r.sev then { s with res := { s.res with held := (s.res.held ++ [r]).drop ((s.res.held.length + 1) - 16) } }
  else s

/-- Stops every partition without a commit (R405 step 1): no table issues, and no token is released. -/
def State.stopPartitions (s : State) : State :=
  { s with
    parts := mmap s.parts fun _ x => { x with active := none, commits := [], runs := [], batch := [], pass := none, chunk := none }
    buhorn := { s.buhorn with heldRecs := [] } }

/-- Freezes every clock domain but the plinth's (R489): `source` is DBG_GSTOP.SOURCE. -/
def State.globalStop (s : State) (source : Nat) (drive : Bool) : State :=
  let s := ((s.sourceTrigger 2).setFlag dbgGstop_stopped 0 true).setFld dbgGstop_source 0 source
  let s := { s with pln := { s.pln with stopped := true, stopTick := s.now } }
  if drive then s.emit (.pin 7 false) else s

/-- The heartbeat with FAILING that a Device-fatal error sends to the manager and the deputies on every port (R405 step 1). -/
def State.failingBeat (s : State) : State :=
  if !s.flag resCtrl_enable 0 then s
  else
    let dests := ([s.fld resMgr_acting 0, s.fld resDeputy_dep0 0, s.fld resDeputy_dep1 0, s.fld resDeputy_dep2 0, s.fld resDeputy_dep3 0]).filter fun d => d ≠ 0xFFFF && d ≠ s.ownNode
    let fenced := (if s.flag resStat_fenced 0 then 2 else 0) + if s.flag resStat_managing 0 then 4 else 0
    let body := leBytes 2 (s.fld asfNode_node 0) ++ leBytes 1 (s.fld asfNode_fdom 0) ++ leBytes 1 (1 + fenced) ++
      leBytes 4 (s.fld resMgr_term 0) ++ leBytes 1 (s.fld asfEpoch_current 0) ++ leBytes 7 0 ++
      leBytes 8 s.res.beats ++ leBytes 8 s.now
    s.ownPorts.foldl (fun s q => dests.dedup.foldl (fun s d => s.sendLast q d 0x14 body) s) s

/-- Device-fatal handling (R405): every partition stops, FAILING is sent, the record is kept and logged; the self-reset
follows at the next tick. A further Device-fatal error before it escalates: both records in the escalation pair, a
global stop that drives nothing, and the reset. -/
def State.deviceFatal (s : State) (r : ErrRec) : State :=
  if s.res.fatal then
    let s := s.bump resErrStat_escalations 0 1
    let first := s.res.nested.getD r
    let s := (s.plinthPut 16 first.word).plinthPut 17 ({ r with flags := r.flags + 8 }).word
    (s.globalStop 3 false).reboot 2 2
  else
    let s := { s with res := { s.res with fatal := true, nested := some r } }
    s.stopPartitions.failingBeat.writeRecord r

/-- The highest-severity record in handling, the oldest within a severity (R403). -/
def topRecord : List ErrRec → Option ErrRec
  | [] => none
  | r :: rs =>
    match topRecord rs with
    | some x => if r.sev < x.sev then some x else some r
    | none => some r

/-- The records in handling, and RES_ERR_STAT.IN_HANDLING with them. -/
def State.setHandling (s : State) (l : List ErrRec) : State :=
  ({ s with res := { s.res with handling := l } }).setFld resErrStat_inHandling 0 l.length

/-- The device's action on a record of each severity (R399, R405, R259). -/
def State.actOn (s : State) (r : ErrRec) : State :=
  match r.sev with
  | 3 => s.deviceFatal r
  | 2 =>
    let s := s.writeRecord r
    match r.part with
    | some p => s.beginReset p (match r.unit, r.code with
        | 4, _ => 2
        | 2, 4 => 3
        | 3, 4 => 4
        | 0x0D, 1 => 5
        | _, _ => 6)
    | none => s
  | _ => s.writeRecord r

/-- The record that ends a merge period: the tick of the last merged occurrence, and how many there were. -/
def mergedRecord (r : ErrRec) (n : Nat) : ErrRec := { r with tick := r.count, count := min n 65535 }

/-- Takes a record into handling (R403, R404): a higher severity pre-empts the current one, which is marked PREEMPTED; a
ninth record overflows into a Device-fatal error of unit 0x0B code 1. The action on a record is taken at once; the record
leaves handling at the next tick. -/
def State.handle (s : State) (r : ErrRec) : State :=
  if 8 ≤ s.res.handling.length then
    (s.bump resErrStat_overflows 0 1).deviceFatal
      { r with sev := 3, unit := 0x0B, code := 1, flags := 0, count := 1, part := none, location := 0, info0 := 0, info1 := 0, handle := none, job := 0 }
  else
    match topRecord s.res.handling with
    | some x =>
      if x.sev < r.sev then
        let l := s.res.handling.map fun y => if y = x then { y with flags := y.flags ||| 4 } else y
        (((s.bump resErrStat_preempted 0 1).setHandling (l ++ [r]))).actOn r
      else (s.setHandling (s.res.handling ++ [r])).actOn r
    | none => (s.setHandling [r]).actOn r

/-- One record's handling ends: the highest severity first, the oldest first within a severity (R403). -/
def State.retireError (s : State) : State :=
  match topRecord s.res.handling with
  | some x => s.setHandling (s.res.handling.erase x)
  | none => s

/-- Whether a report is a threshold error (R402). -/
def ErrRec.isThreshold (r : ErrRec) : Bool := r.sev = 0 && (r.unit = 1 || r.unit = 2 || r.unit = 3) && r.code = 1

/-- The start of the running threshold window: windows count from the last reset. -/
def State.windowStart (s : State) : Tick := max s.res.ceWindow s.pln.resetAt

/-- Begins the threshold window that the present lies in, where the running one has ended: the counts restart at 0 (R402). -/
def State.rollWindow (s : State) : State :=
  let len := s.fld resCeCfg_windowMs 0 * ticksPerMs
  if s.windowStart + len ≤ s.now then
    { s with res := { s.res with ceCounts := [], ceWindow := s.windowStart + (s.now - s.windowStart) / len * len } }
  else s

/-- Raises an error (R402, R403): threshold errors are counted and recorded at each multiple of THRESHOLD; another Corrected
error is recorded at its first occurrence and merged for 1 ms; the other severities are handled. -/
def State.raise (s : State) (e : ErrorReport) : State :=
  let r := errorRecord e s.now
  if r.isThreshold then
    let s := s.rollWindow
    let key := r.unit * 65536 + r.code
    let n := mgetD s.res.ceCounts key 0 + 1
    let s := { s with res := { s.res with ceCounts := mset s.res.ceCounts key n } }
    let th := s.fld resCeCfg_threshold 0
    if th ≠ 0 && n % th = 0 then s.handle { r with flags := 16, count := min n 65535 } else s
  else if r.sev = 0 then
    match s.res.merging.find? (fun m => m.1.unit = r.unit && m.1.code = r.code && m.1.location = r.location) with
    | some m =>
      if s.now < m.2.1 + ticksPerMs then
        { s with res := { s.res with merging := s.res.merging.map fun x => if x = m then ({ x.1 with count := s.now }, x.2.1, x.2.2 + 1) else x } }
      else
        let s := { s with res := { s.res with merging := s.res.merging.filter (· ≠ m) ++ [(r, s.now, 0)] } }
        (if 0 < m.2.2 then s.handle (mergedRecord m.1 m.2.2) else s).handle r
    | none =>
      let s := { s with res := { s.res with merging := s.res.merging ++ [(r, s.now, 0)] } }
      s.handle r
  else s.handle r

/-- A report with no partition, handle or job. -/
def errorOf (sev unit code location : Nat) : ErrorReport :=
  ⟨BitVec.ofNat 2 sev, BitVec.ofNat 8 unit, BitVec.ofNat 16 code, none, BitVec.ofNat 64 location, 0, 0, none, 0⟩

/-- A report that names a partition. -/
def errorOfPart (sev unit code location p : Nat) : ErrorReport :=
  { errorOf sev unit code location with part := if h : p < 16 then some ⟨p, h⟩ else none }

/-! ### The outcome of a command -/

/-- A command's outcome in a live device; elsewhere the command has no effect. -/
def State.whenLive (s : State) (f : State → State) : State := if s.live then f s else s

/-- The outcome type of `exec`. -/
abbrev Out := Host.Outcome State Fault Refusal

end Sys2Proof.Machine
end

