-- ==== Sys2Proof/Machine/Flags.lean ====
section
/-! DEFINITION. Register accesses: which function reaches which register, which fields an access covers, and what each
access type does (R13, R52, R350, R521 to R523). -/

set_option Elab.async false

namespace Sys2Proof.Machine

/-! ### Offsets -/

/-- The instance of a register that lies at an offset of the bank's own numbering, if one does. -/
def Reg.instanceAt (r : Reg) (off : Nat) : Option Nat :=
  let l := r.layout
  (List.range l.n1).findSome? fun a =>
    let start := r.offset (a * l.n2)
    if off < start || (off - start) % l.s2 ≠ 0 then none
    else
      let b := (off - start) / l.s2
      if b < l.n2 && l.first ≤ a * l.n2 + b then some (a * l.n2 + b) else none

/-- The bank's offset that a function reaches at an offset of its own BAR0: the administration registers and the window
registers are banked per function (R52, R350). -/
def bankOffset (fn off : Nat) : Nat :=
  if 0x100000 ≤ off && off < 0x100028 then off + 33554432 * fn
  else if 0x1010000 ≤ off && off < 0x1010200 && fn ≠ 0 then off + 0xFE00 + 0x200 * fn
  else off

/-- The register and instance at an offset of a function's BAR0. -/
def findReg (fn off : Nat) : Option (Reg × Nat) :=
  Reg.all.findSome? fun r => (r.instanceAt (bankOffset fn off)).map fun i => (r, i)

/-- Whether a virtual function sees a register instance: the visibility rule of each block (R52, R120, R169, R210, R234,
R274, R314, R350, R375, R407, R451, R492, R519, R523). -/
def vfSees (s : State) (fn : Nat) (r : Reg) (i : Nat) : Bool :=
  let p := fn - 1
  match r with
  | .cmdAdmqCtrl | .cmdAdmqCmdBase | .cmdAdmqReplyBase | .cmdQfault | .cmdInflight => i = fn
  | .cmdRingSkip => i = p
  | .cmdReplyWait => match s.queue i with
    | some q => q.fn = fn
    | none => false
  | .ldlQuantStat | .ldlNopageSkip | .ldlGroups | .genSpecStat | .prmPart => i = p
  | .schPart | .schPeriod | .schSwapTick | .schStep | .schGoal | .schLate | .schSkip | .schSkip2 | .schGroup | .schReset
  | .schSync | .dbgHalt | .pwrRefuse | .pwrClassPoint => i = p
  | .asfNotifyBase | .asfNotifyCtrl => i = p
  | .asfOwnCmd | .asfOwnStat => true
  | .asfRwinTarget | .asfRwinCtrl | .asfRwinImm => i / 16 = fn
  | .glbId | .glbCap0 | .glbCap1 | .glbLifecycle | .glbFn => true
  | _ => false

/-- Whether a function sees a register instance. -/
def sees (s : State) (fn : Nat) (r : Reg) (i : Nat) : Bool := fn = 0 || vfSees s fn r i

/-- Whether a function writes a field (R523). -/
def mayWrite (s : State) (fn : Nat) (f : Field) (i : Nat) : Bool :=
  sees s fn f.reg i && (fn = 0 || match f.reg with
    | .cmdAdmqCtrl | .cmdAdmqCmdBase | .cmdAdmqReplyBase => true
    | .asfRwinTarget | .asfRwinCtrl | .asfRwinImm | .asfNotifyBase | .asfNotifyCtrl | .asfOwnCmd => true
    | .dbgHalt => f.lo = 2
    | _ => false)

/-! ### Coverage (R522) -/

/-- Whether an access covers every bit of a field. -/
def covers (l : Lane) (f : Field) : Bool :=
  match l with
  | .full => true
  | .low => f.hi ≤ 31
  | .high => 32 ≤ f.lo

/-- The 64-bit word that a write's value stands for: a write of the upper half carries bits 63:32. -/
def laneWord (l : Lane) (v : BitVec 64) : BitVec 64 :=
  match l with
  | .full => v
  | .low => v &&& 0xFFFFFFFF
  | .high => v <<< 32

/-- The lane of an access by its size and offset; none for one that BAR0 refuses (R522). -/
def laneOf (off size : Nat) : Option Lane :=
  if size = 8 && off % 8 = 0 then some .full
  else if size = 4 && off % 8 = 0 then some .low
  else if size = 4 && off % 8 = 4 then some .high
  else none

/-! ### Reads -/

/-- The bits of a register that a read shows: those of its fields that are not WO. Reserved bits and WO fields read 0 (R12, R13). -/
def Reg.readable (r : Reg) : BitVec 64 :=
  r.fields.foldl (fun m f => if f.acc = .wo then m else m ||| BitVec.ofNat 64 ((2 ^ f.width - 1) * 2 ^ f.lo)) 0

/-- What a register instance reads as: its readable bits; the master count is read live, and GLB_FN shows the reading function;
CHUNK reads 0 of a partition that is not privileged (R13, R192, R351, R530). -/
def State.readReg (s : State) (fn : Nat) (r : Reg) (i : Nat) : BitVec 64 :=
  match r with
  | .tmbNow => BitVec.ofNat 64 s.now
  | .glbFn => BitVec.ofNat 64 (s.fld glbFn_role 0 * 2 ^ 6 + if fn = 0 then 2 ^ 5 else fn - 1)
  | .prmPart => s.reg r i &&& r.readable &&& if s.flag prmPart_privileged i then BitVec.allOnes 64 else ~~~ 0x3FF0000
  | _ => s.reg r i &&& r.readable

/-- Clears the RC fields that a read covers (R13, R522). -/
def State.clearRc (s : State) (l : Lane) (r : Reg) (i : Nat) : State :=
  r.fields.foldl (fun s f => if f.acc = .rc && covers l f then s.setFld f i f.reset else s) s

/-- A read of a register instance through a lane: the value, and the state after it. DBG_GSTOP.STOPPED is kept until it is read after
the reset (R492). -/
def State.readLane (s : State) (fn : Nat) (l : Lane) (r : Reg) (i : Nat) : BitVec 64 × State :=
  let w := s.readReg fn r i
  let v := match l with
    | .full => w
    | .low => w &&& 0xFFFFFFFF
    | .high => w >>> 32
  let s := if r = .dbgGstop && l ≠ .high && !s.pln.stopped then s.setFlag dbgGstop_stopped 0 false else s
  (v, s.clearRc l r i)

/-- Whether the hub runs and the host reaches BAR0: from stage CLOCKS on, in C0 or C3, not stopped (R509). -/
def State.hubRuns (s : State) : Bool :=
  2 ≤ s.stage && s.stage ≤ 7 && !s.pln.stopped && !s.pln.c6 && s.fld pwrDevStat_state 0 != 2

/-- Whether BAR0 decodes an offset: before READY only PLN_BOOT, the global registers and SEC_RECOVERY (R509). -/
def State.bar0Decodes (s : State) (off : Nat) : Bool :=
  s.hubRuns && (s.stage = 7 || off / 8 = 0x1C00000 / 8 || off < 0x8000 || off / 8 = Reg.offset .secRecovery 0 / 8)

/-- Whether BAR0 keeps a write at an offset: the administration control registers also before READY (R509). -/
def State.bar0Keeps (s : State) (r : Reg) (i : Nat) : Bool :=
  s.bar0Decodes (r.offset i) || (s.hubRuns && r = .cmdAdmqCtrl)

/-- A register write's effect where BAR0 keeps it. -/
def State.whenKept (s : State) (r : Reg) (i : Nat) (f : State → State) : State := if s.bar0Keeps r i then f s else s

/-- Counts a refused access (R522). -/
def State.badAccess (s : State) : State := s.bump glbErrStat_badAccess 0 1

/-- A function's read of BAR0 (R521 to R523). The table has no row for such a read, so no command performs it (DESIGN CHOICE, log 134). -/
def State.bar0Read (s : State) (fn off size : Nat) : BitVec 64 × State :=
  match laneOf off size with
  | none => (0, s.badAccess)
  | some l =>
    if !s.bar0Decodes off && !(s.hubRuns && 0x8000 ≤ off && off < 0x10000) then (0, s)
    else if 0x8000 ≤ off && off < 0x10000 then
      let w := mgetD s.msix (fn * 65536 + (off - 0x8000) / 8) 0
      (match l with
        | .full => w
        | .low => w &&& 0xFFFFFFFF
        | .high => w >>> 32, s)
    else
      match findReg fn (off / 8 * 8) with
      | some x => if sees s fn x.1 x.2 then s.readLane fn l x.1 x.2 else (0, s)
      | none => (0, s)

/-! ### Writes -/

/-- Whether a value lies in a field's accepted range; a field without one accepts every value. -/
def Field.accepts (f : Field) (v : Nat) : Bool := f.ok.isEmpty || f.ok.any fun r => r.1 ≤ v && v ≤ r.2

/-- A field's value in a written word where the write covers it and its range accepts it, else its present value. -/
def State.wanted (s : State) (l : Lane) (f : Field) (i : Nat) (w : BitVec 64) : Nat :=
  if covers l f && f.accepts (f.get w) then f.get w else s.fld f i

/-- Whether a sequence of the partition is STEPPING (R263). -/
def State.anyStepping (s : State) (p : Nat) : Bool := s.seqs.any fun x => x.2.part = p && x.2.state = .stepping

/-- The conditions under which a register as a whole accepts a write: those of the Meanings and rules that leave the
register unchanged (R169, R263, R274, R280, R350). -/
def State.regAccepts (s : State) (l : Lane) (r : Reg) (i : Nat) (w : BitVec 64) : Bool :=
  match r with
  | .genMmwin =>
    genMmwin_min.accepts (genMmwin_min.get w) && genMmwin_max.accepts (genMmwin_max.get w) &&
      genMmwin_min.get w ≤ genMmwin_max.get w
  | .schGroup =>
    let members := s.wanted l schGroup_members i w
    let index := s.wanted l schGroup_index i w
    !s.anyStepping i && (!covers l schGroup_members || schGroup_members.accepts (schGroup_members.get w)) &&
      (!covers l schGroup_slack || schGroup_slack.accepts (schGroup_slack.get w)) && (members = 0 || index < members)
  | .schSync => !s.anyStepping i
  | .tirPeerCtrl =>
    (!s.flag tirPeerCtrl_enable i && s.fld tirPeerUsed_used i = 0) ||
      (s.wanted l tirPeerCtrl_node i w = s.fld tirPeerCtrl_node i && s.wanted l tirPeerCtrl_key i w = s.fld tirPeerCtrl_key i)
  | .tirPeerBase => !s.flag tirPeerCtrl_enable i && s.fld tirPeerUsed_used i = 0
  | .asfNode | .asfMac | .asfFrameCfg => s.fld asfCtxStat_open 0 = 0
  | .resMirrorCfg => true
  | _ => true

/-- The conditions under which a field accepts a value (R263, R314, R350, R370, R375, R407, R530). -/
def State.fieldAccepts (s : State) (l : Lane) (f : Field) (i : Nat) (w : BitVec 64) : Bool :=
  f.accepts (f.get w) &&
  match f.reg with
  | .asfTimers => if f.lo = 44 || f.lo = 32 then s.wanted l asfTimers_rtoUs i w < s.wanted l asfTimers_timeoutUs i w else true
  | .tirT1Wm => s.wanted l tirT1Wm_lowFree i w < s.wanted l tirT1Wm_highFree i w
  | .ftlPolicy => if 48 ≤ f.lo then s.wanted l ftlPolicy_gcStart i w < s.wanted l ftlPolicy_gcStop i w else true
  | .tirLend => s.fld tirLend_lent 0 = 0
  | .resMirrorCfg => s.fld resMirrorCfg_slicesUsed 0 = 0
  | .asfNotifyCtrl => if f.lo = 4 then !s.flag asfNotifyCtrl_enable i else true
  | .shpSampleCtrl => if f.lo = 4 then !s.flag shpSampleCtrl_enable i else true
  | .glbErrlogBase => !s.flag glbErrlogCtrl_enable 0
  | .glbErrlogCtrl => if f.lo = 4 then !s.flag glbErrlogCtrl_enable 0
      else if f.lo = 48 then f.get w < 2 ^ s.fld glbErrlogCtrl_depthLog2 0 else true
  | .asfRwinTarget => if f.lo = 0 then f.get w % 4096 = 0 else true
  | .shpGateCtrl => if f.lo = 48 || f.lo = 49 then true else !s.flag shpGateCtrl_armed i
  | .shpGateEntry => !s.flag shpGateCtrl_armed (i / 256)
  | _ => true

/-- Gives one RW or W1C field its new value where the write may change it. -/
def State.writeField (old s : State) (fn : Nat) (l : Lane) (f : Field) (i : Nat) (w : BitVec 64) : State :=
  if !covers l f || !mayWrite old fn f i then s
  else
    match f.acc with
    | .rw => if old.fieldAccepts l f i w then s.setFld f i (f.get w) else s
    | .w1c => s.setFld f i (s.fld f i &&& (f.max - f.get w))
    | _ => s

/-- A write's effect on the RW and W1C fields of a register: they take effect together (R522). -/
def State.writeFields (s : State) (fn : Nat) (l : Lane) (r : Reg) (i : Nat) (v : BitVec 64) : State :=
  let w := laneWord l v
  if s.regAccepts l r i w then r.fields.foldl (fun t f => State.writeField s t fn l f i w) s else s

/-- The value that a WO or W1S field takes from a write that covers it and that the function may make. -/
def State.triggered (s : State) (fn : Nat) (l : Lane) (f : Field) (i : Nat) (v : BitVec 64) : Option Nat :=
  if covers l f && mayWrite s fn f i then some (f.get (laneWord l v)) else none

/-- Whether a W1S bit is written with 1. -/
def State.pulled (s : State) (fn : Nat) (l : Lane) (f : Field) (i : Nat) (v : BitVec 64) : Bool :=
  s.triggered fn l f i v = some 1

end Sys2Proof.Machine
end

