-- ==== Sys2Proof/WellFormed.lean ====
section
/-! DEFINITION. Which commands can be sent at all: the widths and lengths that the operand types leave open. No meaning
assumes well-formedness; it says which commands the rules speak of. -/

set_option Elab.async false

namespace Sys2Proof

/-- Parameter bytes `b` to `b + n - 1` of a packet as one little-endian number (R53). -/
def Packet.par (k : Packet) (b n : Nat) : Nat := k.params.toNat / 2 ^ (8 * (b - 16)) % 2 ^ (8 * n)

/-- A frame carries at most 4,096 bytes of payload (R319). -/
def Frame.wf (f : Frame) : Bool := f.payload.length ≤ 4096

/-- A received frame is well-formed. -/
def Rx.wf (r : Rx) : Bool := r.frame.wf

/-- A descriptor and journal that a move can bring: as long as the widths of R97 and R69 allow. -/
def MoveOffer.wf (o : MoveOffer) : Bool :=
  o.stops.length ≤ 64 && o.journal.length ≤ 4194304 && o.pageIndices.length ≤ 262144

/-- What a write's bytes are to their receiver is well-formed. -/
def WriteUse.wf : WriteUse → Bool
  | .moveOffer o => o.wf
  | _ => true

/-- A host write or read of a memory range is not empty and at most 4,096 bytes: one PCIe request. -/
def MemOp.wf : MemOp → Bool
  | .read n => 1 ≤ n && n ≤ 4096
  | .write d => 1 ≤ d.length && d.length ≤ 4096

/-- A raw weight block has at most 8,192 bytes (R217). -/
def RawBlock.wf (b : RawBlock) : Bool := b.raw.length ≤ 8192

/-- The rows that a near-bank operation's operands describe are of distinct units. -/
def NbInput.wf (i : NbInput) : Bool := decide (i.rows.map UnitRows.unit).Nodup

/-- The packets a read brings fit one burst (R81). -/
def HostRead.wf : HostRead → Bool
  | .packets _ ps => ps.length ≤ 64
  | _ => true

/-- A command that can be sent: each list and each natural number within what the rules give it. -/
def Instr.wf : Instr → Bool
  | .commandFetch _ writes => writes.length ≤ 512
  | .hostReadCompletion r => r.wf
  | .schTableLoad _ rows => rows.length ≤ 4096
  | .seqOpen _ stops => stops.length ≤ 64
  | .seqPrompt _ toks => toks.length ≤ 4194304
  | .pageListSet _ es => es.length ≤ 262144
  | .weightLoad _ _ bs => bs.all RawBlock.wf
  | .armatureEntryStart _ e => e.entry < 4096
  | .kernelComplete _ e _ => e < 4096
  | .stallMaxExpiry _ e => e < 4096
  | .readReq r | .readResp r | .writeImm r | .fetchAdd r | .swap r | .cas r | .atomicResp r | .ack r | .nak r
  | .connect r | .connectAck r | .disconnect r | .disconnectAck r | .reservedOpFrame r | .heartbeat r | .probe r
  | .decision r | .takeover r => r.wf
  | .write r u => r.wf && u.wf
  | .hostWindowWrite _ _ _ d => 1 ≤ d.length && d.length ≤ 4096
  | .hostWindowRead _ _ _ n => 1 ≤ n && n ≤ 4096
  | .hostDramAccess _ a => a.op.wf
  | .nearBankDescriptorIssue _ _ d => d.need ≤ 65536
  | .nearBankOpComplete _ inp => inp.wf
  | .registerWrite _ _ n _ => 1 ≤ n && n ≤ 8
  | .thermalSample l d => l.length ≤ 64 && d.length ≤ 64
  | .plaster _ cs => cs.length ≤ 101
  | .traceRecord r => r.data.length ≤ 4096
  | .keyExchange k => k.length = 96
  | _ => true

end Sys2Proof
end

