-- ==== Sys2Proof/Machine/Operands.lean ====
section
/-! DEFINITION. The operand forms of the command packets, and the acceptance of a command (R53, R54, R61 to R79). -/

set_option Elab.async false

namespace Sys2Proof.Machine

/-! ### Packets -/

/-- The width of OBJECT that an opcode's table gives; higher bits are reserved (R53, R68, R74). -/
def objectBits (k : Packet) : Nat :=
  match k.opcode.toNat with
  | 0x01 => 8 | 0x02 => 8 | 0x04 => 4 | 0x05 => 4
  | 0x11 => 18 | 0x12 => 18 | 0x13 => 18 | 0x14 => 18 | 0x15 => 18 | 0x16 => 18
  | 0x17 => if k.par 16 1 = 1 then 0 else 18
  | 0x20 => 18 | 0x21 => 18 | 0x22 => 18 | 0x23 => 18
  | 0x40 => 16 | 0x41 => 16 | 0x51 => 32 | 0x53 => 16 | 0x54 => 8
  | 0x60 => 4 | 0x62 => 32 | 0x70 => 12 | 0x71 => 12 | 0x82 => 4 | 0x83 => 4
  | _ => 0

/-- The parameter fields that an opcode lists: first byte and width in bits; every other bit is reserved (R69, R74, R482). -/
def paramFields (op : Nat) : List (Nat × Nat) :=
  match op with
  | 0x00 => [(16, 64)]
  | 0x01 => [(16, 56), (24, 56), (32, 64)]
  | 0x03 => [(16, 8)]
  | 0x04 => [(16, 8), (17, 1), (18, 8), (24, 64)]
  | 0x10 => [(16, 12), (18, 4), (19, 8), (20, 288)]
  | 0x11 => [(16, 96)]
  | 0x12 => [(16, 8)]
  | 0x17 => [(16, 16), (20, 96)]
  | 0x20 => [(16, 20), (19, 3)]
  | 0x21 => [(16, 8), (18, 16)]
  | 0x22 => [(16, 8), (18, 80)]
  | 0x23 => [(16, 128)]
  | 0x30 => [(16, 80), (32, 64)]
  | 0x31 => [(16, 64)]
  | 0x40 => [(16, 40), (24, 128)]
  | 0x41 => [(16, 32)]
  | 0x50 => [(16, 136)]
  | 0x52 => [(16, 24)]
  | 0x54 => [(16, 96)]
  | 0x60 => [(16, 16)]
  | 0x61 => [(16, 16)]
  | 0x62 => [(16, 1)]
  | 0x70 => [(16, 64)]
  | 0x80 => [(16, 4), (18, 112), (32, 4), (33, 16), (36, 32)]
  | 0x83 => [(16, 200)]
  | 0xE0 => [(16, 96)]
  | 0xE1 => [(16, 80)]
  | 0xE2 => [(16, 8)]
  | _ => []

/-- The parameter bits that an opcode lists. -/
def paramMask (op : Nat) : BitVec 384 :=
  (paramFields op).foldl (fun m f => m ||| BitVec.ofNat 384 ((2 ^ f.2 - 1) * 2 ^ (8 * (f.1 - 16)))) 0

/-- Whether every reserved bit of a packet is 0 and its TAG is not that of device notices (R53, R54). -/
def reservedOk (k : Packet) : Bool :=
  k.flags.toNat < 8 && k.tag != 0xFFFF && k.reserved = 0 && k.object.toNat < 2 ^ objectBits k &&
  k.params &&& ~~~ paramMask k.opcode.toNat = 0

/-- FLAGS: FENCE, GADDR and ACKACCEPT (R53). -/
def pktFence (k : Packet) : Bool := k.flags.getLsbD 0
def pktGaddr (k : Packet) : Bool := k.flags.getLsbD 1
def pktAck (k : Packet) : Bool := k.flags.getLsbD 2

/-- The opcodes that the tables list (R66). -/
def listedOps : List Nat :=
  [0x00, 0x01, 0x02, 0x03, 0x04, 0x05, 0x10, 0x11, 0x12, 0x13, 0x14, 0x15, 0x16, 0x17, 0x20, 0x21, 0x22, 0x23, 0x30, 0x31,
   0x40, 0x41, 0x50, 0x51, 0x52, 0x53, 0x54, 0x60, 0x61, 0x62, 0x70, 0x71, 0x80, 0x81, 0x82, 0x83, 0xE0, 0xE1, 0xE2, 0xF0]

/-- Whether an FP32 word is a number from 0.0 to 16.0. -/
def fp32UpTo16 (w : Nat) : Bool := w ≤ 0x41800000 || w = 0x80000000

/-- Whether an FP32 word is a number above 0.0 and at most 1.0. -/
def fp32UnitOpen (w : Nat) : Bool := 0 < w && w ≤ 0x3F800000

/-- The spaces that a region may lie in (R323): 0 DRAM, 1 host window, 2 + p the state window of partition p. -/
def spaceOf (off len : Nat) : Option Nat :=
  if off + len ≤ 0x30_0000_0000 then some 0
  else if 0x4000_0000_0000 ≤ off && off + len ≤ 0x8000_0000_0000 then some 1
  else if 0x8000_0000_0000 ≤ off && off + len ≤ 0xFFFF_FF00_0000 then
    let p := (off - 0x8000_0000_0000) / 0x800_0000_0000
    if (off + len - 1 - 0x8000_0000_0000) / 0x800_0000_0000 = p then some (2 + p) else none
  else none

/-- Whether the function may register the space (R323). -/
def spaceAllowed (fn sp : Nat) : Bool := sp = 1 || fn = 0 || sp = fn + 1

/-- Whether a node lies in the device's own failure domain by the map. -/
def State.sameDomain (s : State) (n : Nat) : Bool :=
  n = s.ownNode || match mget s.asf.map n with
    | some e => e.fdom = s.fld asfNode_fdom 0
    | none => false

/-- The parameter ranges that are checked at acceptance (R43, R44, R61, R69, R74, R239, R324, R435). -/
def paramsOk (s : State) (fn : Nat) (k : Packet) : Bool :=
  match k.opcode.toNat with
  | 0x01 =>
    let kind := k.par 16 1
    let place := k.par 17 1
    let depth := k.par 19 1
    34 ≤ k.object.toNat && kind ≤ 3 && place ≤ 2 && (place ≠ 1 || kind = 0) && k.par 18 1 < 16 &&
      4 ≤ depth && depth ≤ (if place = 1 then 9 else 16) && k.par 24 2 < 64 && (place ≠ 0 || k.par 32 8 % 4096 = 0)
  | 0x03 => k.par 16 1 ≤ 2
  | 0x04 => k.par 16 1 ≤ 24 && k.par 18 1 ≤ 222
  | 0x10 =>
    k.par 19 1 ≤ 2 && 1 ≤ k.par 20 4 && k.par 20 4 ≤ 4194304 && k.par 26 2 ≤ 64 && fp32UpTo16 (k.par 28 4) &&
      fp32UnitOpen (k.par 32 4) && k.par 36 4 ≤ 1024
  | 0x11 => 1 ≤ k.par 24 4 && k.par 24 4 ≤ 4194304
  | 0x12 => k.par 16 1 ≤ 15
  | 0x17 => k.par 16 1 ≤ 1 && (k.par 16 1 = 0 || (k.par 17 1 ≤ 8 && 1 ≤ k.par 20 4 && k.par 20 4 ≤ 262144))
  | 0x20 => !(k.par 16 2 = s.ownNode && k.par 18 1 + 1 = fn)
  | 0x21 => k.par 16 1 ≤ 1 && (k.par 18 2 = 0xFFFF || !s.sameDomain (k.par 18 2))
  | 0x22 => 1 ≤ k.par 16 1 && k.par 16 1 ≤ 3
  | 0x23 => 1 ≤ k.par 20 4 && k.par 16 4 + k.par 20 4 ≤ 262144
  | 0x30 => fn ≠ 0 && 1 ≤ k.par 24 2 && k.par 24 2 ≤ 4096 && 40000 ≤ k.par 32 8 && k.par 32 8 ≤ 4000000000
  | 0x31 => fn ≠ 0
  | 0x40 => k.par 20 1 ≤ 2
  | 0x50 =>
    let off := k.par 16 8
    let len := k.par 24 8
    off % 4096 = 0 && len % 4096 = 0 && 0 < len && k.par 32 1 < 8 &&
      (match spaceOf off len with
       | some sp => spaceAllowed fn sp && !(sp = 1 && k.par 32 1 / 4 = 1)
       | none => false)
  | 0x52 => k.par 18 1 ≤ 7
  | 0x60 => k.par 16 1 ≤ 6 && k.par 17 1 ≤ 7
  | 0x61 => k.par 16 2 = 0 || (100 ≤ k.par 16 2 && k.par 16 2 ≤ 1800)
  | 0x70 => k.par 16 4 = 0 || 1 ≤ k.par 20 4
  | 0x80 => k.par 16 1 / 4 ≠ 3 && k.par 24 4 ≤ 262144 && 1 ≤ k.par 28 4 && k.par 28 4 ≤ 524288 && k.par 33 1 ≤ 3 &&
      1 ≤ k.par 34 1 && k.par 34 1 ≤ 11
  | 0xE1 => k.par 24 2 = 1152
  | 0xE2 => k.par 16 1 = 1 || k.par 16 1 = 2 || k.par 16 1 = 4 || k.par 16 1 = 0x80
  | 0x83 => 1 ≤ k.par 24 8 && k.par 24 8 ≤ 16777216 && k.par 40 1 ≤ 2
  | _ => true

/-- Whether the function may send the opcode (R67). A virtual function's queue commands must name its own partition: its QUEUE_CREATE by
the partition byte alone (DESIGN CHOICE, log 117), so that a number another partition uses is found at effect, WRONG_STATE. -/
def rightsOk (s : State) (fn : Nat) (k : Packet) : Bool :=
  let op := k.opcode.toNat
  if fn = 0 then !(0x10 ≤ op && op ≤ 0x2F)
  else
    match op with
    | 0x03 => false | 0x04 => false | 0x05 => false | 0x60 => false | 0x61 => false
    | 0xE0 => false | 0xE1 => false | 0xE2 => false | 0x80 => false | 0x81 => false
    | 0x82 => k.object.toNat + 1 = fn
    | 0x83 => k.object.toNat + 1 = fn && k.par 40 1 ≠ 2
    | 0x01 => k.par 18 1 + 1 = fn
    | 0x02 =>
      34 ≤ k.object.toNat && match s.queue k.object.toNat with
        | some q => q.fn = fn
        | none => true
    | _ => true

/-! ### Acceptance (R61 to R63, R77, R79) -/

/-- Whether the queue may hand on this packet now: it is a command queue, and the packet is the oldest one fetched from
it and not accepted (R62). A packet of a queue in memory from which nothing is held is fetched with its acceptance, which a faulted,
deleted or disabled queue does not allow (R50, R52); a window's packets come by COMMAND_FETCH (R51). -/
def Queue.offers (q : Queue) (k : Packet) (enabled : Bool) : Bool :=
  q.kind = 0 && !q.deleting && match q.fetched with
    | x :: _ => x = k
    | [] => enabled && q.placement ≠ 1 && !q.faulted && q.reading = 0 && q.head != q.tail

/-- Whether a queue is in service: an administration queue while ENABLE is 1 (R52). -/
def State.inService (s : State) (n : Nat) : Bool := 34 ≤ n || s.flag cmdAdmqCtrl_enable (n / 2)

/-- The in-flight limit of a function (R79). -/
def inflightLimit (fn : Nat) : Nat := if fn = 0 then 4096 else 65536

/-- Whether a queue of a partition is stopped: by a reset of the partition, and by a halt unless it is the partition's
administration queue (R259, R487). -/
def State.queueStops (s : State) (fn q : Nat) : Bool :=
  fn ≠ 0 && (s.flag schPart_resetting (fn - 1) || ((s.part (fn - 1)).halted && q ≠ adminQueue fn))

/-- Whether a command must wait unaccepted: a fence, the in-flight limit, a device in C3, a partition in reset or
halted (R63, R77, R79, R259, R487). -/
def State.mustWait (s : State) (fn : Nat) (c : Cmd) : Bool :=
  (pktFence c.pkt && (s.buhorn.cmds.any (fun x => x.queue = c.queue.toNat) ||
    s.buhorn.heldReplies.any fun h => h.reply.queue = c.queue.toNat)) ||
  inflightLimit fn ≤ s.inflight fn || s.fld pwrDevStat_state 0 = 1 ||
  s.queueStops fn c.queue.toNat

/-- Takes the packet off the queue: one not yet fetched is fetched with it. -/
def Queue.took (q : Queue) : Queue :=
  { q with
    fetched := q.fetched.drop 1
    head := if q.fetched.isEmpty then (q.head + 1) % q.depth else q.head
    delayed := q.delayed - 1 }

/-- Writes the reply of a refused command: it is never accepted (R54, R55, R61). -/
def State.refuse (s : State) (c : Cmd) (status : Nat) : State :=
  (s.modQueue c.queue.toNat Queue.took).reply ⟨c.pkt.tag.toNat, status, c.pkt.opcode.toNat, c.queue.toNat, 0, 0, 0⟩

/-- The acceptance tick: above every earlier one of the function (R62). -/
def State.acceptTick (s : State) (fn : Nat) : Tick :=
  match mget s.buhorn.lastAccept fn with
  | some t => max s.now (t + 1)
  | none => s.now

/-- Whether the opcode is of class B (R64). -/
def isClassB (op : Nat) : Bool :=
  op = 0x12 || op = 0x13 || op = 0x14 || op = 0x15 || op = 0x16 || op = 0x60 || op = 0x70

/-- The partition at whose boundary a command may take effect: its function's; PWR_CLASS_POINT names one, and a TENANT_SET
from the management function takes the one that SCH_TENANT names (R67). -/
def State.boundaryPart (s : State) (fn : Nat) (k : Packet) : Nat :=
  match k.opcode.toNat with
  | 0x60 => k.object.toNat
  | 0x70 => if fn = 0 then s.fld schTenant_partition k.object.toNat else fn - 1
  | _ => fn - 1

/-- Whether the command names a sequence (R76). -/
def namesSeq (k : Packet) : Bool :=
  let op := k.opcode.toNat
  (0x11 ≤ op && op ≤ 0x16) || (op = 0x17 && k.par 16 1 = 0) || (0x20 ≤ op && op ≤ 0x23)

/-- Whether an accepted command of the sequence waits for its boundary: a later class-I command of the sequence waits
with it (R76). -/
def State.seqWaits (s : State) (p h : Nat) : Bool :=
  s.buhorn.cmds.any fun c => c.wait = .boundary && c.part = p && 0x11 ≤ c.op && c.op ≤ 0x23 && c.handle = h

/-- Whether a sequence has flipped to this device and the acknowledgement has not arrived at its source yet (R35). -/
def Seq.flipHeld (q : Seq) : Bool := q.move.any fun (m : Move) => m.incoming && m.flipTick.isSome && !m.flipAcked && !m.recast

/-- Whether an accepted command of a sequence waits for the arrival of the flip's acknowledgement at the source: one that would change
the sequence's state, and every one behind it (R35, R76). -/
def State.flipHolds (s : State) (fn : Nat) (k : Packet) : Bool :=
  let op := k.opcode.toNat
  let h := k.object.toNat % 2 ^ 18
  namesSeq k && match s.seq h with
    | some q => q.part + 1 = fn && q.flipHeld && (op = 0x12 || op = 0x14 || op = 0x15 || op = 0x20 ||
        s.buhorn.cmds.any fun c => c.wait = .flip && c.part = q.part && c.handle = h)
    | none => false

/-- Whether a partition has an active table (R238). -/
def State.hasTable (s : State) (p : Nat) : Bool := (s.part p).active.isSome

/-- Whether an accepted command waits for a boundary (R64, R76, R238): class B with an active table, and class I behind a
waiting command of its sequence. A management TENANT_SET of a tenant that is not valid does not wait (R67). -/
def State.defers (s : State) (fn : Nat) (k : Packet) : Bool :=
  let op := k.opcode.toNat
  let p := s.boundaryPart fn k
  if op = 0x70 && fn = 0 && !s.flag schTenant_valid k.object.toNat then false
  else if isClassB op then s.hasTable p
  else namesSeq k && s.seqWaits (fn - 1) (k.object.toNat % 2 ^ 18)

/-- The accepted command as the device keeps it. -/
def State.pend (s : State) (c : Cmd) (fn : Nat) (words : List (BitVec 32)) (code : BitVec 12) : Pend where
  id := s.buhorn.nextId
  queue := c.queue.toNat
  fn := fn
  tag := c.pkt.tag.toNat
  op := c.pkt.opcode.toNat
  gaddr := pktGaddr c.pkt
  job := c.pkt.job.toNat
  obj := c.pkt.object.toNat
  part := s.boundaryPart fn c.pkt
  params := c.pkt.params
  words := words
  code := code
  accTick := s.acceptTick fn
  effTick := s.acceptTick fn
  wait := if s.flipHolds fn c.pkt then .flip else .boundary
  status := 0
  detail := 0
  result := 0
  rebuilt := false
  waked := match s.queue c.queue.toNat with
    | some q => 0 < q.delayed
    | none => false

/-- The buffer that a packet has the device read, by its address and length: stop tokens, prompt tokens, a page list, a table, a map, an
image, a token (R53, R69, R74). -/
def inputBuffer (k : Packet) : Option (Nat × Nat) :=
  match k.opcode.toNat with
  | 0x10 => if k.par 26 2 = 0 then none else some (k.par 48 8, 4 * k.par 26 2)
  | 0x11 => some (k.par 16 8, 4 * k.par 24 4)
  | 0x23 => some (k.par 24 8, 4 * k.par 20 4)
  | 0x30 => some (k.par 16 8, 32 * k.par 24 2)
  | 0x54 => if k.par 24 4 = 0 then none else some (k.par 16 8, k.par 24 4)
  | 0xE0 => if k.par 24 4 = 0 then none else some (k.par 16 8, k.par 24 4)
  | 0xE1 => some (k.par 16 8, k.par 24 2)
  | _ => none

/-- Reads the buffer of an accepted command: from host memory of its function, or with GADDR from the named node (R53, R54). What it
holds is the row's operand. -/
def State.readInput (s : State) (c : Cmd) (d : Pend) : State :=
  match inputBuffer c.pkt with
  | none => s
  | some (addr, len) =>
    if d.gaddr then s.readBulk (addr / 2 ^ 48) 5 (d.id % 8) 0 (addr % 2 ^ 48) len .buffer
    else s.emit (.hostRead d.fn addr len)

/-- Enters a command into its function's effect order, with the interim reply that ACKACCEPT asks for (R61, R62, R53), and reads its
buffer. -/
def State.enter (s : State) (c : Cmd) (d : Pend) : State :=
  let s := s.modQueue c.queue.toNat Queue.took
  let s := { s with buhorn := { s.buhorn with
    cmds := s.buhorn.cmds ++ [d]
    nextId := s.buhorn.nextId + 1
    lastAccept := mset s.buhorn.lastAccept d.fn d.accTick } }
  let s := (s.noteInflight d.fn).rouse 100 3
  let s := if pktAck c.pkt then s.reply ⟨d.tag, 2, d.op, d.queue, 0, 0, 0⟩ else s
  s.readInput c d

/-- A command packet of opcode `op` reaches the head of its queue: it waits, is refused, or is accepted; accepted, it takes
effect at once or waits for its boundary, and `after` follows the acceptance of either kind. `words` and `code` are what its
buffers and the hold-up converter gave. -/
def State.commandThen (s : State) (op : Nat) (c : Cmd) (words : List (BitVec 32)) (code : BitVec 12)
    (effect after : Pend → State → State) : State :=
  if !s.live || c.pkt.opcode.toNat ≠ op then s
  else
    match s.queue c.queue.toNat with
    | none => s
    | some q =>
      if !q.offers c.pkt (s.inService c.queue.toNat) || s.mustWait q.fn c then s
      else if !reservedOk c.pkt || !paramsOk s q.fn c.pkt then s.refuse c 0x11
      else if !rightsOk s q.fn c.pkt then s.refuse c 0x30
      else
        let d := s.pend c q.fn words code
        let e := s.enter c d
        after d (if s.flipHolds q.fn c.pkt || s.defers q.fn c.pkt then e else effect d e)

/-- A command with buffers, after which nothing follows. -/
def State.command (s : State) (op : Nat) (c : Cmd) (words : List (BitVec 32)) (code : BitVec 12)
    (effect : Pend → State → State) : State :=
  s.commandThen op c words code effect fun _ s => s

/-- A command without buffers. -/
def State.plain (s : State) (op : Nat) (c : Cmd) (effect : Pend → State → State) : State :=
  s.command op c [] 0 effect

/-- Sets what an accepted command waits for. -/
def State.await (s : State) (id : Nat) (w : Wait) : State := s.modCmd id fun c => { c with wait := w }

/-- Writes bytes to a buffer that a packet names (R53, R54): host memory of its function, or with GADDR the named node. -/
def State.putBuffer (s : State) (d : Pend) (addr : Nat) (bytes : List (BitVec 8)) : State :=
  if d.gaddr then
    s.writeBulk (addr / 2 ^ 48) 5 (d.id % 8) 0 (addr % 2 ^ 48) bytes (.queueWrite d.queue)
  else s.emit (.hostWrite d.fn addr bytes)

end Sys2Proof.Machine
end

