-- ==== Sys2Proof/Machine/Nand.lean ====
section
/-! DEFINITION. The flash translation layer's blocks and map: placement, relocation, trims and the journal's commit (R303 to
R309). -/

set_option Elab.async false

namespace Sys2Proof.Machine

/-! ### Blocks -/

/-- A block that has not been touched since it left the factory. -/
def Block.fresh : Block where
  erases := 0
  reads := 0
  used := 0
  granules := []
  retired := false
  open_ := false
  reloc := false
  refresh := false
  leaving := false
  erasing := false
  suspended := false
  scrubbed := 0

/-- The block of a number. -/
def Ftl.block (f : Ftl) (b : Nat) : Block := mgetD f.blocks b Block.fresh

/-- Gives a block a value. -/
def Ftl.setBlock (f : Ftl) (b : Nat) (x : Block) : Ftl := { f with blocks := mset f.blocks b x }

/-- Changes a block. -/
def Ftl.modBlock (f : Ftl) (b : Nat) (g : Block → Block) : Ftl := f.setBlock b (g (f.block b))

/-- The usable blocks: those of every usable target. -/
def Ftl.total (f : Ftl) : Nat := (f.targets.map fun t => t.blocks).sum

/-- The targets with the number of the first block of each: blocks are numbered through, target by target. -/
def targetSpans : Nat → List FlashTarget → List (Nat × FlashTarget)
  | _, [] => []
  | a, t :: ts => (a, t) :: targetSpans (a + t.blocks) ts

/-- The span that holds a block. -/
def Ftl.spanOf (f : Ftl) (b : Nat) : Option (Nat × FlashTarget) :=
  (targetSpans 0 f.targets).find? fun s => s.1 ≤ b && b < s.1 + s.2.blocks

/-- Whether a block is free: erased, in service and not open. -/
def Block.free (x : Block) : Bool := !x.retired && !x.open_ && x.used = 0 && !x.erasing

/-- The free blocks. -/
def Ftl.freeCount (f : Ftl) : Nat := f.total - (f.blocks.filter fun b => !b.2.free).length

/-- The blocks that a target lists, in ascending order of number. -/
def Ftl.listed (f : Ftl) (s : Nat × FlashTarget) : AMap Block := f.blocks.filter fun b => s.1 ≤ b.1 && b.1 < s.1 + s.2.blocks

/-- The lowest-numbered block of a target that is not listed. -/
def Ftl.unlisted (f : Ftl) (s : Nat × FlashTarget) : Option Nat :=
  let l := f.listed s
  (s.1 :: l.map fun b => b.1 + 1).find? fun b => b < s.1 + s.2.blocks && !mhas l b

/-- The free block of a target with the lowest erase count, the lowest number among equals. -/
def Ftl.freeBlock (f : Ftl) (s : Nat × FlashTarget) : Option Nat :=
  match f.unlisted s with
  | some b =>
    match (f.listed s).find? fun x => x.1 < b && x.2.free && x.2.erases = 0 with
    | some x => some x.1
    | none => some b
  | none =>
    ((f.listed s).filter fun x => x.2.free).foldl (fun (best : Option (Nat × Nat)) x =>
      match best with
      | some y => if x.2.erases < y.2 then some (x.1, x.2.erases) else best
      | none => some (x.1, x.2.erases)) none |>.map Prod.fst

/-- The granules that a block holds. -/
def granulesPerBlock (t : FlashTarget) : Nat := t.pagesPerBlock / 4

/-- The open block of a target for state writes, or for relocation writes, that has room. -/
def Ftl.openBlock (f : Ftl) (s : Nat × FlashTarget) (reloc : Bool) : Option Nat :=
  ((f.listed s).find? fun x => x.2.open_ && x.2.reloc = reloc && x.2.used < granulesPerBlock s.2).map Prod.fst

/-- How busy a target is: the erases under way on it. -/
def Ftl.busy (f : Ftl) (s : Nat × FlashTarget) : Nat := ((f.listed s).filter fun x => x.2.erasing && !x.2.suspended).length

/-- Where a write goes: the open block, else the free block with the lowest erase count, of the least busy target (R308). -/
def Ftl.place (f : Ftl) (reloc : Bool) : Option (Nat × FlashTarget × Nat) :=
  ((targetSpans 0 f.targets).filterMap fun s =>
    match f.openBlock s reloc with
    | some b => some (f.busy s, s.2, b)
    | none => (f.freeBlock s).map fun b => (f.busy s, s.2, b)).foldl (fun (best : Option (Nat × FlashTarget × Nat)) x =>
      match best with
      | some y => if x.1 < y.1 then some x else best
      | none => some x) none

/-! ### Map changes (R306) -/

/-- Counts changes of the map: the oldest starts the 100 ms. -/
def Ftl.change (f : Ftl) (now : Tick) (n : Nat) : Ftl :=
  if n = 0 then f else { f with changes := f.changes + n, pendingSince := some (f.pendingSince.getD now) }

/-- Takes a programmed granule whose change is not committed out of its block. -/
def Ftl.forget (f : Ftl) (a : Nat) : Ftl :=
  match mget f.pending a with
  | some b => { (f.modBlock b fun x => { x with granules := x.granules.erase a }) with
      pending := mdel f.pending a
      written := if mhas f.map a then f.written else mdel f.written a }
  | none => f

/-- Trims one granule: it reads as zeros from now on (R281). -/
def Ftl.trimOne (f : Ftl) (now : Tick) (a : Nat) : Ftl :=
  let f := f.forget a
  match mget f.map a with
  | some b => ({ (f.modBlock b fun x => { x with granules := x.granules.erase a }) with map := mdel f.map a, written := mdel f.written a }).change now 1
  | none => f

/-- Trims `n` granules. -/
def Ftl.trim (f : Ftl) (now : Tick) (a n : Nat) : Ftl := (List.range n).foldl (fun f i => f.trimOne now (a + i)) f

/-- Programs a granule: its codewords and pages, with the next write sequence number, are in a block, and its map change waits for the commit
(R289, R304, R309). -/
def Ftl.program (f : Ftl) (now : Tick) (reloc : Bool) (a : Nat) : Option Ftl :=
  match f.place reloc with
  | none => none
  | some (_, t, b) =>
    let f := f.forget a
    let x := f.block b
    let x := { x with
      used := x.used + 1, granules := x.granules ++ [a], reloc := reloc, open_ := decide (x.used + 1 < granulesPerBlock t),
      scrubbed := if x.used = 0 then now else x.scrubbed }
    some (({ (f.setBlock b x) with
        pending := mset f.pending a b
        writes := (f.writes + 1) % 2 ^ 64
        written := mmod f.written a fun g => { g with seq := f.writes } }).change now 1)

/-- Relocates the valid granules of a block; the block is erased at the commit that holds the changes (R308, R309). -/
def Ftl.relocate (f : Ftl) (now : Tick) (b : Nat) : Ftl :=
  let f := f.modBlock b fun x => { x with open_ := false }
  let f := (f.block b).granules.foldl (fun f a => (f.program now true a).getD f) f
  f.modBlock b fun x => { x with leaving := true, refresh := false }

/-- The commit of one change: the map names the new block, and the old one no longer holds the granule. -/
def Ftl.commitOne (f : Ftl) (a b : Nat) : Ftl :=
  let f := match mget f.map a with
    | some old => if old = b then f else f.modBlock old fun x => { x with granules := x.granules.erase a }
    | none => f
  { f with map := mset f.map a b }

/-- The erases that a commit lets begin: blocks whose data has been relocated. -/
def Ftl.startErases (f : Ftl) : Ftl :=
  { f with blocks := mmap f.blocks fun _ x =>
      if x.leaving && x.granules.isEmpty then { x with leaving := false, erasing := !x.retired } else x }

/-- The journal's commit. -/
def Ftl.commit (f : Ftl) : Ftl :=
  let g := f.pending.foldl (fun f x => f.commitOne x.1 x.2) f
  ({ g with pending := [], changes := 0, pendingSince := none, commits := f.commits + 1 }).startErases

/-- A read that is waited on suspends the erases on the target that holds a granule (R309). -/
def Ftl.suspendFor (f : Ftl) (a : Nat) : Ftl :=
  match (mget f.map a).bind f.spanOf with
  | some s => { f with blocks := mmap f.blocks fun b x =>
      if x.erasing && s.1 ≤ b && b < s.1 + s.2.blocks then { x with suspended := true } else x }
  | none => f

end Sys2Proof.Machine
end

