-- ==== Sys2Proof/Machine/Pages.lean ====
section
/-! DEFINITION. Key-value pages: geometry, page lists, group numbers, frames and extents, assignment and release, mirror
slots and the directory's counts (R84 to R105, R282 to R286, R376 to R380). -/

set_option Elab.async false

namespace Sys2Proof.Machine

/-! ### Geometry (R84 to R87) -/

/-- `n` bytes of a geometry record at byte `b`, as a little-endian number. -/
def geoNum (g : List Cell) (b n : Nat) : Nat := ofLe (Cells.readList g b n)

/-- LAYERS, KV_HEADS, Q_HEADS and HEAD_DIM of a geometry record (R84). -/
def geoLayers (g : List Cell) : Nat := geoNum g 0 2
def geoKvHeads (g : List Cell) : Nat := geoNum g 2 1
def geoQHeads (g : List Cell) : Nat := geoNum g 3 1
def geoHeadDim (g : List Cell) : Nat := geoNum g 4 2

/-- FP8_KIND of a geometry record, which the formats of the set follow (R84). -/
def geoFp8Kind (g : List Cell) : Nat := geoNum g 6 1

/-- B of R85 in bytes: 2 × KV_HEADS × HEAD_DIM × (E + X), with E + X in 1/32 byte. -/
def bytesPerToken (kvHeads headDim format : Nat) : Nat :=
  2 * kvHeads * headDim * (match format with
    | 0 => 32
    | 1 => 17
    | _ => 64) / 32

/-- T of R85. -/
def tokensPerPage (kvHeads headDim format : Nat) : Nat := min 1024 (65536 / bytesPerToken kvHeads headDim format)

/-- r of R114: the first position without a stored row. -/
def Seq.r (q : Seq) : Nat := if q.tail then q.length - 1 else q.length

/-- The block of a position (R100). -/
def Seq.block (q : Seq) (pos : Nat) : Nat := pos / q.tpp

/-- Rounded-up division. -/
def ceilDiv (a b : Nat) : Nat := (a + b - 1) / b

/-- The page key of layer `l` in the group of page-list index `i`. -/
def Seq.pageAt (q : Seq) (i l : Nat) : Option Nat := (mget q.pages i).map fun n => pageKey q.part (n + l)

/-- The place in `Tiers.bytes` of byte `o` of a row's page: layer, position. -/
def Seq.byteAt (q : Seq) (l pos o : Nat) : Option Nat := (q.pageAt (q.block pos) l).map fun k => pageByte k o

/-! ### The directory's counts -/

/-- Free pool frames: the pool less the frames that pages hold or are moving to. -/
def State.freeFrames (s : State) : Nat :=
  s.fld tirPool_pool 0 - (s.tiers.frames.filter fun f => match f.2 with
    | .home _ => true
    | .dest _ => true
    | _ => false).length

/-- Lent frames in use (R299). -/
def State.lentFrames (s : State) : Nat :=
  (s.tiers.frames.filter fun f => match f.2 with
    | .lent _ => true
    | _ => false).length

/-- Slots in use in a lodging. -/
def State.lodgedIn (s : State) (i : Nat) : Nat := (s.tiers.lodged.filter fun l => l.1 / 2 ^ 24 = i).length

/-- The group that a page belongs to. -/
def State.groupOf (s : State) (key : Nat) : Option (Nat × Group) :=
  s.tiers.groups.find? fun g => g.1 ≤ key && key < g.1 + g.2.layers

/-- Pages of a tenant homed in a tier (R282): pages without an entry lie in granules. -/
def State.occupancy (s : State) (t tier : Nat) : Nat :=
  s.tiers.groups.foldl (fun n g =>
    if g.2.tenant ≠ t then n
    else n + ((List.range g.2.layers).filter fun l => match mget s.tiers.pages (g.1 + l) with
      | some e => e.tier = tier
      | none => tier = 3).length) 0

/-- The tenants with pages, or whose occupancy registers are not 0. -/
def State.occupants (s : State) : List Nat :=
  let held : List Nat := s.tiers.groups.map fun g => g.2.tenant
  let shown : AMap (BitVec 64) := s.regs.filter fun r => 0xC10000 ≤ r.1 && r.1 < 0xC20000
  (held ++ List.map (fun (r : Nat × BitVec 64) => (r.1 - 0xC10000) / 16) shown).dedup

/-- Keeps the occupancy registers of a tenant (R293). -/
def State.noteTenant (s : State) (t : Nat) : State :=
  (((s.setFld tirOccLo_t0 t (s.occupancy t 0)).setFld tirOccLo_t1 t (s.occupancy t 1)).setFld tirOccLo_t2 t
    (min (s.occupancy t 2) tirOccLo_t2.max)).setFld tirOccHi_t3 t (s.occupancy t 3)

/-- Keeps the used count and DRAINED of a lodging (R280). -/
def State.noteLodging (s : State) (i : Nat) : State :=
  (s.setFld tirPeerUsed_used i (s.lodgedIn i)).setFlag tirPeerCtrl_drained i (s.lodgedIn i = 0)

/-- Keeps every register that counts frames, slots, groups and leaf chunks at its count (R120, R314). -/
def State.noteTiers (s : State) : State :=
  let s := s.setFld tirPool_free 0 s.freeFrames
  let s := s.setFld tirLend_lent 0 s.lentFrames
  let s := s.setFld tirLend_t0Free 0 (1536 - s.tiers.slots0.length)
  let s := (List.range 16).foldl State.noteLodging s
  let s := (List.range 16).foldl (fun s p =>
    s.setFld ldlGroups_count p (s.tiers.groups.filter fun g => g.1 / 2 ^ 32 = p).length) s
  let s := s.setFld ldlMeta_freeChunks 0 (262144 - (s.seqs.map fun q => q.2.leaves.length).sum)
  s.occupants.foldl State.noteTenant s

/-- The frame key of the byte at a de-interleaved address (R123). -/
def frameKeyOf (d : Nat) : Nat := (d / 0xC000_0000 * 32 + d % 0xC000_0000 / 0x300_0000 / 2) * 1536 + d % 0x300_0000 / 32768

/-- Whether a frame holds weights in processor layout. -/
def State.nearFrame (s : State) (k : Nat) : Bool :=
  s.weights.any fun w => w.2.nearAt.any fun x => frameKeyOf x.2 ≤ k && k ≤ frameKeyOf (x.2 + 8191)

/-- Whether firmware holds a frame back from the pages (R284). -/
def State.withheld (s : State) (k : Nat) : Bool :=
  Config.frameWithheld (k / 1536) (k % 1536) s.tiers.layoutGen || s.nearFrame k

/-- The frames in the page-frame pool (R284): those that firmware does not withhold, outside the reserved channels and the
live DRAM-space regions. -/
def State.poolCount (s : State) : Nat :=
  (List.range 3145728).countP fun k =>
    !s.withheld k && !s.reserved (k / 1536 / 32) &&
      (match mget s.tiers.frames k with
       | some (.region _) => false
       | _ => true)

/-- Firmware lays tier 1 out again (R284): a new generation of the withheld frames, and the pool's size. -/
def State.relayTier1 (s : State) : State :=
  let s := { s with tiers := { s.tiers with layoutGen := s.tiers.layoutGen + 1 } }
  (s.setFld tirPool_pool 0 s.poolCount).noteTiers

/-! ### Frames (R285) -/

/-- The channel of a frame key. -/
def channelOf (k : Nat) : Nat := k / 1536 / 32

/-- Whether a unit's channel may receive pages of a partition. -/
def State.unitTakes (s : State) (p u : Nat) : Bool :=
  (s.part p).channelMask / 2 ^ (u / 32) % 2 = 1 && !s.reserved (u / 32) && !s.flag genChUnits_memOnly (u / 32)

/-- Whether a frame is a free frame of the pool. -/
def State.frameFree (s : State) (k : Nat) : Bool :=
  !s.withheld k && (mget s.tiers.frames k).isNone

/-- The lowest free frame of a unit. -/
def State.frameIn (s : State) (u : Nat) : Option Nat := ((List.range 1536).map (u * 1536 + ·)).find? s.frameFree

/-- The frame that layer `l`'s page of group `n` takes: the first unit from u0 upwards that qualifies. -/
def State.pickFrame (s : State) (p n l : Nat) : Option Nat :=
  let u0 := (n / 256 * 37 + l * 29) % 2048
  (List.range 2048).findSome? fun j =>
    let u := (u0 + j) % 2048
    if s.unitTakes p u then s.frameIn u else none

/-- Whether at least LOW_FREE free frames remain after taking `n` (R286). -/
def State.keepsLowFree (s : State) (n : Nat) : Bool :=
  n ≤ s.freeFrames && s.fld tirT1Wm_lowFree 0 * s.fld tirPool_pool 0 ≤ (s.freeFrames - n) * 1024

/-- A fresh page entry in tier 1: its zeroing has set REF. -/
def Page.inFrame (k : Nat) : Page := ⟨1, true, 0, false, 0, k⟩

/-- Places the pages of a group in frames, layer by layer; none when a page finds no frame. -/
def State.placeFrames (s : State) (p n : Nat) : List Nat → Option State
  | [] => some s
  | l :: ls =>
    (s.pickFrame p n l).bind fun k =>
      State.placeFrames { s with tiers := { s.tiers with
        frames := mset s.tiers.frames k (.home (pageKey p (n + l)))
        pages := mset s.tiers.pages (pageKey p (n + l)) (Page.inFrame k) } } p n ls

/-! ### Extents in tier 3 (R281, R305) -/

/-- The granules that the flash exports: 7/32 of the usable raw pages. -/
def State.granules (s : State) : Nat := (s.ftl.targets.map fun t => t.blocks * t.pagesPerBlock).sum * 7 / 32

/-- Whether tier 3 takes new state (R286, R308). -/
def State.tier3Takes (s : State) : Bool := s.ftl.inService && s.fld ftlHealth_mode 0 = 0

/-- The lowest free run of `n` granules: at 0, or behind an extent in use. -/
def State.freeExtent (s : State) (n : Nat) : Option Nat :=
  (0 :: s.ftl.extents.map fun e => e.1 + e.2).find? fun a =>
    a + n ≤ s.granules && s.ftl.extents.all fun e => e.1 + e.2 ≤ a || a + n ≤ e.1

/-- Takes an extent for a group without one. -/
def State.takeExtent (s : State) (key : Nat) : Option State :=
  match mget s.tiers.groups key with
  | none => none
  | some g =>
    match g.extent with
    | some _ => some s
    | none =>
      match if s.tier3Takes then s.freeExtent g.layers else none with
      | none => none
      | some a => some { s with
          ftl := { s.ftl with extents := mset s.ftl.extents a g.layers }
          tiers := { s.tiers with groups := mset s.tiers.groups key { g with extent := some a } } }

/-! ### Group numbers (R92 to R94) -/

/-- A valid group number. -/
def validGroup (n layers : Nat) : Bool := n + layers ≤ 0xFFFFFFFF

/-- Whether the run of `layers` pages from `n` overlaps a group of the partition that satisfies the test. -/
def State.overlapsGroup (s : State) (p n layers : Nat) (f : Nat → Group → Bool) : Bool :=
  s.tiers.groups.any fun g =>
    g.1 / 2 ^ 32 = p && f g.1 g.2 && g.1 % 2 ^ 32 < n + layers && n < g.1 % 2 ^ 32 + g.2.layers

/-- Whether a number of the free list may be given now: its run overlaps no group that the host placed. -/
def State.groupFits (s : State) (p layers n : Nat) : Bool :=
  validGroup n layers && !s.overlapsGroup p n layers fun _ g => g.placed

/-- The first never-given multiple of 256 that fits, with those passed over. -/
def State.freshFit (s : State) (p layers : Nat) : Nat → Nat → List Nat → Option (Nat × List Nat)
  | 0, _, _ => none
  | fuel + 1, n, skipped =>
    if 2 ^ 32 ≤ n then none
    else if s.groupFits p layers n then some (n, skipped)
    else State.freshFit s p layers fuel (n + 256) (skipped ++ [n])

/-- Takes the first number of the partition's free list that fits: passed-over numbers keep their places. -/
def State.takeGroup (s : State) (p layers : Nat) : Option (Nat × State) :=
  let x := s.part p
  match x.skippedGroups.find? (s.groupFits p layers) with
  | some n => some (n, s.setPart p { x with skippedGroups := x.skippedGroups.erase n })
  | none =>
    match s.freshFit p layers (2 * s.tiers.groups.length + 2) x.freshGroup [] with
    | some (n, skipped) =>
      some (n, s.setPart p { x with freshGroup := n + 256, skippedGroups := x.skippedGroups ++ skipped })
    | none =>
      match x.freedGroups.find? (s.groupFits p layers) with
      | some n => some (n, s.setPart p { x with freedGroups := x.freedGroups.erase n })
      | none => none

/-! ### Partners and mirror slots (R376 to R380) -/

/-- The role number by which RES_PARTNER is ordered. -/
def State.role (s : State) : Nat := s.fld glbFn_role 0

/-- Whether a node may be a partner: VALID in the current map, in another failure domain, and a slice granted. -/
def State.partnerOk (s : State) (n : Nat) : Bool :=
  (match mget s.asf.map n with
   | some e => e.valid && e.fdom != s.fld asfNode_fdom 0
   | none => false) && mhas s.res.grants n

/-- The candidate partners of the current role. -/
def State.candidates (s : State) : List Nat :=
  ((List.range 4).filter fun j => s.flag resPartner_valid (4 * s.role + j)).map fun j => s.fld resPartner_node (4 * s.role + j)

/-- The default partner of R378 with its failure domain. -/
def State.defaultPartner (s : State) : Option (Nat × Nat) :=
  (s.candidates.find? s.partnerOk).map fun n => (n, match mget s.asf.map n with
    | some e => e.fdom
    | none => 0)

/-- Whether a node may be asked for a slice: VALID in the map, in another failure domain, and none granted yet. -/
def State.maySlice (s : State) (n : Nat) : Bool :=
  (match mget s.asf.map n with
    | some e => e.valid && e.fdom != s.fld asfNode_fdom 0
    | none => false) && !mhas s.res.grants n

/-- The home asks the candidates of its role for slices (R380). -/
def State.askSlices (s : State) : State := (s.candidates.filter s.maySlice).foldl (fun s n => s.send n .askSlice) s

/-- The lowest `n` free slots of a granted slice; fewer when fewer are free. -/
def Grant.free (g : Grant) (n : Nat) : List Nat := ((List.range (min g.slots (g.taken.length + n))).filter fun x => !g.taken.contains x).take n

/-- Whether a partner's slice has `n` free slots left for this home. -/
def State.mirrorRoom (s : State) (node n : Nat) : Bool :=
  match mget s.res.grants node with
  | some g => g.taken.length + n ≤ g.slots
  | none => false

/-- Changes a granted slice. -/
def State.modGrant (s : State) (node : Nat) (f : Grant → Grant) : State :=
  { s with res := { s.res with grants := mmod s.res.grants node f } }

/-- Whether a sequence's partner has room for `n` pages; an unprotected sequence needs none. -/
def State.mirrorTakes (s : State) (q : Seq) (n : Nat) : Bool :=
  !q.prot || match q.mirror with
    | some m => s.mirrorRoom m.1 n
    | none => false

/-! ### The slice's layout (R381, R382) -/

/-- Offsets within a slice: a partition's step count in HEADER, commit record `i`, descriptor of `h` in copy `c`, entry of
slot `x`. -/
def sliceStep (p : Nat) : Nat := 8 + 8 * p
def sliceCommit (i : Nat) : Nat := 0x1000 + 64 * (i % 16320)
def sliceDesc (c h : Nat) : Nat := 0x100000 + 0x8000000 * c + 512 * h
def sliceDir (x : Nat) : Nat := 0x1A100000 + 16 * x

/-- Where the slots of a slice of `n` slots start, and where slot `x` of it lies. -/
def sliceSlots (n : Nat) : Nat := 0x1A100000 + ceilDiv (16 * n) 65536 * 65536
def sliceSlot (n x : Nat) : Nat := sliceSlots n + 65536 * x

/-- The size of a slice, rounded up to whole 4 KiB. -/
def sliceBytes (n : Nat) : Nat := sliceSlot n n

/-- A slot-directory entry: kind 1 page, 2 journal page, 0 free. -/
def slotEntry (h kind index layer : Nat) : List (BitVec 8) :=
  leBytes 4 (h + kind * 2 ^ 18) ++ leBytes 4 index ++ leBytes 1 layer ++ leBytes 7 0

/-- Writes bytes at a place in this home's slice at a partner, in a class, on bulk connection `i`. -/
def State.shipIn (s : State) (cls node i off : Nat) (bs : List (BitVec 8)) (p : Purpose) : State :=
  match mget s.res.grants node with
  | some g => s.writeBulk node cls i 0 (g.base + off) bs p
  | none => s

/-- Writes bytes at a place in this home's slice at a partner, in class 6 (R383). -/
def State.shipAt (s : State) (node i off : Nat) (bs : List (BitVec 8)) (p : Purpose) : State := s.shipIn 6 node i off bs p

/-! ### Slots of a sequence at its partner -/

/-- The journal pages that a sequence's first `n` positions need beyond those that have a slot (R381). -/
def Seq.journalShort (q : Seq) (n : Nat) : Nat := ((List.range (ceilDiv n 16384)).filter fun j => !mhas q.journalSlots j).length

/-- Whether a sequence's partner has room for the journal of its first `n` positions (DESIGN CHOICE, log 132). -/
def State.journalTakes (s : State) (q : Seq) (n : Nat) : Bool :=
  match q.mirror with
  | some m => q.journalShort n = 0 || s.mirrorRoom m.1 (q.journalShort n)
  | none => false

/-- Takes slots at a node for the pages of the group at index `i` of a sequence. -/
def State.slotsAt (s : State) (h node i : Nat) (q : Seq) : State :=
  match mget s.res.grants node with
  | none => s
  | some g =>
    let l := g.free q.layers
    (s.modGrant node fun g => { g with taken := g.taken ++ l }).modSeq h fun q =>
      { q with slots := l.zipIdx.foldl (fun m x => mset m (i * 256 + x.2) x.1) q.slots }

/-- Takes a protected sequence's slots at its partner for the group at index `i`. -/
def State.mirrorTake (s : State) (h i : Nat) (q : Seq) : State :=
  if q.prot then
    match q.mirror with
    | some m => s.slotsAt h m.1 i q
    | none => s
  else s

/-- Frees slots of a sequence at a partner: their slot-directory entries become kind 0 there (R42, R382), and the slots may be
given again. -/
def State.dropSlots (s : State) (h node : Nat) (q : Seq) (l : List Nat) : State :=
  let s := l.foldl (fun s x => s.shipAt node 0 (sliceDir x) (leBytes 16 0) (.append h (s.fld schStep_count q.part))) s
  s.modGrant node fun g => { g with taken := g.taken.filter fun x => !l.contains x }

/-- Frees the slots of the group at index `i` of a sequence at its partner. -/
def State.mirrorFree (s : State) (h i : Nat) (q : Seq) : State :=
  let s := match q.mirror with
    | some m => s.dropSlots h m.1 q ((mfilter q.slots fun k _ => k / 256 = i).map Prod.snd)
    | none => s
  s.modSeq h fun q => { q with slots := mfilter q.slots fun k _ => k / 256 ≠ i }

/-! ### Leaf chunks (R99) -/

/-- The leaf chunks in use. -/
def State.chunksUsed (s : State) : List Nat := s.seqs.flatMap fun q => q.2.leaves.map Prod.snd

/-- The sequence with a chunk for the leaf of an index: chunk 0, or one behind a chunk in use; none when the pool is empty. -/
def State.withLeaf (s : State) (q : Seq) (i : Nat) : Option Seq :=
  if mhas q.leaves (i / 1024) then some q
  else
    match (0 :: s.chunksUsed.map (· + 1)).find? fun c => c < 262144 && !s.chunksUsed.contains c with
    | some c => some { q with leaves := mset q.leaves (i / 1024) c }
    | none => none

/-! ### Assignment (R91, R95, R96, R286) -/

/-- The entry that an assigned group takes in the directory: PIN is set at the assignment (R282). -/
def Seq.groupEntry (q : Seq) (h : Nat) (placed : Bool) : Group :=
  ⟨h, q.tenant, q.prot, true, false, q.layers, none, placed⟩

/-- Zeros in every byte of a group's pages (R91). -/
def Tiers.zero (t : Tiers) (key layers : Nat) : Tiers :=
  { t with
    bytes := Cells.clear t.bytes (pageByte key 0) (layers * 65536)
    poison := t.poison.filter fun x => x < pageByte key 0 / 32 || pageByte (key + layers) 0 / 32 ≤ x }

/-- Homes for the pages of a group that has its entry: frames above the watermark, else an extent, else frames below it
(R286). -/
def State.houseGroup (s : State) (p n layers : Nat) : Option State :=
  let frames := State.placeFrames s p n (List.range layers)
  match if s.keepsLowFree layers then frames else none with
  | some t => some t
  | none =>
    match s.takeExtent (pageKey p n) with
    | some t => some t
    | none => if layers ≤ s.freeFrames then frames else none

/-- Assigns group number `n` to index `i` of a sequence's page list: mirror slots, leaf chunk, homes, zeroing. -/
def State.assignAt (s : State) (h i n : Nat) (placed : Bool) : Option State :=
  match s.seq h with
  | none => none
  | some q =>
    if !s.mirrorTakes q q.layers then none
    else
      match s.withLeaf q i with
      | none => none
      | some q' =>
        let key := pageKey q.part n
        let t := { s with tiers := { (s.tiers.zero key q.layers) with groups := mset s.tiers.groups key (q.groupEntry h placed) } }
        match t.houseGroup q.part n q.layers with
        | none => none
        | some u => some (State.mirrorTake (u.modSeq h fun _ => { q' with pages := mset q'.pages i n }) h i q)

/-- Assigns a group of the device's own choice to index `i`. -/
def State.assignGroup (s : State) (h i : Nat) : Option State :=
  match s.seq h with
  | none => none
  | some q =>
    match s.takeGroup q.part q.layers with
    | none => none
    | some (n, t) => t.assignAt h i n false

/-- Assigns groups to the unassigned ones of a run of indices, all or none (R95). -/
def State.assignRun (s : State) (h first : Nat) : Nat → Option State
  | 0 => some s
  | n + 1 =>
    match State.assignRun s h first n with
    | none => none
    | some t =>
      match t.seq h with
      | none => none
      | some q => if mhas q.pages (first + n) then some t else t.assignGroup h (first + n)

/-! ### Release (R42, R104, R105) -/

/-- Takes a page out of every tier with any migration of it, source and destination both (R290). -/
def Tiers.freePage (t : Tiers) (key : Nat) : Tiers :=
  { t with
    pages := mdel t.pages key
    moves := mdel t.moves key
    frames := mfilter t.frames fun _ u => match u with
      | .home k => k ≠ key
      | .dest k => k ≠ key
      | .lent k => k ≠ key
      | .region _ => true
    slots0 := mfilter t.slots0 fun _ k => k ≠ key
    lodged := mfilter t.lodged fun _ k => k ≠ key
    lost := t.lost.filter (· ≠ key)
    streams := t.streams.filter (· ≠ key)
    transit := mdel t.transit key }

/-- Frees a group of a partition in every tier. Its granules are trimmed, and a number that the device gave goes to the tail
of the free list (R94). -/
def State.freeGroup (s : State) (p n : Nat) : State :=
  let key := pageKey p n
  match mget s.tiers.groups key with
  | none => s
  | some g =>
    let t := (List.range g.layers).foldl (fun t l => t.freePage (key + l)) s.tiers
    let f := match g.extent with
      | some a => { (s.ftl.trim s.now a g.layers) with extents := mdel s.ftl.extents a }
      | none => s.ftl
    let s := { s with tiers := { (t.zero key g.layers) with groups := mdel t.groups key }, ftl := f }
    if g.placed then s else s.modPart p fun x => { x with freedGroups := x.freedGroups ++ [n] }

/-- Frees the group at an index of a sequence's list, on the device and at the mirror. -/
def State.releaseAt (s : State) (h i : Nat) : State :=
  match s.seq h with
  | none => s
  | some q =>
    match mget q.pages i with
    | none => s
    | some n => ((s.freeGroup q.part n).mirrorFree h i q).modSeq h fun q => { q with pages := mdel q.pages i }

/-- Frees every page of a sequence, its leaf chunks and its root (R42, R105). -/
def State.releaseAll (s : State) (h : Nat) : State :=
  match s.seq h with
  | none => s
  | some q => (q.pages.foldl (fun s e => s.releaseAt h e.1) s).modSeq h fun q => { q with leaves := [] }

/-- Returns a handle to the tail of the free list (R19). -/
def State.freeHandle (s : State) (h : Nat) : State :=
  { s with seqs := mdel s.seqs h, handles := { s.handles with freed := s.handles.freed ++ [h] } }

/-- Takes the head of the free list of handles (R19): the unused ones first, from 0 upwards (DESIGN CHOICE, log 123). -/
def State.takeHandle (s : State) : Option (Nat × State) :=
  if s.handles.fresh < 262144 then
    some (s.handles.fresh, { s with handles := { s.handles with fresh := s.handles.fresh + 1 } })
  else
    match s.handles.freed with
    | h :: hs => some (h, { s with handles := { s.handles with freed := hs } })
    | [] => none

/-! ### Directory upkeep (R282) -/

/-- Whether appends may enter a sequence's groups. -/
def Seq.appending (q : Seq) : Bool := q.state = .prefilling || q.state = .stepping

/-- PIN and FROZEN of a sequence's groups after a change of state, of r or of tenant marks. -/
def State.notePins (s : State) (h : Nat) : State :=
  match s.seq h with
  | none => s
  | some q =>
    q.pages.foldl (fun s e =>
      { s with tiers := { s.tiers with groups := mmod s.tiers.groups (pageKey q.part e.2) fun g =>
          { g with
            pin := q.appending && decide (q.block q.r ≤ e.1)
            frozen := q.state = .moving || q.state = .rebuild
            prot := q.prot } } }) s

/-- A sequence enters a state, with its groups' marks. -/
def State.become (s : State) (h : Nat) (st : SeqState) : State := (s.modSeq h fun q => { q with state := st }).notePins h

/-- A page's tier: 3 when it has no entry. -/
def State.tierOf (s : State) (key : Nat) : Nat :=
  match mget s.tiers.pages key with
  | some e => e.tier
  | none => 3

/-- The page keys of a sequence's groups below a block, layer by layer within a group. -/
def Seq.pagesBelow (q : Seq) (b : Nat) : List Nat :=
  (q.pages.filter fun e => e.1 < b).flatMap fun e => (List.range q.layers).map fun l => pageKey q.part (e.2 + l)

/-- Whether a page is ready at a boundary (R40). -/
def State.pageReady (s : State) (key : Nat) : Bool :=
  match mget s.tiers.pages key with
  | some e => e.tier ≤ 1 || (e.tier = 2 && match mget s.tiers.moves key with
      | some m => m.tier ≤ 1
      | none => false)
  | none => false

/-- Whether every page that the next step of a sequence reads is ready (R40). -/
def State.seqReady (s : State) (q : Seq) : Bool := (q.pagesBelow (ceilDiv q.r q.tpp)).all s.pageReady

/-- Marks a page as read or written (R282). -/
def Tiers.touch (t : Tiers) (key : Nat) : Tiers := { t with pages := mmod t.pages key fun e => { e with ref := true } }

/-- Handles of sequences in a partition, ascending. -/
def State.handlesOf (s : State) (p : Nat) : List Nat := (s.seqsOf p).map Prod.fst

end Sys2Proof.Machine
end

