-- ==== Sys2Proof/Machine/Memory.lean ====
section
/-! DEFINITION. The bonded DRAM as logic-side and host accesses see it: the interleave of R124, the de-interleaved address of
R125, the frames of R123 that hold pages, and the encryption of R231. -/

set_option Elab.async false

namespace Sys2Proof.Machine

/-! ### Addresses (R123 to R126) -/

/-- The number of bytes of bonded DRAM: 192 GiB. -/
def dramBytes : Nat := 0x30_0000_0000

/-- The low six bits of `x`. -/
def low6 (x : Nat) : Nat := x % 64

/-- The channel, bank and in-bank offset of a DRAM address (R124). -/
def interleave (a : Nat) : Nat × Nat × Nat :=
  let g := a / 256
  let k := g / 64
  (low6 g ^^^ low6 k ^^^ low6 (k / 64) ^^^ low6 (k / 4096) ^^^ low6 (k / 262144), low6 k ^^^ low6 (k / 64), k / 64 * 256 + a % 256)

/-- The de-interleaved address of a channel, bank and offset (R125). -/
def deAddr (c b o : Nat) : Nat := c * 0xC000_0000 + b * 0x300_0000 + o

/-- The de-interleaved address of a DRAM address. -/
def deinterleave (a : Nat) : Nat :=
  let x := interleave a
  deAddr x.1 x.2.1 x.2.2

/-- The frame key that holds a de-interleaved address, and the byte within the frame (R123). -/
def frameAt (d : Nat) : Nat × Nat :=
  let c := d / 0xC000_0000
  let b := d % 0xC000_0000 / 0x300_0000
  let o := d % 0x300_0000
  ((c * 32 + b / 2) * 1536 + o / 32768, b % 2 * 32768 + o % 32768)

/-- The de-interleaved address of byte `x` of a frame. -/
def frameByte (k x : Nat) : Nat :=
  let u := k / 1536
  deAddr (u / 32) (2 * (u % 32) + x / 32768) (k % 1536 * 32768 + x % 32768)

/-! ### Encryption (R231) -/

/-- Whether a partition's DRAM encryption is enabled. -/
def State.xtsOn (s : State) (p : Nat) : Bool := s.fld cmpDramXts_enable 0 / 2 ^ p % 2 = 1

/-- A sector's 32 bytes as one number. -/
def sectorWord (bs : List (BitVec 8)) : BitVec 256 := BitVec.ofNat 256 (ofLe bs)

/-- A sector's bytes. -/
def wordSector (w : BitVec 256) : List (BitVec 8) := leBytes 32 w.toNat

/-- A page's sector as DRAM stores it: the partition, the sector's de-interleaved address divided by 32, its plain bytes. -/
def State.stored (s : State) (p sec : Nat) (plain : List (BitVec 8)) : List (BitVec 8) :=
  if s.xtsOn p then wordSector (Config.xtsEncrypt p sec (mgetD s.sec.xtsDraw p 0) (sectorWord plain)) else plain

/-- The plain bytes of a sector as DRAM stores it. -/
def State.plainOf (s : State) (p sec : Nat) (bytes : List (BitVec 8)) : List (BitVec 8) :=
  if s.xtsOn p then wordSector (Config.xtsDecrypt p sec (mgetD s.sec.xtsDraw p 0) (sectorWord bytes)) else bytes

/-! ### Bytes -/

/-- The page that a frame is home to. -/
def State.homePage (s : State) (k : Nat) : Option Nat :=
  match mget s.tiers.frames k with
  | some (.home page) => some page
  | _ => none

/-- The byte at a de-interleaved address as stored. -/
def State.dramByte (s : State) (d : Nat) : BitVec 8 :=
  let f := frameAt d
  match s.homePage f.1 with
  | some page =>
    let base := pageByte page (f.2 / 32 * 32)
    (s.stored (page / 2 ^ 32) (d / 32) (Cells.readList s.tiers.bytes base 32)).getD (d % 32) 0
  | none => Cells.read s.dram d

/-- Writes a byte at a de-interleaved address. -/
def State.putDramByte (s : State) (d : Nat) (v : BitVec 8) : State :=
  let f := frameAt d
  match s.homePage f.1 with
  | some page =>
    let base := pageByte page (f.2 / 32 * 32)
    let old := s.stored (page / 2 ^ 32) (d / 32) (Cells.readList s.tiers.bytes base 32)
    let new := s.plainOf (page / 2 ^ 32) (d / 32) (old.set (d % 32) v)
    { s with tiers := { s.tiers with bytes := Cells.writeList s.tiers.bytes base new } }
  | none => { s with dram := Cells.write s.dram d v }

/-! ### Poison and writes of places (R213) -/

/-- Whether the sector of a de-interleaved address is poisoned (R213). -/
def State.sectorPoisoned (s : State) (d : Nat) : Bool :=
  let f := frameAt d
  match s.homePage f.1 with
  | some page => s.tiers.poison.contains (page * 2048 + f.2 / 32)
  | none => s.poison.contains (d / 32)

/-- Poisons the sector of a de-interleaved address: it is stored with its check bytes XORed with 0xA5 (R213). -/
def State.poisonSector (s : State) (d : Nat) : State :=
  let f := frameAt d
  if s.sectorPoisoned d then s
  else match s.homePage f.1 with
    | some page => { s with tiers := { s.tiers with poison := s.tiers.poison ++ [page * 2048 + f.2 / 32] } }
    | none => { s with poison := s.poison ++ [d / 32] }

/-- A write of a whole sector ends its poison. -/
def State.cleanSector (s : State) (d : Nat) : State :=
  let f := frameAt d
  match s.homePage f.1 with
  | some page => { s with tiers := { s.tiers with poison := s.tiers.poison.filter (· ≠ page * 2048 + f.2 / 32) } }
  | none => { s with poison := s.poison.filter (· ≠ d / 32) }

/-- The sectors that a list of places covers whole. -/
def wholeSectors (places : List Nat) : List Nat :=
  places.filter fun d => d % 32 = 0 && (List.range 32).all fun i => places.contains (d + i)

/-- Writes bytes at de-interleaved addresses; an address beyond the DRAM takes none. -/
def State.writePlaces (s : State) (places : List Nat) (bs : List (BitVec 8)) : State :=
  let s := (places.zip bs).foldl (fun s x => if x.1 < dramBytes then s.putDramByte x.1 x.2 else s) s
  (wholeSectors places).foldl State.cleanSector s

/-! ### The sector code (R155, R156, R212, R213) -/

/-- The 36 symbols of a sector as they stand beside the banks: its 32 bytes, and the check bytes that its writer's encoder gave it. State
holds the check bytes by what they say: they are the code's own, or those of the poison marking (R213). -/
def State.codeword (s : State) (sec : Nat) : List (BitVec 8) :=
  let bytes := (List.range 32).map fun i => s.dramByte (sec * 32 + i)
  bytes ++ if s.sectorPoisoned (sec * 32) then poisonCheck bytes else sectorCheck bytes

/-- What a codeword with changed symbols decodes to. -/
def decodeUpset (u : Upset) (word : List (BitVec 8)) : SectorRead :=
  sectorDecode (word.zipIdx.map fun x => x.1 ^^^ (u.flips >>> (8 * x.2)).truncate 8)

/-- What a read of a sector with changed symbols decodes to. -/
def State.readUpset (s : State) (u : Upset) : SectorRead := decodeUpset u (s.codeword u.sector.toNat)

/-- The sector then stands as the decoder has read it: a write back changes nothing but where more symbols were wrong than the code can
tell (DESIGN CHOICE, log 144). -/
def State.standsAs (s : State) (sec : Nat) (d : List (BitVec 8)) : State :=
  d.zipIdx.foldl (fun s x => s.putDramByte (sec * 32 + x.2) x.1) s

/-- The sectors of a list of places that the list covers in part. -/
def partSectors (places : List Nat) : List Nat :=
  ((places.map fun d => d / 32).dedup).filter fun k => !(List.range 32).all fun i => places.contains (k * 32 + i)

/-- Bytes upwards from a DRAM address (R124). -/
def State.readDram (s : State) (a n : Nat) : List (BitVec 8) := (List.range n).map fun i => s.dramByte (deinterleave (a + i))

/-- Writes bytes upwards from a DRAM address. -/
def State.writeDram (s : State) (a : Nat) (bs : List (BitVec 8)) : State :=
  s.writePlaces ((List.range bs.length).map fun i => deinterleave (a + i)) bs

/-- A little-endian number in DRAM. -/
def State.dramNum (s : State) (a n : Nat) : Nat := ofLe (s.readDram a n)

/-! ### Pages -/

/-- The 64 KiB of a page. -/
def State.pageBytes (s : State) (key : Nat) : List (BitVec 8) := Cells.readList s.tiers.bytes (pageByte key 0) 65536

/-- Gives a page its 64 KiB. -/
def State.setPageBytes (s : State) (key : Nat) (bs : List (BitVec 8)) : State :=
  { s with tiers := { s.tiers with
      bytes := Cells.writeList (Cells.clear s.tiers.bytes (pageByte key 0) 65536) (pageByte key 0) (bs.take 65536)
      poison := s.tiers.poison.filter fun x => x / 2048 ≠ key } }

/-- Poisons sectors of a page (R213). -/
def State.poisonPage (s : State) (key : Nat) (secs : List Nat) : State :=
  { s with tiers := { s.tiers with poison := s.tiers.poison ++ secs.map fun x => key * 2048 + x } }

/-! ### Stored sub-blocks on their way (R227, R279, R281) -/

/-- A stored block's 4,128 bytes: header, payload, zeros. -/
def Stored.bytes (b : Stored) : List (BitVec 8) :=
  let h := leBytes 8 b.word0.toNat ++ leBytes 8 b.word1.toNat ++ leBytes 8 b.word2.toNat ++ leBytes 8 b.word3.toNat
  h ++ b.payload.take 4096 ++ List.replicate (4096 - b.payload.length) 0

/-- The stored block that a slot's bytes spell. -/
def storedOf (bs : List (BitVec 8)) : Stored :=
  let w (i : Nat) : BitVec 64 := BitVec.ofNat 64 (ofLe ((bs.drop (8 * i)).take 8))
  let b : Stored := ⟨w 0, w 1, w 2, w 3, []⟩
  { b with payload := (bs.drop 32).take b.coded }

/-- A page as its sixteen slots (R279). -/
def State.pageSlots (s : State) (key : Nat) : List (BitVec 8) :=
  (storePage (key / 2 ^ 32) (key % 2 ^ 32) (s.pageBytes key)).flatMap Stored.bytes

/-- The page that sixteen slots expand to, or the code of the first error (R228). -/
def expandSlots : Nat → List (BitVec 8) → Separated
  | 0, _ => .ok []
  | n + 1, bs =>
    match expandSub (storedOf (bs.take 4128)) true with
    | .ok raw =>
      match expandSlots n (bs.drop 4128) with
      | .ok rest => .ok (raw ++ rest)
      | .error e => .error e
    | .error e => .error e

/-- The first of a run of slots that the expander refuses. -/
def badSlot : Nat → List (BitVec 8) → Option Stored
  | 0, _ => none
  | n + 1, bs =>
    match expandSub (storedOf (bs.take 4128)) true with
    | .ok _ => badSlot n (bs.drop 4128)
    | .error _ => some (storedOf (bs.take 4128))

end Sys2Proof.Machine
end

