-- ==== Sys2Proof/Machine/Mirror.lean ====
section
/-! DEFINITION. What a home ships to its partner and to its manager: the sequence descriptor, the mirror slice's layout, commit
records and journal records (R97, R377 to R384). -/

set_option Elab.async false

namespace Sys2Proof.Machine

/-! ### The sequence descriptor (R97, R167) -/

/-- The 4-bit code of a sequence state (R21). -/
def SeqState.code : SeqState → Nat
  | .free => 0
  | .opened => 1
  | .prefilling => 2
  | .ready => 3
  | .stepping => 4
  | .paused => 5
  | .moving => 6
  | .done => 7
  | .rebuild => 8

/-- The sequence state of a code. -/
def SeqState.ofCode : Nat → SeqState
  | 1 => .opened
  | 2 => .prefilling
  | 3 => .ready
  | 4 => .stepping
  | 5 => .paused
  | 6 => .moving
  | 7 => .done
  | 8 => .rebuild
  | _ => .free

/-- A flag as a number. -/
def bit (b : Bool) : Nat := if b then 1 else 0

/-- IDENT. -/
def Seq.ident (q : Seq) (h : Nat) : Nat :=
  h + q.state.code * 2 ^ 18 + q.part * 2 ^ 22 + q.tenant * 2 ^ 26 + bit q.prot * 2 ^ 38 + bit q.speculate * 2 ^ 39 +
    q.priority * 2 ^ 40 + bit q.hold * 2 ^ 42 + q.reason * 2 ^ 43 + q.format * 2 ^ 45 + bit q.tail * 2 ^ 47 + q.model * 2 ^ 48

/-- SPEC (R167). -/
def Seq.spec (q : Seq) : Nat := q.kCur + q.kMax * 2 ^ 4 + q.zeroRun * 2 ^ 8 + q.fullRun * 2 ^ 11 + q.probe * 2 ^ 14

/-- MIRROR. -/
def Seq.mirrorWord (q : Seq) : Nat :=
  match q.mirror with
  | some m => m.1 + m.2 * 2 ^ 16
  | none => 0xFFFFFFFF

/-- CURRENT: the group number of the block of r. -/
def Seq.current (q : Seq) : Nat := mgetD q.pages (q.block q.r) 0xFFFFFFFF

/-- The descriptor's 512 bytes. APPENDED, which R97 gives as 0 to 16, shows 16 where a pass has more rows (DESIGN CHOICE, log 140). -/
def Seq.descriptor (q : Seq) (h : Nat) : List (BitVec 8) :=
  leBytes 8 (q.ident h) ++ leBytes 4 q.length ++ leBytes 4 q.limit ++ leBytes 2 q.tpp ++ leBytes 1 (q.layers - 1) ++
    leBytes 1 (min 16 q.appended) ++ leBytes 4 q.current ++ leBytes 8 q.seed.toNat ++ leBytes 4 q.temperature.toNat ++
    leBytes 4 q.topP.toNat ++ leBytes 2 q.topK ++ leBytes 2 q.stops.length ++ leBytes 4 q.spec ++
    leBytes 4 (q.lastStep % 2 ^ 32) ++ leBytes 4 q.mirrorWord ++ leBytes 200 0 ++
    (q.stops.flatMap (leBytes 4)) ++ leBytes (256 - 4 * q.stops.length) 0

/-! ### The commit record (R382) -/

/-- A commit record: the tick, the partition, the number of sequences committed, and the step count after the boundary. -/
def commitRecord (tick p count step : Nat) : List (BitVec 8) :=
  let body := leBytes 8 tick ++ leBytes 1 p ++ leBytes 1 (step % 2) ++ leBytes 2 0 ++ leBytes 4 count ++ leBytes 8 step ++ leBytes 36 0
  body ++ leBytes 4 (crc32c body).toNat

/-- The place of a step's commit record in the ring (DESIGN CHOICE, log 39). -/
def commitPlace (p step : Nat) : Nat := 16 * step + p

/-! ### Shipping to the partner (R383) -/

/-- The slots of a slice granted by a node. -/
def State.sliceSize (s : State) (node : Nat) : Nat :=
  match mget s.res.grants node with
  | some g => g.slots
  | none => 0

/-- Ships bytes of a page of a protected sequence as they are written (R383 step 1): page-list index, layer, byte. -/
def State.shipRow (s : State) (h i l o : Nat) (bs : List (BitVec 8)) : State :=
  match s.seq h with
  | none => s
  | some q =>
    if !q.prot then s
    else
      match q.mirror, mget q.slots (i * 256 + l) with
      | some m, some x =>
        s.shipAt m.1 (x % 8) (sliceSlot (s.sliceSize m.1) x + o) bs (.append h (s.fld schStep_count q.part))
      | _, _ => s

/-- What a part of a sequence's state is to its partner: an append of the step in class 6, a part of a copy in class 2 (R383,
R385). -/
def State.partOf (s : State) (h cls : Nat) (q : Seq) : Purpose :=
  if cls = 6 then .append h (s.fld schStep_count q.part) else .mirrorCopy h

/-- Gives a journal page of a sequence its slot at the partner, where one is free. -/
def State.journalSlot (s : State) (h cls node page : Nat) : State :=
  match s.seq h, mget s.res.grants node with
  | some q, some g =>
    if mhas q.journalSlots page then s
    else
      match (g.free 1).head? with
      | some x =>
        let s := (s.modGrant node fun g => { g with taken := g.taken ++ [x] }).modSeq h fun q =>
          { q with journalSlots := mset q.journalSlots page x }
        s.shipIn cls node 0 (sliceDir x) (slotEntry h 2 page 0) (s.partOf h cls q)
      | none => s
  | _, _ => s

/-- Ships one journal token to the partner in a class: position, token. -/
def State.shipToken (s : State) (h cls node pos : Nat) (tok : BitVec 32) : State :=
  let s := s.journalSlot h cls node (pos / 16384)
  match s.seq h with
  | none => s
  | some q =>
    match mget q.journalSlots (pos / 16384) with
    | some x => s.shipIn cls node 0 (sliceSlot (s.sliceSize node) x + pos % 16384 * 4) (leBytes 4 tok.toNat) (s.partOf h cls q)
    | none => s

/-- Ships journal tokens from a position upwards. -/
def State.shipTokens (s : State) (h cls node pos : Nat) : List (BitVec 32) → State
  | [] => s
  | t :: ts => State.shipTokens (s.shipToken h cls node pos t) h cls node (pos + 1) ts

/-- Ships the slot-directory entries of a protected sequence's groups from an index upwards. -/
def State.shipSlots (s : State) (h cls node first : Nat) (q : Seq) : State :=
  (q.slots.filter fun x => first ≤ x.1 / 256).foldl (fun s x =>
    s.shipIn cls node 0 (sliceDir x.2) (slotEntry h 1 (x.1 / 256) (x.1 % 256)) (s.partOf h cls q)) s

/-- Ships a sequence's descriptor into a copy (R381). -/
def State.shipDescriptor (s : State) (h copy : Nat) : State :=
  match s.seq h with
  | none => s
  | some q =>
    match q.mirror with
    | some m => s.shipAt m.1 0 (sliceDesc copy h) (q.descriptor h) (.append h (s.fld schStep_count q.part))
    | none => s

/-- A sequence that leaves a partner leaves a descriptor of state FREE in both copies there (DEDUCED, log 88). -/
def State.shipFree (s : State) (h node : Nat) (q : Seq) : State :=
  let step := s.fld schStep_count q.part
  (s.shipAt node 0 (sliceDesc 0 h) (leBytes 512 0) (.append h step)).shipAt node 0 (sliceDesc 1 h) (leBytes 512 0) (.append h step)

/-- Sends a partition's commit record to a partner, with ACK_REQ, and the step count of its HEADER behind it. -/
def State.shipRecord (s : State) (node p : Nat) (c : Commit) : State :=
  let bytes := commitRecord c.tick p c.fresh.length c.step
  let s := match mget s.res.grants node with
    | some g =>
      match s.bulkConn node 6 0 with
      | (s, some k) => s.issue k { Frame.zero with
          op := 3, flags := 9, offset := BitVec.ofNat 64 (g.base + sliceCommit (commitPlace p c.step)), payload := bytes } (.commitRecord p c.step)
      | (s, none) => s.failLater 65536 1 node (.commitRecord p c.step)
    | none => s
  s.shipAt node 0 (sliceStep p) (leBytes 8 c.step) (.commitRecord p c.step)

/-! ### Shipping to the manager (R384) -/

/-- The group manager, unless RES_MGR names none. -/
def State.manager (s : State) : Option Nat :=
  let m := s.fld resMgr_acting 0
  if s.fld resMgr_manager 0 = 0xFFFF || m = 0xFFFF then none else some m

/-- A journal record: kind 0 generated, 1 prompt, 2 closed. -/
def journalRecord (node h kind pos tok step : Nat) : List (BitVec 8) :=
  leBytes 2 node ++ leBytes 3 (h + kind * 2 ^ 18) ++ leBytes 3 pos ++ leBytes 4 tok ++ leBytes 4 (step % 2 ^ 32)

/-- The prompts of a lost device whose sequence has produced its first token at its new home: the manager writes their final replies,
STATE_REBUILD with detail MANAGER_REPLY and the length that the sequence then has (R82, R393, R539). -/
def State.deferredDue (s : State) (node handle pos : Nat) : State :=
  let due := s.res.deferred.filter fun x => x.node = node && x.handle = handle
  let s := { s with res := { s.res with deferred := s.res.deferred.filter fun x => !(x.node = node && x.handle = handle) } }
  due.foldl (fun s x => s.replyTo x.rq { x.reply with status := 3, effTick := s.now, result := (pos + 1) % 2 ^ 23 }) s

/-- A token's journal record at the manager (R384), by node and handle; a generated token may be a first one that a reply waits for. -/
def State.keepJournal (s : State) (node handle pos : Nat) (tok : BitVec 32) (kind : Nat) : State :=
  let key := node * 2 ^ 18 + handle
  let l := mgetD s.res.journals key []
  let l := if pos < l.length then l.set pos (tok, kind) else l ++ [(tok, kind)]
  let s := { s with res := { s.res with journals := mset s.res.journals key l } }
  if kind = 0 then s.deferredDue node handle pos else s

/-- Ships one journal record of a home's sequence to the manager in a class; the records go round the 16 MiB of the granted region. A
manager that is itself home keeps its own. -/
def State.shipRecordIn (s : State) (cls home p h kind pos tok : Nat) : State :=
  match s.manager with
  | none => s
  | some m =>
    if m = s.ownNode then s.keepJournal home h pos (BitVec.ofNat 32 tok) kind
    else
    let step := s.fld schStep_count p
    let off := s.res.journalBase + 16 * (s.res.journalSent % 1048576)
    let s := { s with res := { s.res with journalSent := s.res.journalSent + 1 } }
    s.writeBulk m cls 0 0 off (journalRecord home h kind pos tok step) (.journalCopy p step)

/-- Ships one journal record to the manager. -/
def State.shipJournal (s : State) (p h kind pos tok : Nat) : State := s.shipRecordIn 6 s.ownNode p h kind pos tok

/-- Ships journal records of tokens from a position upwards. -/
def State.shipJournals (s : State) (p h kind pos : Nat) : List (BitVec 32) → State
  | [] => s
  | t :: ts => State.shipJournals (s.shipJournal p h kind pos t.toNat) p h kind (pos + 1) ts

/-- What a committed sequence ships behind the boundary (R26, R383 step 2, R384): its journal's new tokens to the partner and to the
manager, its slot-directory changes from a page-list index upwards, and its descriptor. -/
def State.shipCommit (s : State) (h from_ first copy : Nat) : State :=
  match s.seq h with
  | none => s
  | some q =>
    let new := q.journal.drop from_
    let s := match q.mirror with
      | some m => ((State.shipTokens s h 6 m.1 from_ new).shipSlots h 6 m.1 first q).shipDescriptor h copy
      | none => s
    State.shipJournals s q.part h 0 from_ new

/-- Marks a sequence as waiting for the manager's acknowledgement of journal records that leave in a step, where another node is
named (R29, R384). -/
def State.markJournal (s : State) (h step : Nat) : State :=
  if s.manager.any (· ≠ s.ownNode) then s.modSeq h fun q => { q with unjournaled := some step } else s

/-- Ships prompt tokens at the acceptance of SEQ_PROMPT (R377): to the mirror and to the manager, whose acknowledgement the next commit
waits for (R29). -/
def State.shipPrompt (s : State) (h pos : Nat) (toks : List (BitVec 32)) : State :=
  match s.seq h with
  | none => s
  | some q =>
    let s := match q.mirror with
      | some m => State.shipTokens s h 6 m.1 pos toks
      | none => s
    (State.shipJournals s q.part h 1 pos toks).markJournal h (s.fld schStep_count q.part)

/-- Ships the committed journal of a sequence anew, each record with the kind it was committed with, in class 2 (R398). -/
def State.reshipJournal (s : State) (h : Nat) (q : Seq) : State :=
  ((q.journal.zip q.kinds).zipIdx).foldl (fun s x =>
    s.shipRecordIn 2 s.ownNode q.part h (if x.1.2 then 0 else 1) x.2 x.1.1.toNat) s

/-- Every journal goes to a new manager, once it has granted a region. -/
def State.reshipJournals (s : State) : State :=
  if s.res.reship then
    s.seqs.foldl (fun s x => if x.2.promoted.isNone then s.reshipJournal x.1 x.2 else s) { s with res := { s.res with reship := false } }
  else s

/-! ### Leaving a partner -/

/-- A sequence leaves a partner where it holds slots: its descriptor and its slots there are freed (R42, R385). -/
def State.leavePartner (s : State) (h node : Nat) (slots : List Nat) (q : Seq) : State := (s.shipFree h node q).dropSlots h node q slots

/-- Frees a sequence whole at its partner, and at the old partner of a copy that has not ended (R42, R385). -/
def State.dropMirror (s : State) (h : Nat) : State :=
  match s.seq h with
  | none => s
  | some q =>
    let s := match q.mirror with
      | some m => s.leavePartner h m.1 (q.slots.map Prod.snd ++ q.journalSlots.map Prod.snd) q
      | none => s
    let s := match q.oldMirror with
      | some m => s.leavePartner h m.1 m.2 q
      | none => s
    s.modSeq h fun q => { q with slots := [], journalSlots := [], oldMirror := none }

/-- Frees a sequence's page slots at its partner, keeping its journal there. -/
def State.dropPages (s : State) (h : Nat) : State :=
  match s.seq h with
  | none => s
  | some q =>
    let s := match q.mirror with
      | some m => s.dropSlots h m.1 q (q.slots.map Prod.snd)
      | none => s
    s.modSeq h fun q => { q with slots := [] }

/-- Whether the partner has acknowledged every append and every free of a sequence. -/
def State.appendsAcked (s : State) (h : Nat) : Bool :=
  s.asf.conns.all fun c => c.2.unacked.all fun x => match x.purpose with
    | .append k _ => k ≠ h
    | _ => true

/-- Frees a sequence whole: its pages in every tier, its mirror and its handle (R23, R42). -/
def State.freeSeq (s : State) (h : Nat) : State := (((s.releaseAll h).dropMirror h).freeHandle h).noteTiers

end Sys2Proof.Machine
end

