-- ==== Sys2Proof/Machine/Release.lean ====
section
/-! DEFINITION. What follows a commit: the release of token records, completion records and replies (R17, R26 to R30, R60,
R70, R383). -/

set_option Elab.async false

namespace Sys2Proof.Machine

/-! ### The token ring -/

/-- Writes one record in a token ring that has room. -/
def State.putRec (s : State) (ring : Nat) (r : TokRec) : State :=
  match s.queue ring with
  | none => s
  | some x =>
    let s := s.shipEntry ring x (r.bytes x.phase)
    ((s.emit (.token ring x.wr x.phase r)).modQueue ring Queue.advance).noteEntry ring

/-- The records held for want of room in a partition's ring: sequence and records. -/
def State.heldRecs (s : State) (p : Nat) : List (Nat × List TokRec) := mgetD s.buhorn.heldRecs p []

/-- Sets the records held for a partition's ring. -/
def State.setHeld (s : State) (p : Nat) (l : List (Nat × List TokRec)) : State :=
  { s with buhorn := { s.buhorn with heldRecs := if l.isEmpty then mdel s.buhorn.heldRecs p else mset s.buhorn.heldRecs p l } }

/-- Whether a sequence waits for room in the token ring (R60). -/
def State.ringWaits (s : State) (p h : Nat) : Bool := (s.heldRecs p).any fun x => x.1 = h

/-- Room in a partition's token ring. -/
def State.ringRoom (s : State) (p : Nat) : Nat :=
  match s.tokenRing p with
  | some r => r.2.room
  | none => 0

/-- Writes a list of records to a partition's token ring. -/
def State.putRecs (s : State) (p : Nat) (l : List TokRec) : State :=
  match s.tokenRing p with
  | some r => l.foldl (fun s x => s.putRec r.1 x) s
  | none => s

/-- Of a list of sequences' records, those that fit in `room` entries, and those held: a sequence behind held records of its
own is held, and none of a sequence's records is written when not all fit (R60). -/
def splitRecs : Nat → List (Nat × List TokRec) → List (Nat × List TokRec) → List (Nat × List TokRec) × List (Nat × List TokRec)
  | _, held, [] => ([], held)
  | room, held, x :: xs =>
    if x.2.length ≤ room && !held.any (fun y => y.1 = x.1) then
      let r := splitRecs (room - x.2.length) held xs
      (x :: r.1, r.2)
    else splitRecs room (held ++ [x]) xs

/-- Writes sequences' records: every token record, then every completion record (R26); without room they are held. -/
def State.releaseRecs (s : State) (p : Nat) (l : List (Nat × List TokRec)) : State :=
  let r := splitRecs (s.ringRoom p) (s.heldRecs p) l
  let all := r.1.flatMap Prod.snd
  ((s.putRecs p (all.filter (·.kind = 0))).putRecs p (all.filter (·.kind ≠ 0))).setHeld p r.2

/-- Writes held records that now have room. -/
def State.drainRecs (s : State) (p : Nat) : State :=
  let l := s.heldRecs p
  (s.setHeld p []).releaseRecs p l

/-! ### Release of a step -/

/-- Whether a sequence's records of a commit may be released: its mirror has acknowledged, and no copy to a new partner is
under way (R383, R385). A closed sequence is freed only behind its records (`State.freeClosed`), so its mirror is known here. -/
def State.recFree (s : State) (c : Commit) (h : Nat) : Bool :=
  match s.seq h with
  | some q =>
    !q.copying && match q.mirror with
      | some m => !c.waiting.contains m.1 && !c.toSend.contains m.1
      | none => false
  | none => c.waiting.isEmpty && c.toSend.isEmpty

/-- Whether everything that R27 orders before a reply of step `n` about sequence `h` has been written. -/
def State.seqReleased (s : State) (p n h : Nat) : Bool :=
  !s.ringWaits p h && (s.part p).commits.all fun c => n < c.step || !(c.recs.any fun r => r.1 = h)

/-- Whether a step has been released for every sequence. -/
def State.stepReleased (s : State) (p n : Nat) : Bool := (s.part p).commits.all fun c => n < c.step

/-- Whether a command names a sequence. -/
def Pend.namesSeq (c : Pend) : Bool :=
  (0x11 ≤ c.op && c.op ≤ 0x16) || (0x20 ≤ c.op && c.op ≤ 0x23) || (c.op = 0x17 && c.par 16 1 = 0)

/-- Whether the release of step `n` lets a command reply. -/
def State.stepFree (s : State) (c : Pend) (n : Nat) : Bool :=
  (if c.namesSeq then s.seqReleased c.part n c.handle else true) &&
    (s.part c.part).commits.all fun k => n < k.step || (k.waiting.isEmpty && k.toSend.isEmpty) ||
      (c.namesSeq && match s.seq c.handle with
        | some q => match q.mirror with
          | some m => !k.waiting.contains m.1 && !k.toSend.contains m.1
          | none => false
        | none => false)

/-- Whether a command that waits for a release may reply: that of a step, that of its sequence's own records (R27), or that of a
step with the partner's acknowledgement of the free (R42). -/
def State.replyFree (s : State) (c : Pend) : Bool :=
  match c.wait with
  | .release n => s.stepFree c n
  | .records n => s.seqReleased c.part n c.handle
  | .freed n => s.stepFree c n && (s.seq c.handle).isNone && s.appendsAcked c.handle
  | _ => false

/-- Writes the replies of a partition that may be written, in their order. -/
def State.releaseReplies (s : State) (p : Nat) : State :=
  (s.cmdsWhere fun c => c.part = p && match c.wait with
    | .release _ => true
    | .records _ => true
    | .freed _ => true
    | _ => false).foldl (fun s c =>
      if s.replyFree c then
        let st := if c.rebuilt && c.status = 0 then 3 else c.status
        s.finish c.id st (if c.rebuilt && c.detail = 0 then 4 else c.detail) c.result
      else s) s

/-- Releases the records of one commit that may be released. -/
def State.releaseCommit (s : State) (p : Nat) (c : Commit) : State :=
  let free := c.recs.filter fun r => s.recFree c r.1
  let rest := c.recs.filter fun r => !s.recFree c r.1
  let s := s.modPart p fun x => { x with commits := x.commits.map fun k => if k.step = c.step then { k with recs := rest } else k }
  s.releaseRecs p free

/-- Whether records of a sequence wait for the release of a step. -/
def State.recsOut (s : State) (p h : Nat) : Bool := (s.part p).commits.any fun c => c.recs.any fun r => r.1 = h

/-- Frees the closed sequences of a partition whose records no step holds back any more (R17, R23). -/
def State.freeClosed (s : State) (p : Nat) : State :=
  ((s.seqsOf p).filter fun x => x.2.state = .free && !s.recsOut p x.1).foldl (fun s x => s.freeSeq x.1) s

/-- A sequence is FREE; what it holds is freed behind its last records, at once where none is held back. -/
def State.closeSeq (s : State) (p h : Nat) : State := (s.become h .free).freeClosed p

/-- Releases everything of a partition that may be released: the records of its steps in order, then the replies that follow
them. -/
def State.release (s : State) (p : Nat) : State :=
  let s := (s.part p).commits.foldl (fun s c => s.releaseCommit p c) s
  let s := (s.freeClosed p).releaseReplies p
  s.modPart p fun x => { x with commits := x.commits.filter fun c => !(c.recs.isEmpty && c.waiting.isEmpty && c.toSend.isEmpty) }

/-- A command's effect is complete and its reply follows the release of the step that just committed; in a partition without
an unreleased step it follows at once. -/
def State.afterRelease (s : State) (d : Pend) (status detail result : Nat) : State :=
  let n := s.fld schStep_count d.part
  let s := s.modCmd d.id fun c => { c with wait := .release n, status := status, detail := detail, result := result }
  s.releaseReplies d.part

/-- A command's effect is complete and its reply follows its sequence's own records (R27). -/
def State.afterRecords (s : State) (d : Pend) (status detail result : Nat) : State :=
  let n := s.fld schStep_count d.part
  let s := s.modCmd d.id fun c => { c with wait := .records n, status := status, detail := detail, result := result }
  s.releaseReplies d.part

/-- A SEQ_CLOSE replies OK once the free is complete, in every tier and at the mirror, behind the release of the step (R42). -/
def State.afterFree (s : State) (d : Pend) : State :=
  let n := s.fld schStep_count d.part
  (s.modCmd d.id fun c => { c with wait := .freed n, status := 0, detail := 0, result := 0 }).releaseReplies d.part

/-- The partner has acknowledged parts of a sequence: the SEQ_CLOSE that waits for it replies. -/
def State.freeAcked (s : State) (h : Nat) : State :=
  (s.cmdsWhere fun c => c.handle = h && match c.wait with
    | .freed _ => true
    | _ => false).foldl (fun s c => s.releaseReplies c.part) s

/-- A class-I command's effect is complete: its reply is written at once, and behind the release of the step when it waited for
that step's boundary (R27, R76). -/
def State.conclude (s : State) (d : Pend) (status detail result : Nat) : State :=
  if d.effTick = d.accTick then s.finish d.id status detail result else s.afterRelease d status detail result

/-- Adds records of a sequence behind those of the last commit that is not released; without one they go to the ring. -/
def State.addRecs (s : State) (p h : Nat) (l : List TokRec) : State :=
  match (s.part p).commits.getLast? with
  | some c =>
    s.modPart p fun x => { x with commits := x.commits.map fun k =>
      if k.step = c.step then { k with recs := k.recs ++ [(h, l)] } else k }
  | none => s.releaseRecs p [(h, l)]

/-- The completion record of a sequence (R32, R59). -/
def State.completion (s : State) (p h : Nat) (q : Seq) : TokRec :=
  ⟨h, 1, q.reason, 0, q.length, s.fld schStep_count p % 2 ^ 32⟩

/-- What a STATE_MOVE reply and the like give as RESULT (R69): node, partition and handle of the new home. -/
def homeResult (node part handle : Nat) : Nat := node + part * 2 ^ 16 + handle * 2 ^ 20

/-! ### Commands that wait for a token or a step (R70, R539) -/

/-- Whether a command is an enable or a resume that waits for the sequence's first step. -/
def Pend.waitsStep (c : Pend) (p h : Nat) : Bool := c.wait = .firstStep && c.part = p && c.handle = h

/-- An enable or resume whose sequence leaves stepping replies OK at this boundary's release (R70). -/
def State.endEnables (s : State) (p h : Nat) : State :=
  (s.cmdsWhere fun c => c.waitsStep p h).foldl (fun s c => s.afterRelease c 0 0 0) s

/-- A prompt whose sequence becomes DONE before its first token replies OK with the length (R539). -/
def State.endPrompts (s : State) (p h length : Nat) : State :=
  (s.cmdsWhere fun c => c.wait = .firstToken && c.part = p && c.handle = h).foldl (fun s c => s.afterRelease c 0 0 length) s

/-- The sequence enters REBUILD: commands that wait for its first token or step reply STATE_REBUILD (R539). -/
def State.markRebuilt (s : State) (p h : Nat) : State :=
  { s with buhorn := { s.buhorn with cmds := s.buhorn.cmds.map fun c =>
      if c.part = p && c.handle = h && (c.wait = .firstToken || c.wait = .firstStep) then { c with rebuilt := true } else c } }

/-! ### States a sequence takes outside a commit -/

/-- A sequence becomes DONE with a reason outside a commit: its completion record follows the step's records, and what
waits for its tokens or steps replies (R31, R70, R539). -/
def State.makeDone (s : State) (p h reason : Nat) : State :=
  match s.seq h with
  | none => s
  | some q =>
    let q' := { q with reason := reason, appended := 0, written := [], selected := none, ring := none, move := none, prompt := [] }
    let s := (s.modSeq h fun _ => q').become h .done
    let s := s.addRecs p h [s.completion p h q']
    (s.endPrompts p h q.length).endEnables p h

/-- Whether a page has lost or poisoned bytes. -/
def State.pageBroken (s : State) (key : Nat) : Bool :=
  s.tiers.lost.contains key || s.tiers.poison.any fun x => x / 2048 = key

/-- Whether a sequence holds the group of an index intact (R397). -/
def State.groupIntact (s : State) (q : Seq) (i : Nat) : Bool :=
  match mget q.pages i with
  | some n => (List.range q.layers).all fun l => !s.pageBroken (pageKey q.part (n + l))
  | none => false

/-- The position at which the re-prefill of a sequence starts (R397). -/
def State.rebuildStart (s : State) (q : Seq) : Nat :=
  match (List.range (ceilDiv q.r q.tpp)).find? fun i => !s.groupIntact q i with
  | some i => i * q.tpp
  | none => q.block q.r * q.tpp

/-- Releases a group that is not held intact and assigns another in its place (R397). -/
def State.renewGroup (s : State) (h i : Nat) : State :=
  let t := s.releaseAt h i
  (t.assignGroup h i).getD t

/-- A sequence's state is lost: it enters REBUILD, keeping what it will take when the rebuild ends (R22, R397). -/
def State.toRebuild (s : State) (h : Nat) : State :=
  match s.seq h with
  | none => s
  | some q =>
    let prior := match q.state with
      | .rebuild => q.prior
      | .moving => .ready
      | x => x
    let start := s.rebuildStart q
    let broken := (List.range (ceilDiv q.r q.tpp)).filter fun i => !s.groupIntact q i
    let s := s.modSeq h fun q => { q with prior := prior, appended := 0, written := [], selected := none, ring := none, rebuildPos := start, rebuildTick := s.now }
    let s := s.become h .rebuild
    (broken.foldl (fun s i => s.renewGroup h i) s).markRebuilt q.part h

end Sys2Proof.Machine
end

