-- ==== Sys2Proof/Machine/Buhorn.lean ====
section
/-! DEFINITION. Buhorn's queues: doorbells, fetching, the administration pairs, creation and deletion (R43 to R52, R75, R80,
R81). -/

set_option Elab.async false

namespace Sys2Proof.Machine

/-! ### Faults and doorbells (R47 to R50) -/

/-- Records a queue fault in CMD_QFAULT of the queue's function (R52). POSITION is the refused INDEX for causes 1 and 4, the fetch
position for the others (DESIGN CHOICE, log 118). -/
def State.noteFault (s : State) (fn q cause position : Nat) : State :=
  (((s.bump cmdQfault_count fn 1).setFld cmdQfault_queue fn q).setFld cmdQfault_cause fn cause).setFld cmdQfault_position fn position

/-- Marks a queue faulted: fetching stops (R50, R52). An administration queue shows it in CMD_ADMQ_CTRL. -/
def State.faultQueue (s : State) (q cause position : Nat) : State :=
  match s.queue q with
  | none => s
  | some x =>
    let s := (s.modQueue q fun x => { x with faulted := true }).noteFault x.fn q cause position
    if q < 34 then s.setFlag cmdAdmqCtrl_fault x.fn true else s

/-- A tail doorbell of a queue (R49, R50): packets that a doorbell in C3 makes available will be accepted late (R63). -/
def State.ringTail (s : State) (q index : Nat) : State :=
  match s.queue q with
  | none => s
  | some x =>
    if x.kind ≠ 0 then s
    else if x.depth ≤ index then s.faultQueue q 1 index
    else s.modQueue q fun x =>
      { x with
        tail := index
        delayed := if s.fld pwrDevStat_state 0 = 1 then x.delayed + (index + x.depth - x.tail) % x.depth else x.delayed }

/-- Writes what waited for room in a queue that the device writes: replies, or token records and the replies behind them
(R27, R60). -/
def State.drainQueue (s : State) (q : Nat) (x : Queue) : State :=
  if x.kind = 2 then ((s.drainRecs (x.fn - 1)).releaseReplies (x.fn - 1))
  else (s.drainReplies q s.buhorn.heldReplies.length).endDeletes

/-- A head doorbell of a queue (R49, R50, R60). -/
def State.ringHead (s : State) (q index : Nat) : State :=
  match s.queue q with
  | none => s
  | some x =>
    if x.kind = 0 then s
    else if x.depth ≤ index then s.faultQueue q 1 index
    else (s.modQueue q fun x => { x with head := index }).drainQueue q x

/-- Whether a function's BAR2 decodes a queue's page: queues of its own (R48). -/
def State.decodesQueue (s : State) (fn q : Nat) : Bool :=
  match s.queue q with
  | some x => x.fn = fn
  | none => false

/-- CMD_DB_TAIL (R49). -/
def execCmdDbTail (fn : Fn) (q : BitVec 8) (index : BitVec 16) (s : State) : Out :=
  .next (s.whenLive fun s => if s.decodesQueue (fnNum fn) q.toNat then s.ringTail q.toNat index.toNat else s)

/-- CMD_DB_HEAD (R49). -/
def execCmdDbHead (fn : Fn) (q : BitVec 8) (index : BitVec 16) (s : State) : Out :=
  .next (s.whenLive fun s => if s.decodesQueue (fnNum fn) q.toNat then s.ringHead q.toNat index.toNat else s)

/-! ### Fetching (R51, R79, R81) -/

/-- Packets doorbelled and not fetched. -/
def Queue.available (q : Queue) : Nat := (q.tail + q.depth - q.head) % q.depth

/-- Whether a queue may be fetched from now. -/
def State.fetchable (s : State) (fn n : Nat) (q : Queue) : Bool :=
  q.fn = fn && q.kind = 0 && !q.faulted && !q.deleting && q.reading = 0 && q.head != q.tail && s.inService n &&
    !s.queueStops fn n

/-- The next queue of a function in round-robin order: the first one after the last served, else the first (R81). -/
def State.nextQueue (s : State) (fn : Nat) : Option (Nat × Queue) :=
  let all := s.buhorn.queues.filter fun q => s.fetchable fn q.1 q.2
  let last := mgetD s.buhorn.roundRobin fn 0
  match all.find? fun q => last < q.1 with
  | some q => some q
  | none => all.head?

/-- The packets of one burst: at most 64, and none beyond the queue's end. -/
def Queue.burst (q : Queue) : Nat := min 64 (min q.available (q.depth - q.head))

/-- Whether fetching for a function is stopped: by its in-flight limit or C3 (R63, R79). -/
def State.fetchStopped (s : State) (fn : Nat) : Bool :=
  inflightLimit fn ≤ s.inflight fn || s.fld pwrDevStat_state 0 = 1

/-- What a slot of a command window holds; one that nothing has written holds zeros (DESIGN CHOICE, log 119). -/
def State.slot (s : State) (q i : Nat) : Packet := mgetD s.buhorn.windows (q * 512 + i) ⟨0, 0, 0, 0, 0, 0, 0⟩

/-- A write of a slot of a command window through a function's BAR2: ignored beyond the queue's depth, and where the page is not a
window (R48, R51). -/
def State.writeSlot (s : State) (fn : Nat) (w : SlotWrite) : State :=
  match s.queue w.queue.toNat with
  | some x =>
    if x.fn = fn && x.kind = 0 && x.placement = 1 && w.slot.toNat < x.depth then
      { s with buhorn := { s.buhorn with windows := mset s.buhorn.windows (w.queue.toNat * 512 + w.slot.toNat) w.pkt } }
    else s
  | none => s

/-- Fetches one burst: from the window at once, as its slots stand (R51), from host memory or a remote node by a read. -/
def State.fetchBurst (s : State) (q : Nat) (x : Queue) : State :=
  let n := x.burst
  match x.placement with
  | 1 => s.modQueue q fun x =>
      { x with fetched := x.fetched ++ (List.range n).map fun i => s.slot q (x.head + i), head := (x.head + n) % x.depth }
  | 2 => (s.modQueue q fun x => { x with reading := n }).readBulk x.owner 5 (q % 8) 0 (x.base % 2 ^ 48 + 64 * x.head) (64 * n) (.queueFetch q n)
  | _ => (s.modQueue q fun x => { x with reading := n }).emit (.hostRead x.fn (x.base + 64 * x.head) (64 * n))

/-- Fetches for a function from its next queue. -/
def State.fetchNext (s : State) (fn : Nat) : State :=
  if s.fetchStopped fn then s
  else
    match s.nextQueue fn with
    | none => s
    | some (q, x) => { s with buhorn := { s.buhorn with roundRobin := mset s.buhorn.roundRobin fn q } }.fetchBurst q x

/-- COMMAND_FETCH (R81): the slots that the host has written in the function's windows since the last fetch, then the fetch. -/
def execCommandFetch (who : Fn) (writes : List SlotWrite) (s : State) : Out :=
  .next (s.whenLive fun s => (writes.foldl (fun s w => s.writeSlot (fnNum who) w) s).fetchNext (fnNum who))

/-- Packets that a read brought for a queue. -/
def State.packetsArrive (s : State) (q : Nat) (ps : List Packet) : State :=
  s.modQueue q fun x =>
    { x with
      fetched := x.fetched ++ ps.take x.reading
      head := (x.head + (ps.take x.reading).length) % x.depth
      reading := 0 }

/-- A read of packets that failed or returned poison, or whose target is dead: the queue is faulted (R52). -/
def State.packetsFail (s : State) (q cause : Nat) : State :=
  match s.queue q with
  | some x => if x.reading = 0 then s else (s.modQueue q fun x => { x with reading := 0 }).faultQueue q cause x.head
  | none => s

/-! ### Administration pairs (R45, R52) -/

/-- A queue as its creation leaves it. -/
def Queue.fresh (kind placement fn depth : Nat) : Queue where
  kind := kind
  placement := placement
  fn := fn
  depth := depth
  reply := 0
  coalesce := 1
  coalesceUs := 0
  vector := 0
  owner := 0
  manager := 0
  managerQueue := 0
  base := 0
  tail := 0
  head := 0
  wr := 0
  phase := true
  faulted := false
  reading := 0
  fetched := []
  sinceMsi := 0
  firstMsi := 0
  delayed := 0
  deleting := false

/-- Puts a queue in service. -/
def State.addQueue (s : State) (q : Nat) (x : Queue) : State :=
  { s with buhorn := { s.buhorn with queues := mset s.buhorn.queues q x } }

/-- Whether a depth of an administration queue is in range. -/
def admDepthOk (d : Nat) : Bool := 4 ≤ d && d ≤ 12

/-- Whether a queue is faulted. -/
def State.queueFaulted (s : State) (q : Nat) : Bool := (s.queue q).any fun (x : Queue) => x.faulted

/-- Puts a function's administration pair in service with the depths and bases of its registers. A queue of the pair that is faulted
stays so until QUEUE_DELETE takes it away (R50). -/
def State.openPair (s : State) (fn : Nat) : State :=
  let cmd := { Queue.fresh 0 0 fn (2 ^ s.fld cmdAdmqCtrl_cmdDepthLog2 fn) with
    reply := 2 * fn + 1, base := s.fld cmdAdmqCmdBase_addr fn * 4096, faulted := s.queueFaulted (2 * fn) }
  let rep := { Queue.fresh 1 0 fn (2 ^ s.fld cmdAdmqCtrl_replyDepthLog2 fn) with
    base := s.fld cmdAdmqReplyBase_addr fn * 4096, faulted := s.queueFaulted (2 * fn + 1) }
  ((s.addQueue (2 * fn) cmd).addQueue (2 * fn + 1) rep).setFlag cmdAdmqCtrl_fault fn (cmd.faulted || rep.faulted)

/-- A write of CMD_ADMQ_CTRL (R52): setting ENABLE puts the pair in service, or is refused with FAULT on a bad depth. -/
def State.writeAdmq (s : State) (writer fn : Nat) (l : Lane) (v : BitVec 64) : State :=
  let was := s.flag cmdAdmqCtrl_enable fn
  let s := s.writeFields writer l .cmdAdmqCtrl fn v
  if !was && s.flag cmdAdmqCtrl_enable fn then
    if admDepthOk (s.fld cmdAdmqCtrl_cmdDepthLog2 fn) && admDepthOk (s.fld cmdAdmqCtrl_replyDepthLog2 fn) then s.openPair fn
    else (s.setFlag cmdAdmqCtrl_enable fn false).setFlag cmdAdmqCtrl_fault fn true
  else s

/-- CMD_ADMQ_CTRL_WRITE (R52): a function reaches its own pair's register. -/
def execCmdAdmqCtrlWrite (fn : Fn) (lane : Lane) (v : BitVec 64) (s : State) : Out :=
  .next (s.whenKept .cmdAdmqCtrl (fnNum fn) fun s => s.writeAdmq (fnNum fn) (fnNum fn) lane v)

/-! ### QUEUE_CREATE and QUEUE_DELETE (R75) -/

/-- Queues numbered 34 and above of a function. -/
def State.queuesUsed (s : State) (fn : Nat) : Nat := (s.buhorn.queues.filter fun q => 34 ≤ q.1 && q.2.fn = fn).length

/-- Whether a queue number holds a reply queue of a function. -/
def State.replyQueueOk (s : State) (q fn : Nat) : Bool :=
  match s.queue q with
  | some x => x.kind = 1 && x.fn = fn
  | none => false

/-- The queue that a QUEUE_CREATE asks for (R74). -/
def Pend.newQueue (d : Pend) : Queue :=
  { Queue.fresh (d.par 16 1) (d.par 17 1) (fnOf (d.par 18 1)) (2 ^ d.par 19 1) with
    reply := d.par 20 1
    coalesce := d.par 21 1 + 1
    coalesceUs := d.par 22 1
    vector := d.par 24 2
    owner := d.par 26 2
    manager := d.par 28 2
    managerQueue := d.par 30 1
    base := d.par 32 8 }

/-- QUEUE_CREATE's effect: a token ring takes the records that are held for it (R60). -/
def effQueueCreate (d : Pend) (s : State) : State :=
  let x := d.newQueue
  if (s.queue d.obj).isSome || (x.kind = 2 && (s.tokenRing (x.fn - 1)).isSome) then s.finish d.id 0x13 0 0
  else if (s.part (x.fn - 1)).quota ≤ s.queuesUsed x.fn || (x.kind = 0 && !s.replyQueueOk x.reply x.fn) then
    s.finish d.id 0x12 0x13 0
  else ((s.addQueue d.obj x).drainQueue d.obj x).finish d.id 0 0 0

/-- QUEUE_CREATE (R75). -/
def execQueueCreate (c : Cmd) (s : State) : Out := .next (s.plain 0x01 c effQueueCreate)

/-- Takes a queue out with the replies held for it. -/
def State.dropQueue (s : State) (q : Nat) : State :=
  let t := { s with buhorn := { s.buhorn with
      queues := mdel s.buhorn.queues q
      heldReplies := s.buhorn.heldReplies.filter fun h => h.rq ≠ q } }
  match s.queue q with
  | some x => t.noteInflight x.fn
  | none => t

/-- QUEUE_DELETE's effect: a command queue goes once each of its accepted commands has replied. -/
def effQueueDelete (d : Pend) (s : State) : State :=
  match s.queue d.obj with
  | none => s.finish d.id 1 0 0
  | some x =>
    if (x.kind = 1 && s.buhorn.queues.any fun q => q.2.kind = 0 && q.2.reply = d.obj) ||
        (x.kind = 2 && s.anyStepping (x.fn - 1)) then s.finish d.id 0x13 0 0
    else if x.kind = 0 then
      let s := (s.modQueue d.obj fun x => { x with deleting := true, fetched := [] }).await d.id (.queueDelete d.obj)
      s.endDelete { d with wait := .queueDelete d.obj }
    else (s.dropQueue d.obj).finish d.id 0 0 0

/-- QUEUE_DELETE (R75). -/
def execQueueDelete (c : Cmd) (s : State) : Out := .next (s.plain 0x02 c effQueueDelete)

end Sys2Proof.Machine
end

