-- ==== Sys2Proof/Machine/Plan.lean ====
section
/-! DEFINITION. The plan of the classes' operating points under the effective cap, and the voltage that follows it (R424 to R428,
R435, R438 to R441). -/

set_option Elab.async false

namespace Sys2Proof.Machine

/-! ### Rails (R424, R427) -/

/-- VDD_CORE of a point in mV. -/
def coreMv (p : Nat) : Nat := 850 - 50 * min p 7

/-- VDD_SRAM of a point in mV. -/
def sramMv (p : Nat) : Nat := max 750 (900 - 50 * min p 7)

/-- VDD_MEM of a memory point in mV. -/
def memMv (m : Nat) : Nat :=
  match m with
  | 0 => 1100
  | 1 => 1000
  | _ => 950

/-- A lowering of the core point: the clocks, then VDD_CORE, then VDD_SRAM, without waiting (R428). -/
def State.lowerCore (s : State) (p : Nat) : State :=
  let s := { s with pwr := { s.pwr with confirmed := p } }
  (s.emit (.avs 0 0 (coreMv p))).emit (.avs 0 1 (sramMv p))

/-- The running entries: class, and the tile domains that it uses. -/
def State.runningWork (s : State) : List (Nat × List Nat) :=
  s.parts.flatMap fun x => match x.2.active with
    | none => []
    | some t => x.2.runs.filterMap fun r => match r.2, t.entries[r.1]? with
      | .running _, some e => some (e.cls, ((s.tilesIn (s.entryGroups x.1 e)).map fun t => t / 8).dedup)
      | _, _ => none

/-- The class of a domain that runs no entry: WAIT after a sync point at which it waited beyond the slack (R416), else IDLE. -/
def State.idleClass (s : State) (d : Nat) : Nat :=
  if s.parts.any fun x => x.2.pastSlack && (d = 100 || (s.tilesOf x.1).any fun t => t / 8 = d) then 6 else 5

/-- The point that a domain is planned to run at now (R426): that of the class it works for, the highest for the hub, and none above
the rail's. -/
def State.plannedPoint (s : State) (d : Nat) : Nat :=
  let classes := (s.runningWork.filter fun x => d = 100 || x.2.contains d).map Prod.fst
  max s.pwr.confirmed (((if classes.isEmpty then [s.idleClass d] else classes).map fun c => s.pwr.plan.getD c 7).foldl min 7)

/-- The POINT of a tile domain or of the hub (R424, R445, R446): the planned point lowered by the throttle. -/
def State.domainPoint (s : State) (d : Nat) : Nat := min 7 (s.plannedPoint d + mgetD s.pwr.throttled d 0)

/-- Keeps PWR_DOM_STAT.POINT of every tile domain, channel and the hub. -/
def State.notePoints (s : State) : State :=
  let s := (List.range 25).foldl (fun s d => s.setFld pwrDomStat_point d (s.domainPoint d)) s
  let s := (List.range 64).foldl (fun s c => s.setFld pwrDomStat_point (25 + c) s.pwr.memPoint) s
  s.setFld pwrDomStat_point 100 (s.domainPoint 100)

/-- The memory rail takes a point (R425, R428): at once where it falls; where it rises, the clock waits for VDone. A rail that is held
stays (R429). -/
def State.setMem (s : State) (m : Nat) : State :=
  if s.pwr.memPoint = m || 4 ≤ s.fld pwrAvsStat_held 0 && m < s.pwr.memPoint then s
  else if s.pwr.memPoint < m then ({ s with pwr := { s.pwr with memPoint := m } }).emit (.avs 1 0 (memMv m))
  else
    match s.pwr.raise with
    | some _ => s
    | none => ({ s with pwr := { s.pwr with raise := some ⟨s.pwr.confirmed, some m, [2], s.now, 0, 0⟩ } }).emit (.avs 1 0 (memMv m))

/-! ### Shares (R441) -/

/-- The units that an entry names: tile groups 0 to 23, channels as 24 + c, the hub as 88. -/
def State.entryUnits (s : State) (p : Nat) (e : Entry) : List Nat :=
  let groups := s.entryGroups p e
  let chans := (List.range 64).filterMap fun c => if e.channels / 2 ^ c % 2 = 1 then some (24 + c) else none
  groups ++ chans ++ [88]

/-- The entries of the active tables: partition, period and entry. -/
def State.activeEntries (s : State) : List (Nat × Nat × Entry) :=
  s.parts.flatMap fun x => match x.2.active with
    | some t => t.entries.map fun e => (x.1, t.period, e)
    | none => []

/-- The engine-time that the active tables give to a class, every one of the 89 units weighing the same. Time in no entry counts
as IDLE. -/
def State.classShare (s : State) (c : Nat) : Rat :=
  let given (f : Entry → Bool) : Rat := (s.activeEntries.filter fun x => f x.2.2).foldl (fun a x =>
    a + ((s.entryUnits x.1 x.2.2).length * x.2.2.budget : Rat) / (x.2.1 : Rat)) 0
  let own := given (fun e => e.cls = c) / 89
  if c = 5 then own + max 0 (1 - given (fun _ => true) / 89) else own

/-- The need of a class at a point: learned, or that of the class table while falling back (R438, R442). -/
def State.need (s : State) (c p : Nat) : Rat :=
  if s.flag pwrCtrlStat_fallback 0 then (conservativeNeed c p : Rat) else s.pwr.needs.getD (c * 8 + p) 0

/-- The power that a plan predicts. -/
def State.predict (s : State) (plan : List Nat) : Rat :=
  plan.zipIdx.foldl (fun a x => a + s.classShare x.2 * s.need x.2 x.1) 0

/-- A class's preferred point: the highest that a partition with an active table prefers, else that of reset (R440). -/
def State.preferred (s : State) (c : Nat) (field : Nat → Field) : Nat :=
  let wants := (s.parts.filter fun x => x.2.active.isSome).map fun x => s.fld (field c) x.1
  match wants with
  | [] => resetPoint c
  | w :: ws => ws.foldl min w

/-- The order in which classes are lowered (R441). -/
def lowerOrder : List Nat := [5, 6, 3, 4, 0, 1, 2]

/-- One point lower for the first class of the order that is above P7. -/
def lowerOne (plan : List Nat) : Option (Nat × List Nat) :=
  (lowerOrder.find? fun c => plan.getD c 7 < 7).map fun c => (c, plan.set c (plan.getD c 7 + 1))

/-- Lowers a plan until it predicts no more than the cap. -/
def State.fitPlan (s : State) (cap : Nat) : Nat → List Nat → List Nat
  | 0, plan => plan
  | fuel + 1, plan =>
    if s.predict plan ≤ (cap : Rat) then plan
    else
      match lowerOne plan with
      | some (_, q) => State.fitPlan s cap fuel q
      | none => plan

/-- The effective cap, 1,800 W where no cap is lower (R435). -/
def State.cap (s : State) : Nat := if s.fld pwrCap_effective 0 = 0 then 1800 else s.fld pwrCap_effective 0

/-- The preferred point's field of a class (R440). -/
def classPointField (c : Nat) : Field :=
  match c with
  | 0 => pwrClassPoint_prefill
  | 1 => pwrClassPoint_decodeDense
  | 2 => pwrClassPoint_decodeThin
  | 3 => pwrClassPoint_migrate
  | 4 => pwrClassPoint_fill
  | 5 => pwrClassPoint_idle
  | _ => pwrClassPoint_wait

/-- The preferred points of every class. -/
def State.preferredPlan (s : State) : List Nat := (List.range 7).map fun c => s.preferred c classPointField

/-- The plan that the cap allows, with the further points that the capping loop has lowered (R441): no point lies above that of the
power limit (R445) or of a rail that is held (R429). -/
def State.planUnder (s : State) : List Nat :=
  let plan := s.fitPlan s.cap 56 s.preferredPlan
  let low := s.pwr.lowered.foldl (fun q c => q.set c (min 7 (q.getD c 7 + 1))) plan
  let least := max (if s.pwr.limitOn then s.fld pwrLimitCfg_point 0 else s.pwr.floor)
    (if s.fld pwrAvsStat_held 0 % 4 = 0 then 0 else s.pwr.confirmed)
  low.map (max least)

/-- The highest point of a plan. -/
def topPoint (plan : List Nat) : Nat := plan.foldl min 7

/-- A raise of the core rails to a point that the plan no longer allows is given up: the voltages return to those of the confirmed point. -/
def State.dropRaise (s : State) (top : Nat) : State :=
  match s.pwr.raise with
  | some r => if r.mem.isNone && r.point < top then ({ s with pwr := { s.pwr with raise := none } }).lowerCore (max s.pwr.confirmed top) else s
  | none => s

/-- Plans every class's point for the next cycle (R441): the memory rail goes to M1 when every class at P7 still exceeds the cap.
The core voltage falls at once where the plan allows it; a raise is an exchange of its own. -/
def State.planPoints (s : State) : State :=
  let plan := s.planUnder
  let hot := !s.pwr.m1.isEmpty
  let m1 := (plan.all (· = 7)) && decide ((s.cap : Rat) < s.predict plan)
  let s := { s with pwr := { s.pwr with plan := plan } }
  let s := if s.fld pwrDevStat_state 0 = 0 then s.setMem (if m1 || hot then 1 else 0) else s
  let s := s.dropRaise (topPoint plan)
  (if s.pwr.confirmed < topPoint plan && s.pwr.raise.isNone then s.lowerCore (topPoint plan) else s).notePoints

end Sys2Proof.Machine
end

