-- ==== Sys2Proof/Machine/Admin.lean ====
section
/-! DEFINITION. The administration, power and tenant commands that change registers and tables at their effect: IDENTIFY,
ROLE_SET, PARTITION_CONFIG, PWR_CLASS_POINT, PWR_CAP_SET, JOB_ENERGY, TENANT_SET, TENANT_QUERY, NOP, and the refusal of
unlisted opcodes. -/

set_option Elab.async false

namespace Sys2Proof.Machine

/-! ### IDENTIFY (R532) -/

/-- Bytes of a 384-bit digest, first byte first. -/
def digestBytes (d : BitVec 384) : List (BitVec 8) := (List.range 48).map fun i => BitVec.ofNat 8 (d.toNat / 2 ^ (8 * (47 - i)))

/-- The identity structure as a function reads it. -/
def State.identity (s : State) (fn : Nat) : List (BitVec 8) :=
  let w (r : Reg) : List (BitVec 8) := leBytes 8 (s.readReg fn r 0).toNat
  let device := match s.sec.identity with
    | some x => digestBytes (Config.sha384 x.device)
    | none => leBytes 48 0
  let image := match s.sec.image with
    | some x => digestBytes x.1
    | none => leBytes 48 0
  w .glbId ++ w .glbCap0 ++ w .glbCap1 ++ w .glbLifecycle ++ w .glbFn ++ device ++ image ++
    leBytes 1 (s.fld secBoot_svn 0) ++ leBytes 1 (s.fld secBoot_svnFloor 0) ++ leBytes 2 0 ++
    leBytes 2 (s.fld asfNode_node 0) ++ leBytes 1 (s.fld asfNode_fdom 0) ++ leBytes 1 0 ++
    leBytes 4 (if s.ftl.inService then s.granules else 0) ++ leBytes 3948 0

/-- IDENTIFY's effect. -/
def effIdentify (d : Pend) (s : State) : State := (s.putBuffer d (d.par 16 8) (s.identity d.fn)).finish d.id 0 0 0

/-- IDENTIFY (R532). -/
def execIdentify (c : Cmd) (s : State) : Out := .next (s.plain 0x00 c effIdentify)

/-! ### ROLE_SET (R3) -/

/-- ROLE_SET's effect: only with no sequence handle open. The default armature tables that R2 says a role selects have no content in the
spec, and the model holds none (DESIGN CHOICE, log 133). -/
def effRoleSet (d : Pend) (s : State) : State :=
  if s.seqs.all (fun x => x.2.state = .free) then ((s.setFld glbFn_role 0 (d.par 16 1)).askSlices).finish d.id 0 0 0 else s.finish d.id 0x13 0 0

/-- ROLE_SET (R3). -/
def execRoleSet (c : Cmd) (s : State) : Out := .next (s.plain 0x03 c effRoleSet)

/-! ### PARTITION_CONFIG (R172 to R174, R258) -/

/-- Gives a group to a partition. -/
def State.ownGroup (s : State) (p g : Nat) : State := (s.setFld prmGroup_state g 1).setFld prmGroup_owner g p

/-- Releases a group: its accumulators are cleared and its operand buffers are marked empty (R172). A replacement or a withdrawal
that waited for the owner's boundary takes effect with it. -/
def State.idleGroup (s : State) (g : Nat) : State :=
  let tiles := (List.range 8).map fun i => s.fld prmTileMap_physical (8 * g + i)
  let s := (((s.setFld prmGroup_state g 0).setFld prmGroup_owner g 0).emptyTiles tiles.contains).clearAcc tiles.contains
  let s := (s.prm.replace.filter fun r => r.1 / 8 = g).foldl (fun s r => s.replaceTile r.1 r.2) s
  if s.prm.withdraw.contains g then s.withdraw g else s

/-- Sets the number of groups that a partition owns: the lowest-numbered free ones come, the highest-numbered owned ones
go. -/
def State.setGroups (s : State) (p n : Nat) : State :=
  let own := s.groupsOf p
  let s := if own.length ≤ n then
      (((List.range 24).filter fun g => s.fld prmGroup_state g = 0).take (n - own.length)).foldl (fun s g => s.ownGroup p g) s
    else (own.drop n).foldl State.idleGroup s
  (s.setFld prmPart_groups p (s.groupsOf p).length).noteGroups

/-- Whether a table names a group beyond `n` or a channel outside `mask` (R258). -/
def Table.exceeds (t : Table) (n mask : Nat) : Bool :=
  t.entries.any fun e => 2 ^ n ≤ e.tiles || (List.range 64).any fun c => e.channels / 2 ^ c % 2 = 1 && mask / 2 ^ c % 2 = 0

/-- Whether an absent or present table exceeds a slice. -/
def tableExceeds (t : Option Table) (n mask : Nat) : Bool :=
  match t with
  | some t => t.exceeds n mask
  | none => false

/-- Partitions marked privileged. -/
def State.privileged (s : State) : List Nat := (List.range 16).filter fun p => s.flag prmPart_privileged p

/-- PARTITION_CONFIG's effect. -/
def effPartitionConfig (d : Pend) (s : State) : State :=
  let p := d.obj
  let n := d.par 16 1
  let priv := d.par 17 1 = 1
  let quota := d.par 18 1
  let mask := d.par 24 8
  let own := s.groupsOf p
  let x := s.part p
  if own.length + s.fld prmStatus_groupsFree 0 < n || (priv && !s.flag prmPart_privileged p && 4 ≤ s.privileged.length) then
    s.finish d.id 0x12 0 0
  else if (n ≠ own.length && s.seqs.any fun q => q.2.part = p && (q.2.state = .prefilling || q.2.state = .stepping)) ||
      tableExceeds x.active n mask || tableExceeds x.shadow n mask || quota < s.queuesUsed (fnOf p) then
    s.finish d.id 0x13 0 0
  else
    let s := (s.setGroups p n).setFlag prmPart_privileged p priv
    (s.modPart p fun x => { x with channelMask := mask, quota := quota }).finish d.id 0 0 0

/-- PARTITION_CONFIG (R172). -/
def execPartitionConfig (c : Cmd) (s : State) : Out := .next (s.plain 0x04 c effPartitionConfig)

/-! ### Power commands (R435, R440, R449) -/

/-- PWR_CLASS_POINT's effect, at a boundary of its partition. -/
def effPwrClassPoint (d : Pend) (s : State) : State :=
  (s.setFld (classPointField (d.par 16 1)) d.obj (d.par 17 1)).afterRelease d 0 0 0

/-- PWR_CLASS_POINT (R440). -/
def execPwrClassPoint (c : Cmd) (s : State) : Out := .next (s.plain 0x60 c effPwrClassPoint)

/-- PWR_CAP_SET's effect: the cap enters the effective cap at the next window (R435). -/
def effPwrCapSet (d : Pend) (s : State) : State := (s.setFld pwrCap_host 0 (d.par 16 2)).finish d.id 0 0 0

/-- PWR_CAP_SET (R435). -/
def execPwrCapSet (c : Cmd) (s : State) : Out := .next (s.plain 0x61 c effPwrCapSet)

/-- The energy in µJ that a function reads for a job (R449). -/
def State.jobEnergy (s : State) (fn job : Nat) : Nat :=
  if fn = 0 then
    if job = 0 then s.pwr.unattrUj else ((s.pwr.jobs.filter fun j => j.1 % 2 ^ 32 = job).map Prod.snd).sum
  else if job = 0 then mgetD s.pwr.unattr (fn - 1) 0
  else mgetD s.pwr.jobs ((fn - 1) * 2 ^ 32 + job) 0

/-- Releases the entries of a job that a function sees. -/
def State.clearJob (s : State) (fn job : Nat) : State :=
  let s := { s with pwr := { s.pwr with jobs := mfilter s.pwr.jobs fun k _ => k % 2 ^ 32 ≠ job || (fn ≠ 0 && k / 2 ^ 32 ≠ fn - 1) } }
  s.setFld pwrJobStat_entries 0 s.pwr.jobs.length

/-- JOB_ENERGY's effect. -/
def effJobEnergy (d : Pend) (s : State) : State :=
  let e := s.jobEnergy d.fn d.obj / 1000
  (if d.par 16 1 = 1 then s.clearJob d.fn d.obj else s).finish d.id 0 0 (e % 2 ^ 64)

/-- JOB_ENERGY (R449). -/
def execJobEnergy (c : Cmd) (s : State) : Out := .next (s.plain 0x62 c effJobEnergy)

/-! ### Tenants (R253 to R257) -/

/-- Whether a tenant is assigned to a partition. -/
def State.tenantIn (s : State) (t p : Nat) : Bool := s.flag schTenant_valid t && s.fld schTenant_partition t = p

/-- Whether a function may act on a tenant: its own partition's, or for the management function any valid one (R67). -/
def State.tenantAllowed (s : State) (fn p t : Nat) : Bool :=
  if fn = 0 then s.tenantIn t p else s.tenantIn t (fn - 1)

/-- The budget of a tenant; unlimited before its first TENANT_SET. -/
def State.tenant (s : State) (t : Nat) : Tenant := mgetD s.tenants t ⟨0, 0, 0, 0, 0⟩

/-- Whether a tenant is unlimited (R254). -/
def Tenant.unlimited (x : Tenant) : Bool := x.rate = 0 && x.burst = 0

/-- Gives a tenant its budget, and shows it in its registers. -/
def State.setTenant (s : State) (t : Nat) (x : Tenant) : State :=
  ({ s with tenants := mset s.tenants t x }.setFlag schTenant_unlimited t x.unlimited).setFldInt schTenantBudget_budget t x.budget

/-- TENANT_SET's new budget (R254). -/
def Tenant.set (x : Tenant) (rate burst now : Nat) : Tenant :=
  let full : Int := burst * 65536
  if x.unlimited then ⟨rate, burst, full, 0, now⟩ else { x with rate := rate, burst := burst, budget := min x.budget full }

/-- TENANT_SET's effect. -/
def effTenantSet (d : Pend) (s : State) : State :=
  if s.tenantAllowed d.fn d.part d.obj then
    (s.setTenant d.obj ((s.tenant d.obj).set (d.par 16 4) (d.par 20 4) s.now)).afterRelease d 0 0 0
  else s.afterRelease d 0x30 0 0

/-- TENANT_SET (R254). -/
def execTenantSet (c : Cmd) (s : State) : Out := .next (s.plain 0x70 c effTenantSet)

/-- The budget in whole tokens as TENANT_QUERY gives it (R257). -/
def wholeTokens (b : Int) : Nat :=
  let t := max (-(2 ^ 31 : Int)) (min (2 ^ 31 - 1) (b / 65536))
  (t % 2 ^ 32).toNat

/-- TENANT_QUERY's effect. -/
def effTenantQuery (d : Pend) (s : State) : State :=
  if s.tenantAllowed d.fn (s.fld schTenant_partition d.obj) d.obj then s.finish d.id 0 0 (wholeTokens (s.tenant d.obj).budget)
  else s.finish d.id 0x30 0 0

/-- TENANT_QUERY (R257). -/
def execTenantQuery (c : Cmd) (s : State) : Out := .next (s.plain 0x71 c effTenantQuery)

/-! ### NOP and unlisted opcodes (R66, R74) -/

/-- NOP's effect. -/
def effNop (d : Pend) (s : State) : State := s.finish d.id 0 0 0

/-- NOP (R74). -/
def execNop (c : Cmd) (s : State) : Out := .next (s.plain 0xF0 c effNop)

/-- A packet whose opcode no table lists is refused with BAD_OPCODE (R66). -/
def State.badOpcode (s : State) (c : Cmd) : State :=
  if !s.live || listedOps.contains c.pkt.opcode.toNat then s
  else
    match s.queue c.queue.toNat with
    | some q => if !q.offers c.pkt (s.inService c.queue.toNat) || s.mustWait q.fn c then s else s.refuse c 0x10
    | none => s

/-- BAD_OPCODE_COMMAND (R66). -/
def execBadOpcodeCommand (c : Cmd) (s : State) : Out := .next (s.badOpcode c)

end Sys2Proof.Machine
end

