-- ==== Sys2Proof/Machine/Control.lean ====
section
/-! DEFINITION. The control copy that a home writes into its slice at each boundary: command list, armature table, stretch factor, tenant
entries (R82, R381, R383, R393). R381 gives the area and what it holds, not its layout: each partition has a sixteenth of a copy, with the
counts first, then the commands, the table and the tenants (DESIGN CHOICE, log 120). -/

set_option Elab.async false

namespace Sys2Proof.Machine

/-! ### Places -/

/-- The part of a partition in copy `c` of the CONTROL area. -/
def sliceControl (c p : Nat) : Nat := 0x10100000 + 0x5000000 * c + 0x500000 * p

/-- Where its commands, its table and its tenants start. -/
def controlCmds : Nat := 64
def controlTable : Nat := 64 + 64 * 65536
def controlTenants : Nat := controlTable + 32 * 4096

/-! ### Contents -/

/-- What the loss of the device makes of an accepted, unreplied command (R393): 0 it took effect and its reply waits, 1 a SEQ_PROMPT
whose first token has not committed, 3 a STATE_MOVE under way, 2 not yet in effect. -/
def Pend.lostKind (d : Pend) : Nat :=
  match d.wait with
  | .release _ | .records _ | .freed _ | .firstStep | .mirror | .fetch _ _ _ => 0
  | .firstToken => 1
  | .move => 3
  | _ => 2

/-- A command of the list, in 64 bytes: TAG, OPCODE, queue, manager reply queue, kind, status, handle, manager node, effect tick, RESULT. -/
def Pend.listed (d : Pend) (q : Queue) : List (BitVec 8) :=
  leBytes 2 d.tag ++ leBytes 1 d.op ++ leBytes 1 d.queue ++ leBytes 1 q.managerQueue ++ leBytes 1 d.lostKind ++ leBytes 1 d.status ++
    leBytes 1 0 ++ leBytes 4 d.handle ++ leBytes 2 q.manager ++ leBytes 2 0 ++ leBytes 8 d.effTick ++ leBytes 8 d.result ++ leBytes 32 0

/-- The accepted, unreplied commands of a partition, oldest first. -/
def State.commandList (s : State) (p : Nat) : List (List (BitVec 8)) :=
  (s.cmdsWhere fun c => c.fn = fnOf p).filterMap fun c => (s.queue c.queue).map c.listed

/-- A table entry in the 32 bytes of R239. -/
def Entry.bytes (e : Entry) : List (BitVec 8) :=
  leBytes 4 e.start ++ leBytes 4 e.budget ++ leBytes 4 (e.weightSet * 2 ^ 16 + e.kernel * 2 ^ 8 + e.layer) ++ leBytes 1 e.cls ++
    leBytes 1 (bit e.sync) ++ leBytes 2 0 ++ leBytes 4 e.tiles ++ leBytes 8 e.channels ++ leBytes 2 e.engines ++ leBytes 2 0

/-- A tenant's entry in 32 bytes: its number, rate, burst, and budget. -/
def Tenant.bytes (t : Tenant) (n : Nat) : List (BitVec 8) :=
  leBytes 2 n ++ leBytes 6 0 ++ leBytes 4 t.rate ++ leBytes 4 t.burst ++ leBytes 8 (t.budget % 2 ^ 64).toNat ++ leBytes 8 0

/-- The tenants of a partition. -/
def State.tenantsOf (s : State) (p : Nat) : List (Nat × Tenant) :=
  s.tenants.filter fun t => s.flag schTenant_valid t.1 && s.fld schTenant_partition t.1 = p

/-- The head of a partition's part: the counts of commands, table entries and tenants, the stretch factor and the table's period, then
SCH_GROUP and the pending swap's tick, which a spare takes of a lost member (R396). -/
def State.controlHead (s : State) (p : Nat) : List (BitVec 8) :=
  let table := (s.part p).active
  leBytes 4 (s.commandList p).length ++ leBytes 4 ((table.map fun t => t.entries.length).getD 0) ++ leBytes 4 (s.tenantsOf p).length ++
    leBytes 4 (s.fld schPeriod_stretch p) ++ leBytes 8 ((table.map fun t => t.period).getD 0) ++
    leBytes 8 (s.reg .schGroup p).toNat ++ leBytes 8 ((s.part p).swapTick.getD 0) ++ leBytes 24 0

/-! ### Shipping (R383 step 2) -/

/-- Writes a partition's control copy into copy `c` at a partner, ahead of the commit record on the same connection. -/
def State.shipControl (s : State) (p step c node : Nat) : State :=
  let at_ := sliceControl c p
  let table := match (s.part p).active with
    | some t => t.entries.flatMap Entry.bytes
    | none => []
  let parts := [(0, s.controlHead p), (controlCmds, (s.commandList p).flatten), (controlTable, table),
    (controlTenants, (s.tenantsOf p).flatMap fun t => t.2.bytes t.1)]
  (parts.filter fun x => !x.2.isEmpty).foldl (fun s x => s.shipAt node 0 (at_ + x.1) x.2 (.control p step)) s

end Sys2Proof.Machine
end

