-- ==== Sys2Proof/Machine/Schedule.lean ====
section
/-! DEFINITION. Armature tables: the entry's layout, the checks of SCH_TABLE_LOAD, and the swap (R238 to R249). -/

set_option Elab.async false

namespace Sys2Proof.Machine

/-! ### The entry (R239) -/

/-- Bytes `b` to `b + n - 1` of an entry of 32 bytes. -/
def rowNum (r : BitVec 256) (b n : Nat) : Nat := r.toNat / 2 ^ (8 * b) % 2 ^ (8 * n)

/-- An entry as its bytes give it. -/
def Entry.ofRow (r : BitVec 256) : Entry where
  start := rowNum r 0 4
  budget := rowNum r 4 4
  weightSet := rowNum r 10 2
  kernel := rowNum r 9 1
  layer := rowNum r 8 1
  cls := rowNum r 12 1 % 8
  sync := rowNum r 13 1 % 2 = 1
  tiles := rowNum r 16 4
  channels := rowNum r 20 8
  engines := rowNum r 28 2

/-- Whether an entry's reserved bits are 0. -/
def rowReservedOk (r : BitVec 256) : Bool :=
  rowNum r 12 1 < 8 && rowNum r 13 1 < 2 && rowNum r 14 2 = 0 && rowNum r 16 4 < 2 ^ 24 && rowNum r 28 2 < 32 && rowNum r 30 2 = 0

/-- The end of an entry. -/
def Entry.finish (e : Entry) : Nat := e.start + e.budget

/-- Whether an entry is a generation entry. -/
def Entry.decodes (e : Entry) : Bool := e.cls = 1 || e.cls = 2

/-- The bytes of an entry. -/
def rowBytes (r : BitVec 256) : List (BitVec 8) := leBytes 32 r.toNat

/-- The digest of a table (R241): the CRC-32C over its entries and its period. -/
def tableDigest (rows : List (BitVec 256)) (period : Nat) : BitVec 32 := crc32c (rows.flatMap rowBytes ++ leBytes 8 period)

/-! ### The checks (R241) -/

/-- KERNELS of a layer of a set (R84). -/
def WeightSet.kernels (w : WeightSet) (l : Nat) : Nat := geoNum w.geometry (276 + l) 1

/-- LAYERS of a set. -/
def WeightSet.layerCount (w : WeightSet) : Nat := geoLayers w.geometry

/-- Whether a layer is held in processor layout, and in operand layout. -/
def WeightSet.thin (w : WeightSet) (l : Nat) : Bool :=
  match mget w.layers l with
  | some x => x.processor
  | none => false
def WeightSet.dense (w : WeightSet) (l : Nat) : Bool :=
  match mget w.layers l with
  | some x => x.operand
  | none => false

/-- Whether an entry's ID names work that exists: nothing for the three classes without a kernel, else a layer and a kernel of
a loaded set, with attention in thin and prefill entries alone. -/
def State.idOk (s : State) (e : Entry) : Bool :=
  if 3 ≤ e.cls then e.weightSet = 0 && e.kernel = 0 && e.layer = 0
  else
    match mget s.weights e.weightSet with
    | some w => !w.busy && e.layer < w.layerCount && (if e.kernel = 255 then e.cls ≠ 1 else e.kernel < w.kernels e.layer)
    | none => false

/-- Whether an entry is in range for a partition with `n` groups and a channel mask. -/
def State.entryOk (s : State) (n mask period : Nat) (e : Entry) : Bool :=
  e.cls ≤ 5 && e.start < period && 1 ≤ e.budget && e.budget ≤ period - e.start && e.tiles < 2 ^ n &&
    e.channels &&& mask = e.channels && (if e.cls ≤ 1 then e.engines % 2 = 1 else true) &&
    (if e.cls = 2 then e.engines / 2 % 2 = 1 else true) && s.idOk e

/-- Whether the entries are in ascending START. -/
def ascending : List Entry → Bool
  | [] => true
  | [_] => true
  | a :: b :: es => a.start ≤ b.start && ascending (b :: es)

/-- Whether no two entries whose intervals overlap share a tile group. -/
def tilesApart : List Entry → Bool
  | [] => true
  | e :: es => (es.all fun x => e.finish ≤ x.start || x.finish ≤ e.start || e.tiles &&& x.tiles = 0) && tilesApart es

/-- The generation entries of a set's layer. -/
def Table.decodesOf (t : Table) (set layer : Nat) : List Entry :=
  t.entries.filter fun e => e.decodes && e.weightSet = set && e.layer = layer

/-- Whether a layer of a set has its attention entry and, for every weight kernel, an entry on a path that its layouts allow. -/
def Table.coversLayer (t : Table) (w : WeightSet) (set l : Nat) : Bool :=
  let es := t.decodesOf set l
  es.any (fun e => e.cls = 2 && e.kernel = 255) && (List.range (w.kernels l)).all fun k =>
    es.any fun e => e.kernel = k && ((e.cls = 2 && w.thin l) || (e.cls = 1 && w.dense l))

/-- Whether a layer's entries start no earlier than the end of the last entry of the layer before it. -/
def Table.layerAfter (t : Table) (set l : Nat) : Bool :=
  l = 0 || (t.decodesOf set l).all fun e => (t.decodesOf set (l - 1)).all fun x => x.finish ≤ e.start

/-- The coverage condition of R241 for a set. -/
def State.covers (s : State) (t : Table) (set : Nat) : Bool :=
  match mget s.weights set with
  | some w => (List.range w.layerCount).all fun l => t.coversLayer w set l && t.layerAfter set l
  | none => false

/-- Whether SCH_TABLE_LOAD takes a table. -/
def State.tableOk (s : State) (p : Nat) (rows : List (BitVec 256)) (t : Table) : Bool :=
  rows.all rowReservedOk && t.entries.all (s.entryOk (s.groupsOf p).length (s.part p).channelMask t.period) &&
    ascending t.entries && tilesApart t.entries && (t.entries.filter fun e => e.sync).length ≤ 63 &&
    ((t.entries.filter Entry.decodes).map fun e => e.weightSet).dedup.all (s.covers t)

/-! ### Load and swap (R246 to R249) -/

/-- S held to 8,192 and to the largest value that keeps the period at or below 4,000,000,000 ticks (R271). -/
def heldStretch (period f : Nat) : Nat := min (min f 8192) (4000000000 * 1024 / period)

/-- Keeps ACTIVE_VALID, SHADOW_VALID, SWAP_PENDING, SCH_PERIOD and SCH_SWAP_TICK. -/
def State.noteTables (s : State) (p : Nat) : State :=
  let x := s.part p
  let s := (s.setFlag schPart_activeValid p x.active.isSome).setFlag schPart_shadowValid p x.shadow.isSome
  let s := s.setFlag schPart_swapPending p x.swapTick.isSome
  let s := s.setFld schSwapTick_tick p (x.swapTick.getD 0)
  s.setFld schPeriod_period p (match x.active with
    | some t => ceilDiv (t.period * s.fld schPeriod_stretch p) 1024
    | none => 0)

/-- SCH_TABLE_LOAD's effect. -/
def effSchTableLoad (rows : List (BitVec 256)) (d : Pend) (s : State) : State :=
  let rows := rows.take (d.par 24 2)
  let t : Table := ⟨rows.map Entry.ofRow, d.par 32 8, tableDigest rows (d.par 32 8)⟩
  if (s.part d.part).swapTick.isSome then s.finish d.id 0x13 0 0
  else if !s.tableOk d.part rows t then s.finish d.id 0x11 0 0
  else ((s.modPart d.part fun x => { x with shadow := some t }).noteTables d.part).finish d.id 0 0 0

/-- SCH_TABLE_LOAD (R246). -/
def execSchTableLoad (c : Cmd) (rows : List (BitVec 256)) (s : State) : Out :=
  .next (s.command 0x30 c [] 0 (effSchTableLoad rows))

/-- SCH_TABLE_SWAP's effect. -/
def effSchTableSwap (d : Pend) (s : State) : State :=
  let x := s.part d.part
  if d.par 16 8 < d.accTick then s.finish d.id 0x11 0 0
  else if x.shadow.isNone || x.swapTick.isSome then s.finish d.id 0x13 0 0
  else ((s.modPart d.part fun x => { x with swapTick := some (d.par 16 8) }).noteTables d.part).await d.id .swap

/-- SCH_TABLE_SWAP (R247). -/
def execSchTableSwap (c : Cmd) (s : State) : Out := .next (s.plain 0x31 c effSchTableSwap)

/-- The swap command of a partition that waits. -/
def State.swapCmds (s : State) (p : Nat) : List Pend := s.cmdsWhere fun c => c.wait = .swap && c.part = p

/-- The shadow table takes over at a boundary at or after the swap tick; it is disarmed when it breaks the coverage of a
STEPPING sequence's set (R248). The stretch in force applies to it (R249). -/
def State.takeOver (s : State) (p : Nat) : State :=
  let x := s.part p
  match x.swapTick, x.shadow with
  | some t, some new =>
    if s.now < t then s
    else
      let cmds := s.swapCmds p
      if s.seqs.any fun q => q.2.part = p && q.2.state = .stepping && !s.covers new q.2.model then
        let s := (s.modPart p fun x => { x with swapTick := none }).noteTables p
        cmds.foldl (fun s c => s.finish c.id 0x13 0 0) s
      else
        let s := s.modPart p fun x => { x with active := some new, shadow := none, swapTick := none, gone := [] }
        let s := (s.setFld schPeriod_stretch p (heldStretch new.period (s.fld schPeriod_stretch p))).noteTables p
        cmds.foldl (fun s c => (s.modCmd c.id fun c => { c with effTick := s.now }).finish c.id 0 0 0) s
  | _, _ => s

end Sys2Proof.Machine
end

