-- ==== Sys2Proof/Machine/Commit.lean ====
section
/-! DEFINITION. The commit of a step, of a prefill pass and of a chunk at a boundary, and what each committed sequence ships
(R26 to R32, R114, R166, R168, R188 to R194, R255, R383, R384, R397). -/

set_option Elab.async false

namespace Sys2Proof.Machine

/-! ### The tenant's charge (R255) -/

/-- Charges a tenant: an unlimited one is not charged, and a budget is held at no less than −2^47. -/
def State.chargeTenant (s : State) (t : Nat) (units : Nat) : State :=
  let x := s.tenant t
  if x.unlimited then s else s.setTenant t { x with budget := max (-(2 ^ 47 : Int)) (x.budget - units) }

/-! ### Draft length control (R168) -/

/-- SPEC after a commit, with `a` tokens accepted of `k` drafted. -/
def Seq.specAfter (q : Seq) (k a : Nat) : Seq :=
  if 0 < k then
    let q :=
      if a = 0 then
        if q.zeroRun + 1 = 4 then { q with kCur := q.kCur / 2, zeroRun := 0, fullRun := 0 }
        else { q with zeroRun := q.zeroRun + 1, fullRun := 0 }
      else if a = k then
        if q.fullRun + 1 = 4 then { q with kCur := min (2 * q.kCur) q.kMax, zeroRun := 0, fullRun := 0 }
        else { q with zeroRun := 0, fullRun := q.fullRun + 1 }
      else { q with zeroRun := 0, fullRun := 0 }
    let q := if q.kCur = 0 then { q with probe := 0 } else q
    if q.probing && a = 1 then { q with kCur := 1 } else q
  else if 0 < q.kMax then { q with probe := min 64 (q.probe + 1) }
  else q

/-- The counts of GEN_SPEC_STAT at a commit: a halving that lowers K_CUR, and a probe accepted. -/
def State.countSpec (s : State) (q : Seq) (k a : Nat) : State :=
  let s := if 0 < k && a = 0 && q.zeroRun + 1 = 4 && 0 < q.kCur then s.bump genSpecStat_halvings q.part 1 else s
  if q.probing && a = 1 && k = 1 then s.bump genSpecStat_probesAccepted q.part 1 else s

/-! ### Tokens -/

/-- The tokens that commit: those up to the first stop token, and no more than the length limit leaves. -/
def Seq.keeps (q : Seq) (toks : List Nat) : List Nat :=
  let upTo := match toks.findIdx? q.stops.contains with
    | some i => toks.take (i + 1)
    | none => toks
  upTo.take (min q.limit 4194304 - q.length)

/-- The reason with which a sequence is DONE after committing tokens, if it is (R31, R32). -/
def Seq.ends (q : Seq) (toks : List Nat) : Option Nat :=
  if toks.getLast?.any q.stops.contains then some 0
  else if min q.limit 4194304 ≤ q.length + toks.length then some 1
  else none

/-- The token records of tokens from a position upwards. -/
def tokenRecs (h step : Nat) : Nat → List Nat → List TokRec
  | _, [] => []
  | pos, t :: ts => ⟨h, 0, 0, t, pos, step % 2 ^ 32⟩ :: tokenRecs h step (pos + 1) ts

/-- Marks a committed sequence as waiting for the mirror's acknowledgement of the step. -/
def State.markStep (s : State) (h step : Nat) : State :=
  s.modSeq h fun q => { q with lastStep := step % 2 ^ 32, unacked := some step }

/-- A sequence's commit is shipped behind the boundary, from a position and a page-list index upwards (R26). -/
def State.owe (s : State) (p step h from_ first : Nat) : State :=
  s.modPart p fun x => { x with commits := x.commits.map fun k => if k.step = step then { k with fresh := k.fresh ++ [(h, from_, first)] } else k }

/-- Generated tokens commit: the length and the journal advance, the records join the step's, the tenant is charged, and the
manager's copy of them is waited for. -/
def State.addTokens (s : State) (p h step : Nat) (q : Seq) (toks : List Nat) : State :=
  let s := s.modSeq h fun q =>
    { q with
      length := q.length + toks.length
      tail := if toks.isEmpty then q.tail else true
      journal := q.journal ++ toks.map (BitVec.ofNat 32)
      kinds := q.kinds ++ toks.map fun _ => true
      appended := 0
      written := []
      selected := none }
  let s := (s.addRecs p h (tokenRecs h step q.length toks)).chargeTenant q.tenant (65536 * toks.length)
  (if toks.isEmpty then s else s.markJournal h step).markStep h step

/-- A sequence ends at a commit: DONE with its reason, its completion record behind the tokens. -/
def State.commitDone (s : State) (p h reason : Nat) : State :=
  match s.seq h with
  | none => s
  | some q =>
    let q' := { q with reason := reason, ring := none, draft := 0, probing := false }
    ((s.modSeq h fun _ => q').become h .done).addRecs p h [s.completion p h q']

/-! ### A generation step -/

/-- Whether a sequence of the batch commits the step. -/
def Seq.commits (q : Seq) : Bool :=
  q.state = .stepping && !q.dropped && !q.poisoned && !q.copying && q.mirror.isSome && q.unacked.isNone && q.unjournaled.isNone

/-- One sequence of the batch commits its step; without a selection nothing of it commits. -/
def State.commitStep (s : State) (p step h : Nat) : State :=
  match s.seq h with
  | none => s
  | some q =>
    match if q.commits && s.journalTakes q (q.length + (q.selected.map fun x => x.tokens.length).getD 0) then q.selected else none with
    | none => s.modSeq h fun q => { q with appended := 0, written := [], selected := none }
    | some x =>
      let toks := q.keeps x.tokens
      let s := if q.speculate then (s.countSpec q x.drafted x.accepted).modSeq h fun q => q.specAfter x.drafted x.accepted else s
      let s := s.addTokens p h step q toks
      let s := (s.cmdsWhere fun c => c.waitsStep p h).foldl (fun s c => s.afterRelease c 0 0 0) s
      let s := match q.ends toks with
        | some r => s.commitDone p h r
        | none => s.notePins h
      s.owe p step h q.length (q.block q.r)

/-! ### Prompt work -/

/-- The prompts that wait for a first token reply with the length that the sequence then has (R68, R190). -/
def State.firstToken (s : State) (p h : Nat) : State :=
  match s.seq h with
  | some q => s.endPrompts p h q.length
  | none => s

/-- A prompt that has been processed whole: its first token commits with it, or the length limit ends the sequence. -/
def State.promptEnds (s : State) (p h step : Nat) (q : Seq) (toks : List Nat) : State :=
  if min q.limit 4194304 ≤ q.length then (s.commitDone p h 1).firstToken p h
  else
    let toks := q.keeps (toks.take 1)
    let s := s.addTokens p h step q toks
    let s := match q.ends toks with
      | some r => s.commitDone p h r
      | none => s.become h .ready
    s.firstToken p h

/-- Whether a prompt's tokens may commit: one whose prompt ends short of its limit needs its first token. -/
def Seq.promptCommits (q : Seq) (n : Nat) : Bool :=
  q.state = .prefilling && !q.dropped && !q.poisoned && !q.copying && q.mirror.isSome && q.unacked.isNone && q.unjournaled.isNone &&
    (n < q.prompt.length || min q.limit 4194304 ≤ q.length + n || q.selected.isSome)

/-- A PREFILLING sequence commits `n` tokens of its prompt; their journal records left when the prompt was accepted. -/
def State.commitPrompt (s : State) (p step h n : Nat) (q : Seq) : State :=
  let n := min n q.prompt.length
  let toks := q.prompt.take n
  let q' := { q with
    length := q.length + n, tail := if n = 0 then q.tail else false, prompt := q.prompt.drop n
    journal := q.journal ++ toks.map (BitVec.ofNat 32), kinds := q.kinds ++ toks.map (fun _ => false), appended := 0, written := [], selected := none }
  let s := (s.modSeq h fun _ => q').chargeTenant q.tenant (s.fld schSkimCfg_promptWeight 0 * 4096 * n)
  let s := s.markStep h step
  let s := if q'.prompt.isEmpty then s.promptEnds p h step q' (match q.selected with
      | some x => x.tokens
      | none => []) else s.notePins h
  s.owe p step h (q.length + n) (q.block q.r)

/-- The rebuild of a sequence ends: it takes its prior state (R22, R397). -/
def State.rebuilt (s : State) (h : Nat) : State :=
  match s.seq h with
  | none => s
  | some q => (s.modSeq h fun q => { q with enableTick := s.now }).become h q.prior

/-- One sequence of a pass or chunk commits: a prompt's tokens, or the progress of a re-prefill. -/
def State.commitWork (s : State) (p step : Nat) (x : Nat × Nat) : State :=
  match s.seq x.1 with
  | none => s
  | some q =>
    if q.state = .rebuild then
      if q.dropped || q.poisoned then s
      else
        let s := s.modSeq x.1 fun q => { q with rebuildPos := q.rebuildPos + x.2, appended := 0, written := [], selected := none }
        if q.r ≤ q.rebuildPos + x.2 then s.rebuilt x.1 else s
    else if q.promptCommits x.2 && s.journalTakes q (q.length + x.2 + 1) then s.commitPrompt p step x.1 x.2 q
    else s.modSeq x.1 fun q => { q with appended := 0, written := [], selected := none }

/-- The pass whose last layer has completed commits (R190). -/
def State.commitPass (s : State) (p step : Nat) : State :=
  match (s.part p).pass with
  | some x =>
    if x.done then
      let s := s.modPart p fun y => { y with pass := none }
      x.toks.foldl (fun s t => s.commitWork p step t) s
    else s
  | none => s

/-- The chunk of the cycle commits (R194). -/
def State.commitChunk (s : State) (p step : Nat) : State :=
  match (s.part p).chunk with
  | some x =>
    let s := s.modPart p fun y => { y with chunk := none }
    x.toks.foldl (fun s t => s.commitWork p step t) s
  | none => s

/-! ### The whole commit -/

/-- The partners of a partition's sequences, each of which gets the step's commit record. -/
def State.partners (s : State) (p : Nat) : List Nat :=
  ((s.seqsOf p).filterMap fun x => x.2.mirror.map fun (m : Nat × Nat) => m.1).dedup

/-- Opens the release of a step: nothing of it is released before its commit records are acknowledged. -/
def State.openCommit (s : State) (p step : Nat) : State :=
  let nodes := s.partners p
  s.modPart p fun x => { x with commits := x.commits ++ [⟨step, s.now, [], nodes, [], []⟩] }

/-- The control copy goes to every partner, and to the default one where no sequence names any (R82, R383). -/
def State.shipControls (s : State) (p step : Nat) : State :=
  let nodes := s.partners p
  (if nodes.isEmpty then (s.defaultPartner.map fun (m : Nat × Nat) => m.1).toList else nodes).foldl
    (fun s n => s.shipControl p step (step % 2) n) s

/-- The shipping row of a boundary, behind the command effects and the next batch: each committed sequence's tokens and commit marks
into copy n mod 2, and the control copy (R26, R383). -/
def State.shipStep (s : State) (p step : Nat) : State :=
  match (s.part p).commits.find? fun c => c.step = step with
  | some c => (c.fresh.foldl (fun s x => s.shipCommit x.1 x.2.1 x.2.2 (step % 2)) s).shipControls p step
  | none => s

/-- Whether step `step` is void in a lockstep group: this member voids it, or any message for sync point 0 does (R269). -/
def State.voids (s : State) (p step : Nat) : Bool :=
  s.fld schGroup_members p ≠ 0 && ((s.part p).void ||
    (s.part p).syncs.any fun m => m.point = 0 && m.cycle + 1 = step && m.flags / 2 % 2 = 1)

/-- The commit row of a boundary: the batch's step, the pass and the chunk, unless the step is void (R269). -/
def State.commitAll (s : State) (p step : Nat) : State :=
  let x := s.part p
  let s := s.openCommit p step
  if s.voids p step then
    let s := s.bump schLate_void p 1
    let s := x.batch.foldl (fun s h => s.modSeq h fun q => { q with appended := 0, written := [], selected := none }) s
    s.modPart p fun x => { x with void := false, chunk := none }
  else
    let s := if x.poisonedAll then s else x.batch.foldl (fun s h => s.commitStep p step h) s
    let s := s.modPart p fun x => { x with void := false }
    (s.commitPass p step).commitChunk p step

end Sys2Proof.Machine
end

