-- ==== Sys2Proof/Machine/Draft.lean ====
section
/-! DEFINITION. Draft rings (R161, R162) and the hold-up check (R311, R312). -/

set_option Elab.async false

namespace Sys2Proof.Machine

/-! ### Draft rings -/

/-- Whether a set's processor-layout blocks all lie on the channels from `c` upwards. -/
def WeightSet.nearFrom (w : WeightSet) (c : Nat) : Bool := w.nearAt.all fun x => c ≤ x.2 / 0xC000_0000

/-- Whether every layer of a set is held in processor layout, with no load of it under way. -/
def WeightSet.allNear (w : WeightSet) : Bool :=
  !w.busy && (List.range (geoLayers w.geometry)).all fun l => match mget w.layers l with
    | some x => x.processor
    | none => false

/-- The draft set in force: none when MODEL names none, when the group is 0, or when the set is not loaded in processor layout on the
reserved channels (R161, R169). -/
def State.draftSet (s : State) : Option WeightSet :=
  if s.gen.draftGroup = 0 || s.gen.draftModel = 0xFFFF then none
  else
    match mget s.weights s.gen.draftModel with
    | some w => if w.allNear && w.nearFrom (64 - s.gen.draftGroup) then some w else none
    | none => none

/-- Keeps whether the draft set is loaded: the reserved channels leave or rejoin the page frames with it. -/
def State.noteDraft (s : State) : State := { s with gen := { s.gen with draftOn := s.draftSet.isSome } }

/-- Whether a churn pass of a weight set runs (R222). -/
def State.churning (s : State) (set : Nat) : Bool := s.churn.any fun c => c.set = set

/-- The frames that a set's weights occupy. -/
def WeightSet.frames (w : WeightSet) : Nat :=
  ceilDiv ((w.blocks.map fun b => 32 + kindRaw b.2.kind).sum + (w.near.map fun b => b.2.length).sum) 65536

/-- The frames that a set's processor-layout blocks occupy: Fw of R162 for the draft set. -/
def WeightSet.nearFrames (w : WeightSet) : Nat := ceilDiv (w.near.map fun b => b.2.length).sum 65536

/-- W of R162 by its code. -/
def ringWindow (code : Nat) : Nat := 64 * 2 ^ code

/-- The frames that one ring occupies. -/
def WeightSet.ringFrames (w : WeightSet) (window : Nat) : Nat :=
  ceilDiv (ringWindow window * geoLayers w.geometry * bytesPerToken (geoKvHeads w.geometry) (geoHeadDim w.geometry) 0) 65536

/-- The rings that the reserved group holds. -/
def State.ringCapacity (s : State) : Nat :=
  match s.draftSet with
  | some w => (s.gen.draftGroup * 49152 - w.nearFrames) / w.ringFrames s.gen.draftWindow
  | none => 0

/-- The rings held, over every partition. -/
def State.ringsHeld (s : State) : Nat := (s.seqs.filter fun q => q.2.ring.isSome).length

/-- The lowest ring number that no sequence holds. -/
def State.freeRing (s : State) : Option Nat :=
  let held := s.seqs.filterMap fun q => q.2.ring.map Prod.fst
  (List.range s.ringCapacity).find? fun i => !held.contains i

/-- Whether a speculating sequence has no ring. -/
def Seq.wantsRing (q : Seq) : Bool := q.speculate && q.ring.isNone

/-- Gives a speculating sequence a ring, which is still to be filled, where one is free (R162). -/
def State.giveRing (s : State) (h : Nat) : State :=
  match s.seq h with
  | none => s
  | some q =>
    if q.wantsRing then
      match s.freeRing with
      | some i => s.modSeq h fun q => { q with ring := some (i, false) }
      | none => s
    else s

/-- Whether a sequence's draft ring is filled. -/
def Seq.ringFull (q : Seq) : Bool := q.ring.any fun r => r.2

/-! ### The pages of a ring (R162) -/

/-- The rows of one head pair that a page of the draft set holds: those of FP8 state (R85). -/
def WeightSet.ringTpp (w : WeightSet) : Nat := tokensPerPage (geoKvHeads w.geometry) (geoHeadDim w.geometry) 0

/-- The frames that lie between two rings: a page for each layer of each block of the window. -/
def WeightSet.ringStride (w : WeightSet) (window : Nat) : Nat := ceilDiv (ringWindow window) w.ringTpp * geoLayers w.geometry

/-- The frame key where ring `i` begins: rings are laid downwards from the last frame of channel 63 (DESIGN CHOICE, log 145). -/
def WeightSet.ringBase (w : WeightSet) (window i : Nat) : Nat := 64 * 49152 - (i + 1) * w.ringStride window

/-- The frame key of a ring that holds a layer's page of a slot. -/
def WeightSet.ringFrame (w : WeightSet) (window i layer slot : Nat) : Nat :=
  w.ringBase window i + slot / w.ringTpp * geoLayers w.geometry + layer

/-- The sequence whose ring holds a frame, with the number of the frame in the ring. -/
def State.ringAt (s : State) (k : Nat) : Option (Nat × Nat) :=
  match s.draftSet with
  | none => none
  | some w => s.seqs.findSome? fun q => match q.2.ring with
    | some (i, _) =>
      let b := w.ringBase s.gen.draftWindow i
      if b ≤ k && k < b + w.ringStride s.gen.draftWindow then some (q.1, k - b) else none
    | none => none

/-! ### The hold-up check -/

/-- The bank's energy in mJ at a converter code (R311). -/
def holdupEnergy (code div8 vminMv capUf : Nat) : Nat :=
  let v : Rat := (code : Rat) * 12 / 40960 * div8 / 8
  let vmin : Rat := (vminMv : Rat) / 1000
  if v ≤ vmin then 0 else (((capUf : Rat) / 1000000 / 2 * (v * v - vmin * vmin) * 1000).floor).toNat

/-- What a store of some bytes costs in mJ, with the reserve that stays. -/
def State.holdupCost (s : State) (bytes : Nat) : Nat :=
  s.fld ftlHoldupCost_fixedMj 0 + s.fld ftlHoldupCost_perMibMj 0 * ceilDiv bytes 1048576 + s.fld ftlHoldupCost_reserveMj 0

/-- Whether HOLDUP_OK is asserted, that is low, which refuses every store (R504). -/
def State.holdupLow (s : State) : Bool := s.flag pinInput_level 5

/-- The check before a persistent store: writes CODE and E, and counts a refusal. -/
def State.holdupCheck (s : State) (code : BitVec 12) (bytes : Nat) : Bool × State :=
  let div8 := s.fld ftlHoldupCfg_div8 0
  let cap := s.fld ftlHoldupCfg_cap 0
  let e := holdupEnergy code.toNat div8 (s.fld ftlHoldupCfg_vminMv 0) cap
  let ok := div8 ≠ 0 && cap ≠ 0 && s.holdupCost bytes ≤ e && !s.holdupLow
  let s := (s.setFld ftlHoldup_code 0 code.toNat).setFld ftlHoldup_energyMj 0 (min e 65535)
  (ok, if ok then s else s.bump ftlHoldup_refused 0 1)

end Sys2Proof.Machine
end

