-- ==== Sys2Proof/Machine/Migrate.lean ====
section
/-! DEFINITION. Migration of pages between the tiers: reservation, the flip, abandonment, the choice of lodging, and the
completion of STATE_FETCH (R277 to R280, R287 to R292, R296, R299). -/

set_option Elab.async false

namespace Sys2Proof.Machine

/-! ### Places -/

/-- The lowest free tier-0 slot. -/
def State.freeSlot0 (s : State) : Option Nat := (List.range 1536).find? fun k => !mhas s.tiers.slots0 k

/-- The lowest free slot of a lodging: slot 0, or one behind a slot in use. -/
def State.freeLodge (s : State) (i : Nat) : Option Nat :=
  let used := (s.tiers.lodged.filter fun l => l.1 / 2 ^ 24 = i).map fun l => l.1 % 2 ^ 24
  (0 :: used.map (· + 1)).find? fun k => k < s.fld tirPeerBase_slots i && !used.contains k

/-- Whether a lodging takes pages: enabled, not draining, with a free slot. -/
def State.lodgingTakes (s : State) (i : Nat) : Bool :=
  s.flag tirPeerCtrl_enable i && !s.flag tirPeerCtrl_drain i && (s.freeLodge i).isSome

/-- The lowest-numbered lodging that takes pages (R292, R296), of one node if a node is named. -/
def State.pickLodging (s : State) (node : Option Nat) : Option Nat :=
  (List.range 16).find? fun i => s.lodgingTakes i && match node with
    | some n => s.fld tirPeerCtrl_node i = n
    | none => true

/-- The granule of a page: its group's extent and its layer. -/
def State.granuleOf (s : State) (key : Nat) : Option Nat :=
  match s.groupOf key with
  | some (k, g) => g.extent.map fun a => a + (key - k)
  | none => none

/-- Whether a granule has been written since its last trim. -/
def State.granuleWritten (s : State) (a : Nat) : Bool := mhas s.ftl.map a

/-- Whether no migration of a page may begin: one is under way, or a streamed read of it, or its group is FROZEN (R291). -/
def State.moveBarred (s : State) (key : Nat) : Bool :=
  mhas s.tiers.moves key || s.tiers.streams.contains key || match s.groupOf key with
    | some (_, g) => g.frozen
    | none => true

/-- Reserves a destination and marks the page MOVING (R288). -/
def State.startMove (s : State) (key : Nat) (m : Migration) : State :=
  { s with tiers := { s.tiers with
      moves := mset s.tiers.moves key m
      pages := mmod s.tiers.pages key fun e => { e with moving := true } } }

/-- The region offset of a lodging's slot (R279). -/
def State.lodgeOffset (s : State) (i slot : Nat) : Nat := s.fld tirPeerBase_base64k i * 65536 + slot * 66048

/-- A page begins to move to a lodging: its sub-blocks leave as writes in class 3 (R279, R366). -/
def State.moveToLodging (s : State) (key i : Nat) (cmd : Option Nat) : Option State :=
  match s.freeLodge i with
  | none => none
  | some slot =>
    let s := s.startMove key ⟨2, i, slot, false, true, cmd⟩
    let s := { s with tiers := { s.tiers with lodged := mset s.tiers.lodged (i * 2 ^ 24 + slot) key } }
    some (s.writeBulk (s.fld tirPeerCtrl_node i) 3 (slot % 8) (s.fld tirPeerCtrl_key i) (s.lodgeOffset i slot) (s.pageSlots key) (.lodge key))

/-- A page begins to move to its granule, with an extent allocated for a group without one (R296). -/
def State.moveToFlash (s : State) (key : Nat) (cmd : Option Nat) : Option State :=
  if !s.tier3Takes || s.pln.pfail then none
  else
    match s.groupOf key with
    | none => none
    | some (k, _) =>
      match s.takeExtent k with
      | none => none
      | some s =>
        match s.granuleOf key with
        | none => none
        | some a => some ((s.startMove key ⟨3, 0, a, false, true, cmd⟩).arrivesAt 98 2)

/-- A page begins to move into a tier-1 frame from tier 0, or from an unwritten granule (R277, R287). -/
def State.moveToFrame (s : State) (key : Nat) (cmd : Option Nat) : Option State :=
  match s.groupOf key with
  | none => none
  | some (k, _) =>
    match s.pickFrame (key / 2 ^ 32) (k % 2 ^ 32) (key - k) with
    | none => none
    | some f =>
      let s := s.startMove key ⟨1, 0, f, true, false, cmd⟩
      some { s with tiers := { s.tiers with frames := mset s.tiers.frames f (.dest key) } }

/-- The partner and the offset there of a page that its protected sequence's mirror holds (R381). -/
def State.mirrorOf (s : State) (key : Nat) : Option (Nat × Nat) :=
  match s.groupOf key with
  | none => none
  | some (k, g) =>
    match s.seq g.handle with
    | none => none
    | some q =>
      match q.mirror, q.pages.find? fun e => e.2 = k % 2 ^ 32 with
      | some m, some e =>
        match mget q.slots (e.1 * 256 + (key - k)), mget s.res.grants m.1 with
        | some x, some gr => if q.prot then some (m.1, gr.base + sliceSlot gr.slots x) else none
        | _, _ => none
      | _, _ => none

/-- Asks the place that holds a page below tier 1 for its bytes: the mirror of a page whose own copy is lost (R302), the lodging's
peer, or the flash, where the read suspends an erase (R309). -/
def State.askPage (s : State) (key : Nat) : State :=
  if s.tiers.lost.contains key then
    match s.mirrorOf key with
    | some m => s.readBulk m.1 3 (m.2 / 65536 % 8) 0 m.2 65536 (.mirrorFetch key)
    | none => s
  else
    match mget s.tiers.pages key with
    | some e =>
      s.readBulk (s.fld tirPeerCtrl_node e.lodging) 3 (e.loc % 8) (s.fld tirPeerCtrl_key e.lodging)
        (s.lodgeOffset e.lodging e.loc) 66048 (.fetchBack key)
    | none =>
      match s.granuleOf key with
      | some a => ({ s with ftl := s.ftl.suspendFor a }).arrivesAt 98 2
      | none => s

/-- A page begins to move up from tier 2 or tier 3 through a tier-0 slot (R277). -/
def State.moveToSlot (s : State) (key : Nat) (cmd : Option Nat) : Option State :=
  s.freeSlot0.map fun slot =>
    let s := s.startMove key ⟨0, 0, slot, false, false, cmd⟩
    let s := { s with tiers := { s.tiers with slots0 := mset s.tiers.slots0 slot key } }
    s.askPage key

/-- A page begins to move up: an unwritten granule and a tier-0 page to a frame, any other through tier 0. -/
def State.moveUp (s : State) (key : Nat) (cmd : Option Nat) : Option State :=
  match mget s.tiers.pages key with
  | some e => if e.tier = 0 then s.moveToFrame key cmd else s.moveToSlot key cmd
  | none =>
    match s.granuleOf key with
    | some a => if s.granuleWritten a || s.tiers.lost.contains key then s.moveToSlot key cmd else s.moveToFrame key cmd
    | none => none

/-! ### Abandonment (R290) -/

/-- Releases the destination of a migration. -/
def Tiers.dropDest (t : Tiers) (key : Nat) (m : Migration) : Tiers :=
  let t := { t with
    moves := mdel t.moves key
    transit := mdel t.transit key
    pages := mmod t.pages key fun e => { e with moving := false } }
  match m.tier with
  | 0 => { t with slots0 := mdel t.slots0 m.loc }
  | 1 => { t with frames := mdel t.frames m.loc }
  | 2 => { t with lodged := mdel t.lodged (m.lodging * 2 ^ 24 + m.loc) }
  | _ => t

/-- Abandons a page's migration: the source stays home. A downward one is counted. -/
def State.abandonMove (s : State) (key : Nat) : State :=
  match mget s.tiers.moves key with
  | none => s
  | some m =>
    let s := { s with
      tiers := s.tiers.dropDest key m
      ftl := if m.tier = 3 then s.ftl.forget m.loc else s.ftl }
    let s := if m.down then s.bump tirEvict_abandoned 0 1 else s
    s.noteTiers

/-- Marks a migration's destination written. -/
def State.moveWritten (s : State) (key : Nat) : State :=
  { s with tiers := { s.tiers with moves := mmod s.tiers.moves key fun m => { m with written := true } } }

/-- A page that comes up has come whole: its migration's destination is written, or its lent frame can be read. -/
def State.pageCame (s : State) (key : Nat) : State :=
  if s.tiers.streams.contains key then { s with tiers := { s.tiers with streams := s.tiers.streams.filter (· ≠ key) } }
  else s.moveWritten key

/-- Whether a page is on its way up, by a migration or by a streamed read. -/
def State.coming (s : State) (key : Nat) : Bool := mhas s.tiers.moves key || s.tiers.streams.contains key

/-- Releases the lent frames and transit slots of pages, at the end of the entry that reads them, or where the read fails. -/
def State.endStreams (s : State) (keys : List Nat) : State :=
  let mine := keys.filter fun k => s.tiers.frames.any fun f => f.2 = .lent k
  { s with tiers := { s.tiers with
      frames := mfilter s.tiers.frames fun _ u => match u with
        | .lent k => !mine.contains k
        | _ => true
      streams := s.tiers.streams.filter fun k => !mine.contains k
      slots0 := mfilter s.tiers.slots0 fun _ k => !mine.contains k || s.tierOf k = 0 } }.noteTiers

/-! ### STATE_FETCH's completion (R292) -/

/-- The groups that a run of page-list indices names, count 0 meaning to the end. -/
def Seq.named (q : Seq) (first count : Nat) : List (Nat × Nat) :=
  q.pages.filter fun e => first ≤ e.1 && (count = 0 || e.1 < first + count)

/-- Whether a STATE_FETCH to a tier leaves a group where it is: PIN holds it in tier 1 or above. -/
def State.fetchSkips (s : State) (p n tier : Nat) : Bool :=
  2 ≤ tier && match mget s.tiers.groups (pageKey p n) with
    | some g => g.pin
    | none => false

/-- The pages that a STATE_FETCH has still to move. -/
def State.fetchLeft (s : State) (q : Seq) (tier first count : Nat) : List Nat :=
  ((q.named first count).filter fun e => !s.fetchSkips q.part e.2 tier).flatMap fun e =>
    ((List.range q.layers).map fun l => pageKey q.part (e.2 + l)).filter fun k => s.tierOf k ≠ tier

/-- Replies to the STATE_FETCH commands all of whose pages are in place. -/
def State.checkFetches (s : State) : State :=
  s.buhorn.cmds.foldl (fun s c => match c.wait with
    | .fetch tier first count =>
      match s.seq c.handle with
      | some q => if (s.fetchLeft q tier first count).isEmpty then s.finish c.id 0 0 0 else s
      | none => s.finish c.id 0 0 0
    | _ => s) s

/-- The STATE_FETCH command that a page's migration serves ends with a status: its migrations that have not flipped are
abandoned. -/
def State.failFetch (s : State) (id status detail : Nat) : State :=
  let mine := s.tiers.moves.filter fun m => m.2.cmd = some id
  (mine.foldl (fun s m => s.abandonMove m.1) s).finish id status detail 0

/-! ### The flip (R283, R288) -/

/-- Frees the place that a page's home held before its flip. -/
def State.freeSource (s : State) (key : Nat) : State :=
  match mget s.tiers.pages key with
  | some e =>
    { s with tiers := match e.tier with
        | 0 => { s.tiers with slots0 := mdel s.tiers.slots0 e.loc }
        | 1 => { s.tiers with frames := mdel s.tiers.frames e.loc }
        | _ => { s.tiers with lodged := mdel s.tiers.lodged (e.lodging * 2 ^ 24 + e.loc) } }
  | none =>
    match s.granuleOf key with
    | some a => { s with ftl := s.ftl.trim s.now a 1 }
    | none => s

/-- The page entry of the new home. A page that had none was in tier 3 and comes up to be read; one that a STATE_FETCH moves
has REF set and AGE cleared (R282, R292). -/
def newEntry (old : Option Page) (m : Migration) : Page :=
  match old with
  | some e =>
    if m.cmd.isSome then ⟨m.tier, true, 0, false, m.lodging, m.loc⟩ else ⟨m.tier, e.ref, e.age, false, m.lodging, m.loc⟩
  | none => ⟨m.tier, true, 0, false, m.lodging, m.loc⟩

/-- Counts an eviction (R314): a downward migration that no command asked for. -/
def State.countEviction (s : State) (m : Migration) : State :=
  if m.down && m.cmd.isNone then
    if m.tier = 2 then s.bump tirEvict_toT2 0 1 else s.bump tirEvict_toT3 0 1
  else s

/-- The flip of a page: one write of its page entry moves its home, and the source is freed. -/
def State.flip (s : State) (key : Nat) (m : Migration) : State :=
  let old := mget s.tiers.pages key
  let s := (s.freeSource key).countEviction m
  { s with tiers := { s.tiers with
      moves := mdel s.tiers.moves key
      transit := mdel s.tiers.transit key
      lost := s.tiers.lost.filter (· ≠ key)
      pages := if m.tier = 3 then mdel s.tiers.pages key else mset s.tiers.pages key (newEntry old m)
      frames := if m.tier = 1 then mset s.tiers.frames m.loc (.home key) else s.tiers.frames } }

/-- A page homed in tier 0 moves on into a frame as soon as one is obtainable (R277). -/
def State.moveOn (s : State) (key : Nat) (cmd : Option Nat) : State :=
  if s.tierOf key = 0 && !s.moveBarred key then (s.moveToFrame key cmd).getD s else s

/-- The flip of a page whose destination is written, and what follows it. -/
def State.completeMove (s : State) (key : Nat) : State :=
  match mget s.tiers.moves key with
  | some m => if m.written then (((s.flip key m).moveOn key m.cmd).checkFetches).noteTiers else s
  | none => s

/-! ### Expander errors (R225, R228) -/

/-- The partition that a stored page sub-block's header names (R216). -/
def Stored.partition (b : Stored) : Nat := bits b.word1 43 40

/-- An error of the separator or the expander with good check bits (R225, R226): Partition-fatal, with the block recorded in
CMP_ERR_INFO and CMP_ERR_BLOCK and in the error record. -/
def State.blockError (s : State) (p code site location : Nat) (b : Stored) : State :=
  let s := (s.bump cmpErrInfo_count 0 1).setFld cmpErrInfo_code 0 code
  let s := (s.setFld cmpErrInfo_partition 0 p).setFld cmpErrInfo_kind 0 b.kind
  let s := (s.setFlag cmpErrInfo_escape 0 b.escape).setFld cmpErrInfo_table 0 b.table
  let s := (s.setFld cmpErrInfo_site 0 site).setFld cmpErrBlock_word1 0 b.word1.toNat
  s.raise { errorOfPart 2 4 code location p with info0 := b.word1, info1 := BitVec.ofNat 64 (b.table + site * 65536) }

/-- An error of the Ladle's expander: for the partition that the header names. -/
def State.expandError (s : State) (code location : Nat) (b : Stored) : State := s.blockError b.partition code 0xFFFF location b

/-- Marks a page whose home has lost its bytes. -/
def State.loseKey (s : State) (key : Nat) : State :=
  { s with tiers := { s.tiers with lost := if s.tiers.lost.contains key then s.tiers.lost else s.tiers.lost ++ [key] } }

/-- An expander error of a page that was on its way up, in its slots' bytes: a failed delivery, and the sequence that owns it has
lost its state (R228, R302). -/
def State.expandFailed (s : State) (key code : Nat) (slots : List (BitVec 8)) : State :=
  let s := ((s.abandonMove key).endStreams [key]).loseKey key
  let s := match s.groupOf key with
    | some (_, g) =>
      (s.raise { errorOfPart 1 6 8 (key % 2 ^ 32) (key / 2 ^ 32) with handle := some (BitVec.ofNat 18 g.handle) }).toRebuild g.handle
    | none => s
  s.expandError code (key % 2 ^ 32) ((badSlot 16 slots).getD (storedOf slots))

/-! ### Failed deliveries (R302) -/

/-- A failed delivery of a page by stall cause 6 or 7: a Deferred error names it. The mirror of a protected sequence becomes home
to the page, and the sequence sits out until it is back; an unprotected sequence becomes REBUILD. The granule of an
uncorrectable read is trimmed. -/
def State.failDelivery (s : State) (key cause : Nat) : State :=
  let s := (s.abandonMove key).endStreams [key]
  let granule := s.granuleOf key
  match s.groupOf key with
  | none => s
  | some (_, g) =>
    let s := s.raise { errorOfPart 1 6 cause (key % 2 ^ 32) (key / 2 ^ 32) with handle := some (BitVec.ofNat 18 g.handle) }
    let s := s.loseKey key
    let s := match cause, granule with
      | 7, some a => { s with ftl := s.ftl.trim s.now a 1 }
      | _, _ => s
    if (s.mirrorOf key).isSome then ((s.modSeq g.handle fun q => { q with dropped := true }).moveToSlot key none).getD s
    else s.toRebuild g.handle

/-- A lodging is lost with every page in it (R280, R302). -/
def State.loseLodging (s : State) (i : Nat) : State :=
  ((s.tiers.pages.filter fun x => x.2.tier = 2 && x.2.lodging = i).map Prod.fst).foldl (fun s k => s.failDelivery k 6) s

/-! ### Streamed reads (R299) -/

/-- The lowest free lent frame: numbered behind the pool's frames. -/
def State.freeLent (s : State) : Option Nat :=
  (0 :: (s.tiers.frames.filter fun f => 3145728 ≤ f.1).map fun f => f.1 - 3145728 + 1).findSome? fun k =>
    if k < s.fld tirLend_lendFrames 0 && !mhas s.tiers.frames (3145728 + k) then some (3145728 + k) else none

/-- Whether a page is whole in a lent frame. -/
def State.pageLent (s : State) (key : Nat) : Bool := !s.tiers.streams.contains key && s.tiers.frames.any fun f => f.2 = .lent key

/-- Whether a page's bytes are on the device without a read: at home in tier 0 or 1, or in an unwritten granule (R281). -/
def State.atHand (s : State) (key : Nat) : Bool :=
  match mget s.tiers.pages key with
  | some e => e.tier ≤ 1
  | none => !s.tiers.lost.contains key && match s.granuleOf key with
    | some a => !s.granuleWritten a
    | none => true

/-- Brings a page up by a streamed read: a transit slot and a lent frame, the directory unchanged. The place that holds it is asked for its
bytes. -/
def State.streamPage (s : State) (key : Nat) : State :=
  if s.coming key || s.pageLent key then s
  else
    s.freeSlot0.elim s fun slot => s.freeLent.elim s fun k =>
      let s := { s with tiers := { (s.tiers.touch key) with
          slots0 := mset s.tiers.slots0 slot key
          frames := mset s.tiers.frames k (.lent key) } }
      (if s.atHand key then s else ({ s with tiers := { s.tiers with streams := s.tiers.streams ++ [key] } }).askPage key).noteTiers

/-! ### Fetching ahead (R40, R290, R298) -/

/-- Begins to bring a page up: a downward migration is abandoned for it (R290); it comes up by migration while the pool keeps
LOW_FREE frames, and is left to a streamed read otherwise (R299). -/
def State.fetchPage (s : State) (key : Nat) : State :=
  let s := match mget s.tiers.moves key with
    | some m => if m.down then s.abandonMove key else s
    | none => s
  if s.tierOf key = 1 || s.moveBarred key || !s.keepsLowFree 1 then s else ((s.moveUp key none).getD s).noteTiers

/-- An append needs its page in tier 1: a downward migration is abandoned, and a page that is not at home there is migrated up (R287,
R290). -/
def State.bringUp (s : State) (key : Nat) : State :=
  let s := match mget s.tiers.moves key with
    | some m => if m.down then s.abandonMove key else s
    | none => s
  if s.tierOf key = 1 || s.moveBarred key then s else ((s.moveUp key none).getD s).noteTiers

/-- Marks pages as read (R282). -/
def State.touchPages (s : State) (keys : List Nat) : State := { s with tiers := keys.foldl Tiers.touch s.tiers }

/-- Begins the fetch of every page of a sequence that its next step reads and that lies below tier 1 (R40, R41). -/
def State.fetchSeq (s : State) (h : Nat) : State :=
  match s.seq h with
  | some q => (q.pagesBelow (q.block q.r + 1)).foldl State.fetchPage s
  | none => s

end Sys2Proof.Machine
end

