-- ==== Sys2Proof/Machine/Sequence.lean ====
section
/-! DEFINITION. The sequence and state commands (R19 to R24, R40 to R42, R68 to R73, R95, R96, R103, R104, R292). The move of a
sequence is in `Moves`. -/

set_option Elab.async false

namespace Sys2Proof.Machine

/-- The sequence that a command names, if it is open in the command's partition. -/
def State.named (s : State) (d : Pend) : Option Seq :=
  match s.seq d.handle with
  | some q => if q.part = d.part && q.state ≠ .free then some q else none
  | none => none

/-! ### SEQ_OPEN (R69) -/

/-- A sequence as SEQ_OPEN leaves it. -/
def newSeq (d : Pend) (g : List Cell) (mirror : Nat × Nat) : Seq where
  part := d.part
  tenant := d.par 16 2
  model := d.par 24 2
  format := d.par 19 1
  state := .opened
  prior := .opened
  priority := d.par 18 1 / 4 % 4
  speculate := d.par 18 1 / 2 % 2 = 1
  prot := d.par 18 1 % 2 = 1
  hold := false
  tail := false
  reason := 0
  length := 0
  limit := d.par 20 4
  tpp := tokensPerPage (geoKvHeads g) (geoHeadDim g) (d.par 19 1)
  layers := geoLayers g
  kvHeads := geoKvHeads g
  headDim := geoHeadDim g
  appended := 0
  written := []
  seed := BitVec.ofNat 64 (d.par 40 8)
  temperature := BitVec.ofNat 32 (d.par 28 4)
  topP := BitVec.ofNat 32 (d.par 32 4)
  topK := d.par 36 4 % 65536
  stops := (d.words.take (d.par 26 2)).map BitVec.toNat
  probe := 0
  fullRun := 0
  zeroRun := 0
  kMax := 0
  kCur := 0
  lastStep := 0
  mirror := some mirror
  oldMirror := none
  job := d.job
  journal := []
  kinds := []
  prompt := []
  promptTick := 0
  enableTick := 0
  pages := []
  leaves := []
  slots := []
  journalSlots := []
  ring := none
  draft := 0
  probing := false
  selected := none
  poisoned := false
  dropped := false
  unacked := none
  unjournaled := none
  copying := false
  copied := 0
  mirroring := false
  move := none
  rebuildPos := 0
  rebuildTick := 0
  promoted := none
  refusedBy := []
  cancelled := false

/-- Opens a sequence under a handle. -/
def State.openSeq (s : State) (h : Nat) (q : Seq) : State := { s with seqs := mset s.seqs h q }

/-- SEQ_OPEN's effect: the tenant, the weight set, the longest reach (R87), the partner (R379) and a handle (R19). -/
def effSeqOpen (d : Pend) (s : State) : State :=
  if !s.tenantIn (d.par 16 2) d.part then s.finish d.id 0x30 0 0
  else
    match mget s.weights (d.par 24 2) with
    | none => s.finish d.id 0x11 0 0
    | some w =>
      if 262144 * tokensPerPage (geoKvHeads w.geometry) (geoHeadDim w.geometry) (d.par 19 1) < d.par 20 4 then s.finish d.id 0x11 0 0
      else
        match s.defaultPartner with
        | none => s.finish d.id 0x12 0x12 0
        | some m =>
          match s.takeHandle with
          | none => s.finish d.id 0x12 0x10 0
          | some (h, t) =>
            let q := newSeq d w.geometry m
            (t.openSeq h { q with hold := t.flag schTenant_hold q.tenant }).finish d.id 0 0 h

/-- SEQ_OPEN (R69). -/
def execSeqOpen (c : Cmd) (stops : List (BitVec 32)) (s : State) : Out := .next (s.command 0x10 c stops 0 effSeqOpen)

/-! ### SEQ_PROMPT (R68, R95) -/

/-- Takes prompt tokens in: the sequence becomes PREFILLING, the tokens are journaled, and stored pages come back (R41). -/
def State.startPrompt (s : State) (d : Pend) (q : Seq) (toks : List (BitVec 32)) : State :=
  let h := d.handle
  let s := s.modSeq h fun q => { q with prompt := toks.map BitVec.toNat, promptTick := d.accTick, reason := 0 }
  let s := s.become h .prefilling
  let s := s.shipPrompt h q.length toks
  let s := if q.state = .done then s.fetchSeq h else s
  (s.await d.id .firstToken).noteTiers

/-- SEQ_PROMPT's effect. -/
def effSeqPrompt (d : Pend) (s : State) : State :=
  let n := d.par 24 4
  if (s.groupsOf d.part).isEmpty then s.conclude d 0x30 0 0
  else if (s.tokenRing d.part).isNone then s.conclude d 0x12 0x13 0
  else
    match s.named d with
    | none => s.conclude d 0x13 0 0
    | some q =>
      if (q.state ≠ .opened && q.state ≠ .done) || s.churning q.model then s.conclude d 0x13 0 0
      else if q.limit < q.length + n then s.conclude d 0x11 0 0
      else
        let first := q.block q.r
        match if q.mirror.isSome && !s.journalTakes q (q.length + n) then none
            else s.assignRun d.handle first (q.block (q.length + n - 1) + 1 - first) with
        | none => s.conclude d 0x12 0x11 0
        | some t => t.startPrompt d q (d.words.take n)

/-- SEQ_PROMPT (R68). -/
def execSeqPrompt (c : Cmd) (tokens : List (BitVec 32)) (s : State) : Out := .next (s.command 0x11 c tokens 0 effSeqPrompt)

/-! ### Enable and resume (R40, R96, R162, R167, R175) -/

/-- The draft length that a step may have (R162, R166): none before the ring is filled, and at most LIMIT − LENGTH − 1. -/
def Seq.draftCap (q : Seq) (k : Nat) : Nat := if q.ringFull then min k (q.limit - q.length - 1) else 0

/-- Assigns the groups that a step's appends enter: positions r to r + k (R96). -/
def State.assignStep (s : State) (h k : Nat) : Option State :=
  match s.seq h with
  | some q => s.assignRun h (q.block q.r) (q.block (q.r + k) + 1 - q.block q.r)
  | none => none

/-- Whether a near-bank-only partition meets a layer that is held only in operand layout (R175). -/
def State.thinBars (s : State) (p model : Nat) : Bool :=
  (s.groupsOf p).isEmpty && match mget s.weights model with
    | some w => w.layers.any fun l => !l.2.processor
    | none => true

/-- The sequence becomes STEPPING, its groups assigned and its ring asked for; none when a group cannot be had. -/
def State.startStepping (s : State) (d : Pend) (spec : Seq → Seq) : Option State :=
  let h := d.handle
  let s := s.modSeq h spec
  match s.assignStep h 0 with
  | none => none
  | some s =>
    let s := s.modSeq h fun q => { q with enableTick := d.accTick, dropped := false, poisoned := false }
    some (((s.become h .stepping).giveRing h).await d.id .firstStep).noteTiers

/-- SPEC at the effect of SEQ_STEP_ENABLE (R167). -/
def Seq.setSpec (q : Seq) (draftMax : Nat) : Seq :=
  let m := if q.speculate then draftMax else 0
  { q with kMax := m, kCur := min 4 m, zeroRun := 0, fullRun := 0, probe := 0 }

/-- SEQ_STEP_ENABLE's effect. -/
def effSeqStepEnable (d : Pend) (s : State) : State :=
  if !s.hasTable d.part then s.finish d.id 0x13 0 0
  else if (s.tokenRing d.part).isNone then s.afterRelease d 0x12 0x13 0
  else
    match s.named d with
    | none => s.afterRelease d 0x13 0 0
    | some q =>
      if (q.state ≠ .ready && q.state ≠ .paused) || s.thinBars d.part q.model || s.churning q.model then s.afterRelease d 0x13 0 0
      else
        match s.startStepping d fun q => q.setSpec (d.par 16 1) with
        | some t => t
        | none => s.afterRelease d 0x12 0x11 0

/-- Whether an enable or a resume must wait for its sequence's pages (R40). -/
def State.enableWaits (s : State) (d : Pend) : Bool :=
  (d.op = 0x12 || d.op = 0x14) && match s.named d with
    | some q => ((q.state = .ready && d.op = 0x12) || q.state = .paused) && !s.seqReady q
    | none => false

/-- The fetch that begins when an enable or a resume is accepted, whatever it waits for (R40). -/
def State.fetchNamed (s : State) (part h : Nat) : State :=
  match s.seq h with
  | some q => if q.part = part then s.fetchSeq h else s
  | none => s

/-- A command whose acceptance begins a fetch of its sequence's pages. -/
def State.plainFetch (s : State) (op : Nat) (c : Cmd) (effect : Pend → State → State) : State :=
  s.commandThen op c [] 0 effect fun d t => t.fetchNamed (d.fn - 1) d.handle

/-- SEQ_STEP_ENABLE (R40). -/
def execSeqStepEnable (c : Cmd) (s : State) : Out := .next (s.plainFetch 0x12 c effSeqStepEnable)

/-- SEQ_RESUME's effect: SPEC is kept (R168). -/
def effSeqResume (d : Pend) (s : State) : State :=
  if !s.hasTable d.part then s.finish d.id 0x13 0 0
  else
    match s.named d with
    | none => s.afterRelease d 0x13 0 0
    | some q =>
      if q.state = .stepping then s.afterRelease d 1 0 0
      else if q.state ≠ .paused || s.thinBars d.part q.model then s.afterRelease d 0x13 0 0
      else
        match s.startStepping d id with
        | some t => t
        | none => s.afterRelease d 0x12 0x11 0

/-- SEQ_RESUME (R40). -/
def execSeqResume (c : Cmd) (s : State) : Out := .next (s.plainFetch 0x14 c effSeqResume)

/-! ### Pause, cancel, close (R22 to R24, R31, R37, R42) -/

/-- SEQ_PAUSE's effect. -/
def effSeqPause (d : Pend) (s : State) : State :=
  match s.named d with
  | none => s.afterRelease d 0x13 0 0
  | some q =>
    match q.state with
    | .stepping =>
      let s := s.endEnables d.part d.handle
      let s := s.modSeq d.handle fun q => { q with ring := none, appended := 0, written := [], selected := none }
      (s.become d.handle .paused).afterRelease d 0 0 0
    | .paused => s.afterRelease d 1 0 0
    | .done => s.afterRelease d 1 0 0
    | _ => s.afterRelease d 0x13 0 0

/-- SEQ_PAUSE (R22). -/
def execSeqPause (c : Cmd) (s : State) : Out := .next (s.plain 0x13 c effSeqPause)

/-- Takes a sequence out of the running pass and chunk (R191). -/
def State.leavePass (s : State) (p h : Nat) : State :=
  let drop (x : Option Pass) : Option Pass := x.map fun y => { y with toks := y.toks.filter fun t => t.1 ≠ h }
  s.modPart p fun x => { x with pass := drop x.pass, chunk := drop x.chunk }

/-- Asks a move's destination to abandon it (R37). -/
def State.askAbandon (s : State) (h : Nat) (m : Move) : State :=
  (s.send m.node (.abandon h)).modSeq h fun q => { q with move := some { m with abandonSent := true } }

/-- A sequence that is cancelled while it arrives: it becomes DONE here, and the source is told that the move is refused (R22, R88). -/
def State.cancelArriving (s : State) (d : Pend) (m : Move) : State :=
  ((s.send m.node (.refused m.srcHandle)).makeDone d.part d.handle 2).afterRelease d 0 0 0

/-- SEQ_CANCEL's effect: on a MOVING sequence whose stream has begun the destination decides (R37); a second cancel of it waits for
the same outcome (R31). -/
def effSeqCancel (d : Pend) (s : State) : State :=
  match s.named d with
  | none => s.afterRelease d 0x13 0 0
  | some q =>
    match q.state with
    | .done => s.afterRelease d 1 0 0
    | .moving =>
      match q.move with
      | some m =>
        if m.incoming then s.cancelArriving d m else
        let s := if m.abandonSent then s else s.askAbandon d.handle m
        (s.modSeq d.handle fun q => { q with cancelled := true }).await d.id .abandon
      | none => (s.makeDone d.part d.handle 2).afterRelease d 0 0 0
    | _ => ((s.leavePass d.part d.handle).makeDone d.part d.handle 2).afterRelease d 0 0 0

/-- SEQ_CANCEL (R31). -/
def execSeqCancel (c : Cmd) (s : State) : Out := .next (s.plain 0x15 c effSeqCancel)

/-- SEQ_CLOSE's effect: only a DONE sequence is freed. -/
def effSeqClose (d : Pend) (s : State) : State :=
  match s.named d with
  | none => s.afterRelease d 0x13 0 0
  | some q =>
    if q.state = .done then ((s.shipJournal d.part d.handle 2 q.length 0).closeSeq d.part d.handle).afterFree d
    else s.afterRelease d 0x13 0 0

/-- SEQ_CLOSE (R23). -/
def execSeqClose (c : Cmd) (s : State) : Out := .next (s.plain 0x16 c effSeqClose)

/-! ### SEQ_QUERY (R69) -/

/-- Page groups of a sequence that are resident in tier 1: every page of the group. -/
def State.groupsResident (s : State) (q : Seq) : Nat :=
  (q.pages.filter fun e => (List.range q.layers).all fun l => s.tierOf (pageKey q.part (e.2 + l)) = 1).length

/-- The single-mode RESULT. -/
def State.queryResult (s : State) (q : Seq) : Nat :=
  q.state.code + bit q.hold * 2 ^ 4 + bit q.prot * 2 ^ 5 + q.length * 2 ^ 6 + q.tenant * 2 ^ 29 + q.reason * 2 ^ 41 +
    s.groupsResident q * 2 ^ 43

/-- The sequences that a list query names. -/
def State.queryList (s : State) (p state max : Nat) : List (Nat × Seq) :=
  ((s.seqsOf p).filter fun x => x.2.state.code = state && x.2.state ≠ .free).take max

/-- SEQ_QUERY's effect. -/
def effSeqQuery (d : Pend) (s : State) : State :=
  if d.par 16 1 = 1 then
    let l := s.queryList d.part (d.par 17 1) (d.par 20 4)
    let bytes := l.flatMap fun x => leBytes 8 x.1 ++ leBytes 8 (s.queryResult x.2)
    (if l.isEmpty then s else s.putBuffer d (d.par 24 8) bytes).conclude d 0 0 l.length
  else
    match s.named d with
    | some q => s.conclude d 0 0 (s.queryResult q)
    | none => s.conclude d 0 0 0

/-- SEQ_QUERY (R69). -/
def execSeqQuery (c : Cmd) (s : State) : Out := .next (s.plain 0x17 c effSeqQuery)

/-! ### STATE_MIRROR (R72, R385) -/

/-- Whether a partner qualifies and has room for a sequence's pages. -/
def State.partnerTakes (s : State) (q : Seq) (node : Nat) : Bool :=
  s.partnerOk node && s.mirrorRoom node (ceilDiv (q.length + q.prompt.length) 16384 + if q.prot then q.pages.length * q.layers else 0)

/-- A partner's failure domain by the current map. -/
def State.fdomOf (s : State) (node : Nat) : Nat :=
  match mget s.asf.map node with
  | some e => e.fdom
  | none => 0

/-- A copy to a new partner begins (R385): the slots there are taken, and the old ones are kept until it ends. -/
def State.changePartner (s : State) (h node : Nat) : State :=
  match s.seq h with
  | none => s
  | some q =>
    let old := match q.mirror with
      | some m => some (m.1, q.slots.map Prod.snd ++ q.journalSlots.map Prod.snd)
      | none => q.oldMirror
    let s := s.modSeq h fun q =>
      { q with mirror := some (node, s.fdomOf node), oldMirror := old, slots := [], journalSlots := [], copying := true, copied := 0 }
    if q.prot then q.pages.foldl (fun s e => match s.seq h with
      | some q => s.slotsAt h node e.1 q
      | none => s) s
    else s

/-- Takes slots at the present partner for every group of a sequence. -/
def State.slotAll (s : State) (h : Nat) : State :=
  match s.seq h with
  | some q => q.pages.foldl (fun s e => match s.seq h with
      | some q => s.mirrorTake h e.1 q
      | none => s) s
  | none => s

/-- Protects a sequence at a partner. -/
def State.protect (s : State) (h node : Nat) (q : Seq) : State :=
  let s := s.modSeq h fun q => { q with prot := true, mirroring := true, copied := 0 }
  let same := match q.mirror with
    | some m => decide (m.1 = node)
    | none => false
  (if same then s.slotAll h else s.changePartner h node).notePins h

/-- The partner that a STATE_MIRROR names, or the first candidate with room. -/
def State.mirrorChoice (s : State) (q : Seq) (node : Nat) : Option Nat :=
  let takes := s.partnerTakes { q with prot := true }
  if node = 0xFFFF then s.candidates.find? takes else if takes node then some node else none

/-- STATE_MIRROR's effect. -/
def effStateMirror (d : Pend) (s : State) : State :=
  match s.named d with
  | none => s.conclude d 0x13 0 0
  | some q =>
    if q.state = .moving || q.state = .rebuild || q.mirroring then s.conclude d 0x13 0 0
    else if d.par 16 1 = 0 then
      if q.prot then s.conclude d 1 0 0
      else
        match s.mirrorChoice q (d.par 18 2) with
        | some n => (s.protect d.handle n q).await d.id .mirror
        | none => s.conclude d 0x12 0x11 0
    else if q.prot then
      (((s.dropPages d.handle).modSeq d.handle fun q => { q with prot := false }).notePins d.handle).await d.id .mirror
    else s.conclude d 1 0 0

/-- STATE_MIRROR (R72). -/
def execStateMirror (c : Cmd) (s : State) : Out := .next (s.plain 0x21 c effStateMirror)

/-! ### STATE_FETCH (R292) -/

/-- Whether a PEER names no enabled lodging, or tier 2 is named and has no room. -/
def State.fetchPeerBad (s : State) (tier peer : Nat) : Bool :=
  (peer ≠ 0xFFFF && !(List.range 16).any fun i => s.flag tirPeerCtrl_enable i && s.fld tirPeerCtrl_node i = peer) ||
    (tier = 2 && (s.pickLodging (if peer = 0xFFFF then none else some peer)).isNone)

/-- STATE_FETCH's effect: to tier 3 the hold-up check of its map changes comes first. -/
def effStateFetch (d : Pend) (s : State) : State :=
  let tier := d.par 16 1
  match s.named d with
  | none => s.conclude d 0x13 0 0
  | some q =>
    if q.state = .moving || q.state = .rebuild then s.conclude d 0x13 0 0
    else if s.fetchPeerBad tier (d.par 18 2) then s.conclude d 0x12 0x11 0
    else
      let left := s.fetchLeft q tier (d.par 20 4) (d.par 24 4)
      let r := if tier = 3 then s.holdupCheck d.code (4 * left.length) else (true, s)
      if r.1 then (r.2.await d.id (.fetch tier (d.par 20 4) (d.par 24 4))).checkFetches else r.2.conclude d 0x31 0 0

/-- STATE_FETCH (R292). -/
def execStateFetch (c : Cmd) (code : BitVec 12) (s : State) : Out := .next (s.command 0x22 c [] code effStateFetch)

/-! ### PAGE_LIST_SET (R71, R103, R104) -/

/-- The index of an entry and its value: none for 0xFFFF_FFFF. -/
def listEntries (first : Nat) (ws : List (BitVec 32)) : List (Nat × Option Nat) :=
  ws.zipIdx.map fun x => (first + x.2, if x.1 = 0xFFFFFFFF then none else some x.1.toNat)

/-- The entries that change what an index holds. -/
def Seq.changed (q : Seq) (es : List (Nat × Option Nat)) : List (Nat × Option Nat) := es.filter fun e => mget q.pages e.1 ≠ e.2

/-- The placements of a command: index and group number. -/
def placements (es : List (Nat × Option Nat)) : List (Nat × Nat) := es.filterMap fun e => e.2.map fun n => (e.1, n)

/-- Whether two runs of `layers` pages share one. -/
def runsMeet (a b layers : Nat) : Bool := a < b + layers && b < a + layers

/-- Whether some two placements of a command meet. -/
def anyMeet (layers : Nat) : List (Nat × Nat) → Bool
  | [] => false
  | x :: xs => xs.any (fun y => runsMeet x.2 y.2 layers) || anyMeet layers xs

/-- Whether PAGE_LIST_SET is refused (R103). -/
def State.listBad (s : State) (q : Seq) (es : List (Nat × Option Nat)) : Bool :=
  let ch := q.changed es
  let gone := ch.filterMap fun e => mget q.pages e.1
  let new := placements ch
  es.any (fun e => e.1 < ceilDiv q.r q.tpp || ceilDiv q.limit q.tpp ≤ e.1) ||
    es.any (fun e => match e.2 with
      | some n => !validGroup n q.layers
      | none => false) ||
    new.any (fun e => s.overlapsGroup q.part e.2 q.layers fun k _ => !gone.contains (k % 2 ^ 32)) ||
    anyMeet q.layers new

/-- Places groups one after another; none when one finds no frames, leaf chunk or mirror slots. -/
def State.placeAll (s : State) (h : Nat) : List (Nat × Nat) → Option State
  | [] => some s
  | e :: es =>
    match s.assignAt h e.1 e.2 true with
    | some t => State.placeAll t h es
    | none => none

/-- PAGE_LIST_SET's effect. -/
def effPageListSet (d : Pend) (s : State) : State :=
  match s.named d with
  | none => s.conclude d 0x13 0 0
  | some q =>
    let es := listEntries (d.par 16 4) (d.words.take (d.par 20 4))
    if (q.state ≠ .opened && q.state ≠ .ready && q.state ≠ .paused && q.state ≠ .done) || s.listBad q es then
      s.conclude d 0x13 0 0
    else
      let ch := q.changed es
      let freed := ch.foldl (fun s e => s.releaseAt d.handle e.1) s
      match freed.placeAll d.handle (placements ch) with
      | none => s.conclude d 0x12 0x11 0
      | some t =>
        let t := if ch.any fun e => e.1 = q.block q.r then t.modSeq d.handle fun q => { q with appended := 0, written := [] } else t
        t.noteTiers.conclude d 0 0 0

/-- PAGE_LIST_SET (R103). -/
def execPageListSet (c : Cmd) (entries : List (BitVec 32)) (s : State) : Out := .next (s.command 0x23 c entries 0 effPageListSet)

end Sys2Proof.Machine
end

