-- ==== Sys2Proof/Machine/Batch.lean ====
section
/-! DEFINITION. What a boundary fixes for the next cycle: the skimmer's holds, the batch cap, the batch, the draft lengths, the prefill
pass and the chunk (R152, R154, R168, R175, R188 to R195, R250 to R257, R268). -/

set_option Elab.async false

namespace Sys2Proof.Machine

/-! ### The skimmer (R256, R257) -/

/-- The refill of a tenant's budget at tick `t`. -/
def Tenant.refill (x : Tenant) (t : Tick) : Tenant :=
  if x.unlimited then { x with rem := 0, last := t }
  else
    let num := x.rate * (t - x.last) * 65536 + x.rem
    let b := x.budget + (num / 4000000000 : Nat)
    let full : Int := x.burst * 65536
    if full ≤ b then { x with budget := full, rem := 0, last := t } else { x with budget := b, rem := num % 4000000000, last := t }

/-- The hold decision. -/
def Tenant.holds (x : Tenant) (held : Bool) : Bool :=
  if x.unlimited then false
  else if x.budget ≤ 0 then true
  else if held && max 65536 (x.burst * 65536 / 8 : Int) ≤ x.budget then false
  else held

/-- Refills a tenant's budget and decides its hold. -/
def State.skimTenant (s : State) (t : Nat) (x : Tenant) : State :=
  let y := x.refill s.now
  let held := y.holds (s.flag schTenant_hold t)
  let s := (s.setTenant t y).setFlag schTenant_hold t held
  { s with seqs := mmap s.seqs fun _ q => if q.tenant = t then { q with hold := held } else q }

/-- The skimmer's row of a boundary: every tenant of the partition. -/
def State.skim (s : State) (p : Nat) : State :=
  (s.tenants.filter fun x => s.tenantIn x.1 p).foldl (fun s x => s.skimTenant x.1 x.2) s

/-- An enable or resume that took effect at this boundary under a hold replies with TENANT_HOLD (R70). -/
def State.holdReplies (s : State) (p : Nat) : State :=
  (s.cmdsWhere fun c => c.wait = .firstStep && c.part = p && c.effTick = s.now).foldl (fun s c =>
    match s.seq c.handle with
    | some q => if q.hold then s.afterRelease c 0 0x20 0 else s
    | none => s) s

/-! ### The cap (R252) -/

/-- The cap's update for an interval of `i` ticks. -/
def State.updateCap (s : State) (p i : Nat) : State :=
  let goal := s.fld schGoal_goal p
  let bmax := s.fld schPart_batchMax p
  let cap := s.fld schPart_cap p
  let x := s.part p
  if goal = 0 then (s.setFld schPart_cap p bmax).setPart p { x with overCap := 0, underCap := 0 }
  else
    let c : Nat × Nat := if goal < i then (x.overCap + 1, 0) else if i * 8 ≤ goal * 7 then (0, x.underCap + 1) else (0, 0)
    let r : Nat × Nat := if c.1 = 2 then (max 1 (cap - cap / 4), 0) else (cap, c.1)
    let u : Nat × Nat := if c.2 = 16 then (min bmax (r.1 + r.1 / 8 + 1), 0) else (r.1, c.2)
    (s.setFld schPart_cap p u.1).setPart p { x with overCap := r.2, underCap := u.2 }

/-! ### The order of candidates -/

/-- Inserts by a comparison. -/
def insertBy {α : Type} (le : α → α → Bool) (x : α) : List α → List α
  | [] => [x]
  | y :: ys => if le x y then x :: y :: ys else y :: insertBy le x ys

/-- Sorts by a comparison, keeping the order of equals. -/
def sortBy {α : Type} (le : α → α → Bool) (l : List α) : List α := l.foldr (insertBy le) []

/-- The order by PRIORITY, then by a tick, then by handle. -/
def beforeBy (tick : Seq → Tick) (a b : Nat × Seq) : Bool :=
  if a.2.priority ≠ b.2.priority then a.2.priority < b.2.priority
  else if tick a.2 ≠ tick b.2 then tick a.2 < tick b.2
  else a.1 ≤ b.1

/-- Whether a sequence that was STEPPING at a lost member arrives at this spare and has not flipped yet (R396). -/
def Seq.awaited (q : Seq) : Bool :=
  q.state = .moving && q.prior = .stepping && q.move.any fun (m : Move) => m.incoming && m.recast && m.flipTick.isNone

/-- The candidates of R250 step 1 in their order; in a lockstep group a sequence whose flip has not taken place keeps its place among
them (R396). -/
def State.batchCandidates (s : State) (p : Nat) : List (Nat × Seq) :=
  sortBy (beforeBy fun q => q.enableTick)
    ((s.seqsOf p).filter fun x => x.2.state = .stepping || (s.fld schGroup_members p ≠ 0 && x.2.awaited))

/-! ### Sitting out (R250) -/

/-- Whether a sequence waits for an acknowledgement of an earlier step, or has no partner that holds its state. -/
def Seq.mirrorLate (q : Seq) (step : Nat) : Bool :=
  q.copying || q.mirror.isNone || q.unacked.any (· < step) || q.unjournaled.any (· < step)

/-- Whether a candidate is marked in the exclusion mask of another member. -/
def State.excludedAt (s : State) (p i : Nat) : Bool :=
  (s.part p).syncs.any fun m => m.point = 0 && m.member ≠ s.fld schGroup_index p && m.exclude.getLsbD i

/-- The draft length of the coming step (R162, R166, R168): K_CUR, or one token in a probe. -/
def Seq.nextDraft (q : Seq) : Nat × Bool :=
  if !q.speculate then (0, false)
  else if q.kCur = 0 && q.probe = 64 then (q.draftCap 1, q.draftCap 1 = 1)
  else (q.draftCap q.kCur, false)

/-- The reasons of a member's own for which it removes a candidate: the ones that hold before the boundary. -/
def State.ownReason (s : State) (p step : Nat) (x : Nat × Seq) : Bool :=
  x.2.state ≠ .stepping || x.2.mirrorLate step || s.ringWaits p x.1 || (s.assignStep x.1 x.2.nextDraft.1).isNone || x.2.hold || x.2.poisoned || !s.seqReady x.2

/-- A candidate that is kept enters the batch: its draft length is fixed, its probe and its want of a ring are counted. -/
def State.keep (s : State) (h : Nat) (q : Seq) : State :=
  let d := q.nextDraft
  let s := s.modSeq h fun q =>
    { q with draft := d.1, probing := d.2, probe := if d.2 then 0 else q.probe, selected := none, appended := 0, written := [] }
  let s := if q.wantsRing then s.bump genSpecStat_noRing q.part 1 else s
  if d.2 then s.bump genSpecStat_probes q.part 1 else s

/-- One candidate: it sits out for the first reason of R250's table that holds, or it is kept with the groups that its
appends enter (R96). -/
def State.consider (p step n lockstep : Nat) (a : State × List Nat) (x : (Nat × Seq) × Nat) : State × List Nat :=
  let s := a.1
  let h := x.1.1
  let s := s.giveRing h
  match s.seq h with
  | none => (s, a.2)
  | some q =>
    if q.state ≠ .stepping then a
    else if lockstep ≠ 0 && 1024 ≤ x.2 then (s.bump schSkip_shed p 1, a.2)
    else if q.mirrorLate step then (s.bump schSkip2_mirrorLate p 1, a.2)
    else if s.ringWaits p h then (s.bump cmdRingSkip_count p 1, a.2)
    else
      match s.assignStep h q.nextDraft.1 with
      | none => (s.bump ldlNopageSkip_count p 1, a.2)
      | some t =>
        if q.hold then (s.bump schSkip_hold p 1, a.2)
        else if q.poisoned then (s, a.2)
        else if !s.seqReady q then (s.fetchSeq h, a.2)
        else if lockstep ≠ 0 && s.excludedAt p x.2 then (s.bump schSkip2_excluded p 1, a.2)
        else if n ≤ a.2.length then (s.bump schSkip_shed p 1, a.2)
        else ((t.notePins h).keep h q, a.2 ++ [h])

/-- Fixes the batch of the next cycle. -/
def State.fixBatch (s : State) (p step : Nat) : State :=
  let n := min 1024 (min (s.fld schPart_batchMax p) (s.fld schPart_cap p))
  let r := (s.batchCandidates p).zipIdx.foldl (State.consider p step n (s.fld schGroup_members p)) (s, [])
  let s := r.1.modPart p fun x => { x with batch := r.2, poisonedAll := false }
  { s with seqs := mmap s.seqs fun _ q => if q.part = p then { q with poisoned := false, dropped := false } else q }

/-! ### Which path a kernel takes (R152 to R154, R175, R240) -/

/-- The query positions of the step: those of the batch's sequences (R152). -/
def State.positions (s : State) (p : Nat) : Nat :=
  ((s.part p).batch.map fun h => match s.seq h with
    | some q => q.draft + 1
    | none => 0).sum

/-- Whether the batch holds a sequence of a set. -/
def State.batchUses (s : State) (p set : Nat) : Bool :=
  (s.part p).batch.any fun h => match s.seq h with
    | some q => q.model = set
    | none => false

/-- The kernel that an entry names: set, kernel and layer. -/
def Entry.kernelKey (e : Entry) : Nat := (e.weightSet * 256 + e.kernel) * 256 + e.layer

/-- Whether a layer's processor-layout blocks lie on a channel withdrawn from processor work (R160). -/
def State.nearLost (s : State) (w : WeightSet) (layer : Nat) : Bool :=
  w.nearAt.any fun x => x.1 / 2 ^ 40 = layer && s.flag genChUnits_memOnly (x.2 / 0xC000_0000)

/-- Whether a weight kernel of a layer takes the near-bank path: the choice of the boundary (R152, R154, R160, R175). -/
def State.takesThin (s : State) (p : Nat) (t : Table) (e : Entry) : Bool :=
  match mget s.weights e.weightSet with
  | none => false
  | some w =>
    let same (c : Nat) : Bool := t.entries.any fun x => x.cls = c && x.weightSet = e.weightSet && x.layer = e.layer && x.kernel = e.kernel
    if (s.groupsOf p).isEmpty || !w.dense e.layer then true
    else if !w.thin e.layer || s.nearLost w e.layer then false
    else if !same 1 then true
    else if !same 2 then false
    else s.positions p ≤ s.fld genCrossover_positions e.layer

/-- The boundary that fixes the batch fixes the path of every weight kernel of the coming cycle (R145, R152). -/
def State.fixPaths (s : State) (p : Nat) : State :=
  s.modPart p fun x => { x with thin := match x.active with
    | some t => ((t.entries.filter fun e => (e.cls = 1 || e.cls = 2) && e.kernel ≠ 255 && s.takesThin p t e).map Entry.kernelKey).dedup
    | none => [] }

/-- Whether a weight kernel runs on the near-bank units in this cycle. -/
def State.runsThin (s : State) (p : Nat) (e : Entry) : Bool := (s.part p).thin.contains e.kernelKey

/-- Whether an entry of the cycle has work that the boundary waits for: a generation kernel on the path chosen for it, or the
chunk's. -/
def State.entryWorks (s : State) (p : Nat) (e : Entry) : Bool :=
  match e.cls with
  | 0 => match (s.part p).chunk with
    | some x => x.toks.any fun t => match s.seq t.1 with
      | some q => q.model = e.weightSet
      | none => false
    | none => false
  | 1 => s.batchUses p e.weightSet && !s.runsThin p e
  | 2 => s.batchUses p e.weightSet && (e.kernel = 255 || s.runsThin p e)
  | _ => false

/-! ### Prompt work (R188 to R195) -/

/-- Whether a table holds PREFILL entries for every layer of a set. -/
def Table.prefills (t : Table) (w : WeightSet) (set : Nat) : Bool :=
  (List.range w.layerCount).all fun l => t.entries.any fun e => e.cls = 0 && e.weightSet = set && e.layer = l

/-- Whether a sequence's prompt work runs as chunks (R193). -/
def State.chunked (s : State) (p : Nat) (q : Seq) : Bool :=
  s.flag prmPart_privileged p && s.fld prmPart_chunk p ≠ 0 && match (s.part p).active, mget s.weights q.model with
    | some t, some w => t.prefills w q.model
    | _, _ => false

/-- The tokens of prompt work that a sequence has left. -/
def Seq.workLeft (q : Seq) : Nat := if q.state = .rebuild then q.r - q.rebuildPos else q.prompt.length

/-- The sequences with prompt work, in the order of R188: those of a tenant under hold are left out. -/
def State.promptWork (s : State) (p : Nat) : List (Nat × Seq) :=
  sortBy (beforeBy fun q => if q.state = .rebuild then q.rebuildTick else q.promptTick)
    ((s.seqsOf p).filter fun x => (x.2.state = .prefilling && !x.2.hold) || (x.2.state = .rebuild && x.2.promoted.isNone))

/-- Takes up to `n` tokens from sequences in order. -/
def takeWork : Nat → List (Nat × Seq) → List (Nat × Nat)
  | _, [] => []
  | n, x :: xs =>
    if n = 0 then [] else (x.1, min n x.2.workLeft) :: takeWork (n - min n x.2.workLeft) xs

/-- Whether a pass or a chunk may take a sequence: its stored pages that the work reads are ready (R41, R193). -/
def State.chunkReady (s : State) (q : Seq) : Bool := (q.pagesBelow (ceilDiv q.r q.tpp)).all s.pageReady

/-- Whether a PREFILLING sequence sits out for a late acknowledgement (R30). -/
def Seq.promptLate (q : Seq) (step : Nat) : Bool := q.state = .prefilling && q.mirrorLate step

/-- Of the sequences with prompt work, what a pass or a chunk of up to `n` tokens takes. Those that sit out for a late acknowledgement
are counted (R30); those left out for their pages have them fetched (R41, R193). -/
def State.pickWork (s : State) (p step n : Nat) (all : List (Nat × Seq)) : State × List (Nat × Nat) :=
  let s := s.bump schSkip2_mirrorLate p (all.filter fun x => x.2.promptLate step).length
  let may := all.filter fun x => !x.2.promptLate step
  let toks := takeWork n (may.filter fun x => s.chunkReady x.2)
  ((may.filter fun x => !s.chunkReady x.2).foldl (fun s x => s.fetchSeq x.1) s, toks)

/-- Forms the next prefill pass when none runs. -/
def State.formPass (s : State) (p step : Nat) : State :=
  if (s.part p).pass.isSome || (s.groupsOf p).isEmpty then s
  else
    let r := s.pickWork p step (s.fld prmPart_fillTokens p) ((s.promptWork p).filter fun x => !s.chunked p x.2)
    if r.2.isEmpty then r.1 else r.1.modPart p fun x => { x with pass := some ⟨r.2, 0, false⟩ }

/-- Whether a sequence's tokens run in the partition's pass (R193). -/
def State.inPass (s : State) (p h : Nat) : Bool := (s.part p).pass.any fun x => x.toks.any fun t => t.1 = h

/-- Forms the next cycle's chunk: nothing of the running pass, and nothing where the partition owns no group any more (R201). -/
def State.formChunk (s : State) (p step : Nat) : State :=
  let all := if (s.groupsOf p).isEmpty then [] else (s.promptWork p).filter fun x => s.chunked p x.2 && !s.inPass p x.1
  let r := s.pickWork p step (s.fld prmPart_chunk p) all
  r.1.modPart p fun x => { x with chunk := if r.2.isEmpty then none else some ⟨r.2, 0, false⟩ }

/-- CHUNK becomes 0 at the boundary after the privilege is removed (R192). -/
def State.dropChunk (s : State) (p : Nat) : State :=
  if s.flag prmPart_privileged p then s else s.setFld prmPart_chunk p 0

end Sys2Proof.Machine
end

