-- ==== Sys2Proof/Machine/Gates.lean ====
section
/-! DEFINITION. The gate lists in force on the ports (R369, R370). -/

set_option Elab.async false

namespace Sys2Proof.Machine

/-- A duration as a list in force has it: stretched with its partition's cycle when the list is bound (R271, R369). -/
def State.gateSpan (s : State) (g : GateList) (d : Nat) : Nat :=
  match g.bind with
  | some p => ceilDiv (d * s.fld schPeriod_stretch p) 1024
  | none => d

/-- The end of an entry that begins at a tick: the last entry of a bound list holds until the next boundary, and that of an unbound
one until the cycle ends, which also cuts any other. -/
def State.gateEnd (s : State) (g : GateList) (idx : Nat) (from_ : Tick) : Option Tick :=
  let t := from_ + s.gateSpan g (g.entries.getD idx (0, 0)).1
  let isLast := g.entries.length ≤ idx + 1
  match g.bind with
  | some _ => if isLast then none else some t
  | none => some (if isLast then g.start + g.cycle else min t (g.start + g.cycle))

/-- Puts an entry of a port's list in force from a tick on, with its mask in SHP_GATE_STAT. -/
def State.enterGate (s : State) (q : Nat) (g : GateList) (idx : Nat) (from_ : Tick) : State :=
  let g := { g with idx := idx, idxEnd := s.gateEnd g idx from_ }
  ({ s with shp := { s.shp with gates := mset s.shp.gates q g } }).setFld shpGateStat_gates q (g.entries.getD idx (0, 0xFF)).2

/-- Begins a port's list again at a tick. -/
def State.restartGate (s : State) (q : Nat) (g : GateList) (from_ : Tick) : State := s.enterGate q { g with start := from_ } 0 from_

/-- A boundary of a partition restarts the lists that are bound to it. -/
def State.restartGates (s : State) (p : Nat) : State :=
  (s.shp.gates.filter fun g => g.2.bind = some p).foldl (fun s g => s.restartGate g.1 g.2 s.now) s

/-- The next entry of a port's list, or the first one of its next cycle. -/
def State.nextGate (s : State) (q : Nat) (g : GateList) (t : Tick) : State :=
  match g.bind with
  | some _ => s.enterGate q g (g.idx + 1) t
  | none => if g.start + g.cycle ≤ t then s.restartGate q g (g.start + g.cycle) else s.enterGate q g (g.idx + 1) t

end Sys2Proof.Machine
end

