-- ==== Sys2Proof/Machine/Moves.lean ====
section
/-! DEFINITION. The move of a sequence between devices: the stream from its source, what its destination takes in, the flip and the
ways in which a move ends (R33 to R38, R73, R88). -/

set_option Elab.async false

namespace Sys2Proof.Machine

/-! ### The source's stream (R33, R34) -/

/-- The bulk connection's number of a group, and the index that stands for the descriptor and the journal. -/
def offerIndex : Nat := 262144

/-- A move that has just begun. -/
def Move.begun (node part cls handle : Nat) : Move :=
  ⟨node, part, cls, false, handle, 0, [], none, false, false, false, false, false, none, none⟩

/-- Sends the descriptor, with the state that the sequence leaves, and the journal. -/
def State.sendOffer (s : State) (h : Nat) (m : Move) : State :=
  match s.seq h with
  | none => s
  | some q =>
    let d := ({ q with state := q.prior }).descriptor h
    s.writeBulk m.node m.cls 0 0 0 (d ++ q.journal.flatMap fun t => leBytes 4 t.toNat) (.moveGroup h offerIndex)

/-- The next page of a move to send: page-list index, layer, group. -/
def Seq.nextPage (q : Seq) (m : Move) : Option (Nat × Nat × Nat) :=
  (q.pages[m.sent / q.layers]?).map fun e => (e.1, m.sent % q.layers, e.2)

/-- One page of a move leaves for the destination as its sixteen sub-blocks, at its place in its group's stream. -/
def State.sendPage (s : State) (h : Nat) : State :=
  match s.seq h with
  | none => s
  | some q =>
    match q.move with
    | none => s
    | some m =>
      if m.incoming || q.state ≠ .moving then s
      else
        match q.nextPage m with
        | none => s
        | some (i, l, n) =>
          let s := (s.modSeq h fun q => { q with move := some { m with sent := m.sent + 1 } }).touchPages [pageKey q.part (n + l)]
          s.writeBulk m.node m.cls (i % 8) 0 (l * 66048) (s.pageSlots (pageKey q.part (n + l))) (.moveGroup h i)

/-! ### STATE_MOVE -/

/-- STATE_MOVE's effect: the sequence becomes MOVING and its stream begins with the descriptor and the journal. -/
def effStateMove (d : Pend) (s : State) : State :=
  let node := d.par 16 2
  match s.named d with
  | none => s.conclude d 0x13 0 0
  | some q =>
    if q.state ≠ .ready && q.state ≠ .paused then s.conclude d 0x13 0 0
    else if !s.reachable node then s.conclude d 0x22 0 0
    else
      let m := Move.begun node (d.par 18 1 % 16) (d.par 19 1 % 8) d.handle
      let s := s.modSeq d.handle fun q => { q with prior := q.state, move := some m }
      ((s.become d.handle .moving).sendOffer d.handle m).await d.id .move

/-- STATE_MOVE (R33). -/
def execStateMove (c : Cmd) (s : State) : Out := .next (s.plain 0x20 c effStateMove)

/-! ### How a move ends at the source (R36, R37, R73, R88) -/

/-- The commands of a sequence with a wait. -/
def State.cmdsOf (s : State) (p h : Nat) (w : Wait) : List Pend := s.cmdsWhere fun c => c.wait = w && c.part = p && c.handle = h

/-- The replies at the end of a move, behind the sequence's own records (R27): STATE_MOVE with a status, the first cancel OK with a
RESULT, and every further one ALREADY_DONE (R31, R37). -/
def State.moveReplies (s : State) (moves cancels : List Pend) (status detail result cancelled : Nat) : State :=
  let s := moves.foldl (fun s c => s.afterRecords c status detail result) s
  let s := (cancels.take 1).foldl (fun s c => s.afterRecords c 0 0 cancelled) s
  (cancels.drop 1).foldl (fun s c => s.afterRecords c 1 0 0) s

/-- The sequence has left: the source frees its copy and the handle, and tells the manager so; STATE_MOVE replies OK naming the new
home, and a cancel that lost to the flip replies OK naming it too (R36, R37). -/
def State.moveEnds (s : State) (h : Nat) (q : Seq) (detail home : Nat) : State :=
  let moves := s.cmdsOf q.part h .move
  let cancels := s.cmdsOf q.part h .abandon
  ((s.shipJournal q.part h 2 q.length 0).closeSeq q.part h).moveReplies moves cancels 0 detail home home

/-- The flip acknowledgement (R36). -/
def State.moveDone (s : State) (h : Nat) (q : Seq) (m : Move) (newPart newHandle : Nat) : State :=
  s.moveEnds h q (if m.retried then 6 else 0) (homeResult m.node newPart newHandle)

/-- The move ends with the sequence cancelled: DONE with reason CANCELLED, STATE_MOVE with a status, SEQ_CANCEL OK. -/
def State.moveCancelled (s : State) (h : Nat) (q : Seq) (status : Nat) : State :=
  let moves := s.cmdsOf q.part h .move
  let cancels := s.cmdsOf q.part h .abandon
  (s.makeDone q.part h 2).moveReplies moves cancels status 0 0 0

/-- The move ends with the sequence home: it returns to the state it left, and STATE_MOVE replies with a status. A cancel that
has taken effect becomes a cancel of the sequence here (R37, R38). -/
def State.moveBack (s : State) (h : Nat) (q : Seq) (status : Nat) : State :=
  let moves := s.cmdsOf q.part h .move
  let cancels := s.cmdsOf q.part h .abandon
  let s := s.modSeq h fun q => { q with move := none, cancelled := false }
  let s := s.become h q.prior
  let s := if q.cancelled then s.makeDone q.part h 2 else s
  s.moveReplies moves cancels status 0 0 0

/-- The destination is lost after the flip tick: home is its mirror or a spare, as the manager's decision says, and the source's copy
goes; a destination lost before it leaves the sequence here (R38). -/
def State.destinationLost (s : State) (h : Nat) (q : Seq) (m : Move) : State :=
  let e := Config.moveOutcome m.node h s.freeCtr
  let s := { s with freeCtr := s.freeCtr + 1 }
  let home := homeResult (e.node % 65536) (e.part % 16) (e.handle % 262144)
  match e.kind with
  | 0 => s.moveBack h q 0x22
  | 1 => s.moveEnds h q 1 home
  | 2 => s.moveEnds h q 4 home
  | _ => s.moveEnds h q 2 home

/-- The sequence that moves away under a handle. -/
def State.leaving (s : State) (h : Nat) : Option (Seq × Move) :=
  match s.seq h with
  | some q =>
    match q.move with
    | some m => if q.state = .moving && !m.incoming then some (q, m) else none
    | none => none
  | none => none

/-- MOVE_FLIP_ACK (R36): also the answer FLIPPED of R37. -/
def execMoveFlipAck (handle newHandle : BitVec 18) (_flipTick : BitVec 64) (s : State) : Out :=
  .next <| s.whenLive fun s =>
    match s.leaving handle.toNat with
    | some (q, m) => if m.recast then s else s.moveDone handle.toNat q m m.part newHandle.toNat
    | none => s

/-- The destination has given up a move that an abandon request asked it to: the sequence is cancelled where a cancel has taken
effect, and returns to its prior state where a partition reset sent the request (R37, R260). -/
def State.abandoned (s : State) (h : Nat) (q : Seq) (m : Move) : State :=
  if m.byReset && !q.cancelled then s.moveBack h q 0x40
  else s.moveCancelled h q (if m.byReset then 0x40 else 1)

/-- A recast stream ends without its flip: the sequence stays MOVING at the promoting partner (R395). -/
def State.recastEnds (s : State) (h : Nat) : State := s.modSeq h fun q => { q with move := none }

/-- A spare has not taken a sequence of a lost home: the manager looks for another for it. -/
def State.spareRefused (s : State) (lost spare : Nat) : State :=
  { s with res := { s.res with
      refused := mset s.res.refused lost (mgetD s.res.refused lost [] ++ [spare])
      unspared := if s.res.unspared.contains lost then s.res.unspared else s.res.unspared ++ [lost] } }

/-- A stream that a living spare refuses, or that fails to it: the sequence waits for the next spare that the manager assigns (R395). -/
def State.recastRefused (s : State) (h : Nat) (q : Seq) (m : Move) : State :=
  let s := (s.recastEnds h).modSeq h fun q => { q with refusedBy := q.refusedBy ++ [m.node] }
  match q.promoted with
  | none => s
  | some x =>
    if s.flag resStat_managing 0 then s.spareRefused x.1 m.node
    else if s.fld resMgr_acting 0 = 0xFFFF then s
    else s.send (s.fld resMgr_acting 0) (.spareRefused x.1 m.node)

/-- MOVE_REFUSED (R88, R37, R395): once the abandon request is out, a refusal counts as the answer ABANDONED. -/
def execMoveRefused (handle : BitVec 18) (s : State) : Out :=
  .next <| s.whenLive fun s =>
    match s.leaving handle.toNat with
    | some (q, m) =>
      if m.abandonSent then s.abandoned handle.toNat q m
      else if m.recast then s.recastRefused handle.toNat q m
      else s.moveBack handle.toNat q 0x13
    | none => s

/-- ABANDONED_ANSWER (R37). -/
def execAbandonedAnswer (handle : BitVec 18) (s : State) : Out :=
  .next <| s.whenLive fun s =>
    match s.leaving handle.toNat with
    | some (q, m) => if m.abandonSent then s.abandoned handle.toNat q m else s
    | none => s

/-! ### The destination (R34, R35, R88) -/

/-- The sequence that a source's handle names here while it arrives, and after its flip. -/
def State.arriving (s : State) (node handle : Nat) : Option (Nat × Seq × Move) :=
  s.seqs.findSome? fun x =>
    match x.2.move with
    | some m => if m.incoming && (m.node = node || (m.retried && m.mirror = some node)) && m.srcHandle = handle then some (x.1, x.2, m) else none
    | none => none

/-- Whether the destination's weight set agrees with what a move brings (R88). -/
def State.moveFits (s : State) (o : MoveOffer) : Bool :=
  match mget s.weights o.model.toNat with
  | some w => geoLayers w.geometry = o.layers.toNat && geoKvHeads w.geometry = o.kvHeads.toNat &&
      geoHeadDim w.geometry = o.headDim.toNat && geoFp8Kind w.geometry = o.fp8Kind.toNat && o.format.toNat ≤ 2
  | none => s.flag resStat_recastDest 0 && o.format.toNat ≤ 2

/-- The sequence that a move brings, as it stands before its pages: MOVING here until its flip (DESIGN CHOICE, log 124). -/
def arrivingSeq (node : Nat) (o : MoveOffer) (mirror : Nat × Nat) (recast : Bool) : Seq where
  part := o.dstPart.val
  tenant := o.tenant.toNat
  model := o.model.toNat
  format := o.format.toNat
  state := .moving
  prior := SeqState.ofCode o.state.toNat
  priority := o.priority.toNat
  speculate := o.speculate
  prot := o.prot
  hold := false
  tail := o.tail
  reason := o.reason.toNat
  length := o.length.toNat
  limit := o.limit.toNat
  tpp := tokensPerPage o.kvHeads.toNat o.headDim.toNat o.format.toNat
  layers := o.layers.toNat
  kvHeads := o.kvHeads.toNat
  headDim := o.headDim.toNat
  appended := 0
  written := []
  seed := o.seed
  temperature := o.temperature
  topP := o.topP
  topK := o.topK.toNat
  stops := o.stops.map BitVec.toNat
  probe := o.spec.toNat / 2 ^ 14 % 2 ^ 7
  fullRun := o.spec.toNat / 2 ^ 11 % 8
  zeroRun := o.spec.toNat / 2 ^ 8 % 8
  kMax := o.spec.toNat / 2 ^ 4 % 16
  kCur := o.spec.toNat % 16
  lastStep := o.lastStep.toNat
  mirror := some mirror
  oldMirror := none
  job := 0
  journal := o.journal.take o.length.toNat
  kinds := (List.range o.length.toNat).map fun i => o.tail && decide (i + 1 = o.length.toNat)
  prompt := (o.journal.drop o.length.toNat).map BitVec.toNat
  promptTick := 0
  enableTick := 0
  pages := []
  leaves := []
  slots := []
  journalSlots := []
  ring := none
  draft := 0
  probing := false
  selected := none
  poisoned := false
  dropped := false
  unacked := none
  unjournaled := none
  copying := false
  copied := 0
  mirroring := false
  move := some { Move.begun node o.srcPart.val 0 o.handle.toNat with
    incoming := true, recast := recast, mirror := if o.mirror = 0xFFFF then none else some o.mirror.toNat }
  rebuildPos := 0
  rebuildTick := 0
  promoted := none
  refusedBy := []
  cancelled := false

/-- Assigns groups to a list of page-list indices, all or none. -/
def State.assignList (s : State) (h : Nat) : List Nat → Option State
  | [] => some s
  | i :: is =>
    match s.assignGroup h i with
    | some t => State.assignList t h is
    | none => none

/-- A moved sequence's journal and its slot directory go to the destination's own mirror as they arrive (R18, R34). -/
def State.shipArrived (s : State) (h : Nat) : State :=
  match s.seq h with
  | none => s
  | some q =>
    match q.mirror with
    | some m => (State.shipTokens s h 6 m.1 0 (q.journal ++ q.prompt.map (BitVec.ofNat 32))).shipSlots h 6 m.1 0 q
    | none => s

/-- Takes in what a move brings, under a handle of this device, with a group for each index that is to come; the mirror of a recast
sequence is the promoting partner, where it has granted a slice (R395). None when the geometry differs or no partner, handle or pages can be had. -/
def State.takeMove (s : State) (node : Nat) (o : MoveOffer) : Option State :=
  if !s.moveFits o || !s.tenantIn o.tenant.toNat o.dstPart.val then none
  else
    let recast := s.flag resStat_recastDest 0 || (o.state.toNat ≠ 3 && o.state.toNat ≠ 5)
    let mirror := if recast && s.partnerOk node then some (node, s.fdomOf node) else s.defaultPartner
    match mirror, s.takeHandle with
    | some p, some (h, t) =>
      let q := arrivingSeq node o p recast
      if !recast && !s.journalTakes q q.length then none
      else (State.assignList (t.openSeq h q) h (o.pageIndices.map BitVec.toNat)).map fun s =>
        (if recast then s else s.shipArrived h).noteTiers
    | _, _ => none

/-- The arrival of the descriptor and journal of a move: the destination takes it in or refuses it. -/
def State.moveOffered (s : State) (node : Nat) (o : MoveOffer) : State :=
  if (s.arriving node o.handle.toNat).isSome then s
  else (s.takeMove node o).getD (s.send node (.refused o.handle.toNat))

/-- Cuts a group's stored bytes into the pages of its layers and expands each, up to the first error. -/
def State.expandGroup (s : State) (key : Nat) : Nat → List (BitVec 8) → State × Option Nat
  | 0, _ => (s, none)
  | n + 1, bs =>
    match expandSlots 16 (bs.take 66048) with
    | .ok raw => State.expandGroup (s.setPageBytes key raw) (key + 1) n (bs.drop 66048)
    | .error e => (s, some e)

/-- A protected sequence's group that has arrived goes on to the destination's mirror (R34). -/
def State.mirrorGroup (s : State) (h i n : Nat) (q : Seq) : State :=
  if q.prot && !(match q.move, q.mirror with
      | some m, some x => m.recast && decide (m.node = x.1)
      | _, _ => false) then
    (List.range q.layers).foldl (fun s l => s.shipRow h i l 0 (s.pageBytes (pageKey q.part (n + l)))) s
  else s

/-- The bytes of one frame of a group's stream: held until the group is whole, then expanded into its pages (R227, R228). -/
def State.groupArrives (s : State) (node handle i : Nat) (bs : List (BitVec 8)) : State :=
  match s.arriving node handle with
  | none => s
  | some (h, q, m) =>
    match mget q.pages i with
    | none => s
    | some n =>
      let key := pageKey q.part n
      let got := mgetD s.tiers.transit key [] ++ bs
      if got.length < q.layers * 66048 then { s with tiers := { s.tiers with transit := mset s.tiers.transit key got } }
      else
        let s := { s with tiers := { s.tiers with transit := mdel s.tiers.transit key } }
        match s.expandGroup key q.layers got with
        | (s, none) =>
          (s.modSeq h fun q => { q with move := some { m with received := m.received ++ [i] } }).mirrorGroup h i n q
        | (s, some e) =>
          let s := (s.freeSeq h).send node (.refused handle)
          s.expandError e n ((badSlot (16 * q.layers) got).getD (storedOf got))

/-- Whether a weight set is loaded: a spare reads a set that it lacks from its authoritative copy before its first flip (R394), which
comes here as that set's WEIGHT_LOAD (DESIGN CHOICE, log 161). -/
def State.hasSet (s : State) (model : Nat) : Bool :=
  match mget s.weights model with
  | some w => !w.busy
  | none => false

/-- Whether the destination holds everything of a move (R35). -/
def State.moveHeld (s : State) (h : Nat) (q : Seq) (m : Move) : Bool :=
  m.flipTick.isNone && s.hasSet q.model && (q.pages.all fun e => m.received.contains e.1) && (!q.prot || s.appendsAcked h)

/-- Whether sequences of a recast still arrive. -/
def State.recastArriving (s : State) : Bool :=
  s.seqs.any fun x => match x.2.move with
    | some m => m.incoming && m.recast && m.flipTick.isNone
    | none => false

/-- The state that an arriving sequence takes at the flip: READY after a STATE_MOVE by the table of R22, where R37
also has PAUSED (DESIGN CHOICE, log 125); the recorded state after a recast (R395). -/
def Seq.flipState (q : Seq) (m : Move) : SeqState := if m.recast then q.prior else .ready

/-- The bytes of a flip acknowledgement (DESIGN CHOICE, log 127): the source's handle, the new home's partition and handle, the flip tick. -/
def flipBytes (srcHandle part h tick : Nat) : List (BitVec 8) :=
  leBytes 4 srcHandle ++ leBytes 4 part ++ leBytes 4 h ++ leBytes 8 tick

/-- The acknowledgement of a flip leaves for the source; the fabric tells when it has arrived there. -/
def State.sendFlip (s : State) (node srcHandle part h tick : Nat) : State :=
  (s.send node (.flipped srcHandle part h tick)).writeBulk node 2 0 0 0 (flipBytes srcHandle part h tick) (.flip h)

/-- The flip: the destination is home from this tick on and acknowledges it. LAST_STEP is the step count of the new home's partition,
and the journal goes to the manager under the new home. A sequence that a recast brings back STEPPING or PREFILLING takes its place at
once (R395); an unprotected one is rebuilt (R397). -/
def State.stampFlip (s : State) (h : Nat) (q : Seq) (m : Move) : State :=
  let step := s.fld schStep_count q.part
  let s := s.modSeq h fun q =>
    { q with move := some { m with flipTick := some s.now }, promptTick := s.now, enableTick := s.now, lastStep := step % 2 ^ 32 }
  let s := s.become h (q.flipState m)
  let s := if m.recast && !q.prot && 0 < q.r && q.prior ≠ .done then s.toRebuild h else s
  let s := if m.recast && !s.recastArriving then s.setFlag resStat_recastDest 0 false else s
  let s := (s.shipDescriptor h (step % 2)).reshipJournal h q
  let s := if q.journal.isEmpty then s else s.markJournal h step
  s.sendFlip m.node m.srcHandle q.part h s.now

/-- MOVE_FLIP (R35). -/
def execMoveFlip (node : BitVec 16) (handle : BitVec 18) (s : State) : Out :=
  .next <| s.whenLive fun s =>
    match s.arriving node.toNat handle.toNat with
    | some (h, q, m) => if s.moveHeld h q m then s.stampFlip h q m else s
    | none => s

/-- A cancel that lost to the flip of a move is applied at the destination (R37). -/
def State.lateCancel (s : State) (h : Nat) : State :=
  match s.seq h with
  | some q =>
    if q.cancelled && (q.state = .ready || q.state = .paused) then
      (s.makeDone q.part h 2).modSeq h fun q => { q with cancelled := false }
    else s
  | none => s

/-- An abandon request reaches the destination, which decides (R37): after the flip tick the cancel is applied at the first
boundary here; before it everything received is discarded. -/
def State.abandonAsked (s : State) (node handle : Nat) : State :=
  match s.arriving node handle with
  | some (h, q, m) =>
    match m.flipTick with
    | some t =>
      let s := (s.modSeq h fun q => { q with cancelled := true }).send node (.flipped handle q.part h t)
      if s.hasTable q.part then s else s.lateCancel h
    | none => (s.freeSeq h).send node (.abandoned handle)
  | none => s.send node (.abandoned handle)

/-- MOVE_ABANDON_REQUEST (R37). -/
def execMoveAbandonRequest (node : BitVec 16) (handle : BitVec 18) (s : State) : Out :=
  .next <| s.whenLive fun s => s.abandonAsked node.toNat handle.toNat

end Sys2Proof.Machine
end

