-- ==== Sys2Proof/Machine/Boundary.lean ====
section
/-! DEFINITION. The step boundary (R25 to R31, R235 to R252, R271 to R273), and the acknowledgements that release a step (R383,
R384). -/

set_option Elab.async false

namespace Sys2Proof.Machine

/-! ### Command effects (R25, R26, R40, R76) -/

/-- The effect of a command that waited for its boundary, by its opcode. -/
def boundaryEffect (d : Pend) (s : State) : State :=
  match d.op with
  | 0x11 => effSeqPrompt d s
  | 0x12 => effSeqStepEnable d s
  | 0x13 => effSeqPause d s
  | 0x14 => effSeqResume d s
  | 0x15 => effSeqCancel d s
  | 0x16 => effSeqClose d s
  | 0x17 => effSeqQuery d s
  | 0x20 => effStateMove d s
  | 0x21 => effStateMirror d s
  | 0x22 => effStateFetch d s
  | 0x23 => effPageListSet d s
  | 0x60 => effPwrClassPoint d s
  | 0x70 => effTenantSet d s
  | _ => s

/-- The commands of a partition that wait for its boundary, in order of acceptance. -/
def State.waitingAt (s : State) (p : Nat) : List Pend :=
  sortBy (fun a b => a.accTick ≤ b.accTick) (s.cmdsWhere fun c => c.wait = .boundary && c.part = p && c.accTick < s.now)

/-- One command at the boundary: an enable or resume whose pages are not ready keeps waiting for their fetch, and so does every later
command of its sequence (R40, R76). -/
def applyOne (a : State × List Nat) (d : Pend) : State × List Nat :=
  if d.namesSeq && a.2.contains d.handle then a
  else if a.1.enableWaits d then (a.1.fetchNamed d.part d.handle, d.handle :: a.2)
  else
    let d := { d with effTick := a.1.now }
    (boundaryEffect d (a.1.modCmd d.id fun c => { c with effTick := a.1.now }), a.2)

/-- A command that waited for a flip's acknowledgement goes on as it would have at its acceptance (R35). -/
def State.resumeCmd (s : State) (d : Pend) : State :=
  if isClassB d.op && s.hasTable d.part then s.await d.id .boundary
  else boundaryEffect { d with effTick := s.now } (s.modCmd d.id fun c => { c with effTick := s.now })

/-- The acknowledgement of a flip has arrived at the source, or the source is dead: the commands that waited for it go on (R35). -/
def State.flipArrived (s : State) (h : Nat) : State :=
  let s := s.modSeq h fun q => { q with move := q.move.map fun (m : Move) => { m with flipAcked := true } }
  (s.cmdsWhere fun c => c.wait = .flip && c.handle = h).foldl State.resumeCmd s

/-- The command-effect row of a boundary. -/
def State.applyCommands (s : State) (p : Nat) : State := ((s.waitingAt p).foldl applyOne (s, [])).1

/-- The cancels that lost to a flip are applied at the destination's first boundary after the answer (R37). -/
def State.lateCancels (s : State) (p : Nat) : State := (s.handlesOf p).foldl State.lateCancel s

/-- A sequence without a partner tries the candidates again at every boundary (R385). -/
def State.retryPartner (s : State) (h : Nat) : State :=
  match s.seq h with
  | some q =>
    if q.mirror.isSome then s
    else
      match s.candidates.find? (s.partnerTakes q) with
      | some n => s.changePartner h n
      | none => s
  | none => s

/-! ### Tiles (R200, R201) -/

/-- The logical tiles of a partition's groups. -/
def State.logicalTiles (s : State) (p : Nat) : List Nat := (s.groupsOf p).flatMap fun g => (List.range 8).map (8 * g + ·)

/-- A group leaves while a table runs: its bit of TILE_MASK stands for the lowest-numbered remaining group from here on, behind that
group's own work, until another table becomes active (R201). -/
def State.noteGone (s : State) (p g : Nat) : State :=
  s.modPart p fun x =>
    match ((List.range 24).filter fun k => !x.gone.contains k)[(s.groupsOf p).idxOf g]? with
    | some k => { x with gone := x.gone ++ [k] }
    | none => x

/-- The replacements and withdrawals that wait for the partition's boundary. -/
def State.settleTiles (s : State) (p : Nat) : State :=
  let s := (s.prm.replace.filter fun r => (s.logicalTiles p).contains r.1).foldl (fun s r => s.replaceTile r.1 r.2) s
  (s.prm.withdraw.filter fun g => (s.groupsOf p).contains g).foldl (fun s g => (s.noteGone p g).withdraw g) s

/-! ### Stretching (R271 to R273) -/

/-- A stretch factor that is due comes into force (R273). -/
def State.applyStretch (s : State) (p : Nat) : State :=
  match (s.part p).stretchNext with
  | some (f, t) =>
    if s.now < t then s
    else
      let f := match (s.part p).active with
        | some a => heldStretch a.period f
        | none => f
      let s := (s.modPart p fun x => { x with stretchNext := none, stretchSent := false, lateMax := 0, marginRun := 0, minMargin := 0 }).setFld
        schPeriod_stretch p f
      s.noteTables p
  | none => s

/-- The lateness beyond the scheduled tick in ticks, and the smallest margin, of a cycle's messages. -/
def lateness (ms : List SyncMember) : Nat := (ms.map fun m => (-m.margin).toNat).foldl max 0
def leastMargin (ms : List SyncMember) : Int :=
  match ms with
  | [] => 0
  | m :: rest => rest.foldl (fun a x => min a x.margin) m.margin

/-- The manager's new factor, if it makes one (R272): `l` is the largest lateness since the last change, `run` the cycles with
every margin above twice the slack, `m` the smallest margin of them. -/
def newStretch (f period slack l run : Nat) (m : Int) (late : Bool) : Option Nat :=
  if late then some (min 8192 (ceilDiv (f * (period + l + slack)) period))
  else if 64 ≤ run && 1024 < f then some (max 1024 ((f : Int) * ((period : Int) - (m - slack)) / period).toNat)
  else none

/-- The manager's decision at a boundary: a factor and a swap tick of two periods ahead, and no further one until it is in
force. -/
def State.decideStretch (s : State) (p : Nat) : State :=
  if s.fld schGroup_members p = 0 || s.fld schGroup_manager p ≠ s.ownNode then s
  else
    let x := s.part p
    let ms := x.oldSyncs
    let period := s.fld schPeriod_period p
    let slack := s.fld schGroup_slack p * ticksPerUs
    let m := leastMargin ms
    let wide := !ms.isEmpty && decide ((2 * slack : Int) < m)
    let l := max x.lateMax (lateness ms)
    let run := if wide then x.marginRun + 1 else 0
    let least := if wide then (if x.marginRun = 0 then m else min x.minMargin m) else 0
    let s := s.setPart p { x with lateMax := l, marginRun := run, minMargin := least }
    if x.stretchNext.isSome || period = 0 then s
    else
      match newStretch (s.fld schPeriod_stretch p) period slack l run least (ms.any fun m => m.flags % 2 = 1) with
      | some f => s.modPart p fun x => { x with stretchNext := some (f, s.now + 2 * period), stretchSent := true }
      | none => s

/-! ### The boundary -/

/-- The scheduled tick of the boundary (R236). -/
def State.scheduledTick (s : State) (p : Nat) : Tick := (s.part p).cycleStart + s.fld schPeriod_period p

/-- Whether an entry of the cycle still has work. -/
def State.entryPending (s : State) (p i : Nat) (e : Entry) : Bool :=
  match mget (s.part p).runs i with
  | some (.ended _) => false
  | some _ => e.cls ≤ 2
  | none => s.entryWorks p e

/-- Whether B(n) occurs now (R236): the scheduled tick has come, the generation and prefill entries have ended, and in a group
the barrier of sync point 0 has been released. -/
def State.boundaryDue (s : State) (p : Nat) : Bool :=
  s.live && !s.flag resStat_fenced 0 && s.fld pwrDevStat_state 0 = 0 && !s.flag schPart_resetting p && !(s.part p).halted &&
    match (s.part p).active with
    | some t => s.scheduledTick p ≤ s.now && (s.fld schGroup_members p = 0 || (s.part p).passed.contains 0) &&
        !(t.entries.zipIdx.any fun e => s.entryPending p e.2 e.1)
    | none => false

/-- Whether the first table of a partition takes over now. -/
def State.firstTableDue (s : State) (p : Nat) : Bool :=
  s.live && !s.flag resStat_fenced 0 && s.fld pwrDevStat_state 0 = 0 && !s.flag schPart_resetting p && (s.part p).active.isNone &&
    (s.part p).shadow.isSome && (s.part p).swapTick.any (· ≤ s.now)

/-- The next cycle begins: its start is measured from this boundary, and no entry of it has started. -/
def State.beginCycle (s : State) (p step : Nat) : State :=
  s.modPart p fun x =>
    { x with
      cycleStart := s.now, lastBoundary := s.now, schedDue := false, runs := [], reached := [], passed := []
      oldSyncs := x.syncs.filter fun m => m.cycle < step % 2 ^ 32
      syncs := x.syncs.filter fun m => step % 2 ^ 32 ≤ m.cycle }

/-- The batch row: the swap and the stretch, the batch, the pass and the chunk of the next cycle, the tiles and the points. -/
def State.fixCycle (s : State) (p step : Nat) : State :=
  let s := (((s.takeOver p).applyStretch p).dropChunk p).settleTiles p
  let s := (s.handlesOf p).foldl State.retryPartner s
  let s := (((s.fixBatch p step).fixPaths p).formPass p step).formChunk p step
  let s := s.beginCycle p step
  ((s.restartGates p).decideStretch p).planPoints.noteTiers

/-- B(n): the step count and the lateness, the commit, the command effects, the skimmer and the cap, and the next cycle's
batch; then the step's shipping, and what may be released at once (R26). -/
def State.boundary (s : State) (p : Nat) : State :=
  let s := (s.bumpWrap schStep_count p 1).setFld schLate_maxLateness p
    (max (s.fld schLate_maxLateness p) (min (s.now - s.scheduledTick p) schLate_maxLateness.max))
  let step := s.fld schStep_count p
  let i := s.now - (s.part p).lastBoundary
  let s := ((s.commitAll p step).lateCancels p).applyCommands p
  let s := ((s.skim p).holdReplies p).updateCap p i
  ((s.fixCycle p step).shipStep p step).release p

/-- STEP_BOUNDARY (R26): a partition without an active table only takes its first one (R238, R247). -/
def execStepBoundary (p : Fin 16) (s : State) : Out :=
  .next (if s.boundaryDue p.val then s.boundary p.val
    else if s.firstTableDue p.val then s.fixCycle p.val (s.fld schStep_count p.val) else s)

/-- BOUNDARY_SCHEDULED_TICK (R236). -/
def execBoundaryScheduledTick (p : Fin 16) (s : State) : Out :=
  .next <| s.whenLive fun s =>
    if (s.part p.val).active.isSome && s.scheduledTick p.val ≤ s.now then s.modPart p.val fun x => { x with schedDue := true } else s

/-! ### Acknowledgements (R26, R383, R384) -/

/-- The ACK that covers a step's commit record has come from a partner: the sequences mirrored there may commit again, and
what waited is released. -/
def State.mirrorAcked (s : State) (p node step : Nat) : State :=
  let s := s.modPart p fun x => { x with commits := x.commits.map fun c =>
    if c.step ≤ step then { c with waiting := c.waiting.filter (· ≠ node) } else c }
  let s := { s with seqs := mmap s.seqs fun _ q =>
    if q.part = p && q.mirror.any (fun (m : Nat × Nat) => m.1 = node) && q.unacked.any (· ≤ step) then { q with unacked := none } else q }
  s.release p

/-- MIRROR_ACK (R383). -/
def execMirrorAck (p : Fin 16) (node : BitVec 16) (step : BitVec 64) (s : State) : Out :=
  .next <| s.whenLive fun s =>
    if (s.part p.val).commits.any fun c => c.step = step.toNat && c.waiting.contains node.toNat then
      s.mirrorAcked p.val node.toNat step.toNat
    else s

/-- The manager has acknowledged a step's journal records: the sequences may commit again. -/
def State.journalAcked (s : State) (p step : Nat) : State :=
  { s with seqs := mmap s.seqs fun _ q =>
    if q.part = p && q.unjournaled.any (· ≤ step) then { q with unjournaled := none } else q }

/-- JOURNAL_ACK (R384). -/
def execJournalAck (p : Fin 16) (step : BitVec 64) (s : State) : Out :=
  .next <| s.whenLive fun s => s.journalAcked p.val step.toNat

/-- Whether an append frame of an earlier cycle to a node is not acknowledged yet. -/
def State.appendsOut (s : State) (node step : Nat) : Bool :=
  s.asf.conns.any fun c => c.2.node = node && c.2.unacked.any fun x => match x.purpose with
    | .append _ n => n < step
    | _ => false

/-- The commit record of a step leaves for a node, which is then waited for. -/
def State.sendRecord (s : State) (p node : Nat) (c : Commit) : State :=
  let s := s.shipRecord node p c
  s.modPart p fun x => { x with commits := x.commits.map fun k =>
    if k.step = c.step then { k with toSend := k.toSend.filter (· ≠ node), waiting := k.waiting ++ [node] } else k }

/-- COMMIT_RECORD_SEND (R383): the oldest step's record still to be sent to the node, once ACKs cover every append of the step. -/
def execCommitRecordSend (p : Fin 16) (node : BitVec 16) (s : State) : Out :=
  .next <| s.whenLive fun s =>
    match (s.part p.val).commits.find? fun c => c.toSend.contains node.toNat with
    | some c => if s.appendsOut node.toNat c.step then s else s.sendRecord p.val node.toNat c
    | none => s

end Sys2Proof.Machine
end

