-- ==== Sys2Proof/Machine/Channels.lean ====
section
/-! DEFINITION. A near-bank channel as an access finds it: its mode, the accesses that it holds, and where an access must wait (R128, R131
to R134, R136, R410). -/

set_option Elab.async false

namespace Sys2Proof.Machine

/-! ### Channels -/

/-- A channel after reset: in memory mode, with nothing queued. -/
def Channel.fresh : Channel := ⟨[], none, none, [], 0, 0, 0, false, 0, [], 0, false, false, false, false⟩

/-- The channel of a number, and changing it. -/
def State.chan (s : State) (c : Nat) : Channel := mgetD s.gen.channels c Channel.fresh
def State.modChan (s : State) (c : Nat) (f : Channel → Channel) : State :=
  { s with gen := { s.gen with channels := mset s.gen.channels c (f (s.chan c)) } }

/-- The mode of a channel (R128): 0 MEMORY, 1 PROCESSOR, 2 TO_PROCESSOR, 3 TO_MEMORY. -/
def State.chMode (s : State) (c : Nat) : Nat := s.fld genChmode_mode c

/-- The power domain of a channel (R408). -/
def chanDomain (c : Nat) : Nat := 25 + c

/-- Whether a channel is kept in memory mode: by FORCE_MEM, at 95 °C, or withdrawn from processor work (R136, R160, R446). -/
def State.keptMemory (s : State) (c : Nat) : Bool :=
  s.flag genChmode_forceMem c || (s.chan c).hold95 || s.flag genChUnits_memOnly c

/-! ### Held accesses (R132 to R134) -/

/-- Whether a channel's window is over at its maximum with an operation ready: accesses then wait until that has ended (R133). -/
def State.windowOver (s : State) (c : Nat) : Bool :=
  let x := s.chan c
  !x.queue.isEmpty && !s.keptMemory c && x.windowStart ≠ 0 && x.windowStart + s.fld genMmwin_max 0 ≤ s.now

/-- The first channel of an access that does not serve the memory controller, or that sleeps. -/
def State.busyChannel (s : State) (places : List Nat) : Option Nat :=
  (places.map fun d => d / 0xC000_0000).find? fun c => c < 64 && (s.chMode c ≠ 0 || s.windowOver c || s.rindHolds (chanDomain c))

/-- The places of an access that a channel holds. -/
def HeldAccess.places (c : Nat) : HeldAccess → List Nat
  | .logic a => [deAddr c a.bank.val a.offset.toNat]
  | .host _ places _ _ => places
  | .fabric _ places => places
  | .chmode _ _ _ => []

/-- The channel that holds an access to one of some places: a later access waits behind it, so that no read returns older data than the
last write accepted before it (R132). -/
def State.heldFirst (s : State) (places : List Nat) : Option Nat :=
  (s.gen.channels.find? fun x => x.2.held.any fun a => (a.1.places x.1).any places.contains).map Prod.fst

/-- The channel at which an access must wait. -/
def State.holdPoint (s : State) (places : List Nat) : Option Nat := (s.busyChannel places).or (s.heldFirst places)

/-- The wake source of what a sleeping channel holds (R451). -/
def HeldAccess.source : HeldAccess → Nat
  | .fabric _ _ => 4
  | .chmode _ _ _ => 10
  | _ => 2

/-- Whether what a channel holds is an access to its banks, whose wait GEN_CH_WAIT counts. -/
def HeldAccess.counts : HeldAccess → Bool
  | .chmode _ _ _ => false
  | _ => true

/-- Holds an access at a channel (R132), and wakes one that sleeps (R410). -/
def State.hold (s : State) (c : Nat) (a : HeldAccess) : State :=
  let s := if a.counts then s.bump genChWait_held c 1 else s
  (s.modChan c fun x => { x with held := x.held ++ [(a, s.now)] }).arrivesAt (chanDomain c) a.source

/-- Adds a wait to GEN_CH_WAIT, whose unit is 256 ticks (R134). -/
def State.addWait (s : State) (c ticks : Nat) : State :=
  let n := (s.chan c).waitRem + ticks
  (s.bump genChWait_waitTicks c (n / 256)).modChan c fun x => { x with waitRem := n % 256 }

end Sys2Proof.Machine
end

