-- ==== Sys2Proof/Machine/AsithRx.lean ====
section
/-! DEFINITION. The receiving side of Asith: the checks on a request in its connection's order, the target's spaces, demand paging, the
answers, and the miss buffer (R47, R323 to R335, R339, R342, R343, R349). -/

set_option Elab.async false

namespace Sys2Proof.Machine

/-! ### At the port (R233, R319) -/

/-- Whether a frame of an operation reaches this device: its port is up and it names this node. -/
def State.reaches (s : State) (rx : Rx) (op : Nat) : Bool :=
  s.live && s.ownNode ≠ 0xFFFF && rx.frame.dstNode.toNat = s.ownNode && rx.frame.op.toNat = op && s.asf.links.contains rx.port.val

/-- A port takes a frame in, and the hub what it carries (R410). -/
def State.rxWork (s : State) (q : Nat) : State := (s.rouse (89 + q) 4).rouse 100 4

/-- What a port does with a frame: one whose tag fails is discarded and counted. -/
def State.atPort (s : State) (rx : Rx) (op : Nat) (f : State → State) : State :=
  if !s.reaches rx op then s
  else if !rx.tagOk then s.bump asfRxDrop_tagFail 0 1
  else f (s.rxWork rx.port.val)

/-! ### Sequence numbers, answers (R318, R322, R335) -/

/-- How far PSN `a` lies behind or ahead of `b`: below 2^31 it is at or after it. -/
def psnAhead (a b : Nat) : Nat := (a + 2 ^ 32 - b) % 2 ^ 32

/-- The PSN before one. -/
def psnBefore (a : Nat) : Nat := (a + 2 ^ 32 - 1) % 2 ^ 32

/-- The last PSN that a context has taken in order. -/
def State.ackOf (s : State) (c : Nat) : Nat :=
  match s.conn c with
  | some k => psnBefore k.expect
  | none => 0

/-- ECN_ECHO of an answer that acknowledges: one of the requests that it covers was marked (R341; DEDUCED, log 158). -/
def State.echoBit (s : State) (c : Nat) : BitVec 8 :=
  match s.conn c with
  | some k => if k.ceSeen then 4 else 0
  | none => 0

/-- Every request taken in order so far is acknowledged. -/
def State.acked (s : State) (c : Nat) : State := s.modConn c fun k => { k with unackedRx := 0, oldestRx := none, ceSeen := false }

/-- Answers a request with a NAK, whose ACK_PSN acknowledges what was taken before it. -/
def State.nak (s : State) (c : Nat) (rx : Rx) (status arg : Nat) : State :=
  (s.respond rx 0x0A status (s.ackOf c) { Frame.zero with flags := s.echoBit c, arg := BitVec.ofNat 32 arg }).acked c

/-- Answers with an ACK: every retired request up to the last one in order, with ECN_ECHO if one of them was marked. -/
def State.ackNow (s : State) (c : Nat) (rx : Rx) : State :=
  (s.respond rx 0x09 0 (s.ackOf c) { Frame.zero with flags := s.echoBit c }).acked c

/-- A write has retired: it is acknowledged at once for ACK_REQ or LAST, or as the sixteenth (R335). -/
def State.retire (s : State) (c : Nat) (rx : Rx) : State :=
  let s := s.modConn c fun k => { k with unackedRx := k.unackedRx + 1, oldestRx := some (k.oldestRx.getD s.now) }
  let n := match s.conn c with
    | some k => k.unackedRx
    | none => 0
  if rx.frame.flags.getLsbD 0 || rx.frame.flags.getLsbD 3 || 16 ≤ n then s.ackNow c rx else s

/-- A request leaves the head of its connection's order: the next PSN is expected, unless it is a duplicate. In mode 0 no frame is
marked (R341). -/
def State.consume (s : State) (c : Nat) (rx : Rx) : State :=
  let marked := rx.ce && s.fld asfFrameCfg_mode 0 ≠ 0
  s.modConn c fun k =>
    { k with
      expect := if rx.frame.psn.toNat = k.expect then (k.expect + 1) % 2 ^ 32 else k.expect
      gapNaked := false
      refusedPsn := if k.refusedPsn = some rx.frame.psn.toNat then none else k.refusedPsn
      ceSeen := k.ceSeen || marked
      echo := rx.frame.ts
      lastUse := s.now }

/-- A request is answered so that its sender ends the operation; it counts as taken. -/
def State.endRequest (s : State) (c : Nat) (rx : Rx) (status : Nat) : State := (s.nak c rx status 0).consume c rx

/-- REMOTE_ACCESS (R330). -/
def State.refuseAccess (s : State) (c : Nat) (rx : Rx) : State := (s.bump asfRxDrop_refused 0 1).endRequest c rx 3

/-- A request is answered so that its sender resends it, and is withdrawn (R335, R343). -/
def State.withdrawRequest (s : State) (c : Nat) (rx : Rx) (status arg : Nat) : State :=
  (s.nak c rx status arg).modConn c fun k => { k with refusedPsn := some rx.frame.psn.toNat, lastUse := s.now }

/-- RETRY_AFTER (R342). -/
def State.retryAfter (s : State) (c : Nat) (rx : Rx) (us : Nat) : State :=
  (s.bump asfPaging_retriesSent 0 1).withdrawRequest c rx 2 us

/-! ### Spaces (R323) -/

/-- Where an offset lies. -/
inductive Place where
  | dram (a : Nat)
  | host (a : Nat)
  | state (p o : Nat)
  | doorbell (o : Nat)
  | nowhere
deriving DecidableEq, Repr

/-- The place of an offset. -/
def placeOf (off : Nat) : Place :=
  if off < 0x30_0000_0000 then .dram off
  else if 0x4000_0000_0000 ≤ off && off < 0x8000_0000_0000 then .host (off - 0x4000_0000_0000)
  else if 0xFFFF_FF00_0000 ≤ off then .doorbell (off - 0xFFFF_FF00_0000)
  else if 0x8000_0000_0000 ≤ off then
    .state ((off - 0x8000_0000_0000) / 0x800_0000_0000) ((off - 0x8000_0000_0000) % 0x800_0000_0000)
  else .nowhere

/-- The keys of the pages that a range of a state window touches. -/
def pagesOf (p o len : Nat) : List Nat :=
  (List.range ((o + len - 1) / 65536 - o / 65536 + 1)).map fun i => pageKey p (o / 65536 + i)

/-- The first bytes of the sectors that a range touches. -/
def sectorsOf (a len : Nat) : List Nat := (List.range ((a + len - 1) / 32 - a / 32 + 1)).map fun i => (a / 32 + i) * 32

/-- The bytes at an offset and whether one of their sectors is poisoned. -/
def State.readSpace (s : State) (off len : Nat) : List (BitVec 8) × Bool :=
  match placeOf off with
  | .dram a => (s.readDram a len, (sectorsOf a len).any fun x => s.sectorPoisoned (deinterleave x))
  | .state p o =>
    let b := pageByte (pageKey p 0) o
    (Cells.readList s.tiers.bytes b len, (sectorsOf b len).any fun x => s.tiers.poison.contains (x / 32))
  | _ => (List.replicate len 0, false)

/-- A read of poisoned data raises its Deferred error (R213). -/
def State.poisonMet (s : State) (f : Frame) : State :=
  match placeOf f.offset.toNat with
  | .state p o => s.raise (errorOfPart 1 1 3 (o / 65536) p)
  | _ => s.raise (errorOf 1 1 3 (f.offset.toNat % 2 ^ 48))

/-- Writes bytes at an offset; with POISON the sectors are stored poisoned (R346). -/
def State.writeSpace (s : State) (fn off : Nat) (bs : List (BitVec 8)) (poison : Bool) : State :=
  match placeOf off with
  | .dram a =>
    let s := s.writeDram a bs
    if poison && !bs.isEmpty then { s with poison := s.poison ++ (sectorsOf a bs.length).map fun x => deinterleave x / 32 } else s
  | .state p o =>
    let b := pageByte (pageKey p 0) o
    let whole := wholeSectors ((List.range bs.length).map (b + ·))
    let t := { s.tiers with
      bytes := Cells.writeList s.tiers.bytes b bs
      poison := s.tiers.poison.filter fun x => !whole.contains (x * 32) }
    { s with tiers := if poison && !bs.isEmpty then { t with poison := t.poison ++ (sectorsOf b bs.length).map (· / 32) } else t }
  | .host a => if bs.isEmpty then s else s.emit (.hostWrite fn a bs)
  | _ => s

/-! ### The checks of R330 -/

/-- Whether a frame's epoch is live: 0 live, 1 newer, 2 stale (R349). -/
def State.epochClass (s : State) (e : Nat) : Nat :=
  let cur := s.fld asfEpoch_current 0
  if e = cur || (s.flag asfEpoch_prevLive 0 && e = s.fld asfEpoch_previous 0) then 0
  else if (e + 256 - cur) % 256 ≤ 127 then 1
  else 2

/-- The rights bit that an operation needs: 0 read, 1 write, 2 atomic. -/
def needOf (op : Nat) : Nat :=
  match op with
  | 1 => 0
  | 3 => 1
  | 4 => 1
  | _ => 2

/-- The bytes of target memory that a request touches. -/
def requestLen (f : Frame) : Nat :=
  match f.op.toNat with
  | 1 => f.arg.toNat
  | 7 => f.payload.length / 2
  | _ => f.payload.length

/-- Whether a request's payload is one that its operation allows (R321). -/
def sizeOk (f : Frame) : Bool :=
  let n := f.payload.length
  match f.op.toNat with
  | 1 => n = 0 && 1 ≤ f.arg.toNat && f.arg.toNat ≤ 65536
  | 3 => n ≤ 4096
  | 4 => n ≤ 4096
  | 7 => n = 16 || n = 32
  | _ => n = 8 || n = 16

/-- Whether a region allows an operation of a node on a range (checks 4 and 5). -/
def Region.allows (r : Region) (op node off len : Nat) : Bool :=
  r.base ≤ off && off + len ≤ r.base + r.len && r.rights / 2 ^ needOf op % 2 = 1 && (op = 1 || r.owner = node)

/-- The region that a request names (checks 3 to 5): by its key, or by owner access the lowest-numbered that suits (R328). -/
def State.regionFor (s : State) (f : Frame) : Option (Nat × Region) :=
  let op := f.op.toNat
  let node := f.srcNode.toNat
  let off := f.offset.toNat
  let len := requestLen f
  if f.key = 0 then
    s.asf.regions.find? fun r => !r.2.draining && r.2.owner = node && r.2.allows op node off len
  else
    let i := f.key.toNat % 4096
    match mget s.asf.regions i with
    | some r => if r.gen = f.key.toNat / 4096 && !r.draining && r.allows op node off len then some (i, r) else none
    | none => none

/-- Check 6: every page is of an assigned group, and of one that is not FROZEN where the request writes. -/
def State.pagesAllow (s : State) (f : Frame) : Bool :=
  match placeOf f.offset.toNat with
  | .state p o => (pagesOf p o (requestLen f)).all fun key => match s.groupOf key with
      | some (_, g) => f.op = 1 || !g.frozen
      | none => false
  | _ => true

/-- Check 7: an atomic is aligned to its operand. -/
def alignOk (f : Frame) : Bool := f.op.toNat < 5 || f.offset.toNat % max 1 (requestLen f) = 0

/-- Checks 3 to 7. -/
def State.lookUp (s : State) (f : Frame) : Option (Nat × Region) :=
  match s.regionFor f with
  | some r => if s.pagesAllow f && alignOk f then some r else none
  | none => none

/-! ### Demand paging (R342) -/

/-- What a target finds of a request's pages. -/
inductive Paging where
  | ready
  | wait (key : Nat)
  | retry
  | poisoned
deriving DecidableEq, Repr

/-- One page at acceptance: a fetch started here sets REF. -/
def State.pageFor (s : State) (key : Nat) : State × Paging :=
  if s.tiers.lost.contains key then (s.raise (errorOfPart 1 8 3 (key % 2 ^ 32) (key / 2 ^ 32)), .poisoned)
  else if s.tierOf key ≤ 1 then (s, .ready)
  else
    match mget s.tiers.moves key with
    | some m =>
      if !m.down then (s, .wait key)
      else
        let s := s.abandonMove key
        match s.moveUp key none with
        | some t => (t.noteTiers, if t.tierOf key = 2 then .wait key else .retry)
        | none => (s, .retry)
    | none =>
      if s.moveBarred key then (s, .retry)
      else
        let tier := s.tierOf key
        match s.moveUp key none with
        | none => (s, .retry)
        | some t =>
          match mget t.tiers.moves key with
          | some m => if m.written then (t.completeMove key, .ready) else (t.noteTiers, if tier = 2 then .wait key else .retry)
          | none => (t, .retry)

/-- The pages of a request, in order, up to the first that is not ready. -/
def State.pagesFor (s : State) : List Nat → State × Paging
  | [] => (s, .ready)
  | key :: keys =>
    match s.pageFor key with
    | (s, .ready) => State.pagesFor s keys
    | x => x

/-- The pages of a request's range. -/
def State.pagingOf (s : State) (f : Frame) : State × Paging :=
  match placeOf f.offset.toNat with
  | .state p o => if requestLen f = 0 then (s, .ready) else s.pagesFor (pagesOf p o (requestLen f))
  | _ => (s, .ready)

/-! ### Carrying a request out -/

/-- The READ_RESP frames of a read (R320, R321). -/
def State.answerRead (s : State) (c : Nat) (rx : Rx) (bytes : List (BitVec 8)) (poison : Bool) : State :=
  let cuts := cutFrames s.maxPayload (bytes.length + 1) rx.frame.offset.toNat bytes
  let echo := s.echoBit c
  (cuts.zipIdx.foldl (fun s x =>
    s.respond rx 0x02 0 rx.frame.psn.toNat { Frame.zero with
      flags := (if x.2 + 1 = cuts.length then 8 else 0) ||| (if poison then 2 else 0) ||| echo
      offset := BitVec.ofNat 64 x.1.1
      payload := x.1.2 }) s).acked c

/-- The new value of an atomic: the operation, the old value, the payload. -/
def atomicNew (op : Nat) (old payload : List (BitVec 8)) : List (BitVec 8) :=
  let n := old.length
  match op with
  | 5 => leBytes n (ofLe old + ofLe payload)
  | 6 => payload
  | _ => if payload.take n = old then payload.drop n else old

/-- An atomic, with its result kept among the last 64 of its connection; on data that is poisoned it changes nothing (R322). -/
def State.doAtomic (s : State) (c : Nat) (rx : Rx) (fn : Nat) : State :=
  let f := rx.frame
  let was := s.readSpace f.offset.toNat (requestLen f)
  if was.2 then (s.poisonMet f).endRequest c rx 7
  else
    let s := s.writeSpace fn f.offset.toNat (atomicNew f.op.toNat was.1 f.payload) false
    let s := s.modConn c fun k => { k with atomics := (k.atomics ++ [(f.psn.toNat, was.1)]).drop (k.atomics.length + 1 - 64) }
    let s := s.consume c rx
    (s.respond rx 0x08 0 f.psn.toNat { Frame.zero with flags := 8 ||| s.echoBit c, offset := f.offset, payload := was.1 }).acked c

/-- A request that counts as taken is an access that its region's revoke waits for: a write or an atomic. -/
def Stall.writes (x : Stall) : Bool := x.rx.frame.op ≠ 1

/-- The notification ring of a region's function (R334). -/
def ringOf (r : Region) : Nat := if r.fn = 0 then 16 else r.fn - 1

/-- The entries of a notification ring. -/
def State.ringDepth (s : State) (r : Nat) : Nat := 2 ^ s.fld asfNotifyCtrl_depthLog2 r

/-- Whether a notification ring has room. -/
def State.ringHasRoom (s : State) (r : Nat) : Bool :=
  let d := s.ringDepth r
  let w := (mgetD s.asf.ringWr r (0, true)).1
  (w + d - s.fld asfNotifyCtrl_head r % d) % d < d - 1

/-- Deposits a notification entry. -/
def State.notify (s : State) (r : Nat) (index : Nat) (f : Frame) : State :=
  let w := mgetD s.asf.ringWr r (0, true)
  let next := if w.1 + 1 < s.ringDepth r then (w.1 + 1, w.2) else (0, !w.2)
  ({ s with asf := { s.asf with ringWr := mset s.asf.ringWr r next } }).emit
    (.notify r w.1 w.2 f.arg.toNat f.srcNode.toNat index f.offset.toNat)

/-- Stalls a request; the frames of its connection behind it wait. -/
def State.stall (s : State) (c : Nat) (x : Stall) : State := s.modConn c fun k => { k with stalled := some x }

/-- A request that has passed its checks, with its pages resident. -/
def State.carryOut (s : State) (c : Nat) (x : Stall) : State :=
  let rx := x.rx
  let i := x.index
  let r := x.region
  let f := rx.frame
  match f.op.toNat with
  | 1 =>
    match placeOf f.offset.toNat with
    | .host a => (s.emit (.hostRead r.fn a f.arg.toNat)).stall c { x with reason := .host }
    | _ =>
      let b := s.readSpace f.offset.toNat f.arg.toNat
      let s := if b.2 then s.poisonMet f else s
      (s.consume c rx).answerRead c rx b.1 b.2
  | 3 => ((s.writeSpace r.fn f.offset.toNat f.payload (f.flags.getLsbD 1)).consume c rx).retire c rx
  | 4 =>
    if !s.flag asfNotifyCtrl_enable (ringOf r) then s.refuseAccess c rx
    else if !s.ringHasRoom (ringOf r) then s.withdrawRequest c rx 1 0
    else (((s.writeSpace r.fn f.offset.toNat f.payload (f.flags.getLsbD 1)).notify (ringOf r) i f).consume c rx).retire c rx
  | _ => s.doAtomic c rx r.fn

/-- The places in the bonded DRAM of the bytes that a request touches: none in host memory, or of a page that is not in tier 1. -/
def State.placesOf (s : State) (f : Frame) : List Nat :=
  let bytes := List.range (requestLen f)
  match placeOf f.offset.toNat with
  | .dram a => bytes.map fun i => deinterleave (a + i)
  | .state p o => bytes.filterMap fun i => match mget s.tiers.pages (pageKey p ((o + i) / 65536)) with
      | some e => if e.tier = 1 then some (frameByte e.loc ((o + i) % 65536)) else none
      | none => none
  | _ => []

/-- An accepted request as far as it comes now: its pages are brought up, a channel that does not serve the logic side holds it (R132), or
it is carried out (R342). `again` says that it has waited before. -/
def State.proceed (s : State) (c : Nat) (x : Stall) (again : Bool) : State :=
  match s.pagingOf x.rx.frame with
  | (s, .ready) =>
    match s.holdPoint (s.placesOf x.rx.frame) with
    | some k => (s.stall c { x with reason := .channel }).hold k (.fabric c (s.placesOf x.rx.frame))
    | none => s.carryOut c x
  | (s, .wait key) => (if again then s else s.bump asfPaging_stalls 0 1).stall c { x with reason := .page key }
  | (s, .retry) => s.retryAfter c x.rx (s.fld asfPaging_t3WaitUs 0)
  | (s, .poisoned) => s.endRequest c x.rx 7

/-- A doorbell store (R47): only from the owner node of a remote-placed queue. One for another queue is refused without a record in
CMD_QFAULT (DESIGN CHOICE, log 122). -/
def State.doorbellStore (s : State) (c : Nat) (rx : Rx) (o : Nat) : State :=
  let f := rx.frame
  let q := o / 65536
  match s.queue q with
  | none => s.refuseAccess c rx
  | some x =>
    if f.op ≠ 3 || x.placement ≠ 2 then s.refuseAccess c rx
    else if x.owner ≠ f.srcNode.toNat then (s.noteFault x.fn q 4 (ofLe (f.payload.take 2))).refuseAccess c rx
    else
      let v := ofLe (f.payload.take 2)
      let s := match o % 65536 with
        | 0 => s.ringTail q v
        | 8 => s.ringHead q v
        | _ => s
      (s.consume c rx).retire c rx

/-- A spare takes a lost member's SCH_GROUP, its table and its swap tick (R396): the table takes over at the recorded swap tick, or at
once where no swap was pending (DESIGN CHOICE, log 160). -/
def State.takeMember (s : State) (p : Nat) (group : BitVec 64) (swapTick period stretch : Nat) (rows : List (BitVec 256)) : State :=
  if !s.flag resStat_recastDest 0 || (s.part p).active.isSome then s
  else
    let t : Table := ⟨rows.map Entry.ofRow, period, tableDigest rows period⟩
    let s := (s.setReg .schGroup p group).setFld schPeriod_stretch p stretch
    (s.modPart p fun x => { x with shadow := some t, swapTick := some (max s.now swapTick) }).noteTables p

/-- A write whose bytes the Ladle or firmware takes in itself. -/
def State.useWrite (s : State) (c : Nat) (rx : Rx) (use : WriteUse) : State :=
  let node := rx.frame.srcNode.toNat
  match use with
  | .moveOffer o => ((s.moveOffered node o).consume c rx).retire c rx
  | .moveGroup h i =>
    if (s.arriving node h.toNat).isNone then s.refuseAccess c rx
    else ((s.groupArrives node h.toNat i.toNat rx.frame.payload).consume c rx).retire c rx
  | .journalRecord h pos tok kind => ((s.keepJournal node h.toNat pos.toNat tok kind.toNat).consume c rx).retire c rx
  | .sliceGrant base slots =>
    let s := if mhas s.res.grants node then s
      else { s with res := { s.res with grants := mset s.res.grants node ⟨base.toNat, slots.toNat, []⟩ } }
    (s.consume c rx).retire c rx
  | .journalGrant base =>
    let s := if s.manager = some node then ({ s with res := { s.res with journalBase := base.toNat, journalSent := 0 } }).reshipJournals else s
    (s.consume c rx).retire c rx
  | .memberCopy p g t period f rows =>
    ((s.takeMember p.val g t.toNat period.toNat f.toNat rows).consume c rx).retire c rx
  | .spareRefused lost spare =>
    ((if s.flag resStat_managing 0 then s.spareRefused lost.toNat spare.toNat else s).consume c rx).retire c rx
  | .data => s

/-- A request at the head of its connection's order (R330, R342). -/
def State.head (s : State) (c : Nat) (rx : Rx) (use : WriteUse) : State :=
  let f := rx.frame
  match s.epochClass f.epoch.toNat with
  | 2 => (s.bump asfEpoch_staleSent 0 1).withdrawRequest c rx 4 0
  | 1 => s.withdrawRequest c rx 1 0
  | _ =>
    if !sizeOk f then s.endRequest c rx 6
    else if use ≠ .data && f.op = 3 then s.useWrite c rx use
    else
      match placeOf f.offset.toNat with
      | .doorbell o => s.doorbellStore c rx o
      | _ =>
        match s.lookUp f with
        | none => s.refuseAccess c rx
        | some (i, r) => s.proceed c ⟨rx, use, i, r, .channel, s.now⟩ false

/-! ### The connection's order (R335) -/

/-- A duplicate: a read is read again, under the checks of R330; an atomic is answered from the cache, a write is acknowledged. -/
def State.duplicate (s : State) (c : Nat) (k : Conn) (rx : Rx) : State :=
  let f := rx.frame
  match f.op.toNat with
  | 1 => s.head c rx .data
  | 3 => s.ackNow c rx
  | 4 => s.ackNow c rx
  | _ =>
    match k.atomics.find? fun x => x.1 = f.psn.toNat with
    | some x => s.respond rx 0x08 0 f.psn.toNat { Frame.zero with flags := 8, offset := f.offset, payload := x.2 }
    | none => s.ackNow c rx

/-- Whether a PSN comes after one that was refused and has not come again (R335). -/
def Conn.afterRefused (k : Conn) (psn : Nat) : Bool :=
  k.refusedPsn.any fun p => psn ≠ p && psnAhead psn p < 2 ^ 31

/-- A request by its PSN: the expected one is at the head; a later one is discarded, with one NAK SEQ_GAP per gap; an earlier one
is a duplicate. -/
def State.ordered (s : State) (c : Nat) (rx : Rx) (use : WriteUse) : State :=
  match s.conn c with
  | none => s
  | some k =>
    let psn := rx.frame.psn.toNat
    if k.afterRefused psn then s.bump asfRxDrop_seqDiscard 0 1
    else if psn = k.expect then s.head c rx use
    else if psnAhead psn k.expect < 2 ^ 31 then
      let s := s.bump asfRxDrop_seqDiscard 0 1
      if k.gapNaked then s
      else (s.nak c rx 5 0).modConn c fun k => { k with gapNaked := true }
    else s.duplicate c k rx

/-! ### The miss buffer (R339) -/

/-- The bytes of a frame in the miss buffer. -/
def frameBytes (f : Frame) : Nat := 56 + f.payload.length

/-- A frame waits in the miss buffer, or meets RNR where it has no room. -/
def State.bufferFrame (s : State) (c : Nat) (rx : Rx) (use : WriteUse) : State :=
  let n := frameBytes rx.frame
  if 262144 < s.asf.missBytes + n then (s.bump asfCtxStat_rnrSent 0 1).withdrawRequest c rx 1 0
  else
    let s := { s with asf := { s.asf with missBytes := s.asf.missBytes + n } }
    s.modConn c fun k => { k with waitingRx := k.waitingRx ++ [(rx, use)] }

/-- The old-epoch requests of both directions (R348). -/
def State.oldInflight (s : State) : Nat :=
  let e := s.fld asfEpoch_previous 0
  (s.asf.conns.map fun c =>
    (c.2.unacked.filter fun x => x.begun && x.frame.epoch.toNat = e).length +
      (match c.2.stalled with
        | some x => if x.rx.frame.epoch.toNat = e then 1 else 0
        | none => 0)).sum

/-- Keeps ASF_EPOCH.OLD_INFLIGHT. -/
def State.noteEpoch (s : State) : State :=
  s.setFld asfEpoch_oldInflight 0 (if s.flag asfEpoch_prevLive 0 then min s.oldInflight 65535 else 0)

/-- The frames that wait behind a context fetch or a stall, in order, up to the next stall. -/
def State.pump (s : State) (c : Nat) : Nat → State
  | 0 => s
  | fuel + 1 =>
    match s.conn c with
    | none => s
    | some k =>
      if k.stalled.isSome || !k.cached then s
      else
        match k.waitingRx with
        | [] => s
        | x :: xs =>
          let s := { s with asf := { s.asf with missBytes := s.asf.missBytes - frameBytes x.1.frame } }
          let s := s.modConn c fun k => { k with waitingRx := xs }
          State.pump (s.ordered c x.1 x.2) c fuel

/-- The frames waiting at a context, as fuel for `pump`. -/
def State.waitingAt_ (s : State) (c : Nat) : Nat :=
  match s.conn c with
  | some k => k.waitingRx.length
  | none => 0

/-- Whether a frame belongs to a context: it is open, and the frame comes from its peer. -/
def Conn.isOf (k : Conn) (f : Frame) : Bool :=
  (k.state = .open_ || k.state = .closing) && k.node = f.srcNode.toNat && k.remote = f.srcConn.toNat

/-- A request arrives (R330 check 1, R339): for a context that is not cached it waits for the fetch. -/
def State.arrive (s : State) (rx : Rx) (use : WriteUse) : State :=
  let c := rx.frame.dstConn.toNat
  match s.conn c with
  | none => s.respond rx 0x0A 8 0 Frame.zero
  | some k =>
    if !k.isOf rx.frame then s.respond rx 0x0A 8 0 Frame.zero
    else
      let s := if k.cached || k.fetching then s else s.fetchContext c
      (if !k.cached || k.stalled.isSome || !k.waitingRx.isEmpty then s.bufferFrame c rx use else s.ordered c rx use).noteEpoch

/-! ### Revokes and ownership moves that wait for accepted requests (R327, R329) -/

/-- Whether an accepted write or atomic of a region still waits, of any node or of one. -/
def State.regionBusy (s : State) (i : Nat) (node : Option Nat) : Bool :=
  s.asf.conns.any fun c => c.2.stalled.any fun x => x.writes && x.index = i && node.all fun n => x.rx.frame.srcNode.toNat = n

/-- The frames that a range of DRAM lies in (R326). -/
def framesOf (base len : Nat) : List Nat :=
  ((List.range (len / 256)).map fun i => (frameAt (deinterleave (base + 256 * i))).1).dedup

/-- Whether a region lies in DRAM space. -/
def Region.inDram (r : Region) : Bool := r.base < 0x30_0000_0000

/-- Marks the frames of a DRAM-space region that nothing else holds. -/
def State.markFrames (s : State) (i : Nat) (r : Region) : State :=
  if r.inDram then
    { s with tiers := { s.tiers with frames := (framesOf r.base r.len).foldl (fun m k => if mhas m k then m else mset m k (.region i)) s.tiers.frames } }
  else s

/-- Keeps TIR_POOL at the pool's size. -/
def State.notePool (s : State) : State := (s.setFld tirPool_pool 0 s.poolCount).noteTiers

/-- Frees a revoked region: its index may be reused, and its frames return to the pool unless another region lies in them (R326,
R329). -/
def State.freeRegion (s : State) (i : Nat) : State :=
  match mget s.asf.regions i with
  | none => s
  | some r =>
    let s := { s with
      asf := { s.asf with regions := mdel s.asf.regions i }
      tiers := { s.tiers with frames := mfilter s.tiers.frames fun _ u => match u with
        | .region k => k ≠ i
        | _ => true } }
    let s := s.asf.regions.foldl (fun s x => s.markFrames x.1 x.2) s
    if r.inDram then s.notePool else s

/-- Ends the revokes and the ownership move that have nothing left to wait for. -/
def State.settleRegions (s : State) : State :=
  let s := s.buhorn.cmds.foldl (fun s d => match d.wait with
    | .revoke i => if s.regionBusy i none then s else (s.freeRegion i).finish d.id 0 0 0
    | _ => s) s
  match s.asf.ownMoving with
  | some (i, node) =>
    if s.regionBusy i (some node) then s
    else ({ s with asf := { s.asf with ownMoving := none } }).setFlag asfOwnStat_busy 0 false
  | none => s

/-! ### The end of a stall -/

/-- A stalled request goes on, under the checks that it has passed, and the frames behind it follow. -/
def State.resume (s : State) (c : Nat) (x : Stall) : State :=
  let s := (s.modConn c fun k => { k with stalled := none }).proceed c x true
  s.pump c (s.waitingAt_ c)

/-- A request that waits for a page goes on when the page is resident, or is lost. -/
def State.wake (s : State) (c : Nat) : State :=
  match (s.conn c).bind Conn.stalled with
  | some x =>
    match x.reason with
    | .page key => if 2 ≤ s.tierOf key && !s.tiers.lost.contains key then s else s.resume c x
    | _ => s
  | none => s

/-- A request that a channel has held goes on. -/
def State.channelServes (s : State) (c : Nat) : State :=
  match (s.conn c).bind Conn.stalled with
  | some x => if x.reason = .channel then s.resume c x else s
  | none => s

/-- Every stalled request whose page has become resident. -/
def State.wakeAll (s : State) : State :=
  ((s.asf.conns.filter fun c => c.2.stalled.isSome).foldl (fun s c => s.wake c.1) s).settleRegions.noteEpoch

end Sys2Proof.Machine
end

