-- ==== Sys2Proof/Machine/Flash.lean ====
section
/-! DEFINITION. The flash translation layer's commands and events (R303 to R313, R537). -/

set_option Elab.async false

namespace Sys2Proof.Machine

/-! ### Health -/

/-- The lowest and highest erase counts of the blocks in use. -/
def Ftl.eraseMin (f : Ftl) : Nat :=
  ((f.blocks.filter fun b => 0 < b.2.used && !b.2.retired).map fun b => b.2.erases).foldl (fun (m : Option Nat) x =>
    some (min (m.getD x) x)) none |>.getD 0
def Ftl.eraseMax (f : Ftl) : Nat := (f.blocks.map fun b => b.2.erases).foldl max 0

/-- Keeps the erase counts of FTL_HEALTH. -/
def State.noteErases (s : State) : State :=
  (s.setFld ftlHealth_eraseMax 0 (min s.ftl.eraseMax 65535)).setFld ftlHealth_eraseMin 0 (min s.ftl.eraseMin 65535)

/-- Enters read-only mode when the free blocks fall below RESERVE_MIN (R308). -/
def State.checkReserve (s : State) : State :=
  if s.fld ftlHealth_mode 0 = 0 && s.ftl.freeCount * 1024 < s.fld ftlPolicy_reserveMin 0 * s.ftl.total then
    (s.setFld ftlHealth_mode 0 1).raise (errorOf 0 7 3 0)
  else s

/-! ### Persistent stores (R306, R307, R311, R312) -/

/-- The hold-up check of a store that the device makes of its own accord, with a code that the converter gives. -/
def State.holdupAuto (s : State) (bytes : Nat) : Bool × State :=
  let c := Config.holdupCode s.freeCtr
  ({ s with freeCtr := s.freeCtr + 1 }).holdupCheck c bytes

/-- A store is refused: it waits for the next try. -/
def State.storeRefused (s : State) : State := { s with ftl := { s.ftl with refusedAt := some s.now } }

/-- Whether the FTL may start a write. -/
def State.ftlWrites (s : State) : Bool := s.live && s.ftl.inService && !s.pln.pfail

/-- The bytes of a checkpoint of the whole map, and of its next portion. -/
def State.mapBytes (s : State) : Nat := 4 * s.granules
def State.portionBytes (s : State) : Nat := min 67108864 (s.mapBytes - 67108864 * (s.ftl.portions - 1))

/-- Writes the checkpoint's portions that are left, each with its own check, until one is refused. -/
def State.storePortions (s : State) : Nat → State
  | 0 => s
  | n + 1 =>
    if s.ftl.portions = 0 then s
    else
      match s.holdupAuto s.portionBytes with
      | (true, s) => State.storePortions { s with ftl := { s.ftl with portions := s.ftl.portions - 1 } } n
      | (false, s) => s.storeRefused

/-- After every 256 commits a checkpoint of the whole map begins. -/
def State.checkpoint (s : State) : State :=
  if 256 ≤ s.ftl.commits then
    let n := ceilDiv s.mapBytes 67108864
    State.storePortions { s with ftl := { s.ftl with commits := 0, portions := n } } n
  else s

/-- The migrations to tier 3 whose granule is programmed. -/
def State.programmed (s : State) : List (Nat × Migration) :=
  s.tiers.moves.filter fun m => m.2.tier = 3 && mhas s.ftl.pending m.2.loc

/-- The commit itself: the map takes the changes, and the migrations that it covers flip (R289). -/
def State.makeCommit (s : State) : State :=
  let done := s.programmed
  let s := { s with ftl := s.ftl.commit }
  done.foldl (fun s m => (s.moveWritten m.1).completeMove m.1) s

/-- A commit is refused: every STATE_FETCH that has a page in it ends with HOLDUP_LOW, and the others wait (R292, R312). -/
def State.commitRefused (s : State) : State :=
  let cmds := (s.programmed.filterMap fun m => m.2.cmd).dedup
  (cmds.foldl (fun s id => s.failFetch id 0x31 0) s).storeRefused

/-- Whether a commit is due: 4 MiB of changes of 4 bytes, or 100 ms since the oldest. -/
def State.commitDue (s : State) : Bool :=
  match s.ftl.pendingSince with
  | some t => 1048576 ≤ s.ftl.changes || t + 100 * ticksPerMs ≤ s.now
  | none => false

/-- Tries the journal's commit at a converter code. -/
def State.tryCommit (s : State) (code : BitVec 12) : State :=
  match s.holdupCheck code (4 * s.ftl.changes) with
  | (true, s) => s.makeCommit.checkpoint
  | (false, s) => s.commitRefused

/-- The sub-block slots that a weight set's blocks take. -/
def WeightSet.slots (w : WeightSet) : Nat := (w.loaded.map fun b => ceilDiv (32 + kindRaw b.2.kind) 4128).sum

/-- Whether a set on a cache node waits to be written to durable granules. -/
def State.wantsDurable (s : State) (w : WeightSet) : Bool := s.role = 2 && !w.durable && !w.busy

/-- Programs `n` granules from the first one upwards. -/
def Ftl.programRun (f : Ftl) (now : Tick) (a : Nat) : Nat → Option Ftl
  | 0 => some f
  | n + 1 =>
    match f.programRun now a n with
    | some g => g.program now false (a + n)
    | none => none

/-- The extent that a set's durable copy takes, its old one given up. -/
def State.durableRun (s : State) (set : Nat) (w : WeightSet) : Option (Nat × Nat × State) :=
  let n := ceilDiv w.slots 16
  let s := match mget s.ftl.durableAt set with
    | some x => { s with ftl := { (s.ftl.trim s.now x.1 x.2) with
        extents := mdel s.ftl.extents x.1, durable := mdel s.ftl.durable set, durableAt := mdel s.ftl.durableAt set } }
    | none => s
  (s.freeExtent n).map fun a => (a, n, s)

/-- Writes every block of a set to durable granules with a catalogue entry, when the check at a code allows it (R307). -/
def State.writeDurable (s : State) (set : Nat) (w : WeightSet) (code : BitVec 12) : State :=
  if !s.tier3Takes || s.pln.pfail then s
  else
    match s.holdupCheck code (w.slots * 4128) with
    | (false, s) => s.storeRefused
    | (true, s) =>
      match s.durableRun set w with
      | none => s
      | some (a, n, s) =>
        match s.ftl.programRun s.now a n with
        | none => s
        | some f =>
          { s with
            ftl := { f with
              extents := mset f.extents a n
              durable := mset f.durable set w.loaded
              durableAt := mset f.durableAt set (a, n) }
            weights := mset s.weights set { w with durable := true } }

/-- The first set that waits for durable granules. -/
def State.durableNext (s : State) : Option (Nat × WeightSet) := s.weights.find? fun w => s.wantsDurable w.2

/-- Work of the flash interface: it is held while the interface's domain sleeps, and wakes it (R410). -/
def State.flashWork (s : State) (f : State → State) : State := if s.rindHolds 98 then s.beginWake 98 2 else f (s.rouse 98 2)

/-- JOURNAL_COMMIT (R306). -/
def execJournalCommit (code : BitVec 12) (s : State) : Out :=
  .next (if s.ftlWrites && s.ftl.refusedAt.isNone && s.commitDue then s.flashWork (·.tryCommit code) else s)

/-- The stores that wait after a refusal, tried again in their order: the commit, the checkpoint, the durable granules. -/
def State.retryStore (s : State) (code : BitVec 12) : State :=
  let s := { s with ftl := { s.ftl with refusedAt := none } }
  if s.commitDue then s.tryCommit code
  else if 0 < s.ftl.portions then
    match s.holdupCheck code s.portionBytes with
    | (true, s) => State.storePortions { s with ftl := { s.ftl with portions := s.ftl.portions - 1 } } (s.ftl.portions - 1)
    | (false, s) => s.storeRefused
  else
    match s.durableNext with
    | some w => s.writeDurable w.1 w.2 code
    | none => s

/-- HOLDUP_RETRY (R312). -/
def execHoldupRetry (code : BitVec 12) (s : State) : Out :=
  .next (match s.ftl.refusedAt with
    | some t => if s.ftlWrites && t + ticksPerMs ≤ s.now then s.flashWork (·.retryStore code) else s
    | none => s)

/-! ### Reads and programs (R289, R290, R310, R537) -/

/-- The level at which a codeword decoded within the retries that FTL_POLICY2 allows: a retry beyond them is soft decoding. -/
def State.levelOf (s : State) (l : DecodeLevel) : DecodeLevel :=
  match l with
  | .retry n => if n.val < s.fld ftlPolicy2_retries 0 then .retry n else .soft
  | x => x

/-- Counts a codeword's level in FTL_LDPC. -/
def State.countLevel (s : State) (l : DecodeLevel) : State :=
  match s.levelOf l with
  | .hard => s
  | .retry _ => s.bump ftlLdpc_retry 0 1
  | .soft => s.bump ftlLdpc_soft 0 1
  | .failed => s.bump ftlLdpc_uncorrectable 0 1

/-- The page reads that a codeword's level took beyond the first. -/
def State.furtherReads (s : State) (l : DecodeLevel) : Nat :=
  match s.levelOf l with
  | .hard => 0
  | .retry n => n.val + 1
  | _ => s.fld ftlPolicy2_retries 0 + 2

/-- Counts the page reads of a granule's block: four, and those of the retries. -/
def State.countReads (s : State) (granule : Nat) (levels : List DecodeLevel) : State :=
  match mget s.ftl.map granule with
  | some b => { s with ftl := s.ftl.modBlock b fun x => { x with reads := x.reads + 4 + (levels.map s.furtherReads).sum } }
  | none => s

/-- The page that waits for a granule: one that moves up from it, or whose streamed read is on its way. -/
def State.pageReading (s : State) (granule : Nat) : Option Nat :=
  (((s.tiers.moves.filter fun m => m.2.tier = 0 && !m.2.written).map Prod.fst) ++ s.tiers.streams).find? fun k =>
    !mhas s.tiers.pages k && !s.tiers.lost.contains k && s.granuleOf k = some granule

/-- The slots that a read of a granule gives: decrypted with the key in force (R230, R233). -/
def State.openGranule (s : State) (g : Granule) : List (BitVec 8) :=
  if g.key = s.sec.stateKey then g.slots else Config.wrongKey g.seq g.slots

/-- A page has been read from its granule: the flash interface has verified the codewords, and its slots are decrypted, then expanded and
compared with their digests (R211, R228). -/
def State.pageRead (s : State) (key a : Nat) : State :=
  match mget s.ftl.written a with
  | none => s.pageCame key
  | some g =>
    match expandSlots 16 (s.openGranule g) with
    | .ok raw => ({ s with tiers := { s.tiers with
        bytes := Cells.writeList (Cells.clear s.tiers.bytes (pageByte key 0) 65536) (pageByte key 0) raw } }).pageCame key
    | .error c => (s.expandFailed key c (s.openGranule g)).wakeAll

/-- FLASH_READ_COMPLETE (R310): the page is written in its slot, or its delivery has failed. -/
def execFlashReadComplete (granule : BitVec 30) (levels : List DecodeLevel) (s : State) : Out :=
  .next <| s.whenLive fun s =>
    match s.pageReading granule.toNat with
    | none => s
    | some key => s.flashWork fun s =>
      let s := (levels.foldl State.countLevel s).countReads granule.toNat levels
      if levels.any fun l => l = .failed then ((s.raise (errorOf 0 7 1 granule.toNat)).failDelivery key 7).wakeAll
      else s.pageRead key granule.toNat

/-- The slots of a page as they are programmed: compressed, then encrypted; each is one codeword's data (R211, R230, R304). -/
def State.sealPage (s : State) (key : Nat) (f : Ftl) (a : Nat) : Ftl :=
  { f with written := mset f.written a ⟨s.ftl.writes, s.sec.stateKey, s.pageSlots key⟩ }

/-- FLASH_PROGRAM_COMPLETE (R289, R290): a program that fails abandons the migration. -/
def execFlashProgramComplete (granule : BitVec 30) (ok : Bool) (s : State) : Out :=
  .next <| s.whenLive fun s =>
    match s.tiers.moves.find? fun m => m.2.tier = 3 && m.2.loc = granule.toNat && !mhas s.ftl.pending granule.toNat with
    | none => s
    | some m => s.flashWork fun s =>
      if !ok then s.abandonMove m.1
      else
        match s.ftl.program s.now false granule.toNat with
        | some f => { s with ftl := s.sealPage m.1 f granule.toNat }
        | none => s.abandonMove m.1

/-! ### Upkeep (R308, R309) -/

/-- Whether a block holds data that upkeep may relocate. -/
def Block.settled (x : Block) : Bool := 0 < x.used && !x.open_ && !x.retired && !x.erasing && !x.leaving

/-- The settled block that comes first by a measure, then by erase count, then by number. -/
def Ftl.first (f : Ftl) (measure : Block → Nat) : Option Nat :=
  ((f.blocks.filter fun b => b.2.settled).foldl (fun (best : Option (Nat × Block)) x =>
    match best with
    | some y => if measure x.2 < measure y.2 || (measure x.2 = measure y.2 && x.2.erases < y.2.erases) then some x else best
    | none => some x) none).map Prod.fst

/-- Blocks free or about to be erased. -/
def Ftl.coming (f : Ftl) : Nat := f.freeCount + (f.blocks.filter fun b => b.2.erasing || b.2.leaving).length

/-- Relocates a block's data. -/
def State.relocate (s : State) (b : Nat) : State := { s with ftl := s.ftl.relocate s.now b }

/-- GARBAGE_COLLECTION (R308): from GC_START down, one block after another, until GC_STOP is reached. -/
def execGarbageCollection (s : State) : Out :=
  .next (
    let f := s.ftl
    let start := f.freeCount * 1024 < s.fld ftlPolicy_gcStart 0 * f.total
    let stop := s.fld ftlPolicy_gcStop 0 * f.total ≤ f.coming * 1024
    if !s.ftlWrites || !(start || f.collecting) then s
    else if stop then { s with ftl := { f with collecting := false } }
    else
      match f.first fun x => x.granules.length with
      | some b => s.flashWork fun s => ({ s with ftl := { s.ftl with collecting := true } }).relocate b
      | none => s)

/-- The block with the lowest erase count among those that hold data, when the spread exceeds STATIC_DELTA. -/
def State.staticVictim (s : State) : Option Nat :=
  let held := (s.ftl.blocks.filter fun b => b.2.settled && !b.2.granules.isEmpty)
  let hi := (held.map fun b => b.2.erases).foldl max 0
  match s.ftl.first fun x => if x.granules.isEmpty then 2 ^ 32 else x.erases with
  | some b => if s.fld ftlPolicy_staticDelta 0 < hi - (s.ftl.block b).erases then some b else none
  | none => none

/-- STATIC_WEAR_LEVELLING (R308): one block at a time. -/
def execStaticWearLevelling (s : State) : Out :=
  .next (match if s.ftlWrites then s.staticVictim else none with
    | some b => s.flashWork (·.relocate b)
    | none => s)

/-- READ_DISTURB_REFRESH (R308): a block at READ_LIMIT, or one that a scrub has queued. -/
def execReadDisturbRefresh (block : Nat) (s : State) : Out :=
  .next (
    let x := s.ftl.block block
    if s.ftlWrites && x.settled && (s.fld ftlPolicy2_readLimit 0 ≤ x.reads || x.refresh) then s.flashWork (·.relocate block) else s)

/-- RETENTION_SCRUB (R308). -/
def execRetentionScrub (block : Nat) (weak : Bool) (correctedBits : Nat) (s : State) : Out :=
  .next (
    let x := s.ftl.block block
    if s.live && s.ftl.inService && !x.retired && !x.granules.isEmpty &&
        x.scrubbed + s.fld ftlPolicy_scrubDays 0 * 86400 * ticksPerS ≤ s.now then
      s.flashWork fun s => { s with ftl := s.ftl.setBlock block { x with
          scrubbed := s.now
          reads := x.reads + 4 * x.used
          refresh := x.refresh || weak || decide (s.fld ftlPolicy2_refreshBits 0 ≤ correctedBits) } }
    else s)

/-- GROWN_BAD_BLOCK (R308): the block is retired and counted, and its data relocated. -/
def execGrownBadBlock (block : Nat) (failed : Bool) (s : State) : Out :=
  .next (
    let x := s.ftl.block block
    if s.live && s.ftl.inService && block < s.ftl.total && !x.retired &&
        (failed || s.fld ftlPolicy_endurance 0 ≤ x.erases) then
      let s := { s with ftl := (s.ftl.relocate s.now block).modBlock block fun x =>
        { x with retired := true, erasing := false, suspended := false } }
      (((s.bump ftlHealth_grownBad 0 1).raise (errorOf 0 7 2 block)).noteErases).checkReserve
    else s)

/-- FLASH_ERASE_COMPLETE (R308, R309): an erase ends, or one that a read suspended resumes. -/
def execFlashEraseComplete (block : Nat) (suspended : Bool) (s : State) : Out :=
  .next <| s.whenLive fun s =>
    let x := s.ftl.block block
    if !x.erasing || x.suspended != suspended then s
    else s.flashWork fun s =>
    if suspended then { s with ftl := s.ftl.setBlock block { x with suspended := false } }
    else ({ s with ftl := s.ftl.setBlock block { Block.fresh with erases := x.erases + 1 } }).noteErases

end Sys2Proof.Machine
end

