-- ==== Sys2Proof/Machine/Weights.lean ====
section
/-! DEFINITION. Weight sets: WEIGHT_LOAD and CHURN_PASS (R84, R117, R153, R154, R214 to R223, R284, R307). -/

set_option Elab.async false

namespace Sys2Proof.Machine

/-! ### The geometry record (R84) -/

/-- Whether an FP32 word is finite and above 0. -/
def fp32Positive (w : Nat) : Bool := 0 < w && w < 0x7F800000

/-- Whether the bytes of a range are all 0. -/
def geoZero (g : List Cell) (a b : Nat) : Bool := g.all fun c => c.1 < a || b ≤ c.1 || c.2 = 0

/-- FP32 word `i` of the KV_SCALE area. -/
def geoScale (g : List Cell) (l h c : Nat) : Nat := geoNum g (2048 + 4 * ((l * 64 + h) * 2 + c)) 4

/-- Whether ROPE_MODE and ROPE_DIMS agree. -/
def ropeOk (g : List Cell) : Bool :=
  let mode := geoNum g 7 1
  let dims := geoNum g 8 2
  mode ≤ 2 && if mode = 0 then dims = 0 else dims % 2 = 0 && 2 ≤ dims && dims ≤ geoHeadDim g

/-- Whether every field of a geometry record is in its range and every reserved byte is 0. -/
def geometryOk (g : List Cell) : Bool :=
  let layers := geoLayers g
  let kv := geoKvHeads g
  let qh := geoQHeads g
  let sets := geoNum g 10 1
  (1 ≤ layers && layers ≤ 256) && (1 ≤ kv && kv ≤ 64) && (1 ≤ qh && qh ≤ 128 && qh % kv = 0) &&
    (32 ≤ geoHeadDim g && geoHeadDim g ≤ 256 && geoHeadDim g % 32 = 0) && geoNum g 6 1 ≤ 1 && ropeOk g && sets ≤ 4 &&
    fp32Positive (geoNum g 16 4) && (List.range layers).all (fun l => geoNum g (20 + l) 1 ≤ sets) &&
    (List.range layers).all (fun l => 1 ≤ geoNum g (276 + l) 1) && geoZero g (276 + layers) 532 && geoZero g 11 16 &&
    geoZero g 532 1024 && geoZero g (1024 + 2 * geoNum g 8 2) 1536 &&
    (List.range layers).all fun l => (List.range kv).all fun h => fp32Positive (geoScale g l h 0) && fp32Positive (geoScale g l h 1)

/-- Whether a BF16 bias acts as −∞ without being its encoding: +∞ or a NaN (R117). -/
def biasFixed (w : Nat) : Bool := w / 128 % 256 = 255 && w ≠ 0xFF80

/-- The bias entries of a record that R117 counts. -/
def biasFixes (g : List Cell) : Nat :=
  ((List.range (geoNum g 10 1 * geoQHeads g)).map fun x =>
    ((List.range 512).filter fun i =>
      biasFixed (geoNum g (133120 + (x / geoQHeads g * 128 + x % geoQHeads g) * 1024 + 2 * i) 2)).length).sum

/-! ### Blocks -/

/-- The place of a block in its set. -/
def blockPlace (layer matrix index : Nat) : Nat := layer * 2 ^ 40 + matrix * 2 ^ 32 + index
def RawPlace (b : RawBlock) : Nat := blockPlace b.layer.toNat b.matrix.toNat b.index.toNat

/-- The layer and matrix of a place. -/
def placeLayer (k : Nat) : Nat := k / 2 ^ 40
def placeMatrix (k : Nat) : Nat := k / 2 ^ 32 % 256

/-- Whether a block of the source has a weight KIND and its raw size. -/
def rawBlockOk (b : RawBlock) : Bool := b.kind.toNat ≤ 6 && b.raw.length = kindRaw b.kind.toNat

/-- A block of the source as WEIGHT_LOAD stores it: escaped. -/
def storeBlock (set : Nat) (b : RawBlock) : Stored := storeEscaped b.kind.toNat set b.layer.toNat b.index.toNat b.raw

/-- An empty set. -/
def WeightSet.empty : WeightSet := ⟨[], [], [], [], [], [], [], 0, false, false⟩

/-- The layers of a set after a load: a layout that a layer already has stays. -/
def WeightSet.addLayers (w : WeightSet) (first count layout : Nat) : WeightSet :=
  { w with layers := (List.range count).foldl (fun m i =>
      let old := mgetD m (first + i) ⟨false, false⟩
      mset m (first + i) ⟨old.operand || layout != 1, old.processor || layout != 0⟩) w.layers }

/-- A set with the blocks of a load. -/
def WeightSet.addBlocks (w : WeightSet) (set layout : Nat) (bs : List RawBlock) : WeightSet :=
  bs.foldl (fun w b =>
    let k := RawPlace b
    let w := if layout = 1 then w
      else { w with blocks := mset w.blocks k (storeBlock set b), loaded := mset w.loaded k (storeBlock set b) }
    if layout = 0 then w else { w with near := mset w.near k b.raw, nearAt := mset w.nearAt k b.near.toNat }) w

/-- A set without a run of layers. -/
def WeightSet.dropLayers (w : WeightSet) (first count : Nat) : WeightSet :=
  let out (l : Nat) : Bool := l < first || first + count ≤ l
  { w with
    layers := mfilter w.layers fun l _ => out l
    blocks := mfilter w.blocks fun k _ => out (placeLayer k)
    loaded := mfilter w.loaded fun k _ => out (placeLayer k)
    near := mfilter w.near fun k _ => out (placeLayer k)
    nearAt := mfilter w.nearAt fun k _ => out (placeLayer k)
    tables := mfilter w.tables fun k _ => out (k / 256) }

/-! ### Processor layout (R154) -/

/-- The places of a processor-layout block. -/
def nearPlaces (d n : Nat) : List Nat := (List.range n).map (d + ·)

/-- Whether a processor-layout block may lie where it is laid: whole in one bank, in frames that neither pages nor regions use. -/
def State.nearFits (s : State) (b : RawBlock) : Bool :=
  let d := b.near.toNat
  let n := b.raw.length
  d + n ≤ dramBytes && d % 0x300_0000 + n ≤ 0x300_0000 &&
    (nearPlaces d n).all fun x => !mhas s.tiers.frames (frameKeyOf x)

/-- Writes processor-layout blocks through the de-interleaved aperture, as their raw bytes. -/
def State.layNear (s : State) (bs : List RawBlock) : State :=
  bs.foldl (fun s b => s.writePlaces (nearPlaces b.near.toNat b.raw.length) b.raw) s

/-- The processor-layout block that a de-interleaved address lies in: its set and its place. -/
def State.nearBlockAt (s : State) (d : Nat) : Option (Nat × Nat) :=
  s.weights.findSome? fun w => w.2.nearAt.findSome? fun x =>
    if x.2 ≤ d && d < x.2 + (mgetD w.2.near x.1 []).length then some (w.1, x.1) else none

/-- Firmware re-reads a processor-layout block from its authoritative copy (R158). -/
def State.rereadNear (s : State) (set place : Nat) : State :=
  match mget s.weights set with
  | none => s
  | some w =>
    let raw := mgetD w.near place []
    s.writePlaces (nearPlaces (mgetD w.nearAt place 0) raw.length) raw

/-! ### WEIGHT_LOAD (R74, R84) -/

/-- A geometry record in canonical form. -/
def recordOf (record : List Cell) : List Cell := record.foldl (fun m c => Cells.write m c.1 c.2) []

/-- Gives a set its value. -/
def State.setWeights (s : State) (set : Nat) (w : WeightSet) : State := { s with weights := mset s.weights set w }

/-- What completes with a load: the crossovers take their default, tier 1 is laid out anew, and a cache node's durable copy is
begun (R153, R284, R307). -/
def State.loadDone (s : State) (set first count : Nat) (fixes : Nat) : State :=
  let s := (List.range count).foldl (fun s i => s.setFld genCrossover_positions (first + i) 32) s
  let s := (s.bump ldlBiasFix_count 0 fixes).noteDraft.relayTier1
  match mget s.weights set with
  | some w => if s.wantsDurable w then s.writeDurable set w (Config.holdupCode s.freeCtr) else s
  | none => s

/-- Reads the source of a load from a remote node, 64 KiB at a time (R54, R318). -/
def State.readSource (s : State) (d : Pend) : State :=
  let src := d.par 24 8
  let len := d.par 32 8
  (List.range (ceilDiv len 65536)).foldl (fun s i =>
    s.readBulk (src / 2 ^ 48) 2 (i % 8) 0 (src % 2 ^ 48 + 65536 * i) (min 65536 (len - 65536 * i)) (.weights d.obj)) s

/-- The bias entries that a load counts: those of the record, which the load of layer 0 reads (R84, R117). -/
def loadFixes (first : Nat) (g : List Cell) : Nat := if first = 0 then biasFixes g else 0

/-- WEIGHT_LOAD's effect: the load of layer 0 reads the geometry record; a load of other layers goes by the record that the set has, and a
set without one is unknown to it (R84). -/
def effWeightLoad (record : List Cell) (blocks : List RawBlock) (d : Pend) (s : State) : State :=
  let set := d.obj
  let first := d.par 16 2
  let count := d.par 18 2
  let layout := d.par 20 1
  let old := (mget s.weights set).getD WeightSet.empty
  let g := if first = 0 then recordOf record else old.geometry
  let mine := blocks.filter fun b => first ≤ b.layer.toNat && b.layer.toNat < first + count
  if !geometryOk g || geoLayers g < first + count || !mine.all rawBlockOk then s.finish d.id 0x11 0 0
  else if old.busy || s.churning set then s.finish d.id 0x13 0 0
  else
    let w := (({ old with geometry := g, durable := false }.dropLayers first 0).addLayers first count layout).addBlocks set layout mine
    let near := if layout = 0 then [] else mine
    if s.freeFrames + old.frames < w.frames || !near.all s.nearFits then s.finish d.id 0x12 0 0
    else if !d.gaddr then (((s.setWeights set w).layNear near).loadDone set first count (loadFixes first g)).finish d.id 0 0 0
    else if !s.reachable (d.par 24 8 / 2 ^ 48) then s.finish d.id 0x22 0 0
    else (((s.setWeights set { w with busy := true }).layNear near).noteDraft.readSource d).await d.id .churn

/-- WEIGHT_LOAD (R84). -/
def execWeightLoad (c : Cmd) (record : List Cell) (blocks : List RawBlock) (s : State) : Out :=
  .next (s.command 0x40 c [] 0 (effWeightLoad record blocks))

/-- The load of a set that waits for its remote source. -/
def State.loadCmd (s : State) (set : Nat) : Option Pend :=
  s.buhorn.cmds.find? fun c => c.op = 0x40 && c.wait = .churn && c.obj = set

/-- The reads of a set's source that are outstanding. -/
def State.sourceReads (s : State) (set : Nat) : Nat :=
  (s.asf.conns.map fun c => (c.2.unacked.filter fun x => x.purpose = .weights set).length).sum

/-- A remote source has answered a read: the load ends with its last one. -/
def State.sourceRead (s : State) (set : Nat) : State :=
  match s.loadCmd set, mget s.weights set with
  | some d, some w =>
    if 0 < s.sourceReads set then s
    else
      ((s.setWeights set { w with busy := false }).loadDone set (d.par 16 2) (d.par 18 2) (loadFixes (d.par 16 2) w.geometry)).finish d.id 0 0 0
  | _, _ => s

/-- A remote source has refused a read or is dead: the layers named are not loaded. -/
def State.sourceFails (s : State) (set status : Nat) : State :=
  match s.loadCmd set, mget s.weights set with
  | some d, some w =>
    ((s.setWeights set { (w.dropLayers (d.par 16 2) (d.par 18 2)) with busy := false }).noteDraft.relayTier1).finish d.id status 0 0
  | _, _ => s

/-! ### CHURN_PASS (R221 to R223) -/

/-- The tag that follows a set's tag. -/
def nextTag (t : BitVec 32) : BitVec 32 := if t = 0xFFFFFFFF then 1 else t + 1

/-- Whether some sequence bars a churn pass of a set. -/
def State.churnBarred (s : State) (set : Nat) : Bool :=
  s.seqs.any fun q => q.2.model = set && (q.2.state = .prefilling || q.2.state = .stepping || q.2.state = .moving)

/-- Shows the oldest churn pass in CMP_CHURN. -/
def State.noteChurn (s : State) : State :=
  match s.churn with
  | [] => s.setFlag cmpChurn_busy 0 false
  | c :: _ => ((s.setFlag cmpChurn_busy 0 true).setFld cmpChurn_weightSet 0 c.set).setFld cmpChurn_layer 0 c.layer

/-- A churn pass begins. -/
def State.beginChurn (s : State) (set first count : Nat) (tag : BitVec 32) (cmd : Option Nat) : State :=
  let c : Churn := ⟨set, first, count, 0, nextTag tag, cmd⟩
  ({ s with churn := s.churn ++ [c] }).noteChurn

/-- CHURN_PASS's effect. -/
def effChurnPass (d : Pend) (s : State) : State :=
  let first := d.par 16 2
  let count := d.par 18 2
  match mget s.weights d.obj with
  | none => s.finish d.id 0x11 0 0
  | some w =>
    if w.layerCount < first + count then s.finish d.id 0x11 0 0
    else if s.churnBarred d.obj || s.churning d.obj || w.busy then s.finish d.id 0x13 0 0
    else if count = 0 then s.finish d.id 0 0 0
    else (s.beginChurn d.obj first count w.tag (some d.id)).await d.id .churn

/-- CHURN_PASS (R221). -/
def execChurnPass (c : Cmd) (s : State) : Out := .next (s.plain 0x41 c effChurnPass)

/-- The blocks of one matrix of a layer. -/
def WeightSet.matrixBlocks (w : WeightSet) (layer matrix : Nat) : AMap Stored :=
  mfilter w.blocks fun k _ => placeLayer k = layer && placeMatrix k = matrix

/-- The code lengths of a matrix's present table; none before its first churn pass. -/
def WeightSet.lens (w : WeightSet) (layer matrix : Nat) : List Nat := mgetD w.tables (layer * 256 + matrix) (List.replicate 256 0)

/-- A matrix re-encoded under the table of its own histogram and a tag. -/
def WeightSet.churnMatrix (w : WeightSet) (set layer : Nat) (tag : BitVec 32) (matrix : Nat) : WeightSet :=
  let old := w.lens layer matrix
  let bs := w.matrixBlocks layer matrix
  let hist := bs.foldl (fun (h : List Nat) b =>
    List.zipWith (· + ·) h (histogram (rawSymbols b.2.kind (b.2.raw old)))) (List.replicate 256 0)
  let lens := codeLengths hist
  { w with
    tables := mset w.tables (layer * 256 + matrix) lens
    blocks := bs.foldl (fun m b => mset m b.1 (storeCoded b.2.kind set layer matrix (b.1 % 2 ^ 32) lens tag (b.2.raw old))) w.blocks }

/-- The matrices of a layer. -/
def WeightSet.matrices (w : WeightSet) (layer : Nat) : List Nat :=
  ((w.blocks.filter fun b => placeLayer b.1 = layer).map fun b => placeMatrix b.1).dedup

/-- The page steps that a layer's pass takes: it reads every block twice. -/
def WeightSet.churnSteps (w : WeightSet) (layer : Nat) : Nat :=
  ceilDiv (2 * ((w.blocks.filter fun b => placeLayer b.1 = layer).map fun b => 32 + kindRaw b.2.kind).sum) 65536

/-- Installs a layer's new tables and blocks, counts the blocks by form, and goes on to the next layer. -/
def State.installLayer (s : State) (c : Churn) (cs : List Churn) (w : WeightSet) : State :=
  let w := { ((w.matrices c.layer).foldl (fun w m => w.churnMatrix c.set c.layer c.tag m) w) with tag := c.tag }
  let bs := w.blocks.filter fun b => placeLayer b.1 = c.layer
  let s := (s.setWeights c.set w).bump cmpStat_coded 0 (bs.filter fun b => !b.2.escape).length
  let s := s.bump cmpStat_escaped 0 (bs.filter fun b => b.2.escape).length
  if c.left ≤ 1 then
    let s := { s with churn := cs }.noteChurn
    match c.cmd with
    | some id => s.finish id 0 0 0
    | none => s
  else { s with churn := { c with layer := c.layer + 1, left := c.left - 1, steps := 0 } :: cs }.noteChurn

/-- One page step of the oldest churn pass. -/
def State.churnStep (s : State) : State :=
  match s.churn with
  | [] => s
  | c :: cs =>
    match mget s.weights c.set with
    | none => { s with churn := cs }.noteChurn
    | some w =>
      if w.churnSteps c.layer ≤ c.steps + 1 then s.installLayer c cs w
      else { s with churn := { c with steps := c.steps + 1 } :: cs }

/-- Firmware re-reads a layer's blocks from the authoritative copy and reruns the churn pass, over every layer of the set, whose
blocks share the tag (R225). -/
def State.rereadLayer (s : State) (set layer : Nat) : State :=
  match mget s.weights set with
  | none => s
  | some w =>
    let copy := mfilter w.loaded fun k _ => placeLayer k = layer
    let s := s.setWeights set { w with blocks := copy.foldl (fun m b => mset m b.1 b.2) w.blocks }
    if s.churning set then s else s.beginChurn set 0 w.layerCount w.tag none

/-- Firmware re-reads one block from the authoritative copy (R158, R225). -/
def State.rereadBlock (s : State) (set place : Nat) : State :=
  match mget s.weights set with
  | none => s
  | some w =>
    match mget w.loaded place with
    | some b => s.setWeights set { w with blocks := mset w.blocks place b }
    | none => s

end Sys2Proof.Machine
end

