-- ==== Sys2Proof/Machine/Failure.lean ====
section
/-! DEFINITION. What a failed Asith operation does to its issuer (R38, R52, R300, R346). -/

set_option Elab.async false

namespace Sys2Proof.Machine

/-- Records a failed operation in ASF_FAULT with its cause, and raises the Deferred error (R346, R401). -/
def State.noteFailure (s : State) (c cause node : Nat) : State :=
  let s := (s.bump asfFault_count 0 1).setFld asfFault_node 0 node
  let s := (s.setFld asfFault_cause 0 cause).setFld asfFault_conn 0 c
  s.raise (errorOf 1 8 cause node)

/-- All-ones bytes. -/
def onesBytes (n : Nat) : List (BitVec 8) := List.replicate n 0xFF

/-- A page that cannot be lodged stays home, and a STATE_FETCH that asked for it ends TARGET_DEAD (R292). -/
def State.lodgeFails (s : State) (key : Nat) : State :=
  match mget s.tiers.moves key with
  | some m =>
    let s := s.abandonMove key
    match m.cmd with
    | some id => s.failFetch id 0x22 0
    | none => s
  | none => s

/-- A page whose mirror does not deliver it either: its sequence is rebuilt (R302, R397). -/
def State.mirrorFails (s : State) (key : Nat) : State :=
  let s := (s.abandonMove key).endStreams [key]
  match s.groupOf key with
  | some (_, g) => s.toRebuild g.handle
  | none => s

/-- The destination of a move is dead, or its epoch stays stale: the sequence is home at the source again (R38). -/
def State.moveFails (s : State) (h cause : Nat) : State :=
  match s.seq h with
  | some q =>
    match q.move with
    | some m =>
      if q.state = .moving && !m.incoming then
        if m.recast then s.recastRefused h q m else s.moveBack h q (if cause = 5 then 0x20 else 0x22)
      else s
    | none => s
  | none => s

/-- The device fences itself: a Device-fatal error stops every partition without a commit, and the reset follows. -/
def State.fence (s : State) : State :=
  if s.flag resStat_fenced 0 then s else (s.setFlag resStat_fenced 0 true).raise (errorOf 3 0x0B 3 s.ownNode)

/-- The consumer's rule for a failed operation (R346). A copy or a record for a partner or the manager waits for the decision on that
node (R388); a commit record refused with REMOTE_ACCESS fences the device (R390). -/
def State.tellIssuer (s : State) (cause : Nat) (p : Purpose) : State :=
  match p with
  | .windowRead fn _ off len => s.emit (.completion fn off (onesBytes len) true false)
  | .windowAtomic fn _ off len => s.emit (.completion fn off (onesBytes len) true false)
  | .windowWrite => s
  | .windowImm => s
  | .queueFetch q _ => s.packetsFail q (if cause = 1 then 3 else 2)
  | .queueWrite _ => s
  | .lodge key => s.lodgeFails key
  | .fetchBack key => if s.coming key then (s.failDelivery key 6).wakeAll else s
  | .mirrorFetch key => s.mirrorFails key
  | .append h _ => s.freeAcked h
  | .commitRecord _ _ => if cause = 4 then s.fence else s
  | .journalCopy _ _ => s
  | .moveGroup h _ => s.moveFails h cause
  | .mirrorCopy _ => s
  | .weights set => s.sourceFails set (if cause = 4 then 0x21 else 0x22)
  | .demand => s
  | .share => s
  | .flip h => s.flipArrived h
  | .buffer => s
  | .control _ _ => s

/-- One failed operation reaches its issuer. -/
def State.tellFailure (s : State) (x : Nat × Nat × Nat × Purpose) : State := (s.noteFailure x.1 x.2.1 x.2.2.1).tellIssuer x.2.1 x.2.2.2

/-- Every operation that has failed so far reaches its issuer. -/
def State.tellFailures (s : State) : State :=
  let l := s.asf.failing
  l.foldl State.tellFailure { s with asf := { s.asf with failing := [] } }

end Sys2Proof.Machine
end

