-- ==== Sys2Proof/Machine/Arith.lean ====
section
/-! DEFINITION. Exact binary numbers with rounding to nearest even, and the element formats: FP32, BF16, FP8, E2M1 (R107, R109 to
R111, R142 to R144). -/

set_option Elab.async false

namespace Sys2Proof.Machine

/-- A number: not a number, an infinity, or plus or minus `m · 2^e`. -/
inductive Num where
  | nan
  | inf (neg : Bool)
  | fin (neg : Bool) (m : Nat) (e : Int)
deriving DecidableEq, Repr

/-- Zero and one. -/
def Num.zero : Num := .fin false 0 0
def Num.one : Num := .fin false 1 0

/-- The number of significant bits of a natural number. -/
def bitLen (m : Nat) : Nat := if m = 0 then 0 else Nat.log2 m + 1

/-- `m · 2^k` cut to whole numbers with a sticky lowest bit: enough for one later rounding at a coarser place. -/
def shiftSticky (m : Nat) (k : Int) : Nat :=
  if 0 ≤ k then m * 2 ^ k.toNat
  else
    let d := 2 ^ (-k).toNat
    if m % d = 0 then m / d else m / d ||| 1

/-! ### Exact operations -/

/-- The sign of a product. -/
def xorSign (a b : Bool) : Bool := a != b

/-- The exact product. -/
def Num.mul : Num → Num → Num
  | .nan, _ => .nan
  | _, .nan => .nan
  | .inf a, .inf b => .inf (xorSign a b)
  | .inf a, .fin b m _ => if m = 0 then .nan else .inf (xorSign a b)
  | .fin b m _, .inf a => if m = 0 then .nan else .inf (xorSign a b)
  | .fin a m e, .fin b n f => .fin (xorSign a b) (m * n) (e + f)

/-- A finite value as a signed integer at the scale `2^k`, for `k` at or below its exponent. -/
def signedAt (neg : Bool) (m : Nat) (e k : Int) : Int := (if neg then -1 else 1) * (m * 2 ^ (e - k).toNat : Nat)

/-- The exact sum. A zero sum is +0 unless both are negative zeros. -/
def Num.add : Num → Num → Num
  | .nan, _ => .nan
  | _, .nan => .nan
  | .inf a, .inf b => if a = b then .inf a else .nan
  | .inf a, .fin _ _ _ => .inf a
  | .fin _ _ _, .inf a => .inf a
  | .fin a m e, .fin b n f =>
    let k := min e f
    let x := signedAt a m e k + signedAt b n f k
    if x = 0 then .fin (a && b) 0 0 else .fin (x < 0) x.natAbs k

/-- The negative. -/
def Num.neg : Num → Num
  | .nan => .nan
  | .inf a => .inf (!a)
  | .fin a m e => .fin (!a) m e

/-- The quotient, exact but for a sticky bit far below any rounding place. -/
def Num.div : Num → Num → Num
  | .nan, _ => .nan
  | _, .nan => .nan
  | .inf _, .inf _ => .nan
  | .inf a, .fin b _ _ => .inf (xorSign a b)
  | .fin a _ _, .inf b => .fin (xorSign a b) 0 0
  | .fin a m e, .fin b n f =>
    if n = 0 then (if m = 0 then .nan else .inf (xorSign a b))
    else
      let k := 128 + bitLen n
      let q := m * 2 ^ k / n
      .fin (xorSign a b) (if m * 2 ^ k % n = 0 then 2 * q else 2 * q + 1) (e - f - k - 1)

/-- Whether `a` is below `b`; false where either is not a number. -/
def Num.lt (a b : Num) : Bool :=
  match a, b with
  | .nan, _ => false
  | _, .nan => false
  | .inf x, .inf y => x && !y
  | .inf x, .fin _ _ _ => x
  | .fin _ _ _, .inf y => !y
  | .fin x m e, .fin y n f => signedAt x m e (min e f) < signedAt y n f (min e f)

/-- Whether a number is a zero. -/
def Num.isZero : Num → Bool
  | .fin _ m _ => m = 0
  | _ => false

/-- The magnitude. -/
def Num.abs : Num → Num
  | .nan => .nan
  | .inf _ => .inf false
  | .fin _ m e => .fin false m e

/-! ### Rounding -/

/-- Rounds `m · 2^e` to a whole multiple of `2^q`, to nearest even: the multiple. -/
def roundAt (m : Nat) (e q : Int) : Nat :=
  if q ≤ e then m * 2 ^ (e - q).toNat
  else
    let d := 2 ^ (q - e).toNat
    let a := m / d
    let r := m % d
    if 2 * r < d then a else if d < 2 * r then a + 1 else a + a % 2

/-- Rounds a magnitude to a format with `p` significant bits whose least unit is `2^lo`: significand and exponent. -/
def roundFin (p : Nat) (lo : Int) (m : Nat) (e : Int) : Nat × Int :=
  let q := max lo (e + bitLen m - p)
  (roundAt m e q, q)

/-- Rounds to FP32. -/
def Num.round32 : Num → Num
  | .fin a m e =>
    let r := roundFin 24 (-149) m e
    if 128 < (bitLen r.1 : Int) + r.2 then .inf a else .fin a r.1 r.2
  | x => x

/-- FP32 sum, product and quotient, each rounded once. -/
def Num.add32 (a b : Num) : Num := (a.add b).round32
def Num.mul32 (a b : Num) : Num := (a.mul b).round32
def Num.div32 (a b : Num) : Num := (a.div b).round32

/-! ### Encodings -/

/-- The value of a binary format with `eb` exponent bits and `mb` fraction bits, all exponents but the topmost finite; with
`top` the topmost exponent holds infinities and NaN. -/
def decodeBits (eb mb : Nat) (top : Bool) (w : Nat) : Num :=
  let bias : Int := 2 ^ (eb - 1) - 1
  let sign := w / 2 ^ (eb + mb) % 2 = 1
  let ex := w / 2 ^ mb % 2 ^ eb
  let fr := w % 2 ^ mb
  if top && ex = 2 ^ eb - 1 then (if fr = 0 then .inf sign else .nan)
  else if ex = 0 then .fin sign fr (1 - bias - mb)
  else .fin sign (2 ^ mb + fr) (ex - bias - mb)

/-- FP32, BF16, E5M2, E4M3 and E2M1 values of their codes. -/
def fp32Val (w : BitVec 32) : Num := decodeBits 8 23 true w.toNat
def bf16Val (w : Nat) : Num := decodeBits 8 7 true w
def e5m2Val (w : Nat) : Num := decodeBits 5 2 true w
def e4m3Val (w : Nat) : Num := if w % 128 = 127 then .nan else decodeBits 4 3 false w
def e2m1Val (w : Nat) : Num := decodeBits 2 1 false w

/-- The code of a rounded finite magnitude in a format: significand at scale `2^q`, least unit `2^lo`. -/
def encodeFin (mb : Nat) (lo : Int) (m : Nat) (q : Int) : Nat :=
  if m < 2 ^ mb then m * 2 ^ (q - lo).toNat
  else
    let extra := bitLen m - (mb + 1)
    (q + extra - lo + 1).toNat * 2 ^ mb + (m / 2 ^ extra - 2 ^ mb)

/-- The FP32 code of a number rounded to FP32; NaN is 0x7FC0_0000. -/
def Num.to32 (x : Num) : BitVec 32 :=
  match x.round32 with
  | .nan => 0x7FC00000
  | .inf a => if a then 0xFF800000 else 0x7F800000
  | .fin a m e => BitVec.ofNat 32 ((if a then 2 ^ 31 else 0) + encodeFin 23 (-149) m e)

/-- A quantised element: its code, and whether it was stored as NaN or saturated. -/
structure Quant where
  code : Nat
  nan : Bool
  sat : Bool
deriving DecidableEq, Repr

/-- Quantises to a format: significant bits, fraction bits, least unit, largest code, sign bit, NaN code. -/
def quantise (p mb : Nat) (lo : Int) (top sign nanCode : Nat) (x : Num) : Quant :=
  let s (a : Bool) : Nat := if a then sign else 0
  match x with
  | .nan => ⟨nanCode, true, false⟩
  | .inf a => ⟨s a + top, false, true⟩
  | .fin a m e =>
    let r := roundFin p lo m e
    let c := encodeFin mb lo r.1 r.2
    if top < c then ⟨s a + top, false, true⟩ else ⟨s a + c, false, false⟩

/-- An element whose magnitude lies beyond a limit counts as saturated, even where it rounds back to the limit (R109, R112). -/
def Quant.beyond (q : Quant) (limit : Nat) (x : Num) : Quant := { q with sat := q.sat || (Num.fin false limit 0).lt x.abs }

/-- FP8 elements (R109): NaN is stored as 0x7F, magnitudes beyond the largest finite saturate. -/
def toE4m3 (x : Num) : Quant := (quantise 4 3 (-9) 0x7E 0x80 0x7F x).beyond 448 x
def toE5m2 (x : Num) : Quant := (quantise 3 2 (-16) 0x7B 0x80 0x7F x).beyond 57344 x

/-- E2M1 elements (R110). -/
def toE2m1 (x : Num) : Quant := quantise 2 1 (-1) 7 8 0 x

/-- BF16 elements (R111): a NaN is stored as 0x7FC0. -/
def toBf16 (x : Num) : Nat :=
  match x with
  | .nan => 0x7FC0
  | .inf a => (if a then 2 ^ 15 else 0) + 0x7F80
  | .fin a m e =>
    let r := roundFin 8 (-133) m e
    (if a then 2 ^ 15 else 0) + min 0x7F80 (encodeFin 7 (-133) r.1 r.2)

/-! ### Blocks with a shared scale (R110, R142) -/

/-- Infinities replaced by the largest finite FP32 magnitude. -/
def Num.clip32 : Num → Num
  | .inf a => .fin a 0xFFFFFF 104
  | x => x

/-- The exponent of the leading bit of the largest magnitude in a block; none for a block of zeros. -/
def blockTop (xs : List Num) : Option Int :=
  xs.foldl (fun a x => match x with
    | .fin _ m e => if m = 0 then a else
      let t := e + bitLen m - 1
      some (match a with
        | some b => max b t
        | none => t)
    | _ => a) none

/-- A quantised block: its scale byte and elements. -/
structure QBlock where
  scale : Nat
  elems : List Quant
deriving DecidableEq, Repr

/-- Quantises a block of 32 with exponent `floor(log2 a) − sub`, held to −127 to 127, by an element rule. -/
def quantBlock (sub : Int) (f : Num → Quant) (xs : List Num) : QBlock :=
  let xs := xs.map Num.clip32
  if xs.any (· = .nan) then ⟨0xFF, xs.map fun _ => ⟨0, true, false⟩⟩
  else
    match blockTop xs with
    | none => ⟨0x7F, xs.map fun _ => ⟨0, false, false⟩⟩
    | some t =>
      let e := max (-127) (min 127 (t - sub))
      ⟨(e + 127).toNat, xs.map fun x => match x with
        | .fin a m k => f (.fin a m (k - e))
        | y => f y⟩

/-- An MXFP4 block (R110), and a block of an input vector or a query row (R142). -/
def mxfp4Block (xs : List Num) : QBlock := quantBlock 2 toE2m1 xs
def inputBlock (xs : List Num) : QBlock := quantBlock 8 toE4m3 xs

/-! ### Exponentials, sines and cosines, correctly rounded (R107, R144) -/

/-- The fixed point in which they are formed: 2^320 is one. -/
def fixBits : Nat := 320
def fixOne : Int := (2 ^ fixBits : Nat)

/-- A finite value in that fixed point, rounded down. -/
def toFix (neg : Bool) (m : Nat) (e : Int) : Int :=
  let k := e + fixBits
  let v : Nat := if 0 ≤ k then m * 2 ^ k.toNat else m / 2 ^ (-k).toNat
  if neg then -(v : Int) else v

/-- Terms of the power series of e^x: fuel, the next index, x, the present term. -/
def expTerms : Nat → Int → Int → Int → Int
  | 0, _, _, _ => 0
  | n + 1, i, x, t => t + expTerms n (i + 1) x (t * x / fixOne / i)

/-- ln 2 in the fixed point, from the series of ln 2 = sum of 1 / (i · 2^i). -/
def ln2Terms : Nat → Nat → Int
  | 0, _ => 0
  | n + 1, i => fixOne / ((i * 2 ^ i : Nat) : Int) + ln2Terms n (i + 1)
def fixLn2 : Int := ln2Terms 320 1

/-- e^x rounded to FP32: exp(−∞) is 0, and far arguments give 0 or infinity. -/
def Num.exp32 : Num → Num
  | .nan => .nan
  | .inf a => if a then .zero else .inf false
  | .fin a m e =>
    if m = 0 then .one
    else if 128 < e + bitLen m then (if a then .zero else .inf false)
    else if 7 < e + bitLen m then (if a then .zero else .inf false)
    else if e + bitLen m < -200 then (Num.add .one (.fin a 1 (-200))).round32
    else
      let x := toFix a m e
      let n := x / fixLn2
      let y := x - n * fixLn2
      let v := expTerms 100 1 y fixOne
      (Num.fin false (2 * v.toNat + 1) (n - fixBits - 1)).round32

/-- arctan(1/k) in a fixed point of `one`, by its series. -/
def atanTerms (one : Int) (k : Nat) : Nat → Nat → Int
  | 0, _ => 0
  | n + 1, i =>
    let t := one / (((2 * i + 1) * k ^ (2 * i + 1) : Nat) : Int)
    (if i % 2 = 0 then t else -t) + atanTerms one k n (i + 1)

/-- 2π in a fixed point of 2^640, by Machin's formula. -/
def wideOne : Int := (2 ^ 640 : Nat)
def wideTwoPi : Int := 2 * (16 * atanTerms wideOne 5 140 0 - 4 * atanTerms wideOne 239 44 0)

/-- Terms of the series of sin and cos: fuel, the next index, x squared, the present term. -/
def trigTerms : Nat → Int → Int → Int → Int
  | 0, _, _, _ => 0
  | n + 1, i, x2, t => t + trigTerms n (i + 2) x2 (-(t * x2 / fixOne / (i * (i + 1))))

/-- An angle reduced modulo 2π in the fixed point. -/
def reduceAngle (m : Nat) (e : Int) : Int :=
  let k := e + 640
  let v : Int := if 0 ≤ k then (m * 2 ^ k.toNat : Nat) else (m / 2 ^ (-k).toNat : Nat)
  v % wideTwoPi / (2 ^ 320 : Nat)

/-- A value of the fixed point rounded to FP32. -/
def fixTo32 (v : Int) : Num := (Num.fin (v < 0) (2 * v.natAbs + 1) (-(fixBits : Int) - 1)).round32

/-- The cosine and the sine of a non-negative angle, rounded to FP32. -/
def cosSin32 (m : Nat) (e : Int) : Num × Num :=
  if m = 0 then (.one, .zero)
  else if e + bitLen m < -60 then (.one, (Num.fin false (m * 2 ^ 64 - 1) (e - 64)).round32)
  else
    let x := reduceAngle m e
    let x2 := x * x / fixOne
    (fixTo32 (trigTerms 120 1 x2 fixOne), fixTo32 (trigTerms 120 2 x2 x))

end Sys2Proof.Machine
end

