-- ==== Sys2Proof/Machine/Rows.lean ====
section
/-! DEFINITION. The append of key and value rows: rotation, division by the scale, quantisation, and the row's place in its page
(R89, R90, R106 to R114). -/

set_option Elab.async false

namespace Sys2Proof.Machine

/-! ### Constants of the geometry record (R84) -/

/-- An FP32 value of a geometry record. -/
def geoF32 (g : List Cell) (b : Nat) : Num := fp32Val (BitVec.ofNat 32 (geoNum g b 4))

/-- KV_SCALE of a layer, a key-value head and a kind (0 key, 1 value). -/
def kvScale (g : List Cell) (l h c : Nat) : Num := geoF32 g (2048 + 4 * ((l * 64 + h) * 2 + c))

/-- Whether the set's FP8 is E5M2. -/
def fp8IsE5m2 (g : List Cell) : Bool := geoNum g 6 1 = 1

/-! ### Rotation (R107) -/

/-- The cosine and sine of pair `i` at a position. -/
def angleOf (g : List Cell) (pos i : Nat) : Num × Num :=
  match geoF32 g (1024 + 4 * i) with
  | .fin a m e =>
    let c := cosSin32 (pos * m) e
    (c.1, if a then c.2.neg else c.2)
  | _ => (.nan, .nan)

/-- The pair of elements of index `i`: half-split or adjacent. -/
def ropePair (mode dims i : Nat) : Nat × Nat := if mode = 1 then (i, i + dims / 2) else (2 * i, 2 * i + 1)

/-- Rotates one pair of a row. -/
def rotatePair (g : List Cell) (pos mode dims : Nat) (row : List Num) (i : Nat) : List Num :=
  let ab := ropePair mode dims i
  let x := row.getD ab.1 .zero
  let y := row.getD ab.2 .zero
  let c := angleOf g pos i
  (row.set ab.1 ((x.mul c.1).add (y.mul c.2).neg).round32).set ab.2 ((x.mul c.2).add (y.mul c.1)).round32

/-- Rotates a key or query row at its position. -/
def rotate (g : List Cell) (pos : Nat) (row : List Num) : List Num :=
  let mode := geoNum g 7 1
  let dims := geoNum g 8 2
  if mode = 0 then row else (List.range (dims / 2)).foldl (rotatePair g pos mode dims) row

/-! ### Quantisation (R109 to R112) -/

/-- A quantised row: its element bytes, its scale bytes, and the elements stored as NaN and saturated. -/
structure QRow where
  bytes : List (BitVec 8)
  scales : List (BitVec 8)
  nans : Nat
  sats : Nat

/-- Pairs of 4-bit codes as bytes: the even element in the low half. -/
def packNibbles : List Nat → List (BitVec 8)
  | a :: b :: xs => BitVec.ofNat 8 (a % 16 + b % 16 * 16) :: packNibbles xs
  | [a] => [BitVec.ofNat 8 (a % 16)]
  | [] => []

/-- Cuts a list into pieces of 32. -/
def blocks32 : Nat → List Num → List (List Num)
  | 0, _ => []
  | n + 1, xs => xs.take 32 :: blocks32 n (xs.drop 32)

/-- How many elements were stored as NaN, and how many saturated. -/
def countNan (l : List Quant) : Nat := (l.filter fun q => q.nan).length
def countSat (l : List Quant) : Nat := (l.filter fun q => q.sat).length

/-- Quantises a row to a key-value format: 0 FP8, 1 MXFP4, 2 BF16. -/
def quantRow (g : List Cell) (format : Nat) (scale : Num) (row : List Num) : QRow :=
  match format with
  | 0 =>
    let qs := row.map fun x => (if fp8IsE5m2 g then toE5m2 else toE4m3) (x.div32 scale)
    ⟨qs.map fun q => BitVec.ofNat 8 q.code, [], countNan qs, countSat qs⟩
  | 1 =>
    let bs := (blocks32 (row.length / 32) (row.map fun x => x.div32 scale)).map mxfp4Block
    let qs := bs.flatMap fun b => b.elems
    ⟨packNibbles (qs.map fun q => q.code), bs.map fun b => BitVec.ofNat 8 b.scale, countNan qs, countSat qs⟩
  | _ =>
    ⟨row.flatMap fun x => leBytes 2 (toBf16 x), [], (row.filter (· = .nan)).length, 0⟩

/-! ### Places in a page (R89) -/

/-- The bytes of one row of a format. -/
def rowBytesOf (format d : Nat) : Nat :=
  match format with
  | 0 => d
  | 1 => d / 2
  | _ => 2 * d

/-- Where a row of a head and a slot starts in its page: kind 0 key, 1 value. -/
def rowStart (format heads tpp d kind h t : Nat) : Nat := (kind * heads * tpp + h * tpp + t) * rowBytesOf format d

/-- Where a row's scale bytes start (MXFP4). -/
def scaleStart (heads tpp d kind h t : Nat) : Nat :=
  2 * heads * tpp * (d / 2) + (kind * heads * tpp + h * tpp + t) * (d / 32)

/-! ### The append -/

/-- A poisoned sector that a writer merges into: a Deferred error of what read it, the controller or the owning unit (R156, R213). -/
def State.mergeError (s : State) (p loc sec : Nat) : State :=
  let unit := s.fld genChmode_mode (channelOf loc) = 1
  s.raise (if unit then errorOfPart 1 2 2 (frameByte loc (sec * 32)) p else errorOfPart 1 1 3 (frameByte loc (sec * 32)) p)

/-- The sectors of bytes `o` to `o + n - 1` of a page: a whole one is no longer poisoned; one written in part is read first. In a channel in
processor mode the owning unit writes them, by a STORE operation that the Ladle issues for the partition and that takes no time of the
model (R135; DESIGN CHOICE, log 157). -/
def State.writeSectors (s : State) (p key o n : Nat) : State :=
  let secs := s.tiers.poison.filter fun x => x / 2048 = key && o < x % 2048 * 32 + 32 && x % 2048 * 32 < o + n
  let whole := secs.filter fun x => o ≤ x % 2048 * 32 && x % 2048 * 32 + 32 ≤ o + n
  let s := { s with tiers := { s.tiers with poison := s.tiers.poison.filter fun x => !whole.contains x } }
  match mget s.tiers.pages key with
  | some e =>
    if e.tier = 1 then
      let s := (secs.filter fun x => !whole.contains x).foldl (fun s x => s.mergeError p e.loc (x % 2048)) s
      if s.fld genChmode_mode (channelOf e.loc) = 1 then s.markIssuer (channelOf e.loc) p (2 ^ (e.loc / 1536 % 32)) else s
    else s
  | none => s

/-- Writes bytes of a row into a page and ships them to the mirror. -/
def State.putRow (s : State) (h i l key o : Nat) (bs : List (BitVec 8)) : State :=
  let s := s.writeSectors (key / 2 ^ 32) key o bs.length
  let s := { s with tiers := { (s.tiers.touch key) with bytes := Cells.writeList s.tiers.bytes (pageByte key o) bs } }
  s.shipRow h i l o bs

/-- Appends one head's row of a kind. -/
def State.appendHead (s : State) (h : Nat) (q : Seq) (g : List Cell) (l pos key kind head : Nat) (row : List Num) : State :=
  let i := q.block pos
  let t := pos % q.tpp
  let r := quantRow g q.format (kvScale g l head kind) row
  let s := s.putRow h i l key (rowStart q.format q.kvHeads q.tpp q.headDim kind head t) r.bytes
  let s := if r.scales.isEmpty then s else s.putRow h i l key (scaleStart q.kvHeads q.tpp q.headDim kind head t) r.scales
  (s.bump ldlQuantStat_nanCount q.part r.nans).bump ldlQuantStat_satCount q.part r.sats

/-- Head `head`'s row of a token's rows. -/
def headRow (d head : Nat) (xs : List (BitVec 32)) : List Num := ((xs.drop (head * d)).take d).map fp32Val

/-- Appends a token's rows of one layer, head by head; one append is counted per token, layer and head pair. -/
def State.appendAt (s : State) (h : Nat) (q : Seq) (g : List Cell) (l pos key : Nat) (r : AppendRow) : State :=
  (List.range q.kvHeads).foldl (fun s head =>
    let s := s.appendHead h q g l pos key 0 head (rotate g pos (headRow q.headDim head r.keys))
    let s := s.appendHead h q g l pos key 1 head (headRow q.headDim head r.values)
    s.bumpWrap ldlQuantStat_appendCount q.part 1) s

/-- The tokens of a sequence that a pass or a chunk holds. -/
def Pass.tokensOf (x : Option Pass) (h : Nat) : Nat :=
  match x with
  | some y => ((y.toks.filter fun t => t.1 = h).map Prod.snd).sum
  | none => 0

/-- The inputs of the sequence's running step or pass, as their first position and their number: the token at r and the drafts of a step;
the token at r where it has no row and the prompt tokens of a pass; the journal's tokens of a re-prefill (R114, R397). Without any it takes
no rows. -/
def State.inputs (s : State) (h : Nat) (q : Seq) : Nat × Nat :=
  let n := Pass.tokensOf (s.part q.part).pass h + Pass.tokensOf (s.part q.part).chunk h
  match q.state with
  | .stepping => (q.r, if (s.part q.part).batch.contains h then q.draft + 1 else 0)
  | .prefilling => (q.r, if n = 0 then 0 else q.length - q.r + n)
  | .rebuild => (q.rebuildPos, n)
  | _ => (q.r, 0)

/-- Whether every row of a layer that the sequence's inputs produce is written (R113). -/
def State.rowsWritten (s : State) (h layer : Nat) (q : Seq) : Bool := decide ((s.inputs h q).2 ≤ mgetD q.written layer 0)

/-! ### The walker's leaf chunks (R99, R100, R120) -/

/-- The walker uses leaf chunks: those that it does not hold in tier 0 are fetched from tier 1 and counted. The cache of 8 MiB holds 2,048
(R276). -/
def State.useLeaves (s : State) (chunks : List Nat) : State :=
  let missed := chunks.dedup.filter fun c => !s.tiers.leafCache.contains c
  if missed.isEmpty then s
  else
    let all := s.tiers.leafCache ++ missed
    ({ s with tiers := { s.tiers with leafCache := all.drop (all.length - 2048) } }).bump ldlWalkMiss_count 0 missed.length

/-- The leaf chunks of a sequence that hold the entries of blocks `a` to `b - 1`. -/
def Seq.leafChunks (q : Seq) (a b : Nat) : List Nat :=
  (q.leaves.filter fun e => a ≤ e.1 * 1024 + 1023 && e.1 * 1024 < b).map Prod.snd

/-- Appends the rows of a kernel's completion (R106): those of the inputs of the sequence's step or pass, and no others. The slots count as
APPENDED until the commit (R114). An append to a page that is not at home in tier 1 waits for its flip (R287). -/
def State.append (s : State) (r : AppendRow) : State :=
  let h := r.handle.toNat
  let pos := r.position.toNat
  match s.seq h with
  | none => s
  | some q =>
    match q.pageAt (q.block pos) r.layer.toNat, mget s.weights q.model with
    | some key, some w =>
      let inp := s.inputs h q
      let l := r.layer.toNat
      if pos < inp.1 || inp.1 + inp.2 ≤ pos || q.layers ≤ l then s
      else if s.tierOf key ≠ 1 then ({ s with tiers := { s.tiers with waitRows := s.tiers.waitRows ++ [r] } }).bringUp key
      else
        let s := s.bringUp key
        let s := (s.useLeaves (q.leafChunks (q.block pos) (q.block pos + 1))).appendAt h q w.geometry l pos key r
        s.modSeq h fun q =>
          { q with appended := max q.appended (pos + 1 - q.r), written := mset q.written l (max (mgetD q.written l 0) (pos + 1 - inp.1)) }
    | _, _ => s

/-- The appends that waited for a flip go on; those whose page is still on its way wait again. -/
def State.flushRows (s : State) : State :=
  s.tiers.waitRows.foldl State.append { s with tiers := { s.tiers with waitRows := [] } }

end Sys2Proof.Machine
end

