-- ==== Sys2Proof/Machine/Select.lean ====
section
/-! DEFINITION. The selection of tokens from logits, and the checking of draft tokens (R163 to R166). -/

set_option Elab.async false

namespace Sys2Proof.Machine

/-- The uniform draw of a position and a purpose (R164). -/
def draw (seed : BitVec 64) (pos purpose : Nat) : Num :=
  let x := seed ^^^ (BitVec.ofNat 64 (pos * 2 + purpose) * 0x9e3779b97f4a7c15#64)
  let x := (x ^^^ (x >>> 30)) * 0xbf58476d1ce4e5b9#64
  let x := (x ^^^ (x >>> 27)) * 0x94d049bb133111eb#64
  let x := x ^^^ (x >>> 31)
  .fin false (x >>> 40).toNat (-24)

/-- A token and a value of it. -/
abbrev Scored := List (Nat × Num)

/-- The order by descending value, ties by ascending identifier. -/
def better (a b : Nat × Num) : Bool := b.2.lt a.2 || (!a.2.lt b.2 && a.1 ≤ b.1)

/-- The FP32 sum of a list in its order. -/
def sum32 (l : Scored) : Num := l.foldl (fun a x => a.add32 x.2) .zero

/-- The token with the largest value, a tie going to the lowest identifier. -/
def argmax (l : Scored) : Nat :=
  match l with
  | [] => 0
  | x :: xs => (xs.foldl (fun a y => if a.2.lt y.2 then y else a) x).1

/-- The logits of a position with their identifiers. -/
def scored (logits : List (BitVec 32)) : Scored := logits.zipIdx.map fun x => (x.2, fp32Val x.1)

/-- The shortest prefix whose running sum reaches a target. -/
def reaching (target : Num) : Num → Scored → Scored
  | _, [] => []
  | run, x :: xs =>
    let r := run.add32 x.2
    if r.lt target then x :: reaching target r xs else [x]

/-- The first token whose running sum exceeds a target; the last one when none does. -/
def exceeding (target : Num) : Num → Nat → Scored → Nat
  | _, last, [] => last
  | run, _, x :: xs =>
    let r := run.add32 x.2
    if target.lt r then x.1 else exceeding target r x.1 xs

/-- The parameters of a sequence's selection. -/
structure Sampling where
  temperature : Num
  topK : Nat
  topP : Num

/-- Whether the selection is greedy. -/
def Sampling.greedy (c : Sampling) : Bool := c.temperature.isZero

/-- The tokens kept, in their order, each with its p (R163). -/
def Sampling.kept (c : Sampling) (logits : List (BitVec 32)) : Scored :=
  let vals := (scored logits).map fun x => (x.1, x.2.div32 c.temperature)
  let top := if c.topK = 0 then vals
    else sortBy (fun a b => a.1 ≤ b.1) ((sortBy better vals).take c.topK)
  let m := (top.foldl (fun a x => if Num.lt a x.2 then x.2 else a) (.inf true))
  let p := top.map fun x => (x.1, (x.2.add32 m.neg).exp32)
  reaching (c.topP.mul32 (sum32 p)) .zero (sortBy better p)

/-- Picks from tokens in order by a draw. -/
def pick (u : Num) (l : Scored) : Nat := exceeding (u.mul32 (sum32 l)) .zero 0 l

/-- The token that a draw selects from logits (R163). -/
def Sampling.select (c : Sampling) (logits : List (BitVec 32)) (u : Num) : Nat :=
  if c.greedy then argmax (scored logits) else pick u (c.kept logits)

/-- The normalised distribution over the kept tokens. -/
def Sampling.dist (c : Sampling) (logits : List (BitVec 32)) : Scored :=
  let l := c.kept logits
  let s := sum32 l
  l.map fun x => (x.1, x.2.div32 s)

/-- The probability of a token. -/
def probOf (l : Scored) (t : Nat) : Num :=
  match l.find? fun x => x.1 = t with
  | some x => x.2
  | none => .zero

/-- The residuals max(0, p − q) over the tokens kept for p, in their order. -/
def residuals (p q : Scored) : Scored :=
  sortBy better (p.map fun x => (x.1, let d := x.2.add32 (probOf q x.1).neg
    if Num.lt .zero d then d else .zero))

/-- The token at a rejection (R165). -/
def Sampling.reject (c : Sampling) (main draft : List (BitVec 32)) (u : Num) : Nat :=
  if c.greedy then argmax (scored main)
  else
    let r := residuals (c.dist main) (c.dist draft)
    if r.any fun x => Num.lt .zero x.2 then pick u r else c.select main u

/-- Whether a draft token is accepted (R165). -/
def Sampling.accepts (c : Sampling) (main draft : List (BitVec 32)) (x : Nat) (u : Num) : Bool :=
  if c.greedy then x = argmax (scored main)
  else (u.mul32 (probOf (c.dist draft) x)).lt (probOf (c.dist main) x)

/-- Checks drafted tokens in order from a position: how many are accepted, and the tokens that the step yields. -/
def Sampling.check (c : Sampling) (seed : BitVec 64) : Nat → List (List (BitVec 32)) → List (List (BitVec 32)) → List Nat → Nat × List Nat
  | pos, main :: ms, draft :: ds, x :: xs =>
    if c.accepts main draft x (draw seed pos 1) then
      let r := c.check seed (pos + 1) ms ds xs
      (r.1 + 1, x :: r.2)
    else (0, [c.reject main draft (draw seed pos 0)])
  | pos, main :: _, _, _ => (0, [c.select main (draw seed pos 0)])
  | _, [], _, _ => (0, [])

/-- A sequence's parameters. -/
def Seq.sampling (q : Seq) : Sampling := ⟨fp32Val q.temperature, q.topK, fp32Val q.topP⟩

/-- What a sequence selects from the logits of a step or of the end of its prompt. -/
def Seq.selects (q : Seq) (pos : Nat) (r : LogitRow) : Selected :=
  let k := if q.state = .stepping then q.draft else 0
  let drafted := (r.drafted.take k).map BitVec.toNat
  let x := q.sampling.check q.seed pos r.main (r.draft.take k) drafted
  ⟨drafted.length, x.1, x.2⟩

end Sys2Proof.Machine
end

