-- ==== Sys2Proof/Machine/NearArith.lean ====
section
/-! DEFINITION. The arithmetic of the near-bank units, the chain and the cross-channel reduce unit (R115 to R119, R141 to R150). -/

set_option Elab.async false

namespace Sys2Proof.Machine

/-! ### Elements and dot products (R141 to R143) -/

/-- The value of an E8M0 scale byte. -/
def e8m0 (c : Nat) : Num := if c = 255 then .nan else .fin false 1 ((c : Int) - 127)

/-- The value of an element code: FORMAT 0 E4M3, 1 E5M2, 2 E2M1, 3 BF16 (R137). -/
def elemVal (format c : Nat) : Num :=
  match format with
  | 0 => e4m3Val c
  | 1 => e5m2Val c
  | 2 => e2m1Val c
  | _ => bf16Val c

/-- Whether a value is an infinity or not a number. -/
def Num.wild : Num → Bool
  | .fin _ _ _ => false
  | _ => true

/-- A block of elements: their values and the block's scale. -/
structure Block32 where
  elems : List Num
  scale : Num
deriving DecidableEq, Repr

/-- The exact sum of the products of two blocks, times both scales. -/
def blockDot (w x : Block32) : Num := (((List.zipWith Num.mul w.elems x.elems).foldl Num.add .zero).mul w.scale).mul x.scale

/-- A dot product (R143): block sums added in FP32 in ascending order; an infinity or NaN in any operand makes it NaN. -/
def dot (ws xs : List Block32) : Num :=
  if (ws ++ xs).any fun b => b.scale.wild || b.elems.any Num.wild then .nan
  else (List.zipWith blockDot ws xs).foldl Num.add32 .zero

/-- The format of what meets the banks' elements: E4M3, and BF16 in a BF16 operation (R142). -/
def inputFormat (format : Nat) : Nat := if format = 3 then 3 else 0

/-- A row of FP32 values as the logic die quantises it (R142). -/
def quantInput (format : Nat) (row : List Num) : List Block32 :=
  (blocks32 (row.length / 32) row).map fun b =>
    if format = 3 then ⟨b.map fun x => bf16Val (toBf16 x), .one⟩
    else
      let q := inputBlock b
      ⟨q.elems.map fun e => e4m3Val e.code, e8m0 q.scale⟩

/-! ### Vector buffers (R122, R138, R142) -/

/-- A quantised row as it lies in a vector buffer (DESIGN CHOICE, log 147): its element codes, then its scale bytes; BF16 has none. -/
def busRow (format : Nat) (row : List Num) : List (BitVec 8) :=
  if format = 3 then row.flatMap fun x => leBytes 2 (toBf16 x)
  else
    let bs := (blocks32 (row.length / 32) row).map inputBlock
    bs.flatMap (fun b => b.elems.map fun e => BitVec.ofNat 8 e.code) ++ bs.map fun b => BitVec.ofNat 8 b.scale

/-- The bytes that a row of `k` elements takes there. -/
def busRowBytes (format k : Nat) : Nat := if format = 3 then 2 * k else k + k / 32

/-- The row of `k` elements at a place of a vector buffer. -/
def bufferRow (buf : List Cell) (format at_ k : Nat) : List Block32 :=
  if format = 3 then
    (blocks32 (k / 32) ((List.range k).map fun i => bf16Val (ofLe (Cells.readList buf (at_ + 2 * i) 2)))).map fun e => ⟨e, .one⟩
  else
    let elems := blocks32 (k / 32) ((Cells.readList buf at_ k).map fun c => e4m3Val c.toNat)
    List.zipWith (fun e c => ⟨e, e8m0 c.toNat⟩) elems (Cells.readList buf (at_ + k) (k / 32))

/-! ### Stored rows (R89) -/

/-- The key-value format that an operation's FORMAT reads. -/
def kvFormat (format : Nat) : Nat :=
  match format with
  | 0 => 0
  | 1 => 0
  | 2 => 1
  | _ => 2

/-- The element codes of a stored row's bytes. -/
def rowCodes (format : Nat) : List (BitVec 8) → List Nat
  | [] => []
  | a :: rest =>
    match format with
    | 2 => a.toNat % 16 :: a.toNat / 16 :: rowCodes format rest
    | 3 =>
      match rest with
      | b :: rest => (a.toNat + 256 * b.toNat) :: rowCodes format rest
      | [] => []
    | _ => a.toNat :: rowCodes format rest

/-- What the engines know of the page that they read: its key, or its frame where it is a page of a draft ring; its sequence; how many of
its slots hold rows of the sequence (R91, R101); the shape of the set, and the format of the state. -/
structure FrameView where
  key : Nat
  ring : Bool
  live : Nat
  handle : Nat
  geo : List Cell
  heads : Nat
  qheads : Nat
  dim : Nat
  tpp : Nat

/-- Bytes of the page. -/
def State.viewBytes (s : State) (f : FrameView) (o n : Nat) : List (BitVec 8) :=
  if f.ring then (List.range n).map fun i => s.dramByte (frameByte f.key (o + i)) else Cells.readList s.tiers.bytes (pageByte f.key o) n

/-- A stored row of a page: kind 0 key, 1 value; head; slot. -/
def State.storedRow (s : State) (v : FrameView) (format kind h t : Nat) : List Block32 :=
  let f := kvFormat format
  let bytes := s.viewBytes v (rowStart f v.heads v.tpp v.dim kind h t) (rowBytesOf f v.dim)
  let elems := blocks32 (v.dim / 32) ((rowCodes format bytes).map (elemVal format))
  if f = 1 then
    let scales := s.viewBytes v (scaleStart v.heads v.tpp v.dim kind h t) (v.dim / 32)
    List.zipWith (fun e c => ⟨e, e8m0 c.toNat⟩) elems scales
  else elems.map fun e => ⟨e, .one⟩

/-! ### Bias (R115 to R118) -/

/-- The bias index of a distance. -/
def biasIndex (d : Int) : Nat :=
  if d < 0 then 511
  else if d < 128 then d.toNat
  else
    let n := d.toNat
    let e := Nat.log2 n
    128 + (e - 7) * 16 + n / 2 ^ (e - 4) % 16

/-- The bias of a query head for a distance; none masks the key. -/
def biasOf (g : List Cell) (layer head : Nat) (d : Int) : Option Num :=
  let sel := geoNum g (20 + layer) 1
  if sel = 0 then (if 0 ≤ d then some .zero else none)
  else
    match bf16Val (geoNum g (133120 + ((sel - 1) * 128 + head) * 1024 + 2 * biasIndex d) 2) with
    | .fin a m e => some (.fin a m e)
    | _ => none

/-! ### Attention over a frame (R144) -/

/-- The running m, s and v. -/
structure Attn where
  m : Num
  s : Num
  v : List Num
deriving DecidableEq, Repr

/-- The empty partial. -/
def Attn.empty (d : Nat) : Attn := ⟨.inf true, .zero, List.replicate d .zero⟩

/-- One slot: its score, the value row and the value's scale. -/
def Attn.step (a : Attn) (score : Num) (value : List Num) (scale : Num) : Attn :=
  let a := if a.m.lt score then
      let r := (a.m.add32 score.neg).exp32
      ⟨score, a.s.mul32 r, a.v.map fun x => x.mul32 r⟩
    else a
  let w := (score.add32 a.m.neg).exp32
  { a with s := a.s.add32 w, v := List.zipWith (fun x y => x.add32 ((w.mul32 y).mul32 scale)) a.v value }

/-- The partial as the chain carries it. -/
def Attn.partial_ (a : Attn) (poisoned : Bool) : Partial := ⟨a.m.to32, a.s.to32, a.v.map Num.to32, poisoned⟩

/-- The values of a stored value row, each times its block's scale. -/
def rowValues (bs : List Block32) : List Num := bs.flatMap fun b => b.elems.map fun x => x.mul b.scale

/-- One quantised query row against the slots of a page, as far as they hold rows of the sequence: the position of slot 0, and the
position and head of the query (R101, R115, R144). -/
def State.attend (s : State) (f : FrameView) (format layer slots first pq qhead : Nat) (q : List Block32) : Attn :=
  let h := qhead / (f.qheads / f.heads)
  (List.range (min slots f.live)).foldl (fun a (t : Nat) =>
    match biasOf f.geo layer qhead ((pq : Int) - (first + t : Nat)) with
    | none => a
    | some b =>
      let k := dot (s.storedRow f format 0 h t) q
      let score := ((k.mul32 (kvScale f.geo layer h 0)).mul32 (geoF32 f.geo 16)).add32 b
      a.step score (rowValues (s.storedRow f format 1 h t)) (kvScale f.geo layer h 1)) (Attn.empty f.dim)

/-! ### The chain and the reductions (R146 to R150) -/

/-- The value of an FP32 code list. -/
def vals32 (l : List (BitVec 32)) : List Num := l.map fp32Val

/-- The combining rule of ATTN. -/
def combineAttn (a b : Partial) : Partial :=
  let ma := fp32Val a.m
  let mb := fp32Val b.m
  let big := if ma.lt mb then mb else ma
  let poisoned := a.poisoned || b.poisoned
  if big = .inf true then ⟨a.m, 0, a.v.map fun _ => 0, poisoned⟩
  else
    let α := (ma.add32 big.neg).exp32
    let β := (mb.add32 big.neg).exp32
    let mix (x y : Num) : Num := (x.mul32 α).add32 (y.mul32 β)
    ⟨big.to32, (mix (fp32Val a.s) (fp32Val b.s)).to32, List.zipWith (fun x y => (mix (fp32Val x) (fp32Val y)).to32) a.v b.v, poisoned⟩

/-- The combining rules by kind: 0 ATTN, 1 MATVEC_ROW, 2 MATVEC_COL (R148). -/
def combineBy (kind : Nat) (a b : Partial) : Partial :=
  match kind with
  | 0 => combineAttn a b
  | 1 => ⟨0, 0, a.v ++ b.v, a.poisoned || b.poisoned⟩
  | _ => ⟨0, 0, List.zipWith (fun x y => ((fp32Val x).add32 (fp32Val y)).to32) a.v b.v, a.poisoned || b.poisoned⟩

/-- The chain: combine(r0, combine(r1, …)), from the results of the units in ascending order (R146). -/
def chainOf (kind : Nat) (l : List Partial) : Option Partial :=
  l.foldr (fun a r => some (match r with
    | some b => combineBy kind a b
    | none => a)) none

/-- The cross-channel reduction, in ascending channel order (R147). -/
def acrossOf (kind : Nat) (l : List Partial) : Option Partial :=
  l.foldl (fun r b => some (match r with
    | some a => combineBy kind a b
    | none => b)) none

/-- ATTN's end: v divided by s, zeros where s is 0 (R149). -/
def endAttn (p : Partial) : Partial :=
  let t := fp32Val p.s
  { p with v := if t.isZero then p.v.map fun _ => 0 else p.v.map fun x => ((fp32Val x).div32 t).to32 }

/-- The owners of reductions in `Gen.reduce`: a sequence's attention, a sequence's attention over its draft ring, and a weight product by
partition, kind (1 MATVEC_ROW, 2 MATVEC_COL) and the number that its issuer gives the reduction. -/
def draftOwner (h : Nat) : Nat := 2 ^ 18 + h
def weightOwner (p kind tag : Nat) : Nat := 2 ^ 19 + (tag * 16 + p) * 4 + kind

/-- The key of a unit's results: the owner, the layer, the channel and the unit. -/
def reduceKey (owner layer c u : Nat) : Nat := ((owner * 256 + layer) * 64 + c) * 32 + u

/-- The kind of an owner's reduction: 0 attention. -/
def ownerKind (owner : Nat) : Nat := if owner < 2 ^ 19 then 0 else (owner - 2 ^ 19) % 4

/-- A unit's result meets those that it has given to the same reduction: they combine in the order of issue (R150). -/
def State.addPartial (s : State) (owner layer c u query : Nat) (p : Partial) : State :=
  let key := reduceKey owner layer c u
  let m := mgetD s.gen.reduce key []
  let p := match mget m query with
    | some a => combineBy (ownerKind owner) a p
    | none => p
  { s with gen := { s.gen with reduce := mset s.gen.reduce key (mset m query p) } }

/-- The results held of an owner and layer. -/
def Gen.held (g : Gen) (owner layer : Nat) : AMap (AMap Partial) := g.reduce.filter fun x => x.1 / 2048 = owner * 256 + layer

/-- The owners of the results held of a layer that satisfy a test. -/
def Gen.owners (g : Gen) (layer : Nat) (f : Nat → Bool) : List Nat :=
  ((g.reduce.filter fun x => x.1 / 2048 % 256 = layer && f (x.1 / 2048 / 256)).map fun x => x.1 / 2048 / 256).dedup

/-- The channels, ascending, and the queries of a set of results. -/
def heldChannels (l : AMap (AMap Partial)) : List Nat := (l.map fun x => x.1 / 32 % 64).dedup
def heldQueries (l : AMap (AMap Partial)) : List Nat := (l.flatMap fun x => x.2.map Prod.fst).dedup

/-- The reduction of one query over units and channels. -/
def reduceQuery (kind : Nat) (l : AMap (AMap Partial)) (query : Nat) : Option Partial :=
  acrossOf kind ((heldChannels l).filterMap fun c =>
    chainOf kind ((l.filter fun x => x.1 / 32 % 64 = c).filterMap fun x => mget x.2 query))

/-- Ends the reduction of an owner's layer: its outputs are handed on, and the results held are gone. -/
def State.endReduction (s : State) (layer owner : Nat) : State :=
  let l := s.gen.held owner layer
  if l.isEmpty then s
  else
    let kind := ownerKind owner
    let out : AMap Partial := (heldQueries l).foldl (fun (m : AMap Partial) q => match reduceQuery kind l q with
      | some p => mset m q (if kind = 0 then endAttn p else p)
      | none => m) []
    { s with gen := { s.gen with
        reduce := s.gen.reduce.filter fun x => x.1 / 2048 ≠ owner * 256 + layer
        outputs := mset s.gen.outputs (owner * 256 + layer) out } }

/-- Ends the reductions of a layer that an entry hands on; earlier outputs are gone. -/
def State.endReductions (s : State) (layer : Nat) (owners : List Nat) : State :=
  owners.foldl (fun s o => s.endReduction layer o) { s with gen := { s.gen with outputs := [] } }

/-- What the last reduction of an owner and layer gave for a query. -/
def Gen.output (g : Gen) (owner layer query : Nat) : List (BitVec 32) :=
  match mget (mgetD g.outputs (owner * 256 + layer) []) query with
  | some p => p.v
  | none => []

end Sys2Proof.Machine
end

