-- ==== Sys2Proof/Machine/TileArith.lean ====
section
/-! DEFINITION. The arithmetic of the matrix tiles: operand format pairs, the quantisation of activations, the delivery of weight blocks, the
product, the vector lane, RMS normalisation, destination formats, and prefill attention (R177 to R185, R195 to R197, R215). -/

set_option Elab.async false

namespace Sys2Proof.Machine

/-! ### Elements and operand format pairs (R177, R178) -/

/-- The values of INT8, E2M3 and E3M2 codes. -/
def int8Val (c : Nat) : Num := if c < 128 then .fin false c 0 else .fin true (256 - c) 0
def e2m3Val (c : Nat) : Num := decodeBits 2 3 false c
def e3m2Val (c : Nat) : Num := decodeBits 3 2 false c

/-- The value of an element of a weight block's KIND (R217). -/
def kindVal (kind c : Nat) : Num :=
  match kind with
  | 0 => e4m3Val c
  | 1 => e5m2Val c
  | 2 => int8Val c
  | 3 => e2m3Val c
  | 4 => e3m2Val c
  | 5 => e2m1Val c
  | _ => bf16Val c

/-- Whether a pair takes weights of a KIND. -/
def pairTakes (pair kind : Nat) : Bool :=
  match pair with
  | 0 => kind ≤ 1
  | 1 => kind = 2
  | 2 => kind = 3 || kind = 4
  | 3 => kind = 5
  | 4 => kind = 3 || kind = 4 || kind = 5
  | _ => kind = 6

/-- Elements of E2M3, E3M2 and INT8, each rounded to nearest even and saturating; INT8 gives no −128. -/
def toE2m3 (x : Num) : Quant := quantise 4 3 (-3) 31 32 0 x
def toE3m2 (x : Num) : Quant := quantise 3 2 (-4) 31 32 0 x
def toInt8 (x : Num) : Quant :=
  match x with
  | .fin a m e =>
    let n := roundAt m e 0
    ⟨if a then (256 - min 127 n) % 256 else min 127 n, false, 127 < n⟩
  | _ => ⟨0, true, false⟩

/-- The activation elements of a pair as a KIND: those of pair 2 are of the weights' kind. -/
def actKind (pair kind : Nat) : Nat :=
  match pair with
  | 0 => 0
  | 1 => 2
  | 2 => kind
  | 3 => 5
  | 4 => 0
  | _ => 6

/-- A block of 32 activations quantised to a KIND (R178). -/
def actBlock (kind : Nat) (xs : List Num) : QBlock :=
  match kind with
  | 2 => quantBlock 6 toInt8 xs
  | 3 => quantBlock 2 toE2m3 xs
  | 4 => quantBlock 4 toE3m2 xs
  | 5 => mxfp4Block xs
  | _ => inputBlock xs

/-- A row of activations in blocks of 32, the last one filled with zeros. -/
def actBlocks (row : List Num) : List (List Num) :=
  let n := ceilDiv row.length 32
  blocks32 n (row ++ List.replicate (32 * n - row.length) .zero)

/-- A row as the tile's operand: quantised under R178, or in BF16 without a scale. -/
def actRow (kind : Nat) (row : List Num) : List Block32 :=
  (actBlocks row).map fun b =>
    if kind = 6 then ⟨b.map fun x => bf16Val (toBf16 x), .one⟩
    else
      let q := actBlock kind b
      ⟨q.elems.map fun e => kindVal kind e.code, e8m0 q.scale⟩

/-! ### Weight blocks as the operand port delivers them (R185, R215, R217) -/

/-- The 6-bit codes of bytes: four in each group of three. -/
def unpack6 : List (BitVec 8) → List Nat
  | a :: b :: c :: rest =>
    let w := a.toNat + 256 * b.toNat + 65536 * c.toNat
    w % 64 :: w / 64 % 64 :: w / 4096 % 64 :: w / 262144 :: unpack6 rest
  | _ => []

/-- The element codes of a raw block, row by row. -/
def blockCodes (kind : Nat) (raw : List (BitVec 8)) : List Nat :=
  match kind with
  | 3 => unpack6 (raw.drop 128)
  | 4 => unpack6 (raw.drop 128)
  | 5 => rowCodes 2 (raw.drop 128)
  | 6 => rowCodes 3 raw
  | _ => raw.map BitVec.toNat

/-- The scale bytes of a raw block, one for each column; a block without scales has 1 in each. -/
def blockScales (kind : Nat) (raw : List (BitVec 8)) : List Nat :=
  if 3 ≤ kind && kind ≤ 5 then (raw.take 128).map BitVec.toNat else List.replicate 128 0x7F

/-- The delivery of a block: its 32 K rows in ascending order, each as 128 elements in ascending column order. -/
def deliver (kind : Nat) (raw : List (BitVec 8)) : List (List Nat) :=
  let codes := blockCodes kind raw
  (List.range 32).map fun k => (codes.drop (128 * k)).take 128

/-- What one column of the array receives of a block. -/
def weightColumn (b : Nat × List (BitVec 8)) (c : Nat) : Block32 :=
  ⟨(deliver b.1 b.2).map fun r => kindVal b.1 (r.getD c 0), e8m0 ((blockScales b.1 b.2).getD c 0x7F)⟩

/-! ### Functions of the vector lane (R181) -/

/-- The integer square root: bit by bit from `b` downwards. -/
def sqrtBits : Nat → Nat → Nat → Nat
  | 0, _, r => r
  | b + 1, n, r => sqrtBits b n (if (r + 2 ^ b) * (r + 2 ^ b) ≤ n then r + 2 ^ b else r)

/-- e^t for `t` in the fixed point, as a significand and a power of 2. -/
def expFix (t : Int) : Nat × Int :=
  let n := t / fixLn2
  ((expTerms 100 1 (t - n * fixLn2) fixOne).toNat, n - fixBits)

/-- x / (1 + e^t), exact but for a sticky bit, for `t` in the fixed point; far arguments end at x or at 0. -/
def logistic (a : Bool) (m : Nat) (e : Int) (t : Int) : Num :=
  if 1024 * fixOne ≤ t then .fin a 1 (-1400)
  else if t ≤ -1024 * fixOne then .fin a (m * 2 ^ 64 - 1) (e - 64)
  else
    let x := expFix t
    (Num.fin a m e).div ((Num.fin false (2 * x.1 + 1) (x.2 - 1)).add .one)

/-- The argument of an exponential in the fixed point, held to ±1,024. -/
def fixHeld (neg : Bool) (m : Nat) (e : Int) : Int :=
  if 10 < e + bitLen m then (if neg then -1024 * fixOne else 1024 * fixOne) else toFix neg m e

/-- SiLU(x) = x / (1 + e^−x), not yet rounded. -/
def siluOf (x : Num) : Num :=
  match x with
  | .nan => .nan
  | .inf a => if a then .fin true 0 0 else .inf false
  | .fin a m e => if m = 0 then x else logistic a m e (fixHeld (!a) m e)

/-- 2 · √(2/π) in a fixed point of 2^640. -/
def geluRoot : Nat := sqrtBits 642 (16 * 2 ^ 1920 / wideTwoPi.toNat) 0

/-- GELU in its tanh form: x / (1 + e^−t) with t = 2 · √(2/π) · (x + 0.044715 · x³), not yet rounded. -/
def geluOf (x : Num) : Num :=
  match x with
  | .nan => .nan
  | .inf a => if a then .fin true 0 0 else .inf false
  | .fin a m e =>
    if m = 0 then x
    else
      let y := (x.mul (.fin false 1000000 0)).add (((x.mul x).mul x).mul (.fin false 44715 0))
      match (y.mul (.fin false geluRoot (-640))).div (.fin false 1000000 0) with
      | .fin b n f => logistic a m e (fixHeld (!b) n f)
      | _ => x

/-- ReLU. -/
def reluOf (x : Num) : Num :=
  match x with
  | .fin true _ _ => .zero
  | .inf true => .zero
  | y => y

/-- The layer's function over a row of the output block, each value rounded once; the gated product pairs each column of the first half with
that of the second (DESIGN CHOICE, log 150). -/
def laneFn (f : LaneFn) (row : List Num) : List Num :=
  match f with
  | .none => row
  | .relu => row.map reluOf
  | .silu => row.map fun x => (siluOf x).round32
  | .gelu => row.map fun x => (geluOf x).round32
  | .gated =>
    let n := row.length / 2
    List.zipWith (fun a b => ((siluOf a).mul b).round32) (row.take n) ((row.drop n).take n)

/-! ### RMS normalisation (R182) -/

/-- The reciprocal square root, correctly rounded. -/
def Num.rsqrt32 : Num → Num
  | .nan => .nan
  | .inf a => if a then .nan else .zero
  | .fin a m e =>
    if m = 0 then .inf a
    else if a then .nan
    else
      let odd := e % 2 ≠ 0
      let m := if odd then 2 * m else m
      let e := if odd then e - 1 else e
      let k := 64 + bitLen m
      let q := sqrtBits (k + 1) (2 ^ (2 * k) / m) 0
      (Num.fin false (if q * q * m = 2 ^ (2 * k) then 2 * q else 2 * q + 1) (-(k : Int) - 1 - e / 2)).round32

/-- RMS normalisation of a row: the squares are summed exactly but for one rounding after each addition. -/
def rmsNorm (eps : Num) (gains row : List Num) : List Num :=
  let sum := row.foldl (fun a x => a.add32 (x.mul x)) Num.zero
  let r := ((sum.div32 (.fin false row.length 0)).add32 eps).rsqrt32
  List.zipWith (fun x g => (x.mul32 r).mul32 g) row gains

/-! ### The product (R179, R180) -/

/-- The rows of A as the kernel reads them. -/
def TileInput.acts (i : TileInput) : List (List Num) :=
  i.rows.map fun r => match i.job.norm with
    | some (eps, gains) => rmsNorm (fp32Val eps) (vals32 gains) (vals32 r)
    | none => vals32 r

/-- The KIND of a kernel's weights. -/
def TileInput.kind (i : TileInput) : Nat :=
  match i.weights with
  | (b :: _) :: _ => b.1
  | _ => 0

/-- The accumulators of a kernel: the product of each row of A and each column that counts. Nothing here but the inputs and the
descriptor decides a bit of them (R180). -/
def TileInput.sums (i : TileInput) : List (List Num) :=
  i.acts.map fun r =>
    let a := actRow (actKind i.job.pair.val i.kind) r
    (List.range i.job.cols.toNat).map fun n => dot ((i.weights.getD (n / 128) []).map fun b => weightColumn b (n % 128)) a

/-- The vector lane over one row of sums: the column scale of pairs 0 and 1, the bias, the function, the residual (R181). -/
def TileInput.lane (i : TileInput) (sums residual : List Num) : List Num :=
  let x := if i.job.pair.val ≤ 1 then List.zipWith Num.mul32 sums (vals32 i.job.scale) else sums
  let x := if i.job.bias.isEmpty then x else List.zipWith Num.add32 x (vals32 i.job.bias)
  let x := laneFn i.job.fn x
  if residual.isEmpty then x else List.zipWith Num.add32 x residual

/-- A row in its destination format (R183). -/
def TileInput.convert (i : TileInput) (x : List Num) : TileRow :=
  let kind := actKind i.job.pair.val i.kind
  match i.job.dest with
  | .fp32 => ⟨x.map Num.to32, [], []⟩
  | .bf16 => ⟨x.map Num.to32, x.map toBf16, []⟩
  | .activation =>
    if kind = 6 then ⟨x.map Num.to32, x.map toBf16, []⟩
    else
      let bs := (actBlocks x).map (actBlock kind)
      ⟨x.map Num.to32, bs.flatMap fun b => b.elems.map fun e => e.code, bs.map fun b => b.scale⟩

/-- A kernel's output rows. -/
def TileInput.output (i : TileInput) : List TileRow :=
  i.sums.zipIdx.map fun x => i.convert (i.lane x.1 (vals32 (i.residual.getD x.2 [])))

/-- The values that a reader of an output row takes: those of the codes where it was converted. -/
def TileInput.read (i : TileInput) (r : TileRow) : List (BitVec 32) :=
  let kind := actKind i.job.pair.val i.kind
  match i.job.dest with
  | .fp32 => r.vals
  | .bf16 => r.codes.map fun c => (bf16Val c).to32
  | .activation =>
    if r.scales.isEmpty then r.codes.map fun c => (bf16Val c).to32
    else r.codes.zipIdx.map fun c => ((kindVal kind c.1).mul (e8m0 (r.scales.getD (c.2 / 32) 0x7F))).to32

/-- Whether a tile can run a descriptor (R177, R179, R181): its pair takes the weights, the panel has whole columns of blocks for the columns
that count and for K, and the output fits the accumulator's sixteen blocks of 64 rows and 128 columns. -/
def TileInput.runs (i : TileInput) : Bool :=
  let n := i.job.cols.toNat
  let k := (i.rows.headD []).length
  i.weights.all (fun w => w.all fun b => pairTakes i.job.pair.val b.1) && 1 ≤ n && n ≤ 128 * i.weights.length &&
    i.rows.all (fun r => r.length = k) && i.weights.all (fun w => w.length = ceilDiv k 32) &&
    ceilDiv i.rows.length 64 * ceilDiv n 128 ≤ 16 && (1 < i.job.pair.val || i.job.scale.length = n) &&
    (i.job.bias.isEmpty || i.job.bias.length = n) && (i.job.fn != .gated || n % 2 = 0)

/-! ### Prefill attention (R115 to R119, R195, R196) -/

/-- The descriptor FORMAT of stored rows: FP8 by the set's FP8_KIND, MXFP4, BF16. -/
def stateFormat (g : List Cell) (format : Nat) : Nat :=
  match format with
  | 0 => if fp8IsE5m2 g then 1 else 0
  | 1 => 2
  | _ => 3

/-- What the tiles know of one page of a sequence: index, page key. -/
def Seq.viewOf (q : Seq) (h : Nat) (g : List Cell) (i key : Nat) : FrameView :=
  ⟨key, false, min q.tpp (q.r + q.appended - i * q.tpp), h, g, q.kvHeads, geoQHeads g, q.headDim, q.tpp⟩

/-- The pages of a layer in page-list order, with their indexes. -/
def Seq.layerViews (q : Seq) (h : Nat) (g : List Cell) (layer : Nat) : List (Nat × FrameView) :=
  (q.pages.filter fun e => e.1 < ceilDiv (q.r + q.appended) q.tpp).map fun e => (e.1, q.viewOf h g e.1 (pageKey q.part (e.2 + layer)))

/-- The attention of one query row: a partial for each page in page-list order, combined in that order and divided. -/
def State.prefillAttend (s : State) (q : Seq) (h : Nat) (g : List Cell) (layer pq qhead : Nat) (row : List Num) : Partial :=
  let fmt := stateFormat g q.format
  let x := quantInput fmt (rotate g pq row)
  let parts := (q.layerViews h g layer).map fun v =>
    (s.attend v.2 fmt layer q.tpp (v.1 * q.tpp) pq qhead x).partial_ (s.tiers.poison.any fun y => y / 2048 = v.2.key)
  match acrossOf 0 parts with
  | some p => endAttn p
  | none => ⟨0, 0, List.replicate q.headDim 0, false⟩

end Sys2Proof.Machine
end

