-- ==== Sys2Proof/Machine/Entries.lean ====
section
/-! DEFINITION. The entries of a running cycle: their start, their waits for pages, and the completion of their kernels (R102, R106,
R158, R190, R225, R242, R243, R299, R300). -/

set_option Elab.async false

namespace Sys2Proof.Machine

/-! ### Times (R242, R271) -/

/-- A table offset under the stretch factor in force, rounded up to a whole tick. -/
def State.stretched (s : State) (p n : Nat) : Nat := ceilDiv (n * s.fld schPeriod_stretch p) 1024

/-- When an entry of the running cycle starts, and when its budget ends. -/
def State.startTick (s : State) (p : Nat) (e : Entry) : Tick := (s.part p).cycleStart + s.stretched p e.start
def State.budgetEnd (s : State) (p : Nat) (e : Entry) : Tick := s.startTick p e + s.stretched p e.budget

/-- An entry of the active table. -/
def State.entry (s : State) (p i : Nat) : Option Entry :=
  match (s.part p).active with
  | some t => t.entries[i]?
  | none => none

/-! ### Engines (R242, R243) -/

/-- Whether two entries of a partition use one engine: a tile group, the Ladle or the cross-channel reduce unit. -/
def State.meets (s : State) (p : Nat) (a b : Entry) : Bool :=
  (a.engines % 2 = 1 && b.engines % 2 = 1 && (s.entryGroups p a).any (s.entryGroups p b).contains) ||
    (a.engines / 4 % 4) &&& (b.engines / 4 % 4) ≠ 0

/-- The physical tiles that an entry's kernels run on: none without the tile engine. -/
def State.entryTiles (s : State) (p : Nat) (e : Entry) : List Nat :=
  if e.engines % 2 = 1 then s.tilesIn (s.entryGroups p e) else []

/-- The tile domains that an entry's tile groups map to (R408): physical tile t lies in domain t / 8. -/
def State.tileDomains (s : State) (p : Nat) (e : Entry) : List Nat := ((s.tilesIn (s.entryGroups p e)).map fun t => t / 8).dedup

/-- The power domains that an entry needs: tile groups, channels, the control cores and the hub. -/
def State.entryDomains (s : State) (p : Nat) (e : Entry) : List Nat :=
  s.tileDomains p e ++ ((List.range 64).filterMap fun c => if e.channels / 2 ^ c % 2 = 1 then some (25 + c) else none) ++ [97, 100]

/-- The domains of an entry have worked. -/
def State.workedAll (s : State) (p : Nat) (e : Entry) : State := (s.entryDomains p e).foldl State.worked s

/-- The sync points 1 to 63 of a table: the entries that carry SYNC, in table order (R265). -/
def Table.syncPoints (t : Table) : List (Nat × Entry) := (t.entries.filter fun e => e.sync).zipIdx.map fun x => (x.2 + 1, x.1)

/-- Whether every sync point that ends at or before an entry's START has been passed (R267). -/
def State.syncClear (s : State) (p : Nat) (e : Entry) : Bool :=
  s.fld schGroup_members p = 0 || match (s.part p).active with
    | some t => t.syncPoints.all fun x => e.start < x.2.start + x.2.budget || (s.part p).passed.contains x.1
    | none => true

/-- Whether a running entry holds an engine that an entry needs. -/
def State.enginesBusy (s : State) (p i : Nat) (e : Entry) : Bool :=
  (s.part p).runs.any fun r => r.1 ≠ i && match r.2, s.entry p r.1 with
    | .running _, some x => s.meets p e x
    | _, _ => false

/-- Whether a generation entry that is due waits for an engine that an entry of another class needs. -/
def State.yields (s : State) (p i : Nat) (e : Entry) : Bool :=
  !e.decodes && match (s.part p).active with
    | some t => t.entries.zipIdx.any fun x => x.2 ≠ i && x.1.decodes && s.meets p e x.1 && s.startTick p x.1 ≤ s.now &&
        s.entryWorks p x.1 && match mget (s.part p).runs x.2 with
          | some (.running _) => false
          | some (.ended _) => false
          | _ => true
    | none => false

/-- Whether work of a declared length that begins now would run past the START of a generation entry of the cycle on one of its engines, or
past the entry's own budget: a FILL, MIGRATE or IDLE entry begins none such (R189, R243). -/
def State.fitsSlot (s : State) (p i : Nat) (e : Entry) (declared : Nat) : Bool :=
  e.cls < 3 || (s.now + declared ≤ s.budgetEnd p e && match (s.part p).active with
    | some t => t.entries.zipIdx.all fun x => x.2 = i || !x.1.decodes || !s.meets p e x.1 || s.startTick p x.1 < s.now ||
        s.now + declared ≤ s.startTick p x.1
    | none => true)

/-! ### Pages (R299, R300) -/

/-- The sequences of a pass or a chunk. -/
def Pass.handles (x : Option Pass) : List Nat :=
  match x with
  | some y => y.toks.map Prod.fst
  | none => []

/-- The sequences whose pages an entry reads: the batch's, those of the chunk, or those of the pass, which a FILL entry runs whatever their
set. -/
def State.readers (s : State) (p : Nat) (e : Entry) : List Nat :=
  let x := s.part p
  let all := match e.cls with
    | 2 => x.batch
    | 4 => Pass.handles x.pass
    | _ => Pass.handles x.chunk
  all.filter fun h => match s.seq h with
    | some q => (e.cls = 4 || q.model = e.weightSet) && !q.dropped
    | none => false

/-- Whether an entry reads key-value pages: attention, thin or of a prompt. -/
def Entry.attends (e : Entry) : Bool := e.kernel = 255 && (e.cls = 2 || e.cls = 0)

/-- The layer whose pages an entry reads: its own for attention, the one that the pass is at for a FILL entry that runs a pass. -/
def State.readLayer (s : State) (p : Nat) (e : Entry) : Option Nat :=
  if e.attends then some e.layer else if e.cls = 4 then (s.part p).pass.map fun x => x.layer else none

/-- The page keys of a sequence that one layer's attention reads, in page-list order: the blocks of positions 0 to
r + APPENDED − 1 (R101). -/
def Seq.layerPages (q : Seq) (l : Nat) : List Nat :=
  (q.pages.filter fun e => e.1 < ceilDiv (q.r + q.appended) q.tpp).map fun e => pageKey q.part (e.2 + l)

/-- Whether a page can be read by an entry: in tier 1 as home or in a lent frame, and by a prompt's also in tier 0. -/
def State.readable (s : State) (e : Entry) (key : Nat) : Bool :=
  s.tierOf key = 1 || s.pageLent key || ((e.cls = 0 || e.cls = 4) && s.tierOf key = 0)

/-- Whether a channel is held in memory mode, so that its operations queue (R136, R446). -/
def State.heldInMemory (s : State) (c : Nat) : Bool :=
  s.flag genChmode_forceMem c || (match mget s.gen.channels c with
    | some x => x.hold95
    | none => false)

/-- Whether the channel of a page's frame is held in memory mode. -/
def State.channelHeld (s : State) (key : Nat) : Bool :=
  match mget s.tiers.pages key with
  | some x => x.tier = 1 && s.heldInMemory (channelOf x.loc)
  | none => false

/-- Whether a weight kernel waits for operations that a channel held in memory mode queues (R136): one of its entry's channels, where the
layer's processor-layout blocks lie. -/
def State.weightsHeld (s : State) (e : Entry) : Bool :=
  e.cls = 2 && e.kernel ≠ 255 && (List.range 64).any fun c => e.channels / 2 ^ c % 2 = 1 && s.heldInMemory c &&
    match mget s.weights e.weightSet with
    | some w => w.nearAt.any fun x => x.1 / 2 ^ 40 = e.layer && x.2 / 0xC000_0000 = c
    | none => false

/-- Why a page is missing (R300). -/
def State.stallCause (s : State) (key : Nat) : Nat :=
  if s.tiers.lost.contains key then (if s.tierOf key = 2 then 6 else 7)
  else if s.tierOf key = 1 then 4
  else if !mhas s.tiers.moves key && (s.freeFrames = 0 || s.freeSlot0.isNone) && s.freeLent.isNone then
    (if s.ftl.refusedAt.isSome then 5 else 3)
  else if s.tierOf key = 2 then 1 else 2

/-- The pages that an entry reads, in the order it reads them. -/
def State.pagesRead (s : State) (p : Nat) (e : Entry) : List Nat :=
  match s.readLayer p e with
  | some l => (s.readers p e).flatMap fun h => match s.seq h with
    | some q => q.layerPages l
    | none => []
  | none => []

/-- The pages that an entry waits for, in the order it reads them. -/
def State.missing (s : State) (p : Nat) (e : Entry) : List Nat :=
  (s.pagesRead p e).filter fun k => !s.readable e k || (e.cls = 2 && s.channelHeld k)

/-- Whether the walk of a sequence finds an unassigned entry below ceil(r / T) (R102). -/
def Seq.walkBroken (q : Seq) : Bool := (List.range (ceilDiv q.r q.tpp)).any fun i => !mhas q.pages i

/-- An unassigned entry found by the walk, which ends there: the sequence has lost its state, and one is counted (R102; DESIGN CHOICE,
log 139). -/
def State.metaFault (s : State) (p h : Nat) : State :=
  let s := (s.bump ldlMetaFault_count 0 1).raise { errorOfPart 1 5 1 0 p with handle := some (BitVec.ofNat 18 h) }
  (s.modSeq h fun q => { q with dropped := true }).toRebuild h

/-- Whether an entry walks page lists: attention, and a prefill pass with its attention (R101, R188). -/
def Entry.walks (e : Entry) : Bool := e.attends || e.cls = 4

/-- The walk of one sequence's page list for attention: the leaf chunks of its blocks below position r + APPENDED. -/
def State.walkSeq (s : State) (p h : Nat) : State :=
  match s.seq h with
  | some q =>
    let s := s.useLeaves (q.leafChunks 0 (ceilDiv (q.r + q.appended) q.tpp))
    if q.walkBroken then s.metaFault p h else s
  | none => s

/-- The walk of an entry. `evicted` names the leaf chunks that have left tier 0 since the last one (DESIGN CHOICE, log 141). -/
def State.walk (s : State) (p : Nat) (e : Entry) (evicted : List Nat) : State :=
  if !e.walks then s
  else
    let s := { s with tiers := { s.tiers with leafCache := s.tiers.leafCache.filter fun c => !evicted.contains c } }
    (s.readers p e).foldl (fun s h => s.walkSeq p h) s

/-- Whether the rows of an attention entry's layer are written for each sequence that it reads (R113). -/
def State.appendsDone (s : State) (p : Nat) (e : Entry) : Bool :=
  !e.attends || (s.readers p e).all fun h => match s.seq h with
    | some q => s.rowsWritten h e.layer q
    | none => true

/-! ### Start -/

/-- Sets where an entry stands. -/
def State.setRun (s : State) (p i : Nat) (r : EntryRun) : State := s.modPart p fun x => { x with runs := mset x.runs i r }

/-- Charges a wait that ends to its cause, in units of 65,536 ticks (R300). -/
def State.chargeWait (s : State) (cause since : Nat) : State :=
  if cause = 0 then s
  else
    let n := mgetD s.tiers.waitRem cause 0 + (s.now - since)
    ({ s with tiers := { s.tiers with waitRem := mset s.tiers.waitRem cause (n % 65536) } }).bump tirStall_wait cause (n / 65536)

/-- The half of a tile whose panel is of a layer of a set: the lower one where both are. -/
def Prm.halfOf (x : Prm) (t set layer : Nat) : Option Nat :=
  [0, 1].find? fun h => (mgetD x.panels (2 * t + h) []).any fun b => b.1 = set && b.2.1 = layer

/-- The kernels of an entry read the halves that hold the entry's panels (R184). -/
def State.takeHalves (s : State) (p : Nat) (e : Entry) : State :=
  (s.entryTiles p e).foldl (fun s t => match s.prm.halfOf t e.weightSet e.layer with
    | some h => { s with prm := { s.prm with inUse := mset s.prm.inUse t h } }
    | none => s) s

/-- The entry's work reaches its domains: those in D2 and D3 begin their wakes, with source SCHEDULE (R410, R413). -/
def State.reachDomains (s : State) (p : Nat) (e : Entry) : State := (s.entryDomains p e).foldl (fun s d => s.arrivesAt d 1) s

/-- Whether a domain that an entry needs sleeps. -/
def State.asleep (s : State) (p : Nat) (e : Entry) : Bool := (s.entryDomains p e).any s.rindHolds

/-- The entry starts, and reads its pages. -/
def State.startEntry (s : State) (p i : Nat) (e : Entry) : State :=
  let s := s.reachDomains p e
  let s := match mget (s.part p).runs i with
    | some (.waiting since cause) => s.chargeWait cause since
    | _ => s
  (((((s.takeHalves p e).touchPages (s.pagesRead p e)).setRun p i (.running s.now)).modPart p fun x =>
    { x with pastSlack := false }).notePoints)

/-- The entry waits: its wait is counted when it begins. -/
def State.waitEntry (s : State) (p i cause : Nat) : State :=
  match mget (s.part p).runs i with
  | some (.waiting _ _) => s
  | _ => (s.bump tirStall_count cause 1).setRun p i (.waiting s.now cause)

/-- The entry waits for a page: every missing page is brought up. -/
def State.stallEntry (s : State) (p i key : Nat) (keys : List Nat) : State :=
  let s := s.waitEntry p i (s.stallCause key)
  keys.foldl (fun s k => if s.keepsLowFree 1 then s.fetchPage k else s.streamPage k) s

/-- Whether an entry may start now: it is due, its engines are free, what it reads is written (R113), and it has work or carries work of
another kind. -/
def State.entryDue (s : State) (p i : Nat) (e : Entry) (declared : Nat) : Bool :=
  s.live && s.fld pwrDevStat_state 0 = 0 && !s.flag schPart_resetting p && !(s.part p).halted && s.startTick p e ≤ s.now &&
    !s.enginesBusy p i e && !s.yields p i e && s.syncClear p e && s.appendsDone p e && s.fitsSlot p i e declared &&
    (3 ≤ e.cls || s.entryWorks p e) &&
    match mget (s.part p).runs i with
    | some (.running _) => false
    | some (.ended _) => 3 ≤ e.cls && s.now < s.budgetEnd p e
    | _ => true

/-- ARMATURE_ENTRY_START (R242, R300, R410): an entry whose domain sleeps starts once the domain is in D0. `declared` is the length that firmware reckons for the kernel or transfer that would begin (R189,
R243; DESIGN CHOICE, log 151). -/
def execArmatureEntryStart (p : Fin 16) (start : EntryStart) (s : State) : Out :=
  .next (match s.entry p.val start.entry with
    | some e =>
      if !s.entryDue p.val start.entry e start.declared then s
      else if s.asleep p.val e then s.reachDomains p.val e
      else
        let s := s.walk p.val e (start.evicted.map BitVec.toNat)
        match s.missing p.val e with
        | [] => if s.weightsHeld e then s.waitEntry p.val start.entry 4 else s.startEntry p.val start.entry e
        | key :: keys => s.stallEntry p.val start.entry key (key :: keys)
    | none => s)

/-! ### Completion -/

/-- Whether logits belong to work that this entry ends: the step's last logits, or those of a prompt's last tokens. -/
def State.takeLogits (s : State) (r : LogitRow) : State :=
  s.modSeq r.handle.toNat fun q =>
    if q.state = .stepping then { q with selected := some (q.selects q.length r) }
    else if q.state = .prefilling then { q with selected := some (q.selects (q.length + q.prompt.length) r) }
    else q

/-- The sequences that a poisoned result reaches: the batch's for a generation kernel, else those of the chunk or the pass. -/
def State.poisonWork (s : State) (p : Nat) (e : Entry) : State :=
  let x := s.part p
  let mark (s : State) (l : List Nat) : State := l.foldl (fun s h => s.modSeq h fun q => { q with poisoned := true }) s
  let toks (y : Option Pass) : List Nat := match y with
    | some z => z.toks.map Prod.fst
    | none => []
  match e.cls with
  | 1 => mark (s.modPart p fun x => { x with poisonedAll := true }) x.batch
  | 2 => mark (s.modPart p fun x => { x with poisonedAll := true }) x.batch
  | 0 => mark s (toks x.chunk)
  | _ => mark s (toks x.pass)

/-- The batch of a partition sits the cycle out. -/
def State.poisonBatch (s : State) (p : Nat) : State :=
  (s.part p).batch.foldl (fun s h => s.modSeq h fun q => { q with poisoned := true }) (s.modPart p fun x => { x with poisonedAll := true })

/-- Whether an owner of reductions is a weight product of a partition. -/
def weightsOf (p o : Nat) : Bool := 2 ^ 19 ≤ o && (o - 2 ^ 19) / 4 % 16 = p

/-- The reductions whose results an entry hands on: of its readers' attention, over pages and over draft rings, or of the partition's weight
products of the layer. -/
def State.entryOwners (s : State) (p : Nat) (e : Entry) : List Nat :=
  if e.attends then (s.readers p e).flatMap fun h => [h, draftOwner h]
  else if e.cls = 2 then s.gen.owners e.layer (weightsOf p) else []

/-- A poisoned result of a reduction reaches its consumer (R150): the sequence of an attention, the batch of a weight product. -/
def State.consumePoison (s : State) (p layer : Nat) (owners : List Nat) : State :=
  owners.foldl (fun s o =>
    if (mgetD s.gen.outputs (o * 256 + layer) []).any fun x => x.2.poisoned then
      if o < 2 ^ 18 then s.modSeq o fun q => { q with poisoned := true } else if 2 ^ 19 ≤ o then s.poisonBatch p else s
    else s) s

/-- The reductions of an entry's layer end with it (R147, R149, R150). -/
def State.endLayer (s : State) (p : Nat) (e : Entry) : State :=
  if e.cls = 2 then
    let owners := s.entryOwners p e
    (s.endReductions e.layer owners).consumePoison p e.layer owners
  else s

/-- An entry ends: the pages that attention has finished reading are released from lent frames (R299). -/
def State.releaseRead (s : State) (p : Nat) (e : Entry) : State :=
  match s.pagesRead p e with
  | [] => s
  | keys => s.endStreams keys

/-- A tile kernel ends: none of the tiles that it ran on has a rerun behind it, and their halves are free again (R184, R187). -/
def State.endReruns (s : State) (p : Nat) (e : Entry) : State :=
  let tiles := s.entryTiles p e
  if tiles.isEmpty then s
  else { s with prm := { s.prm with
      rerun := s.prm.rerun.filter fun t => !tiles.contains t
      inUse := mfilter s.prm.inUse fun t _ => !tiles.contains t } }

/-! ### The works of an entry (R177 to R183, R196) -/

/-- The values of a source: the outputs of the entry's earlier works stand in `outs`. -/
def State.vec (s : State) (p layer : Nat) (outs : List (List (List (BitVec 32)))) (v : Vec) : List (BitVec 32) :=
  match v with
  | .given xs => xs
  | .tile j r a n => (((outs.getD j []).getD r []).drop a).take n
  | .made j r a n => ((((mgetD s.prm.made p []).getD j []).getD r ⟨[], [], []⟩).vals.drop a).take n
  | .near tag col q a n => ((s.gen.output (weightOwner p (if col then 2 else 1) tag.toNat) layer q).drop a).take n
  | .nearAttn h q => s.gen.output h.toNat layer q

/-- The raw weight blocks of a panel, column block by column block: `k` blocks along K in each. A block of the panel that is no longer
loaded leaves the panel without columns. -/
def State.panelBlocks (s : State) (k : Nat) (blocks : List (Nat × Nat × Nat × Nat)) : List (List (Nat × List (BitVec 8))) :=
  let raws := blocks.filterMap fun b => match mget s.weights b.1 with
    | some w => (mget w.blocks (blockPlace b.2.1 b.2.2.1 b.2.2.2)).map fun x =>
        (x.kind, x.raw (mgetD w.tables (b.2.1 * 256 + b.2.2.1) []))
    | none => none
  (List.range (raws.length / k)).map fun c => (raws.drop (c * k)).take k

/-- A tile job with its operands: the panel of its half, of the entry's set and layer. -/
def State.resolveJob (s : State) (p : Nat) (e : Entry) (outs : List (List (List (BitVec 32)))) (j : TileJob) : TileInput :=
  let rows := j.rows.map (s.vec p e.layer outs)
  let panel := (mgetD s.prm.panels (2 * j.tile.toNat + if j.half then 1 else 0) []).filter fun b => b.1 = e.weightSet && b.2.1 = e.layer
  ⟨{ j with rows := [], residual := [] }, rows, s.panelBlocks (max 1 (ceilDiv (rows.headD []).length 32)) panel, j.residual.map (s.vec p e.layer outs)⟩

/-- A descriptor that the tile cannot run: a firmware fault, whose error names tile and descriptor. -/
def State.kernelFault (s : State) (p tile i : Nat) : State :=
  s.raise { errorOfPart 2 3 4 tile p with info0 := BitVec.ofNat 64 i }

/-- One part of a product: its accumulators, and its output rows. -/
def State.runProduct (s : State) (p i : Nat) (e : Entry) (outs : List (List (List (BitVec 32)))) (j : TileJob) : State × List TileRow :=
  if !(s.entryTiles p e).contains j.tile.toNat || s.prm.quarantined.contains j.tile.toNat then (s, [])
  else
    let x := s.resolveJob p e outs j
    if !x.runs then (s.kernelFault p j.tile.toNat i, [])
    else
      let sums := x.sums
      ({ s with prm := { s.prm with acc := mset s.prm.acc j.tile.toNat (sums.map fun r => r.map Num.to32) } }, x.output)

/-- A page that the tiles read poisoned: a Deferred error, and the sequence's state is lost as under R158 (DEDUCED, log 152). -/
def State.losePoisoned (s : State) (p h key : Nat) : State :=
  ((s.raise { errorOfPart 1 1 3 key p with handle := some (BitVec.ofNat 18 h) }).loseKey key).toRebuild h

/-- A query row of prefill attention. -/
def State.attendRow (s : State) (p : Nat) (e : Entry) (outs : List (List (List (BitVec 32)))) (a : AttnJob) : State × TileRow :=
  let h := a.handle.toNat
  match s.seq h, (s.seq h).bind fun q => mget s.weights q.model with
  | some q, some w =>
    let r := s.prefillAttend q h w.geometry e.layer a.position.toNat a.head.toNat (vals32 (s.vec p e.layer outs a.row))
    let bad := if r.poisoned && q.state ≠ .rebuild then (q.layerPages e.layer).filter fun k => s.tiers.poison.any fun y => y / 2048 = k else []
    (bad.foldl (fun s k => s.losePoisoned p h k) s, ⟨r.v, [], []⟩)
  | _, _ => (s, ⟨[], [], []⟩)

/-- One work of an entry, behind the earlier ones. -/
def State.runWork (p : Nat) (e : Entry) (a : State × List (List TileRow)) (x : TileWork × Nat) : State × List (List TileRow) :=
  let outs := a.2.map fun o => o.map fun r => r.vals
  match x.1 with
  | .product j =>
    let r := a.1.runProduct p x.2 e outs j
    (r.1, a.2 ++ [r.2])
  | .attention rows =>
    let r := rows.foldl (fun (b : State × List TileRow) y =>
      let z := b.1.attendRow p e outs y
      (z.1, b.2 ++ [z.2])) (a.1, [])
    (r.1, a.2 ++ [r.2])

/-- The works of an entry that completes on the tiles, in order: their outputs are what the partition's next entry may read. -/
def State.runWorks (s : State) (p : Nat) (e : Entry) (works : List TileWork) : State × List (List (List (BitVec 32))) :=
  if works.isEmpty then (s, [])
  else
    let r := works.zipIdx.foldl (State.runWork p e) (s, [])
    ({ r.1 with prm := { r.1.prm with made := mset r.1.prm.made p r.2 } }, r.2.map fun o => o.map fun x => x.vals)

/-- The layers that a pass runs: those of the set of its sequences with the most. -/
def State.passLayers (s : State) (x : Pass) : Nat :=
  (x.toks.map fun t => match s.seq t.1 with
    | some q => q.layers
    | none => 0).foldl max 0

/-- A layer of the running pass completes; with the last one the pass is done (R189, R190). -/
def State.endPassLayer (s : State) (p : Nat) : State :=
  s.modPart p fun x => { x with pass := x.pass.map fun y => { y with layer := y.layer + 1, done := s.passLayers y ≤ y.layer + 1 } }

/-- Whether a row belongs to what an entry completes: a FILL entry's rows are of the layer that the pass is at (R189, R190). -/
def State.rowFits (s : State) (p : Nat) (e : Entry) (r : AppendRow) : Bool :=
  e.cls ≠ 4 || (s.part p).pass.any fun x => x.layer = r.layer.toNat

/-- The work of a kernel: what ran on the tiles, its appends, its selections, its poison, and whether it ends a layer of the pass. -/
def State.kernelWork (s : State) (p : Nat) (e : Entry) (w : KernelWork) : State :=
  let r := s.runWorks p e w.jobs
  let s := r.1
  let vec := s.vec p e.layer r.2
  let s := ((w.rows.map fun x => (⟨x.handle, x.layer, x.position, vec x.keys, vec x.values⟩ : AppendRow)).filter (s.rowFits p e)).foldl State.append s
  let s := (w.logits.map fun x => (⟨x.handle, x.main.map vec, x.draft.map vec, x.drafted⟩ : LogitRow)).foldl State.takeLogits s
  let s := if w.poisoned then s.poisonWork p e else s
  if w.passLayer && e.cls = 4 then s.endPassLayer p else s

/-- KERNEL_COMPLETE (R242): an entry that ends after its budget is counted. -/
def execKernelComplete (p : Fin 16) (entry : Nat) (work : KernelWork) (s : State) : Out :=
  .next <| s.whenLive fun s =>
    match s.entry p.val entry, mget (s.part p.val).runs entry with
    | some e, some (.running _) =>
      let s := ((s.endLayer p.val e).releaseRead p.val e).kernelWork p.val e work
      let s := if s.budgetEnd p.val e < s.now then s.bump schLate_entries p.val 1 else s
      (((s.endReruns p.val e).workedAll p.val e).setRun p.val entry (.ended s.now)).notePoints
    | _, _ => s

end Sys2Proof.Machine
end

