-- ==== Sys2Proof/Machine/Quarantine.lean ====
section
/-! DEFINITION. The quarantine of tiles and near-bank units: the record, the copies in boot flash, and what replaces a tile (R159, R160,
R198 to R201, R209, R510). -/

set_option Elab.async false

namespace Sys2Proof.Machine

/-- Writes the quarantine state to the copy of boot flash that was not written last (R510). -/
def State.saveQuarantine (s : State) : State :=
  if s.sec.bootFlash.isSome then
    ((s.bumpWrap plnQstate_generation 0 1).setFld plnQstate_copy 0 (1 - s.fld plnQstate_copy 0)).setFlag plnQstate_flashValid 0 true
  else (s.bump plnQstate_writeFails 0 1).raise (errorOf 0 0x0F 6 (1 - s.fld plnQstate_copy 0))

/-- The record that is replaced next: the first empty one, else the oldest (R209). -/
def State.recordSlot (s : State) : Nat :=
  ((List.range 64).foldl (fun (a : Nat × Nat) j => if s.fld prmQrecTick_tick j < a.2 then (j, s.fld prmQrecTick_tick j) else a)
    (0, s.fld prmQrecTick_tick 0)).1

/-- What a quarantine record holds (R209): KIND, CAUSE, TEMP, PATTERN, the partition, the kernel and the location. -/
structure Quarantine where
  kind : Nat
  cause : Nat
  temp : Nat
  pattern : Nat
  part : Option Nat
  kernel : Nat
  location : Nat
deriving DecidableEq, Repr

/-- Appends a record to the quarantine list and saves the state. -/
def State.record (s : State) (q : Quarantine) : State :=
  let j := s.recordSlot
  let s := if s.fld prmQrecTick_tick j = 0 then s else s.bump prmStatus_qrecLost 0 1
  let s := (s.setFld prmQrecTick_tick j s.now).setReg .prmQrecInfo j 0
  let s := (s.setFld prmQrecInfo_kind j q.kind).setFld prmQrecInfo_cause j q.cause
  let s := (s.setFld prmQrecInfo_temp j q.temp).setFld prmQrecInfo_pattern j (if q.cause = 1 then q.pattern else 0xFF)
  let s := match q.part with
    | some p => (s.setFlag prmQrecInfo_partValid j true).setFld prmQrecInfo_partition j p
    | none => s
  ((s.setFld prmQrecInfo_kernel j q.kernel).setFld prmQrecInfo_location j q.location).saveQuarantine

/-- The partition that a physical tile works for, if one does. -/
def State.tileOwner (s : State) (t : Nat) : Option Nat :=
  match s.logicalOf t with
  | some l => if s.fld prmGroup_state (l / 8) = 1 then some (s.fld prmGroup_owner (l / 8)) else none
  | none => none

/-- The tile behind one in rotation: the next that is not quarantined (R206). -/
def State.nextTile (s : State) (t : Nat) : Nat :=
  ((List.range 200).map fun i => (t + 1 + i) % 200).find? (fun x => !s.prm.quarantined.contains x) |>.getD 0

/-- Quarantines a physical tile for good and finds what replaces it (R198, R199). -/
def State.quarantineTile (s : State) (t cause temp pattern : Nat) (part : Option Nat) (kernel : Nat) : State :=
  if s.prm.quarantined.contains t then s
  else
    let s := { s with prm := { s.prm with
        quarantined := s.prm.quarantined ++ [t]
        mustTest := s.prm.mustTest.filter (· ≠ t) } }
    let s := if s.fld prmSelftest_nextTile 0 = t then s.setFld prmSelftest_nextTile 0 (s.nextTile t) else s
    let s := (s.record ⟨0, cause, temp, pattern, part, kernel, t⟩).emptyTiles (· = t)
    -- a replacement that had been chosen and waits is chosen afresh
    let again := s.prm.replace.filter fun r => r.2 = t
    let s := { s with prm := { s.prm with replace := s.prm.replace.filter fun r => r.2 ≠ t } }
    let s := again.foldl (fun s r => s.replaceLogical r.1) s
    (s.replaceQuarantined t).noteSpares

/-- Keeps the temperature of the last pass of a pattern. -/
def State.keepTemp (s : State) (pattern temp : Nat) : State :=
  if pattern < 8 then
    let w := s.fld prmSelftestTemp_temps 0
    s.setFld prmSelftestTemp_temps 0 (w - w / 2 ^ (8 * pattern) % 256 * 2 ^ (8 * pattern) + temp * 2 ^ (8 * pattern))
  else
    let i := pattern - 8
    let w := s.fld prmSelftestTemp2_temps 0
    s.setFld prmSelftestTemp2_temps 0 (w - w / 2 ^ (8 * i) % 256 * 2 ^ (8 * i) + temp * 2 ^ (8 * i))

/-- Quarantines a near-bank unit (R159, R160). -/
def State.quarantineUnit (s : State) (c u cause temp pattern : Nat) (part : Option Nat) (kernel : Nat) : State :=
  let s := { s with gen := { s.gen with testUnits := s.gen.testUnits.filter (· ≠ (c, u)) } }
  if s.unitQuarantined c u then s
  else
    let s := (s.setFld genChUnits_quarantine c (s.fld genChUnits_quarantine c ||| 2 ^ u)).noteMemOnly c
    s.record ⟨1, cause, temp, pattern, part, kernel, c * 32 + u⟩

end Sys2Proof.Machine
end

