-- ==== Sys2Proof/Machine/NearBank.lean ====
section
/-! DEFINITION. The near-bank channels: modes, held accesses, windows and refresh, descriptors and what they do, the watchdog, and the
draft configuration (R121 to R140, R155 to R162, R169); and host accesses of BAR4 to the bonded DRAM (R124 to R127, R526 to R528). -/

set_option Elab.async false

namespace Sys2Proof.Machine

/-! ### Switches -/

/-- The length of a switch: 200 ns (R129). -/
def switchTicks : Nat := 800

/-- Starts a switch. `owes` says that an operation is owed before the next window (R133). -/
def State.startSwitch (s : State) (c mode : Nat) (owes : Bool) : State :=
  (s.setFld genChmode_mode c mode).modChan c fun x => { x with switchAt := s.now, owesOp := owes }

/-- The refresh interval of a channel: 3.9 µs, or 1.95 µs (R131). -/
def Channel.refreshEvery (x : Channel) : Nat := if x.doubled then 7800 else 15600

/-- The 90 ns of a refresh. -/
def refreshTicks : Nat := 360

/-! ### Accesses -/

/-- The first sector of some places that the controller reads poisoned, or that its decoder cannot correct, with whether it is the latter
(R213). -/
def State.badSector (s : State) (places : List Nat) (ups : List Upset) : Option (Nat × Bool) :=
  match ups.find? fun u => places.any (fun d => d / 32 = u.sector.toNat) && s.readUpset u = .uncorrectable with
  | some u => some (u.sector.toNat * 32, true)
  | none => (places.find? fun d => d < dramBytes && s.sectorPoisoned d).map fun d => (d, false)

/-- The controller's corrections of the sectors that it reads: each is counted, and the sector stands as the decoder has it. -/
def State.correctReads (s : State) (places : List Nat) (ups : List Upset) : State :=
  (ups.filter fun u => places.any fun d => d / 32 = u.sector.toNat).foldl (fun s u => match s.readUpset u with
    | .corrected d _ => (s.standsAs u.sector.toNat d).raise (errorOf 0 1 1 (u.sector.toNat * 32))
    | .clean d => s.standsAs u.sector.toNat d
    | _ => s) s

/-- The error of a sector that was read poisoned or uncorrectable. -/
def sectorError (b : Nat × Bool) : ErrorReport := errorOf 1 1 (if b.2 then 2 else 3) b.1

/-- A logic-side access of one byte is served: its reader gets the byte. -/
def State.serveLogic (s : State) (c : Nat) (a : LogicAccess) : State :=
  let d := deAddr c a.bank.val a.offset.toNat
  let there := a.offset.toNat < 0x300_0000
  if a.isWrite then (if there then s.writePlaces [d] [a.data] else s)
  else
    let s := match if there then s.badSector [d] [] else none with
      | some b => s.raise (sectorError b)
      | none => s
    s.emit (.logic c a.bank.val a.offset.toNat (if there then s.dramByte d else 0))

/-- A host access is served: a read that meets a poisoned or an uncorrectable sector raises a Deferred error and completes with EP
(R213). -/
def State.serveHost (s : State) (off : Nat) (places : List Nat) (op : MemOp) (ups : List Upset) : State :=
  match op with
  | .write data => s.writePlaces places data
  | .read _ =>
    let bad := s.badSector places ups
    let s := s.correctReads places ups
    let bytes := places.map fun d => if d < dramBytes then s.dramByte d else 0
    match bad with
    | some b => (s.raise (sectorError b)).emit (.completion 0 off bytes true false)
    | none => s.emit (.completion 0 off bytes false false)

/-- A held access that the channel now serves; one that meets another busy channel, or an older access held there, is held there, whole. -/
def State.serve (s : State) (c : Nat) (a : HeldAccess × Tick) : State :=
  let s := if a.1.counts then s.addWait c (s.now - a.2) else s
  match a.1 with
  | .fabric k _ => ((s.channelServes k).settleRegions).noteEpoch
  | .chmode fn l v => s.writeFields fn l .genChmode c v
  | .logic l =>
    match s.holdPoint (a.1.places c) with
    | some k => s.hold k a.1
    | none => s.serveLogic c l
  | .host off places op ups =>
    match s.holdPoint places with
    | some k => s.hold k a.1
    | none => s.serveHost off places op ups

/-- Corrected sectors are written back in a memory-mode window (R157). -/
def State.scrubBack (s : State) (c : Nat) : State :=
  (s.bump genChEcc_scrubbed c (s.chan c).scrub.length).modChan c fun x => { x with scrub := [] }

/-- A memory-mode window opens: the held accesses are served in order of arrival (R133, R134). -/
def State.openWindow (s : State) (c : Nat) : State :=
  let held := (s.chan c).held
  let s := (s.setFld genChmode_mode c 0).modChan c fun x => { x with windowStart := s.now, held := [] }
  (held.foldl (fun s a => s.serve c a) s).scrubBack c

/-! ### Descriptors (R137 to R139) -/

/-- `n` bytes of a descriptor at byte `b`. -/
def descNum (d : BitVec 256) (b n : Nat) : Nat := d.toNat / 2 ^ (8 * b) % 2 ^ (8 * n)

def descOp (d : BitVec 256) : Nat := descNum d 0 1
def descFormat (d : BitVec 256) : Nat := descNum d 1 1
def descBatch (d : BitVec 256) : Nat := descNum d 2 1
def descFirst (d : BitVec 256) : Nat := descNum d 3 1
def descHeads (d : BitVec 256) : Nat := descNum d 4 1
def descLayer (d : BitVec 256) : Nat := descNum d 5 1
def descSlots (d : BitVec 256) : Nat := descNum d 6 2
def descMask (d : BitVec 256) : Nat := descNum d 8 4
def descOffset (d : BitVec 256) : Nat := descNum d 12 4
def descLength (d : BitVec 256) : Nat := descNum d 16 4
def descQpos (d : BitVec 256) : Nat := descNum d 20 4
def descVbuf (d : BitVec 256) : Nat := descNum d 24 4
def descTicks (d : BitVec 256) : Nat := descNum d 28 4

/-- The bytes of a bank pair. -/
def pairBytes : Nat := 0x600_0000

/-- Whether the sequencer takes a descriptor. -/
def descOk (d : BitVec 256) : Bool :=
  let op := descOp d
  let units := (maskUnits (descMask d)).length
  1 ≤ op && op ≤ 6 && descFormat d ≤ 3 && 1 ≤ descTicks d && descTicks d ≤ 8000 && descOffset d % 64 = 0 && descVbuf d < 32768 &&
    (op = 3 || descQpos d = 0) &&
    match op with
    | 3 => 1 ≤ descBatch d && descBatch d ≤ 16 && descFirst d ≤ 63 && 1 ≤ descHeads d && descFirst d + descHeads d ≤ 64 &&
        1 ≤ descSlots d && descSlots d ≤ 1024 && units = 1 && descLength d < 2 ^ 23 && descQpos d < 2 ^ 23 && descOffset d < pairBytes / 2
    | 4 => units = 1 && descVbuf d + descLength d ≤ 32768 && descOffset d + descLength d ≤ pairBytes
    | 5 => descVbuf d + descLength d ≤ 32768
    | 6 => descLength d ≤ 9
    | _ => 1 ≤ descBatch d && descBatch d ≤ 32 && descOffset d + descLength d ≤ pairBytes

/-! ### The sequencer (R129, R131 to R133, R136, R241) -/

/-- The descriptor that is issued next: the descriptors of different partitions are issued alternately (R241). -/
def Channel.next (x : Channel) : Option (Nat × BitVec 256) := (x.queue.find? fun o => some o.1 ≠ x.lastPart).or x.queue.head?

/-- The running operation starts: its start lies behind an inserted refresh, and behind as long a rest as the last operation took
where the channel is held to 50 % duty (R131, R446). -/
def State.startOp (s : State) (c delay : Nat) (o : Nat × BitVec 256) : State :=
  s.modChan c fun x =>
    { x with
      queue := x.queue.erase o, lastPart := some o.1, owesOp := false
      running := some (o.1, o.2, s.now + delay + if x.halfDuty then x.lastTook else 0) }

/-- A channel in processor mode without a running operation: an owed refresh, then the next operation, or the switch back. An access that
is held sends the channel back, but for an operation that is owed; a channel that goes back with none run owes one before its next
window (R132, R133; DEDUCED, log 149). -/
def State.nextOp (s : State) (c : Nat) : State :=
  let x := s.chan c
  let delay := if x.refreshOwed then refreshTicks else 0
  let s := if x.refreshOwed then s.modChan c fun x => { x with refreshOwed := false, refreshAt := s.now } else s
  if s.keptMemory c then s.startSwitch c 3 x.owesOp
  else if !x.held.isEmpty && !x.owesOp then s.startSwitch c 3 (x.lastTook = 0 && !x.queue.isEmpty)
  else
    match x.next with
    | none => s.startSwitch c 3 false
    | some o => s.startOp c delay o

/-- Whether a channel in memory mode may switch: an operation is ready, and its window is over: from the minimum on with nothing held, at
the maximum in any case. -/
def State.mayProcess (s : State) (c : Nat) : Bool :=
  let x := s.chan c
  s.chMode c = 0 && !x.queue.isEmpty && !s.keptMemory c &&
    (s.windowOver c || x.held.isEmpty && (x.windowStart = 0 || x.windowStart + s.fld genMmwin_min 0 ≤ s.now))

/-- The sequencer chooses from the work that waits for it. -/
def State.choose (s : State) (c : Nat) : State :=
  if s.mayProcess c then s.startSwitch c 2 ((s.chan c).owesOp || !(s.chan c).held.isEmpty)
  else if s.chMode c = 1 && (s.chan c).running.isNone then s.nextOp c
  else s

/-- The sequencer of a channel runs: work that waits for it wakes one that sleeps, and starts nothing there before (R410). -/
def State.sequence (s : State) (c : Nat) : State :=
  let x := s.chan c
  let s := if x.queue.isEmpty && x.held.isEmpty then s else s.arrivesAt (chanDomain c) 2
  if s.rindHolds (chanDomain c) then s else s.choose c

/-- The sequencers of the channels that hold an access. -/
def State.sequenceHeld (s : State) : State :=
  (s.gen.channels.filter fun x => !x.2.held.isEmpty).foldl (fun s x => s.sequence x.1) s

/-- A channel's domain runs again: it serves what the rind has held, or goes on where it stood. -/
def State.channelWoke (s : State) (c : Nat) : State :=
  if s.chMode c = 0 && !(s.chan c).held.isEmpty then (s.openWindow c).sequence c else s.sequence c

/-- A malformed descriptor: a Partition-fatal error names channel and descriptor (R139). -/
def State.refuseDesc (s : State) (c p : Nat) (d : BitVec 256) : State :=
  s.raise { errorOfPart 2 2 4 c p with info0 := d.truncate 64, info1 := (d >>> 64).truncate 64 }

/-! ### What operations do (R138, R141 to R150, R155 to R158) -/

/-- The page that lies in a frame, at home or lent. -/
def State.pageIn (s : State) (k : Nat) : Option Nat :=
  match s.homePage k with
  | some key => some key
  | none => s.tiers.frames.findSome? fun f => match f.2 with
    | .lent key => if Config.lendFrame s.tiers.layoutGen (f.1 - 3145728) = k then some key else none
    | _ => none

/-- The slots of a page that hold rows of its sequence: those of positions below r + APPENDED (R91, R101). -/
def Seq.liveSlots (q : Seq) (group : Nat) : Nat :=
  match q.pages.find? fun e => e.2 = group with
  | some e => min q.tpp (q.r + q.appended - e.1 * q.tpp)
  | none => 0

/-- What a unit knows of the page of its frame: a page of the state range, or of a draft ring (R162). -/
def State.frameView (s : State) (k : Nat) : Option FrameView :=
  match s.pageIn k with
  | some key =>
    match s.groupOf key with
    | none => none
    | some (base, g) =>
      match s.seq g.handle with
      | none => none
      | some q => (mget s.weights q.model).map fun w =>
        ⟨key, false, q.liveSlots (base % 2 ^ 32), g.handle, w.geometry, q.kvHeads, geoQHeads w.geometry, q.headDim, q.tpp⟩
  | none =>
    match s.ringAt k, s.draftSet with
    | some (h, i), some w => (s.seq h).map fun q =>
      ⟨k, true, min w.ringTpp (min q.length (ringWindow s.gen.draftWindow) - i / geoLayers w.geometry * w.ringTpp), h, w.geometry,
        geoKvHeads w.geometry, geoQHeads w.geometry, geoHeadDim w.geometry, w.ringTpp⟩
    | _, _ => none

/-- The frame of an ATTN descriptor: OFFSET names the in-bank offset at which the frame begins, rounded down to a frame (DESIGN CHOICE,
log 148). -/
def descFrame (c : Nat) (d : BitVec 256) : Nat := (c * 32 + (maskUnits (descMask d)).headD 0) * 1536 + descOffset d / 32768

/-- Whether the rest of R137 and R139 holds of a descriptor: SLOTS is at most T of the page presented, and the inputs and results of a
product or an attention, which take `need` bytes, fit the vector buffer (DESIGN CHOICE, log 147). -/
def State.descFits (s : State) (c : Nat) (d : BitVec 256) (need : Nat) : Bool :=
  match descOp d with
  | 3 => descVbuf d + need ≤ 32768 && (s.frameView (descFrame c d)).all fun f => descSlots d ≤ f.tpp
  | 1 => descVbuf d + need ≤ 32768
  | 2 => descVbuf d + need ≤ 32768
  | _ => true

/-- NEAR_BANK_DESCRIPTOR_ISSUE (R137): the descriptor is refused, or queued, and issued as soon as the channel is ready. -/
def execNearBankDescriptorIssue (ch : Fin 64) (p : Fin 16) (d : NbIssue) (s : State) : Out :=
  .next <| s.whenLive fun s =>
    if s.flag schPart_resetting p.val then s
    else if !descOk d.desc || !s.descFits ch.val d.desc d.need then s.refuseDesc ch.val p.val d.desc
    else
      let s := s.markIssuer ch.val p.val (descMask d.desc)
      (s.modChan ch.val fun x => { x with queue := x.queue ++ [(p.val, d.desc)] }).sequence ch.val

/-- The query rows of an ATTN operation by their place in the vector buffer: row, query position, query head. -/
def attnRows (d : BitVec 256) (f : FrameView) : List (Nat × Nat × Nat) :=
  let g := f.qheads / f.heads
  let per := descHeads d * g
  (List.range (descBatch d * per)).map fun i => (i, descQpos d + i / per, (descFirst d + i % per / g) * g + i % g)

/-- The vector buffer of a unit, and that of the unit that runs for it. -/
def State.vbuf (s : State) (c u : Nat) : List Cell := mgetD s.gen.vbufs (c * 32 + u) []
def State.buffer (s : State) (c u : Nat) : List Cell := s.vbuf c (s.runner c u)

/-- The owner of the reduction that an attention's partials belong to. -/
def FrameView.owner (f : FrameView) : Nat := if f.ring then draftOwner f.handle else f.handle

/-- ATTN: one partial for each query row of the vector buffer, met with those of the unit's earlier frames. -/
def State.runAttn (s : State) (c : Nat) (d : BitVec 256) (poisoned : Bool) : State :=
  match s.frameView (descFrame c d) with
  | none => s
  | some f =>
    let u := (maskUnits (descMask d)).headD 0
    let buf := s.buffer c u
    (attnRows d f).foldl (fun t x =>
      let q := bufferRow buf (descFormat d) (descVbuf d + x.1 * busRowBytes (descFormat d) f.dim) f.dim
      let a := s.attend f (descFormat d) (descLayer d) (descSlots d) (descLength d) x.2.1 x.2.2 q
      t.addPartial f.owner (descLayer d) c u (x.2.1 * 256 + x.2.2) (a.partial_ poisoned)) s

/-- The de-interleaved address of a byte of a unit's bank pair: the offsets of bank 2u, then those of bank 2u + 1 (DESIGN CHOICE, log
148). -/
def pairAddr (c u o : Nat) : Nat := deAddr c (2 * u + o / 0x300_0000) (o % 0x300_0000)

/-- `n` bytes of the run that a MATVEC reads in a unit's bank pair, from byte `o` of it. -/
def State.runBytes (s : State) (c u : Nat) (d : BitVec 256) (o n : Nat) : List (BitVec 8) :=
  (List.range n).map fun i => if o + i < descLength d then s.dramByte (pairAddr c u (descOffset d + o + i)) else 0

/-- The bytes of 32 elements of a FORMAT. -/
def blockBytes (format : Nat) : Nat :=
  match format with
  | 2 => 16
  | 3 => 64
  | _ => 32

/-- A weight block as a unit reads it from its banks: its elements, and its scale where it has one. -/
def State.weightBlock (s : State) (c u : Nat) (d : BitVec 256) (b : BlockPlace) : Block32 :=
  ⟨(rowCodes (descFormat d) (s.runBytes c u d b.first (blockBytes (descFormat d)))).map (elemVal (descFormat d)),
    match b.scale with
    | some o => e8m0 (ofLe (s.runBytes c u d o 1))
    | none => .one⟩

/-- The output rows of a unit for one input vector. -/
def State.unitRows (s : State) (c u : Nat) (d : BitVec 256) (rows : List (List BlockPlace)) (v : Nat) : List (BitVec 32) :=
  let buf := s.buffer c u
  rows.map fun r =>
    let k := 32 * r.length
    (dot (r.map (s.weightBlock c u d)) (bufferRow buf (descFormat d) (descVbuf d + v * busRowBytes (descFormat d) k) k)).to32

/-- MATVEC: each unit's rows for each input vector of its vector buffer, held for the chain and the reduction. -/
def State.runMatvec (s : State) (c p kind : Nat) (d : BitVec 256) (inp : NbInput) (poisoned : Bool) : State :=
  (inp.rows.filter fun w => descMask d / 2 ^ w.unit.val % 2 = 1).foldl (fun t w =>
    (List.range (descBatch d)).foldl (fun t v =>
      t.addPartial (weightOwner p kind inp.tag.toNat) (descLayer d) c w.unit.val v ⟨0, 0, s.unitRows c w.unit.val d w.rows v, poisoned⟩) t) s

/-- What the channel bus brings: plain bytes, or rows that the logic die quantises (R142), query rows behind their rotation. -/
def State.busBytes (s : State) (p : Nat) (d : BitVec 256) (l : BusLoad) : List (BitVec 8) :=
  match l with
  | .bytes l => l
  | .vectors rows => rows.flatMap fun r => busRow (descFormat d) (vals32 (s.vec p (descLayer d) [] r))
  | .queries model rows =>
    let g := match mget s.weights model.toNat with
      | some w => w.geometry
      | none => []
    rows.flatMap fun r => busRow (descFormat d) (rotate g r.1.toNat (vals32 (s.vec p (descLayer d) [] r.2)))

/-- VEC_LOAD: the bytes of the channel bus enter the buffer of every masked unit. -/
def State.runLoad (s : State) (c p : Nat) (d : BitVec 256) (inp : NbInput) : State :=
  let bytes := (s.busBytes p d inp.load).take (descLength d)
  (maskUnits (descMask d)).foldl (fun s u =>
    let buf := Cells.writeList (s.buffer c u) (descVbuf d) bytes
    { s with gen := { s.gen with vbufs := mset s.gen.vbufs (c * 32 + s.runner c u) buf } }) s

/-- Writes a plain byte through a unit's encoder: a page's bytes are plain before encryption. -/
def State.storeByte (s : State) (d : Nat) (v : BitVec 8) : State :=
  let f := frameAt d
  match s.homePage f.1 with
  | some page => { s with tiers := { s.tiers with bytes := Cells.write s.tiers.bytes (pageByte page f.2) v } }
  | none => { s with dram := Cells.write s.dram d v }

/-- The places that a STORE writes. -/
def storePlaces (c : Nat) (d : BitVec 256) : List Nat :=
  (List.range (descLength d)).map fun i => pairAddr c ((maskUnits (descMask d)).headD 0) (descOffset d + i)

/-- STORE: bytes of the vector buffer go through the unit's encoder: a sector that is written whole is clean again (R155). -/
def State.runStore (s : State) (c : Nat) (d : BitVec 256) : State :=
  let places := storePlaces c d
  let bytes := Cells.readList (s.buffer c ((maskUnits (descMask d)).headD 0)) (descVbuf d) (descLength d)
  let s := (places.zip bytes).foldl (fun s x => s.storeByte x.1 x.2) s
  (wholeSectors places).foldl State.cleanSector s

/-- TEST: the units that failed are quarantined with pattern and temperature (R159, R208), the temperature of a passed pattern is kept, and
the last pattern settles a test that was owed. -/
def State.runTest (s : State) (c : Nat) (d : BitVec 256) (inp : NbInput) : State :=
  let units := maskUnits (descMask d)
  let failed := (inp.failed.map Fin.val).filter units.contains
  let s := if units.all failed.contains then s else s.keepTemp (descLength d) inp.temp.toNat
  let s := failed.foldl (fun s u => s.quarantineUnit c u 1 inp.temp.toNat (descLength d) none 0) s
  if descLength d = 9 then { s with gen := { s.gen with testUnits := s.gen.testUnits.filter fun x => x.1 ≠ c || !units.contains x.2 } }
  else s

/-! ### Check bytes met by units (R155 to R158, R213) -/

/-- Whether an operation reads a place: the run of a MATVEC, the frame of an ATTN, a sector that a STORE writes in part. -/
def opReads (c : Nat) (d : BitVec 256) (a : Nat) : Bool :=
  match descOp d with
  | 3 => frameKeyOf a = descFrame c d
  | 4 => (partSectors (storePlaces c d)).contains (a / 32)
  | 1 => (maskUnits (descMask d)).any fun u => (List.range (descLength d / 32 + 1)).any fun i => pairAddr c u (descOffset d + 32 * i) / 32 = a / 32
  | 2 => (maskUnits (descMask d)).any fun u => (List.range (descLength d / 32 + 1)).any fun i => pairAddr c u (descOffset d + 32 * i) / 32 = a / 32
  | _ => false

/-- A corrected sector: it stands as the decoder has it, is counted, queued for the scrub, and counted against the threshold (R157,
R402). -/
def State.noteCorrected (s : State) (c sec : Nat) (d : List (BitVec 8)) : State :=
  ((((s.standsAs sec d).bump genChEcc_corrected c 1).modChan c fun x => { x with scrub := x.scrub ++ [sec * 32] }).raise
    (errorOf 0 2 1 (sec * 32)))

/-- The sectors that an operation reads with changed symbols: corrected, or uncorrectable, which are named. -/
def State.decodeReads (s : State) (c : Nat) (d : BitVec 256) (ups : List Upset) : State × List Nat :=
  (ups.filter fun u => opReads c d (u.sector.toNat * 32)).foldl (fun (a : State × List Nat) u =>
    match a.1.readUpset u with
    | .clean x => (a.1.standsAs u.sector.toNat x, a.2)
    | .corrected x _ => (a.1.noteCorrected c u.sector.toNat x, a.2)
    | .poisoned => a
    | .uncorrectable => (a.1.bump genChEcc_uncorrected c 1, a.2 ++ [u.sector.toNat * 32])) (s, [])

/-- The poisoned sectors that an operation reads. -/
def State.poisonedReads (s : State) (c : Nat) (d : BitVec 256) : List Nat :=
  let own := (s.poison.map (· * 32)).filter (opReads c d)
  let paged := s.tiers.poison.filterMap fun x => match mget s.tiers.pages (x / 2048) with
    | some e => if e.tier = 1 then some (frameByte e.loc (x % 2048 * 32)) else none
    | none => none
  let lent := match descOp d, s.pageIn (descFrame c d) with
    | 3, some key => (s.tiers.poison.filter fun x => x / 2048 = key).map fun x => frameByte (descFrame c d) (x % 2048 * 32)
    | _, _ => []
  (own ++ paged.filter (opReads c d) ++ lent).dedup

/-- Speculation is off for the step. -/
def State.draftOff (s : State) (p : Nat) : State :=
  { s with seqs := mmap s.seqs fun _ q => if q.part = p then { q with draft := 0, probing := false } else q }

/-- What the device does about data that a unit could not read, by what the data is (R158): a page of a sequence, a page of a draft ring,
a weight block of the maquette or of another set; what is none of them is firmware's own and counts as weights. -/
def State.dataLost (s : State) (p a : Nat) : State :=
  match s.pageIn (frameKeyOf a) with
  | some key =>
    match s.groupOf key with
    | some (_, g) => (s.loseKey key).toRebuild g.handle
    | none => s
  | none =>
    match s.ringAt (frameKeyOf a) with
    | some (h, _) => (s.draftOff p).modSeq h fun q => { q with ring := q.ring.map fun r => (r.1, false) }
    | none =>
      match s.nearBlockAt a with
      | some (set, place) =>
        let s := s.rereadNear set place
        if s.gen.draftOn && set = s.gen.draftModel then s.draftOff p else s.poisonBatch p
      | none => s.poisonBatch p

/-- Data that a unit could not read: the Deferred error names channel, bank and offset by the de-interleaved address (R158). A STORE
marks the sector that it merges poisoned and goes on (R156). -/
def State.unreadable (s : State) (p : Nat) (d : BitVec 256) (a : Nat) : State :=
  let s := s.raise (errorOfPart 1 2 2 a p)
  if descOp d = 4 then s.poisonSector a else s.dataLost p a

/-- Parity of a vector buffer: as weights, and the units are tested (R158). -/
def State.bufferParity (s : State) (c p : Nat) (d : BitVec 256) : State :=
  let units := (maskUnits (descMask d)).map fun u => (c, s.runner c u)
  let s := s.raise (errorOfPart 1 2 2 (c * 32 + (maskUnits (descMask d)).headD 0) p)
  let s := { s with gen := { s.gen with testUnits := s.gen.testUnits ++ units.filter fun u => !s.gen.testUnits.contains u } }
  s.poisonBatch p

/-- The work of an operation. -/
def State.runOp (s : State) (c p : Nat) (d : BitVec 256) (inp : NbInput) (bad : Bool) : State :=
  match descOp d with
  | 1 => s.runMatvec c p 1 d inp bad
  | 2 => s.runMatvec c p 2 d inp bad
  | 3 => s.runAttn c d bad
  | 4 => s.runStore c d
  | 5 => s.runLoad c p d inp
  | _ => s.runTest c d inp

/-- An operation of a partition: what its units read, its work, and what follows from data that they could not read. -/
def State.doOp (s : State) (c p : Nat) (d : BitVec 256) (inp : NbInput) : State :=
  let r := s.decodeReads c d inp.upsets
  let lost := r.2 ++ r.1.poisonedReads c d
  let s := r.1.runOp c p d inp (!lost.isEmpty || inp.parity)
  let s := lost.foldl (fun s a => s.unreadable p d a) s
  if inp.parity then s.bufferParity c p d else s

/-- The poisoned result of an operation that the watchdog has ended enters the reduction, and its consumer sits the cycle out (R130,
R150). -/
def State.poisonResult (s : State) (c p : Nat) (d : BitVec 256) (tag : Nat) : State :=
  match descOp d with
  | 3 =>
    match s.frameView (descFrame c d) with
    | some f =>
      let u := (maskUnits (descMask d)).headD 0
      let s := (attnRows d f).foldl (fun t x =>
        t.addPartial f.owner (descLayer d) c u (x.2.1 * 256 + x.2.2) ((Attn.empty f.dim).partial_ true)) s
      if f.ring then s else s.modSeq f.handle fun q => { q with poisoned := true }
    | none => s
  | 1 => ((maskUnits (descMask d)).foldl (fun t u => (List.range (descBatch d)).foldl (fun t v =>
      t.addPartial (weightOwner p 1 tag) (descLayer d) c u v ⟨0, 0, [], true⟩) t) s).poisonBatch p
  | 2 => ((maskUnits (descMask d)).foldl (fun t u => (List.range (descBatch d)).foldl (fun t v =>
      t.addPartial (weightOwner p 2 tag) (descLayer d) c u v ⟨0, 0, [], true⟩) t) s).poisonBatch p
  | _ => s

/-- The operation has ended: the channel rests or goes on. -/
def State.endOp (s : State) (c : Nat) (start : Tick) : State :=
  ((s.worked (25 + c)).modChan c fun x => { x with running := none, lastTook := s.now - start }).sequence c

/-- NEAR_BANK_OP_COMPLETE (R146): within 8,000 ticks of the start. The result of a partition that was reset is discarded (R140). -/
def execNearBankOpComplete (ch : Fin 64) (inp : NbInput) (s : State) : Out :=
  .next <| s.whenLive fun s =>
    match (s.chan ch.val).running with
    | none => s
    | some (p, d, start) =>
      if s.now < start || start + 8000 < s.now then s
      else (if p < 16 then s.doOp ch.val p d inp else s).endOp ch.val start

/-- NEAR_BANK_WATCHDOG (R130): the operation ends with a poisoned result, an error names channel, unit and descriptor, and the unit
has failed (R159). -/
def execNearBankWatchdog (ch : Fin 64) (u : Fin 32) (fin : WatchdogEnd) (s : State) : Out :=
  .next <| s.whenLive fun s =>
    match (s.chan ch.val).running with
    | none => s
    | some (p, d, start) =>
      if s.now < start + 8000 || descMask d / 2 ^ u.val % 2 = 0 then s
      else
        let e := if p < 16 then errorOfPart 1 2 3 (ch.val * 32 + u.val) p else errorOf 1 2 3 (ch.val * 32 + u.val)
        let s := s.raise { e with info0 := d.truncate 64, info1 := (d >>> 64).truncate 64 }
        let s := if p < 16 then s.poisonResult ch.val p d fin.tag.toNat else s
        let s := s.quarantineUnit ch.val u.val 2 fin.temp.toNat 0xFF (if p < 16 then some p else none) 0
        s.endOp ch.val start

/-! ### Switches, holds, windows, refresh -/

/-- CHANNEL_SWITCH_COMPLETE (R129): 200 ns after its start. A channel that finds an access held, or that is kept in memory mode,
returns at once (R132). -/
def execChannelSwitchComplete (ch : Fin 64) (s : State) : Out :=
  .next <| s.whenLive fun s =>
    let c := ch.val
    let m := s.chMode c
    if s.now < (s.chan c).switchAt + switchTicks then s
    else if m = 2 then
      let s := s.bumpWrap genChmode_switches c 1
      (s.setFld genChmode_mode c 1).nextOp c
    else if m = 3 then (s.openWindow c).sequence c
    else s

/-- LOGIC_ACCESS_HELD (R132): in memory mode the access is served; else it is held, and a channel without a running operation
returns. -/
def execLogicAccessHeld (ch : Fin 64) (a : LogicAccess) (s : State) : Out :=
  .next <| s.whenLive fun s =>
    match s.holdPoint [deAddr ch.val a.bank.val a.offset.toNat] with
    | some k => (s.hold k (.logic a)).sequence k
    | none => s.serveLogic ch.val a

/-- MEMORY_MODE_WINDOW_EXPIRY (R133): from the window's minimum on, with nothing held, the channel may switch back; at its maximum it does
so with accesses queued, where an operation is ready. -/
def execMemoryModeWindowExpiry (ch : Fin 64) (s : State) : Out := .next <| s.whenLive fun s => s.sequence ch.val

/-- REFRESH_DUE (R131): in processor mode only between operations; a refresh that meets one waits for its end. -/
def execRefreshDue (ch : Fin 64) (s : State) : Out :=
  .next <| s.whenLive fun s =>
    let x := s.chan ch.val
    if s.now < x.refreshAt + x.refreshEvery || x.refreshOwed then s
    else if s.chMode ch.val = 1 && x.running.isSome then s.modChan ch.val fun x => { x with refreshOwed := true }
    else s.modChan ch.val fun x => { x with refreshAt := s.now }

/-- GEN_CHMODE_WRITE (R136). -/
def execGenChmodeWrite (fn : Fn) (ch : Fin 64) (lane : Lane) (v : BitVec 64) (s : State) : Out :=
  .next <| s.whenKept .genChmode ch.val fun s =>
    if s.rindHolds (chanDomain ch.val) then s.hold ch.val (.chmode (fnNum fn) lane v)
    else (s.writeFields (fnNum fn) lane .genChmode ch.val v).sequence ch.val

/-! ### The draft configuration (R161, R162, R169) -/

/-- The configuration as written takes effect: the reserved group leaves or rejoins the page frames. -/
def State.applyDraft (s : State) : State :=
  let s := { s with gen := { s.gen with
      draftModel := s.fld genDraftCfg_model 0, draftGroup := s.fld genDraftCfg_group 0, draftWindow := s.fld genDraftCfg_window 0 } }
  ((s.setFlag genDraftCfg_busy 0 false).noteDraft).relayTier1

/-- Whether the configuration as written differs from the one in force. -/
def State.draftDiffers (s : State) : Bool :=
  s.gen.draftModel ≠ s.fld genDraftCfg_model 0 || s.gen.draftGroup ≠ s.fld genDraftCfg_group 0 || s.gen.draftWindow ≠ s.fld genDraftCfg_window 0

/-- A write of GEN_DRAFT_CFG: the change waits while a sequence holds a ring. -/
def State.writeDraftCfg (s : State) (fn : Nat) (lane : Lane) (v : BitVec 64) : State :=
  let s := s.writeFields fn lane .genDraftCfg 0 v
  if !s.draftDiffers then s.setFlag genDraftCfg_busy 0 false
  else if s.ringsHeld = 0 then s.applyDraft
  else s.setFlag genDraftCfg_busy 0 true

/-- GEN_DRAFT_CFG_WRITE (R169). -/
def execGenDraftCfgWrite (fn : Fn) (lane : Lane) (v : BitVec 64) (s : State) : Out :=
  .next <| s.whenKept .genDraftCfg 0 fun s => s.writeDraftCfg (fnNum fn) lane v

/-- DRAFT_CFG_APPLY (R169): a waiting change takes effect once no ring is held. -/
def execDraftCfgApply (s : State) : Out :=
  .next <| s.whenLive fun s => if s.flag genDraftCfg_busy 0 && s.ringsHeld = 0 then s.applyDraft else s

/-- Writes one head's row of a kind into a ring's page, in FP8 of the draft set's FP8_KIND (R162). -/
def State.putRing (s : State) (w : WeightSet) (k layer kind head slot : Nat) (row : List Num) : State :=
  let r := quantRow w.geometry 0 (kvScale w.geometry layer head kind) row
  let o := rowStart 0 (geoKvHeads w.geometry) w.ringTpp (geoHeadDim w.geometry) kind head slot
  s.writePlaces ((List.range r.bytes.length).map fun i => frameByte k (o + i)) r.bytes

/-- The rows of one token of one layer enter its ring: those of the last W tokens. -/
def State.fillRing (s : State) (w : WeightSet) (h ring : Nat) (r : AppendRow) : State :=
  let window := ringWindow s.gen.draftWindow
  let pos := r.position.toNat
  match s.seq h with
  | none => s
  | some q =>
    if r.handle.toNat ≠ h || geoLayers w.geometry ≤ r.layer.toNat || q.length ≤ pos || pos + window < q.length then s
    else
      let slot := pos % window
      let k := w.ringFrame s.gen.draftWindow ring r.layer.toNat slot
      let d := geoHeadDim w.geometry
      (List.range (geoKvHeads w.geometry)).foldl (fun s head =>
        (s.putRing w k r.layer.toNat 0 head (slot % w.ringTpp) (rotate w.geometry pos (headRow d head r.keys))).putRing w k r.layer.toNat 1 head
          (slot % w.ringTpp) (headRow d head r.values)) s

/-- DRAFT_RING_FILL_COMPLETE (R162): the maquette's rows for the journal's last W tokens stand in the ring. -/
def execDraftRingFillComplete (fill : RingFill) (s : State) : Out :=
  .next <| s.whenLive fun s =>
    match (s.seq fill.handle.toNat).bind Seq.ring, s.draftSet with
    | some r, some w =>
      (fill.rows.foldl (fun s x => s.fillRing w fill.handle.toNat r.1 x) s).modSeq fill.handle.toNat fun q => { q with ring := q.ring.map fun r => (r.1, true) }
    | _, _ => s

/-! ### BAR4 (R126, R127, R460, R526 to R528) -/

/-- Where a BAR4 offset of the management function leads. -/
inductive Bar4 where
  | dram (d : Nat)
  | hole
  | reserved
  | remote
deriving DecidableEq, Repr

/-- A DRAM address by either view, or a hole beyond the DRAM (R127). -/
def viewAddr (interleaved : Bool) (a : Nat) : Bar4 :=
  if dramBytes ≤ a then .hole else .dram (if interleaved then deinterleave a else a)

/-- BAR4's layout: whole at 256 GiB, a sliding window at every smaller size. -/
def State.bar4 (s : State) (off : Nat) : Bar4 :=
  let n := s.fld glbBar4Cfg_sizeLog2 0
  if n = 38 then
    if off < 0x30_0000_0000 then viewAddr false off
    else if off < 0x3C_0000_0000 then viewAddr true (s.fld glbBar4Cfg_intBaseGib 0 * 2 ^ 30 + (off - 0x30_0000_0000))
    else if 0x3F_0000_0000 ≤ off && off < 0x3F_4000_0000 then .remote
    else .reserved
  else if off < 2 ^ n - 2 ^ 30 then viewAddr (s.flag glbBar4Cfg_view 0) (s.fld glbBar4Cfg_slideGib 0 * 2 ^ 30 + off)
  else if off < 2 ^ n then .remote
  else .reserved

/-- The recovery window, before READY (R460). -/
def State.recoveryAccess (s : State) (off : Nat) (op : MemOp) : State :=
  let size := 80 * 2 ^ 20
  match op with
  | .write data =>
    if s.flag secRecovery_ready 0 then
      { s with staging := data.zipIdx.foldl (fun m x => if off + x.2 < size then Cells.write m (off + x.2) x.1 else m) s.staging }
    else s
  | .read n => s.emit (.completion 0 off ((List.range n).map fun i => if off + i < size then Cells.read s.staging (off + i) else 0) false false)

/-- The places of an access; an address outside the DRAM is numbered behind it. -/
def State.bar4Places (s : State) (off n : Nat) : List Nat :=
  (List.range n).map fun i => match s.bar4 (off + i) with
    | .dram d => d
    | _ => dramBytes

/-- The number of bytes of an access. -/
def MemOp.size : MemOp → Nat
  | .read n => n
  | .write d => d.length

/-- HOST_DRAM_ACCESS (R126): served, or held by a channel that is not in memory mode (R132). An access beyond the DRAM is
counted (R127). The remote windows are no DRAM. -/
def execHostDramAccess (off : BitVec 38) (access : DramAccess) (s : State) : Out :=
  .next <|
    if !s.hubRuns then s
    else if s.stage ≠ 7 then s.recoveryAccess off.toNat access.op
    else
      match s.bar4 off.toNat with
      | .remote => s
      | b =>
        let s := if b = .hole || s.bar4 (off.toNat + (MemOp.size access.op - 1)) = .hole then s.bump genApertureHole_count 0 1 else s
        let places := s.bar4Places off.toNat (MemOp.size access.op)
        match s.holdPoint places with
        | some c => (s.hold c (.host off.toNat places access.op access.upsets)).sequence c
        | none => s.serveHost off.toNat places access.op access.upsets

end Sys2Proof.Machine
end

