-- ==== Sys2Proof/Machine/Asith.lean ====
section
/-! DEFINITION. Asith's requests at the target, and its answers at the issuer: acknowledgements, the congestion window, resends,
completions and failures (R330 to R346, R349). -/

set_option Elab.async false

namespace Sys2Proof.Machine

/-! ### Resending (R335, R337, R349) -/

/-- Whether an operation is a request of a connection's order. -/
def isRequest (op : Nat) : Bool := op = 1 || (3 ≤ op && op ≤ 7)

/-- Takes the frames of a context that satisfy a test off the transmit queues. -/
def State.unqueue (s : State) (c : Nat) (f : Frame → Bool) : State :=
  { s with asf := { s.asf with txq := mmap s.asf.txq fun _ l => l.filter fun x => !(x.2.srcConn.toNat = c && f x.2) } }

/-- A frame as it is sent again: under the current epoch, with RETRANS if it has been sent before. -/
def Sent.again (x : Sent) (epoch : Nat) (now : Tick) : Sent :=
  { x with
    frame := { x.frame with
      epoch := BitVec.ofNat 8 epoch
      flags := if x.begun then x.frame.flags ||| 0x10 else x.frame.flags }
    sentAt := now, begun := false, got := [] }

/-- Resends every unacknowledged frame of a context, unless it waits. -/
def State.resend (s : State) (c : Nat) : State :=
  match s.conn c with
  | none => s
  | some k =>
    let us := k.unacked.map fun x => x.again (s.fld asfEpoch_current 0) s.now
    let k := { k with unacked := us }
    let s := (s.unqueue c fun f => isRequest f.op.toNat).modConn c fun _ => k
    if k.state ≠ .dead && k.state ≠ .opening && k.cached && k.retryAt.isNone && k.rnrAt.isNone then us.foldl (fun s x => s.queueFrame c k x.frame) s
    else s

/-- A retransmission halves the window, to no less than 4 KiB (R341). -/
def State.halveWindow (s : State) (c : Nat) : State := s.modConn c fun k => { k with w := max 4096 (k.w / 2) }

/-! ### The congestion window (R340, R341) -/

/-- The bytes that a request has in flight. -/
def requestBytes (f : Frame) : Nat := if f.op = 1 then f.arg.toNat else f.payload.length

/-- One RTT sample. -/
def Conn.sampled (k : Conn) (now : Tick) (rtt : Nat) : Conn :=
  { k with
    srtt := k.srtt * 7 / 8 + rtt / 8
    rtts := (k.rtts.filter fun x => now < x.1 + 100 * ticksPerMs) ++ [(now, rtt)] }

/-- The smallest RTT sample of the last 100 ms. -/
def Conn.baseRtt (k : Conn) : Nat :=
  match k.rtts with
  | [] => 0
  | x :: xs => xs.foldl (fun a y => min a y.2) x.2

/-- The end of a round. -/
def Conn.endRound (k : Conn) (extra : Nat) : Conn :=
  let f : Rat := (k.markedBytes : Rat) / k.acked
  let alpha := k.alpha * 15 / 16 + f / 16
  let target : Rat := (k.baseRtt + extra : Nat)
  let w :=
    if 0 < k.markedBytes then k.w * (1 - alpha / 2)
    else if target < k.srtt then k.w * max (1 / 2) (1 - 4 / 5 * (k.srtt - target) / k.srtt)
    else k.w + max 4096 (k.w / 8)
  let w := min 16777216 (max 4096 w)
  { k with alpha := alpha, w := w, roundStart := w, acked := 0, markedBytes := 0 }

/-- Counts acknowledged bytes, and ends the round that they complete. -/
def Conn.counted (k : Conn) (n : Nat) (marked : Bool) (extra : Nat) : Conn :=
  let k := { k with acked := k.acked + n, markedBytes := if marked then k.markedBytes + n else k.markedBytes }
  if 0 < k.acked && k.roundStart ≤ k.acked then k.endRound extra else k

/-- Takes operations off a context's list and counts their bytes. The RETRY_AFTER waits of an operation count together until its last frame
is answered (R344). -/
def State.settle (s : State) (c : Nat) (gone : List Sent) (marked : Bool) : State :=
  let n := (gone.map fun x => requestBytes x.frame).sum
  let s := s.unqueue c fun f => isRequest f.op.toNat && gone.any fun x => x.psn = f.psn.toNat
  s.modConn c fun k =>
    { (k.counted n marked (s.fld asfWindowCfg_targetExtraUs 0 * ticksPerUs)) with
      unacked := k.unacked.filter fun x => !gone.contains x
      retryTotal := if gone.any fun x => x.frame.flags.getLsbD 3 then 0 else k.retryTotal }

/-! ### What completion does (R331) -/

/-- Whether an operation of a purpose is outstanding. -/
def State.outstanding (s : State) (p : Purpose) : Bool := s.asf.conns.any fun c => c.2.unacked.any fun x => x.purpose = p

/-- A write that the target has retired. -/
def State.writeRetired (s : State) (node : Nat) (p : Purpose) : State :=
  match p with
  | .commitRecord q step => s.mirrorAcked q node step
  | .journalCopy q step => if s.outstanding p then s else s.journalAcked q step
  | .lodge key => if s.outstanding p then s else s.moveWritten key
  | .append h _ => s.freeAcked h
  | .flip h => s.flipArrived h
  | _ => s

/-- A packet of a command queue from its 64 bytes (R53). -/
def packetOf (bs : List (BitVec 8)) : Packet :=
  let le (a n : Nat) : Nat := ofLe ((bs.drop a).take n)
  ⟨BitVec.ofNat 8 (le 0 1), BitVec.ofNat 8 (le 1 1), BitVec.ofNat 16 (le 2 2), BitVec.ofNat 32 (le 4 4), BitVec.ofNat 32 (le 8 4),
    BitVec.ofNat 32 (le 12 4), BitVec.ofNat 384 (le 16 48)⟩

/-- Stored bytes of a page on its way back from its lodging: expanded when the last of them is here (R228, R288). -/
def State.lodgedArrives (s : State) (key : Nat) (bs : List (BitVec 8)) : State :=
  if !s.coming key then s
  else
    let got := mgetD s.tiers.transit key [] ++ bs
    if got.length < 66048 then { s with tiers := { s.tiers with transit := mset s.tiers.transit key got } }
    else
      let s := { s with tiers := { s.tiers with transit := mdel s.tiers.transit key } }
      match expandSlots 16 got with
      | .ok raw => (s.setPageBytes key raw).pageCame key
      | .error e => (s.expandFailed key e got).wakeAll

/-- A page that comes from its mirror. -/
def State.mirrorArrives (s : State) (key : Nat) (bs : List (BitVec 8)) : State :=
  if !s.coming key then s else (s.setPageBytes key bs).pageCame key

/-- An answered read or atomic, with its bytes. -/
def State.answered (s : State) (p : Purpose) (bs : List (BitVec 8)) : State :=
  match p with
  | .windowRead fn _ off _ => s.emit (.completion fn off bs false false)
  | .windowAtomic fn _ off _ => s.emit (.completion fn off bs false false)
  | .queueFetch q n => s.packetsArrive q ((List.range n).map fun i => packetOf ((bs.drop (64 * i)).take 64))
  | .fetchBack key => s.lodgedArrives key bs
  | .mirrorFetch key => s.mirrorArrives key bs
  | .weights set => s.sourceRead set
  | _ => s

/-- Whether an operation is answered with data. -/
def Sent.wantsData (x : Sent) : Bool := x.frame.op = 1 || 5 ≤ x.frame.op.toNat

/-- Whether every byte of the answer has arrived. -/
def Sent.whole (x : Sent) : Bool := if x.frame.op = 1 then x.got.length = x.frame.arg.toNat else !x.got.isEmpty

/-- Completes answered reads and atomics in the connection's order. -/
def State.deliver (s : State) (c : Nat) (marked : Bool) : Nat → State
  | 0 => s
  | fuel + 1 =>
    match s.conn c with
    | none => s
    | some k =>
      match k.unacked.find? Sent.wantsData with
      | none => s
      | some x =>
        if x.whole then
          let s := s.settle c [x] marked
          State.deliver (if x.ended then s else s.answered x.purpose x.got) c marked fuel
        else s

/-! ### Closing (R336) -/

/-- Sends DISCONNECT for a context: outside the PSN order. -/
def State.sendDisconnect (s : State) (c : Nat) (k : Conn) : State := s.queueFrame c k { s.header c k Frame.zero with op := 0x0D }

/-- A closing connection whose last operation has ended: CONN_CLOSE replies, and DISCONNECT leaves. -/
def State.settleClose (s : State) (c : Nat) : State :=
  match s.conn c with
  | some k =>
    match k.cmd with
    | some id =>
      if k.state = .closing && k.unacked.isEmpty then
        ((s.modConn c fun k => { k with cmd := none, lastResponse := s.now }).sendDisconnect c k).finish id 0 0 0
      else s
    | none => s
  | none => s

/-! ### Acknowledgements -/

/-- Whether an acknowledgement up to a PSN covers an operation: writes alone are acknowledged so. -/
def Sent.coveredBy (x : Sent) (ack : Nat) : Bool := (x.frame.op = 3 || x.frame.op = 4) && psnAhead ack x.psn < 2 ^ 31

/-- Takes in ACK_PSN of an answer. -/
def State.takeAck (s : State) (c : Nat) (rx : Rx) : State :=
  match s.conn c with
  | none => s
  | some k =>
    let gone := k.unacked.filter fun x => x.coveredBy rx.frame.ackPsn.toNat
    let s := s.settle c gone (rx.frame.flags.getLsbD 2)
    (gone.map Sent.purpose).dedup.foldl (fun s p => s.writeRetired k.node p) s

/-- An RTT sample of an acknowledging frame. -/
def State.sampleRtt (s : State) (c : Nat) (rx : Rx) : State :=
  s.modConn c fun k => k.sampled s.now ((s.now + 2 ^ 32 - rx.frame.tsEcho.toNat) % 2 ^ 32)

/-- What every answer does first: it shows that the target is alive. -/
def State.alive (s : State) (c : Nat) : State := s.modConn c fun k => { k with lastResponse := s.now, lastUse := s.now }

/-- What a context does with an answer from its peer, and what follows it. -/
def State.fromPeer (s : State) (rx : Rx) (op : Nat) (f : State → Nat → Conn → State) : State :=
  s.atPort rx op fun s =>
    let c := rx.frame.dstConn.toNat
    match s.conn c with
    | some k => if k.isOf rx.frame then (((f (s.alive c) c k).settleClose c).tellFailures).noteEpoch else s
    | none => s

/-! ### Failures at the issuer (R344 to R346) -/

/-- The frames behind a failed one, to the end of its operation, bring nothing any more. -/
def endOp : List Sent → List Sent
  | [] => []
  | x :: xs => if x.frame.flags.getLsbD 3 then { x with ended := true } :: xs else { x with ended := true } :: endOp xs

/-- The list without the operation of a PSN, whose later frames are marked. -/
def failOp (psn : Nat) : List Sent → List Sent
  | [] => []
  | x :: xs => if x.psn = psn then (if x.frame.flags.getLsbD 3 then xs else endOp xs) else x :: failOp psn xs

/-- A request that the target has refused and counts as taken: its operation ends. -/
def State.refused (s : State) (c psn cause : Nat) : State :=
  match s.conn c with
  | none => s
  | some k =>
    match k.unacked.find? fun x => x.psn = psn with
    | none => s
    | some x =>
      let s := (s.unqueue c fun f => isRequest f.op.toNat && f.psn = x.frame.psn).modConn c fun k => { k with unacked := failOp psn k.unacked }
      let s := if x.ended then s else s.failLater c cause k.node x.purpose
      let len := match s.conn c with
        | some k => k.unacked.length
        | none => 0
      s.deliver c false len

/-- The frames behind the operation that begins a list. -/
def afterOp : List Sent → List Sent
  | [] => []
  | x :: xs => if x.frame.flags.getLsbD 3 then xs else afterOp xs

/-- Gives frames the PSNs from one upwards. -/
def renumber : Nat → List Sent → List Sent
  | _, [] => []
  | n, x :: xs => { x with psn := n, frame := { x.frame with psn := BitVec.ofNat 32 n } } :: renumber ((n + 1) % 2 ^ 32) xs

/-- The sender gives up an operation whose request is withdrawn at the target: the frames behind it take its place in the order. -/
def State.giveUp (s : State) (c psn cause : Nat) : State :=
  match s.conn c with
  | none => s
  | some k =>
    match k.unacked.find? fun x => x.psn = psn with
    | none => s
    | some x =>
      let before := k.unacked.takeWhile fun y => y.psn ≠ psn
      let after := renumber psn (afterOp (k.unacked.dropWhile fun y => y.psn ≠ psn))
      let s := s.modConn c fun k => { k with
        unacked := before ++ after, nextPsn := (psn + after.length) % 2 ^ 32, retryTotal := 0, rnrRun := 0, retryAt := none, rnrAt := none }
      let s := s.resend c
      if x.ended then s else s.failLater c cause k.node x.purpose

/-- Ends a context's operations with a cause. -/
def State.failAll (s : State) (c cause : Nat) : State :=
  match s.conn c with
  | none => s
  | some k =>
    let s := (s.unqueue c fun f => f.op.toNat < 0x10).modConn c fun k => { k with unacked := [] }
    (k.unacked.filter fun x => x.frame.flags.getLsbD 3 && !x.ended).foldl (fun s x => s.failLater c cause k.node x.purpose) s

/-- A connection enters DEAD (R345): a CONN_CLOSE that waits replies, and firmware gives up a bulk connection at once. -/
def State.killConn (s : State) (c cause : Nat) : State :=
  match s.conn c with
  | none => s
  | some k =>
    let s := (s.failAll c cause).modConn c fun k => { k with state := .dead, cmd := none, retryAt := none, rnrAt := none }
    let s := s.tellFailures
    match k.state, k.cmd with
    | .closing, some id => (s.dropConn c).finish id 0 0 0
    | .closing, none => s.dropConn c
    | _, _ => if k.bulk.isSome then s.dropConn c else s

/-- An opening that fails: CONN_OPEN replies, and the context is free again. -/
def State.openFails (s : State) (c status detail : Nat) : State :=
  match s.conn c with
  | none => s
  | some k =>
    let s := ((s.failAll c (if status = 0x20 then 5 else 1)).tellFailures).dropConn c
    match k.cmd with
    | some id => s.finish id status detail 0
    | none => s

/-! ### NAK (R322, R335, R339, R344, R349) -/

/-- RNR: the sender waits RNR_WAIT_US, or gives the operation up after RNR_MAX answers in a row. -/
def State.nakRnr (s : State) (c psn : Nat) (k : Conn) : State :=
  if s.fld asfTimers_rnrMax 0 ≤ k.rnrRun + 1 then s.giveUp c psn 2
  else
    let at_ := s.now + s.fld asfTimers_rnrWaitUs 0 * ticksPerUs
    (s.unqueue c fun f => isRequest f.op.toNat).modConn c fun k => { k with rnrRun := k.rnrRun + 1, rnrAt := some at_ }

/-- RETRY_AFTER: the sender waits ARG µs, or gives the operation up when its waits total more than RETRY_MAX_MS. -/
def State.nakRetry (s : State) (c psn us : Nat) (k : Conn) : State :=
  let total := k.retryTotal + us
  if s.fld asfPaging_retryMaxMs 0 * 1000 < total then s.giveUp c psn 2
  else
    let at_ := s.now + us * ticksPerUs
    (s.unqueue c fun f => isRequest f.op.toNat).modConn c fun k => { k with retryTotal := total, retryAt := some at_, rnrRun := 0 }

/-- A stale answer met a part of a move: the source has resolved the destination again, which a move may do once (R73). -/
def State.moveResolves (s : State) (p : Purpose) : State :=
  match p with
  | .moveGroup h _ => s.modSeq h fun q => { q with move := q.move.map fun (m : Move) =>
      { m with retried := true, resolvedAt := if m.resolvedAt.isSome then m.resolvedAt else some s.now } }
  | _ => s

/-- Whether a stale answer is the second for its operation: for a part of a move, the second for the whole move (R73, R349). -/
def State.staleAgain (s : State) (x : Sent) : Bool :=
  x.staleOnce || match x.purpose with
    | .moveGroup h _ => (s.seq h).any fun (q : Seq) => q.move.any fun (m : Move) => m.resolvedAt.any fun (t : Tick) => t < x.sentAt
    | _ => false

/-- Whether two frames carry parts of one move. -/
def sameMove : Purpose → Purpose → Bool
  | .moveGroup a _, .moveGroup b _ => a = b
  | _, _ => false

/-- STALE_EPOCH: the sender re-resolves the node, rebinds and resends once. -/
def State.nakStale (s : State) (c psn : Nat) (k : Conn) : State :=
  match k.unacked.find? fun x => x.psn = psn with
  | none => s
  | some x =>
    if !s.reachable k.node then s.killConn c 1
    else if s.staleAgain x then s.giveUp c psn 5
    else
      let s := s.modConn c fun k =>
        { s.binding c k with
          unacked := k.unacked.map fun y => if y.psn = psn || sameMove x.purpose y.purpose then { y with staleOnce := true } else y }
      (s.moveResolves x.purpose).resend c

/-- A NAK for CONNECT. -/
def State.nakOpen (s : State) (c : Nat) (rx : Rx) (k : Conn) : State :=
  match rx.frame.status.toNat with
  | 8 => s.openFails c 0x12 0x12
  | 1 => s.modConn c fun k => { k with rnrAt := some (s.now + s.fld asfTimers_rnrWaitUs 0 * ticksPerUs), lastResponse := s.now }
  | 4 =>
    if k.retriedOpen then s.openFails c 0x20 0
    else if !s.reachable k.node then s.openFails c 0x22 0
    else ((k.unacked.foldl (fun s x => s.moveResolves x.purpose) s).modConn c fun k => { s.binding c k with retriedOpen := true }).sendConnect c
  | _ => s

/-- A NAK for a request of an open connection. -/
def State.nakRequest (s : State) (c : Nat) (rx : Rx) : State :=
  let s := s.takeAck c rx
  let s := if rx.frame.status = 1 then s else s.modConn c fun k => { k with rnrRun := 0 }
  match s.conn c with
  | none => s
  | some k =>
    let psn := rx.frame.psn.toNat
    match rx.frame.status.toNat with
    | 0 => s
    | 1 => s.nakRnr c psn k
    | 2 => s.nakRetry c psn rx.frame.arg.toNat k
    | 3 => s.refused c psn 4
    | 4 => s.nakStale c psn k
    | 5 => (s.halveWindow c).resend c
    | 6 => s.refused c psn 4
    | 7 => s.refused c psn 3
    | 8 => s.killConn c 1
    | _ => (s.bump asfRxDrop_badOp 0 1).refused c psn 4

/-! ### Rows -/

/-- A request that a port takes in: its place in its connection's order, what its region's revoke waits for, and the channels that hold
it. -/
def State.takeRequest (s : State) (rx : Rx) (use : WriteUse) : State := ((s.arrive rx use).settleRegions).sequenceHeld

/-- READ_REQ (R330). -/
def execReadReq (rx : Rx) (s : State) : Out := .next (s.atPort rx 1 fun s => s.takeRequest rx .data)

/-- WRITE (R330). -/
def execWrite (rx : Rx) (use : WriteUse) (s : State) : Out := .next (s.atPort rx 3 fun s => s.takeRequest rx use)

/-- WRITE_IMM (R334). -/
def execWriteImm (rx : Rx) (s : State) : Out := .next (s.atPort rx 4 fun s => s.takeRequest rx .data)

/-- FETCH_ADD (R333). -/
def execFetchAdd (rx : Rx) (s : State) : Out := .next (s.atPort rx 5 fun s => s.takeRequest rx .data)

/-- SWAP (R333). -/
def execSwap (rx : Rx) (s : State) : Out := .next (s.atPort rx 6 fun s => s.takeRequest rx .data)

/-- CAS (R333). -/
def execCas (rx : Rx) (s : State) : Out := .next (s.atPort rx 7 fun s => s.takeRequest rx .data)

/-- The bytes of a response join those that its read has: in order of OFFSET, from the start again where a reissue has restarted
it. -/
def Sent.joined (x : Sent) (f : Frame) : Sent :=
  if f.offset = x.frame.offset then { x with got := f.payload }
  else if f.offset.toNat = x.frame.offset.toNat + x.got.length then { x with got := x.got ++ f.payload }
  else x

/-- READ_RESP (R346): the bytes of a read, or poison, which ends it. -/
def execReadResp (rx : Rx) (s : State) : Out :=
  .next <| s.fromPeer rx 2 fun s c k =>
    let s := (s.takeAck c rx).modConn c fun k => { k with rnrRun := 0 }
    let psn := rx.frame.psn.toNat
    if rx.frame.flags.getLsbD 1 then s.refused c psn 3
    else
      let s := s.modConn c fun k =>
        { k with unacked := k.unacked.map fun x => if x.psn = psn && x.frame.op = 1 then x.joined rx.frame else x }
      let s := if rx.frame.flags.getLsbD 3 then s.sampleRtt c rx else s
      s.deliver c (rx.frame.flags.getLsbD 2) k.unacked.length

/-- ATOMIC_RESP (R335): the old value. -/
def execAtomicResp (rx : Rx) (s : State) : Out :=
  .next <| s.fromPeer rx 8 fun s c k =>
    let s := ((s.takeAck c rx).sampleRtt c rx).modConn c fun k =>
      { k with
        rnrRun := 0
        unacked := k.unacked.map fun x =>
          if x.psn = rx.frame.psn.toNat && 5 ≤ x.frame.op.toNat then { x with got := rx.frame.payload } else x }
    s.deliver c (rx.frame.flags.getLsbD 2) k.unacked.length

/-- ACK (R335, R341). -/
def execAck (rx : Rx) (s : State) : Out :=
  .next <| s.fromPeer rx 9 fun s c _ => ((s.sampleRtt c rx).takeAck c rx).modConn c fun k => { k with rnrRun := 0 }

/-- NAK (R335): for CONNECT where the context is opening. -/
def execNak (rx : Rx) (s : State) : Out :=
  .next <| s.atPort rx 0x0A fun s =>
    let c := rx.frame.dstConn.toNat
    match s.conn c with
    | some k =>
      if k.state = .opening && k.node = rx.frame.srcNode.toNat then s.nakOpen c rx k
      else if k.isOf rx.frame then ((((s.alive c).nakRequest c rx).settleClose c).tellFailures).noteEpoch
      else s
    | none => s

end Sys2Proof.Machine
end

