-- ==== Sys2Proof/Machine/AsithConn.lean ====
section
/-! DEFINITION. Asith's connections: the handshake, timers, context fetches, dead targets, ports and the end of an old epoch (R321,
R335 to R339, R342, R344, R345, R348). -/

set_option Elab.async false

namespace Sys2Proof.Machine

/-! ### The context cache (R338) -/

/-- Whether a cached context may be evicted. -/
def Conn.evictable (k : Conn) : Bool := k.cached && k.unacked.isEmpty && k.stalled.isNone && k.waitingRx.isEmpty && k.state = .open_

/-- The least recently used context of a list. -/
def oldest : List (Nat × Conn) → Option (Nat × Conn)
  | [] => none
  | x :: xs =>
    match oldest xs with
    | some y => if y.2.lastUse < x.2.lastUse then some y else some x
    | none => some x

/-- A sealed record of 256 bytes, whose contents are opaque. -/
def sealedRecord (ctr : Nat) : List (BitVec 8) := (List.range 32).flatMap fun i => leBytes 8 (Config.freeWord (ctr + i)).toNat

/-- Keeps at most 8,192 contexts on chip: the least recently used one that rests goes to the backing store. -/
def State.trimCache (s : State) : State :=
  if s.fld asfCtxStat_cached 0 ≤ 8192 then s
  else
    match oldest (s.asf.conns.filter fun c => c.2.evictable) with
    | none => s
    | some x =>
      let s := s.emit (.hostWrite 0 (s.fld asfCtxBase_addr 0 * 4096 + 256 * x.1) (sealedRecord s.freeCtr))
      ({ s with freeCtr := s.freeCtr + 32 }.modConn x.1 fun k => { k with cached := false }).noteCtx

/-! ### The handshake (R336) -/

/-- Answers CONNECT with the number of the context here. -/
def State.ackConnect (s : State) (rx : Rx) (c : Nat) : State :=
  s.respond { rx with frame := { rx.frame with dstConn := BitVec.ofNat 16 c } } 0x0C 0 0 Frame.zero

/-- The context that an earlier CONNECT of a remote context has opened. -/
def State.openedFor (s : State) (f : Frame) : Option (Nat × Conn) :=
  s.asf.conns.find? fun c => !c.2.mine && c.2.node = f.srcNode.toNat && c.2.remote = f.srcConn.toNat && c.2.state = .open_

/-- A CONNECT under a live epoch: a context is allocated, or NO_CONN answers. -/
def State.connected (s : State) (rx : Rx) : State :=
  match s.openedFor rx.frame with
  | some x => s.ackConnect rx x.1
  | none =>
    match s.freeConn with
    | none => s.respond rx 0x0A 8 0 Frame.zero
    | some c =>
      let k := { Conn.fresh 0 rx.frame.srcNode.toNat (rx.frame.arg.toNat % 8) s.now with
        state := .open_, remote := rx.frame.srcConn.toNat, mine := false }
      ((s.setConn c (s.binding c k)).trimCache).ackConnect rx c

/-- CONNECT (R336, R349). -/
def execConnect (rx : Rx) (s : State) : Out :=
  .next <| s.atPort rx 0x0B fun s =>
    match s.epochClass rx.frame.epoch.toNat with
    | 0 => s.connected rx
    | 1 => s.respond rx 0x0A 1 0 Frame.zero
    | _ => (s.bump asfEpoch_staleSent 0 1).respond rx 0x0A 4 0 Frame.zero

/-- CONNECT_ACK (R336): the connection is open, what waited for it leaves, and CONN_OPEN replies. -/
def execConnectAck (rx : Rx) (s : State) : Out :=
  .next <| s.atPort rx 0x0C fun s =>
    let c := rx.frame.dstConn.toNat
    match s.conn c with
    | some k =>
      if k.state = .opening && k.node = rx.frame.srcNode.toNat then
        let s := s.modConn c fun k =>
          { k with
            state := .open_, remote := rx.frame.srcConn.toNat, cmd := none, lastResponse := s.now, lastUse := s.now
            rnrAt := none, retryAt := none
            unacked := k.unacked.map fun x => { x with frame := { x.frame with dstConn := rx.frame.srcConn } } }
        let s := (s.resend c).trimCache
        match k.cmd with
        | some id => s.finish id 0 (if k.retriedOpen then 6 else 0) c
        | none => s
      else s
    | none => s

/-- The frames that wait at a context leave the miss buffer. -/
def State.takeWaiting (s : State) (c : Nat) : State × List (Rx × WriteUse) :=
  match s.conn c with
  | none => (s, [])
  | some k =>
    let n := (k.waitingRx.map fun x => frameBytes x.1.frame).sum
    (({ s with asf := { s.asf with missBytes := s.asf.missBytes - n } }).modConn c fun k => { k with waitingRx := [], stalled := none },
      k.waitingRx)

/-- DISCONNECT (R336): the remote side goes, and a context that this side has opened is left DEAD for its CONN_CLOSE. -/
def execDisconnect (rx : Rx) (s : State) : Out :=
  .next <| s.atPort rx 0x0D fun s =>
    let c := rx.frame.dstConn.toNat
    match s.conn c with
    | some k =>
      if k.isOf rx.frame then
        let s := (s.takeWaiting c).1.respond rx 0x0E 0 0 Frame.zero
        let s := s.killConn c 1
        (if k.mine then s else s.dropConn c).settleRegions
      else s.respond rx 0x0A 8 0 Frame.zero
    | none => s.respond rx 0x0A 8 0 Frame.zero

/-- DISCONNECT_ACK (R336): the closed context is free. -/
def execDisconnectAck (rx : Rx) (s : State) : Out :=
  .next <| s.atPort rx 0x0E fun s =>
    let c := rx.frame.dstConn.toNat
    match s.conn c with
    | some k => if k.isOf rx.frame && k.state = .closing && k.cmd.isNone then s.dropConn c else s
    | none => s

/-- Whether an OP is reserved (R321, R364). -/
def reservedOp (op : Nat) : Bool := op = 0 || op = 0x0F || op = 0x13 || 0x18 ≤ op

/-- RESERVED_OP_FRAME (R321): discarded behind the tag check, and counted. -/
def execReservedOpFrame (rx : Rx) (s : State) : Out :=
  .next (if reservedOp rx.frame.op.toNat then s.atPort rx rx.frame.op.toNat fun s => s.bump asfRxDrop_badOp 0 1 else s)

/-! ### Timers (R335, R339, R344) -/

/-- ACK_TIMER (R335): 2 µs after the oldest request that no ACK covers. -/
def execAckTimer (conn : BitVec 16) (s : State) : Out :=
  .next <| s.whenLive fun s =>
    match s.conn conn.toNat with
    | some k =>
      match k.oldestRx with
      | some t =>
        if k.state ≠ .dead && t + 2 * ticksPerUs ≤ s.now then
          let last := BitVec.ofNat 32 (psnBefore k.expect)
          let s := s.queueFrame conn.toNat k (s.header conn.toNat k { Frame.zero with
            op := 9, flags := if k.ceSeen then 4 else 0, psn := last, ackPsn := last, tsEcho := k.echo })
          s.modConn conn.toNat fun k => { k with unackedRx := 0, oldestRx := none, ceSeen := false }
        else s
      | none => s
    | none => s

/-- RETRANSMISSION_TIMEOUT (R335, R341). -/
def execRetransmissionTimeout (conn : BitVec 16) (s : State) : Out :=
  .next <| s.whenLive fun s =>
    match s.conn conn.toNat with
    | some k =>
      match k.unacked with
      | x :: _ =>
        if x.begun && k.state ≠ .dead && k.retryAt.isNone && k.rnrAt.isNone && x.sentAt + s.fld asfTimers_rtoUs 0 * ticksPerUs ≤ s.now then
          ((s.halveWindow conn.toNat).resend conn.toNat).noteEpoch
        else s
      | [] => s
    | none => s

/-- A context's wait has ended: it resends from the refused frame, or sends CONNECT again. -/
def State.goOn (s : State) (c : Nat) (k : Conn) : State :=
  let s := s.modConn c fun k => { k with rnrAt := none, retryAt := none }
  (if k.state = .opening then s.sendConnect c else s.resend c).noteEpoch

/-- RNR_WAIT_EXPIRY (R339). -/
def execRnrWaitExpiry (conn : BitVec 16) (s : State) : Out :=
  .next <| s.whenLive fun s =>
    match s.conn conn.toNat with
    | some k => if k.rnrAt.any (· ≤ s.now) then s.goOn conn.toNat k else s
    | none => s

/-- RETRY_AFTER_EXPIRY (R344). -/
def execRetryAfterExpiry (conn : BitVec 16) (s : State) : Out :=
  .next <| s.whenLive fun s =>
    match s.conn conn.toNat with
    | some k => if k.retryAt.any (· ≤ s.now) then s.goOn conn.toNat k else s
    | none => s

/-- A fetched context, or one whose record fails its tag or cannot be read (R338): the connection then fails with cause CONTEXT, and
the remote side receives NO_CONN. -/
def State.contextFetched (s : State) (c : Nat) (ok : Bool) : State :=
  match s.conn c with
  | none => s
  | some k =>
    if k.cached then s
    else if ok && !s.flag secBoot_keysLost 0 then
      let s := ((s.modConn c fun k => { k with cached := true, lastUse := s.now }).noteCtx).trimCache
      (((s.resend c).pump c k.waitingRx.length).settleRegions.sequenceHeld).noteEpoch
    else
      let (s, waiting) := s.takeWaiting c
      let s := (s.noteFailure c 6 k.node).killConn c 6
      waiting.foldl (fun s x => s.respond x.1 0x0A 8 0 Frame.zero) s

/-- CONTEXT_FETCH_COMPLETE (R339). -/
def execContextFetchComplete (conn : BitVec 16) (tagOk : Bool) (s : State) : Out :=
  .next <| s.whenLive fun s => s.contextFetched conn.toNat tagOk

/-- Whether a request waits for a page. -/
def Stall.forPage (x : Stall) : Bool :=
  match x.reason with
  | .page _ => true
  | _ => false

/-- PAGING_STALL_LIMIT (R342): RETRY_AFTER 10; the migration goes on, and the frames behind the request are discarded. -/
def execPagingStallLimit (conn : BitVec 16) (s : State) : Out :=
  .next <| s.whenLive fun s =>
    match s.conn conn.toNat with
    | some k =>
      match k.stalled with
      | some x =>
        if x.forPage && x.since + s.fld asfPaging_stallLimitUs 0 * ticksPerUs ≤ s.now then
          let s := (s.modConn conn.toNat fun k => { k with stalled := none }).retryAfter conn.toNat x.rx 10
          ((s.pump conn.toNat k.waitingRx.length).settleRegions.sequenceHeld).noteEpoch
        else s
      | none => s
    | none => s

/-- Whether a context waits for an answer of its peer. -/
def Conn.waits (k : Conn) : Bool := k.state ≠ .dead && (!k.unacked.isEmpty || k.state = .opening || (k.state = .closing && k.cmd.isNone))

/-- DEAD_TARGET_TIMEOUT (R345). -/
def execDeadTargetTimeout (conn : BitVec 16) (s : State) : Out :=
  .next <| s.whenLive fun s =>
    match s.conn conn.toNat with
    | some k =>
      if k.waits && k.lastResponse + s.fld asfTimers_timeoutUs 0 * ticksPerUs ≤ s.now then
        (match k.state with
          | .opening => s.openFails conn.toNat 0x22 0
          | _ => s.killConn conn.toNat 1).noteEpoch
      else s
    | none => s

/-! ### Ports and maps (R316, R337, R348) -/

/-- Connections whose bound port is no longer usable, and those without one, bind again and resend. -/
def State.rebind (s : State) : State :=
  (s.asf.conns.filter fun c => !s.bound c.2).foldl (fun s c =>
    let s := s.modConn c.1 fun k => s.binding c.1 k
    if c.2.state = .opening then s.sendConnect c.1 else s.resend c.1) s

/-- Where a frame that is no request goes when its port goes down. -/
def State.moveFrame (s : State) (cls : Nat) (x : Nat × Frame) : State :=
  let f := x.2
  let port := match s.conn f.srcConn.toNat with
    | some k => if f.op.toNat < 0x10 then s.portOf f.srcConn.toNat k else pickPort s.ownPorts (connHash s.ownNode f.dstNode.toNat f.srcConn.toNat)
    | none => pickPort s.ownPorts (connHash s.ownNode f.dstNode.toNat f.srcConn.toNat)
  match port with
  | some q => s.enqueue q cls x.1 f
  | none => s

/-- A port carries no more traffic: its connections rebind, and what else it had queued goes to the ports that remain. -/
def State.portDown (s : State) (q : Nat) : State :=
  let s := s.worked (89 + q)
  let left := (List.range 8).map fun cls => (cls, (s.txqueue q cls).filter fun x => !isRequest x.2.op.toNat && x.2.op ≠ 0x0B)
  let s := { s with asf := { s.asf with
    links := s.asf.links.filter (· ≠ q)
    txq := mfilter s.asf.txq fun k _ => k / 8 ≠ q } }
  let s := s.rebind
  left.foldl (fun s x => x.2.foldl (fun s f => s.moveFrame x.1 f) s) s

/-- PORT_LINK_DOWN (R337). -/
def execPortLinkDown (port : Fin 8) (s : State) : Out :=
  .next <| s.whenLive fun s => if s.asf.links.contains port.val then s.portDown port.val else s

/-- Whether the reference that feeds a port's SerDes is there (R498). -/
def State.portRef (s : State) (q : Nat) : Bool := if q < 4 then s.pln.refA else s.pln.refB

/-- PORT_LINK_UP (R315). -/
def execPortLinkUp (port : Fin 8) (s : State) : Out :=
  .next <| s.whenLive fun s =>
    if s.asf.links.contains port.val || !s.portRef port.val then s
    else
      let s := if s.domainState (89 + port.val) = 0 then s else s.comeUp (89 + port.val)
      ({ s with asf := { s.asf with links := s.asf.links ++ [port.val] } }).rebind

end Sys2Proof.Machine
end

