-- ==== Sys2Proof/Machine/AsithCmd.lean ====
section
/-! DEFINITION. Asith's commands: regions, connections and map epochs (R324 to R329, R336, R347, R348). -/

set_option Elab.async false

namespace Sys2Proof.Machine

/-! ### REGION_REGISTER (R324 to R326) -/

/-- Whether a range overlaps a draining region. -/
def State.overlapsDraining (s : State) (base len : Nat) : Bool :=
  s.asf.regions.any fun r => r.2.draining && base < r.2.base + r.2.len && r.2.base < base + len

/-- Whether a frame may lie under a region: firmware, weights and the reserved channels hold none of it. -/
def State.frameOpen (s : State) (k : Nat) : Bool :=
  !s.withheld k && !s.reserved (channelOf k)

/-- Moves the page of a frame to another frame of the pool, and gives the frame to a region. -/
def State.clearFrame (s : State) (i k : Nat) : Option State :=
  match mget s.tiers.frames k with
  | some (.home key) =>
    match s.groupOf key with
    | none => none
    | some (g, _) =>
      match s.pickFrame (key / 2 ^ 32) (g % 2 ^ 32) (key - g) with
      | none => none
      | some f => some { s with tiers := { s.tiers with
          frames := mset (mset s.tiers.frames f (.home key)) k (.region i)
          pages := mmod s.tiers.pages key fun e => { e with loc := f } } }
  | some (.dest key) =>
    let s := s.abandonMove key
    some { s with tiers := { s.tiers with frames := mset s.tiers.frames k (.region i) } }
  | some _ => some s
  | none => some { s with tiers := { s.tiers with frames := mset s.tiers.frames k (.region i) } }

/-- Clears every frame of a list. -/
def State.clearFrames (s : State) (i : Nat) : List Nat → Option State
  | [] => some s
  | k :: ks =>
    match s.clearFrame i k with
    | some s => State.clearFrames s i ks
    | none => none

/-- The generation of an index's next key: 20 bits, never 0. -/
def State.nextGen (s : State) (i : Nat) : Nat := mgetD s.asf.gens i 0 % (2 ^ 20 - 1) + 1

/-- Registers a region and answers its index: a status where it cannot. -/
def State.addRegion (s : State) (r : Region) : State × Nat × Nat :=
  if s.overlapsDraining r.base r.len then (s, 0x13, 0)
  else
    match (List.range 4096).find? fun i => !mhas s.asf.regions i with
    | none => (s, 0x12, 0)
    | some i =>
      let g := s.nextGen i
      let frames := if r.inDram then framesOf r.base r.len else []
      if !frames.all s.frameOpen then (s, 0x13, 0)
      else
        let held := frames.foldl (fun m k => if mhas m k then m else mset m k (.region i)) s.tiers.frames
        let marked := { s with tiers := { s.tiers with frames := held } }
        match marked.clearFrames i (frames.filter fun k => mhas s.tiers.frames k) with
        | none => (s, 0x12, 0)
        | some t =>
          let t := { t with asf := { t.asf with regions := mset t.asf.regions i { r with gen := g }, gens := mset t.asf.gens i g } }
          (if r.inDram then t.notePool else t, 0, g * 4096 + i)

/-- REGION_REGISTER's effect. -/
def effRegionRegister (d : Pend) (s : State) : State :=
  match s.addRegion ⟨0, d.par 16 8, d.par 24 8, d.par 32 1, s.ownNode, d.fn, false, none, none⟩ with
  | (s, status, key) => s.finish d.id status 0 key

/-- REGION_REGISTER (R324). -/
def execRegionRegister (c : Cmd) (s : State) : Out := .next (s.plain 0x50 c effRegionRegister)

/-! ### REGION_REVOKE (R329) -/

/-- REGION_REVOKE's effect. -/
def effRegionRevoke (d : Pend) (s : State) : State :=
  let i := d.obj % 4096
  match mget s.asf.regions i with
  | none => s.finish d.id 1 0 0
  | some r =>
    if r.gen ≠ d.obj / 4096 || r.draining || r.fn ≠ d.fn then s.finish d.id 1 0 0
    else
      let s := { s with asf := { s.asf with regions := mset s.asf.regions i { r with draining := true } } }
      (s.await d.id (.revoke i)).settleRegions

/-- REGION_REVOKE (R329). -/
def execRegionRevoke (c : Cmd) (s : State) : Out := .next (s.plain 0x51 c effRegionRevoke)

/-! ### CONN_OPEN, CONN_CLOSE (R336) -/

/-- CONN_OPEN's effect. -/
def effConnOpen (d : Pend) (s : State) : State :=
  let node := d.par 16 2
  s.freeConn.elim (s.finish d.id 0x12 0x12 0) fun c =>
    if !s.reachable node then s.finish d.id 0x22 0 0
    else
      let k := s.binding c { Conn.fresh d.fn node (d.par 18 1) s.now with cmd := some d.id }
      (((s.setConn c k).trimCache).await d.id (.connOpen c)).sendConnect c

/-- CONN_OPEN (R336). -/
def execConnOpen (c : Cmd) (s : State) : Out := .next (s.plain 0x52 c effConnOpen)

/-- Closes a connection: at once where it is DEAD, and with DISCONNECT behind its last operation otherwise. -/
def State.closeConn (s : State) (c : Nat) (k : Conn) (cmd : Option Nat) : State :=
  match k.state, cmd with
  | .dead, some id => (s.dropConn c).finish id 0 0 0
  | .dead, none => s.dropConn c
  | _, some id => ((s.modConn c fun k => { k with state := .closing, cmd := some id }).await id (.connClose c)).settleClose c
  | _, none => s.modConn c fun k => { k with state := .closing }

/-- CONN_CLOSE's effect. -/
def effConnClose (d : Pend) (s : State) : State :=
  match s.conn d.obj with
  | none => s.finish d.id 1 0 0
  | some k =>
    if k.fn ≠ d.fn || !k.mine || k.bulk.isSome || k.state = .closing || k.state = .opening then s.finish d.id 1 0 0
    else s.closeConn d.obj k (some d.id)

/-- CONN_CLOSE (R336). -/
def execConnClose (c : Cmd) (s : State) : Out := .next (s.plain 0x53 c effConnClose)

/-! ### EPOCH_SET (R347, R348) -/

/-- The node number of a map row. -/
def rowNode (r : BitVec 256) : Nat := r.toNat % 2 ^ 16

/-- The map entry of a row: the address's bytes stand in network order. -/
def rowEntry (r : BitVec 256) : MapEntry where
  fdom := r.toNat / 2 ^ 16 % 256
  valid := r.toNat / 2 ^ 24 % 2 = 1
  ports := r.toNat / 2 ^ 32 % 256
  mac := r.toNat / 2 ^ 64 % 2 ^ 48
  ip := BitVec.ofNat 128 (ofLe (leBytes 16 (r.toNat / 2 ^ 128)).reverse)

/-- Whether rows stand in ascending node number. -/
def rowsRise : List (BitVec 256) → Bool
  | [] => true
  | [_] => true
  | a :: b :: rs => decide (rowNode a < rowNode b) && rowsRise (b :: rs)

/-- Whether a map is one that EPOCH_SET takes. -/
def State.mapOk (s : State) (rows : List (BitVec 256)) : Bool :=
  1 ≤ rows.length && rows.length ≤ 65536 && rowsRise rows && match rows.find? fun r => rowNode r = s.ownNode with
    | some r => (rowEntry r).fdom = s.fld asfNode_fdom 0 && (rowEntry r).mac = s.fld asfMac_baseMac 0
    | none => false

/-- Installs a map under an epoch: connections rebind, and those to nodes that the map no longer reaches are dead (R345, R349). -/
def State.installMap (s : State) (e : Nat) (map : AMap MapEntry) : State :=
  let had := s.flag asfEpoch_installed 0
  let s := { s with asf := { s.asf with map := map, oldMap := if had then s.asf.map else [], oldSince := s.now } }
  let s := (s.setFld asfEpoch_previous 0 (s.fld asfEpoch_current 0)).setFlag asfEpoch_prevLive 0 had
  let s := (s.setFld asfEpoch_current 0 e).setFlag asfEpoch_installed 0 true
  let s := if (mget map s.ownNode).any fun (x : MapEntry) => x.valid then s.setFlag resStat_fenced 0 false else s
  let dead := s.asf.conns.filter fun c => c.2.state ≠ .dead && !s.reachable c.2.node
  let s := dead.foldl (fun s c => if c.2.state = .opening then s.openFails c.1 0x22 0 else s.killConn c.1 1) s
  s.rebind.noteEpoch

/-- Whether an epoch lies ahead of the current one (R348). -/
def State.epochAhead (s : State) (e : Nat) : Bool :=
  let ahead := (e + 256 - s.fld asfEpoch_current 0) % 256
  1 ≤ ahead && ahead ≤ 127

/-- The host's map supersedes a derived one, and nodes that it names VALID are lost no longer (R388). -/
def State.supersede (s : State) : State :=
  { s with
    res := { s.res with pendingMap := [] }
    asf := { s.asf with lost := s.asf.lost.filter fun n => !(match mget s.asf.map n with
      | some e => e.valid
      | none => false) } }

/-- EPOCH_SET's effect. -/
def effEpochSet (map : List (BitVec 256)) (d : Pend) (s : State) : State :=
  let e := d.obj % 256
  if !s.mapOk map then s.finish d.id 0x11 0 0
  else if s.flag asfEpoch_prevLive 0 then s.finish d.id 0x13 0 0
  else if s.flag asfEpoch_installed 0 && !s.epochAhead e then s.finish d.id 0x20 0 0
  else ((s.installMap e (map.map fun r => (rowNode r, rowEntry r))).supersede.askSlices).finish d.id 0 0 0

/-- EPOCH_SET (R348). -/
def execEpochSet (c : Cmd) (map : List (BitVec 256)) (s : State) : Out := .next (s.command 0x54 c [] 0 (effEpochSet map))

/-! ### Derived maps (R388) -/

/-- The map of a loss decision: the current one with the lost node marked not VALID. -/
def State.mapWithout (s : State) (n : Nat) : AMap MapEntry := mmod s.asf.map n fun e => { e with valid := false }

/-- A derived map is installed at once, or once the old map that is still live has ceased to be. -/
def State.deriveMap (s : State) (n e : Nat) : State :=
  if !s.flag asfEpoch_installed 0 then s
  else if s.flag asfEpoch_prevLive 0 then { s with res := { s.res with pendingMap := s.res.pendingMap ++ [(n, e)] } }
  else if s.epochAhead e then s.installMap e (s.mapWithout n)
  else s

/-- The derived map that has waited longest is installed. -/
def State.derivePending (s : State) : State :=
  match s.res.pendingMap with
  | [] => s
  | x :: xs => State.deriveMap { s with res := { s.res with pendingMap := xs } } x.1 x.2

/-- OLD_EPOCH_EXPIRE (R348, R388): nothing of the old epoch is in flight, or 10 ms have passed. -/
def execOldEpochExpire (s : State) : Out :=
  .next <| s.whenLive fun s =>
    if s.flag asfEpoch_prevLive 0 && (s.oldInflight = 0 || s.asf.oldSince + 10 * ticksPerMs ≤ s.now) then
      ((({ s with asf := { s.asf with oldMap := [] } }).setFlag asfEpoch_prevLive 0 false).noteEpoch).derivePending
    else s

end Sys2Proof.Machine
end

