-- ==== Sys2Proof/Machine/Security.lean ====
section
/-! DEFINITION. Images and their verification, fuses, the lifecycle, debug tokens and host-stream recovery (R452 to R475). -/

set_option Elab.async false

namespace Sys2Proof.Machine

/-! ### Images (R457, R458) -/

/-- The number in `n` bytes at an offset of an image or a token. -/
def numberAt (b : List (BitVec 8)) (o n : Nat) : Nat := ofLe ((b.drop o).take n)

/-- Whether `n` bytes at an offset are 0. -/
def zeroAt (b : List (BitVec 8)) (o n : Nat) : Bool := ((b.drop o).take n).all (· = 0)

/-- Step 1: MAGIC, FORMAT and PART, SVN in its range, and the reserved bits and bytes. -/
def headerOk (b : List (BitVec 8)) : Bool :=
  2048 ≤ b.length && numberAt b 0 4 = 0x51564657 && numberAt b 4 2 = 1 && numberAt b 6 2 = 0x9400 && numberAt b 8 4 ≤ 64 &&
    numberAt b 12 4 < 2 && zeroAt b 72 952

/-- The body of an image. -/
def imageBody (b : List (BitVec 8)) : List (BitVec 8) := (b.drop 2048).take (numberAt b 16 4)

/-- Step 3: the signer is in a vendor key slot that is programmed and not revoked. -/
def Sec.knowsSigner (x : Sec) (modulus : List (BitVec 8)) : Bool :=
  (List.range 2).any fun i =>
    x.revoked / 2 ^ i % 2 = 0 && (i = 0 || x.secondKey) && Config.sha384 modulus = Config.vendorKeyHash i x.fuseWords

/-- The first step of R458 that an image fails, or 0. `torn` says that its programming was cut short, which step 5 shows. -/
def Sec.imageResult (x : Sec) (b : List (BitVec 8)) (torn : Bool) : Nat :=
  let signer := (b.drop 1024).take 512
  if !headerOk b then 1
  else if numberAt b 16 4 = 0 || 67106816 < numberAt b 16 4 || b.length < 2048 + numberAt b 16 4 then 2
  else if !x.knowsSigner signer then 3
  else if !Config.pssVerify signer (b.take 1536) ((b.drop 1536).take 512) then 4
  else if torn || digestBytes (Config.sha384 (imageBody b)) ≠ (b.drop 24).take 48 then 5
  else if numberAt b 8 4 < x.floor then 6
  else 0

/-- A failed image: SEC_BOOT.RESULT and a plinth record, code 2 for step 6 (R458). -/
def State.imageFails (s : State) (step : Nat) : State :=
  let e := errorOf 0 0x0E (if step = 6 then 2 else 1) 0
  let s := (s.setFld secBoot_result 0 step).raise e
  s.plinthPush { errorRecord e s.now with id := s.res.nextErr }

/-- An accepted image: it is the running one, and COMMIT_SVN raises the floor; the ROM goes on to the identity. -/
def State.imageRuns (s : State) (b : List (BitVec 8)) (streamed : Bool) : State :=
  let svn := numberAt b 8 4
  let floor := if numberAt b 12 4 % 2 = 1 && s.sec.floor < svn then svn else s.sec.floor
  let s := { s with sec := { s.sec with image := some (Config.sha384 (imageBody b), svn), floor := floor } }
  let s := ((s.setFld secBoot_svnFloor 0 floor).setFld secBoot_svn 0 svn).setFlag secBoot_streamed 0 streamed
  (s.setFlag secRecovery_ready 0 false).setFld plnBoot_stage 0 5

/-- The ROM waits for a streamed image (R459, R460). -/
def State.toRecovery (s : State) : State := (s.setFld plnBoot_stage 0 4).setFlag secRecovery_ready 0 true

/-- Verifies what the host has streamed into the recovery window. -/
def State.streamedImage (s : State) : State :=
  let b := Cells.readList s.staging 0 (s.fld secRecovery_length 0)
  let cert := Cells.readList s.staging 0x4000000 (s.fld secRecovery_certLength 0)
  match s.sec.imageResult b false with
  | 0 => ({ s with sec := { s.sec with cert := if cert.isEmpty then s.sec.cert else cert } }).imageRuns b true
  | r => ({ s.imageFails r with staging := [] }).toRecovery

/-- SEC_RECOVERY_GO (R460). -/
def execSecRecoveryGo (fn : Fn) (lane : Lane) (v : BitVec 64) (s : State) : Out :=
  .next <| s.whenKept .secRecovery 0 fun s =>
    let go := s.pulled (fnNum fn) lane secRecovery_go 0 v
    let s := s.writeFields (fnNum fn) lane .secRecovery 0 v
    if go && s.stage = 4 && s.flag secRecovery_ready 0 && s.fld secRecovery_length 0 ≠ 0 then s.streamedImage else s

/-! ### FW_IMAGE (R461, R505) -/

/-- The programming of boot flash ends: the new image runs from the next start-up. -/
def State.programmingEnds (s : State) : State :=
  match s.sec.programming with
  | some (id, b) => ({ s with sec := { s.sec with bootFlash := some b, torn := false, programming := none } }).finish id 0 0 0
  | none => s

/-- PFAIL_N stops the programming: the stored image is torn. -/
def State.programmingStops (s : State) : State :=
  match s.sec.programming with
  | some (id, b) => ({ s with sec := { s.sec with bootFlash := some b, torn := true, programming := none } }).finish id 0x31 0 0
  | none => s

/-- FW_IMAGE's effect, with the image at its address. -/
def effFwImage (image : List (BitVec 8)) (d : Pend) (s : State) : State :=
  let b := image.take (d.par 24 4)
  if s.sec.imageResult b false ≠ 0 || s.sec.bootFlash.isNone then s.finish d.id 0x30 0 0
  else
    let check := if s.fld ftlHoldupCfg_cap 0 = 0 then (true, s) else s.holdupCheck d.code b.length
    let s := check.2
    if !check.1 || s.pln.pfail then s.finish d.id 0x31 0 0
    else
      let s := s.programmingEnds
      ({ s with sec := { s.sec with programming := some (d.id, b) } }).await d.id .firmware

/-- FW_IMAGE (R461). -/
def execFwImage (c : Cmd) (image : List (BitVec 8)) (code : BitVec 12) (s : State) : Out :=
  .next (s.command 0xE0 c [] code (effFwImage image))

/-! ### Debug tokens (R471, R472) -/

/-- SHA-384 of the DeviceID public modulus (R471). -/
def State.deviceDigest (s : State) : Option (List (BitVec 8)) :=
  s.sec.identity.map fun x => digestBytes (Config.sha384 x.device)

/-- Whether a token passes the checks of R472. -/
def State.tokenOk (s : State) (t : List (BitVec 8)) : Bool :=
  let signer := (t.drop 128).take 512
  t.length = 1152 && numberAt t 0 4 = 0x51564454 && s.deviceDigest = some ((t.drop 4).take 48) &&
    numberAt t 52 8 = s.fld secDbgNonce0_nonce 0 && numberAt t 60 8 = s.fld secDbgNonce1_nonce 0 &&
    numberAt t 68 1 < 8 && numberAt t 69 1 < 16 && zeroAt t 70 58 &&
    s.sec.ownerKey && Config.sha384 signer = Config.ownerKeyHash s.sec.fuseWords &&
    Config.pssVerify signer (t.take 640) ((t.drop 640).take 512)

/-- DEBUG_TOKEN's effect, with the token at its address. -/
def effDebugToken (token : List (BitVec 8)) (d : Pend) (s : State) : State :=
  if s.lifecycle ≠ 2 || s.sec.fieldLock then s.finish d.id 0x30 0 0
  else if !s.tokenOk token then (s.raise (errorOf 0 0x0E 3 0)).finish d.id 0x30 0 0
  else
    let s := (s.setFld glbLifecycle_state 0 3).setFlag secDebug_active 0 true
    let s := (s.setFld secDebug_partition 0 (numberAt token 69 1)).setFld secDebug_features 0 (numberAt token 68 1)
    s.drawNonce.finish d.id 0 0 0

/-- DEBUG_TOKEN (R472). -/
def execDebugToken (c : Cmd) (token : List (BitVec 8)) (s : State) : Out := .next (s.command 0xE1 c [] 0 (effDebugToken token))

/-! ### The lifecycle (R453 to R456) -/

/-- The key store is zeroised (R453, R475). -/
def State.zeroise (s : State) : State :=
  { s with
    sec := { s.sec with
      identity := none, sealed := none, xtsDraw := [], stateKey := none, durableKey := none, contextKey := none, spdm := Sec.reset.spdm, ide := [] }
    asf := { s.asf with nodeKeys := [], groupTx := [] } }

/-- The fused state changes. -/
def State.setFused (s : State) (x : Nat) : State :=
  ({ s with sec := { s.sec with fused := x } }).setFld glbLifecycle_state 0 x

/-- RETIRED: keys and the durable granules under them are gone, both quarantine copies are erased (R468, R510), and the device resets. -/
def State.retire_ (s : State) : State :=
  let s := ((s.zeroise).setFused 4).setFlag plnQstate_flashValid 0 false
  let s := { s with
    sec := { s.sec with uds := none }
    ftl := { s.ftl with durable := [], durableAt := [] } }
  s.reboot 2 2

/-- FIELD_LOCK is blown (R456). -/
def State.lockField (s : State) : State :=
  ({ s with sec := { s.sec with fieldLock := true } }).setFlag glbLifecycle_fieldLock 0 true

/-- LIFECYCLE_SET's effect, by target and present state. -/
def effLifecycleSet (d : Pend) (s : State) : State :=
  match d.par 16 1, s.lifecycle with
  | 1, 0 =>
    let s := { s with sec := { s.sec with uds := some s.freeCtr }, freeCtr := s.freeCtr + 1 }
    (s.setFused 1).finish d.id 0 0 0
  | 2, 1 => (s.setFused 2).finish d.id 0 0 0
  | 2, 3 => s.endFieldDebug.finish d.id 0 0 0
  | 4, 1 => (s.finish d.id 0 0 0).retire_
  | 4, 2 => (s.finish d.id 0 0 0).retire_
  | 4, 3 => (s.endFieldDebug.finish d.id 0 0 0).retire_
  | 0x80, 1 => if s.sec.fieldLock then s.finish d.id 0x13 0 0 else s.lockField.finish d.id 0 0 0
  | 0x80, 2 => if s.sec.fieldLock then s.finish d.id 0x13 0 0 else s.lockField.finish d.id 0 0 0
  | _, _ => s.finish d.id 0x13 0 0

/-- LIFECYCLE_SET (R453). -/
def execLifecycleSet (c : Cmd) (s : State) : Out := .next (s.plain 0xE2 c effLifecycleSet)

/-! ### Fuse programming (R455) -/

/-- SEC_FUSE_PROG_WRITE (R455): a fuse that is blown stays blown; what the words hold shows from the next start-up that loads the fuses. -/
def execSecFuseProgWrite (fn : Fn) (i : Fin 16) (lane : Lane) (v : BitVec 64) (s : State) : Out :=
  .next <| s.whenKept .secFuseProg i.val fun s =>
    match s.triggered (fnNum fn) lane secFuseProg_word i.val v with
    | some w =>
      if s.sec.fused ≤ 1 then
        { s with sec := { s.sec with fuseWords := mset s.sec.fuseWords i.val (mgetD s.sec.fuseWords i.val 0 ||| BitVec.ofNat 64 w) } }
      else s
    | none => s

/-- Whether a fuse word of a kind has been blown through SEC_FUSE_PROG. -/
def Sec.blown (x : Sec) (kind : Nat) : Bool := x.fuseWords.any fun w => w.2 ≠ 0 && Config.fuseWord w.1 = kind

end Sys2Proof.Machine
end

