-- ==== Sys2Proof/Machine/Debug.lean ====
section
/-! DEFINITION. Debug: trace commands, halting with drain, the debug memory read, the global stop and the scan-out (R474 to R490). -/

set_option Elab.async false

namespace Sys2Proof.Machine

/-! ### Trace (R479 to R485) -/

/-- The settings that a TRACE_CONFIG names. -/
def Pend.trace (d : Pend) (t : Trace) : Trace :=
  { t with
    enable := d.par 16 1 % 2 = 1
    stall := d.par 16 1 / 2 % 2 = 1
    payload := d.par 16 1 / 4
    parts := d.par 18 2
    kinds := d.par 20 4
    pre := d.par 24 4
    post := d.par 28 4
    triggers := d.par 32 1
    trigSev := d.par 33 1
    trigKind := d.par 34 1
    trigWait := d.par 36 4 }

/-- TRACE_CONFIG's effect (R482). -/
def effTraceConfig (d : Pend) (s : State) : State :=
  let t := d.trace s.trace
  if !s.traceAllows t.payload t.stall then s.finish d.id 0x30 0 0 else (s.configTrace t).finish d.id 0 0 0

/-- TRACE_CONFIG (R482). -/
def execTraceConfig (c : Cmd) (s : State) : Out := .next (s.plain 0x80 c effTraceConfig)

/-- TRACE_TRIGGER's effect (R482). -/
def effTraceTrigger (d : Pend) (s : State) : State :=
  if s.trace.armedFor 0 then (s.fireTrigger 0).finish d.id 0 0 0 else s.finish d.id 0x13 0 0

/-- TRACE_TRIGGER (R483). -/
def execTraceTrigger (c : Cmd) (s : State) : Out := .next (s.plain 0x81 c effTraceTrigger)

/-- TRACE_RECORD (R484). -/
def execTraceRecord (r : TraceRec) (s : State) : Out := .next (s.whenLive fun s => s.traceEvent r)

/-- TRACE_FRAME (R485). -/
def execTraceFrame (s : State) : Out := .next (s.whenLive fun s => s.sendTrace)

/-! ### Halting with drain (R486 to R488) -/

/-- Whether feature C is available for a partition. -/
def State.mayHalt (s : State) (p : Nat) : Bool :=
  match s.debugColumn with
  | 1 => false
  | 2 => s.tokenGives 0 p
  | _ => true

/-- Whether everything that a partition had started has ended: its entries, its operations and its Ladle transfers. -/
def State.drained (s : State) (p : Nat) : Bool :=
  ((s.part p).runs.all fun r => match r.2 with
    | .running _ => false
    | _ => true) &&
  (s.gen.channels.all fun c => c.2.queue.all (fun d => d.1 ≠ p) && c.2.running.all (fun (d : Nat × BitVec 256 × Tick) => d.1 ≠ p)) &&
  s.tiers.moves.all fun m => m.1 / 2 ^ 32 ≠ p

/-- A halt whose drain has ended: DRAINED is set, the cycle's uncommitted appends count no longer, and DEBUG_HALT replies. -/
def State.settleHalt (s : State) (p : Nat) : State :=
  if (s.part p).halted && !s.flag dbgHalt_drained p && s.drained p then
    let s := (s.setFlag dbgHalt_drained p true).modPart p fun x => { x with runs := [] }
    let s := { s with seqs := mmap s.seqs fun _ q => if q.part = p then q.discardStep else q }
    (s.cmdsWhere fun c => c.wait = .halt p).foldl (fun s c => s.finish c.id 0 0 0) s
  else s

/-- Every halt whose drain has ended. -/
def State.settleHalts (s : State) : State := s.parts.foldl (fun s x => s.settleHalt x.1) s

/-- A partition halts: its table issues nothing further, and its queues are not fetched. -/
def State.haltPart (s : State) (p : Nat) : State :=
  ((s.modPart p fun x => { x with halted := true }).setFlag dbgHalt_halted p true).settleHalt p

/-- DEBUG_HALT's effect (R486). -/
def effDebugHalt (d : Pend) (s : State) : State :=
  if !s.mayHalt d.obj || s.fld schGroup_members d.obj ≠ 0 then s.finish d.id 0x30 0 0
  else if s.flag dbgHalt_drained d.obj then s.finish d.id 0 0 0
  else (s.await d.id (.halt d.obj)).haltPart d.obj

/-- DEBUG_HALT (R487). -/
def execDebugHalt (c : Cmd) (s : State) : Out := .next (s.plain 0x82 c effDebugHalt)

/-- BREAKPOINT_HIT (R486): the partitions whose firmware the core runs. -/
def execBreakpointHit (core : Fin 16) (s : State) : Out :=
  .next <| s.whenLive fun s =>
    ((List.range 16).filter fun p => s.fld dbgHalt_cores p / 2 ^ core.val % 2 = 1).foldl (fun s p =>
      if s.mayHalt p && s.fld schGroup_members p = 0 && !(s.part p).halted then s.haltPart p else s) s

/-- DBG_HALT_RESUME (R488). -/
def execDbgHaltResume (fn : Fn) (p : Fin 16) (lane : Lane) (v : BitVec 64) (s : State) : Out :=
  .next <| s.whenKept .dbgHalt p.val fun s =>
    if s.pulled (fnNum fn) lane dbgHalt_resume p.val v && s.mayHalt p.val then s.resumeHalt p.val else s

/-! ### DEBUG_MEM_READ (R478) -/

/-- Whether the matrix gives a space for a partition. -/
def State.maySee (s : State) (p space : Nat) : Bool :=
  match s.debugColumn with
  | 1 => false
  | 2 => space ≠ 2 && s.tokenGives 1 p
  | _ => true

/-- A byte of a list, 0 beyond it. -/
def byteOf (bs : List (BitVec 8)) (i : Nat) : BitVec 8 := bs.getD i 0

/-- A byte of a state range: of a page of an assigned group. -/
def State.stateByte (s : State) (p o : Nat) : BitVec 8 :=
  let key := pageKey p (o / 65536)
  if o < 2 ^ 48 && (s.groupOf key).isSome then Cells.read s.tiers.bytes (pageByte key (o % 65536)) else 0

/-- A group entry's 16 bytes (R282). -/
def Group.entry (g : Group) (n : Nat) : List (BitVec 8) :=
  let ext := match g.extent with
    | some e => 2 ^ 63 + e
    | none => 0
  leBytes 8 (1 + bit g.prot * 2 + g.tenant * 2 ^ 2 + g.handle * 2 ^ 14 + n * 2 ^ 32) ++
    leBytes 8 (ext + bit g.pin * 2 ^ 62 + bit g.frozen * 2 ^ 61 + (g.layers - 1) * 2 ^ 40)

/-- A page entry's word (R282). -/
def Page.entry (x : Page) : Nat :=
  let loc := if x.tier = 1 then x.loc / 1536 * 2 ^ 11 + x.loc % 1536 else x.loc
  loc + (if x.tier = 2 then x.lodging else 0) * 2 ^ 48 + bit x.moving * 2 ^ 57 + x.age * 2 ^ 58 + bit x.ref * 2 ^ 61 + x.tier * 2 ^ 62

/-- A sequence of a partition. -/
def State.seqIn (s : State) (p h : Nat) : Option Seq := (mget s.seqs h).filter fun q => q.part = p

/-- A 32-bit entry's byte. -/
def wordByte (w o : Nat) : BitVec 8 := byteOf (leBytes 4 w) (o % 4)

/-- A byte of the metadata space. -/
def State.metaByte (s : State) (p o : Nat) : BitVec 8 :=
  if o < 512 * 2 ^ 18 then
    match s.seqIn p (o / 512) with
    | some q => byteOf (q.descriptor (o / 512)) (o % 512)
    | none => 0
  else if 0x01_0000_0000 ≤ o && o < 0x01_0000_0000 + 1024 * 2 ^ 18 then
    let x := o - 0x01_0000_0000
    match s.seqIn p (x / 1024) with
    | some q => wordByte (mgetD q.leaves (x % 1024 / 4) 0xFFFFFFFF) x
    | none => 0
  else if 0x02_0000_0000 ≤ o && o < 0x02_0000_0000 + 4096 * 262144 then
    let x := o - 0x02_0000_0000
    let found := s.seqs.findSome? fun q =>
      if q.2.part = p then (q.2.leaves.find? fun l => l.2 = x / 4096).map fun (l : Nat × Nat) => (l.1, q.2) else none
    match found with
    | some f => wordByte (mgetD f.2.pages (f.1 * 1024 + x % 4096 / 4) 0xFFFFFFFF) x
    | none => 0
  else if 0x10_0000_0000 ≤ o && o < 0x10_0000_0000 + 16 * 2 ^ 32 then
    let x := o - 0x10_0000_0000
    match mget s.tiers.groups (pageKey p (x / 16)) with
    | some g => byteOf (g.entry (x / 16)) (x % 16)
    | none => 0
  else if 0x20_0000_0000 ≤ o && o < 0x20_0000_0000 + 8 * 2 ^ 32 then
    let x := o - 0x20_0000_0000
    match mget s.tiers.pages (pageKey p (x / 8)) with
    | some e => if e.tier = 3 then 0xFF else byteOf (leBytes 8 e.entry) (x % 8)
    | none => 0xFF
  else 0

/-- A byte of the logic-side address map (R529), as stored. -/
def State.logicByte (s : State) (a : Nat) : BitVec 8 :=
  if a < 0x30_0000_0000 then s.dramByte (deinterleave a)
  else if 0x40_0000_0000 ≤ a && a < 0x70_0000_0000 then s.dramByte (a - 0x40_0000_0000)
  else if 0x80_0000_0000 ≤ a && a < 0x80_0800_0000 then Cells.read s.staging (a - 0x80_0000_0000)
  else if 0x90_0000_0000 ≤ a && a < 0x90_0200_0000 then
    let o := a - 0x90_0000_0000
    match findReg 0 (o / 8 * 8) with
    | some x => byteOf (leBytes 8 (s.readReg 0 x.1 x.2).toNat) (o % 8)
    | none => 0
  else 0

/-- A byte of a space. -/
def State.debugByte (s : State) (p space o : Nat) : BitVec 8 :=
  match space with
  | 0 => s.stateByte p o
  | 1 => s.metaByte p o
  | _ => s.logicByte o

/-- The channel that holds a byte of a space, if it lies in DRAM. -/
def State.debugChannel (s : State) (p space o : Nat) : Option Nat :=
  match space with
  | 0 => (mget s.tiers.pages (pageKey p (o / 65536))).bind fun x => if x.tier = 1 then some (channelOf x.loc) else none
  | 1 => none
  | _ =>
    if o < 0x30_0000_0000 then some (deinterleave o / 0xC000_0000)
    else if 0x40_0000_0000 ≤ o && o < 0x70_0000_0000 then some ((o - 0x40_0000_0000) / 0xC000_0000)
    else none

/-- A debug read reaches the channels that hold what it reads, and wakes those that sleep (R477). -/
def State.debugWakes (s : State) (p space o len : Nat) : State :=
  (((List.range (len / 256 + 2)).filterMap fun i => s.debugChannel p space (min (o + 256 * i) (o + len - 1))).dedup).foldl
    (fun s c => s.arrivesAt (25 + c) 8) s

/-- DEBUG_MEM_READ's effect: the bytes are written to the destination, and nothing else that software holds changes. -/
def effDebugMemRead (d : Pend) (s : State) : State :=
  let space := d.par 40 1
  if !s.maySee d.obj space then s.finish d.id 0x30 0 0
  else
    let s := s.debugWakes d.obj space (d.par 16 8) (d.par 24 8)
    let bytes := (List.range (d.par 24 8)).map fun i => s.debugByte d.obj space (d.par 16 8 + i)
    (s.putBuffer d (d.par 32 8) bytes).finish d.id 0 0 0

/-- DEBUG_MEM_READ (R478). -/
def execDebugMemRead (c : Cmd) (s : State) : Out := .next (s.plain 0x83 c effDebugMemRead)

/-! ### The global stop and the plaster (R489, R490) -/

/-- Whether the hub runs and may be stopped. -/
def State.mayStop (s : State) : Bool := 2 ≤ s.stage && s.stage ≤ 7 && !s.pln.c6 && !s.pln.stopped

/-- DBG_GSTOP_ASSERT (R489): SINK is written, also in a stopped device, and ASSERT begins the stop. -/
def execDbgGstopAssert (fn : Fn) (lane : Lane) (v : BitVec 64) (s : State) : Out :=
  .next <|
    if s.pln.stopped then s.writeFields (fnNum fn) lane .dbgGstop 0 v
    else s.whenKept .dbgGstop 0 fun s =>
      let s' := s.writeFields (fnNum fn) lane .dbgGstop 0 v
      if s.pulled (fnNum fn) lane dbgGstop_assert 0 v then s'.globalStop 1 true else s'

/-- Whether the JTAG debug instructions are available; elsewhere they decode as BYPASS (R474). -/
def State.jtagDebug (s : State) : Bool := s.debugColumn = 0 || s.debugColumn = 3

/-- JTAG_GSTOP (R489). -/
def execJtagGstop (s : State) : Out := .next (if s.jtagDebug && s.mayStop then s.globalStop 2 true else s)

/-- Scans one domain out: a suppressed one, and one in D3, with no chain data. -/
def State.scanDomain (s : State) (chains : List (Nat × BitVec 32 × BitVec 32)) (d : Nat) : State :=
  let st := s.fld pwrDomStat_state d
  let x := ((chains.find? fun c => c.1 = d).map fun (c : Nat × BitVec 32 × BitVec 32) => c.2).getD (0, 0)
  let none_ : Bool := st = 3 || s.flag dbgGstop_suppressed 0
  s.emit (.scan (s.flag dbgGstop_sink 0) d st (if none_ then 0 else x.1.toNat) s.pln.stopTick (if none_ then 0 else x.2))

/-- The scan-out (R475, R490): BLANK and PROVISIONED zeroise the key store first, and FIELD and FIELD_DEBUG reset the chains instead. -/
def State.plaster (s : State) (chains : List (Nat × BitVec 32 × BitVec 32)) : State :=
  let s := match s.debugColumn with
    | 0 => (s.zeroise.setFlag secBoot_keysLost 0 true).raise (errorOf 0 0x0E 9 0)
    | 3 => s
    | _ => s.setFlag dbgGstop_suppressed 0 true
  (List.range 101).foldl (fun s d => s.scanDomain chains d) s

/-- PLASTER (R490): by DBG_GSTOP.PLASTER, or by the JTAG instruction. -/
def execPlaster (jtag : Bool) (chains : List (Nat × BitVec 32 × BitVec 32)) (s : State) : Out :=
  .next (if s.pln.stopped && (!jtag || s.jtagDebug) then s.plaster chains else s)

/-! ### Boundary scan (R476) -/

/-- JTAG_BOUNDARY_TAKEOVER (R476): the lands are handed over, in every lifecycle state. -/
def execJtagBoundaryTakeover (s : State) : Out :=
  .next <|
    if s.pln.boundaryScan || !s.pln.powered then s
    else
      let s := { s with pln := { s.pln with boundaryScan := true } }
      if s.mayStop then s.raise (errorOf 3 0x0E 7 0) else s

/-- JTAG_BOUNDARY_RELEASE (R476): the device resets when the instruction leaves. -/
def execJtagBoundaryRelease (s : State) : Out :=
  .next <|
    if !s.pln.boundaryScan then s
    else if 2 ≤ s.stage && !s.pln.c6 then s.reboot 2 2
    else { s with pln := { s.pln with boundaryScan := false } }

end Sys2Proof.Machine
end

