-- ==== Sys2Proof/Machine/Slices.lean ====
section
/-! DEFINITION. The mirror slices that this device holds for homes: their registration, their promotion when a home is lost, and the
stream of promoted sequences to a spare (R380 to R382, R392, R395). -/

set_option Elab.async false

namespace Sys2Proof.Machine

/-! ### Registration (R380, R326) -/

/-- The DRAM address of a de-interleaved address: the inverse of R124 and R125. -/
def reinterleave (d : Nat) : Nat :=
  let c := d / 0xC000_0000
  let b := d % 0xC000_0000 / 0x300_0000
  let o := d % 0x300_0000
  let h := o / 256
  let k := h * 64 + (low6 b ^^^ low6 h)
  let g := low6 c ^^^ low6 k ^^^ low6 h ^^^ low6 (h / 64) ^^^ low6 (h / 4096)
  (k * 64 + g) * 256 + o % 256

/-- Clears a range of DRAM that no page lies in. -/
def State.clearDram (s : State) (base len : Nat) : State :=
  { s with dram := s.dram.filter fun c => let a := reinterleave c.1; a < base || base + len ≤ a }

/-- A place for a region of some bytes, as firmware chooses it. -/
def State.regionBase (s : State) (len : Nat) : Nat × State :=
  (Config.regionPlace s.freeCtr % ((dramBytes - len) / 65536 + 1) * 65536, { s with freeCtr := s.freeCtr + 1 })

/-- The frame holder that stands for a promoted slice's frames. -/
def promotedUse (home : Nat) : FrameUse := .region (4096 + home)

/-- Tells a home of its slice. -/
def State.tellSlice (s : State) (home : Nat) (x : Slice) : State := s.send home (.sliceGrant x.base x.slots)

/-- Registers a slice for a home where MAX_SLICES allows one more and firmware finds a place; a home that has one is told of it. -/
def State.grantSlice (s : State) (home : Nat) : State :=
  match mget s.res.slices home with
  | some x => if x.state = 1 then s else s.tellSlice home x
  | none =>
    let slots := s.fld resMirrorCfg_slots 0
    let len := sliceBytes slots
    if s.fld resMirrorCfg_maxSlices 0 ≤ s.fld resMirrorCfg_slicesUsed 0 || slots < 1024 || dramBytes < len then s
    else
      let r := s.regionBase len
      match r.2.addRegion ⟨0, r.1, len, 3, home, 0, false, some home, none⟩ with
      | (t, 0, key) =>
        let x : Slice := ⟨key % 4096, r.1, slots, 0⟩
        let t := (t.clearDram r.1 len).writeDram r.1 (leBytes 2 home ++ leBytes 1 (s.fdomOf home) ++ leBytes 1 0 ++ leBytes 4 slots)
        let t := { t with res := { t.res with slices := mset t.res.slices home x } }
        (t.setFld resMirrorCfg_slicesUsed 0 t.res.slices.length).tellSlice home x
      | _ => r.2

/-- Whether a node may have a slice here: VALID in the map and of another failure domain (R376). -/
def State.sliceHome (s : State) (n : Nat) : Bool :=
  match mget s.asf.map n with
  | some e => e.valid && e.fdom != s.fld asfNode_fdom 0
  | none => false

/-- SLICE_REQUEST (R380). -/
def execSliceRequest (home : BitVec 16) (s : State) : Out :=
  .next (s.whenLive fun s => if s.sliceHome home.toNat then s.grantSlice home.toNat else s)

/-! ### What a slice holds (R97, R381, R382) -/

/-- A little-endian number in bytes. -/
def numAt (bs : List (BitVec 8)) (o n : Nat) : Nat := ofLe ((bs.drop o).take n)

/-- The good commit records of a slice: partition, copy, step. -/
def State.goodCommits (s : State) (base : Nat) : List (Nat × Nat × Nat) :=
  (List.range 16320).filterMap fun i =>
    let bs := s.readDram (base + sliceCommit i) 64
    if numAt bs 60 4 = (crc32c (bs.take 60)).toNat then some (numAt bs 8 1 % 16, numAt bs 9 1 % 2, numAt bs 16 8) else none

/-- The commit record with the highest STEP of a partition. -/
def lastCommit (l : List (Nat × Nat × Nat)) (p : Nat) : Option (Nat × Nat) :=
  (l.filter fun x => x.1 = p).foldl (fun best x => match best with
    | some b => if b.2 < x.2.2 then some x.2 else some b
    | none => some x.2) none

/-- A slot directory's entries in use: slot, handle, kind, index, layer. -/
def State.directory (s : State) (x : Slice) : List (Nat × Nat × Nat × Nat × Nat) :=
  (List.range x.slots).filterMap fun i =>
    let bs := s.readDram (x.base + sliceDir i) 16
    let kind := numAt bs 0 4 / 2 ^ 18 % 4
    if kind = 0 then none else some (i, numAt bs 0 4 % 2 ^ 18, kind, numAt bs 4 4, numAt bs 8 1)

/-- The descriptor of a handle that belongs to the state of the last commit records: the newer of the two copies that is not newer than
its partition's record (DESIGN CHOICE, log 84). -/
def State.sliceDescriptor (s : State) (x : Slice) (good : List (Nat × Nat × Nat)) (h : Nat) : Option (List (BitVec 8)) :=
  let read (c : Nat) : Option (List (BitVec 8)) :=
    let bs := s.readDram (x.base + sliceDesc c h) 512
    let st := numAt bs 0 8 / 2 ^ 18 % 16
    match lastCommit good (numAt bs 0 8 / 2 ^ 22 % 16) with
    | some r => if 1 ≤ st && st ≤ 8 && numAt bs 48 4 ≤ r.2 % 2 ^ 32 then some bs else none
    | none => none
  match read 0, read 1 with
  | some a, some b => if numAt a 48 4 < numAt b 48 4 then some b else some a
  | some a, none => some a
  | none, b => b

/-- The token at a position of a sequence's journal pages. -/
def State.sliceToken (s : State) (x : Slice) (journal : AMap Nat) (pos : Nat) : BitVec 32 :=
  match mget journal (pos / 16384) with
  | some k => BitVec.ofNat 32 (ofLe (s.readDram (x.base + sliceSlot x.slots k + pos % 16384 * 4) 4))
  | none => 0

/-- A sequence of a slice as the promoting partner takes it: MOVING, or REBUILD where it is not protected. -/
def State.sliceSeq (s : State) (x : Slice) (home h : Nat) (dir : List (Nat × Nat × Nat × Nat × Nat)) (d : List (BitVec 8)) : Seq :=
  let ident := numAt d 0 8
  let prot := ident / 2 ^ 38 % 2 = 1
  let model := ident / 2 ^ 48 % 2 ^ 16
  let geo := match mget s.weights model with
    | some w => w.geometry
    | none => []
  let mine := dir.filter fun e => e.2.1 = h
  let slots := (mine.filter fun e => e.2.2.1 = 1).foldl (fun m e => mset m (e.2.2.2.1 * 256 + e.2.2.2.2) e.1) []
  let pages := (mine.filter fun e => e.2.2.1 = 2).foldl (fun m e => mset m e.2.2.2.1 e.1) []
  let length := numAt d 8 4
  let tail := ident / 2 ^ 47 % 2 = 1
  let spec := numAt d 44 4
  let mirror := (s.ownNode, s.fld asfNode_fdom 0)
  { part := ident / 2 ^ 22 % 16
    tenant := ident / 2 ^ 26 % 4096
    model := model
    format := ident / 2 ^ 45 % 4
    state := if prot then .moving else .rebuild
    prior := SeqState.ofCode (ident / 2 ^ 18 % 16)
    priority := ident / 2 ^ 40 % 4
    speculate := ident / 2 ^ 39 % 2 = 1
    prot := prot
    hold := false
    tail := tail
    reason := ident / 2 ^ 43 % 4
    length := length
    limit := numAt d 12 4
    tpp := numAt d 16 2
    layers := numAt d 18 1 + 1
    kvHeads := geoKvHeads geo
    headDim := geoHeadDim geo
    appended := 0
    written := []
    seed := BitVec.ofNat 64 (numAt d 24 8)
    temperature := BitVec.ofNat 32 (numAt d 32 4)
    topP := BitVec.ofNat 32 (numAt d 36 4)
    topK := numAt d 40 2
    stops := (List.range (min 64 (numAt d 42 2))).map fun i => numAt d (256 + 4 * i) 4
    probe := spec / 2 ^ 14 % 2 ^ 7
    fullRun := spec / 2 ^ 11 % 8
    zeroRun := spec / 2 ^ 8 % 8
    kMax := spec / 2 ^ 4 % 16
    kCur := spec % 16
    lastStep := numAt d 48 4
    mirror := some mirror
    oldMirror := none
    job := 0
    journal := (List.range length).map (s.sliceToken x pages)
    kinds := (List.range length).map fun i => tail && decide (i + 1 = length)
    prompt := []
    promptTick := 0
    enableTick := 0
    pages := []
    leaves := []
    slots := slots
    journalSlots := pages
    ring := none
    draft := 0
    probing := false
    selected := none
    poisoned := false
    dropped := false
    unacked := none
    unjournaled := none
    copying := false
    copied := 0
    mirroring := false
    move := none
    rebuildPos := 0
    rebuildTick := s.now
    promoted := some (home, h)
    refusedBy := []
    cancelled := false }

/-! ### Promotion (R392) -/

/-- Revokes a slice's region at once; its frames stay out of the pool while promoted pages lie in them. -/
def State.revokeSlice (s : State) (home : Nat) (x : Slice) : State :=
  { s with
    asf := { s.asf with regions := mdel s.asf.regions x.region }
    tiers := { s.tiers with frames := mmap s.tiers.frames fun _ u => if u = .region x.region then promotedUse home else u } }

/-- Ships a promoted sequence's journal to the manager, or keeps it where this device is the manager. -/
def State.shipPromoted (s : State) (home h : Nat) (q : Seq) : State :=
  (q.journal.zip q.kinds).zipIdx.foldl (fun s x =>
    let kind := if x.1.2 then 0 else 1
    if s.flag resStat_managing 0 then
      if x.2 < (mgetD s.res.journals (home * 2 ^ 18 + h) []).length then s else s.keepJournal home h x.2 x.1.1 kind
    else s.shipRecordIn 6 home q.part h kind x.2 x.1.1.toNat) s

/-- Takes one sequence of a slice, under a handle of this device where one is free. -/
def State.takePromoted (s : State) (home h : Nat) (q : Seq) : State :=
  let s := s.shipPromoted home h q
  match s.takeHandle with
  | some (k, t) => t.openSeq k q
  | none => { s with res := { s.res with unhandled := mset s.res.unhandled h q } }

/-- The sequences whose descriptors stand in a slice, by handle (R392). -/
def State.sliceSeqs (s : State) (home : Nat) (x : Slice) : List (Nat × Seq) :=
  let good := s.goodCommits x.base
  let dir := s.directory x
  (List.range 262144).filterMap fun h => (s.sliceDescriptor x good h).map fun d => (h, s.sliceSeq x home h dir d)

/-- A command of a control copy. -/
def listedCommand (bs : List (BitVec 8)) : Config.LostCommand where
  reply := numAt bs 4 1
  handle := numAt bs 8 4
  queue := numAt bs 3 1
  tag := numAt bs 0 2
  op := numAt bs 2 1
  kind := numAt bs 5 1
  status := numAt bs 6 1
  effTick := numAt bs 16 8
  result := numAt bs 24 8

/-- The command list of a slice's home: that of each partition's control copy that its last good commit record names (R392, R393). -/
def State.sliceCommands (s : State) (x : Slice) : List (List (BitVec 8)) :=
  let good := s.goodCommits x.base
  (List.range 16).flatMap fun p =>
    match lastCommit good p with
    | some r =>
      let at_ := x.base + sliceControl r.1 p
      (List.range (min 65536 (numAt (s.readDram at_ 4) 0 4))).map fun i => s.readDram (at_ + controlCmds + 64 * i) 64
    | none => []

/-- Sends a spare what it takes of a lost member of a lockstep group (R396): for each partition in a group, the head and the table of the
control copy that its last good commit record names. -/
def State.sendMember (s : State) (spare : Nat) (x : Slice) : State :=
  let good := s.goodCommits x.base
  (List.range 16).foldl (fun s p =>
    match lastCommit good p with
    | none => s
    | some r =>
      let base := x.base + sliceControl r.1 p
      let head := s.readDram base 64
      if numAt head 24 8 / 2 ^ 22 % 2 ^ 10 = 0 then s
      else s.send spare (.memberCopy p (head ++ s.readDram (base + controlTable) (32 * min 4096 (numAt head 4 4))))) s

/-- Claims a lost home's slice: its directory entry says so, and its sequences are taken. -/
def State.claimSlice (s : State) (home : Nat) (x : Slice) : State :=
  let s := (s.revokeSlice home x).writeDram (x.base + 3) [1]
  let s := { s with res := { s.res with slices := mset s.res.slices home { x with state := 1 } } }
  (s.sliceSeqs home x).foldl (fun s e => s.takePromoted home e.1 e.2) s

/-- Sends the commands of a lost home to the manager, where another node manages. -/
def State.tellManager (s : State) (home : Nat) (x : Slice) : State :=
  if s.flag resStat_managing 0 then s
  else match s.manager with
    | some m => s.send m (.commandList home (s.sliceCommands x))
    | none => s

/-- The promotion of a lost home's slice. -/
def State.promote (s : State) (home : Nat) : State :=
  match mget s.res.slices home with
  | none => s
  | some x => if x.state = 1 then s else (s.claimSlice home x).tellManager home x

/-! ### The stream to a spare (R395) -/

/-- A promoted sequence by its handle here, or by its handle at the lost home where it has none here. -/
def State.promotedSeq (s : State) (h : Nat) : Option Seq :=
  match s.seq h with
  | some q => if q.promoted.isSome then some q else mget s.res.unhandled h
  | none => mget s.res.unhandled h

/-- Changes a promoted sequence. -/
def State.modPromoted (s : State) (h : Nat) (f : Seq → Seq) : State :=
  match s.seq h with
  | some q => if q.promoted.isSome then s.modSeq h f else { s with res := { s.res with unhandled := mmod s.res.unhandled h f } }
  | none => { s with res := { s.res with unhandled := mmod s.res.unhandled h f } }

/-- Whether a sequence was promoted from a lost home. -/
def Seq.promotedOf (q : Seq) (home : Nat) : Bool := q.promoted.any fun (x : Nat × Nat) => x.1 = home

/-- The promoted sequences of a lost home that are still here. -/
def State.promotedLeft (s : State) (home : Nat) : List (Nat × Seq) :=
  (s.seqs ++ s.res.unhandled).filter fun x => x.2.promotedOf home

/-- The state that a promoted sequence takes at the spare. -/
def Seq.recastState (q : Seq) : SeqState := if q.state = .done then .done else q.prior

/-- The pages that a promoted sequence streams, by their slots: none where it is to be rebuilt. -/
def Seq.recastSlots (q : Seq) : AMap Nat := if q.prot then q.slots else []

/-- The slice that a promoted sequence lies in. -/
def State.sliceOf (s : State) (q : Seq) : Option Slice := q.promoted.bind fun (x : Nat × Nat) => mget s.res.slices x.1

/-- Whether a promoted sequence still has parts to stream to a spare that may take it. -/
def Seq.recastDue (q : Seq) (spare : Nat) : Bool :=
  match q.move with
  | none => !q.refusedBy.contains spare
  | some m => m.sent < q.recastSlots.length

/-- The order of a recast: by PRIORITY, then STEPPING before other states. -/
def recastBefore (a b : Nat × Seq) : Bool :=
  a.2.priority < b.2.priority || (a.2.priority = b.2.priority && a.2.prior = .stepping && b.2.prior ≠ .stepping)

/-- Whether a promoted sequence is the next to stream. -/
def State.recastTurn (s : State) (h : Nat) (q : Seq) : Bool :=
  q.recastDue (s.fld resRecast_spare 0) && !(s.seqs ++ s.res.unhandled).any fun x =>
    x.2.promoted.isSome && x.2.recastDue (s.fld resRecast_spare 0) && recastBefore x (h, q)

/-- Begins the stream of a promoted sequence with its descriptor and journal. -/
def State.recastOffer (s : State) (h spare : Nat) (q : Seq) : State :=
  let s := s.modPromoted h fun q => { q with move := some { Move.begun spare q.part 2 h with recast := true } }
  let d := ({ q with state := q.recastState }).descriptor h
  s.writeBulk spare 2 0 0 0 (d ++ q.journal.flatMap fun t => leBytes 4 t.toNat) (.moveGroup h offerIndex)

/-- Sends one page of a promoted sequence from its slot. -/
def State.recastPage (s : State) (h : Nat) (q : Seq) (m : Move) : State :=
  match q.recastSlots[m.sent]?, s.sliceOf q with
  | some e, some x =>
    let s := s.modPromoted h fun q => { q with move := some { m with sent := m.sent + 1 } }
    let bytes := s.readDram (x.base + sliceSlot x.slots e.2) 65536
    s.writeBulk m.node 2 (e.1 / 256 % 8) 0 (e.1 % 256 * 66048) ((storePage q.part (e.1 / 256) bytes).flatMap Stored.bytes) (.moveGroup h (e.1 / 256))
  | _, _ => s

/-- One step of a recast's stream. -/
def State.recastStep (s : State) (h : Nat) : State :=
  match s.promotedSeq h with
  | none => s
  | some q =>
    if !s.flag resStat_recastSource 0 || !s.recastTurn h q then s
    else
      match q.move with
      | none => s.recastOffer h (s.fld resRecast_spare 0) q
      | some m => s.recastPage h q m

/-- Keeps the progress of the running recast; a slice that no promoted sequence lies in any more is given up. -/
def State.noteRecast (s : State) (home : Nat) : State :=
  let left := (s.promotedLeft home).length
  let s := s.setFld resRecast_seqLeft 0 left
  if left = 0 then
    let s := { s with
      res := { s.res with slices := mdel s.res.slices home }
      tiers := { s.tiers with frames := mfilter s.tiers.frames fun _ u => u ≠ promotedUse home } }
    let s := s.asf.regions.foldl (fun s x => s.markFrames x.1 x.2) s
    ((s.setFld resMirrorCfg_slicesUsed 0 s.res.slices.length).setFlag resStat_recastSource 0 false).notePool
  else s

/-! ### The flip of a promoted sequence (R395) -/

/-- The lowest free slots of a slice that this device holds. -/
def State.freeSlots (s : State) (x : Slice) (n : Nat) : List Nat :=
  let taken := (s.directory x).map fun e => e.1
  ((List.range x.slots).filter fun i => !taken.contains i).take n

/-- Moves the slots of a sequence into the slice of its new home: pages first, then journal pages. -/
def State.moveSlots (s : State) (from_ to_ : Slice) (newH : Nat) (q : Seq) : State :=
  let parts := (q.slots.map fun e => (e.2, slotEntry newH 1 (e.1 / 256) (e.1 % 256))) ++
    (q.journalSlots.map fun e => (e.2, slotEntry newH 2 e.1 0))
  (parts.zip (s.freeSlots to_ parts.length)).foldl (fun s (x : (Nat × List (BitVec 8)) × Nat) =>
    let bytes := s.readDram (from_.base + sliceSlot from_.slots x.1.1) 65536
    let s := s.writeDram (to_.base + sliceSlot to_.slots x.2) bytes
    (s.writeDram (to_.base + sliceDir x.2) x.1.2).writeDram (from_.base + sliceDir x.1.1) (leBytes 16 0)) s

/-- The copy becomes the spare's mirror: slots, and the descriptor in both copies. -/
def State.mirrorFor (s : State) (spare newH : Nat) (q : Seq) : State :=
  let s := s.grantSlice spare
  match s.sliceOf q, mget s.res.slices spare with
  | some a, some b =>
    let s := s.moveSlots a b newH q
    let d := ({ q with state := q.recastState }).descriptor newH
    let s := ((s.writeDram (b.base + sliceDesc 0 newH) d).writeDram (b.base + sliceDesc 1 newH) d).writeDram (b.base + 3) [2]
    { s with res := { s.res with slices := mset s.res.slices spare { b with state := 2 } } }
  | _, _ => s

/-- The promoted sequence leaves this device. -/
def State.dropPromoted (s : State) (h : Nat) (q : Seq) (m : Move) (newH : Nat) : State :=
  match s.seq h with
  | some x => if x.promoted.isSome then s.moveDone h q m m.part newH else { s with res := { s.res with unhandled := mdel s.res.unhandled h } }
  | none => { s with res := { s.res with unhandled := mdel s.res.unhandled h } }

end Sys2Proof.Machine
end

