-- ==== Sys2Proof/Machine/Tiers.lean ====
section
/-! DEFINITION. The tiers' commands and events: page steps of the Ladle's bulk work, flips, ageing, stalls and lodgings (R277 to
R302, R385, R538). -/

set_option Elab.async false

namespace Sys2Proof.Machine

/-! ### Pressure and victims (R295 to R297) -/

/-- Whether tier 1 is under pressure: from LOW_FREE down, until HIGH_FREE is reached. -/
def State.tier1Pressure (s : State) : Bool :=
  let free := s.freeFrames * 1024
  let pool := s.fld tirPool_pool 0
  if free < s.fld tirT1Wm_lowFree 0 * pool then true
  else if s.fld tirT1Wm_highFree 0 * pool ≤ free then false
  else s.tiers.pressure

/-- Whether a lodging is under pressure: from 1/32 of its slots free down, until 1/16 is free. -/
def State.lodgePressure (s : State) (i : Nat) : Bool :=
  let slots := s.fld tirPeerBase_slots i
  let free := slots - s.lodgedIn i
  if free * 32 < slots then true
  else if slots ≤ free * 16 then false
  else s.tiers.lodgingPressure.contains i

/-- Keeps the pressure marks. -/
def State.notePressure (s : State) : State :=
  let t1 := s.tier1Pressure
  let l := (List.range 16).filter s.lodgePressure
  { s with tiers := { s.tiers with pressure := t1, lodgingPressure := l } }

/-- Whether a lodging takes a victim. -/
def State.hasLodging (s : State) : Bool := (s.pickLodging none).isSome

/-- Whether tier 3 takes a victim. -/
def State.flashTakes (s : State) : Bool := s.tier3Takes && !s.pln.pfail && s.ftl.refusedAt.isNone

/-- Whether a page of tier 1 is a victim now (R295). -/
def State.victim (s : State) (key : Nat) : Bool :=
  match mget s.tiers.pages key, s.groupOf key with
  | some e, some (_, g) =>
    e.tier = 1 && !e.ref && !e.moving && !g.pin && !g.frozen &&
      (s.tiers.pressure || (s.fld tirCfg_ageLimit 0 ≠ 0 && s.fld tirCfg_ageLimit 0 ≤ e.age && (s.hasLodging || s.flashTakes)))
  | _, _ => false

/-- Evicts one victim: to the lowest-numbered lodging that takes it, else to its granule; it stays where neither takes it
(R296). -/
def State.evictPage (s : State) (key : Nat) : State :=
  match s.pickLodging none with
  | some i => (s.moveToLodging key i none).getD s
  | none => if s.flashTakes then (s.moveToFlash key none).getD s else s

/-- Evicts a victim with every other page of its group that is a victim at that moment. -/
def State.evict (s : State) (key : Nat) : State :=
  match s.groupOf key with
  | some (k, g) => (((List.range g.layers).map (k + ·)).filter s.victim).foldl State.evictPage s
  | none => s

/-- The lodged page that leaves a lodging under pressure first: the highest AGE, the lowest page number within it. -/
def State.lodgeVictim (s : State) (i : Nat) : Option Nat :=
  ((s.tiers.pages.filter fun x => x.2.tier = 2 && x.2.lodging = i && !s.moveBarred x.1).foldl
    (fun (best : Option (Nat × Nat)) x =>
      match best with
      | some y => if y.2 < x.2.age || (y.2 = x.2.age && x.1 % 2 ^ 32 < y.1 % 2 ^ 32) then some (x.1, x.2.age) else best
      | none => some (x.1, x.2.age)) none).map Prod.fst

/-- Whether the Ladle moves a page to another channel: its frame lies in a memory-only channel (R160, R284). -/
def State.misplaced (s : State) (e : Page) : Bool := e.tier = 1 && s.flag genChUnits_memOnly (channelOf e.loc)

/-- An eviction's page step: a victim of tier 1, a page of a memory-only channel, or the page that leaves a lodging under
pressure. -/
def State.evictStep (s : State) (key : Nat) : State :=
  let s := s.notePressure
  match mget s.tiers.pages key with
  | some e =>
    if s.moveBarred key then s
    else if s.misplaced e then (s.moveToFrame key none).getD s
    else if s.victim key then s.evict key
    else if e.tier = 2 && s.tiers.lodgingPressure.contains e.lodging && s.lodgeVictim e.lodging = some key && s.flashTakes then
      (s.moveToFlash key none).getD s
    else s
  | none => s

/-! ### STATE_FETCH and drains (R280, R292) -/

/-- The STATE_FETCH command that names a page and a tier. -/
def State.fetchCmd (s : State) (key tier : Nat) : Option Pend :=
  s.buhorn.cmds.find? fun c => match c.wait, s.seq c.handle with
    | .fetch t first count, some q => t = tier && (s.fetchLeft q t first count).contains key
    | _, _ => false

/-- The lodging that a STATE_FETCH moves to: that of its PEER, or the lowest-numbered one. -/
def State.fetchLodging (s : State) (c : Pend) : Option Nat := s.pickLodging (if c.par 18 2 = 0xFFFF then none else some (c.par 18 2))

/-- One page of a STATE_FETCH begins to move; a tier that is full ends the command. -/
def State.fetchStep (s : State) (key tier : Nat) : State :=
  match s.fetchCmd key tier with
  | none => s
  | some c =>
    if s.moveBarred key then s
    else
      let r := match tier with
        | 1 => if 0 < s.freeFrames then s.moveUp key (some c.id) else none
        | 2 => (s.fetchLodging c).bind fun i => s.moveToLodging key i (some c.id)
        | _ => s.moveToFlash key (some c.id)
      match r with
      | some t => t
      | none => s.failFetch c.id 0x12 0x11

/-- One page of a draining lodging moves out, to tier 1 while the pool keeps LOW_FREE, else to tier 3. -/
def State.drainStep (s : State) (i : Nat) : State :=
  if !s.flag tirPeerCtrl_drain i then s
  else
    match s.tiers.pages.find? fun x => x.2.tier = 2 && x.2.lodging = i && !s.moveBarred x.1 with
    | none => s
    | some (key, _) =>
      if s.keepsLowFree 1 then (s.moveUp key none).getD s
      else if s.flashTakes then (s.moveToFlash key none).getD s
      else s

/-! ### Copies to a partner (R72, R385) -/

/-- Whether a sequence's copy to its partner has parts to send: a new partner's copy, or the pages of a STATE_MIRROR. -/
def State.copyWanted (s : State) (h : Nat) (q : Seq) : Bool :=
  q.copying || q.mirroring || s.buhorn.cmds.any fun c => c.wait = .mirror && c.part = q.part && c.handle = h

/-- The parts of a copy: the descriptor with the journal, then each page of a protected sequence in page-list order. -/
def Seq.copyParts (q : Seq) : Nat := 1 + if q.prot then q.pages.length * q.layers else 0

/-- Writes a part of a copy at a place in the slice, in class 2. -/
def State.copyAt (s : State) (h node off : Nat) (bs : List (BitVec 8)) : State :=
  match mget s.res.grants node with
  | some g => s.writeBulk node 2 0 0 (g.base + off) bs (.mirrorCopy h)
  | none => s

/-- Sends one part of a sequence's copy. -/
def State.copyStep (s : State) (h : Nat) : State :=
  match s.seq h with
  | none => s
  | some q =>
    match q.mirror with
    | none => s
    | some m =>
      if !s.copyWanted h q || q.copyParts ≤ q.copied then s
      else
        let s := s.modSeq h fun q => { q with copied := q.copied + 1 }
        if q.copied = 0 then
          let s := if q.copying then State.shipTokens s h 2 m.1 0 (q.journal ++ q.prompt.map (BitVec.ofNat 32)) else s
          let s := (s.copyAt h m.1 (sliceDesc 0 h) (q.descriptor h)).copyAt h m.1 (sliceDesc 1 h) (q.descriptor h)
          s.shipSlots h 2 m.1 0 ((s.seq h).getD q)
        else
          let j := q.copied - 1
          match q.pages[j / q.layers]? with
          | some e =>
            match mget q.slots (e.1 * 256 + j % q.layers) with
            | some x =>
              let key := pageKey q.part (e.2 + j % q.layers)
              (s.touchPages [key]).copyAt h m.1 (sliceSlot (s.sliceSize m.1) x) (s.pageBytes key)
            | none => s
          | none => s

/-! ### Prefetch and streamed reads (R298, R299) -/

/-- The pages that the next cycle reads and that lie below tier 1, in the order it reads them: by layer, then by candidate, then by page-list
index. -/
def State.prefetchList (s : State) (p : Nat) : List Nat :=
  let qs := (s.batchCandidates p).filter (fun x => !x.2.hold && x.2.state = .stepping) ++ s.promptWork p
  ((List.range ((qs.map fun x => x.2.layers).foldl max 0)).flatMap fun l =>
    (qs.filter fun x => l < x.2.layers).flatMap fun x =>
      (x.2.pages.filter fun e => e.1 < x.2.block x.2.r + 1).map fun e => pageKey x.2.part (e.2 + l)).filter fun k =>
        s.tierOf k ≠ 1 && !s.moveBarred k

/-- One page of the prefetch: the first that the next cycle needs. -/
def State.prefetchStep (s : State) (p key : Nat) : State := if (s.prefetchList p).head? = some key then s.fetchPage key else s

/-- Whether a page is brought up by a streamed read: an entry waits for it, and the pool is short of frames. -/
def State.wantsStream (s : State) (p key : Nat) : Bool :=
  !s.keepsLowFree 1 && (s.part p).runs.any fun r => match r.2, s.entry p r.1 with
    | .waiting _ _, some e => (s.missing p e).contains key
    | _, _ => false

/-! ### Rows -/

/-- A page step of each kind of bulk work. -/
def State.bulkStep (s : State) (j : PageJob) : State :=
  match j with
  | .prefetch p page => s.prefetchStep p.val (pageKey p.val page.toNat)
  | .evict p page => s.evictStep (pageKey p.val page.toNat)
  | .fetch p page tier => s.fetchStep (pageKey p.val page.toNat) tier.toNat
  | .stream p page => if s.wantsStream p.val (pageKey p.val page.toNat) then s.streamPage (pageKey p.val page.toNat) else s
  | .move h => s.sendPage h.toNat
  | .recast h => s.recastStep h.toNat
  | .copy h => s.copyStep h.toNat
  | .drain i => s.drainStep i.val
  | .churn => s.churnStep

/-- PAGE_STEP (R538): bulk work runs in C0. -/
def execPageStep (job : PageJob) (s : State) : Out :=
  .next (if s.live && s.fld pwrDevStat_state 0 = 0 then (((s.bulkStep job).notePressure).noteTiers).worked 100 else s)

/-- MIGRATION_FLIP (R289): a destination in tier 0, 1 or 2 whose write has completed becomes home. -/
def execMigrationFlip (p : Fin 16) (page : BitVec 32) (s : State) : Out :=
  .next <| s.whenLive fun s => ((s.completeMove (pageKey p.val page.toNat)).flushRows).wakeAll.sequenceHeld

/-- The next home frame behind the clock hand, in order of unit, then frame. -/
def State.nextVisited (s : State) : Option (Nat × Nat) :=
  let homes := s.tiers.frames.filterMap fun f => match f.2 with
    | .home k => some (f.1, k)
    | _ => none
  match homes.find? fun f => s.tiers.hand < f.1 with
  | some f => some f
  | none => homes.head?

/-- What a visit does to a page entry (R294). -/
def Page.visit (e : Page) : Page := if e.ref then { e with ref := false, age := 0 } else { e with age := min 7 (e.age + 1) }

/-- CLOCK_HAND_VISIT (R294): the visited page ages, and goes when it is a victim. -/
def execClockHandVisit (s : State) : Out :=
  .next <| s.whenLive fun s =>
    match s.nextVisited with
    | none => s
    | some (k, key) =>
      let s := { s with tiers := { s.tiers with hand := k, pages := mmod s.tiers.pages key Page.visit } }
      let s := s.notePressure
      if s.victim key && !s.moveBarred key then (s.evict key).noteTiers else s

/-- T2_AGE_TICK (R297): once per AGE_PERIOD. -/
def execT2AgeTick (s : State) : Out :=
  .next (
    if s.live && s.tiers.ageAt + s.fld tirCfg_agePeriod 0 * 1000000000 ≤ s.now then
      { s with tiers := { s.tiers with
          ageAt := s.now
          pages := mmap s.tiers.pages fun _ e => if e.tier = 2 then { e with age := min 7 (e.age + 1) } else e } }
    else s)

/-- The cause of the first page that a sequence lacks in an entry. -/
def State.lackCause (s : State) (e : Entry) (q : Seq) : Option Nat :=
  ((q.layerPages e.layer).find? fun k => !s.readable e k || (e.cls = 2 && s.channelHeld k)).map s.stallCause

/-- Drops one sequence whose page is missing: from its step, or from its prefill pass; in a lockstep group the drop voids the
step (R301). -/
def State.dropStalled (s : State) (p : Nat) (e : Entry) (h : Nat) : State :=
  match s.seq h with
  | none => s
  | some q =>
    match s.lackCause e q with
    | none => s
    | some c =>
      let s := s.bump tirStall_drops c 1
      let s := s.modSeq h fun q => { q with dropped := true }
      let s := if e.cls = 2 then s else s.leavePass p h
      if s.fld schGroup_members p ≠ 0 then s.modPart p fun x => { x with void := true } else s

/-- STALL_MAX_EXPIRY (R301). -/
def execStallMaxExpiry (p : Fin 16) (entry : Nat) (s : State) : Out :=
  .next <| s.whenLive fun s =>
    match s.entry p.val entry, mget (s.part p.val).runs entry with
    | some e, some (.waiting since _) =>
      if since + s.fld tirCfg_stallMax 0 * ticksPerMs ≤ s.now && !s.weightsHeld e then
        ((s.readers p.val e).foldl (fun s h => s.dropStalled p.val e h) s).startEntry p.val entry e
      else s
    | _, _ => s

/-- TIR_PEER_CTRL_WRITE (R280). -/
def execTirPeerCtrlWrite (fn : Fn) (i : Fin 16) (lane : Lane) (v : BitVec 64) (s : State) : Out :=
  .next (s.whenKept .tirPeerCtrl i.val fun s => s.writeFields (fnNum fn) lane .tirPeerCtrl i.val v)

end Sys2Proof.Machine
end

