-- ==== Sys2Proof/Machine/Resilience.lean ====
section
/-! DEFINITION. Resilience: heartbeats and suspicion, loss decisions and what follows from them, takeovers, fencing, partners, spares and
the manager's replies (R82, R385 to R398). -/

set_option Elab.async false

namespace Sys2Proof.Machine

/-! ### Nodes of a group (R386) -/

/-- A node number that names a node. -/
def isNode (n : Nat) : Bool := n ≠ 0xFFFF

/-- The deputies in order. -/
def State.deputies (s : State) : List Nat :=
  [s.fld resDeputy_dep0 0, s.fld resDeputy_dep1 0, s.fld resDeputy_dep2 0, s.fld resDeputy_dep3 0]

/-- Whether this device is the acting manager. -/
def State.managing (s : State) : Bool := s.flag resStat_managing 0

/-- The acting manager and the deputies, without this device. -/
def State.watchers (s : State) : List Nat :=
  ((s.fld resMgr_acting 0 :: s.deputies).filter fun n => isNode n && n ≠ s.ownNode).dedup

/-- Every member, deputy and other node that a decision goes to. -/
def State.recipients (s : State) : List Nat :=
  ((s.res.watch.map Prod.fst ++ s.deputies).filter fun n => isNode n && n ≠ s.ownNode).dedup

/-- MISS_LIMIT times BEAT_US, in ticks. -/
def State.missTicks (s : State) : Nat := s.fld resCtrl_missLimit 0 * s.fld resCtrl_beatUs 0 * ticksPerUs

/-- A heartbeat frame's payload. -/
def State.beatBody (s : State) : List (BitVec 8) :=
  let flags := (if s.flag resStat_fenced 0 then 2 else 0) + if s.managing then 4 else 0
  leBytes 2 s.ownNode ++ leBytes 1 (s.fld asfNode_fdom 0) ++ leBytes 1 flags ++ leBytes 4 (s.fld resMgr_term 0) ++
    leBytes 1 (s.fld asfEpoch_current 0) ++ leBytes 7 0 ++ leBytes 8 s.res.beats ++ leBytes 8 s.now

/-- HEARTBEAT_TIMER (R386). -/
def execHeartbeatTimer (s : State) : Out :=
  .next <| s.whenLive fun s =>
    if s.flag resCtrl_enable 0 && (s.res.beats = 0 || s.res.lastBeat + s.fld resCtrl_beatUs 0 * ticksPerUs ≤ s.now) then
      let body := s.beatBody
      let s := s.watchers.foldl (fun s n => s.sendGroup n 0x14 body) s
      { s with res := { s.res with beats := s.res.beats + 1, lastBeat := s.now } }
    else s

/-! ### Frames (R386) -/

/-- A number in a frame's payload. -/
def frameNum (f : Frame) (o n : Nat) : Nat := numAt f.payload o n

/-- A resilience frame at its port: one with a field outside its encoding is discarded and counted. -/
def State.groupAt (s : State) (rx : Rx) (op : Nat) (ok : Frame → Bool) (f : Frame → State → State) : State :=
  s.atPort rx op fun s =>
    if rx.frame.payload.length = 32 && ok rx.frame then f rx.frame s else s.bump asfRxDrop_badOp 0 1

/-- The highest term seen. -/
def State.seeTerm (s : State) (t : Nat) : State := s.setFld resMgr_term 0 (max (s.fld resMgr_term 0) t)

/-! ### The manager's replies (R82, R393) -/

/-- The statuses of R57. -/
def statusCodes : List Nat := [0, 1, 2, 3, 0x10, 0x11, 0x12, 0x13, 0x20, 0x21, 0x22, 0x30, 0x31, 0x40, 0x7F]

/-- The command list of a lost node: that of its slice here, or as another partner sends it; a status is one of R57's (R82, R393). -/
def State.lostCommands (s : State) (lost : Nat) : List Config.LostCommand :=
  match mget s.res.slices lost with
  | some x => (s.sliceCommands x).map listedCommand
  | none => (Config.lostCommands lost s.freeCtr).map fun c => { c with status := statusCodes.getD (c.status % 15) 0 }

/-- The manager reply queues of this device that queues of a lost node name, by the list of its commands or otherwise. -/
def State.managerQueues (s : State) (lost : Nat) (cmds : List Config.LostCommand) : List Nat :=
  (s.buhorn.queues.filter fun q => q.2.kind = 3 && (Config.namesReplyQueue lost q.1 || cmds.any fun c => c.reply = q.1)).map Prod.fst

/-- A notice: OPCODE 0xF0, TAG 0xFFFF, status OK. No command queue carried it, and its QUEUE byte is 0 (DESIGN CHOICE, log 121). -/
def notice (detail result : Nat) : Reply := ⟨0xFFFF, 0, 0xF0, 0, detail, 0, result⟩

/-- The result of a notice for a sequence: its new home, and its old handle in bits 55:38. -/
def noticeResult (node part new old : Nat) : Nat := homeResult node part new + old * 2 ^ 38

/-- A reply that the manager writes to a command of a lost device. -/
def managerReply (c : Config.LostCommand) (status detail effTick result : Nat) : Reply :=
  ⟨c.tag % 65536, status, c.op % 256, c.queue % 256, detail, effTick, result⟩

/-- The reply to a STATE_MOVE whose source is lost (R38): OK where the destination was home or completed from the source's mirror,
STATE_REBUILD where the sequence is rebuilt, with its new home. -/
def moveReply (c : Config.LostCommand) (e : Config.MoveOutcome) (now : Tick) : Reply :=
  let home := homeResult (e.node % 65536) (e.part % 16) (e.handle % 262144)
  match e.kind with
  | 0 => managerReply c 0 3 now home
  | 1 => managerReply c 0 2 now home
  | _ => managerReply c 3 3 now home

/-- The manager's reply to a command of a lost device (R393). -/
def State.lostReply (s : State) (lost : Nat) (c : Config.LostCommand) : Reply :=
  match c.kind with
  | 0 => managerReply c c.status 3 c.effTick c.result
  | 1 => managerReply c 2 3 0 0
  | 3 => moveReply c (Config.moveOutcome lost c.handle s.freeCtr) s.now
  | _ => managerReply c 0x22 3 0 0

/-- The notices of a lost device's sequences: those promoted here, and those that other partners report. -/
def State.lostNotices (s : State) (lost : Nat) : List Reply :=
  let mine := (s.promotedLeft lost).map fun x =>
    notice (if x.2.state = .rebuild then 4 else 1) (noticeResult s.ownNode x.2.part x.1 ((x.2.promoted.getD (0, 0)).2))
  let others := (Config.lostSequences lost s.freeCtr).map fun x =>
    notice (if x.rebuilt then 4 else 1) (noticeResult (x.node % 65536) (x.part % 16) (x.handle % 262144) (x.old % 262144))
  mine ++ others

/-- The present home of a sequence of a lost node: node and handle. -/
def State.newHome (s : State) (lost old : Nat) : Nat × Nat :=
  match (s.promotedLeft lost).find? fun x => (x.2.promoted.getD (0, 0)).2 = old with
  | some x => (s.ownNode, x.1)
  | none =>
    match (Config.lostSequences lost s.freeCtr).find? fun x => x.old % 262144 = old with
    | some x => (x.node % 65536, x.handle % 262144)
    | none => (0xFFFF, 0)

/-- The final reply that the manager owes to a prompt of a lost device whose first token is still to come (R393). -/
def State.deferral (s : State) (lost : Nat) (c : Config.LostCommand) : Deferred :=
  let home := s.newHome lost (c.handle % 262144)
  ⟨lost, c.handle % 262144, home.1, home.2, c.reply, managerReply c 3 3 0 0⟩

/-- What the manager writes for a lost device, in order; the replies of prompts whose first token is still to come follow when it is due. -/
def State.managerReplies (s : State) (lost : Nat) : State :=
  let cmds := s.lostCommands lost
  let notices := notice 8 lost :: s.lostNotices lost
  let owed := (cmds.filter fun c => c.kind = 1).map (s.deferral lost)
  let s := (s.managerQueues lost cmds).foldl (fun s q =>
    let replies := (cmds.filter fun c => c.reply = q).map (s.lostReply lost)
    (replies ++ notices).foldl (fun s r => s.replyTo q r) s) s
  { s with freeCtr := s.freeCtr + 1, res := { s.res with deferred := s.res.deferred ++ owed } }

/-- A notice to every manager reply queue of a lost device, where this device is the manager. -/
def State.noticeAll (s : State) (lost : Nat) (r : Reply) : State :=
  if s.managing then (s.managerQueues lost (s.lostCommands lost)).foldl (fun s q => s.replyTo q r) s else s

/-- A sequence of a lost node has a further home: the replies that wait for its first token wait for it there. -/
def State.deferredMoves (s : State) (lost old node handle : Nat) : State :=
  { s with res := { s.res with deferred := s.res.deferred.map fun x =>
      if x.lost = lost && x.old = old then { x with node := node, handle := handle } else x } }

/-- What the manager writes for each lost home whose recast the loss of its promoting node interrupts: RECAST_PARTIAL for a sequence that
is rebuilt at the spare, MOVE_FROM_MIRROR for the others (R398). -/
def State.recastNotices (s : State) (n : Nat) : State :=
  (s.res.recasts.filter fun x => Config.promotedAt n x.1).foldl (fun s x =>
    let l := Config.recastSequences x.1 n s.freeCtr
    let s := l.foldl (fun s e =>
      (s.deferredMoves x.1 (e.old % 262144) (e.node % 65536) (e.handle % 262144)).noticeAll x.1
        (notice (if e.rebuilt then 5 else 2) (noticeResult (e.node % 65536) (e.part % 16) (e.handle % 262144) (e.old % 262144)))) s
    { s with freeCtr := s.freeCtr + 1 }) s

/-! ### Partners (R72, R385) -/

/-- Ends the STATE_MIRROR commands that wait on a copy which a lost partner ends; answers whether the sequence stays protected. -/
def State.mirrorWaitsEnd (s : State) (q : Seq) (h : Nat) : State × Bool :=
  (s.cmdsOf q.part h .mirror).foldl (fun a d =>
    if d.par 16 1 = 1 then (a.1.finish d.id 0 0 0, a.2)
    else if d.par 18 2 = 0xFFFF then a
    else (a.1.finish d.id 0x22 0 0, false)) (s, q.prot)

/-- A sequence's partner, or its copy there, is lost: the copy goes to the next candidate that takes it, and without one the sequence
waits for a boundary that finds one. -/
def State.partnerGone (s : State) (h : Nat) (q : Seq) : State :=
  match s.mirrorWaitsEnd q h with
  | (s, prot) =>
    let q := { q with prot := prot }
    let s := match q.mirror with
      | some m => s.leavePartner h m.1 (q.slots.map Prod.snd ++ q.journalSlots.map Prod.snd) q
      | none => s
    let s := (s.modSeq h fun x =>
      { x with prot := prot, mirror := none, slots := [], journalSlots := [], copying := false, copied := 0, mirroring := x.mirroring && prot }).notePins h
    match s.candidates.find? (s.partnerTakes q) with
    | some n => s.changePartner h n
    | none => s

/-- A node that held mirrors of this home is lost. -/
def State.partnerLost (s : State) (n : Nat) : State :=
  let hit := s.seqs.filter fun x => x.2.promoted.isNone && x.2.mirror.any fun (m : Nat × Nat) => m.1 = n
  let s := { s with
    res := { s.res with grants := mdel s.res.grants n }
    seqs := mmap s.seqs fun _ q => if q.oldMirror.any fun (m : Nat × List Nat) => m.1 = n then { q with oldMirror := none } else q
    parts := mmap s.parts fun _ x => { x with commits := x.commits.map fun c =>
      { c with toSend := c.toSend.filter (· ≠ n), waiting := c.waiting.filter (· ≠ n) } } }
  let s := if hit.isEmpty then s else s.raise (errorOf 0 0x0B 4 n)
  hit.foldl (fun s x => s.partnerGone x.1 x.2) s

/-- Whether every part of a copy has left and been acknowledged. -/
def State.copyLanded (s : State) (h : Nat) (q : Seq) : Bool :=
  decide (q.copyParts ≤ q.copied) && s.appendsAcked h && s.asf.conns.all fun c => c.2.unacked.all fun x => match x.purpose with
    | .mirrorCopy k => k ≠ h
    | _ => true

/-- A copy is complete: the old slots at a partner that lives are freed, the sequence may commit again, and STATE_MIRROR replies. -/
def State.copyDone (s : State) (h : Nat) (q : Seq) : State :=
  let s := match q.oldMirror with
    | some m => s.leavePartner h m.1 m.2 q
    | none => s
  let s := s.modSeq h fun q =>
    { q with copying := false, mirroring := false, oldMirror := none, unacked := if q.copying then none else q.unacked }
  ((s.cmdsOf q.part h .mirror).foldl (fun s d => s.finish d.id 0 0 0) s).release q.part

/-- MIRROR_COPY_COMPLETE (R385, R72): a copy that the partner could not take goes to the next candidate. -/
def execMirrorCopyComplete (handle : BitVec 18) (ok : Bool) (s : State) : Out :=
  .next <| s.whenLive fun s =>
    match s.seq handle.toNat with
    | some q =>
      if !s.copyWanted handle.toNat q then s
      else if !ok then s.partnerGone handle.toNat q
      else if (if q.prot || q.copying then s.copyLanded handle.toNat q else s.appendsAcked handle.toNat) then s.copyDone handle.toNat q
      else s
    | none => s

/-! ### The loss of a node (R38, R345, R388, R395, R398) -/

/-- Connections to a lost node are dead. -/
def State.killNode (s : State) (n : Nat) : State :=
  (s.asf.conns.filter fun c => c.2.node = n && c.2.state ≠ .dead).foldl (fun s c =>
    if c.2.state = .opening then s.openFails c.1 0x22 0 else s.killConn c.1 1) s

/-- A recast whose partner is lost before the flip: the groups that have not come are rebuilt (R397, R398). -/
def State.completeByRebuild (s : State) (h : Nat) (q : Seq) (m : Move) : State :=
  let missing := (q.pages.filter fun e => !m.received.contains e.1).flatMap fun e =>
    (List.range q.layers).map fun l => pageKey q.part (e.2 + l)
  let s := { s with tiers := { s.tiers with lost := s.tiers.lost ++ missing } }
  let s := s.modSeq h fun q =>
    { q with move := some { m with flipTick := some s.now }, promptTick := s.now, enableTick := s.now }
  (s.become h q.prior).toRebuild h

/-- The page-list indices that a move has still to bring. -/
def Seq.missingGroups (q : Seq) (m : Move) : List Nat := (q.pages.filter fun e => !m.received.contains e.1).map Prod.fst

/-- A group of a move whose source is lost, read from the slice that this device holds for the source. -/
def State.pullOwn (s : State) (h : Nat) (q : Seq) (m : Move) (x : Slice) (i : Nat) : State :=
  let mine := (s.directory x).filter fun e => e.2.1 = m.srcHandle && e.2.2.1 = 1 && e.2.2.2.1 = i
  match mget q.pages i with
  | some n =>
    let s := mine.foldl (fun s e => s.setPageBytes (pageKey q.part (n + e.2.2.2.2)) (s.readDram (x.base + sliceSlot x.slots e.1) 65536)) s
    s.modSeq h fun q => { q with move := q.move.map fun (m : Move) => { m with received := m.received ++ [i] } }
  | none => s

/-- The source of a protected move is lost before the flip: the destination pulls the remaining groups from the source's mirror (R38). -/
def State.pullMove (s : State) (h n : Nat) (q : Seq) (m : Move) : State :=
  let s := s.modSeq h fun q => { q with move := some { m with retried := true } }
  match m.mirror with
  | some k =>
    if k = s.ownNode then
      match mget s.res.slices n with
      | some x => (q.missingGroups m).foldl (fun s i => s.pullOwn h q m x i) s
      | none => s
    else s.send k (.pull n m.srcHandle (q.missingGroups m))
  | none => s

/-- What the loss of a node does to one sequence that moves (R38, R398). -/
def State.moveLoses (s : State) (n : Nat) (x : Nat × Seq) : State :=
  match x.2.move with
  | none => s
  | some m =>
    if m.node ≠ n then s
    else if !m.incoming then
      if x.2.state ≠ .moving then s else if m.recast then s.recastEnds x.1 else s.destinationLost x.1 x.2 m
    else if m.flipTick.isSome then s
    else if m.recast then
      if (x.2.missingGroups m).isEmpty then s.stampFlip x.1 x.2 m else s.completeByRebuild x.1 x.2 m
    else if (x.2.missingGroups m).isEmpty then s
    else if x.2.prot && m.mirror.isSome then s.pullMove x.1 n x.2 m
    else s.freeSeq x.1

/-- A spare is lost: a recast to it stops, and the manager finds another spare for it. -/
def State.spareLost (s : State) (n : Nat) : State :=
  let s := { s with res := { s.res with
    unhandled := mmap s.res.unhandled fun _ q => if q.move.any fun (m : Move) => m.node = n then { q with move := none } else q } }
  let s := if s.flag resStat_recastSource 0 && s.fld resRecast_spare 0 = n then s.setFlag resStat_recastSource 0 false else s
  let again := (s.res.recasts.filter fun x => x.2 = n).map Prod.fst
  { s with res := { s.res with
    recasts := s.res.recasts.filter fun x => x.2 ≠ n
    unspared := s.res.unspared ++ again.filter fun l => !s.res.unspared.contains l } }

/-- The reaction of every recipient to a loss decision, and of the manager to its own. -/
def State.reactLost (s : State) (n e : Nat) : State :=
  let s := s.setFld resStat_lastLost 0 n
  let s := { s with asf := { s.asf with lost := if s.asf.lost.contains n then s.asf.lost else s.asf.lost ++ [n] } }
  let s := s.deriveMap n e
  let s := s.killNode n
  let s := s.seqs.foldl (fun s x => s.moveLoses n x) s
  let s := (s.promote n).partnerLost n
  (s.spareLost n).noteTiers

/-! ### Spares (R394, R395) -/

/-- The failure domain of the partner that promotes a lost node's slice. -/
def State.promoterFdom (s : State) (lost : Nat) : Nat :=
  if mhas s.res.slices lost then s.fld asfNode_fdom 0 else Config.promoterDomain lost

/-- Whether a node qualifies as the spare of a lost one. -/
def State.spareFits (s : State) (lost n : Nat) : Bool :=
  (match mget s.asf.map n with
    | some e => e.valid && decide (e.fdom ≠ s.promoterFdom lost)
    | none => false) &&
  (match mget s.res.watch n with
    | some w => w.flags / 2 % 2 = 0
    | none => false)

/-- The first entry of RES_SPARE that qualifies, and that has not refused a sequence of the lost node. -/
def State.findSpare (s : State) (lost : Nat) : Option Nat :=
  ((List.range 16).filter fun i => s.flag resSpare_valid i).findSome? fun i =>
    let n := s.fld resSpare_node i
    if s.spareFits lost n && !(mgetD s.res.refused lost []).contains n then some n else none

/-- The reaction to a spare's assignment: the partner begins its stream, the spare expects it. -/
def State.reactSpare (s : State) (lost spare : Nat) : State :=
  if spare = s.ownNode then (s.setFlag resStat_recastDest 0 true).setFld resRecast_spare 0 spare
  else
    match mget s.res.slices lost with
    | some x =>
      if x.state ≠ 1 then s
      else ((((s.setFld resRecast_spare 0 spare).setFld resRecast_source 0 s.ownNode).setFlag resStat_recastSource 0 true).noteRecast lost).sendMember spare x
    | none => s

/-- A DECISION frame's payload. -/
def decisionBody (term node epoch kind spare tick : Nat) : List (BitVec 8) :=
  leBytes 4 term ++ leBytes 2 node ++ leBytes 1 epoch ++ leBytes 1 kind ++ leBytes 2 spare ++ leBytes 6 0 ++ leBytes 8 tick ++ leBytes 8 0

/-- Assigns a spare to one lost node, where one qualifies. -/
def State.assignSpare (s : State) (lost : Nat) : State :=
  match s.findSpare lost with
  | none => s
  | some n =>
    let s := { s with res := { s.res with unspared := s.res.unspared.erase lost, recasts := mset s.res.recasts lost n } }
    let body := decisionBody (s.fld resMgr_term 0) lost (s.fld asfEpoch_current 0) 1 n s.now
    (s.recipients.foldl (fun s r => s.sendGroup r 0x16 body) s).reactSpare lost n

/-- Tries every lost node without a spare. -/
def State.assignSpares (s : State) : State :=
  if s.managing && s.flag resCtrl_autoRecast 0 then
    s.res.unspared.foldl State.assignSpare { s with res := { s.res with sparedAt := s.now } }
  else s

/-- SPARE_RETRY_TIMER (R394): every 1 ms while a lost node has no spare. -/
def execSpareRetryTimer (s : State) : Out :=
  .next <| s.whenLive fun s =>
    if !s.res.unspared.isEmpty && s.res.sparedAt + ticksPerMs ≤ s.now then s.assignSpares else s

/-! ### Decisions of the manager (R387, R388) -/

/-- The manager declares a node lost. -/
def State.declareLost (s : State) (n : Nat) : State :=
  if s.asf.lost.contains n || n = s.ownNode then s
  else
    let e := (s.fld asfEpoch_current 0 + s.res.pendingMap.length + 1) % 256
    let term := s.fld resMgr_term 0
    let body := decisionBody term n e 0 0 s.now
    let s := (n :: s.recipients).dedup.foldl (fun s r => s.sendGroup r 0x16 body) s
    let s := { s with res := { s.res with
      decisions := s.res.decisions ++ [Decision.mk term n e s.now s.now], watch := mdel s.res.watch n, unspared := s.res.unspared ++ [n] } }
    let s := s.raise (errorOf 0 0x0B 5 n)
    (((s.reactLost n e).managerReplies n).recastNotices n).assignSpares

/-- Whether a node's last heartbeat carries an epoch, or a later one. -/
def State.carries (s : State) (n epoch : Nat) : Bool :=
  match mget s.res.watch n with
  | some w => (w.epoch + 256 - epoch % 256) % 256 < 128
  | none => false

/-- The recipients of a decision whose heartbeat does not carry its epoch yet; no heartbeat of the lost node is waited for. -/
def State.lacking (s : State) (d : Decision) : List Nat :=
  (s.recipients.filter fun n => !s.res.decisions.any fun x => x.node = n).filter fun n => !s.carries n d.epoch

/-- Sends one decision again; one that every recipient's heartbeat carries is done with. -/
def State.resendDecision (s : State) (d : Decision) : State :=
  let late := s.lacking d
  let body := decisionBody d.term d.node d.epoch 0 0 d.tick
  let s := (if late.isEmpty then [] else d.node :: late).foldl (fun s n => s.sendGroup n 0x16 body) s
  { s with res := { s.res with decisions :=
      if late.isEmpty then s.res.decisions.erase d else s.res.decisions.map fun x => if x = d then { d with sentAt := s.now } else x } }

/-- DECISION_RESEND (R388): every beat interval, each decision to the recipients whose heartbeats do not carry its epoch yet. -/
def execDecisionResend (s : State) : Out :=
  .next <| s.whenLive fun s =>
    if !s.managing then s
    else (s.res.decisions.filter fun d => d.sentAt + s.fld resCtrl_beatUs 0 * ticksPerUs ≤ s.now).foldl State.resendDecision s

/-! ### Heartbeats, suspicion and loss (R387) -/

/-- The journal region that the manager grants a home (R384). -/
def State.grantJournal (s : State) (node : Nat) : State :=
  if s.asf.regions.any fun r => r.2.journalOf = some node then s
  else
    let r := s.regionBase (2 ^ 24)
    match r.2.addRegion ⟨0, r.1, 2 ^ 24, 2, node, 0, false, none, some node⟩ with
    | (t, 0, _) => t.send node (.journalGrant r.1)
    | _ => r.2

/-- What a heartbeat says. -/
def beatWatched (f : Frame) (now : Tick) : Watched := ⟨now, none, frameNum f 3 1, frameNum f 8 1, frameNum f 2 1⟩

/-- A heartbeat arrives. -/
def State.beat (f : Frame) (s : State) : State :=
  if !s.flag resCtrl_enable 0 then s
  else
    let node := frameNum f 0 2
    let flags := frameNum f 3 1
    let term := frameNum f 4 4
    let acts := flags / 4 % 2 = 1 && s.fld resMgr_term 0 ≤ term && !s.managing
    let s := { s with res := { s.res with watch := mset s.res.watch node (beatWatched f s.now) } }
    let s := s.seeTerm term
    let s := if acts then s.setFld resMgr_acting 0 node else s
    if !s.managing then s
    else if flags % 2 = 1 then s.declareLost node
    else s.grantJournal node

/-- HEARTBEAT (R386, R387). -/
def execHeartbeat (rx : Rx) (s : State) : Out :=
  .next (s.groupAt rx 0x14 (fun f => frameNum f 3 1 < 8 && frameNum f 9 7 = 0) State.beat)

/-- Whether this device watches a node: the manager watches every one, a deputy the acting manager. -/
def State.watches (s : State) (n : Nat) : Bool :=
  s.flag resCtrl_enable 0 && (s.managing || (s.fld resMgr_acting 0 = n && s.deputies.contains s.ownNode))

/-- Suspects a node, and probes it on each of its usable ports. -/
def State.suspect (s : State) (n : Nat) : State :=
  let s := { s with res := { s.res with watch := mmod s.res.watch n fun w => { w with suspected := some s.now } } }
  s.sendProbes n (leBytes 2 n ++ leBytes 30 0)

/-- Whether a watched node is due to be suspected. -/
def State.overdue (s : State) (n : Nat) : Bool :=
  match mget s.res.watch n with
  | some w => w.suspected.isNone && decide (w.last + s.missTicks ≤ s.now)
  | none => false

/-- Whether the suspicion of a node has lasted its time. -/
def State.suspectedLong (s : State) (n : Nat) : Bool :=
  match mget s.res.watch n with
  | some w => w.suspected.any fun (t : Tick) => t + s.missTicks ≤ s.now
  | none => false

/-- SUSPICION_TIMER (R387). -/
def execSuspicionTimer (node : BitVec 16) (s : State) : Out :=
  .next <| s.whenLive fun s => if s.watches node.toNat && s.overdue node.toNat then s.suspect node.toNat else s

/-- LOSS_TIMER (R387). -/
def execLossTimer (node : BitVec 16) (s : State) : Out :=
  .next <| s.whenLive fun s =>
    if s.flag resCtrl_enable 0 && s.managing && s.suspectedLong node.toNat then s.declareLost node.toNat else s

/-- A probe is answered; an answer ends the suspicion. -/
def State.probed (f : Frame) (s : State) : State :=
  let node := frameNum f 0 2
  if frameNum f 2 1 = 1 then
    { s with res := { s.res with watch := mmod s.res.watch node fun w => { w with last := s.now, suspected := none } } }
  else if node = s.ownNode then s.sendGroup f.srcNode.toNat 0x15 (leBytes 2 node ++ leBytes 1 1 ++ leBytes 29 0)
  else s

/-- PROBE (R386, R387). -/
def execProbe (rx : Rx) (s : State) : Out :=
  .next (s.groupAt rx 0x15 (fun f => frameNum f 2 1 < 2 && frameNum f 3 29 = 0) State.probed)

/-! ### DECISION (R388, R390, R394) -/

/-- A decision of at least the highest term arrives: an acting manager that it out-terms fences itself. -/
def State.decided (f : Frame) (s : State) : State :=
  let term := frameNum f 0 4
  let node := frameNum f 4 2
  if term < s.fld resMgr_term 0 then s
  else if s.managing && s.fld resMgr_term 0 < term then (s.seeTerm term).fence
  else
    let s := s.seeTerm term
    if frameNum f 7 1 = 1 then s.reactSpare node (frameNum f 8 2)
    else if node = s.ownNode then ((s.bump resStat_losses 0 1).setFld resStat_lastLost 0 node).fence
    else if s.asf.lost.contains node then s
    else (s.bump resStat_losses 0 1).reactLost node (frameNum f 6 1)

/-- DECISION (R386, R388). -/
def execDecision (rx : Rx) (s : State) : Out :=
  .next (s.groupAt rx 0x16 (fun f => frameNum f 7 1 < 2 && frameNum f 10 6 = 0) State.decided)

/-! ### Takeover (R389) -/

/-- This device's place among the deputies. -/
def State.deputyIndex (s : State) : Option Nat := s.deputies.findIdx? (· = s.ownNode)

/-- Whether every deputy below a place has been silent. -/
def State.lowerSilent (s : State) (i : Nat) : Bool :=
  (s.deputies.take i).all fun n => !isNode n || match mget s.res.watch n with
    | some w => w.last + s.missTicks ≤ s.now
    | none => true

/-- A new acting manager: the journals go there once it has granted a region. -/
def State.follow (s : State) (m : Nat) : State :=
  let s := (s.setFld resMgr_acting 0 m).setFlag resStat_managing 0 (m = s.ownNode)
  { s with res := { s.res with reship := true } }

/-- The deputy takes over, and decides the loss of the old manager. -/
def State.deputyTakes (s : State) (old : Nat) : State :=
  let term := (s.fld resMgr_term 0 + 1) % 2 ^ 32
  let body := leBytes 4 term ++ leBytes 2 s.ownNode ++ leBytes 2 old ++ leBytes 24 0
  let s := s.setFld resMgr_term 0 term
  let s := s.recipients.foldl (fun s n => if mhas s.res.watch n then s.sendGroup n 0x17 body else s) s
  (s.follow s.ownNode).declareLost old

/-- DEPUTY_TAKEOVER_TIMER (R389): the deputy first probes the acting manager, and takes over when the probe's time has passed. -/
def execDeputyTakeoverTimer (s : State) : Out :=
  .next <| s.whenLive fun s =>
    let m := s.fld resMgr_acting 0
    match s.deputyIndex with
    | some i =>
      if !s.flag resCtrl_enable 0 || s.managing || !isNode m || !s.lowerSilent i then s
      else if s.overdue m then s.suspect m
      else if s.suspectedLong m then s.deputyTakes m
      else s
    | none => s

/-- A takeover of at least the highest term arrives: an acting manager that it out-terms fences itself (R390). -/
def State.takenOver (f : Frame) (s : State) : State :=
  let term := frameNum f 0 4
  if term < s.fld resMgr_term 0 then s
  else if s.managing then (if s.fld resMgr_term 0 < term then (s.seeTerm term).fence else s)
  else (s.seeTerm term).follow (frameNum f 4 2)

/-- TAKEOVER (R386, R389). -/
def execTakeover (rx : Rx) (s : State) : Out := .next (s.groupAt rx 0x17 (fun f => frameNum f 8 24 = 0) State.takenOver)

/-! ### RECAST_FLIP (R395) -/

/-- The spare has flipped a promoted sequence: its slots go into the spare's slice, and it leaves this device. -/
def State.recastFlipped (s : State) (h newH : Nat) (q : Seq) (m : Move) : State :=
  let lost := (q.promoted.getD (0, 0)).1
  let old := (q.promoted.getD (0, 0)).2
  let s := s.mirrorFor m.node newH q
  let s := (s.dropPromoted h q m newH).noteRecast lost
  (s.deferredMoves lost old m.node newH).noticeAll lost (notice 2 (noticeResult m.node q.part newH old))

/-- RECAST_FLIP (R395): once every part of the sequence has left. -/
def execRecastFlip (handle newHandle : BitVec 18) (s : State) : Out :=
  .next <| s.whenLive fun s =>
    match s.promotedSeq handle.toNat with
    | some q =>
      match q.move with
      | some m => if m.incoming || q.recastDue m.node then s else s.recastFlipped handle.toNat newHandle.toNat q m
      | none => s
    | none => s

end Sys2Proof.Machine
end

