-- ==== Sys2Proof/Machine/Fabric.lean ====
section
/-! DEFINITION. The fabric ports' choice of frames, the host's remote windows and the ownership of regions (R320, R327, R332,
R340, R366 to R372). -/

set_option Elab.async false

namespace Sys2Proof.Machine

/-! ### A frame's port time and wrapping (R317, R367) -/

/-- A frame's bytes on the wire, with FCS, preamble and inter-frame gap. -/
def State.wireBytes (s : State) (f : Frame) : Nat :=
  f.payload.length + match s.fld asfFrameCfg_mode 0 with
    | 0 => 114 | 1 => 142 | _ => 162

/-- The ticks of port time that bytes take at 100 GB/s. -/
def portTicks (bytes : Nat) : Nat := ceilDiv bytes 25

/-! ### Gates (R369, R371) -/

/-- The entries of a part of a list, with the ticks at which they begin, up to a tick at which the list is cut. -/
def State.walkGates (s : State) (g : GateList) (from_ last : Tick) (es : List (Nat × Nat)) : List (Tick × Nat) :=
  (es.foldl (fun (a : Tick × List (Tick × Nat)) e =>
    if a.1 < last then (a.1 + s.gateSpan g e.1, a.2 ++ [(a.1, e.2)]) else a) (from_, [])).2

/-- The tick at which a list restarts next: the end of its cycle, or the scheduled boundary of its partition; none where that is late
(R369). -/
def State.gateRestart (s : State) (g : GateList) : Option Tick :=
  match g.bind with
  | some p => if s.now < s.scheduledTick p then some (s.scheduledTick p) else none
  | none => some (g.start + g.cycle)

/-- The entries that follow the one in force, with the ticks at which they begin: the rest of the list up to its restart, and the whole list
once more from there. -/
def State.gatesAhead (s : State) (g : GateList) : List (Tick × Nat) :=
  let stop := s.gateRestart g
  let rest := match g.idxEnd with
    | some t => s.walkGates g t (stop.getD (t + 2 ^ 64)) (g.entries.drop (g.idx + 1))
    | none => []
  rest ++ match stop with
    | some t => s.walkGates g t (t + 2 ^ 64) g.entries
    | none => []

/-- The tick at which a class's gate next closes, if it is known to. -/
def State.closesAt (s : State) (port cls : Nat) : Option Tick :=
  match mget s.shp.gates port with
  | none => none
  | some g => ((s.gatesAhead g).find? fun x => x.2 / 2 ^ cls % 2 = 0).map Prod.fst

/-- Whether a class's gate is open. -/
def State.gateOpen (s : State) (port cls : Nat) : Bool := s.fld shpGateStat_gates port / 2 ^ cls % 2 = 1

/-- Whether bytes of a class end before its gate closes. -/
def State.fitsGate (s : State) (port cls bytes : Nat) : Bool :=
  match s.closesAt port cls with
  | some t => s.now + portTicks bytes ≤ t
  | none => true

/-! ### Buckets (R372) -/

/-- Whether the buckets of a port's class and of a group allow a frame. -/
def State.bucketsAllow (s : State) (port cls group : Nat) : Bool :=
  (!s.flag shpBucket_enable (8 * port + cls) || 0 < mgetD s.shp.credits (8 * port + cls) 0) &&
    (!s.flag shpGrpBucket_enable group || 0 < mgetD s.shp.credits (64 + group) 0)

/-- Takes a frame's cost from both buckets. -/
def State.payBuckets (s : State) (port cls group bytes : Nat) : State :=
  let cost : Int := 256 * ceilDiv bytes 64
  let pay (on : Bool) (k : Nat) (m : AMap Int) : AMap Int := if on then mset m k (mgetD m k 0 - cost) else m
  let m := pay (s.flag shpBucket_enable (8 * port + cls)) (8 * port + cls) s.shp.credits
  { s with shp := { s.shp with credits := pay (s.flag shpGrpBucket_enable group) (64 + group) m } }

/-! ### The choice (R335, R340, R368) -/

/-- Whether a frame passes every gate and bucket: an answer without payload (R367). -/
def freePass (f : Frame) : Bool :=
  f.payload.isEmpty && (f.op = 2 || f.op = 8 || f.op = 9 || f.op = 0x0A || f.op = 0x0C || f.op = 0x0E)

/-- The bytes that a connection has in flight. -/
def Conn.inFlight (k : Conn) : Nat := ((k.unacked.filter Sent.begun).map fun x => requestBytes x.frame).sum

/-- The atomics that a connection has begun. -/
def Conn.atomicsOut (k : Conn) : Nat := (k.unacked.filter fun x => x.begun && 5 ≤ x.frame.op.toNat).length

/-- Whether its connection lets a frame start now: a request within the congestion window, and at most 64 atomics. -/
def State.connAllows (s : State) (f : Frame) : Bool :=
  if !isRequest f.op.toNat then true
  else
    match s.conn f.srcConn.toNat with
    | some k => (k.inFlight = 0 || ((k.inFlight + requestBytes f : Nat) : Rat) ≤ k.w) && (f.op.toNat < 5 || k.atomicsOut < 64)
    | none => true

/-- The first frame of each connection and kind in a queue: a connection's requests leave in their order. -/
def heads : List Nat → List (Nat × Frame) → List (Nat × Frame)
  | _, [] => []
  | seen, x :: xs =>
    let key := if isRequest x.2.op.toNat then x.2.srcConn.toNat else 65536
    if seen.contains key then heads seen xs else x :: heads (key :: seen) xs

/-- Whether a frame may start on a port now, but for its window. -/
def State.mayStart (s : State) (port cls : Nat) (x : Nat × Frame) : Bool :=
  s.connAllows x.2 && (freePass x.2 || (s.gateOpen port cls && s.bucketsAllow port cls x.1))

/-- Whether it ends before its gate closes. -/
def State.fits (s : State) (port cls : Nat) (x : Nat × Frame) : Bool := freePass x.2 || s.fitsGate port cls (s.wireBytes x.2)

/-- The first frame of a list whose group follows one in round robin. -/
def nextOfGroup (last : Nat) (l : List (Nat × Frame)) : Option (Nat × Frame) :=
  let groups := (l.map Prod.fst).mergeSort
  let g := (groups.find? fun g => last < g).orElse fun _ => groups.head?
  match g with
  | some g => l.find? fun x => x.1 = g
  | none => none

/-- What a class of a port offers: the frame that would start, and whether one was held for its window alone. -/
def State.offer (s : State) (port cls : Nat) : Option (Nat × Frame) × Bool :=
  let can := (heads [] (s.txqueue port cls)).filter fun x => s.mayStart port cls x
  let fit := can.filter fun x => s.fits port cls x
  let last := mgetD s.shp.nextGroup (8 * port + cls) 17
  (nextOfGroup last fit, fit.length < can.length)

/-- Counts a frame held for its window, once. -/
def State.noteHeld (s : State) (port cls : Nat) : State :=
  if s.shp.heldFit.contains (8 * port + cls) then s
  else ({ s with shp := { s.shp with heldFit := s.shp.heldFit ++ [8 * port + cls] } }).bump shpGateStat_heldFit port 1

/-- The queue of a port's class behind a frame's start: the connection's other frames go behind those of its group. -/
def afterStart (x : Nat × Frame) (l : List (Nat × Frame)) : List (Nat × Frame) :=
  let rest := l.erase x
  let own := rest.filter fun y => y.1 = x.1 && y.2.srcConn = x.2.srcConn
  rest.filter (fun y => !(y.1 = x.1 && y.2.srcConn = x.2.srcConn)) ++ own

/-- The payload of a time frame with its transmit tick (R357): t1 of TIME_REQ, t3 of TIME_RESP. -/
def timed (f : Frame) (now : Tick) : List (BitVec 8) :=
  if f.op = 0x11 then leBytes 8 now else if f.op = 0x12 then f.payload.take 16 ++ leBytes 8 now else f.payload

/-- The frame as it leaves: the current epoch, the time stamp and the count of its connection. -/
def State.stamped (s : State) (f : Frame) : Frame :=
  let f := { f with
    epoch := BitVec.ofNat 8 (s.fld asfEpoch_current 0), ts := BitVec.ofNat 32 s.now, payload := timed f s.now }
  if 0x10 ≤ f.op.toNat then { f with arg := 0 }
  else { f with txCount := match s.conn f.srcConn.toNat with
      | some k => BitVec.ofNat 64 k.txCount
      | none => 0 }

/-- Marks a request's transmission as begun; the port and the tick of a TIME_REQ are kept for its answer (R357, R358). -/
def State.begin (s : State) (port : Nat) (f : Frame) : State :=
  if f.op = 0x11 then { s with tmb := { s.tmb with reqT1 := some (port, s.now) } }
  else if 0x10 ≤ f.op.toNat then s
  else s.modConn f.srcConn.toNat fun k =>
    { k with
      txCount := k.txCount + 1
      unacked := if isRequest f.op.toNat then k.unacked.map fun x =>
          if x.psn = f.psn.toNat then { x with begun := true, sentAt := s.now, frame := f } else x
        else k.unacked }

/-- A port starts a frame of a class. -/
def State.startFrame (s : State) (port cls : Nat) (x : Nat × Frame) : State :=
  let bytes := s.wireBytes x.2
  let f := s.stamped x.2
  let key := 8 * port + cls
  let e := s.encap port cls x.2
  let s := s.rouse (89 + port) 2
  let s := { s with
    asf := { s.asf with txq := mset s.asf.txq key (afterStart x (s.txqueue port cls)) }
    shp := { s.shp with
      nextGroup := mset s.shp.nextGroup key x.1
      heldFit := s.shp.heldFit.filter (· ≠ key)
      portFree := mset s.shp.portFree port (s.now + portTicks bytes) } }
  let s := if freePass x.2 then s else s.payBuckets port cls x.1 bytes
  (((s.begin port f).emit (.frame port e f)).noteEpoch).workedUntil (89 + port) (s.now + portTicks bytes)

/-- The highest class that offers a frame starts it. -/
def State.chooseFrame (s : State) (port : Nat) : List Nat → State
  | [] => s
  | cls :: rest =>
    match s.offer port cls with
    | (some x, held) => (if held then s.noteHeld port cls else s).startFrame port cls x
    | (none, held) => State.chooseFrame (if held then s.noteHeld port cls else s) port rest

/-- FRAME_TX_START (R368). -/
def execFrameTxStart (port : Fin 8) (s : State) : Out :=
  .next <| s.whenLive fun s =>
    if s.ownNode ≠ 0xFFFF && s.asf.links.contains port.val && mgetD s.shp.portFree port.val 0 ≤ s.now then
      s.chooseFrame port.val [7, 6, 5, 4, 3, 2, 1, 0]
    else s

/-! ### Remote windows (R332) -/

/-- The window-register instance of a function's window. -/
def winOf (fn : Nat) (w : Nat) : Nat := 16 * fn + w

/-- Issues a window's operation on its connection, which must be one of the function's to the window's node; else it fails. -/
def State.windowIssue (s : State) (fn i : Nat) (p : Purpose) (f : Nat → State → State) : State :=
  let c := s.fld asfRwinCtrl_conn i
  match s.conn c with
  | some k =>
    if k.fn = fn && k.mine && k.node = s.fld asfRwinTarget_node i then (f c s).tellFailures
    else (s.failLater c 1 (s.fld asfRwinTarget_node i) p).tellFailures
  | none => (s.failLater c 1 (s.fld asfRwinTarget_node i) p).tellFailures

/-- A host write through a window. -/
def State.windowWrite (s : State) (fn w off : Nat) (data : List (BitVec 8)) : State :=
  let i := winOf fn w
  if !s.flag asfRwinCtrl_enable i || data.isEmpty then s
  else s.windowIssue fn i .windowWrite fun c s =>
    s.issueWrite c (s.fld asfRwinCtrl_key i) (s.fld asfRwinTarget_offset i + off) data .windowWrite

/-- HOST_WINDOW_WRITE (R332). -/
def execHostWindowWrite (fn : Fn) (w : Fin 16) (off : BitVec 26) (data : List (BitVec 8)) (s : State) : Out :=
  .next (s.whenLive fun s => s.windowWrite (fnNum fn) w.val off.toNat data)

/-- A host read through a window. -/
def State.windowRead (s : State) (fn w off len : Nat) : State :=
  let i := winOf fn w
  if !s.flag asfRwinCtrl_enable i || len = 0 then s.emit (.completion fn off (List.replicate len 0) false false)
  else s.windowIssue fn i (.windowRead fn w off len) fun c s =>
    s.issueRead c (s.fld asfRwinCtrl_key i) (s.fld asfRwinTarget_offset i + off) len (.windowRead fn w off len)

/-- HOST_WINDOW_READ (R332). -/
def execHostWindowRead (fn : Fn) (w : Fin 16) (off : BitVec 26) (len : Nat) (s : State) : Out :=
  .next (s.whenLive fun s => s.windowRead (fnNum fn) w.val off.toNat len)

/-- The Asith atomic of a host AtomicOp: OP, payload and the operand's size. -/
def atomicFrame : AtomicOp → Option (Nat × List (BitVec 8) × Nat)
  | .fetchAdd v => some (5, leBytes 8 v.toNat, 8)
  | .swap v => some (6, leBytes 8 v.toNat, 8)
  | .cas64 a b => some (7, leBytes 8 a.toNat ++ leBytes 8 b.toNat, 8)
  | .cas128 a b => some (7, leBytes 16 a.toNat ++ leBytes 16 b.toNat, 16)
  | .narrow => none

/-- A host AtomicOp through a window. -/
def State.windowAtomic (s : State) (fn w off : Nat) (op : AtomicOp) : State :=
  let i := winOf fn w
  match atomicFrame op with
  | none => s.emit (.completion fn off [] false true)
  | some (o, bytes, len) =>
    if !s.flag asfRwinCtrl_enable i then s.emit (.completion fn off (List.replicate len 0) false false)
    else s.windowIssue fn i (.windowAtomic fn w off len) fun c s =>
      s.issue c { Frame.zero with
        op := BitVec.ofNat 8 o, flags := 8, key := BitVec.ofNat 32 (s.fld asfRwinCtrl_key i)
        offset := BitVec.ofNat 64 (s.fld asfRwinTarget_offset i + off), payload := bytes } (.windowAtomic fn w off len)

/-- HOST_WINDOW_ATOMIC (R332). -/
def execHostWindowAtomic (fn : Fn) (w : Fin 16) (off : BitVec 26) (op : AtomicOp) (s : State) : Out :=
  .next (s.whenLive fun s => s.windowAtomic (fnNum fn) w.val off.toNat op)

/-- A write of a window's immediate register: its reserved half alone sends nothing. -/
def State.windowImm (s : State) (fn w : Nat) (lane : Lane) (v : BitVec 64) : State :=
  let i := winOf fn w
  if lane = .high || !s.flag asfRwinCtrl_enable i then s
  else s.windowIssue fn i .windowImm fun c s =>
    s.issue c { Frame.zero with
      op := 4, flags := 8, key := BitVec.ofNat 32 (s.fld asfRwinCtrl_key i)
      offset := BitVec.ofNat 64 (s.fld asfRwinTarget_offset i), arg := BitVec.ofNat 32 v.toNat } .windowImm

/-- ASF_RWIN_IMM (R332). -/
def execAsfRwinImm (fn : Fn) (w : Fin 16) (lane : Lane) (v : BitVec 64) (s : State) : Out :=
  .next (s.whenLive fun s => s.windowImm (fnNum fn) w.val lane v)

/-! ### Ownership (R327) -/

/-- The live region that a key of a function names; one that is draining is live until its revoke replies. -/
def State.regionOf (s : State) (fn key : Nat) : Option (Nat × Region) :=
  match mget s.asf.regions (key % 4096) with
  | some r => if r.gen = key / 4096 && r.fn = fn then some (key % 4096, r) else none
  | none => none

/-- Moves a region's ownership: the old owner's new writes and atomics are refused from here on, and BUSY stays until those that it
had accepted have retired. -/
def State.moveOwner (s : State) (fn key new : Nat) : State :=
  if s.flag asfOwnStat_busy 0 then s
  else
    match s.regionOf fn key with
    | none => s.setFlag asfOwnStat_refused 0 true
    | some (i, r) =>
      let s := { s with asf := { s.asf with regions := mset s.asf.regions i { r with owner := new }, ownMoving := some (i, r.owner) } }
      let s := (s.setFlag asfOwnStat_refused 0 false).setFld asfOwnStat_owner 0 new
      (s.setFlag asfOwnStat_busy 0 true).settleRegions

/-- ASF_OWN_CMD (R327): one write of the whole register. -/
def execAsfOwnCmd (fn : Fn) (lane : Lane) (v : BitVec 64) (s : State) : Out :=
  .next <| s.whenLive fun s =>
    if lane = .full then s.moveOwner (fnNum fn) (asfOwnCmd_key.get v) (asfOwnCmd_newOwner.get v) else s

end Sys2Proof.Machine
end

