-- ==== Sys2Proof/Machine/Time.lean ====
section
/-! DEFINITION. The time base: local copies, the group exchange, PTP, pulse-per-second and steps (R351 to R363). -/

set_option Elab.async false

namespace Sys2Proof.Machine

/-! ### Copies (R352) -/

/-- COPY_COMPARE (R352): a copy found off at the last comparison is reloaded; one found off now raises the error. Each operand pair is
a copy and its distance from the master count; the copy of a domain whose rind holds it is not compared (R418; DEDUCED, log 159). -/
def execCopyCompare (copies : List (Nat × Int)) (s : State) : Out :=
  .next <| s.whenLive fun s =>
    let off := copies.filter fun c => 2 < c.2.natAbs && !mhas s.pwr.copies c.1 && !s.tmb.drift.any fun d => d.1 = c.1
    let s := { s with tmb := { s.tmb with drift := off } }
    off.foldl (fun s c => (s.bump tmbStat_relocks 0 1).raise (errorOf 0 9 1 c.1)) s

/-! ### Steps and slews (R354, R358, R360) -/

/-- Whether nothing runs that a step would disturb: no table active or armed, no gate list active or armed. -/
def State.mayStep (s : State) : Bool :=
  (s.parts.all fun p => p.2.active.isNone && p.2.swapTick.isNone) && s.shp.gates.isEmpty &&
    (List.range 8).all fun q => !s.flag shpGateCtrl_armed q

/-- Whether a correction in ticks exceeds STEP_LIMIT. -/
def State.overStep (s : State) (x : Int) : Bool := decide (4 * s.fld tmbCtrl_stepLimit 0 < x.natAbs)

/-- Moves the count in one step. -/
def State.stepCount (s : State) (x : Int) : State :=
  { s with now := (((s.now : Int) + x) % 2 ^ 64).toNat, tmb := { s.tmb with exchanges := [] } }.setFlag tmbStat_stepped 0 true

/-- Sets ALIGN_LOST and raises its error, once (R360). -/
def State.loseAlignment (s : State) : State :=
  if s.flag tmbStat_alignLost 0 then s else ((s.setFlag tmbStat_alignLost 0 true).setFlag tmbStat_locked 0 false).raise (errorOf 0 9 3 0)

/-- Counts a filtered offset against the 80-tick bound: four beyond it lose alignment, sixteen within it give LOCKED (R360). -/
def State.judge (s : State) (offset : Rat) : State :=
  if 80 < |offset| then
    let s := { s with tmb := { s.tmb with bad := s.tmb.bad + 1, good := 0 } }.setFlag tmbStat_locked 0 false
    if 4 ≤ s.tmb.bad then s.loseAlignment else s
  else
    let s := { s with tmb := { s.tmb with good := min 16 (s.tmb.good + 1), bad := 0 } }
    if 16 ≤ s.tmb.good then (s.setFlag tmbStat_locked 0 true).setFlag tmbStat_alignLost 0 false else s

/-- A value held to ± a bound. -/
def heldTo (b x : Rat) : Rat := max (-b) (min b x)

/-- Corrects the count by an offset with an interval in ticks: by a step where that is allowed, by slew otherwise (R354, R358). -/
def State.correct (s : State) (offset interval : Rat) : State :=
  let s := (s.setFldInt tmbOffset_offset 0 ⌊offset⌋).setFlag tmbStat_holdover 0 false
  let s := s.judge offset
  if s.overStep ⌊offset⌋ && s.mayStep then s.stepCount ⌊offset⌋
  else
    let freq := s.tmb.freq + offset / (64 * interval)
    let bound : Rat := (s.fld tmbCtrl_maxSlew 0 : Rat) / 1000000
    { s with tmb := { s.tmb with freq := freq, slew := heldTo bound (freq + offset / (8 * interval)) } }

/-- The offset of the exchange with the smallest delay. -/
def bestOffset : List (Rat × Rat) → Option (Rat × Rat)
  | [] => none
  | x :: xs =>
    match bestOffset xs with
    | some y => if y.1 < x.1 then some y else some x
    | none => some x

/-- The exchange interval in ticks (R357). -/
def State.exchangeTicks (s : State) : Nat := 500000 * 2 ^ s.fld tmbCtrl_interval 0

/-- Whether an exchange interval has passed (R357). -/
def State.intervalOver (s : State) : Bool := s.tmb.reqAt.all fun t => t + s.exchangeTicks ≤ s.now

/-- Holdover: the last frequency stands, and the count slews no further (R360). -/
def State.holdOver (s : State) : State := { s with tmb := { s.tmb with slew := s.tmb.freq } }.setFlag tmbStat_holdover 0 true

/-- The end of an exchange interval: an answer that has not come is given up; eight intervals without an exchange lose alignment (R357,
R360). -/
def State.endInterval (s : State) : State :=
  let missed := if s.tmb.exchanged then 0 else s.tmb.missed + 1
  let s := { s with tmb := { s.tmb with exchanged := false, missed := missed, reqT1 := none, reqAt := some s.now } }
  if 8 ≤ missed then s.loseAlignment.holdOver else s

/-- A completed exchange of four ticks on a port: the last 8 are kept, and the one with the smallest delay gives the offset. -/
def State.exchange (s : State) (port t1 t2 t3 t4 : Nat) : State :=
  let out : Rat := (t2 : Rat) - t1
  let back : Rat := (t4 : Rat) - t3
  let x : Rat × Rat := ((out + back) / 2, (out - back) / 2 - (s.fldInt tmbPortAsym_asym port : Rat))
  let kept := (s.tmb.exchanges ++ [x]).drop (s.tmb.exchanges.length + 1 - 8)
  let s := { s with tmb := { s.tmb with exchanges := kept, exchanged := true, missed := 0, reqT1 := none } }
  match bestOffset kept with
  | some b => s.correct b.2 s.exchangeTicks
  | none => s

/-! ### The group exchange (R357) -/

/-- The node that a device asks: none without phase source 1, and a root asks no one. -/
def State.asksTime (s : State) : Bool :=
  s.fld tmbCtrl_phaseSrc 0 = 1 && s.fld tmbCtrl_master 0 ≠ s.ownNode && s.fld tmbCtrl_master 0 ≠ 0xFFFF && s.ownNode ≠ 0xFFFF

/-- TIME_REQ_TIMER (R357, R360): the next interval begins, with a TIME_REQ. With phase source 2 the intervals count alone (DESIGN CHOICE, log
76). -/
def execTimeReqTimer (s : State) : Out :=
  .next <| s.whenLive fun s =>
    if !s.intervalOver then s
    else if s.asksTime then s.endInterval.sendGroup (s.fld tmbCtrl_master 0) 0x11 (leBytes 8 0)
    else if s.fld tmbCtrl_phaseSrc 0 = 2 then s.endInterval
    else s

/-- TIME_REQ (R358): any node answers from its own count; the port writes t3 when the answer leaves. -/
def execTimeReq (node : BitVec 16) (port : Fin 8) (t1 : BitVec 64) (s : State) : Out :=
  .next <| s.whenLive fun s =>
    if s.ownNode = 0xFFFF || !s.asf.links.contains port.val then s
    else (s.rxWork port.val).sendGroup node.toNat 0x12 (leBytes 8 t1.toNat ++ leBytes 8 s.now ++ leBytes 8 0)

/-- TIME_RESP (R358): the answer to the TIME_REQ that is out, with the asymmetry of the port that sent that. -/
def execTimeResp (port : Fin 8) (t1 t2 t3 : BitVec 64) (s : State) : Out :=
  .next <| s.whenLive fun s =>
    match s.tmb.reqT1 with
    | some x =>
      if s.fld tmbCtrl_phaseSrc 0 = 1 && x.2 = t1.toNat then (s.rxWork port.val).exchange x.1 t1.toNat t2.toNat t3.toNat s.now else s
    | none => s

/-! ### The frequency reference (R355) -/

/-- TIME_CLK_IN_LOSS (R355). -/
def execTimeClkInLoss (s : State) : Out :=
  .next <| s.whenLive fun s =>
    if s.fld tmbCtrl_freqSrc 0 = 1 && !s.tmb.fallback then
      (({ s with tmb := { s.tmb with fallback := true } }).setFlag tmbStat_freqLost 0 true).raise (errorOf 0 9 2 0)
    else s

/-- TIME_CLK_IN_RETURN (R355). -/
def execTimeClkInReturn (s : State) : Out :=
  .next <| s.whenLive fun s =>
    if s.tmb.fallback then ({ s with tmb := { s.tmb with fallback := false } }).setFlag tmbStat_freqLost 0 false else s

/-! ### PTP (R361) -/

/-- The foreign master that is best: the lowest priority vector. -/
def bestMaster : List (Nat × Nat) → Option (Nat × Nat)
  | [] => none
  | x :: xs =>
    match bestMaster xs with
    | some y => if y.2 < x.2 then some y else some x
    | none => some x

/-- The table with a master's announcement: four entries, of which a better newcomer takes the worst one's place. -/
def noteMaster (l : List (Nat × Nat)) (clock priority : Nat) : List (Nat × Nat) :=
  let rest := l.filter fun x => x.1 ≠ clock
  if rest.length < 4 then rest ++ [(clock, priority)]
  else
    let worst := (rest.map Prod.snd).foldl max 0
    if priority < worst then
      match rest.find? fun x => x.2 = worst with
      | some w => rest.erase w ++ [(clock, priority)]
      | none => rest
    else rest

/-- PTP_MESSAGE (R361). -/
def execPtpMessage (port : Fin 8) (m : PtpMsg) (s : State) : Out :=
  .next <| s.whenLive fun s =>
    if s.fld tmbCtrl_phaseSrc 0 ≠ 2 || port.val ≠ s.fld tmbPtpCfg_port 0 then s
    else
      match m with
      | .announce clock domain priority =>
        if domain.toNat = s.fld tmbPtpCfg_domain 0 then
          { s with tmb := { s.tmb with masters := noteMaster s.tmb.masters clock.toNat priority.toNat } }
        else s
      | .syncFollow clock domain t1 t2 t3 t4 =>
        if domain.toNat = s.fld tmbPtpCfg_domain 0 && (bestMaster s.tmb.masters).any fun x => x.1 = clock.toNat then
          s.exchange port.val t3.toNat t4.toNat t1.toNat t2.toNat
        else s
      | .unsupported => s

/-! ### Pulse per second (R362, R363) -/

/-- The distance from a tick to the nearest whole second. -/
def toSecond (t : Tick) : Int :=
  let r := t % ticksPerS
  if r ≤ ticksPerS / 2 then -(r : Int) else (ticksPerS : Int) - r

/-- The event that a rising edge of SYNC_PPS_IN raises, or its merging (R503). -/
def State.ppsEvent (s : State) : State :=
  let x := mgetD s.pln.inputs 7 ⟨none, false, false, 0⟩
  if x.lastEvent.any fun t => s.now < t + 100 * ticksPerUs then s.bump pinInput_merged 7 1
  else ({ s with pln := { s.pln with inputs := mset s.pln.inputs 7 { x with lastEvent := some s.now } } }).bump pinInput_events 7 1

/-- SYNC_PPS_IN (R362). -/
def execSyncPpsIn (s : State) : Out :=
  .next <| s.whenLive fun s =>
    let s := s.ppsEvent
    if s.tmb.lastPps.any fun t => s.now < t + 9 * (ticksPerS / 10) then s.bump tmbStat_ppsIgnored 0 1
    else
      let x := toSecond s.now
      let s := ({ s with tmb := { s.tmb with lastPps := some s.now } }.setFld tmbPpsInTs_tick 0 s.now).setFlag tmbStat_ppsLost 0 false
      if s.fld tmbCtrl_phaseSrc 0 = 3 then s.correct x ticksPerS else s

/-- PPS_LOST (R362): no accepted edge for 1.5 s. -/
def execPpsLost (s : State) : Out :=
  .next <| s.whenLive fun s =>
    if s.tmb.lastPps.getD 0 + 3 * (ticksPerS / 2) ≤ s.now then
      let s := s.setFlag tmbStat_ppsLost 0 true
      if s.fld tmbCtrl_phaseSrc 0 = 3 then s.holdOver else s
    else s

/-- Drives SYNC_PPS_OUT. -/
def State.drivePps (s : State) (level : Bool) : State :=
  ({ s with tmb := { s.tmb with ppsHigh := if level then some s.now else none } }).emit (.pin 9 level)

/-- SYNC_PPS_OUT (R363): the rise at a whole second of the count, advanced by OUT_COMP, and the fall after WIDTH or with ENABLE 0. -/
def execSyncPpsOut (s : State) : Out :=
  .next <| s.whenLive fun s =>
    match s.tmb.ppsHigh with
    | some t => if !s.flag tmbPpsCfg_enable 0 || t + s.fld tmbPpsCfg_width 0 * ticksPerUs ≤ s.now then s.drivePps false else s
    | none =>
      if s.flag tmbPpsCfg_enable 0 && ((s.now : Int) + s.fldInt tmbPpsCfg_outComp 0) % ticksPerS = 0 then s.drivePps true else s

/-! ### TMB_ADJ (R354) -/

/-- TMB_ADJ (R354): a step, or a refusal that is counted. -/
def execTmbAdj (fn : Fn) (lane : Lane) (v : BitVec 64) (s : State) : Out :=
  .next <| s.whenKept .tmbAdj 0 fun s =>
    match s.triggered (fnNum fn) lane tmbAdj_adj 0 v with
    | some _ => if s.overStep v.toInt && s.mayStep then s.stepCount v.toInt else s.bump tmbStat_stepRefused 0 1
    | none => s

end Sys2Proof.Machine
end

