-- ==== Sys2Proof/Machine/Domains.lean ====
section
/-! DEFINITION. Power domains and device states: sleep, wakes, the rind, C3 and C5 (R408 to R420, R423, R431 to R434). -/

set_option Elab.async false

namespace Sys2Proof.Machine

/-! ### Domains (R408, R409) -/

/-- The deepest state that a domain's row of R408 allows in C0. -/
def State.domainDepth (s : State) (d : Nat) : Nat :=
  if d < 89 then 3
  else if d < 97 then (if s.asf.links.contains (d - 89) then 1 else 3)
  else match d with
    | 98 => 3
    | 99 => if s.trace.enable then 0 else 3
    | 101 => 0
    | _ => 1

/-- The state below a domain's present one: ports go from D1 to D3, and the trace port from D0. -/
def State.nextDeeper (s : State) (d : Nat) : Nat :=
  let st := s.domainState d
  if d = 99 then 3 else if 89 ≤ d && d < 97 && st = 1 then 3 else st + 1

/-- The idle time before a state, in ticks; none where the timer never ends. -/
def State.idleTicks (s : State) (d st : Nat) : Option Nat :=
  let v := match st with
    | 1 => s.fld pwrDomCfg_idleD1Ns d * 4
    | 2 => s.fld pwrDomCfg_idleD2Us d * ticksPerUs
    | _ => s.fld pwrDomCfg_idleD3Ms d * ticksPerMs
  if d = 99 || (d = 98 && s.fld ftlHealth_mode 0 = 2) then some 0 else if v = 0 then none else some v

/-- Whether a domain has work now. -/
def State.domainBusy (s : State) (d : Nat) : Bool :=
  (s.parts.any fun x => x.2.runs.any fun r => match r.2, s.entry x.1 r.1 with
    | .running _, some e => (s.entryDomains x.1 e).contains d
    | _, _ => false) ||
  (if 25 ≤ d && d < 89 then
      let c := s.chan (d - 25)
      c.running.isSome || !c.queue.isEmpty || !c.held.isEmpty
    else if 89 ≤ d && d < 97 then (List.range 8).any fun k => !(s.txqueue (d - 89) k).isEmpty
    else if d = 98 then
      (s.ftl.blocks.any fun b => b.2.erasing) || (s.tiers.moves.any fun m => m.2.tier = 3) ||
        ((s.tiers.moves.filter fun m => m.2.tier = 0 && !m.2.written).map Prod.fst ++ s.tiers.streams).any fun k =>
          !mhas s.tiers.pages k && !s.tiers.lost.contains k
    else if d = 99 then s.trace.enable
    else if d = 97 || d = 100 then !s.buhorn.cmds.isEmpty
    else d = 101)

/-- The domains that a partition's work uses: its tile groups, its channels, the control cores and the hub. -/
def State.partDomain (s : State) (p d : Nat) : Bool :=
  (d < 25 && (s.tilesOf p).any fun t => t / 8 = d) || (25 ≤ d && d < 89 && (s.part p).channelMask / 2 ^ (d - 25) % 2 = 1) ||
    d = 97 || d = 100

/-- The tick at which an entry next starts: in this cycle, or in the next one. -/
def State.nextStart (s : State) (p : Nat) (e : Entry) : Tick :=
  if s.now ≤ s.startTick p e then s.startTick p e else s.startTick p e + s.fld schPeriod_period p

/-- The partition whose entry needs a domain by a tick, if one does (R413). -/
def State.neededBy (s : State) (d : Nat) (t : Tick) : Option Nat :=
  s.parts.findSome? fun x => match x.2.active with
    | some tb => if tb.entries.any fun e => (s.entryDomains x.1 e).contains d && decide (s.nextStart x.1 e ≤ t) then some x.1 else none
    | none => none

/-- Counts a refused entry into a state, at the partition that caused it or at 16 (R414). -/
def State.refuseState (s : State) (r d refuser : Nat) : State :=
  ((s.bump pwrRefuse_count r 1).setFld pwrRefuse_domain r d).setFld pwrRefuse_refuser r refuser

/-- What a domain loses in D2: the panels of its tiles; the next kernel's panel fill refills them (R419). -/
def State.loseFlops (s : State) (d : Nat) : State := if d < 25 then s.emptyTiles fun t => t / 8 = d else s

/-- What a domain loses in D3: a channel its vector buffers and the counts of its save list. -/
def State.loseAll (s : State) (d : Nat) : State :=
  let s := s.loseFlops d
  if 25 ≤ d && d < 89 then
    let c := d - 25
    let s := { s with gen := { s.gen with
        vbufs := mfilter s.gen.vbufs fun k _ => k / 32 ≠ c
        reduce := mfilter s.gen.reduce fun k _ => k / 32 % 64 ≠ c
        issuers := mfilter s.gen.issuers fun k _ => k / 32 ≠ c } }
    (s.setReg .genChWait c 0).setReg .genChEcc c 0
  else s

/-- A domain enters a state: into D2 and D3 behind its clamps, and the loop that feeds it stops with the last domain that needs it (R417,
R418, R422). -/
def State.enterState (s : State) (d st : Nat) : State :=
  let s := if 2 ≤ st then s.clampIn d st else s.setFld pwrDomStat_state d st
  match st with
  | 2 => s.loseFlops d
  | 3 => s.loseAll d
  | _ => s

/-- The partition whose halt holds a domain (R415). -/
def State.haltHolds (s : State) (d : Nat) : Option Nat := (List.range 16).find? fun p => (s.part p).halted && s.partDomain p d

/-- Whether the flash interface has writes or journal commits outstanding. -/
def State.flashOutstanding (s : State) : Bool := 0 < s.ftl.changes || !s.ftl.pending.isEmpty

/-- DOMAIN_IDLE_TIMER (R412 to R415). -/
def State.domainIdles (s : State) (d : Nat) : State :=
  let to_ := s.nextDeeper d
  if (mget s.pwr.waking d).isSome || 3 ≤ s.domainState d || s.domainDepth d < to_ || s.domainBusy d then s
  else
    match s.idleTicks d to_ with
    | none => s
    | some t =>
      if s.now < mgetD s.pwr.lastWork d 0 + t then s
      else
        match s.haltHolds d with
        | some p => s.refuseState p d 2
        | none =>
          if s.fld pwrDomCfg_minState d < to_ then s.refuseState 16 d 10
          else if 2 ≤ to_ && d = 98 && s.flashOutstanding then s.refuseState 16 d 8
          else
            match (if 2 ≤ to_ then s.neededBy d (s.now + wakeTicks to_ + 10 * ticksPerUs) else none) with
            | some p => s.refuseState p d 1
            | none => s.enterState d to_

/-- DOMAIN_IDLE_TIMER (R412). -/
def execDomainIdleTimer (d : Fin 102) (s : State) : Out :=
  .next (if s.live && s.fld pwrDevStat_state 0 = 0 then s.domainIdles d.val else s)

/-! ### Wakes (R409, R410, R413, R417, R420) -/

/-- RIND_WAKE (R410). -/
def execRindWake (d : Fin 102) (source : BitVec 4) (s : State) : Out :=
  .next <| s.whenLive fun s => if 1 ≤ source.toNat && source.toNat ≤ 10 then s.beginWake d.val source.toNat else s

/-- SCHEDULED_WAKE (R413): the next entry's START lies within the wake time. -/
def execScheduledWake (d : Fin 102) (s : State) : Out :=
  .next <| s.whenLive fun s =>
    if (s.neededBy d.val (s.now + wakeTicks (s.domainState d.val))).isSome then s.beginWake d.val 1 else s

/-- The error of a save area that cannot be restored (R420, R450): Partition-fatal where one partition owns the domain. -/
def State.saveAreaError (s : State) (d : Nat) : State :=
  let owners := (List.range 16).filter fun p => d < 89 && s.partDomain p d
  match owners with
  | [p] => s.raise (errorOfPart 2 0x0C 8 d p)
  | _ => s.raise (errorOf 3 0x0C 8 d)

/-- A wake ends: the rind lets through what it has held, and the domain works. A retention wake whose save area does not verify goes on by
the D3 path. -/
def State.endWake (s : State) (d : Nat) (w : Nat × Tick) (restoreOk : Bool) : State :=
  if s.domainState d = 2 && !restoreOk then
    let s := (s.enterState d 3).saveAreaError d
    { s with pwr := { s.pwr with waking := mset s.pwr.waking d (w.1, s.now) } }
  else
    let s := (s.comeUp d).worked d
    if 25 ≤ d && d < 89 then s.channelWoke (d - 25) else s

/-- DOMAIN_WAKE_COMPLETE (R417, R420). -/
def execDomainWakeComplete (d : Fin 102) (restoreOk : Bool) (s : State) : Out :=
  .next <| s.whenLive fun s =>
    match mget s.pwr.waking d.val with
    | some w => if w.2 + wakeTicks (s.domainState d.val) ≤ s.now && s.locked d.val then s.endWake d.val w restoreOk else s
    | none => s

/-! ### C3 (R431, R432) -/

/-- Whether an Asith request is in progress. -/
def State.asithBusy (s : State) : Bool := s.asf.conns.any fun c => !c.2.unacked.isEmpty || c.2.stalled.isSome || !c.2.waitingRx.isEmpty

/-- Whether a recast runs. -/
def State.recasting (s : State) : Bool := s.flag resStat_recastSource 0 || s.flag resStat_recastDest 0

/-- The first refuser of rows 2 to 6 of R414 that applies, with the partition that caused it. -/
def State.c3Refuser (s : State) : Option (Nat × Nat) :=
  let halted := (List.range 16).find? fun p => (s.part p).halted
  let working := s.seqs.find? fun x => x.2.state = .prefilling || x.2.state = .stepping || x.2.state = .moving || x.2.state = .rebuild
  let group := (List.range 16).find? fun p => s.fld schGroup_members p ≠ 0 && (s.part p).active.isSome
  if let some p := halted then some (p, 2)
  else if let some c := s.buhorn.cmds.head? then some (if c.fn = 0 then 16 else c.fn - 1, 3)
  else if !s.buhorn.heldReplies.isEmpty then some (16, 3)
  else if let some x := working then some (x.2.part, 4)
  else if let some p := group then some (p, 5)
  else if !s.tiers.moves.isEmpty || s.recasting || !s.churn.isEmpty then some (16, 6)
  else none

/-- The tile groups and channels that C3 retains: those of a partition. -/
def State.owned (s : State) (d : Nat) : Bool := (List.range 16).any fun p => s.partDomain p d

/-- The device enters C3. -/
def State.enterC3 (s : State) : State :=
  let s := ((s.setFld pwrDevStat_state 0 1).bump pwrDevStat_c3Entries 0 1)
  let s := { s with pwr := { s.pwr with c3Since := s.now, waking := [] } }
  let s := (List.range 25).foldl (fun s d => s.enterState d (if s.owned d then 2 else 3)) s
  let s := (List.range 64).foldl (fun s c => s.enterState (25 + c) 2) s
  let s := ((List.range 8).foldl (fun s q => s.setFld pwrDomStat_state (89 + q) (max 1 (s.domainState (89 + q)))) s).setFld pwrDomStat_state 100 1
  (s.setMem 2).notePoints

/-- C3_ENTRY (R432, R414). -/
def execC3Entry (s : State) : Out :=
  .next <| s.whenLive fun s =>
    if s.fld pwrDevStat_state 0 ≠ 0 || !s.flag pwrDevCfg_c3En 0 ||
        s.now < mgetD s.pwr.lastWork 100 0 + s.fld pwrDevCfg_c3IdleMs 0 * ticksPerMs || s.asithBusy then s
    else
      match s.c3Refuser with
      | some r => s.refuseState r.1 0x7F r.2
      | none => s.enterC3

/-- The rails rise for C0: the core rails to the highest preferred point, the memory rail to M0. -/
def State.wakeRails (s : State) : State :=
  let top := max (topPoint s.preferredPlan) (if s.pwr.limitOn then s.fld pwrLimitCfg_point 0 else s.pwr.floor)
  let s := { s with pwr := { s.pwr with confirmed := top, memPoint := 0, raise := none } }
  ((((s.emit (.avs 0 1 (sramMv top))).emit (.avs 0 0 (coreMv top))).emit (.avs 1 0 (memMv 0))).notePoints)

/-- Every tile group, channel, port and hub domain that sleeps in retention or is gated wakes. -/
def State.wakeDomains (s : State) (source : Nat) : State :=
  (List.range 101).foldl (fun s d =>
    if s.domainState d = 1 || s.domainState d = 2 then (s.comeUp d).countWake d source else s) s

/-- The device is in C0 again. -/
def State.toC0 (s : State) (source : Nat) : State :=
  ((((s.setFld pwrDevStat_state 0 0).setFld pwrDevStat_lastWake 0 source).wakeRails).wakeDomains source).worked 100

/-- C3_EXIT (R432). -/
def execC3Exit (source : BitVec 4) (s : State) : Out :=
  .next <| s.whenLive fun s =>
    if s.fld pwrDevStat_state 0 = 1 && 1 ≤ source.toNat && source.toNat ≤ 10 then s.toC0 source.toNat else s

/-! ### C5 (R423, R433) -/

/-- What keeps the device out of C5: the fabric, or tier 0. -/
def State.c5Refuser (s : State) : Option Nat :=
  if s.flag resCtrl_enable 0 || 0 < s.fld asfCtxStat_open 0 || (List.range 16).any (fun i => s.flag tirPeerCtrl_enable i) ||
      0 < s.fld resMirrorCfg_slicesUsed 0 then some 7
  else if s.tiers.pages.any fun x => x.2.tier = 0 then some 9
  else none

/-- The Alias private key, CDI_L1 and the certificates are sealed in DRAM under a plinth key that is drawn now (R463). -/
def State.sealIdentity (s : State) : State :=
  { s with
    sec := { s.sec with sealed := s.sec.identity.map fun x => (s.freeCtr, x), identity := none }
    freeCtr := s.freeCtr + 1 }

/-- The identity is unsealed, and the plinth key is done with (R463). -/
def State.unsealIdentity (s : State) : State :=
  { s with sec := { s.sec with identity := s.sec.sealed.map Prod.snd, sealed := none } }

/-- The device enters C5: only the plinth runs; FIELD_DEBUG ends. -/
def State.enterC5 (s : State) : State :=
  let s := s.sealIdentity.setFld pwrDevStat_state 0 2
  let s := (List.range 101).foldl (fun s d => s.enterState d 3) s
  let s := { s with sec := { s.sec with plinthDigest := s.sec.image.map Prod.fst } }
  s.stopTrace.endFieldDebug

/-- C5_ENTRY (R433): the link's condition is that of the command's coming. -/
def execC5Entry (s : State) : Out :=
  .next <| s.whenLive fun s =>
    if s.fld pwrDevStat_state 0 ≠ 1 || !s.flag pwrDevCfg_c5En 0 ||
        s.now < s.pwr.c3Since + s.fld pwrDevCfg_c5IdleS 0 * 1000 * ticksPerMs then s
    else
      match s.c5Refuser with
      | some r => s.refuseState 16 0x7F r
      | none => s.enterC5

/-- Every domain comes up from D3. -/
def State.wakeAllDomains (s : State) (source : Nat) : State :=
  (List.range 101).foldl (fun s d => if d = 99 then s else (s.comeUp d).countWake d source) s

/-- The device leaves C5 with its image intact: the count is to be aligned again, and a fresh debug nonce is drawn. -/
def State.leaveC5 (s : State) (source : Nat) : State :=
  let s := (((s.setFld pwrDevStat_state 0 0).setFld pwrDevStat_lastWake 0 source).wakeRails).wakeAllDomains source
  let s := (s.unsealIdentity.loseAlignment.setFlag tmbStat_locked 0 false).drawNonce
  let s := { s with pln := { s.pln with resetAt := s.now } }
  ((s.setFld plnBoot_lastReset 0 3).setFld plnBoot_readyMs 0 0).worked 100

/-- C5_EXIT (R433): an image that does not verify makes it a full start-up. -/
def execC5Exit (source : BitVec 4) (imageOk : Bool) (s : State) : Out :=
  .next <|
    if s.stage = 7 && s.fld pwrDevStat_state 0 = 2 && !s.pln.c6 && 1 ≤ source.toNat && source.toNat ≤ 10 then
      if imageOk then s.leaveC5 source.toNat else s.reboot 3 2
    else s

end Sys2Proof.Machine
end

