-- ==== Sys2Proof/Machine/Errors.lean ====
section
/-! DEFINITION. Errors as they are raised, merged and counted, and the error log (R401 to R403, R406, R531). -/

set_option Elab.async false

namespace Sys2Proof.Machine

/-- Whether the device takes error reports: its hub runs and no Device-fatal handling is under way, which a further Device-fatal
error escalates (R405). -/
def State.takesErrors (s : State) (sev : Nat) : Bool := 2 ≤ s.stage && s.stage ≤ 7 && !s.pln.stopped && (!s.res.fatal || sev = 3)

/-- ERROR_RAISED (R403): units 0x00 and 0x11 to 0xFF do not exist. -/
def execErrorRaised (e : ErrorReport) (s : State) : Out :=
  .next (if s.takesErrors e.sev.toNat && 1 ≤ e.unit.toNat && e.unit.toNat ≤ 0x10 then s.raise e else s)

/-- CE_MERGE_WINDOW_END (R402). -/
def execCeMergeWindowEnd (u : BitVec 8) (code : BitVec 16) (location : BitVec 64) (s : State) : Out :=
  .next <|
    match s.res.merging.find? fun m => m.1.unit = u.toNat && m.1.code = code.toNat && m.1.location = location with
    | some m =>
      if m.2.1 + ticksPerMs ≤ s.now then
        let s := { s with res := { s.res with merging := s.res.merging.filter (· ≠ m) } }
        if 0 < m.2.2 then s.handle (mergedRecord m.1 m.2.2) else s
      else s
    | none => s

/-- CE_THRESHOLD_WINDOW_END (R402). -/
def execCeThresholdWindowEnd (s : State) : Out := .next s.rollWindow

/-- The records that waited for the log: they are written once it is enabled and the link is up (R531). -/
def State.flushHeld (s : State) : State :=
  if s.stage = 7 && s.pln.pcieUp && s.flag glbErrlogCtrl_enable 0 then
    let held := s.res.held
    held.foldl State.logRecord { s with res := { s.res with held := [] } }
  else s

/-- Keeps FULL of GLB_ERRLOG_CTRL. -/
def State.noteLogFull (s : State) : State :=
  let depth := 2 ^ s.fld glbErrlogCtrl_depthLog2 0
  s.setFlag glbErrlogCtrl_full 0 ((s.fld glbErrlogCtrl_tail 0 + depth - s.fld glbErrlogCtrl_head 0) % depth = depth - 1)

/-- A write of GLB_ERRLOG_CTRL: enabling sets TAIL to HEAD. -/
def State.writeErrlogCtrl (s : State) (fn : Nat) (l : Lane) (v : BitVec 64) : State :=
  let t := s.writeFields fn l .glbErrlogCtrl 0 v
  if !s.flag glbErrlogCtrl_enable 0 && t.flag glbErrlogCtrl_enable 0 then
    let t := { t with res := { t.res with logWr := true } }
    ((t.setFld glbErrlogCtrl_tail 0 (t.fld glbErrlogCtrl_head 0)).noteLogFull).flushHeld
  else t.noteLogFull

/-- GLB_ERRLOG_CTRL_WRITE (R531). -/
def execGlbErrlogCtrlWrite (fn : Fn) (lane : Lane) (v : BitVec 64) (s : State) : Out :=
  .next (s.whenKept .glbErrlogCtrl 0 fun s => s.writeErrlogCtrl (fnNum fn) lane v)

end Sys2Proof.Machine
end

