-- ==== Sys2Proof/Machine/Partition.lean ====
section
/-! DEFINITION. Partition reset and its end (R259 to R262). -/

set_option Elab.async false

namespace Sys2Proof.Machine

/-- PARTITION_RESET's effect: the reset begins, or joins one that runs (R261). -/
def effPartitionReset (d : Pend) (s : State) : State := (s.beginReset d.obj 1).await d.id (.reset d.obj)

/-- PARTITION_RESET (R259). -/
def execPartitionReset (c : Cmd) (s : State) : Out := .next (s.plain 0x05 c effPartitionReset)

/-- What an accepted command of a partition under reset does (R260): the reset itself replies OK, a move or a cancel of a move
waits for the destination's answer, a command in effect keeps its reply, and every other one replies PARTITION_RESET. -/
def State.resetReply (s : State) (p : Nat) (c : Pend) : State :=
  match c.wait with
  | .reset x => if x = p then s.finish c.id 0 0 0 else s
  | .move => s
  | .abandon => s
  | .release _ => s
  | .records _ => s
  | .freed _ => s
  | .firstStep => s
  | .queueDelete _ => s
  | _ => if c.fn = fnOf p then s.finish c.id 0x40 0 0 else s

/-- A move away from the partition whose acknowledgement has not come asks its destination to abandon it; one that arrives and has
not flipped is discarded (R260). -/
def State.resetMove (s : State) (x : Nat × Seq) : State :=
  match x.2.move with
  | some m =>
    if m.incoming then (if m.flipTick.isNone then s.freeSeq x.1 else s)
    else if x.2.state ≠ .moving || m.recast then s
    else
      let s := if m.abandonSent then s else s.send m.node (.abandon x.1)
      s.modSeq x.1 fun q => { q with move := some { m with abandonSent := true, byReset := true } }
  | none => s

/-- The end of a reset: its duration, the shadow table and the pending swap, the moves, and the replies. -/
def State.endReset (s : State) (p : Nat) : State :=
  let x := s.part p
  let s := s.setFld schReset_duration p (min (s.now - x.resetAt.getD s.now) 8000000)
  let s := (s.modPart p fun x => { x with resetAt := none, shadow := none, swapTick := none }).noteTables p
  let s := (s.seqsOf p).foldl State.resetMove s
  let s := s.buhorn.cmds.foldl (fun s c => s.resetReply p c) s
  (s.setFlag schPart_resetting p false).noteTiers

/-- PARTITION_RESET_COMPLETE (R260): within 2 ms of the cause. -/
def execPartitionResetComplete (p : Fin 16) (s : State) : Out :=
  .next <| s.whenLive fun s => if s.flag schPart_resetting p.val then s.endReset p.val else s

end Sys2Proof.Machine
end

