-- ==== Sys2Proof/Machine/HostRead.lean ====
section
/-! DEFINITION. Completions of the device's reads of host memory, the Function Level Reset and the watchdog of a control core (R52, R322,
R338, R401, R525). -/

set_option Elab.async false

namespace Sys2Proof.Machine

/-! ### Reads of host memory (R52, R322, R338) -/

/-- Data, or a failure, for a fabric read of a host window (R322): the request ends, and the frames behind it go on. -/
def State.hostData (s : State) (c : Nat) (data : Option (List (BitVec 8))) : State :=
  match s.conn c with
  | none => s
  | some k =>
    match k.stalled with
    | some x =>
      if x.reason ≠ .host then s
      else
        let s := s.modConn c fun k => { k with stalled := none }
        let s := match data with
          | some bs => (s.consume c x.rx).answerRead c x.rx (bs.take x.rx.frame.arg.toNat) false
          | none => s.endRequest c x.rx 7
        ((s.pump c k.waitingRx.length).settleRegions.sequenceHeld).noteEpoch
    | none => s

/-- HOST_READ_COMPLETION (R52): what arrived, for what it was asked. -/
def State.hostRead (s : State) (r : HostRead) : State :=
  match r with
  | .packets q ps => s.packetsArrive q.toNat ps
  | .packetsFailed q => s.packetsFail q.toNat 2
  | .context c ok => s.contextFetched c.toNat ok
  | .contextFailed c => s.contextFetched c.toNat false
  | .fabric c data => s.hostData c.toNat (some data)
  | .fabricFailed c => s.hostData c.toNat none
  | .buffer => s

/-- HOST_READ_COMPLETION (R52). -/
def execHostReadCompletion (r : HostRead) (s : State) : Out := .next (s.whenLive fun s => s.hostRead r)

/-! ### Function Level Reset (R525) -/

/-- Closes a connection of a function under reset: one that is opening or DEAD goes at once. -/
def State.flrClose (s : State) (x : Nat × Conn) : State :=
  match x.2.state with
  | .closing => s
  | .open_ =>
    let s := { s with buhorn := { s.buhorn with nextId := s.buhorn.nextId + 1 } }
    (s.modConn x.1 fun k => { k with state := .closing, cmd := some (s.buhorn.nextId - 1) }).settleClose x.1
  | _ => s.dropConn x.1

/-- The reset of a virtual function, in the order of R525. -/
def State.functionReset (s : State) (p : Nat) : State :=
  let fn := fnOf p
  let s := (s.beginReset p 1).endReset p
  let s := ((s.buhorn.queues.filter fun q => 34 ≤ q.1 && q.2.fn = fn).map Prod.fst).foldl State.dropQueue s
  let s := s.setFlag cmdAdmqCtrl_enable fn false
  let s := (List.range 16).foldl (fun s w => s.setFlag asfRwinCtrl_enable (16 * fn + w) false) s
  let s := s.setFlag asfNotifyCtrl_enable p false
  let s := (s.asf.conns.filter fun c => c.2.fn = fn && c.2.mine && c.2.bulk.isNone).foldl State.flrClose s
  { s with msix := mfilter s.msix fun k _ => k / 65536 ≠ fn }

/-- FUNCTION_LEVEL_RESET (R525). -/
def execFunctionLevelReset (p : Fin 16) (s : State) : Out := .next (if s.hubRuns then s.functionReset p.val else s)

/-! ### A core's watchdog (R401) -/

/-- CORE_WATCHDOG (R401): Partition-fatal where the core runs one partition's firmware, else Device-fatal. -/
def execCoreWatchdog (core : Fin 16) (s : State) : Out :=
  .next <| s.whenLive fun s =>
    match (List.range 16).filter fun p => s.fld dbgHalt_cores p / 2 ^ core.val % 2 = 1 with
    | [p] => s.raise (errorOfPart 2 0x0D 1 core.val p)
    | _ => s.raise (errorOf 3 0x0D 1 core.val)

end Sys2Proof.Machine
end

