-- ==== Sys2Proof/Machine/Power.lean ====
section
/-! DEFINITION. The capping loop, the AVSBus exchange, droops, the power-limit input, temperatures, rack shares and energy (R427 to R448,
R450). -/

set_option Elab.async false

namespace Sys2Proof.Machine

/-! ### C6 (R434, R497) -/

/-- Every rail but VDD_AON is removed, in the reverse of the order of R497. -/
def State.railsOff (s : State) : State := [5, 4, 3, 2, 1, 0].foldl (fun s i => s.emit (.pin i false)) s

/-- The device is in C6: only the plinth keeps what it holds. -/
def State.toC6 (s : State) (stage : Nat) : State :=
  let n := (s.railsOff).reboot (s.fld plnBoot_lastReset 0) stage
  { n with pln := { n.pln with c6 := true, rails := [] } }

/-! ### AVSBus (R428, R429) -/

/-- Writes the voltages of a raise: VDD_SRAM before VDD_CORE, and VDD_MEM. -/
def State.writeRaise (s : State) (r : Raise) : State :=
  let s := if r.waiting.contains 1 then s.emit (.avs 0 1 (sramMv r.point)) else s
  let s := if r.waiting.contains 0 then s.emit (.avs 0 0 (coreMv r.point)) else s
  match r.mem with
  | some m => if r.waiting.contains 2 then s.emit (.avs 1 0 (memMv m)) else s
  | none => s

/-- Sets the raise in progress. -/
def State.setRaise (s : State) (r : Option Raise) : State := { s with pwr := { s.pwr with raise := r } }

/-- The rails of a failure: the first one still to confirm. -/
def Raise.failed (r : Raise) : Nat := r.waiting.headD 0

/-- A raise fails: the clocks stay at the last confirmed point; a rail that fails 4 times within 1 s is held. -/
def State.raiseFails (s : State) (r : Raise) (cause : Nat) : State :=
  let rail := r.failed
  let master := rail / 2
  let select := rail % 2
  let recent := (s.pwr.failures ++ [(rail, s.now)]).filter fun x => s.now < x.2 + 1000 * ticksPerMs
  let s := { s with pwr := { s.pwr with raise := none, failures := recent } }
  let s := (s.bump pwrAvsStat_failures 0 1).setFld pwrAvsStat_lastMaster 0 master
  let s := (s.setFld pwrAvsStat_lastRail 0 select).setFld pwrAvsStat_lastCause 0 cause
  let s := if 4 ≤ (recent.filter fun x => x.1 = rail).length then s.setFld pwrAvsStat_held 0 (s.fld pwrAvsStat_held 0 ||| 2 ^ rail) else s
  s.raise (errorOf 0 0x0C 3 (master * 256 + select))

/-- A raise is confirmed on every rail: the clocks rise. -/
def State.raiseDone (s : State) (r : Raise) : State :=
  let mem := r.mem.getD s.pwr.memPoint
  ({ s with pwr := { s.pwr with raise := none, confirmed := r.point, memPoint := mem } }).notePoints

/-- AVS_RAISE (R426, R428): the highest planned point lies above the confirmed one. -/
def execAvsRaise (point : Fin 8) (s : State) : Out :=
  .next <| s.whenLive fun s =>
    if s.fld pwrDevStat_state 0 = 0 && s.pwr.raise.isNone && point.val < s.pwr.confirmed && topPoint s.pwr.plan = point.val &&
        s.fld pwrAvsStat_held 0 % 4 = 0 then
      let r : Raise := ⟨point.val, none, [1, 0], s.now, 0, 0⟩
      (s.writeRaise r).setRaise (some r)
    else s

/-- VDONE_POLL (R428). -/
def execVdonePoll (core sram mem : Bool) (s : State) : Out :=
  .next <| s.whenLive fun s =>
    match s.pwr.raise with
    | none => s
    | some r =>
      let s := s.emit (.avsStatus (if r.waiting.contains 2 then 1 else 0))
      let left := r.waiting.filter fun x => !((x = 0 && core) || (x = 1 && sram) || (x = 2 && mem))
      if left.isEmpty then s.raiseDone r else s.setRaise (some { r with waiting := left })

/-- VDONE_TIMEOUT (R429). -/
def execVdoneTimeout (s : State) : Out :=
  .next <| s.whenLive fun s =>
    match s.pwr.raise with
    | some r => if r.started + s.fld pwrAvsCfg_vdoneTimeoutUs 0 * ticksPerUs ≤ s.now then s.raiseFails r 4 else s
    | none => s

/-- AVS_BUSY_RETRY (R429): the SlaveAck of the write of a raise. -/
def execAvsBusyRetry (ackc : BitVec 2) (s : State) : Out :=
  .next <| s.whenLive fun s =>
    match s.pwr.raise with
    | none => s
    | some r =>
      match ackc.toNat with
      | 0 => s
      | 1 =>
        if r.busy < 8 then ((s.bump pwrAvsStat_busyRetries 0 1).writeRaise r).setRaise (some { r with busy := r.busy + 1 })
        else s.raiseFails r 1
      | 2 =>
        if r.crc < 3 then ((s.bump pwrAvsStat_crcResends 0 1).writeRaise r).setRaise (some { r with crc := r.crc + 1 })
        else s.raiseFails r 2
      | _ => s.raiseFails r 3

/-! ### Estimate, learning and comparison (R438, R442) -/

/-- The share of engine time spent in a class, from a window's sample. -/
def PowerSample.share_ (x : PowerSample) (c : Nat) : Rat := (x.shares.getD c 0 : Rat) / 65536

/-- The estimate E from the learned needs. -/
def State.estimate (s : State) (x : PowerSample) : Rat :=
  (List.range 7).foldl (fun a c => a + PowerSample.share_ x c * s.pwr.needs.getD (8 * c + s.pwr.plan.getD c 7) 0) 0

/-- A rational held to a range. -/
def within (lo hi x : Rat) : Rat := max lo (min hi x)

/-- Learns each class's need at its point, and shows it in PWR_NEED. -/
def State.learn (s : State) (x : PowerSample) (m e : Rat) : State :=
  if s.flag pwrCtrlStat_frozen 0 || e = 0 then s
  else
    let r := within (-1 / 4) (1 / 4) ((m - e) / e)
    (List.range 7).foldl (fun s c =>
      let f := PowerSample.share_ x c
      if f ≤ 0 then s
      else
        let i := 8 * c + s.pwr.plan.getD c 7
        let n := s.pwr.needs.getD i 0 * (1 + r * f / 16)
        ({ s with pwr := { s.pwr with needs := s.pwr.needs.set i n } }).setFld pwrNeed_need i n.floor.toNat) s

/-- Whether the measured and the estimated power disagree. -/
def disagrees (m e : Rat) : Bool := decide (3 / 20 * max m e < |m - e|)

/-- A rail's share of the rails' power. -/
def railShare (w : List Nat) (i : Nat) : Rat := (w.getD i 0 : Rat) / max 1 (w.sum : Rat)

/-- The rail whose share has fallen most since the last agreeing window. -/
def fallenRail (old new : List Nat) : Nat :=
  let fall (i : Nat) : Rat := railShare old i - railShare new i
  if fall 1 ≤ fall 0 && fall 2 ≤ fall 0 then 0 else if fall 2 ≤ fall 1 then 1 else 2

/-- M below half of E while frozen: a telemetry fault. -/
def State.noteTelemetry (s : State) (x : PowerSample) (m e : Rat) : State :=
  if s.flag pwrCtrlStat_frozen 0 && decide (m < e / 2) && !s.flag pwrCtrlStat_telemetryFault 0 then
    (s.setFlag pwrCtrlStat_telemetryFault 0 true).setFld pwrCtrlStat_railFlag 0 (2 ^ fallenRail s.pwr.railShares x.railWatts)
  else s

/-- A disagreeing window: the eighth in a row freezes learning and falls back to the conservative table. -/
def State.disagreed (s : State) (x : PowerSample) (m e : Rat) : State :=
  let n := min 8 (s.fld pwrCtrlStat_disagree 0 + 1)
  let s := ((s.setFld pwrCtrlStat_disagree 0 n).setFld pwrCtrlStat_agree 0 0).setFlag pwrCtrlStat_direction 0 (m < e)
  if n = 8 && !s.flag pwrCtrlStat_frozen 0 then
    let s := ((s.setFlag pwrCtrlStat_frozen 0 true).setFlag pwrCtrlStat_fallback 0 true).noteTelemetry x m e
    s.raise (if e < m then errorOf 0 0x0C 1 0 else errorOf 0 0x0C 2 (s.fld pwrCtrlStat_railFlag 0))
  else s.noteTelemetry x m e

/-- An agreeing window: the sixty-fourth in a row while frozen resumes learning. -/
def State.agreed (s : State) (x : PowerSample) : State :=
  let s := (s.setFld pwrCtrlStat_disagree 0 0)
  if !s.flag pwrCtrlStat_frozen 0 then { s with pwr := { s.pwr with railShares := x.railWatts } }
  else
    let n := s.fld pwrCtrlStat_agree 0 + 1
    if n < 64 then s.setFld pwrCtrlStat_agree 0 n
    else
      let s := ((s.setFld pwrCtrlStat_agree 0 0).setFlag pwrCtrlStat_frozen 0 false).setFlag pwrCtrlStat_fallback 0 false
      (s.setFlag pwrCtrlStat_telemetryFault 0 false).setFld pwrCtrlStat_railFlag 0 0

/-- The capping figure: M, and the higher of M and E while learning is frozen. -/
def State.cappingFigure (s : State) (m e : Rat) : Rat := if s.flag pwrCtrlStat_frozen 0 then max m e else m

/-! ### Energy (R448) -/

/-- Adds energy to a job's entry, or to what is unattributed. -/
def State.chargeJob (s : State) (p job uj : Nat) : State :=
  if job = 0 then { s with pwr := { s.pwr with unattr := mset s.pwr.unattr p (mgetD s.pwr.unattr p 0 + uj), unattrUj := s.pwr.unattrUj + uj } }
  else
    let key := p * 2 ^ 32 + job
    if mhas s.pwr.jobs key || s.pwr.jobs.length < 8192 then
      let s := { s with pwr := { s.pwr with jobs := mset s.pwr.jobs key (mgetD s.pwr.jobs key 0 + uj) } }
      s.setFld pwrJobStat_entries 0 s.pwr.jobs.length
    else
      ({ s with pwr := { s.pwr with unattr := mset s.pwr.unattr p (mgetD s.pwr.unattr p 0 + uj), unattrUj := s.pwr.unattrUj + uj } }).bump
        pwrJobStat_full 0 1

/-- Divides a window's energy among jobs by their activity; the remainder is unattributed. -/
def State.chargeEnergy (s : State) (x : PowerSample) (uj : Nat) : State :=
  let parts := x.jobShares.map fun j => (j.1 % 16, j.2.1 % 2 ^ 32, uj * min j.2.2 65536 / 65536)
  let given := (parts.map fun j => j.2.2).sum
  let s := parts.foldl (fun s j => s.chargeJob j.1 j.2.1 j.2.2) s
  let s := { s with pwr := { s.pwr with totalUj := s.pwr.totalUj + uj, unattrUj := s.pwr.unattrUj + (uj - given) } }
  (s.setFld pwrEnergyTotal_mj 0 (s.pwr.totalUj / 1000)).setFld pwrEnergyUnattr_mj 0 (s.pwr.unattrUj / 1000)

/-! ### The window (R435, R441) -/

/-- The effective cap: the least of the caps that are set, and 1,800 W. -/
def State.noteCap (s : State) : State :=
  let caps := ([s.fld pwrCap_host 0, s.fld pwrCap_share 0, s.fld pwrCap_board 0]).filter (0 < ·)
  s.setFld pwrCap_effective 0 (caps.foldl min 1800)

/-- Two windows over the cap lower one further point. -/
def State.lowerFurther (s : State) : State :=
  match lowerOne s.pwr.plan with
  | some (c, _) => { s with pwr := { s.pwr with lowered := s.pwr.lowered ++ [c], overWindows := 0 } }
  | none => { s with pwr := { s.pwr with overWindows := 0 } }

/-- Whether the plan with the last-lowered class one point higher leaves room. -/
def State.hasRoom (s : State) : Bool :=
  match s.pwr.lowered.getLast? with
  | some c => decide (s.predict (s.pwr.plan.set c (s.pwr.plan.getD c 7 - 1)) ≤ 97 / 100 * (s.cap : Rat))
  | none => false

/-- Counts windows over the cap and windows with room. -/
def State.countWindows (s : State) (figure : Rat) : State :=
  let above := if (s.cap : Rat) < figure then s.pwr.overWindows + 1 else 0
  let room := if s.hasRoom then s.pwr.roomWindows + 1 else 0
  let s := { s with pwr := { s.pwr with overWindows := above, roomWindows := room } }
  if 2 ≤ above then s.lowerFurther
  else if 16 ≤ room then { s with pwr := { s.pwr with lowered := s.pwr.lowered.dropLast, roomWindows := 0 } }
  else s

/-- One point of the power limit is given back each window after its hold (R445). -/
def State.relaxFloor (s : State) : State :=
  if s.pwr.limitOn then s else { s with pwr := { s.pwr with floor := s.pwr.floor - 1 } }

/-- Reads voltage and current of each AVSBus rail (R430). -/
def State.senseRails (s : State) : State := ((s.emit (.avsRead 0 0)).emit (.avsRead 0 1)).emit (.avsRead 1 0)

/-- A window ends and the next begins. -/
def State.window (s : State) (x : PowerSample) : State :=
  let s := s.senseRails
  let m : Rat := (x.measured.toNat : Rat)
  let e := s.estimate x
  let s := (s.setFld pwrCtrlStat_measuredW 0 x.measured.toNat).setFld pwrCtrlStat_estimateW 0 (min 65535 e.floor.toNat)
  let s := s.learn x m e
  let s := if disagrees m e then s.disagreed x m e else s.agreed x
  let figure := s.cappingFigure m e
  let s := (s.chargeEnergy x (figure * 1000).floor.toNat).countWindows figure
  let s := { s with pwr := { s.pwr with windowAt := s.now, droopWindow := [] } }
  (s.relaxFloor.noteCap).planPoints

/-- CAPPING_WINDOW (R438). -/
def execCappingWindow (sample : PowerSample) (s : State) : Out :=
  .next <| s.whenLive fun s => if s.pwr.windowAt = 0 || s.pwr.windowAt + ticksPerMs ≤ s.now then s.window sample else s

/-! ### Droops (R444) -/

/-- DROOP (R444): in a tile, channel or hub domain. -/
def execDroop (d : Fin 102) (s : State) : Out :=
  .next <| s.whenLive fun s =>
    if d.val < 89 || d.val = 100 then
      let n := mgetD s.pwr.droopWindow d.val 0 + 1
      let s := { s with pwr := { s.pwr with
        doubledClock := mset s.pwr.doubledClock d.val s.now
        droopWindow := mset s.pwr.droopWindow d.val n } }
      let s := s.bump pwrDomStat_droops d.val 1
      if n = 1000 then s.raise (errorOf 0 0x0C 4 d.val) else s
    else s

/-! ### The power-limit input (R445) -/

/-- PWR_LIMIT_N after its filter (R445, R503). -/
def State.powerLimit (s : State) (asserted : Bool) : State :=
  if asserted then
    let s := (s.bump pwrLimitCfg_assertions 0 1).setFlag pwrLimitCfg_active 0 true
    ({ s with pwr := { s.pwr with limitOn := true, limitUntil := none } }).planPoints
  else if s.pwr.limitOn then
    { s with pwr := { s.pwr with limitUntil := some (s.now + s.fld pwrLimitCfg_holdMs 0 * ticksPerMs) } }
  else s

/-- POWER_LIMIT_HOLD_EXPIRY (R445). -/
def execPowerLimitHoldExpiry (s : State) : Out :=
  .next <| s.whenLive fun s =>
    match s.pwr.limitUntil with
    | some t =>
      if t ≤ s.now then
        let s := { s with pwr := { s.pwr with limitOn := false, limitUntil := none, floor := s.fld pwrLimitCfg_point 0 } }
        s.setFlag pwrLimitCfg_active 0 false
      else s
    | none => s

/-! ### Temperatures (R446, R447) -/

/-- Whether a domain lies beside a hot sensor. -/
def State.besideHot (s : State) (d : Nat) : Bool := s.pwr.hot.any fun i => Config.besideSensor i d

/-- A domain's throttle goes to a number of points. -/
def State.throttleTo (s : State) (d n : Nat) : State :=
  { s with pwr := { s.pwr with throttled := if n = 0 then mdel s.pwr.throttled d else mset s.pwr.throttled d n, stepAt := mset s.pwr.stepAt d s.now } }

/-- THROTTLE_STEP_TIMER (R446): one point down every 100 µs beside a hot sensor, one up every 1 ms after it has cooled. -/
def execThrottleStepTimer (d : Fin 102) (s : State) : Out :=
  .next <| s.whenLive fun s =>
    let n := mgetD s.pwr.throttled d.val 0
    let last := mgetD s.pwr.stepAt d.val 0
    if !(d.val < 25 || d.val = 100) then s
    else if s.besideHot d.val then
      if (n = 0 || last + 100 * ticksPerUs ≤ s.now) && s.domainPoint d.val < 7 then
        ((s.throttleTo d.val (n + 1)).bump pwrTherm_throttles 0 1).notePoints
      else s
    else if 0 < n && last + ticksPerMs ≤ s.now then (s.throttleTo d.val (n - 1)).notePoints
    else s

/-- One logic sensor's reading: hot from 100 °C until 97 °C, and every tile and hub domain at P7 from 105 °C. -/
def State.logicReading (s : State) (x : BitVec 8 × Nat) : State :=
  let t := x.1.toNat
  let i := x.2
  if 105 ≤ t then
    let first := !s.pwr.hot.contains i
    let s := { s with pwr := { s.pwr with hot := if first then s.pwr.hot ++ [i] else s.pwr.hot } }
    let down := (List.range 25 ++ [100]).filter fun d => s.domainPoint d < 7
    let s := down.foldl (fun s d => (s.throttleTo d (7 - s.plannedPoint d)).bump pwrTherm_throttles 0 1) s
    s.raise (errorOf 0 0x0C 10 i)
  else if 100 ≤ t then
    if s.pwr.hot.contains i then s
    else ({ s with pwr := { s.pwr with hot := s.pwr.hot ++ [i] } }).raise (errorOf 0 0x0C 5 i)
  else if t ≤ 97 then { s with pwr := { s.pwr with hot := s.pwr.hot.filter (· ≠ i) } }
  else s

/-- One layer's reading: the actions of its channel, each of which ends at 90 °C. -/
def State.dramReading (s : State) (x : BitVec 8 × Nat) : State :=
  let t := x.1.toNat
  let c := x.2
  if t ≤ 90 then
    let s := s.modChan c fun k => { k with doubled := decide (85 < t), halfDuty := false, hold95 := false }
    { s with pwr := { s.pwr with m1 := s.pwr.m1.filter (· ≠ c) } }
  else
    let held := (s.chan c).hold95
    let s := s.modChan c fun k => { k with doubled := true, halfDuty := k.halfDuty || decide (92 ≤ t), hold95 := k.hold95 || decide (95 ≤ t) }
    let s := if 97 ≤ t && !s.pwr.m1.contains c then { s with pwr := { s.pwr with m1 := s.pwr.m1 ++ [c] } } else s
    if 95 ≤ t && !held then (s.bump pwrTherm_dramHolds 0 1).raise (errorOf 0 0x0C 6 c) else s

/-- The highest reading of a list, with its place. -/
def hottest (l : List (BitVec 8)) : Nat × Nat :=
  l.zipIdx.foldl (fun a x => if a.1 < x.1.toNat then (x.1.toNat, x.2) else a) (0, 0)

/-- A thermal trip: the plinth keeps its record, drives THERMTRIP_N low and removes the rails. -/
def State.thermalTrip (s : State) (sensor : Nat) : State :=
  let s := s.writeRecord (errorRecord (errorOf 3 0x0C 7 sensor) s.now)
  let s := s.toC6 (s.stage)
  (({ s with pln := { s.pln with thermalTrip := true } }).emit (.pin 6 false)).raiseAlert

/-- Takes the readings of one sample. -/
def State.readSensors (s : State) (logic dram : List (BitVec 8)) : State :=
  let l := hottest (logic.take 64)
  let d := hottest (dram.take 64)
  let s := (s.setFld pwrTherm_logicMax 0 l.1).setFld pwrTherm_hotSensor 0 l.2
  let s := s.setFld pwrTherm_dramMax 0 d.1
  if 115 ≤ l.1 then s.thermalTrip l.2
  else if 115 ≤ d.1 then s.thermalTrip (64 + d.2)
  else
    let s := (logic.take 64).zipIdx.foldl State.logicReading s
    let s := (dram.take 64).zipIdx.foldl State.dramReading s
    let s := if !s.pwr.m1.isEmpty && s.pwr.memPoint = 0 then s.setMem 1 else s
    s.notePoints

/-- THERMAL_SAMPLE (R446, R447): the sensors are read while the device runs. -/
def execThermalSample (logic dram : List (BitVec 8)) (s : State) : Out :=
  .next <| s.whenLive fun s => s.readSensors logic dram

/-! ### Rack shares (R436, R437) -/

/-- A member's demand as the share-out sees it: node, d, f, w, cap. -/
structure Member where
  node : Nat
  d : Rat
  f : Rat
  w : Rat
  cap : Rat
deriving DecidableEq, Repr

/-- One round of the share-out of R436. -/
def shareRound (budget : Rat) (ms : List Member) : List Member :=
  let left := budget - (ms.map Member.cap).sum
  let open_ := ms.filter fun m => m.cap < m.d
  let ws := (open_.map fun m => m.w * (m.d - m.f)).sum
  if left = 0 || open_.isEmpty || ws = 0 then ms
  else ms.map fun m => if m.cap < m.d then { m with cap := min m.d (m.cap + left * m.w * (m.d - m.f) / ws) } else m

/-- The shares of R436 in whole watts. -/
def shareOut (budget : Rat) (ms : List Member) : List (Nat × Nat) :=
  let fs := (ms.map Member.f).sum
  let ms :=
    if budget ≤ fs then ms.map fun m => { m with cap := if fs = 0 then 0 else m.f * budget / fs }
    else
      let ms := (List.range 4).foldl (fun l _ => shareRound budget l) (ms.map fun m => { m with cap := m.f })
      let left := budget - (ms.map Member.cap).sum
      ms.map fun m => { m with cap := m.cap + left / (ms.length : Rat) }
  ms.map fun m => (m.node, (min m.cap 1800).floor.toNat)

/-- The demand record of R437. -/
def demandBytes (node flags d f m period : Nat) : List (BitVec 8) :=
  leBytes 2 node ++ leBytes 1 flags ++ leBytes 1 0 ++ leBytes 2 d ++ leBytes 2 f ++ leBytes 2 m ++ leBytes 2 0 ++ leBytes 4 period ++ leBytes 16 0

/-- The share record of R437. -/
def shareBytes (node share period : Nat) : List (BitVec 8) := leBytes 2 node ++ leBytes 2 share ++ leBytes 4 period ++ leBytes 8 0

/-- The manager's demand region, which it registers when it first shares: 32 bytes for each node number (DESIGN CHOICE, log 84). -/
def State.demandRegion (s : State) : State :=
  match s.pwr.demandBase with
  | some _ => s
  | none =>
    let r := s.regionBase (2 ^ 21)
    match r.2.addRegion ⟨0, r.1, 2 ^ 21, 2, s.ownNode, 0, false, none, none⟩ with
    | (t, 0, _) => { t with pwr := { t.pwr with demandBase := some r.1 } }
    | _ => r.2

/-- A member's record in the demand region: d, f, flags and period number, where it is newer than the one last taken. -/
def State.readDemand (s : State) (node : Nat) : Option (Nat × Nat × Nat × Nat) :=
  match s.pwr.demandBase with
  | none => none
  | some b =>
    let bs := s.readDram (b + 32 * node) 32
    let period := numAt bs 12 4
    let old := match mget s.pwr.demands node with
      | some x => x.2.2.2
      | none => 0
    if numAt bs 0 2 = node && period ≠ old then some (numAt bs 4 2, numAt bs 6 2, numAt bs 2 1, period) else none

/-- A share takes effect at the next window. -/
def State.takeShare (s : State) (w : Nat) : State :=
  { s.setFld pwrCap_share 0 w with pwr := { s.pwr with lastShare := s.now, failsafe := false } }

/-- Gives a member its share. -/
def State.giveShare (s : State) (x : Nat × Nat) : State :=
  if x.1 = s.ownNode then s.takeShare x.2 else s.send x.1 (.share (shareBytes x.1 x.2 s.pwr.period))

/-- A member for the share-out from its demand. -/
def memberOf (x : Nat × (Nat × Nat × Nat × Nat)) : Member :=
  ⟨x.1, (x.2.1 : Rat), (x.2.2.1 : Rat), if x.2.2.2.1 % 4 = 0 then 1 else 2, 0⟩

/-- RACK_SHARE_PERIOD (R436): the acting manager shares its rack budget among the members that reported. -/
def execRackSharePeriod (s : State) : Out :=
  .next <| s.whenLive fun s =>
    if !s.managing || s.fld pwrRack_budget 0 = 0 ||
        (s.pwr.sharedAt ≠ 0 && s.now < s.pwr.sharedAt + s.fld pwrRack_periodMs 0 * ticksPerMs) then s
    else
      let s := ({ s with pwr := { s.pwr with sharedAt := s.now } }).demandRegion
      let fresh := (s.res.watch.map Prod.fst).filterMap fun n => (s.readDemand n).map fun d => (n, d)
      let own := match mget s.pwr.demands s.ownNode with
        | some d => if d.2.2.2 = s.pwr.period && 0 < s.pwr.period then [(s.ownNode, d)] else []
        | none => []
      let all := fresh ++ own
      let s := fresh.foldl (fun s x => { s with pwr := { s.pwr with demands := mset s.pwr.demands x.1 x.2 } }) s
      let s := s.setFld pwrRack_reporting 0 all.length
      if all.isEmpty then s else (shareOut (s.fld pwrRack_budget 0 : Rat) (all.map memberOf)).foldl State.giveShare s

/-- The member's flags: LATE, THROTTLED, FALLBACK. -/
def State.demandFlags (s : State) : Nat :=
  (if s.pwr.lateFlag then 1 else 0) + (if !s.pwr.throttled.isEmpty || s.pwr.limitOn then 2 else 0) +
    s.fld pwrCtrlStat_fallback 0 * 4

/-- DEMAND_RECORD (R437): each period, to the acting manager. -/
def execDemandRecord (s : State) : Out :=
  .next <| s.whenLive fun s =>
    match s.manager with
    | none => s
    | some m =>
      if s.pwr.period ≠ 0 && s.now < s.pwr.demandAt + s.fld pwrRack_periodMs 0 * ticksPerMs then s
      else
        let d := min 65535 (s.predict s.preferredPlan).floor.toNat
        let f := min 65535 (s.predict (List.replicate 7 7)).floor.toNat
        let flags := s.demandFlags
        let n := (s.pwr.period + 1) % 2 ^ 32
        let s := { s with pwr := { s.pwr with period := n, demandAt := s.now, lateFlag := false } }
        if m = s.ownNode then { s with pwr := { s.pwr with demands := mset s.pwr.demands m (d, f, flags, n) } }
        else s.send m (.demand (demandBytes s.ownNode flags d f (s.fld pwrCtrlStat_measuredW 0) n))

/-- SHARE_RECORD (R437): a record that names this node. -/
def execShareRecord (r : BitVec 128) (s : State) : Out :=
  .next <| s.whenLive fun s => if r.toNat % 2 ^ 16 = s.ownNode then s.takeShare (r.toNat / 2 ^ 16 % 2 ^ 16) else s

/-- SHARE_FAILSAFE (R437): a member that has had a share and receives none for 4 periods. -/
def execShareFailsafe (s : State) : Out :=
  .next <| s.whenLive fun s =>
    match s.manager with
    | none => s
    | some m =>
      if s.pwr.failsafe || s.fld pwrCap_share 0 = 0 || s.now < s.pwr.lastShare + 4 * s.fld pwrRack_periodMs 0 * ticksPerMs then s
      else
        let s := (s.setFld pwrCap_share 0 (s.fld pwrRack_failsafeW 0))
        ({ s with pwr := { s.pwr with failsafe := true } }).raise (errorOf 0 0x0C 9 m)

end Sys2Proof.Machine
end

