-- ==== Sys2Proof/Machine/Lockstep.lean ====
section
/-! DEFINITION. The sync points of a lockstep group: reaching, messages, release, resends and the slack (R265 to R273, R365, R396). -/

set_option Elab.async false

namespace Sys2Proof.Machine

/-! ### Members (R263, R396) -/

/-- The node of a member: the spare that stands in for a lost one, or the node that the group gave it. -/
def State.memberNode (s : State) (p m : Nat) : Nat :=
  match mget (s.part p).standIns m with
  | some n => n
  | none => Config.memberNode (s.fld schGroup_groupId p) m

/-- The other members of a partition's group. -/
def State.otherMembers (s : State) (p : Nat) : List Nat :=
  (List.range (s.fld schGroup_members p)).filter fun m => m ≠ s.fld schGroup_index p

/-- Whether a partition runs a table in a group. -/
def State.inGroup (s : State) (p : Nat) : Bool := s.fld schGroup_members p ≠ 0 && (s.part p).active.isSome

/-- The running cycle's number: the low 32 bits of the step count. -/
def State.cycleNo (s : State) (p : Nat) : Nat := s.fld schStep_count p % 2 ^ 32

/-! ### Messages (R266) -/

/-- A message's bytes. -/
def syncBytes (group : Nat) (m : SyncMember) : List (BitVec 8) :=
  leBytes 2 group ++ leBytes 2 m.member ++ leBytes 4 m.cycle ++ leBytes 1 m.point ++ leBytes 1 m.flags ++ leBytes 2 0 ++
    leBytes 4 (BitVec.ofInt 32 m.margin).toNat ++ leBytes 4 m.digest.toNat ++ leBytes 2 (m.stretch.getD (0, 0)).1 ++ leBytes 2 0 ++
    leBytes 8 (m.stretch.getD (0, 0)).2 ++ leBytes 32 0 ++ if m.point = 0 then leBytes 128 m.exclude.toNat else []

/-- Sends a message of this member to a node. -/
def State.sendSync (s : State) (p node : Nat) (m : SyncMember) : State := s.sendGroup node 0x10 (syncBytes (s.fld schGroup_groupId p) m)

/-- Sends a message to every other member. -/
def State.sendSyncs (s : State) (p : Nat) (m : SyncMember) : State :=
  (s.otherMembers p).foldl (fun s k => s.sendSync p (s.memberNode p k) m) s

/-- The order of sync points within a cycle: 1 to 63, then 0. -/
def pointRank (k : Nat) : Nat := if k = 0 then 64 else k

/-- The scheduled tick of a sync point (R265). -/
def State.pointTick (s : State) (p k : Nat) : Tick :=
  if k = 0 then s.scheduledTick p
  else
    match (s.part p).active with
    | some t => match t.syncPoints.find? fun x => x.1 = k with
      | some x => s.budgetEnd p x.2
      | none => 0
    | none => 0

/-- Whether the work up to a sync point is done. -/
def State.pointDone (s : State) (p k : Nat) : Bool :=
  match (s.part p).active with
  | none => false
  | some t =>
    let stop : Option Nat := if k = 0 then some (t.period + 1) else (t.syncPoints.find? fun x => x.1 = k).map fun x => x.2.start + x.2.budget
    match stop with
    | none => false
    | some stop => !(t.entries.zipIdx.any fun e => e.1.start + e.1.budget ≤ stop && s.entryPending p e.2 e.1)

/-- Whether every earlier sync point of the cycle has been passed. -/
def State.earlierPassed (s : State) (p k : Nat) : Bool :=
  match (s.part p).active with
  | some t => t.syncPoints.all fun x => pointRank k ≤ x.1 || (s.part p).passed.contains x.1
  | none => false

/-- Whether the manager's active digest, in a message of this cycle, differs from this member's (R270). -/
def State.digestDiffers (s : State) (p : Nat) : Bool :=
  match (s.part p).active with
  | some t => (s.part p).syncs.any fun m => m.node = s.fld schGroup_manager p && m.cycle = s.cycleNo p && m.digest ≠ t.digest
  | none => false

/-- The candidates that this member removes for reasons of its own, as the mask of sync point 0 (R266, R268). -/
def State.excludeMask (s : State) (p : Nat) : BitVec 1024 :=
  ((s.batchCandidates p).take 1024).zipIdx.foldl (fun (b : BitVec 1024) x =>
    if s.ownReason p (s.fld schStep_count p + 1) x.1 then b ||| BitVec.ofNat 1024 (2 ^ x.2) else b) 0

/-- A margin held to 32 signed bits. -/
def heldMargin (m : Int) : Int := max (-2147483648) (min 2147483647 m)

/-- Whether this member voids the cycle: work that it cannot complete, or a mismatched digest (R269, R270). -/
def State.voidNow (s : State) (p : Nat) : Bool := (s.part p).void || (s.part p).poisonedAll || s.digestDiffers p

/-- This member's message for a sync point that it reaches now. -/
def State.ownSync (s : State) (p k : Nat) : SyncMember :=
  let margin : Int := (s.pointTick p k : Int) - s.now
  let late := s.pointTick p k + s.fld schGroup_slack p * ticksPerUs < s.now
  let manager := s.fld schGroup_manager p = s.ownNode
  let stretch := if manager && (s.part p).stretchSent then (s.part p).stretchNext else none
  { point := k
    member := s.fld schGroup_index p
    node := s.ownNode
    cycle := s.cycleNo p
    margin := heldMargin margin
    flags := bit late + 2 * bit (s.voidNow p) + 4 * bit (s.digestDiffers p) + 8 * bit stretch.isSome
    exclude := if k = 0 then s.excludeMask p else 0
    arrived := s.now
    digest := match (s.part p).active with
      | some t => t.digest
      | none => 0
    stretch := stretch }

/-- A sync point is reached: the message is kept and sent. -/
def State.reach (s : State) (p k : Nat) : State :=
  let m := s.ownSync p k
  let s := s.modPart p fun x =>
    { x with reached := mset x.reached k s.now, syncs := x.syncs ++ [m], void := x.void || s.voidNow p, resentAt := s.now }
  let s := if m.flags % 2 = 1 then { s with pwr := { s.pwr with lateFlag := true } } else s
  s.sendSyncs p m

/-- SYNC_POINT_REACH (R265, R266). -/
def execSyncPointReach (p : Fin 16) (point : Fin 64) (s : State) : Out :=
  .next <| s.whenLive fun s =>
    if s.inGroup p.val && !mhas (s.part p.val).reached point.val && s.pointDone p.val point.val && s.earlierPassed p.val point.val then
      s.reach p.val point.val
    else s

/-! ### SYNC (R270, R272, R365) -/

/-- A received message as it is kept. -/
def syncOf (src : Nat) (m : SyncMsg) (now : Tick) : SyncMember where
  point := m.point.toNat
  member := m.member.toNat
  node := src
  cycle := m.cycle.toNat
  margin := m.margin.toInt
  flags := bit m.late + 2 * bit m.void + 4 * bit m.mismatch + 8 * bit m.stretchValid
  exclude := if m.point = 0 then m.exclude else 0
  arrived := now
  digest := m.digest
  stretch := if m.stretchValid then some (m.stretch.toNat, m.swapTick.toNat) else none

/-- Keeps a message, unless the member's message for the point is kept already. -/
def State.keepSync (s : State) (p : Nat) (m : SyncMember) : State :=
  if (s.part p).syncs.any fun x => x.member = m.member && x.point = m.point && x.cycle = m.cycle then s
  else s.modPart p fun x => { x with syncs := x.syncs ++ [m] }

/-- Answers a message for a point that this member has passed with its own message for that point. -/
def State.answerSync (s : State) (p : Nat) (m : SyncMember) : State :=
  let x := s.part p
  let passed := m.cycle < s.cycleNo p || (m.cycle = s.cycleNo p && x.passed.contains m.point)
  match (if passed then (x.syncs ++ x.oldSyncs).find? fun y => y.node = s.ownNode && y.cycle = m.cycle && y.point = m.point else none) with
  | some own => s.sendSync p m.node own
  | none => s

/-- What the manager's message does at a member: a digest that differs voids the cycle, and a stretch is taken in. -/
def State.heedManager (s : State) (p : Nat) (m : SyncMember) : State :=
  if m.node ≠ s.fld schGroup_manager p then s
  else
    let s := if s.digestDiffers p && !(s.part p).void then
        (s.modPart p fun x => { x with void := true }).raise (errorOfPart 0 0x0A 1 0 p)
      else s
    match m.stretch with
    | some f => if 1024 ≤ f.1 && f.1 ≤ 8192 then s.modPart p fun x => { x with stretchNext := some f } else s
    | none => s

/-- The manager treats a member that sets MISMATCH at two consecutive boundaries as lost (R270). -/
def State.heedMismatch (s : State) (p : Nat) (m : SyncMember) : State :=
  if s.fld schGroup_manager p ≠ s.ownNode || m.point ≠ 0 || m.flags / 4 % 2 = 0 then s
  else
    let twice := mgetD (s.part p).mismatch m.member 0 = m.cycle && 0 < m.cycle
    let s := s.modPart p fun x => { x with mismatch := mset x.mismatch m.member (m.cycle + 1) }
    if twice then s.declareLost m.node else s

/-- A spare that sends at sync point 0 stands in for a lost member (R396). -/
def State.standIn (s : State) (p : Nat) (m : SyncMember) : State :=
  if m.point = 0 && m.node ≠ s.memberNode p m.member && s.asf.lost.contains (s.memberNode p m.member) then
    s.modPart p fun x => { x with standIns := mset x.standIns m.member m.node }
  else s

/-- Takes in a message of another member. -/
def State.takeSync (s : State) (p : Nat) (m : SyncMember) : State :=
  let s := (s.standIn p m).answerSync p m
  if m.cycle < s.cycleNo p then s else ((s.keepSync p m).heedManager p m).heedMismatch p m

/-- SYNC (R266, R365). -/
def execSync (p : Fin 16) (src : BitVec 16) (m : SyncMsg) (s : State) : Out :=
  .next <| s.whenLive fun s =>
    if s.inGroup p.val && m.group.toNat = s.fld schGroup_groupId p.val && m.member.toNat < s.fld schGroup_members p.val &&
        m.member.toNat ≠ s.fld schGroup_index p.val then
      s.takeSync p.val (syncOf src.toNat m s.now)
    else s

/-! ### SYNC_RELEASE (R267, R396) -/

/-- A member's message for a point of the running cycle: its own, or one for a later point or a later cycle. -/
def State.messageFor (s : State) (p k member : Nat) : Option SyncMember :=
  let c := s.cycleNo p
  let mine := (s.part p).syncs.filter fun m => m.member = member
  (mine.find? fun m => m.cycle = c && m.point = k).orElse fun _ =>
    mine.find? fun m => c < m.cycle || (m.cycle = c && pointRank k < pointRank m.point)

/-- Whether a member is lost and no spare stands in for it. -/
def State.memberLost (s : State) (p member : Nat) : Bool := s.asf.lost.contains (s.memberNode p member)

/-- The reach tick that a message gives. -/
def State.reachTick (s : State) (p : Nat) (m : SyncMember) : Int :=
  if m.cycle = s.cycleNo p then (s.pointTick p m.point : Int) - m.margin else 0

/-- The members whose messages a point waits for. -/
def State.awaited (s : State) (p : Nat) : List Nat :=
  (List.range (s.fld schGroup_members p)).filter fun m => m = s.fld schGroup_index p || !s.memberLost p m

/-- The release tick of a point, once every message has come. -/
def State.releaseTick (s : State) (p k : Nat) : Option Int :=
  let ms := (s.awaited p).map fun m => s.messageFor p k m
  if ms.any Option.isNone then none
  else
    let lag : Int := (s.fld schSync_lagUs p * ticksPerUs : Nat)
    let latest := (ms.filterMap id).foldl (fun (a : Int) m => max a (s.reachTick p m)) 0
    some (max (s.pointTick p k : Int) (latest + lag))

/-- The domains that a wait had gated run again (R416). -/
def State.ungate (s : State) (p : Nat) : State :=
  ((List.range 89).filter fun d => s.partDomain p d && s.domainState d = 1).foldl (fun s d => (s.setFld pwrDomStat_state d 0).worked d) s

/-- A sync point is passed; a pass later than the release tick for want of a message counts. -/
def State.pass (s : State) (p k : Nat) (t : Int) : State :=
  let missed := (s.awaited p).any fun m => match s.messageFor p k m with
    | some x => t < (x.arrived : Int)
    | none => false
  let lost := (s.otherMembers p).any fun m => s.memberLost p m
  let s := if missed then s.bump schSync_lagMisses p 1 else s
  (s.modPart p fun x => { x with passed := x.passed ++ [k], void := x.void || lost }).ungate p

/-- SYNC_RELEASE (R267). -/
def execSyncRelease (p : Fin 16) (point : Fin 64) (s : State) : Out :=
  .next <| s.whenLive fun s =>
    if s.inGroup p.val && mhas (s.part p.val).reached point.val && !(s.part p.val).passed.contains point.val then
      match s.releaseTick p.val point.val with
      | some t => if t ≤ (s.now : Int) then s.pass p.val point.val t else s
      | none => s
    else s

/-! ### Waiting (R267, R365, R416) -/

/-- The sync point at which a partition waits. -/
def State.waitsAt (s : State) (p : Nat) : Option Nat :=
  ((s.part p).reached.map Prod.fst).find? fun k => !(s.part p).passed.contains k

/-- SYNC_RESEND_TIMER (R365): every 50 µs of a wait. -/
def execSyncResendTimer (p : Fin 16) (s : State) : Out :=
  .next <| s.whenLive fun s =>
    match (if s.inGroup p.val then s.waitsAt p.val else none) with
    | some k =>
      let x := s.part p.val
      if s.now < x.resentAt + 50 * ticksPerUs then s
      else
        match x.syncs.find? fun m => m.node = s.ownNode && m.point = k && m.cycle = s.cycleNo p.val with
        | some m => (s.modPart p.val fun x => { x with resentAt := s.now }).sendSyncs p.val m
        | none => s
    | none => s

/-- SYNC_SLACK_EXPIRY (R267, R416): the waiting domains enter D1, at the point of the WAIT class. -/
def execSyncSlackExpiry (p : Fin 16) (s : State) : Out :=
  .next <| s.whenLive fun s =>
    match (if s.inGroup p.val then s.waitsAt p.val else none) with
    | some k =>
      if s.now < s.pointTick p.val k + s.fld schGroup_slack p.val * ticksPerUs then s
      else
        ((List.range 89).filter fun d => s.partDomain p.val d && s.domainState d = 0 && !s.domainBusy d).foldl
          (fun s d => s.setFld pwrDomStat_state d 1) ((s.modPart p.val fun x => { x with pastSlack := true }).notePoints)
    | none => s

end Sys2Proof.Machine
end

