-- ==== Sys2Proof/Machine/Startup.lean ====
section
/-! DEFINITION. Start-up, resets and the removal of power (R452 to R464, R495 to R512). -/

set_option Elab.async false

namespace Sys2Proof.Machine

/-! ### VDD_AON (R506, R507) -/

/-- The fused state that the redundant bits give: each transition's three bits are read by majority (R454). -/
def fusedState (bits : List (BitVec 3)) : Nat :=
  let blown (i : Nat) : Bool :=
    match bits[i]? with
    | some b => 2 ≤ (if b.getLsbD 0 then 1 else 0) + (if b.getLsbD 1 then 1 else 0) + (if b.getLsbD 2 then 1 else 0)
    | none => false
  if blown 2 then 4 else if blown 1 then 2 else if blown 0 then 1 else 0

/-- The fuse shadows at POWER_ON: what the fuses show, and what this machine has blown itself. -/
def Sec.loadFuses (x : Sec) (c : ColdStart) (draw : Nat) : Sec :=
  let fused := max x.fused (fusedState c.lifecycleBits)
  { x with
    fused := fused
    fieldLock := x.fieldLock || c.fieldLock
    bootSource := x.bootSource || c.bootSource || x.blown 2
    ownerKey := x.ownerKey || c.ownerKey || x.blown 0
    secondKey := x.secondKey || c.secondKey || x.blown 1
    revoked := x.revoked ||| c.revoked.toNat
    floor := max x.floor c.svnFloor.toNat
    uds := if fused = 4 || fused = 0 then none else some (x.uds.getD draw) }

/-- The fields of GLB_LIFECYCLE that the fuses load (R530). -/
def State.showFuses (s : State) : State :=
  let s := (s.setFld glbLifecycle_revoked 0 s.sec.revoked).setFlag glbLifecycle_bootSource 0 s.sec.bootSource
  let s := (s.setFlag glbLifecycle_ownerKey 0 s.sec.ownerKey).setFlag glbLifecycle_secondKey 0 s.sec.secondKey
  (s.setFlag glbLifecycle_fieldLock 0 s.sec.fieldLock).setFld glbLifecycle_state 0 s.sec.fused

/-- The units that are quarantined. -/
def State.quarantinedUnits (s : State) : List (Nat × Nat) :=
  (List.range 64).flatMap fun c => (List.range 32).filterMap fun u => if s.unitQuarantined c u then some (c, u) else none

/-- The quarantine state that a cold start finds (R510): the copies that this machine has written, else those of the flash. -/
def State.loadQuarantine (n old : State) (c : ColdStart) : State :=
  if old.flag plnQstate_flashValid 0 then
    let n := { n with
      prm := { n.prm with quarantined := old.prm.quarantined }
      regs := old.regs.filter fun r => 0x801000 ≤ r.1 && r.1 < 0x801400 }
    let n := ((n.setFlag plnQstate_flashValid 0 true).setFld plnQstate_copy 0 (old.fld plnQstate_copy 0)).setFld
      plnQstate_generation 0 (old.fld plnQstate_generation 0)
    (List.range 64).foldl (fun n k => (n.setFld genChUnits_quarantine k (old.fld genChUnits_quarantine k)).noteMemOnly k) n
  else if c.copyGood then
    let n := { n with prm := { n.prm with quarantined := (c.quarTiles.map BitVec.toNat).dedup.filter (· < 200) } }
    let n := ((n.setFlag plnQstate_flashValid 0 true).setFld plnQstate_copy 0 (if c.copyIndex then 1 else 0)).setFld
      plnQstate_generation 0 c.copyGeneration.toNat
    c.quarUnits.foldl (fun n u =>
      (n.setFld genChUnits_quarantine u.1.val (n.fld genChUnits_quarantine u.1.val ||| 2 ^ u.2.val)).noteMemOnly u.1.val) n
  else (n.setFlag plnBoot_qstateLost 0 true).raise (errorOf 0 0x0F 5 0)

/-- COLD_START (R507): VDD_AON has come within range, the fuse shadows are loaded and the quarantine state is reloaded; a high TEST_EN
holds the device at FAULT (R495). -/
def State.coldStart (s : State) (c : ColdStart) : State :=
  let n : State := { State.reset with
    pending := s.pending
    now := s.now
    freeCtr := s.freeCtr + 1
    out := s.out
    ftl := s.ftl.afterReset
    sec := s.sec.afterReset.loadFuses c s.freeCtr
    pln := { Pln.reset with aonAt := s.now, resetAt := s.now, testEn := c.testEn } }
  let n := ((State.loadQuarantine n s c).loadTileMap.showFuses).drawNonce
  if c.testEn then n.setFld plnBoot_stage 0 8 else n

/-- COLD_START: at the application of VDD_AON. -/
def execColdStart (inp : ColdStart) (s : State) : Out := .next (if !s.pln.powered || s.stage = 0 then s.coldStart inp else s)

/-! ### The rails (R497, R506, R508) -/

/-- The rail sequence begins: EN_IO is driven high. -/
def State.beginRails (s : State) : State :=
  ({ s with pln := { s.pln with rails := [0], c6 := false } }.setFld plnBoot_stage 0 1).emit (.pin 0 true)

/-- RAIL_SEQUENCE_START (R506): 1,000 ms after VDD_AON, unless STAY_OFF has come. -/
def execRailSequenceStart (s : State) : Out :=
  .next (if s.pln.powered && s.stage = 0 && !s.pln.c6 && !s.pln.stayOff && s.pln.aonAt + 1000 * ticksPerMs ≤ s.now then s.beginRails else s)

/-- RAIL_IN_RANGE (R497): the rail enabled last has been within range for 2 ms, and the next one is enabled. -/
def execRailInRange (s : State) : Out :=
  .next <|
    if s.stage = 1 && s.pln.rails.length < 6 then
      ({ s with pln := { s.pln with rails := s.pln.rails ++ [s.pln.rails.length] } }).emit (.pin s.pln.rails.length true)
    else s

/-- RAIL_FAULT (R508): the rail enabled last is not within range after 18 ms. -/
def execRailFault (s : State) : Out :=
  .next <|
    if s.stage = 1 then
      let s := s.writeRecord (errorRecord (errorOf 3 0x0F 1 (s.pln.rails.length - 1)) s.now)
      let s := s.toC6 8
      ({ s with pln := { s.pln with railFault := true } }).raiseAlert
    else s

/-! ### Clocks (R498, R505, R507) -/

/-- The level that the last event of an input reported (R503). -/
def State.reportedLevel (s : State) (i : Nat) : Bool := (mget s.pln.inputs i).any Input.reported

/-- The inputs that act as soon as the hub runs: a PWR_LIMIT_N and a GSTOP_N that were reported as asserted while they could not act
(R504, R505, R511). -/
def State.hubReleased (s : State) : State :=
  let s := if s.reportedLevel 1 && !s.pwr.limitOn then s.powerLimit true else s
  if s.reportedLevel 0 && !s.pln.stopped then
    let s := s.globalStop 0 false
    if s.pln.gstopStuck then s.setFld plnBoot_stage 0 8 else s
  else s

/-- CLOCKS_LOCKED (R507): every rail is up, and the hub is released. -/
def execClocksLocked (s : State) : Out :=
  .next (if s.stage = 1 && s.pln.rails.length = 6 then (s.setFld plnBoot_stage 0 2).startLoops.hubReleased else s)

/-- REF_ABSENT (R498): without the system reference start-up enters FAULT. -/
def execRefAbsent (s : State) : Out :=
  .next <|
    if (s.stage = 1 && s.pln.rails.length = 6) || s.stage = 2 then
      (s.writeRecord (errorRecord (errorOf 3 0x0F 3 0) s.now)).setFld plnBoot_stage 0 8
    else s

/-- XTAL_ABSENT (R498). -/
def execXtalAbsent (s : State) : Out :=
  .next <|
    if s.pln.powered && !s.flag plnBoot_xtalFault 0 then
      ((s.setFlag plnBoot_xtalFault 0 true).setFlag pwrDevCfg_c5En 0 false).raise (errorOf 0 0x0F 2 0)
    else s

/-- PORT_REF_ABSENT (R498): the ports of the reference go down. -/
def execPortRefAbsent (refB : Bool) (s : State) : Out :=
  .next <|
    if s.hubRuns then
      let s := { s with pln := { s.pln with refA := s.pln.refA && refB, refB := s.pln.refB && !refB } }
      let down := s.asf.links.filter fun q => (4 ≤ q) = refB
      (down.foldl State.portDown s).raise (errorOf 0 0x0F 7 (if refB then 1 else 0))
    else s

/-! ### From CLOCKS to READY (R507) -/

/-- DRAM_INIT_COMPLETE (R507): all of DRAM is written with zeros. -/
def execDramInitComplete (s : State) : Out :=
  .next (if 2 ≤ s.stage && s.stage ≤ 6 && !s.pln.stopped then { s with dram := [], poison := [] } else s)

/-- What boot flash holds: the image that this machine has programmed or read before, else what it answers now. -/
def Sec.stored (x : Sec) (answered : List (BitVec 8)) : List (BitVec 8) :=
  match x.bootFlash with
  | some b => b
  | none => answered

/-- Stage ROM_VERIFY (R458, R459): the image of boot flash, or host-stream recovery. -/
def State.romVerify (s : State) (answers : Bool) (image : List (BitVec 8)) : State :=
  let s := (s.setFld plnBoot_stage 0 3).setFlag glbCap1_bootFlash 0 answers
  let b := s.sec.stored image
  let s := ({ s with sec := { s.sec with bootFlash := if answers then some b else none } }).setFld secBoot_svnFloor 0 s.sec.floor
  if s.sec.bootSource then s.toRecovery
  else if s.flag plnBoot_recoveryArmed 0 then (s.setFlag plnBoot_recoveryArmed 0 false).toRecovery
  else if !answers then (s.setFld secBoot_result 0 7).toRecovery
  else
    match s.sec.imageResult b s.sec.torn with
    | 0 => s.imageRuns b false
    | r => (s.imageFails r).toRecovery

/-- BOOT_VERIFY (R458). -/
def execBootVerify (flashAnswers : Bool) (image : List (BitVec 8)) (s : State) : Out :=
  .next (if s.stage = 2 && !s.pln.stopped && !s.pln.perst then s.romVerify flashAnswers image else s)

/-- The UDS as the fuses hold it: all 0 in BLANK, all 1 in RETIRED, else what the entropy source gave (R453). -/
def Sec.udsValue (x : Sec) : BitVec 384 :=
  match x.uds with
  | some n => Config.entropy n
  | none => if x.fused = 4 then ~~~ 0 else 0

/-- A label of a key derivation as its bytes. -/
def labelBytes (label : String) : List (BitVec 8) := label.toList.map fun c => BitVec.ofNat 8 c.toNat

/-- The DeviceID certificate that the device serves (R464): the one of the certificate area where its key matches, else one that the device
signs itself. -/
def Sec.deviceCert (x : Sec) (seed : BitVec 384) (matched : Bool) : List (BitVec 8) :=
  if matched then (if x.cert.isEmpty then Config.storedCert else x.cert) else Config.selfSigned seed

/-- The identity (R462), and the keys derived from it and drawn at each start-up (R468). CDI_L0 and the DeviceID key pair's seed are not
kept: the ROM erases them before core 0 starts. -/
def State.deriveIdentity (s : State) (matched : Bool) : State :=
  let cdi0 := Config.hmac384 s.sec.udsValue (digestBytes Config.bootRomDigest)
  let device := Config.kdf cdi0 (labelBytes "DeviceID") []
  let image := match s.sec.image with
    | some x => digestBytes x.1 ++ leBytes 1 x.2
    | none => leBytes 49 0
  let cdi1 := Config.hmac384 cdi0 (image ++ leBytes 1 s.sec.fused ++ leBytes 1 (if s.sec.fieldLock then 1 else 0))
  let aliasSeed := Config.kdf cdi1 (labelBytes "Alias") []
  let chain := Config.certChain (s.sec.deviceCert device matched) (Config.aliasCert device aliasSeed)
  { s with
    sec := { s.sec with
      identity := some ⟨Config.deviceIdModulus device, cdi1, aliasSeed, chain⟩
      stateKey := some s.freeCtr
      contextKey := some (s.freeCtr + 1)
      durableKey := if s.sec.fused = 4 then none else some (Config.kdf cdi0 (labelBytes "Durable") []) }
    freeCtr := s.freeCtr + 2 }

/-- DICE_DERIVATION_COMPLETE (R462, R464): a DeviceID certificate whose key differs is replaced by a self-signed one. -/
def execDiceDerivationComplete (certMatches : Bool) (s : State) : Out :=
  .next <|
    if s.stage = 5 && !s.pln.stopped then
      let s := (s.deriveIdentity certMatches).setFld plnBoot_stage 0 6
      if certMatches then s else s.raise (errorOf 0 0x0E 4 0)
    else s

/-- The bits of DBG_HALT.CORES of a partition. -/
def coreMask (p : Nat) : Nat := ((List.range 16).map fun c => if Config.coreRuns c p then 2 ^ c else 0).sum

/-- A self-test failure at start-up: the pattern and the temperature are free, as the manual's event does not name them. -/
def State.startupFailure (s : State) (tile : Option Nat) (unit : Nat × Nat) : State :=
  let x := s.free
  let pattern := x.1.toNat % 10
  let temp := x.1.toNat / 16 % 256
  match tile with
  | some t => (x.2.bump prmSelftest_fails 0 1).quarantineTile t 1 temp pattern none 0
  | none => x.2.quarantineUnit unit.1 unit.2 1 temp pattern none 0

/-- Stage READY (R507): failures are quarantined, the links that trained carry traffic, the preferred points are requested, and fetching
begins. -/
def State.becomeReady (s : State) (inp : FirmwareInit) : State :=
  let s := (inp.failedTiles.map BitVec.toNat).foldl (fun s t => if t < 200 then s.startupFailure (some t) (0, 0) else s) s
  let s := inp.failedUnits.foldl (fun s u => s.startupFailure none (u.1.val, u.2.val)) s
  let up := (List.range 8).filter fun q => inp.linksUp.getLsbD q && s.portRef q
  let s := { s with asf := { s.asf with links := up } }
  let s := (List.range 16).foldl (fun s p => s.setFld dbgHalt_cores p (coreMask p)) s
  let s := (s.setFld plnBoot_stage 0 7).setFld plnBoot_readyMs 0 ((s.now - s.pln.resetAt) / ticksPerMs)
  s.planPoints.flushHeld

/-- FIRMWARE_INIT_COMPLETE (R507, R510). -/
def execFirmwareInitComplete (inp : FirmwareInit) (s : State) : Out :=
  .next (if s.stage = 6 && !s.pln.stopped then s.becomeReady inp else s)

/-- Whether the FTL uses a target (R303). -/
def FlashTarget.usable_ (t : FlashTarget) : Bool := t.dataBytes = 16384 && 2048 ≤ t.spareBytes

/-- Tier 3 enters service (R303, R306, R307): the state space is trimmed, and the map takes its frames. -/
def State.ftlStarts (s : State) (targets : List FlashTarget) : State :=
  let good := targets.filter FlashTarget.usable_
  let s := s.setFld ftlHealth_targetsRefused 0 (min (targets.length - good.length) ftlHealth_targetsRefused.max)
  if good.isEmpty then s
  else
    let s := { s with ftl := { s.ftl with targets := good, inService := true } }
    let s := (s.setFlag glbCap1_flashFitted 0 true).setFld ftlHealth_mode 0 0
    (s.relayTier1.noteErases).checkReserve

/-- FTL_IN_SERVICE (R507). -/
def execFtlInService (targets : List FlashTarget) (s : State) : Out :=
  .next <| s.whenLive fun s => if s.ftl.inService then s else s.ftlStarts targets

/-! ### Resets and the link (R511, R524) -/

/-- A fundamental reset: the rails stay on, and start-up goes on from CLOCKS. -/
def State.fundamentalReset (s : State) : State := (s.reboot 1 2).hubReleased

/-- PCIE_HOT_RESET (R524). -/
def execPcieHotReset (s : State) : Out := .next (if s.pln.pcieUp && !s.pln.c6 then s.fundamentalReset else s)

/-- PCIE_LINK_UP (R531): the records held for the log are written. -/
def execPcieLinkUp (s : State) : Out :=
  .next <|
    if s.hubRuns && !s.pln.perst && !s.pln.pcieUp then ({ s with pln := { s.pln with pcieUp := true } }).flushHeld
    else s

/-- PCIE_LINK_DOWN (R401): the link's keys end with it (R468). -/
def execPcieLinkDown (s : State) : Out :=
  .next <|
    if s.pln.pcieUp then
      let s := { s with
        pln := { s.pln with pcieUp := false }
        sec := { s.sec with ide := [] } }
      if s.hubRuns then s.raise (errorOf 3 0x10 3 0) else s
    else s

/-- SUPPLIES_REMOVED (R434, R512): the rails go, or VDD_AON with them. What the fuses and the flash parts hold stays. -/
def execSuppliesRemoved (aonToo : Bool) (s : State) : Out :=
  .next <|
    if !s.pln.powered then s
    else
      let n := s.toC6 s.stage
      if aonToo then { n with pln := { n.pln with powered := false } } else n

end Sys2Proof.Machine
end

