-- ==== Sys2Proof/Machine/Pins.lean ====
section
/-! DEFINITION. The input pins after their filters: events, stuck inputs, and what each input does (R313, R489, R502 to R505). -/

set_option Elab.async false

namespace Sys2Proof.Machine

/-! ### Events (R503) -/

/-- The time in which further edges are merged into an event. -/
def mergeTicks : Nat := 100 * ticksPerUs

/-- What is kept of an input. -/
def State.input (s : State) (i : Nat) : Input := mgetD s.pln.inputs i ⟨none, false, false, 0⟩

/-- Keeps an input. -/
def State.setInput (s : State) (i : Nat) (x : Input) : State := { s with pln := { s.pln with inputs := mset s.pln.inputs i x } }

/-- An event reports the present level, and the input acts on it. -/
def State.inputEvent (s : State) (i : Nat) (act : Bool → State → State) : State :=
  let x := s.input i
  act x.level ((s.setInput i { x with lastEvent := some s.now, reported := x.level }).bump pinInput_events i 1)

/-- Takes a new level of an input: STUCK and its mask clear on release (R504). -/
def State.takeLevel (s : State) (i : Nat) (asserted : Bool) : State :=
  let s := (s.setInput i { s.input i with level := asserted, since := s.now }).setFlag pinInput_level i asserted
  let s := if asserted then s else (s.setFlag pinInput_stuck i false).setFlag pinInput_masked i false
  { s with pln := { s.pln with gstopStuck := s.pln.gstopStuck && (asserted || i ≠ 0) } }

/-- Whether the last event of an input lies less than the merge window back. -/
def State.merges (s : State) (i : Nat) : Bool := (s.input i).lastEvent.any fun t => s.now < t + mergeTicks

/-- The filtered level changes: an event at once after a quiet time, else the edge is merged. -/
def State.edge (s : State) (i : Nat) (asserted : Bool) (act : Bool → State → State) : State :=
  if (s.input i).level = asserted then s
  else if s.merges i then (s.takeLevel i asserted).bump pinInput_merged i 1
  else (s.takeLevel i asserted).inputEvent i act

/-! ### What the inputs do (R504, R505) -/

/-- Whether the hub runs, so that an input acts. -/
def State.inputsAct (s : State) : Bool := 2 ≤ s.stage && s.stage ≤ 7 && !s.pln.c6 && !s.pln.stopped

/-- GSTOP_N (R489). -/
def actGstop (asserted : Bool) (s : State) : State := if asserted && s.inputsAct then s.globalStop 0 false else s

/-- PWR_LIMIT_N: a raise that waits for VDone is abandoned (R505). -/
def actPwrLimit (asserted : Bool) (s : State) : State :=
  if !s.inputsAct || s.fld pwrDevStat_state 0 = 2 then s
  else if asserted then ({ s with pwr := { s.pwr with raise := none } }).powerLimit true
  else s.powerLimit false

/-- PFAIL_N: no write starts from now on, and programming of boot flash stops; the last commit follows (R313). -/
def actPfail (asserted : Bool) (s : State) : State :=
  let s := { s with pln := { s.pln with pfail := asserted, lastCommitDone := false } }
  if asserted && s.inputsAct then s.programmingStops else s

/-- The exit from C5 with the retained image checked against the plinth's digest (R433). -/
def State.exitC5 (s : State) (source : Nat) : State :=
  if s.sec.plinthDigest = s.sec.image.map Prod.fst then s.leaveC5 source else s.reboot 3 2

/-- WAKE_N, unless it is masked: the exit from C3 or C5. -/
def actWake (asserted : Bool) (s : State) : State :=
  if !asserted || s.flag pinInput_masked 3 || !s.inputsAct || s.stage ≠ 7 then s
  else
    match s.fld pwrDevStat_state 0 with
    | 1 => s.toC0 5
    | 2 => s.exitC5 5
    | _ => s

/-- ALERT_N, unless it is masked: a status read on both AVSBus masters. -/
def actAlert (asserted : Bool) (s : State) : State :=
  if asserted && s.inputsAct && !s.flag pinInput_masked 4 then (s.emit (.avsStatus 0)).emit (.avsStatus 1) else s

/-- HOLDUP_OK: its level alone matters. -/
def actHoldup (_ : Bool) (s : State) : State := s

/-- PERST_N: the fundamental reset on assertion; start-up goes on from CLOCKS on release. -/
def actPerst (asserted : Bool) (s : State) : State :=
  let reset := asserted && 2 ≤ s.stage && s.stage ≤ 8 && !s.pln.c6 && !s.pln.testEn
  let s := if reset then s.fundamentalReset else s
  { s with pln := { s.pln with perst := asserted, pcieUp := s.pln.pcieUp && !asserted } }

/-- GSTOP_N (R489). -/
def execGstopN (asserted : Bool) (s : State) : Out := .next (s.edge 0 asserted actGstop)

/-- PWR_LIMIT_N (R445). -/
def execPwrLimitN (asserted : Bool) (s : State) : Out := .next (s.edge 1 asserted actPwrLimit)

/-- PFAIL_N (R313). -/
def execPfailN (asserted : Bool) (s : State) : Out := .next (s.edge 2 asserted actPfail)

/-- WAKE_N (R504). -/
def execWakeN (asserted : Bool) (s : State) : Out := .next (s.edge 3 asserted actWake)

/-- ALERT_N (R504). -/
def execAlertN (asserted : Bool) (s : State) : Out := .next (s.edge 4 asserted actAlert)

/-- HOLDUP_OK (R504): asserted is low, the bank below its charged level. -/
def execHoldupOk (asserted : Bool) (s : State) : Out := .next (s.edge 5 asserted actHoldup)

/-- PERST_N (R511). -/
def execPerstN (asserted : Bool) (s : State) : Out := .next (s.edge 6 asserted actPerst)

/-- The action of an input by its number. -/
def inputAct (i : Nat) : Bool → State → State :=
  match i with
  | 0 => actGstop
  | 1 => actPwrLimit
  | 2 => actPfail
  | 3 => actWake
  | 4 => actAlert
  | 6 => actPerst
  | _ => actHoldup

/-- INPUT_EVENT_WINDOW_END (R503): a level that the last event did not report raises one further event. -/
def execInputEventWindowEnd (i : Fin 8) (s : State) : Out :=
  .next <|
    let x := s.input i.val
    if x.level ≠ x.reported && x.lastEvent.any (fun t => t + mergeTicks ≤ s.now) then s.inputEvent i.val (inputAct i.val) else s

/-! ### Stuck inputs (R504) -/

/-- The stuck limit of an input, where it has one. -/
def stuckTicks (i : Nat) : Option Nat :=
  match i with
  | 0 => some (100 * ticksPerMs)
  | 5 => some (10 * ticksPerS)
  | 6 => none
  | 7 => none
  | _ => some ticksPerS

/-- An input is declared stuck: WAKE_N and ALERT_N are masked, GSTOP_N is shown in STATUS. -/
def State.declareStuck (s : State) (i : Nat) : State :=
  let s := (s.setFlag pinInput_stuck i true).setFlag pinInput_masked i (i = 3 || i = 4)
  let s := if i = 0 then { s with pln := { s.pln with gstopStuck := true } } else s
  (s.raise (errorOf 0 0x0F 4 i)).raiseAlert

/-- INPUT_STUCK (R504). -/
def execInputStuck (i : Fin 8) (s : State) : Out :=
  .next <|
    let x := s.input i.val
    match stuckTicks i.val with
    | some n => if x.level && !s.flag pinInput_stuck i.val && x.since + n ≤ s.now then s.declareStuck i.val else s
    | none => s

/-! ### The last commit (R313) -/

/-- The last journal commit after PFAIL_N, without the check: it covers every migration whose codewords are programmed, and the others
are abandoned. -/
def State.lastCommit (s : State) : State :=
  if s.live && s.ftl.inService && s.pln.pfail && !s.pln.lastCommitDone then
    let s := s.makeCommit
    let left := s.tiers.moves.filter fun m => m.2.tier = 3
    let s := ((left.filterMap fun m => m.2.cmd).dedup).foldl (fun s id => s.failFetch id 0x31 0) s
    let s := left.foldl (fun s m => s.abandonMove m.1) s
    { s with pln := { s.pln with lastCommitDone := true } }
  else s

end Sys2Proof.Machine
end

