-- ==== Sys2Proof/Machine/Shaping.lean ====
section
/-! DEFINITION. Gate lists, credit buckets and queue sampling (R369 to R374). -/

set_option Elab.async false

namespace Sys2Proof.Machine

/-! ### Gate lists -/

/-- GATE_ENTRY_ADVANCE (R369). -/
def execGateEntryAdvance (port : Fin 8) (s : State) : Out :=
  .next <| s.whenLive fun s =>
    match mget s.shp.gates port.val with
    | some g =>
      match g.idxEnd with
      | some t => if t ≤ s.now then s.nextGate port.val g t else s
      | none => s
    | none => s

/-- The shadow list of a port: its entries in use. -/
def State.shadowGates (s : State) (q : Nat) : List (Nat × Nat) :=
  (List.range (s.fld shpGateCtrl_entries q + 1)).map fun e => (s.fld shpGateEntry_duration (256 * q + e), s.fld shpGateEntry_gates (256 * q + e))

/-- Whether the device refuses to arm a port's shadow list (R370). -/
def State.armRefused (s : State) (q : Nat) : Bool :=
  s.fld shpGateSwap_tick q < s.now + 4000 || (s.shadowGates q).any (fun e => e.1 = 0) ||
    (s.flag shpGateCtrl_bind q && !s.hasTable (s.fld shpGateCtrl_partition q))

/-- ARM: the shadow list is armed, or the refusal is counted. -/
def State.armGate (s : State) (q : Nat) : State :=
  if s.armRefused q then (s.setFlag shpGateCtrl_armed q false).bump shpGateStat_refused q 1 else s.setFlag shpGateCtrl_armed q true

/-- A write of SHP_GATE_CTRL: its fields, then CANCEL, then ARM. -/
def State.writeGateCtrl (s : State) (fn q : Nat) (l : Lane) (v : BitVec 64) : State :=
  let cancel := s.pulled fn l shpGateCtrl_cancel q v
  let arm := s.pulled fn l shpGateCtrl_arm q v
  let s := s.writeFields fn l .shpGateCtrl q v
  let s := if cancel then s.setFlag shpGateCtrl_armed q false else s
  if arm then s.armGate q else s

/-- GATE_ARM (R370). -/
def execGateArm (fn : Fn) (port : Fin 8) (lane : Lane) (v : BitVec 64) (s : State) : Out :=
  .next (s.whenKept .shpGateCtrl port.val fun s => s.writeGateCtrl (fnNum fn) port.val lane v)

/-- GATE_CANCEL (R370). -/
def execGateCancel (fn : Fn) (port : Fin 8) (lane : Lane) (v : BitVec 64) (s : State) : Out :=
  .next (s.whenKept .shpGateCtrl port.val fun s => s.writeGateCtrl (fnNum fn) port.val lane v)

/-- The tick at which a port's armed list takes over, once it has come: the swap tick, or for a bound list the first boundary at or
after it. -/
def State.takeoverAt (s : State) (q : Nat) : Option Tick :=
  let swap := s.fld shpGateSwap_tick q
  if !s.flag shpGateCtrl_armed q then none
  else if s.flag shpGateCtrl_bind q then
    let b := (s.part (s.fld shpGateCtrl_partition q)).lastBoundary
    if swap ≤ b then some b else none
  else if swap ≤ s.now then some swap else none

/-- GATE_TAKEOVER (R370). -/
def execGateTakeover (port : Fin 8) (s : State) : Out :=
  .next <| s.whenLive fun s =>
    let q := port.val
    match s.takeoverAt q with
    | some t =>
      let bind := if s.flag shpGateCtrl_bind q then some (s.fld shpGateCtrl_partition q) else none
      let s := s.restartGate q ⟨s.shadowGates q, s.fld shpGateCtrl_cycle q, bind, t, 0, none⟩ t
      ((s.setFlag shpGateCtrl_armed q false).setFlag shpGateCtrl_active q true).bump shpGateStat_swaps q 1
    | none => s

/-! ### Credit buckets (R372) -/

/-- A bucket's register instance and its place in `Shp.credits`. -/
def bucketReg : BucketId → Reg × Nat × Nat
  | .port q c => (.shpBucket, 8 * q.val + c.val, 8 * q.val + c.val)
  | .group g => (.shpGrpBucket, g.val, 64 + g.val)

/-- A bucket's level after one refill: rate and burst. -/
def refilled (level : Int) (rate burst : Nat) : Int := max level (min (level + rate) (256 * burst))

/-- Refills one bucket where it is enabled. -/
def State.refillOne (s : State) (k : Nat) (on : Bool) (rate burst : Nat) : State :=
  if on then { s with shp := { s.shp with credits := mset s.shp.credits k (refilled (mgetD s.shp.credits k 0) rate burst) } } else s

/-- Refills every bucket for some periods of 1,024 ticks. -/
def State.refillAll (s : State) (periods : Nat) : State :=
  let s := (List.range 64).foldl (fun s k =>
    s.refillOne k (s.flag shpBucket_enable k) (periods * s.fld shpBucket_rate k) (s.fld shpBucket_burst k)) s
  (List.range 17).foldl (fun s g =>
    s.refillOne (64 + g) (s.flag shpGrpBucket_enable g) (periods * s.fld shpGrpBucket_rate g) (s.fld shpGrpBucket_burst g)) s

/-- The periods of 1,024 ticks that have ended since the last refill. -/
def State.refillsDue (s : State) : Nat := s.now / 1024 - s.shp.refilledAt / 1024

/-- BUCKET_REFILL (R372): for each 1,024 ticks that have passed. -/
def execBucketRefill (s : State) : Out :=
  .next <| s.whenLive fun s =>
    if 0 < s.refillsDue then
      let t := s.refillAll s.refillsDue
      { t with shp := { t.shp with refilledAt := s.now } }
    else s

/-- A write of a bucket: enabling it fills it. -/
def State.writeBucket (s : State) (fn : Nat) (b : BucketId) (l : Lane) (v : BitVec 64) : State :=
  let on (s : State) : Bool := match b with
    | .port q c => s.flag shpBucket_enable (8 * q.val + c.val)
    | .group g => s.flag shpGrpBucket_enable g.val
  let burst (s : State) : Nat := match b with
    | .port q c => s.fld shpBucket_burst (8 * q.val + c.val)
    | .group g => s.fld shpGrpBucket_burst g.val
  let t := s.writeFields fn l (bucketReg b).1 (bucketReg b).2.1 v
  if !on s && on t then { t with shp := { t.shp with credits := mset t.shp.credits (bucketReg b).2.2 (256 * burst t) } } else t

/-- SHP_BUCKET_WRITE (R372). -/
def execShpBucketWrite (fn : Fn) (b : BucketId) (lane : Lane) (v : BitVec 64) (s : State) : Out :=
  .next (s.whenKept (bucketReg b).1 (bucketReg b).2.1 fun s => s.writeBucket (fnNum fn) b lane v)

/-! ### Queue sampling (R373, R374) -/

/-- Bytes 16 + 4c to 19 + 4c of a sample record: the frames' bytes without preamble and gap, and the head frame's age. -/
def State.sampleClass (s : State) (q c : Nat) : Nat :=
  let l := s.txqueue q c
  let bytes := (l.map fun x => s.wireBytes x.2 - 20).sum
  let age := match l with
    | x :: _ => (s.now + 2 ^ 32 - x.2.ts.toNat) % 2 ^ 32 / 64
    | [] => 0
  min (ceilDiv bytes 64) 65535 + 65536 * min age 65535

/-- A sample record. -/
def State.sampleRecord (s : State) (q : Nat) (phase : Bool) : List (BitVec 8) :=
  leBytes 8 s.now ++ leBytes 1 (q + if phase then 128 else 0) ++ leBytes 1 (s.fld shpGateStat_gates q) ++
    leBytes 2 (mgetD s.shp.sampleLost q 0) ++ leBytes 4 0 ++ ((List.range 8).flatMap fun c => leBytes 4 (s.sampleClass q c)) ++ leBytes 16 0

/-- Writes a port's record, or counts it as lost where the ring has no free entry. -/
def State.samplePort (s : State) (q : Nat) : State :=
  let depth := 2 ^ s.fld shpSampleCtrl_depthLog2 0
  let wr := s.shp.sampleWr
  if (wr + depth - s.fld shpSampleCtrl_head 0 % depth) % depth = depth - 1 then
    { s with shp := { s.shp with sampleLost := mset s.shp.sampleLost q (min 65535 (mgetD s.shp.sampleLost q 0 + 1)) } }
  else
    let r := s.sampleRecord q s.shp.samplePhase
    let s := s.emit (.sample wr s.shp.samplePhase r)
    let next := (wr + 1) % depth
    { s with shp := { s.shp with
        sampleWr := next, samplePhase := if next = 0 then !s.shp.samplePhase else s.shp.samplePhase, sampleLost := mdel s.shp.sampleLost q } }

/-- QUEUE_SAMPLE (R373): at a multiple of 4,000 ticks. -/
def execQueueSample (s : State) : Out :=
  .next <| s.whenLive fun s =>
    if s.flag shpSampleCtrl_enable 0 && s.now % 4000 = 0 && s.shp.sampledAt < s.now then
      let t := ((List.range 8).filter fun q => s.fld shpSampleCtrl_ports 0 / 2 ^ q % 2 = 1).foldl State.samplePort s
      { t with shp := { t.shp with sampledAt := s.now } }
    else s

end Sys2Proof.Machine
end

