-- ==== Sys2Proof/Machine/RegisterWrite.lean ====
section
/-! DEFINITION. Writes of BAR0: the registers whose write does more than change their fields, and every other one (R521 to R523, R528). -/

set_option Elab.async false

namespace Sys2Proof.Machine

/-! ### Registers with behaviour of their own -/

/-- The state after a meaning, or the present one where it gives none. -/
def State.via (s : State) (f : State → Out) : State :=
  match f s with
  | .next t => t
  | _ => s

/-- Whether partition `p` has no assigned page group and no open sequence (R232). -/
def State.partEmpty (s : State) (p : Nat) : Bool :=
  s.tiers.groups.all (fun g => g.1 / 2 ^ 32 ≠ p) && s.seqs.all fun q => q.2.part ≠ p

/-- Changes one enable of CMP_DRAM_XTS: a key pair is drawn at its setting and ends with its clearing; a change at the wrong time is
refused and counted. -/
def State.writeXtsBit (s : State) (p : Nat) (on : Bool) : State :=
  if s.xtsOn p = on then s
  else if !s.partEmpty p then s.bump cmpStat_xtsRefused 0 1
  else if on then
    let s := { s with sec := { s.sec with xtsDraw := mset s.sec.xtsDraw p s.freeCtr }, freeCtr := s.freeCtr + 1 }
    s.setFld cmpDramXts_enable 0 (s.fld cmpDramXts_enable 0 + 2 ^ p)
  else
    ({ s with sec := { s.sec with xtsDraw := mdel s.sec.xtsDraw p } }).setFld cmpDramXts_enable 0 (s.fld cmpDramXts_enable 0 - 2 ^ p)

/-- A write of CMP_DRAM_XTS (R232). -/
def State.writeXts (s : State) (fn : Nat) (l : Lane) (v : BitVec 64) : State :=
  match s.triggered fn l cmpDramXts_enable 0 v with
  | some w => (List.range 16).foldl (fun s p => s.writeXtsBit p (w / 2 ^ p % 2 = 1)) s
  | none => s

/-- CMP_DRAM_XTS_WRITE (R232). -/
def execCmpDramXtsWrite (fn : Fn) (lane : Lane) (v : BitVec 64) (s : State) : Out :=
  .next (s.whenKept .cmpDramXts 0 fun s => s.writeXts (fnNum fn) lane v)

/-- A write of SCH_TENANT (R253): one that would change VALID or PARTITION of a tenant with an open sequence leaves the register. -/
def State.writeTenant (s : State) (fn t : Nat) (l : Lane) (v : BitVec 64) : State :=
  let w := s.writeFields fn l .schTenant t v
  if s.reg .schTenant t ≠ w.reg .schTenant t && s.seqs.any fun q => q.2.tenant = t then s else w

/-- SCH_TENANT_WRITE (R253). -/
def execSchTenantWrite (fn : Fn) (t : BitVec 12) (lane : Lane) (v : BitVec 64) (s : State) : Out :=
  .next (s.whenKept .schTenant t.toNat fun s => s.writeTenant (fnNum fn) t.toNat lane v)

/-- A write of SCH_PART (R252): a BATCH_MAX below CAP lowers CAP with it. -/
def State.writePart (s : State) (fn p : Nat) (l : Lane) (v : BitVec 64) : State :=
  let s := s.writeFields fn l .schPart p v
  if s.fld schPart_batchMax p < s.fld schPart_cap p then s.setFld schPart_cap p (s.fld schPart_batchMax p) else s

/-- SCH_PART_WRITE (R252). -/
def execSchPartWrite (fn : Fn) (p : Fin 16) (lane : Lane) (v : BitVec 64) (s : State) : Out :=
  .next (s.whenKept .schPart p.val fun s => s.writePart (fnNum fn) p.val lane v)

/-- GLB_BAR4_CFG_WRITE (R528): the mapping holds for every request received after it. -/
def execGlbBar4CfgWrite (fn : Fn) (lane : Lane) (v : BitVec 64) (s : State) : Out :=
  .next (s.whenKept .glbBar4Cfg 0 fun s => s.writeFields (fnNum fn) lane .glbBar4Cfg 0 v)

/-! ### Every other register -/

/-- The bucket of a register instance. -/
def bucketOf (r : Reg) (i : Nat) : BucketId :=
  match r with
  | .shpGrpBucket => .group (Fin.ofNat 17 i)
  | _ => .port (Fin.ofNat 8 (i / 8)) (Fin.ofNat 8 (i % 8))

/-- A ring whose ENABLE is set is written from its head on. -/
def State.openRing (old s : State) (r : Reg) (i : Nat) : State :=
  match r with
  | .asfNotifyCtrl =>
    if !old.flag asfNotifyCtrl_enable i && s.flag asfNotifyCtrl_enable i then
      { s with asf := { s.asf with ringWr := mset s.asf.ringWr i (s.fld asfNotifyCtrl_head i % 2 ^ s.fld asfNotifyCtrl_depthLog2 i, true) } }
    else s
  | .shpSampleCtrl =>
    if !old.flag shpSampleCtrl_enable 0 && s.flag shpSampleCtrl_enable 0 then
      { s with shp := { s.shp with sampleWr := s.fld shpSampleCtrl_head 0 % 2 ^ s.fld shpSampleCtrl_depthLog2 0, samplePhase := true } }
    else s
  | _ => s

/-- What a changed register brings with it: a chunk size that a partition without privilege may not have (R192), the lending reserve
(R284), a partner to ask for a slice (R380), another manager (R384), the cap of the board (R441), the fallback point (R445), C5 without
the crystal (R498), the watermarks of tier 1 (R294), and a ring that goes into service. -/
def State.afterWrite (old s : State) (r : Reg) (i : Nat) : State :=
  if s.reg r i = old.reg r i then s
  else
    match r with
    | .prmPart => if s.flag prmPart_privileged i then s else s.setFld prmPart_chunk i (old.fld prmPart_chunk i)
    | .tirLend => s.relayTier1
    | .tirT1Wm => s.noteTiers
    | .resPartner => s.askSlices
    | .resMgr =>
      let m := s.fld resMgr_manager 0
      let s := (s.setFld resMgr_acting 0 m).setFlag resStat_managing 0 (m ≠ 0xFFFF && m = s.ownNode)
      { s with res := { s.res with reship := true } }
    | .pwrCap => s.noteCap
    | .pwrLimitCfg => if s.pwr.limitOn then s.planPoints else s
    | .pwrDevCfg => if s.flag plnBoot_xtalFault 0 then s.setFlag pwrDevCfg_c5En 0 false else s
    | _ => State.openRing old s r i

/-- A function's write of a register instance. -/
def State.writeReg (s : State) (fn : Fn) (l : Lane) (r : Reg) (i : Nat) (v : BitVec 64) : State :=
  match r with
  | .cmdAdmqCtrl => s.writeAdmq (fnNum fn) i l v
  | .genChmode => s.via (execGenChmodeWrite fn (Fin.ofNat 64 i) l v)
  | .genDraftCfg => s.writeDraftCfg (fnNum fn) l v
  | .cmpDramXts => s.writeXts (fnNum fn) l v
  | .schTenant => s.writeTenant (fnNum fn) i l v
  | .schPart => s.writePart (fnNum fn) i l v
  | .asfRwinImm => s.windowImm (i / 16) (i % 16) l v
  | .asfOwnCmd => s.via (execAsfOwnCmd fn l v)
  | .tmbAdj => s.via (execTmbAdj fn l v)
  | .shpGateCtrl => s.writeGateCtrl (fnNum fn) i l v
  | .shpBucket => s.writeBucket (fnNum fn) (bucketOf .shpBucket i) l v
  | .shpGrpBucket => s.writeBucket (fnNum fn) (bucketOf .shpGrpBucket i) l v
  | .glbErrlogCtrl => s.writeErrlogCtrl (fnNum fn) l v
  | .secRecovery => s.via (execSecRecoveryGo fn l v)
  | .secFuseProg => s.via (execSecFuseProgWrite fn (Fin.ofNat 16 i) l v)
  | .dbgGstop => s.via (execDbgGstopAssert fn l v)
  | .dbgHalt => s.via (execDbgHaltResume fn (Fin.ofNat 16 i) l v)
  | _ => State.afterWrite s (s.writeFields (fnNum fn) l r i v) r i

/-- The bytes of a function's MSI-X table: 16 for each vector (R520). -/
def msixBytes (fn : Nat) : Nat := if fn = 0 then 32768 else 1024

/-- A write of a function's own MSI-X table. -/
def State.writeMsix (s : State) (fn o : Nat) (l : Lane) (v : BitVec 64) : State :=
  if msixBytes fn ≤ o then s
  else
    let k := fn * 65536 + o / 8
    let old := mgetD s.msix k 0
    let new : BitVec 64 := match l with
      | .full => v
      | .low => (old &&& 0xFFFFFFFF00000000) ||| (v &&& 0xFFFFFFFF)
      | .high => (old &&& 0xFFFFFFFF) ||| (v <<< 32)
    { s with msix := if new = 0 then mdel s.msix k else mset s.msix k new }

/-- REGISTER_WRITE (R522): a refused access is counted, and an offset that no chapter defines ignores it. -/
def execRegisterWrite (fn : Fn) (off : BitVec 25) (size : Nat) (v : BitVec 64) (s : State) : Out :=
  .next <|
    let o := off.toNat
    match laneOf o size with
    | none => if s.hubRuns then s.badAccess else s
    | some l =>
      if 0x8000 ≤ o && o < 0x10000 then (if s.hubRuns then s.writeMsix (fnNum fn) (o - 0x8000) l v else s)
      else
        match findReg (fnNum fn) (o / 8 * 8) with
        | some x =>
          if !sees s (fnNum fn) x.1 x.2 then s
          else if x.1 = .dbgGstop && s.pln.stopped then s.writeReg fn l x.1 x.2 v
          else s.whenKept x.1 x.2 fun s => s.writeReg fn l x.1 x.2 v
        | none => s

end Sys2Proof.Machine
end

