-- ==== Sys2Proof/Machine/Smbus.lean ====
section
/-! DEFINITION. The SMBus target of the board management port (R512 to R514). It answers in every device state, C6 among them. -/

set_option Elab.async false

namespace Sys2Proof.Machine

/-- A transfer reaches the target while VDD_AON powers it. -/
def State.smbusTo (s : State) (f : State → State) : State := if s.pln.powered then f s else s

/-- A write: one with a bad PEC, or with a value outside its range, changes nothing and its last byte is NACKed. -/
def State.smbusWrite (s : State) (ok : Bool) (f : State → State) : State := s.smbusTo fun s => if ok then f s else s.emit .nack

/-! ### Reads -/

/-- The device state: 0 C0, 1 C3, 2 C5, 3 C6. -/
def State.deviceState (s : State) : Nat := if s.pln.c6 then 3 else s.fld pwrDevStat_state 0

/-- The STATUS word. -/
def State.statusWord (s : State) : Nat :=
  let b (x : Bool) (i : Nat) : Nat := if x then 2 ^ i else 0
  s.stage + s.deviceState * 2 ^ 4 + s.lifecycle * 2 ^ 7 + b s.pln.gstopStuck 10 + b s.pln.thermalTrip 11 + b s.pln.railFault 12 +
    b (s.flag plnBoot_recoveryArmed 0) 13 + b ((List.range 8).any fun i => s.flag pinInput_stuck i) 14 + b (!s.res.unread.isEmpty) 15

/-- STATUS (R513): the read releases SMB_ALERT_N. -/
def execStatus (s : State) : Out :=
  .next <| s.smbusTo fun s =>
    let w := s.statusWord
    let s := s.emit (.smbus (leBytes 2 w))
    if s.pln.alert then ({ s with pln := { s.pln with alert := false } }).emit (.pin 8 true) else s

/-- TEMPS. -/
def execTemps (s : State) : Out :=
  .next <| s.smbusTo fun s => s.emit (.smbus
    (leBytes 1 (s.fld pwrTherm_logicMax 0) ++ leBytes 1 (s.fld pwrTherm_dramMax 0) ++ leBytes 1 (s.fld pwrTherm_hotSensor 0) ++ [0]))

/-- POWER: the last M, the effective cap, and the energy in J. -/
def execPower (s : State) : Out :=
  .next <| s.smbusTo fun s => s.emit (.smbus
    (leBytes 2 (s.fld pwrCtrlStat_measuredW 0) ++ leBytes 2 (s.fld pwrCap_effective 0) ++ leBytes 4 (s.fld pwrEnergyTotal_mj 0 / 1000)))

/-- INPUTS: LEVEL, MASKED and STUCK of each input. -/
def execInputs (s : State) : Out :=
  .next <| s.smbusTo fun s => s.emit (.smbus ((List.range 8).map fun i =>
    BitVec.ofNat 8 (s.fld pinInput_level i + 2 * s.fld pinInput_masked i + 4 * s.fld pinInput_stuck i)))

/-- The history slot that holds the plinth record of an ID. -/
def State.recordOf (s : State) (id : Nat) : Option Nat := (List.range 16).find? fun j => (s.reg .resPlinthRec (8 * j + 7)).toNat = id

/-- The 64 bytes of a plinth record. -/
def State.recordBytes (s : State) (j : Nat) : List (BitVec 8) := (List.range 8).flatMap fun w => leBytes 8 (s.reg .resPlinthRec (8 * j + w)).toNat

/-- RECORD: the oldest unread plinth record; one that the history no longer holds is passed over. -/
def execRecord (s : State) : Out :=
  .next <| s.smbusTo fun s =>
    match s.res.unread.dropWhile fun id => (s.recordOf id).isNone with
    | id :: rest =>
      match s.recordOf id with
      | some j => ({ s with res := { s.res with unread := rest } }).emit (.smbus (s.recordBytes j))
      | none => s.emit (.smbus (leBytes 64 0))
    | [] => ({ s with res := { s.res with unread := [] } }).emit (.smbus (leBytes 64 0))

/-! ### Writes -/

/-- BOARD_CAP: 0, or 100 to 1,800 W. -/
def execBoardCap (v : BitVec 16) (pecOk : Bool) (s : State) : Out :=
  .next <| s.smbusWrite (pecOk && (v = 0 || (100 ≤ v.toNat && v.toNat ≤ 1800))) fun s =>
    let s := s.setFld pwrCap_board 0 v.toNat
    if s.live then s.noteCap else s

/-- RACK_BUDGET: three bytes, little-endian. -/
def execRackBudget (v : BitVec 24) (pecOk : Bool) (s : State) : Out :=
  .next <| s.smbusWrite (pecOk && pwrRack_budget.accepts v.toNat) fun s => s.setFld pwrRack_budget 0 v.toNat

/-- RECOVERY: the next start-up enters host-stream recovery, or not. -/
def execRecovery (v : BitVec 8) (pecOk : Bool) (s : State) : Out :=
  .next <| s.smbusWrite (pecOk && v.toNat ≤ 1) fun s =>
    let s := s.setFlag plnBoot_recoveryArmed 0 (v = 1)
    if v = 1 then s.raiseAlert else s

/-- POWER_ON: the rail sequence from C6, also after a trip, whose pin it releases (R501, R506). -/
def execPowerOn (v : BitVec 8) (pecOk : Bool) (s : State) : Out :=
  .next <| s.smbusWrite (pecOk && v = 1) fun s =>
    if !s.pln.c6 || s.pln.testEn then s
    else
      let trip := s.pln.thermalTrip
      let s := { s with pln := { s.pln with thermalTrip := false, railFault := false, stayOff := false, resetAt := s.now } }
      let s := (if trip then s.emit (.pin 6 true) else s).setFld plnBoot_lastReset 0 4
      s.beginRails

/-- POWER_OFF (R512): every partition stops before the rails go. -/
def execPowerOff (v : BitVec 8) (pecOk : Bool) (s : State) : Out :=
  .next <| s.smbusWrite (pecOk && v = 1) fun s => if s.pln.c6 then s else s.stopPartitions.toC6 s.stage

/-- STAY_OFF: holds the device in C6 before its rail sequence. -/
def execStayOff (v : BitVec 8) (pecOk : Bool) (s : State) : Out :=
  .next <| s.smbusWrite (pecOk && v.toNat ≤ 1) fun s =>
    let s := { s with pln := { s.pln with stayOff := v = 1 } }
    if v = 1 && s.stage = 0 then ({ s with pln := { s.pln with c6 := true } }).setFld plnBoot_stage 0 9
    else if v = 0 && s.stage = 9 && s.now < s.pln.aonAt + 1000 * ticksPerMs then
      ({ s with pln := { s.pln with c6 := false } }).setFld plnBoot_stage 0 0
    else s

/-- SET_ADDR: 0x08 to 0x77. -/
def execSetAddr (v : BitVec 8) (pecOk : Bool) (s : State) : Out :=
  .next <| s.smbusWrite (pecOk && 0x08 ≤ v.toNat && v.toNat ≤ 0x77) fun s => { s with pln := { s.pln with smbAddr := v.toNat } }

/-- The Alert Response Address: the target answers with its address while it asserts SMB_ALERT_N. -/
def execAlertResponseAddress (s : State) : Out :=
  .next <| s.smbusTo fun s => if s.pln.alert then s.emit (.smbus [BitVec.ofNat 8 (s.pln.smbAddr * 2)]) else s.emit .nack

end Sys2Proof.Machine
end

