-- ==== Sys2Proof/Machine/Spdm.lean ====
section
/-! DEFINITION. The SPDM responder on the management function's DOE mailbox: measurements, node keys and IDE keys (R465 to R470). The
message codes are those of the SPDM specification, which the manual names (PRESUMED, log 107). -/

set_option Elab.async false

namespace Sys2Proof.Machine

/-! ### Responses -/

/-- The error codes that the responder answers with. -/
def spdmInvalid : Nat := 0x01
def spdmUnexpected : Nat := 0x04
def spdmUnspecified : Nat := 0x05
def spdmDecrypt : Nat := 0x06
def spdmUnsupported : Nat := 0x07
def spdmLarge : Nat := 0x0F
def spdmNotReady : Nat := 0x42

/-- Answers with an error. -/
def State.spdmError (s : State) (e : Nat) : State := s.emit (.spdm 0x7F [BitVec.ofNat 8 e])

/-- Changes the responder's progress. -/
def State.modSpdm (s : State) (f : Spdm → Spdm) : State := { s with sec := { s.sec with spdm := f s.sec.spdm } }

/-- Answers with a response, which enters the transcript; one above the transfer size is kept for CHUNK_GET. -/
def State.spdmAnswer (s : State) (code : Nat) (content : List (BitVec 8)) : State :=
  let s := s.modSpdm fun x => { x with transcript := Config.sha384 (digestBytes x.transcript ++ BitVec.ofNat 8 code :: content) }
  if Config.spdmTransfer < content.length then (s.modSpdm fun x => { x with large := BitVec.ofNat 8 code :: content }).spdmError spdmLarge
  else s.emit (.spdm code content)

/-- A response signed with the Alias key over the transcript and the content. -/
def State.spdmSigned (s : State) (code : Nat) (content : List (BitVec 8)) : State :=
  match s.sec.identity with
  | some x => s.spdmAnswer code (content ++ leBytes 512 (Config.aliasSign x.aliasSeed (digestBytes s.sec.spdm.transcript ++ content)).toNat)
  | none => s.spdmError spdmNotReady

/-- Whether the mailbox answers. -/
def State.mailbox (s : State) (f : State → State) : State := if s.hubRuns then f s else s

/-- A request after NEGOTIATE_ALGORITHMS: in RETIRED none is answered otherwise than by Unspecified, and none comes before its turn. -/
def State.afterNegotiate (s : State) (phase : Nat) (f : State → State) : State :=
  s.mailbox fun s =>
    if s.lifecycle = 4 then s.spdmError spdmUnspecified
    else if s.sec.spdm.phase < phase then s.spdmError spdmUnexpected
    else f s

/-- A request that needs the Alias key. -/
def State.withAlias (s : State) (f : State → State) : State := if s.sec.identity.isSome then f s else s.spdmError spdmNotReady

/-! ### Discovery and algorithms (R465) -/

/-- GET_VERSION: versions 1.2 and 1.3. -/
def execGetVersion (s : State) : Out :=
  .next <| s.mailbox fun s => (s.modSpdm fun _ => ⟨1, 0x13, 0, []⟩).spdmAnswer 0x04 [0, 2, 0, 0x12, 0, 0x13]

/-- GET_CAPABILITIES. -/
def execGetCapabilities (s : State) : Out :=
  .next <| s.mailbox fun s =>
    if s.sec.spdm.phase < 1 then s.spdmError spdmUnexpected
    else (s.modSpdm fun x => { x with phase := 2 }).spdmAnswer 0x61 []

/-- NEGOTIATE_ALGORITHMS: the one suite of R465. -/
def execNegotiateAlgorithms (offer : SpdmOffer) (s : State) : Out :=
  .next <| s.mailbox fun s =>
    if s.sec.spdm.phase < 2 then s.spdmError spdmUnexpected
    else if offer.rsassa4096 && offer.sha384 && offer.secp384r1 && offer.aes256gcm then
      (s.modSpdm fun x => { x with phase := 3 }).spdmAnswer 0x63 []
    else s.spdmError spdmInvalid

/-! ### Certificates -/

/-- The certificate chain of slot 0, once the identity is derived (R464). -/
def State.chain (s : State) : Option (List (BitVec 8)) := s.sec.identity.map Identity.chain

/-- GET_DIGESTS: slot 0. -/
def execGetDigests (s : State) : Out :=
  .next <| s.afterNegotiate 3 fun s =>
    match s.chain with
    | some c => s.spdmAnswer 0x01 (1 :: digestBytes (Config.sha384 c))
    | none => s.spdmError spdmNotReady

/-- GET_CERTIFICATE: a portion of the chain of slot 0, with its length and what remains. -/
def execGetCertificate (slot : BitVec 8) (off len : BitVec 16) (s : State) : Out :=
  .next <| s.afterNegotiate 3 fun s =>
    match s.chain with
    | some c =>
      if slot ≠ 0 || c.length ≤ off.toNat then s.spdmError spdmInvalid
      else
        let part := (c.drop off.toNat).take len.toNat
        s.spdmAnswer 0x02 (leBytes 2 part.length ++ leBytes 2 (c.length - off.toNat - part.length) ++ part)
    | none => s.spdmError spdmNotReady

/-- CHALLENGE: signed with the Alias key, with a nonce of the device's own. -/
def execChallenge (nonce : BitVec 256) (s : State) : Out :=
  .next <| s.afterNegotiate 3 fun s => s.withAlias fun s =>
    let own := leBytes 32 ((Config.entropy s.freeCtr).toNat % 2 ^ 256)
    let digest := match s.chain with
      | some c => digestBytes (Config.sha384 c)
      | none => []
    ({ s with freeCtr := s.freeCtr + 1 }).spdmSigned 0x03 (digest ++ own ++ leBytes 32 nonce.toNat)

/-! ### Measurements (R466) -/

/-- The fuse shadows other than UDS, with the words blown through SEC_FUSE_PROG. -/
def Sec.shadows (x : Sec) : List Nat :=
  [x.fused, bit x.fieldLock, bit x.bootSource, bit x.ownerKey, bit x.secondKey, x.revoked, x.floor] ++
    x.fuseWords.flatMap fun w => [w.1, w.2.toNat]

/-- A measurement block's content. -/
def State.measurement (s : State) (i : Nat) : List (BitVec 8) :=
  match i with
  | 1 => digestBytes Config.bootRomDigest
  | 2 => match s.sec.image with
    | some x => digestBytes x.1
    | none => leBytes 48 0
  | 3 => leBytes 1 (s.fld secBoot_svn 0) ++ leBytes 1 (s.fld secBoot_svnFloor 0)
  | 4 => leBytes 1 s.lifecycle ++ leBytes 1 (bit s.sec.fieldLock) ++
      if s.lifecycle = 3 then leBytes 1 (s.fld secDebug_features 0) ++ leBytes 1 (s.fld secDebug_partition 0) else []
  | _ => digestBytes (Config.fuseDigest s.sec.shadows)

/-- The blocks that an index asks for: 0 their number, 0xFF all of them. -/
def State.measured (s : State) (i : Nat) : List (BitVec 8) :=
  if i = 0 then [5]
  else if i = 0xFF then [1, 2, 3, 4, 5].flatMap fun k => BitVec.ofNat 8 k :: s.measurement k
  else BitVec.ofNat 8 i :: s.measurement i

/-- GET_MEASUREMENTS. -/
def execGetMeasurements (index : BitVec 8) (signed : Bool) (s : State) : Out :=
  .next <| s.afterNegotiate 3 fun s =>
    if 5 < index.toNat && index ≠ 0xFF then s.spdmError spdmInvalid
    else if signed then s.withAlias fun s => s.spdmSigned 0x60 (s.measured index.toNat)
    else s.spdmAnswer 0x60 (s.measured index.toNat)

/-! ### Sessions -/

/-- KEY_EXCHANGE: the device's own share comes from its entropy source. -/
def execKeyExchange (key : List (BitVec 8)) (s : State) : Out :=
  .next <| s.afterNegotiate 3 fun s => s.withAlias fun s =>
    let own := digestBytes (Config.entropy s.freeCtr) ++ digestBytes (Config.entropy (s.freeCtr + 1))
    (({ s with freeCtr := s.freeCtr + 2 }).modSpdm fun x => { x with phase := 4 }).spdmSigned 0x64 (own ++ key)

/-- FINISH: the session begins when the requester's verify data agrees. -/
def execFinish (verifyOk : Bool) (s : State) : Out :=
  .next <| s.afterNegotiate 4 fun s =>
    if s.sec.spdm.phase ≠ 4 then s.spdmError spdmUnexpected
    else if verifyOk then (s.modSpdm fun x => { x with phase := 5 }).spdmAnswer 0x65 []
    else (s.modSpdm fun x => { x with phase := 3 }).spdmError spdmDecrypt

/-- HEARTBEAT of a session. -/
def execSpdmHeartbeat (s : State) : Out := .next <| s.afterNegotiate 5 fun s => s.spdmAnswer 0x68 []

/-- KEY_UPDATE of a session: operations 1 to 3. -/
def execKeyUpdate (op : BitVec 8) (s : State) : Out :=
  .next <| s.afterNegotiate 5 fun s =>
    if 1 ≤ op.toNat && op.toNat ≤ 3 then s.spdmAnswer 0x69 [op] else s.spdmError spdmInvalid

/-- END_SESSION. -/
def execEndSession (s : State) : Out :=
  .next <| s.afterNegotiate 5 fun s => (s.spdmAnswer 0x6C []).modSpdm fun x => { x with phase := 3 }

/-- CHUNK_GET: a piece of the response that was too large. -/
def execChunkGet (chunk : BitVec 16) (s : State) : Out :=
  .next <| s.afterNegotiate 3 fun s =>
    let n := max 1 Config.spdmTransfer
    let l := s.sec.spdm.large
    if l.length ≤ chunk.toNat * n then s.spdmError spdmInvalid
    else
      let s := s.emit (.spdm 0x06 ((l.drop (chunk.toNat * n)).take n))
      if l.length ≤ (chunk.toNat + 1) * n then s.modSpdm fun x => { x with large := [] } else s

/-- SPDM_UNSUPPORTED_REQUEST (R465). -/
def execSpdmUnsupportedRequest (code : BitVec 8) (s : State) : Out :=
  .next <| s.mailbox fun s => s.emit (.spdm 0x7F [BitVec.ofNat 8 spdmUnsupported, code])

/-! ### Node keys (R469) -/

/-- Two generations of a node's key, the newest first. -/
def keepKeys (g : Nat) (key : BitVec 256) (l : List (Nat × BitVec 256)) : List (Nat × BitVec 256) :=
  ((g, key) :: l.filter fun x => x.1 ≠ g).take 2

/-- Installs a node key: every connection derived from a generation that is replaced enters DEAD. -/
def State.installKey (s : State) (node g : Nat) (key : BitVec 256) : State :=
  let old := mgetD s.asf.nodeKeys node []
  let new := keepKeys g key old
  let gone := (old.filter fun x => !new.contains x).map Prod.fst
  let s := { s with asf := { s.asf with nodeKeys := mset s.asf.nodeKeys node new, groupTx := mdel s.asf.groupTx node } }
  (s.asf.conns.filter fun c => c.2.node = node && gone.contains c.2.keyGen).foldl (fun s c => s.killConn c.1 1) s

/-- SET_NODE_KEY (R469): only inside a secured session. -/
def execSetNodeKey (inSession : Bool) (opcode : BitVec 8) (node : BitVec 16) (gen : BitVec 8) (key : BitVec 256) (s : State) : Out :=
  .next <| s.mailbox fun s =>
    if s.lifecycle = 4 then s.spdmError spdmUnspecified
    else if !inSession || s.sec.spdm.phase ≠ 5 then (s.raise (errorOf 0 0x0E 8 0)).spdmError spdmUnspecified
    else if opcode ≠ 1 then s.spdmError spdmUnsupported
    else (s.installKey node.toNat gen.toNat key).spdmAnswer 0x7E []

/-! ### IDE keys (R467) -/

/-- IDE_KM_REQUEST (R467): keys of the link stream (0) or of a selective stream (1 to 8) are programmed, put in use, or stopped. -/
def execIdeKmRequest (inSession : Bool) (stream : Fin 9) (action : IdeAction) (s : State) : Out :=
  .next <| s.mailbox fun s =>
    if s.lifecycle = 4 then s.spdmError spdmUnspecified
    else if !inSession || s.sec.spdm.phase ≠ 5 then s.spdmError spdmUnexpected
    else
      match action with
      | .program => ({ s with sec := { s.sec with ide := mset s.sec.ide stream.val 1 } }).spdmAnswer 0x7E []
      | .go =>
        if mhas s.sec.ide stream.val then ({ s with sec := { s.sec with ide := mset s.sec.ide stream.val 2 } }).spdmAnswer 0x7E []
        else s.spdmError spdmInvalid
      | .stop => ({ s with sec := { s.sec with ide := mdel s.sec.ide stream.val } }).spdmAnswer 0x7E []

end Sys2Proof.Machine
end

