-- ==== Sys2Proof/Machine/Tiles.lean ====
section
/-! DEFINITION. The matrix tiles: panel fills, check-bit errors, replay and self-test (R184 to R187, R198 to R208, R225). -/

set_option Elab.async false

namespace Sys2Proof.Machine

/-! ### Panels (R184, R186, R225) -/

/-- The stored block that a place of a panel names. -/
def State.blockAt (s : State) (b : BlockRead) : Option (WeightSet × Stored) :=
  match mget s.weights b.model.toNat with
  | some w => (mget w.blocks (blockPlace b.layer.toNat b.matrix.toNat b.index.toNat)).map fun x => (w, x)
  | none => none

/-- The bytes that a fill reads of a block: the header and the payload sectors. -/
def Stored.sent (b : Stored) : List (BitVec 8) :=
  let bs := leBytes 8 b.word0.toNat ++ leBytes 8 b.word1.toNat ++ leBytes 8 b.word2.toNat ++ leBytes 8 b.word3.toNat ++ b.payload.take b.coded
  bs ++ List.replicate (32 * ceilDiv bs.length 32 - bs.length) 0

/-- A sector of a block as the memory controller reads it, with changed symbols. -/
def Stored.sector (b : Stored) (u : Upset) : SectorRead :=
  let d := (b.sent.drop (32 * u.sector.toNat)).take 32
  decodeUpset u (d ++ sectorCheck d)

/-- A block as the fill reads it: every sector of it decoded. None where one was uncorrectable or poisoned (R212, R224 step 1). -/
def Stored.filled (b : Stored) (ups : List Upset) : Option Stored :=
  let ups := ups.filter fun u => 32 * u.sector.toNat < b.sent.length
  if ups.isEmpty then some b
  else
    (ups.foldl (fun (a : Option (List (BitVec 8))) u => a.bind fun bs => match b.sector u with
      | .clean d => some (bs.take (32 * u.sector.toNat) ++ d ++ bs.drop (32 * u.sector.toNat + 32))
      | .corrected d _ => some (bs.take (32 * u.sector.toNat) ++ d ++ bs.drop (32 * u.sector.toNat + 32))
      | _ => none) (some b.sent)).map storedOf

/-- The sectors of a panel that the memory controller corrects, each by its block's place. -/
def State.panelCorrected (s : State) (bs : List BlockRead) : List Nat :=
  bs.flatMap fun b => match s.blockAt b with
    | some (_, x) => (b.upsets.filter fun u => 32 * u.sector.toNat < x.sent.length && match x.sector u with
        | .corrected _ _ => true
        | _ => false).map fun _ => blockPlace b.layer.toNat b.matrix.toNat b.index.toNat
    | none => []

/-- The first block of a panel that the separator finds in error: the read, the block and the code. -/
def State.panelError (s : State) : List BlockRead → Option (BlockRead × Stored × Nat)
  | [] => none
  | b :: bs =>
    match s.blockAt b with
    | some (w, x) =>
      let y := x.filled b.upsets
      match separate (y.getD x) y.isSome (mgetD w.tables (b.layer.toNat * 256 + b.matrix.toNat) []) w.tag with
      | .ok _ => State.panelError s bs
      | .error e => some (b, y.getD x, e)
    | none => State.panelError s bs

/-- The bytes that a panel takes in its half: the header and the payload sectors of each block (R214). -/
def State.panelBytes (s : State) (bs : List BlockRead) : Nat :=
  (bs.map fun b => match s.blockAt b with
    | some x => 32 + 32 * ceilDiv x.2.coded 32
    | none => 0).sum

/-- Whether numbers rise strictly. -/
def rising : List Nat → Bool
  | a :: b :: l => a < b && rising (b :: l)
  | _ => true

/-- Whether blocks are the run that one tile consumes of one kernel: loaded blocks of one layer of one set, in ascending order (R184;
DESIGN CHOICE, log 153). -/
def State.isPanel (s : State) (bs : List BlockRead) : Bool :=
  bs.all (fun b => (s.blockAt b).isSome && some (b.model, b.layer) = bs.head?.map fun x => (x.model, x.layer)) &&
    rising (bs.map fun b => b.matrix.toNat * 2 ^ 32 + b.index.toNat)

/-- The entry of a partition's table that a layer's tile kernels belong to. -/
def State.tileEntry (s : State) (p model layer : Nat) : Option Entry :=
  match (s.part p).active with
  | some t => t.entries.find? fun e => e.engines % 2 = 1 && e.weightSet = model && e.layer = layer
  | none => none

/-- Poisons the output of the kernels of a layer on the tiles. -/
def State.poisonTiles (s : State) (p model layer : Nat) : State :=
  match s.tileEntry p model layer with
  | some e => s.poisonWork p e
  | none => s

/-- The separator's errors (R225): a poisoned block poisons the kernel's output, and firmware re-reads the block; a block with
good check bits in error resets the partition, and firmware re-reads the layer and runs the churn pass again. -/
def State.separatorError (s : State) (p tile : Nat) (b : BlockRead) (x : Stored) (code : Nat) : State :=
  if code = 1 then
    let s := s.raise { errorOfPart 1 4 1 b.index.toNat p with info0 := x.word1, info1 := BitVec.ofNat 64 (x.table + tile * 65536) }
    (s.poisonTiles p b.model.toNat b.layer.toNat).rereadBlock b.model.toNat (blockPlace b.layer.toNat b.matrix.toNat b.index.toNat)
  else (s.blockError p code tile b.index.toNat x).rereadLayer b.model.toNat b.layer.toNat

/-- Whether a half of a tile may be filled: no kernel reads it, but for one that reruns behind a check-bit error (R184, R187). -/
def State.fillable (s : State) (t half : Nat) : Bool := mget s.prm.inUse t ≠ some half || s.prm.rerun.contains t

/-- PANEL_FILL_COMPLETE (R184): a half holds only whole blocks, 768 KiB at most. -/
def execPanelFillComplete (p : Fin 16) (tile : BitVec 8) (half : Bool) (panel : List BlockRead) (s : State) : Out :=
  .next <| s.whenLive fun s =>
    let t := tile.toNat
    let h := if half then 1 else 0
    if !(s.tilesOf p.val).contains t || s.prm.quarantined.contains t || s.flag schPart_resetting p.val || 786432 < s.panelBytes panel ||
        !s.isPanel panel || !s.fillable t h then s
    else
      let s := (s.panelCorrected panel).foldl (fun s k => s.raise (errorOf 0 1 1 k)) s
      match s.panelError panel with
      | some x => s.separatorError p.val t x.1 x.2.1 x.2.2
      | none =>
        let blocks : List (Nat × Nat × Nat × Nat) := panel.map fun b => (b.model.toNat, b.layer.toNat, b.matrix.toNat, b.index.toNat)
        { s with prm := { s.prm with panels := mset s.prm.panels (2 * t + h) blocks } }

/-! ### Check-bit errors (R187, R198) -/

/-- The kernel of a partition that runs on a tile. -/
def State.runningKernel (s : State) (p t : Nat) : Option Entry :=
  (s.part p).runs.findSome? fun r => match r.2, s.entry p r.1 with
    | .running _, some e => if (s.entryTiles p e).contains t then some e else none
    | _, _ => none

/-- The identifier of an entry's kernel (R239): the kernel and the layer. -/
def Entry.id (e : Entry) : Nat := e.kernel * 256 + e.layer

/-- Marks a tile for a self-test with every pattern in its next IDLE slot. -/
def State.oweTile (s : State) (t : Nat) : State :=
  { s with prm := { s.prm with mustTest := if s.prm.mustTest.contains t then s.prm.mustTest else s.prm.mustTest ++ [t] } }

/-- A second uncorrectable error in one kernel: its output is poisoned, and the tile owes a self-test (R187). -/
def State.sramPoison (s : State) (p t : Nat) : State :=
  let s := match s.runningKernel p t with
    | some e => s.poisonWork p e
    | none => s
  (s.raise (errorOfPart 1 3 2 t p)).oweTile t

/-- An uncorrectable error: the panel is refetched, the same run of blocks, and the kernel reruns, once. -/
def State.sramError (s : State) (p t : Nat) : State :=
  if s.prm.rerun.contains t then s.sramPoison p t
  else { s with prm := { s.prm with rerun := s.prm.rerun ++ [t] } }

/-- Whether an uncorrectable error in a tile is within 1,000 cycles of its last one: cycles of the partition, or 1,000 of its periods where the
last one met another partition's work (R198; DESIGN CHOICE, log 155). -/
def State.recurs (s : State) (p t : Nat) : Bool :=
  match mget s.prm.errCycle t with
  | some (p', step, tick) =>
    if p' = p then s.fld schStep_count p ≤ step + 1000
    else match (s.part p).active with
      | some x => s.now ≤ tick + 1000 * s.stretched p x.period
      | none => false
  | none => false

/-- Whether a tile does a partition's work: it is one of its groups' tiles, or no partition's, as a tile that replays its kernel is. -/
def State.worksFor (s : State) (p t : Nat) : Bool :=
  t < 200 && !s.prm.quarantined.contains t && match s.tileOwner t with
    | some o => o = p
    | none => true

/-- TILE_SRAM_ERROR (R187): an uncorrectable error that recurs in a tile within 1,000 cycles quarantines it (R198). An error of the
accumulator is treated as one of the operand buffer (log 63). -/
def execTileSramError (p : Fin 16) (tile : BitVec 8) (correctable accumulator : Bool) (temp : BitVec 8) (s : State) : Out :=
  .next <| s.whenLive fun s =>
    let t := tile.toNat
    if !s.worksFor p.val t then s
    else if correctable then (s.bump prmStatus_sramCorrected 0 1).raise (errorOfPart 0 3 1 t p.val)
    else
      let again := s.recurs p.val t
      let kernel := match s.runningKernel p.val t with
        | some e => e.id
        | none => 0
      let s := s.sramError p.val t
      let s := { s with prm := { s.prm with errCycle := mset s.prm.errCycle t (p.val, s.fld schStep_count p.val, s.now) } }
      let _ := accumulator
      if again then s.quarantineTile t 3 temp.toNat 0xFF (some p.val) kernel else s

/-! ### Slots (R203, R206, R240) -/

/-- The slot of one of the given classes that a partition's cycle is in: the tick at which it started. -/
def State.openSlot (s : State) (p : Nat) (classes : List Nat) : Option Tick :=
  match (s.part p).active with
  | some t =>
    if s.flag schPart_resetting p then none
    else (t.entries.find? fun e => classes.contains e.cls && s.startTick p e ≤ s.now && s.now < s.budgetEnd p e).map (s.startTick p)
  | none => none

/-! ### Replay (R202 to R205, R159) -/

/-- Whether a sample is due in this cycle: every INTERVAL cycles, one kernel, while the replay area holds no sample that may still be
compared (DESIGN CHOICE, log 154). -/
def State.sampleDue (s : State) (p : Nat) : Bool :=
  let n := s.fld prmReplay_interval 0
  let step := s.fld schStep_count p
  n ≠ 0 && step % n = 0 && mget s.prm.sampled p ≠ some step && !s.prm.sample.any fun x => s.fld schStep_count x.part ≤ x.step + 4

/-- The entry that is sampled: at the replay count mod the entries of the active table, or the next eligible one in table order. -/
def State.sampleEntry (s : State) (p : Nat) (eligible : List Nat) : Option (Nat × Entry) :=
  match (s.part p).active with
  | some t =>
    let n := t.entries.length
    (((List.range n).map fun i => (s.prm.replays + i) % n).find? eligible.contains).bind fun i => (t.entries[i]?).map fun e => (i, e)
  | none => none

/-- The tiles that may replay, in order: the free spares, then the tiles of idle groups (R203). -/
def State.replayTiles (s : State) : List Nat :=
  s.spares ++ (s.tilesIn ((List.range 24).filter fun g => s.fld prmGroup_state g = 0)).filter fun t => !s.prm.quarantined.contains t

/-- What replays a sample, and what computes it a third time: other tiles, or the partner unit and the reduce stage's check
lane, which has no tile. -/
def State.replayers (s : State) (r : TestUnit) : Option TestUnit × Option TestUnit :=
  match r with
  | .tile t =>
    let l := (s.replayTiles.filter (· ≠ t.toNat)).map fun x => TestUnit.tile (BitVec.ofNat 8 x)
    (l[0]?, l[1]?)
  | .unit c u => let v : Fin 32 := ⟨(u.val ^^^ 1) % 32, Nat.mod_lt _ (by decide)⟩
    if s.unitQuarantined c.val v.val then (none, none) else (some (.unit c v), some r)

/-- The words of an output that a replay compares, in the destination format. -/
def TileInput.words (i : TileInput) : List (BitVec 32) :=
  i.output.flatMap fun r => match i.job.dest with
    | .fp32 => r.vals
    | _ => (r.codes ++ r.scales).map (BitVec.ofNat 32)

/-- The bytes of a kernel's inputs in the replay area: its rows, its residual and its weight blocks. -/
def TileInput.bytes (i : TileInput) : Nat :=
  ((i.rows ++ i.residual).map fun r => 4 * r.length).sum + (i.weights.map fun w => (w.map fun b => b.2.length).sum).sum

/-- An output with the faults of the tile or unit that gave it. -/
def faulty (f : Faults) (ws : List (BitVec 32)) : List (BitVec 32) :=
  ws.zipIdx.map fun w => f.foldl (fun v x => if x.1 = w.2 then v ^^^ x.2 else v) w.1

/-- Where a sample of an entry can have run, with its inputs and what they give: a running tile kernel whose inputs fit the replay area, or a
near-bank operation of a DECODE_THIN entry. -/
def State.sampleOf (s : State) (p i : Nat) (e : Entry) (k : KernelSample) : Option (Option TileInput × List (BitVec 32)) :=
  match k.ran, k.work, mget (s.part p).runs i with
  | .tile t, .tile j, some (.running _) =>
    let x := s.resolveJob p e [] j
    if j.tile = t && (s.entryTiles p e).contains t.toNat && x.runs && x.bytes ≤ 16777216 then some (some x, x.words) else none
  | .unit c u, .unit r, some (.running _) =>
    if e.cls = 2 && e.channels / 2 ^ c.val % 2 = 1 && !s.unitQuarantined c.val u.val then some (none, r) else none
  | _, _, _ => none

/-- REPLAY_SAMPLE (R202): an eligible kernel of the table is sampled as it runs: its inputs and its output are copied to the replay area.
Without a replay tile the sample is skipped. -/
def execReplaySample (p : Fin 16) (sample : KernelSample) (s : State) : Out :=
  .next <| s.whenLive fun s =>
    if !s.sampleDue p.val then s
    else
      match s.sampleEntry p.val sample.eligible with
      | none => s
      | some (i, e) =>
        match s.sampleOf p.val i e sample with
        | none => s
        | some (input, result) =>
          let step := s.fld schStep_count p.val
          let s := { s with prm := { s.prm with replays := s.prm.replays + 1, sampled := mset s.prm.sampled p.val step } }
          match (s.replayers sample.ran).1 with
          | some _ =>
            let x : Sample := ⟨p.val, e.id, sample.ran, input, result, faulty sample.faults result, step⟩
            { s with prm := { s.prm with sample := some x } }
          | none => s.bump prmReplayStat_noTile 0 1

/-- Quarantines what a replay or a test has found wrong. -/
def State.quarantineAny (s : State) (r : TestUnit) (cause temp pattern : Nat) (part : Option Nat) (kernel : Nat) : State :=
  match r with
  | .tile t => s.quarantineTile t.toNat cause temp pattern part kernel
  | .unit c u => s.quarantineUnit c.val u.val cause temp pattern part kernel

/-- Marks a tile or a unit for a self-test with every pattern in its next IDLE slot. -/
def State.oweTest (s : State) (r : TestUnit) : State :=
  match r with
  | .tile t => s.oweTile t.toNat
  | .unit c u => { s with gen := { s.gen with testUnits := if s.gen.testUnits.contains (c.val, u.val) then s.gen.testUnits else s.gen.testUnits ++ [(c.val, u.val)] } }

/-- A tile computes a sampled kernel again: its accumulators hold the sums, and no rerun is behind it. -/
def State.recompute (s : State) (x : Sample) (r : TestUnit) : State :=
  match r, x.input with
  | .tile t, some i => { s with prm := { s.prm with
      acc := mset s.prm.acc t.toNat (i.sums.map fun r => r.map Num.to32)
      rerun := s.prm.rerun.filter (· ≠ t.toNat) } }
  | _, _ => s

/-- The error of a mismatch: the partition, the cycle and the kernel (R205). -/
def mismatchError (x : Sample) : ErrorReport :=
  let e := match x.ran with
    | .tile t => errorOfPart 1 3 3 t.toNat x.part
    | .unit c u => errorOfPart 1 2 5 (c.val * 32 + u.val) x.part
  { e with info0 := BitVec.ofNat 64 x.step, info1 := BitVec.ofNat 64 x.kernel }

/-- The outcome of a mismatch (R204). -/
def State.resolve (s : State) (x : Sample) (replay third : List (BitVec 32)) (temp : Nat) (by_ : TestUnit) (by3 : Option TestUnit) : State :=
  match by3 with
  | none => ((s.bump prmReplayStat_unresolved 0 1).oweTest x.ran).oweTest by_
  | some y =>
    let s := s.recompute x y
    if third = replay then s.quarantineAny x.ran 0 temp 0xFF (some x.part) x.kernel
    else if third = x.output then s.quarantineAny by_ 0 temp 0xFF (some x.part) x.kernel
    else (((s.bump prmReplayStat_unresolved 0 1).oweTest x.ran).oweTest by_).oweTest y

/-- The sample leaves the replay area. -/
def State.endSample (s : State) : State := { s with prm := { s.prm with sample := none } }

/-- A replay of a sample: the copied inputs give the result again, with the faults of the tile or unit that computes it. -/
def State.replay (s : State) (x : Sample) (replay third : Faults) (temp : Nat) : State :=
  match s.replayers x.ran with
  | (none, _) => s.endSample.bump prmReplayStat_noTile 0 1
  | (some by_, by3) =>
    let s := (s.endSample.bump prmReplayStat_samples 0 1).recompute x by_
    if faulty replay x.result = x.output then s
    else ((s.bump prmReplayStat_mismatches 0 1).raise (mismatchError x)).resolve x (faulty replay x.result) (faulty third x.result) temp by_ by3

/-- REPLAY_COMPARE (R203, R204): within four cycles of the sample, in an IDLE or a FILL slot of its partition. -/
def execReplayCompare (replay third : Faults) (temp : BitVec 8) (s : State) : Out :=
  .next <| s.whenLive fun s =>
    match s.prm.sample with
    | none => s
    | some x =>
      if x.step + 4 < s.fld schStep_count x.part then s.endSample
      else if (s.openSlot x.part [4, 5]).isNone then s
      else s.replay x replay third temp.toNat

/-! ### Self-test (R206 to R208) -/

/-- The highest pattern that PRM_SELFTEST runs. -/
def State.lastPattern (s : State) : Nat := Nat.log2 (s.fld prmSelftest_patterns 0)

/-- The IDLE slot that a tile can be tested in: of its own partition, or of any one for a spare or a tile of an idle group, while it runs no
kernel of the partition. -/
def State.testSlot (s : State) (t : Nat) : Option (Nat × Tick) :=
  if s.prm.quarantined.contains t then none
  else (List.range 16).findSome? fun p =>
    if s.worksFor p t && (s.runningKernel p t).isNone then (s.openSlot p [5]).map fun k => (p, k) else none

/-- The tile that rotation tests now: the first that can be, from NEXT_TILE upwards. -/
def State.turnTile (s : State) : Option Nat :=
  ((List.range 200).map fun i => (s.fld prmSelftest_nextTile 0 + i) % 200).find? fun t => (s.testSlot t).isSome

/-- The tiles that have been tested in a slot. -/
def State.slotTested (s : State) (x : Nat × Tick) : List Nat :=
  match mget s.prm.slotTests x.1 with
  | some y => if y.1 = x.2 then y.2 else []
  | none => []

/-- Whether a tile is tested in a slot: a test is owed, or it is its turn and the slot has room (R206; DESIGN CHOICE, log 156). -/
def State.mayTest (s : State) (t pattern : Nat) (x : Nat × Tick) : Bool :=
  s.prm.mustTest.contains t ||
    (s.flag prmSelftest_enable 0 && s.fld prmSelftest_patterns 0 / 2 ^ pattern % 2 = 1 && s.turnTile = some t &&
      ((s.slotTested x).contains t || (s.slotTested x).length < s.fld prmSelftest_perSlot 0))

/-- A tile counts among those tested in a slot. -/
def State.noteTested (s : State) (t : Nat) (x : Nat × Tick) : State :=
  let l := s.slotTested x
  { s with prm := { s.prm with slotTests := mset s.prm.slotTests x.1 (x.2, if l.contains t then l else l ++ [t]) } }

/-- The result of a pattern on a tile. The accumulators are overwritten, the panels stay, and the rotation goes on behind the last
pattern. -/
def State.testTile (s : State) (t pattern : Nat) (ok : Bool) (temp : Nat) : State :=
  let s := s.clearAcc (· = t)
  let s := if ok then (s.bump prmSelftest_passes 0 1).keepTemp pattern temp
    else (s.bump prmSelftest_fails 0 1).quarantineTile t 1 temp pattern none 0
  let s := if pattern = 9 then { s with prm := { s.prm with mustTest := s.prm.mustTest.filter (· ≠ t) } } else s
  if s.fld prmSelftest_nextTile 0 = t && pattern = s.lastPattern then s.setFld prmSelftest_nextTile 0 (s.nextTile t) else s

/-- The result of a pattern on a near-bank unit. -/
def State.testUnit (s : State) (c u pattern : Nat) (ok : Bool) (temp : Nat) : State :=
  let s := if pattern = 9 then { s with gen := { s.gen with testUnits := s.gen.testUnits.filter (· ≠ (c, u)) } } else s
  if ok then s.keepTemp pattern temp else s.quarantineUnit c u 1 temp pattern none 0

/-- Whether a channel is in a partition's IDLE slot. -/
def State.unitSlot (s : State) (c : Nat) : Bool :=
  (List.range 16).any fun p => (s.openSlot p [5]).isSome && (s.part p).channelMask / 2 ^ c % 2 = 1

/-- SELF_TEST (R206): in an IDLE slot a tile is tested while PRM_SELFTEST enables the pattern and it is its turn, or when it owes a test of
every pattern; a unit where the pattern is enabled or it owes a test. -/
def execSelfTest (unit : TestUnit) (pattern : Fin 10) (signatureOk : Bool) (temp : BitVec 8) (s : State) : Out :=
  .next <| s.whenLive fun s =>
    match unit with
    | .tile t =>
      match s.testSlot t.toNat with
      | some x => if s.mayTest t.toNat pattern.val x then (s.noteTested t.toNat x).testTile t.toNat pattern.val signatureOk temp.toNat else s
      | none => s
    | .unit c u =>
      let on := s.flag prmSelftest_enable 0 && s.fld prmSelftest_patterns 0 / 2 ^ pattern.val % 2 = 1
      if s.unitQuarantined c.val u.val || !s.unitSlot c.val || !(on || s.gen.testUnits.contains (c.val, u.val)) then s
      else s.testUnit c.val u.val pattern.val signatureOk temp.toNat

end Sys2Proof.Machine
end

