-- ==== Sys2Proof/Machine/Dispatch.lean ====
section
/-! DEFINITION. The dispatch: one arm per command, each a call of its meaning. -/

namespace Sys2Proof.Machine

/-- The effect of a command on everything but the queue of waiting commands. -/
def exec (i : Instr) (s : State) : Host.Outcome State Fault Refusal :=
  match i with
  | .cmdDbTail fn q index => Sys2Proof.Machine.execCmdDbTail fn q index s
  | .cmdDbHead fn q index => Sys2Proof.Machine.execCmdDbHead fn q index s
  | .commandFetch who writes => Sys2Proof.Machine.execCommandFetch who writes s
  | .cmdAdmqCtrlWrite fn lane v => Sys2Proof.Machine.execCmdAdmqCtrlWrite fn lane v s
  | .identify c => Sys2Proof.Machine.execIdentify c s
  | .queueCreate c => Sys2Proof.Machine.execQueueCreate c s
  | .queueDelete c => Sys2Proof.Machine.execQueueDelete c s
  | .roleSet c => Sys2Proof.Machine.execRoleSet c s
  | .partitionConfig c => Sys2Proof.Machine.execPartitionConfig c s
  | .partitionReset c => Sys2Proof.Machine.execPartitionReset c s
  | .partitionResetComplete p => Sys2Proof.Machine.execPartitionResetComplete p s
  | .schTableLoad c rows => Sys2Proof.Machine.execSchTableLoad c rows s
  | .schTableSwap c => Sys2Proof.Machine.execSchTableSwap c s
  | .weightLoad c record blocks => Sys2Proof.Machine.execWeightLoad c record blocks s
  | .churnPass c => Sys2Proof.Machine.execChurnPass c s
  | .regionRegister c => Sys2Proof.Machine.execRegionRegister c s
  | .regionRevoke c => Sys2Proof.Machine.execRegionRevoke c s
  | .connOpen c => Sys2Proof.Machine.execConnOpen c s
  | .connClose c => Sys2Proof.Machine.execConnClose c s
  | .epochSet c map => Sys2Proof.Machine.execEpochSet c map s
  | .pwrClassPoint c => Sys2Proof.Machine.execPwrClassPoint c s
  | .pwrCapSet c => Sys2Proof.Machine.execPwrCapSet c s
  | .jobEnergy c => Sys2Proof.Machine.execJobEnergy c s
  | .tenantSet c => Sys2Proof.Machine.execTenantSet c s
  | .tenantQuery c => Sys2Proof.Machine.execTenantQuery c s
  | .traceConfig c => Sys2Proof.Machine.execTraceConfig c s
  | .traceTrigger c => Sys2Proof.Machine.execTraceTrigger c s
  | .debugHalt c => Sys2Proof.Machine.execDebugHalt c s
  | .debugMemRead c => Sys2Proof.Machine.execDebugMemRead c s
  | .fwImage c image code => Sys2Proof.Machine.execFwImage c image code s
  | .debugToken c token => Sys2Proof.Machine.execDebugToken c token s
  | .lifecycleSet c => Sys2Proof.Machine.execLifecycleSet c s
  | .nop c => Sys2Proof.Machine.execNop c s
  | .seqOpen c stops => Sys2Proof.Machine.execSeqOpen c stops s
  | .seqPrompt c tokens => Sys2Proof.Machine.execSeqPrompt c tokens s
  | .seqStepEnable c => Sys2Proof.Machine.execSeqStepEnable c s
  | .seqPause c => Sys2Proof.Machine.execSeqPause c s
  | .seqResume c => Sys2Proof.Machine.execSeqResume c s
  | .seqCancel c => Sys2Proof.Machine.execSeqCancel c s
  | .seqClose c => Sys2Proof.Machine.execSeqClose c s
  | .seqQuery c => Sys2Proof.Machine.execSeqQuery c s
  | .stateMove c => Sys2Proof.Machine.execStateMove c s
  | .stateMirror c => Sys2Proof.Machine.execStateMirror c s
  | .stateFetch c code => Sys2Proof.Machine.execStateFetch c code s
  | .pageListSet c entries => Sys2Proof.Machine.execPageListSet c entries s
  | .badOpcodeCommand c => Sys2Proof.Machine.execBadOpcodeCommand c s
  | .stepBoundary p => Sys2Proof.Machine.execStepBoundary p s
  | .boundaryScheduledTick p => Sys2Proof.Machine.execBoundaryScheduledTick p s
  | .mirrorAck p node step => Sys2Proof.Machine.execMirrorAck p node step s
  | .journalAck p step => Sys2Proof.Machine.execJournalAck p step s
  | .commitRecordSend p node => Sys2Proof.Machine.execCommitRecordSend p node s
  | .armatureEntryStart p start => Sys2Proof.Machine.execArmatureEntryStart p start s
  | .kernelComplete p entry work => Sys2Proof.Machine.execKernelComplete p entry work s
  | .syncPointReach p point => Sys2Proof.Machine.execSyncPointReach p point s
  | .sync p src m => Sys2Proof.Machine.execSync p src m s
  | .syncRelease p point => Sys2Proof.Machine.execSyncRelease p point s
  | .syncResendTimer p => Sys2Proof.Machine.execSyncResendTimer p s
  | .syncSlackExpiry p => Sys2Proof.Machine.execSyncSlackExpiry p s
  | .moveFlip node handle => Sys2Proof.Machine.execMoveFlip node handle s
  | .moveFlipAck handle newHandle flipTick => Sys2Proof.Machine.execMoveFlipAck handle newHandle flipTick s
  | .moveAbandonRequest node handle => Sys2Proof.Machine.execMoveAbandonRequest node handle s
  | .moveRefused handle => Sys2Proof.Machine.execMoveRefused handle s
  | .nearBankDescriptorIssue ch p d => Sys2Proof.Machine.execNearBankDescriptorIssue ch p d s
  | .nearBankOpComplete ch inp => Sys2Proof.Machine.execNearBankOpComplete ch inp s
  | .nearBankWatchdog ch u fin => Sys2Proof.Machine.execNearBankWatchdog ch u fin s
  | .channelSwitchComplete ch => Sys2Proof.Machine.execChannelSwitchComplete ch s
  | .logicAccessHeld ch a => Sys2Proof.Machine.execLogicAccessHeld ch a s
  | .memoryModeWindowExpiry ch => Sys2Proof.Machine.execMemoryModeWindowExpiry ch s
  | .refreshDue ch => Sys2Proof.Machine.execRefreshDue ch s
  | .genChmodeWrite fn ch lane v => Sys2Proof.Machine.execGenChmodeWrite fn ch lane v s
  | .genDraftCfgWrite fn lane v => Sys2Proof.Machine.execGenDraftCfgWrite fn lane v s
  | .draftCfgApply => Sys2Proof.Machine.execDraftCfgApply s
  | .draftRingFillComplete fill => Sys2Proof.Machine.execDraftRingFillComplete fill s
  | .panelFillComplete p tile half panel => Sys2Proof.Machine.execPanelFillComplete p tile half panel s
  | .tileSramError p tile correctable accumulator temp => Sys2Proof.Machine.execTileSramError p tile correctable accumulator temp s
  | .replaySample p sample => Sys2Proof.Machine.execReplaySample p sample s
  | .replayCompare replay third temp => Sys2Proof.Machine.execReplayCompare replay third temp s
  | .selfTest unit pattern signatureOk temp => Sys2Proof.Machine.execSelfTest unit pattern signatureOk temp s
  | .pageStep job => Sys2Proof.Machine.execPageStep job s
  | .migrationFlip p page => Sys2Proof.Machine.execMigrationFlip p page s
  | .clockHandVisit => Sys2Proof.Machine.execClockHandVisit s
  | .t2AgeTick => Sys2Proof.Machine.execT2AgeTick s
  | .stallMaxExpiry p entry => Sys2Proof.Machine.execStallMaxExpiry p entry s
  | .tirPeerCtrlWrite fn k lane v => Sys2Proof.Machine.execTirPeerCtrlWrite fn k lane v s
  | .flashReadComplete granule levels => Sys2Proof.Machine.execFlashReadComplete granule levels s
  | .flashProgramComplete granule ok => Sys2Proof.Machine.execFlashProgramComplete granule ok s
  | .journalCommit code => Sys2Proof.Machine.execJournalCommit code s
  | .holdupRetry code => Sys2Proof.Machine.execHoldupRetry code s
  | .garbageCollection => Sys2Proof.Machine.execGarbageCollection s
  | .staticWearLevelling => Sys2Proof.Machine.execStaticWearLevelling s
  | .readDisturbRefresh block => Sys2Proof.Machine.execReadDisturbRefresh block s
  | .retentionScrub block weak correctedBits => Sys2Proof.Machine.execRetentionScrub block weak correctedBits s
  | .grownBadBlock block failed => Sys2Proof.Machine.execGrownBadBlock block failed s
  | .readReq rx => Sys2Proof.Machine.execReadReq rx s
  | .readResp rx => Sys2Proof.Machine.execReadResp rx s
  | .write rx use => Sys2Proof.Machine.execWrite rx use s
  | .writeImm rx => Sys2Proof.Machine.execWriteImm rx s
  | .fetchAdd rx => Sys2Proof.Machine.execFetchAdd rx s
  | .swap rx => Sys2Proof.Machine.execSwap rx s
  | .cas rx => Sys2Proof.Machine.execCas rx s
  | .atomicResp rx => Sys2Proof.Machine.execAtomicResp rx s
  | .ack rx => Sys2Proof.Machine.execAck rx s
  | .nak rx => Sys2Proof.Machine.execNak rx s
  | .connect rx => Sys2Proof.Machine.execConnect rx s
  | .connectAck rx => Sys2Proof.Machine.execConnectAck rx s
  | .disconnect rx => Sys2Proof.Machine.execDisconnect rx s
  | .disconnectAck rx => Sys2Proof.Machine.execDisconnectAck rx s
  | .reservedOpFrame rx => Sys2Proof.Machine.execReservedOpFrame rx s
  | .ackTimer conn => Sys2Proof.Machine.execAckTimer conn s
  | .retransmissionTimeout conn => Sys2Proof.Machine.execRetransmissionTimeout conn s
  | .rnrWaitExpiry conn => Sys2Proof.Machine.execRnrWaitExpiry conn s
  | .retryAfterExpiry conn => Sys2Proof.Machine.execRetryAfterExpiry conn s
  | .contextFetchComplete conn tagOk => Sys2Proof.Machine.execContextFetchComplete conn tagOk s
  | .pagingStallLimit conn => Sys2Proof.Machine.execPagingStallLimit conn s
  | .deadTargetTimeout conn => Sys2Proof.Machine.execDeadTargetTimeout conn s
  | .frameTxStart port => Sys2Proof.Machine.execFrameTxStart port s
  | .portLinkDown port => Sys2Proof.Machine.execPortLinkDown port s
  | .portLinkUp port => Sys2Proof.Machine.execPortLinkUp port s
  | .oldEpochExpire => Sys2Proof.Machine.execOldEpochExpire s
  | .hostWindowWrite fn w off data => Sys2Proof.Machine.execHostWindowWrite fn w off data s
  | .hostWindowRead fn w off len => Sys2Proof.Machine.execHostWindowRead fn w off len s
  | .hostWindowAtomic fn w off op => Sys2Proof.Machine.execHostWindowAtomic fn w off op s
  | .asfRwinImm fn w lane v => Sys2Proof.Machine.execAsfRwinImm fn w lane v s
  | .asfOwnCmd fn lane v => Sys2Proof.Machine.execAsfOwnCmd fn lane v s
  | .hostDramAccess off access => Sys2Proof.Machine.execHostDramAccess off access s
  | .glbBar4CfgWrite fn lane v => Sys2Proof.Machine.execGlbBar4CfgWrite fn lane v s
  | .copyCompare copies => Sys2Proof.Machine.execCopyCompare copies s
  | .timeReqTimer => Sys2Proof.Machine.execTimeReqTimer s
  | .timeReq node port t1 => Sys2Proof.Machine.execTimeReq node port t1 s
  | .timeResp port t1 t2 t3 => Sys2Proof.Machine.execTimeResp port t1 t2 t3 s
  | .timeClkInLoss => Sys2Proof.Machine.execTimeClkInLoss s
  | .timeClkInReturn => Sys2Proof.Machine.execTimeClkInReturn s
  | .ptpMessage port m => Sys2Proof.Machine.execPtpMessage port m s
  | .syncPpsIn => Sys2Proof.Machine.execSyncPpsIn s
  | .ppsLost => Sys2Proof.Machine.execPpsLost s
  | .syncPpsOut => Sys2Proof.Machine.execSyncPpsOut s
  | .tmbAdj fn lane v => Sys2Proof.Machine.execTmbAdj fn lane v s
  | .gateEntryAdvance port => Sys2Proof.Machine.execGateEntryAdvance port s
  | .gateArm fn port lane v => Sys2Proof.Machine.execGateArm fn port lane v s
  | .gateCancel fn port lane v => Sys2Proof.Machine.execGateCancel fn port lane v s
  | .gateTakeover port => Sys2Proof.Machine.execGateTakeover port s
  | .bucketRefill => Sys2Proof.Machine.execBucketRefill s
  | .shpBucketWrite fn b lane v => Sys2Proof.Machine.execShpBucketWrite fn b lane v s
  | .queueSample => Sys2Proof.Machine.execQueueSample s
  | .sliceRequest home => Sys2Proof.Machine.execSliceRequest home s
  | .mirrorCopyComplete handle ok => Sys2Proof.Machine.execMirrorCopyComplete handle ok s
  | .heartbeatTimer => Sys2Proof.Machine.execHeartbeatTimer s
  | .heartbeat rx => Sys2Proof.Machine.execHeartbeat rx s
  | .suspicionTimer node => Sys2Proof.Machine.execSuspicionTimer node s
  | .lossTimer node => Sys2Proof.Machine.execLossTimer node s
  | .probe rx => Sys2Proof.Machine.execProbe rx s
  | .decision rx => Sys2Proof.Machine.execDecision rx s
  | .decisionResend => Sys2Proof.Machine.execDecisionResend s
  | .deputyTakeoverTimer => Sys2Proof.Machine.execDeputyTakeoverTimer s
  | .takeover rx => Sys2Proof.Machine.execTakeover rx s
  | .spareRetryTimer => Sys2Proof.Machine.execSpareRetryTimer s
  | .recastFlip handle newHandle => Sys2Proof.Machine.execRecastFlip handle newHandle s
  | .errorRaised e => Sys2Proof.Machine.execErrorRaised e s
  | .ceMergeWindowEnd u code location => Sys2Proof.Machine.execCeMergeWindowEnd u code location s
  | .ceThresholdWindowEnd => Sys2Proof.Machine.execCeThresholdWindowEnd s
  | .glbErrlogCtrlWrite fn lane v => Sys2Proof.Machine.execGlbErrlogCtrlWrite fn lane v s
  | .domainIdleTimer d => Sys2Proof.Machine.execDomainIdleTimer d s
  | .rindWake d source => Sys2Proof.Machine.execRindWake d source s
  | .scheduledWake d => Sys2Proof.Machine.execScheduledWake d s
  | .domainWakeComplete d restoreOk => Sys2Proof.Machine.execDomainWakeComplete d restoreOk s
  | .c3Entry => Sys2Proof.Machine.execC3Entry s
  | .c3Exit source => Sys2Proof.Machine.execC3Exit source s
  | .c5Entry => Sys2Proof.Machine.execC5Entry s
  | .c5Exit source imageOk => Sys2Proof.Machine.execC5Exit source imageOk s
  | .cappingWindow sample => Sys2Proof.Machine.execCappingWindow sample s
  | .avsRaise point => Sys2Proof.Machine.execAvsRaise point s
  | .vdonePoll core sram mem => Sys2Proof.Machine.execVdonePoll core sram mem s
  | .vdoneTimeout => Sys2Proof.Machine.execVdoneTimeout s
  | .avsBusyRetry ackc => Sys2Proof.Machine.execAvsBusyRetry ackc s
  | .droop d => Sys2Proof.Machine.execDroop d s
  | .pwrLimitN asserted => Sys2Proof.Machine.execPwrLimitN asserted s
  | .powerLimitHoldExpiry => Sys2Proof.Machine.execPowerLimitHoldExpiry s
  | .thermalSample logic dram => Sys2Proof.Machine.execThermalSample logic dram s
  | .throttleStepTimer d => Sys2Proof.Machine.execThrottleStepTimer d s
  | .rackSharePeriod => Sys2Proof.Machine.execRackSharePeriod s
  | .demandRecord => Sys2Proof.Machine.execDemandRecord s
  | .shareRecord r => Sys2Proof.Machine.execShareRecord r s
  | .shareFailsafe => Sys2Proof.Machine.execShareFailsafe s
  | .cmpDramXtsWrite fn lane v => Sys2Proof.Machine.execCmpDramXtsWrite fn lane v s
  | .schTenantWrite fn t lane v => Sys2Proof.Machine.execSchTenantWrite fn t lane v s
  | .schPartWrite fn p lane v => Sys2Proof.Machine.execSchPartWrite fn p lane v s
  | .registerWrite fn off size v => Sys2Proof.Machine.execRegisterWrite fn off size v s
  | .secRecoveryGo fn lane v => Sys2Proof.Machine.execSecRecoveryGo fn lane v s
  | .dbgHaltResume fn p lane v => Sys2Proof.Machine.execDbgHaltResume fn p lane v s
  | .dbgGstopAssert fn lane v => Sys2Proof.Machine.execDbgGstopAssert fn lane v s
  | .plaster jtag chains => Sys2Proof.Machine.execPlaster jtag chains s
  | .jtagGstop => Sys2Proof.Machine.execJtagGstop s
  | .jtagBoundaryTakeover => Sys2Proof.Machine.execJtagBoundaryTakeover s
  | .breakpointHit core => Sys2Proof.Machine.execBreakpointHit core s
  | .traceFrame => Sys2Proof.Machine.execTraceFrame s
  | .traceRecord r => Sys2Proof.Machine.execTraceRecord r s
  | .getVersion => Sys2Proof.Machine.execGetVersion s
  | .getCapabilities => Sys2Proof.Machine.execGetCapabilities s
  | .negotiateAlgorithms offer => Sys2Proof.Machine.execNegotiateAlgorithms offer s
  | .getDigests => Sys2Proof.Machine.execGetDigests s
  | .getCertificate slot off len => Sys2Proof.Machine.execGetCertificate slot off len s
  | .challenge nonce => Sys2Proof.Machine.execChallenge nonce s
  | .getMeasurements index signed => Sys2Proof.Machine.execGetMeasurements index signed s
  | .keyExchange key => Sys2Proof.Machine.execKeyExchange key s
  | .finish verifyOk => Sys2Proof.Machine.execFinish verifyOk s
  | .spdmHeartbeat => Sys2Proof.Machine.execSpdmHeartbeat s
  | .keyUpdate op => Sys2Proof.Machine.execKeyUpdate op s
  | .endSession => Sys2Proof.Machine.execEndSession s
  | .chunkGet chunk => Sys2Proof.Machine.execChunkGet chunk s
  | .setNodeKey inSession opcode node gen key => Sys2Proof.Machine.execSetNodeKey inSession opcode node gen key s
  | .spdmUnsupportedRequest code => Sys2Proof.Machine.execSpdmUnsupportedRequest code s
  | .coldStart inp => Sys2Proof.Machine.execColdStart inp s
  | .railSequenceStart => Sys2Proof.Machine.execRailSequenceStart s
  | .railInRange => Sys2Proof.Machine.execRailInRange s
  | .railFault => Sys2Proof.Machine.execRailFault s
  | .clocksLocked => Sys2Proof.Machine.execClocksLocked s
  | .dramInitComplete => Sys2Proof.Machine.execDramInitComplete s
  | .bootVerify flashAnswers image => Sys2Proof.Machine.execBootVerify flashAnswers image s
  | .diceDerivationComplete certMatches => Sys2Proof.Machine.execDiceDerivationComplete certMatches s
  | .firmwareInitComplete inp => Sys2Proof.Machine.execFirmwareInitComplete inp s
  | .ftlInService targets => Sys2Proof.Machine.execFtlInService targets s
  | .xtalAbsent => Sys2Proof.Machine.execXtalAbsent s
  | .refAbsent => Sys2Proof.Machine.execRefAbsent s
  | .portRefAbsent refB => Sys2Proof.Machine.execPortRefAbsent refB s
  | .perstN asserted => Sys2Proof.Machine.execPerstN asserted s
  | .pcieHotReset => Sys2Proof.Machine.execPcieHotReset s
  | .pcieLinkDown => Sys2Proof.Machine.execPcieLinkDown s
  | .functionLevelReset p => Sys2Proof.Machine.execFunctionLevelReset p s
  | .gstopN asserted => Sys2Proof.Machine.execGstopN asserted s
  | .pfailN asserted => Sys2Proof.Machine.execPfailN asserted s
  | .wakeN asserted => Sys2Proof.Machine.execWakeN asserted s
  | .alertN asserted => Sys2Proof.Machine.execAlertN asserted s
  | .holdupOk asserted => Sys2Proof.Machine.execHoldupOk asserted s
  | .inputEventWindowEnd k => Sys2Proof.Machine.execInputEventWindowEnd k s
  | .inputStuck k => Sys2Proof.Machine.execInputStuck k s
  | .status => Sys2Proof.Machine.execStatus s
  | .temps => Sys2Proof.Machine.execTemps s
  | .power => Sys2Proof.Machine.execPower s
  | .inputs => Sys2Proof.Machine.execInputs s
  | .record => Sys2Proof.Machine.execRecord s
  | .boardCap v pecOk => Sys2Proof.Machine.execBoardCap v pecOk s
  | .rackBudget v pecOk => Sys2Proof.Machine.execRackBudget v pecOk s
  | .recovery v pecOk => Sys2Proof.Machine.execRecovery v pecOk s
  | .powerOn v pecOk => Sys2Proof.Machine.execPowerOn v pecOk s
  | .powerOff v pecOk => Sys2Proof.Machine.execPowerOff v pecOk s
  | .stayOff v pecOk => Sys2Proof.Machine.execStayOff v pecOk s
  | .setAddr v pecOk => Sys2Proof.Machine.execSetAddr v pecOk s
  | .alertResponseAddress => Sys2Proof.Machine.execAlertResponseAddress s
  | .abandonedAnswer handle => Sys2Proof.Machine.execAbandonedAnswer handle s
  | .jtagBoundaryRelease => Sys2Proof.Machine.execJtagBoundaryRelease s
  | .pcieLinkUp => Sys2Proof.Machine.execPcieLinkUp s
  | .secFuseProgWrite fn k lane v => Sys2Proof.Machine.execSecFuseProgWrite fn k lane v s
  | .ideKmRequest inSession stream action => Sys2Proof.Machine.execIdeKmRequest inSession stream action s
  | .coreWatchdog core => Sys2Proof.Machine.execCoreWatchdog core s
  | .flashEraseComplete block suspended => Sys2Proof.Machine.execFlashEraseComplete block suspended s
  | .hostReadCompletion r => Sys2Proof.Machine.execHostReadCompletion r s
  | .suppliesRemoved aonToo => Sys2Proof.Machine.execSuppliesRemoved aonToo s

end Sys2Proof.Machine
end

