-- ==== Sys2Proof/Machine/Tick.lean ====
section
/-! DEFINITION. What the passing of one tick does, when no command waits. -/

set_option Elab.async false

namespace Sys2Proof.Machine

/-- Sends the MSI-X message of each queue whose oldest unannounced entry has waited its coalescing time (R74). -/
def State.coalesceDue (s : State) : State :=
  s.buhorn.queues.foldl (fun s q =>
    if 0 < q.2.sinceMsi && q.2.firstMsi + q.2.coalesceUs * ticksPerUs ≤ s.now then
      (s.modQueue q.1 fun x => { x with sinceMsi := 0 }).emit (.msix q.2.fn q.2.vector)
    else s) s

/-- The self-reset that follows the handling of a Device-fatal error (R405); the lands' takeover holds it until the instruction leaves
(R476). -/
def State.selfReset (s : State) : State := if s.res.fatal && !s.pln.boundaryScan then s.reboot 2 2 else s

/-- What is under way in a running device: failed operations are told to their issuers, halts drain, the last commit and the programming of
boot flash end, coalesced messages that are due go out. -/
def State.settleTick (s : State) : State :=
  if s.live then s.tellFailures.settleHalts.lastCommit.programmingEnds.coalesceDue else s

/-- A tick passes: the count advances, one error record leaves handling, a Device-fatal error's self-reset follows its handling, an
input that was reported as asserted while it could not act acts on a hub that runs again, and what is under way goes on. -/
def idle (s : State) : State :=
  let s := ({ s with now := s.now + 1 }).retireError.selfReset
  let s := if s.inputsAct && s.fld pwrDevStat_state 0 ≠ 2 then s.hubReleased else s
  s.settleTick

end Sys2Proof.Machine
end

