-- ==== Sys2Proof/Safety.lean ====
section
/-! DEFINITION. What counts as a safe run, in the terms that statements use. -/

set_option Elab.async false

namespace Sys2Proof.Machine

/-- A step is safe where it answers a next state: no meaning stops the block. -/
def Safe (s : State) : Prop := ∃ t, step s = .next t

/-- Every memory and the register bank stand in their canonical form. -/
def Canonical (s : State) : Prop := Memory.wf s = true ∧ mwf s.regs = true

/-- Whether a queue hands on the packet of a command, and its opcode is `op` (R61 to R63, R77, R79). -/
def State.handsOn (s : State) (op : Nat) (c : Cmd) (q : Queue) : Bool :=
  s.live && c.pkt.opcode.toNat = op && s.queue c.queue.toNat = some q &&
    q.offers c.pkt (s.inService c.queue.toNat) && !s.mustWait q.fn c

/-- Whether the packet passes every check of acceptance (R54, R61). -/
def State.passes (s : State) (c : Cmd) (q : Queue) : Bool :=
  reservedOk c.pkt && paramsOk s q.fn c.pkt && rightsOk s q.fn c.pkt

/-- The command is accepted, and its effect is due at once (R64): `d` is the accepted command as the device keeps it, and `e`
the state with it entered in its function's order. -/
def State.takes (s : State) (op : Nat) (c : Cmd) (words : List (BitVec 32)) (code : BitVec 12) (d : Pend) (e : State) : Prop :=
  ∃ q, s.handsOn op c q = true ∧ s.passes c q = true ∧ s.flipHolds q.fn c.pkt = false ∧ s.defers q.fn c.pkt = false ∧
    d = s.pend c q.fn words code ∧ e = s.enter c d

/-- Whether a bit of a register lies in none of its fields (R12). -/
def Reg.reserved (r : Reg) (b : Nat) : Bool := !r.fields.any fun f => f.lo ≤ b && b < f.lo + f.width

end Sys2Proof.Machine
end

