-- ==== Sys2Proof/Frames.lean ====
section
/-! DEFINITION. The pieces of State, and which of them each command may change: the frame of every command, in the terms that
statements use. -/

set_option Elab.async false

namespace Sys2Proof.Machine

/-- A piece of State. Every register of the register bank is a piece of its own; the bytes of pages are one apart from the rest
of the tiers; `restart` stands for the device's own reset (R406, R475), which a command may end in and which sets every piece.
The queue of waiting commands is no piece: no command touches it. -/
inductive Piece where
  | restart | now | freeCtr | msix | out | buhorn | handles | seqs | parts | tenants | weights | churn | tiers | bytes | ftl
  | dram | poison | staging | gen | prm | asf | tmb | shp | res | pwr | sec | trace | pln
  | reg (r : Reg)
deriving DecidableEq, Repr

/-- A piece is the same in two states. -/
def Piece.same (p : Piece) (s t : State) : Prop :=
  match p with
  | .restart => True
  | .now => t.now = s.now
  | .freeCtr => t.freeCtr = s.freeCtr
  | .msix => t.msix = s.msix
  | .out => t.out = s.out
  | .buhorn => t.buhorn = s.buhorn
  | .handles => t.handles = s.handles
  | .seqs => t.seqs = s.seqs
  | .parts => t.parts = s.parts
  | .tenants => t.tenants = s.tenants
  | .weights => t.weights = s.weights
  | .churn => t.churn = s.churn
  | .tiers => { t.tiers with bytes := [] } = { s.tiers with bytes := [] }
  | .bytes => t.tiers.bytes = s.tiers.bytes
  | .ftl => t.ftl = s.ftl
  | .dram => t.dram = s.dram
  | .poison => t.poison = s.poison
  | .staging => t.staging = s.staging
  | .gen => t.gen = s.gen
  | .prm => t.prm = s.prm
  | .asf => t.asf = s.asf
  | .tmb => t.tmb = s.tmb
  | .shp => t.shp = s.shp
  | .res => t.res = s.res
  | .pwr => t.pwr = s.pwr
  | .sec => t.sec = s.sec
  | .trace => t.trace = s.trace
  | .pln => t.pln = s.pln
  | .reg r => ∀ i, r.has i = true → t.reg r i = s.reg r i

/-- Every register is a piece. -/
def Piece.allRegs : List Piece := Reg.all.map .reg

/-- Every piece. -/
def Piece.all : List Piece :=
  [.restart, .now, .freeCtr, .msix, .out, .buhorn, .handles, .seqs, .parts, .tenants, .weights, .churn, .tiers,
    .bytes, .ftl, .dram, .poison, .staging, .gen, .prm, .asf, .tmb, .shp, .res, .pwr, .sec, .trace, .pln] ++ allRegs

/-- The pieces that taking an error report may change (R368 to R376): the record that it writes, the log, the partition or the
function that it stops, and the device's own reset where a device-fatal error follows another. -/
def Piece.ofErrors : List Piece :=
  [.restart, .out, .buhorn, .seqs, .parts, .tiers, .gen, .prm, .asf, .res, .trace, .pln, .reg .schPart,
    .reg .schReset, .reg .resErrStat, .reg .resPlinthRec, .reg .dbgTraceStat, .reg .dbgGstop, .reg .glbErrlogCtrl,
    .reg .glbErrStat]

/-- The pieces that a command may change, in whatever state it runs; it leaves every other as it was. -/
def touches (i : Instr) : List Piece :=
  match i with
  | .cmdDbTail _ _ _ => [.buhorn, .reg .cmdAdmqCtrl, .reg .cmdQfault]
  | .cmdDbHead _ _ _ => [.out, .buhorn, .asf, .reg .cmdAdmqCtrl, .reg .cmdQfault, .reg .cmdInflight,
    .reg .cmdReplyWait, .reg .asfCtxStat]
  | .commandFetch _ _ => [.out, .buhorn, .asf, .reg .asfCtxStat]
  | .cmdAdmqCtrlWrite _ _ _ => [.buhorn, .reg .cmdAdmqCtrl]
  | .identify _ => [.out, .buhorn, .asf, .pwr, .reg .cmdInflight, .reg .cmdReplyWait, .reg .asfCtxStat,
    .reg .pwrDomStat]
  | .queueCreate _ => [.out, .buhorn, .asf, .pwr, .reg .cmdInflight, .reg .cmdReplyWait, .reg .asfCtxStat,
    .reg .pwrDomStat]
  | .queueDelete _ => [.out, .buhorn, .asf, .pwr, .reg .cmdInflight, .reg .cmdReplyWait, .reg .asfCtxStat,
    .reg .pwrDomStat]
  | .roleSet _ => [.out, .buhorn, .asf, .pwr, .reg .cmdInflight, .reg .cmdReplyWait, .reg .asfCtxStat,
    .reg .pwrDomStat, .reg .glbFn]
  | .partitionConfig _ => [.out, .buhorn, .parts, .prm, .asf, .pwr, .reg .cmdInflight, .reg .cmdReplyWait,
    .reg .prmStatus, .reg .prmPart, .reg .prmGroup, .reg .prmTileMap, .reg .asfCtxStat, .reg .pwrDomStat]
  | .partitionReset _ => [.out, .buhorn, .seqs, .parts, .tiers, .gen, .prm, .asf, .pwr, .reg .cmdInflight,
    .reg .cmdReplyWait, .reg .schPart, .reg .schReset, .reg .asfCtxStat, .reg .pwrDomStat]
  | .partitionResetComplete _ => [.out, .buhorn, .handles, .seqs, .parts, .tiers, .bytes, .ftl, .asf, .res,
    .reg .cmdInflight, .reg .cmdReplyWait, .reg .ldlMeta, .reg .ldlGroups, .reg .schPart, .reg .schPeriod,
    .reg .schSwapTick, .reg .schReset, .reg .tirPool, .reg .tirLend, .reg .tirPeerCtrl, .reg .tirPeerUsed,
    .reg .tirOccLo, .reg .tirOccHi, .reg .asfCtxStat]
  | .schTableLoad _ _ => [.out, .buhorn, .parts, .asf, .pwr, .reg .cmdInflight, .reg .cmdReplyWait, .reg .schPart,
    .reg .schPeriod, .reg .schSwapTick, .reg .asfCtxStat, .reg .pwrDomStat]
  | .schTableSwap _ => [.out, .buhorn, .parts, .asf, .pwr, .reg .cmdInflight, .reg .cmdReplyWait, .reg .schPart,
    .reg .schPeriod, .reg .schSwapTick, .reg .asfCtxStat, .reg .pwrDomStat]
  | .weightLoad _ _ _ => [.out, .buhorn, .weights, .tiers, .bytes, .ftl, .dram, .poison, .gen, .asf, .pwr,
    .reg .cmdInflight, .reg .cmdReplyWait, .reg .ldlMeta, .reg .ldlBiasFix, .reg .ldlGroups, .reg .genCrossover,
    .reg .tirPool, .reg .tirLend, .reg .tirPeerCtrl, .reg .tirPeerUsed, .reg .tirOccLo, .reg .tirOccHi,
    .reg .ftlHoldup, .reg .asfCtxStat, .reg .pwrDomStat]
  | .churnPass _ => [.out, .buhorn, .churn, .asf, .pwr, .reg .cmdInflight, .reg .cmdReplyWait, .reg .cmpChurn,
    .reg .asfCtxStat, .reg .pwrDomStat]
  | .regionRegister _ => [.out, .buhorn, .tiers, .ftl, .asf, .pwr, .reg .cmdInflight, .reg .cmdReplyWait,
    .reg .ldlMeta, .reg .ldlGroups, .reg .tirPool, .reg .tirLend, .reg .tirEvict, .reg .tirPeerCtrl,
    .reg .tirPeerUsed, .reg .tirOccLo, .reg .tirOccHi, .reg .asfCtxStat, .reg .pwrDomStat]
  | .regionRevoke _ => [.out, .buhorn, .tiers, .asf, .pwr, .reg .cmdInflight, .reg .cmdReplyWait, .reg .ldlMeta,
    .reg .ldlGroups, .reg .tirPool, .reg .tirLend, .reg .tirPeerCtrl, .reg .tirPeerUsed, .reg .tirOccLo,
    .reg .tirOccHi, .reg .asfCtxStat, .reg .asfOwnStat, .reg .pwrDomStat]
  | .connOpen _ => [.freeCtr, .out, .buhorn, .asf, .pwr, .reg .cmdInflight, .reg .cmdReplyWait, .reg .asfCtxStat,
    .reg .pwrDomStat]
  | .connClose _ => [.out, .buhorn, .asf, .pwr, .reg .cmdInflight, .reg .cmdReplyWait, .reg .asfCtxStat,
    .reg .pwrDomStat]
  | .epochSet _ _ => Piece.ofErrors ++ [.handles, .tenants, .weights, .bytes, .ftl, .dram, .poison, .pwr,
    .reg .cmdAdmqCtrl, .reg .cmdQfault, .reg .cmdInflight, .reg .cmdReplyWait, .reg .ldlMeta, .reg .ldlGroups,
    .reg .genChWait, .reg .cmpErrInfo, .reg .cmpErrBlock, .reg .schPeriod, .reg .schSwapTick, .reg .schGroup,
    .reg .schTenant, .reg .schTenantBudget, .reg .tirPool, .reg .tirLend, .reg .tirEvict, .reg .tirPeerCtrl,
    .reg .tirPeerUsed, .reg .tirOccLo, .reg .tirOccHi, .reg .ftlHoldup, .reg .asfPaging, .reg .asfCtxStat,
    .reg .asfEpoch, .reg .asfFault, .reg .asfRxDrop, .reg .asfOwnStat, .reg .resStat, .reg .pwrClassPoint,
    .reg .pwrDomStat]
  | .pwrClassPoint _ => [.out, .buhorn, .asf, .pwr, .reg .cmdInflight, .reg .cmdReplyWait, .reg .asfCtxStat,
    .reg .pwrClassPoint, .reg .pwrDomStat]
  | .pwrCapSet _ => [.out, .buhorn, .asf, .pwr, .reg .cmdInflight, .reg .cmdReplyWait, .reg .asfCtxStat,
    .reg .pwrCap, .reg .pwrDomStat]
  | .jobEnergy _ => [.out, .buhorn, .asf, .pwr, .reg .cmdInflight, .reg .cmdReplyWait, .reg .asfCtxStat,
    .reg .pwrJobStat, .reg .pwrDomStat]
  | .tenantSet _ => [.out, .buhorn, .tenants, .asf, .pwr, .reg .cmdInflight, .reg .cmdReplyWait, .reg .schTenant,
    .reg .schTenantBudget, .reg .asfCtxStat, .reg .pwrDomStat]
  | .tenantQuery _ => [.out, .buhorn, .asf, .pwr, .reg .cmdInflight, .reg .cmdReplyWait, .reg .asfCtxStat,
    .reg .pwrDomStat]
  | .traceConfig _ => [.out, .buhorn, .asf, .pwr, .trace, .reg .cmdInflight, .reg .cmdReplyWait, .reg .asfCtxStat,
    .reg .pwrDomStat, .reg .dbgTraceStat]
  | .traceTrigger _ => [.out, .buhorn, .asf, .pwr, .trace, .reg .cmdInflight, .reg .cmdReplyWait, .reg .asfCtxStat,
    .reg .pwrDomStat, .reg .dbgTraceStat]
  | .debugHalt _ => [.out, .buhorn, .seqs, .parts, .asf, .pwr, .reg .cmdInflight, .reg .cmdReplyWait,
    .reg .asfCtxStat, .reg .pwrDomStat, .reg .dbgHalt]
  | .debugMemRead _ => [.out, .buhorn, .asf, .pwr, .reg .cmdInflight, .reg .cmdReplyWait, .reg .asfCtxStat,
    .reg .pwrDomStat]
  | .fwImage _ _ _ => [.out, .buhorn, .asf, .pwr, .sec, .reg .cmdInflight, .reg .cmdReplyWait, .reg .ftlHoldup,
    .reg .asfCtxStat, .reg .pwrDomStat]
  | .debugToken _ _ => Piece.ofErrors ++ [.freeCtr, .pwr, .reg .cmdInflight, .reg .cmdReplyWait, .reg .asfCtxStat,
    .reg .pwrDomStat, .reg .secDebug, .reg .secDbgNonce0, .reg .secDbgNonce1, .reg .glbLifecycle]
  | .lifecycleSet _ => [.restart, .freeCtr, .out, .buhorn, .parts, .ftl, .asf, .pwr, .sec, .trace, .reg .cmdInflight,
    .reg .cmdReplyWait, .reg .asfCtxStat, .reg .pwrDomStat, .reg .secDebug, .reg .dbgHalt, .reg .plnQstate,
    .reg .glbLifecycle]
  | .nop _ => [.out, .buhorn, .asf, .pwr, .reg .cmdInflight, .reg .cmdReplyWait, .reg .asfCtxStat, .reg .pwrDomStat]
  | .seqOpen _ _ => [.out, .buhorn, .handles, .seqs, .asf, .pwr, .reg .cmdInflight, .reg .cmdReplyWait,
    .reg .asfCtxStat, .reg .pwrDomStat]
  | .seqPrompt _ _ => [.out, .buhorn, .seqs, .parts, .tiers, .bytes, .ftl, .asf, .res, .pwr, .reg .cmdInflight,
    .reg .cmdReplyWait, .reg .ldlMeta, .reg .ldlGroups, .reg .tirPool, .reg .tirLend, .reg .tirEvict,
    .reg .tirPeerCtrl, .reg .tirPeerUsed, .reg .tirOccLo, .reg .tirOccHi, .reg .asfCtxStat, .reg .pwrDomStat]
  | .seqStepEnable _ => [.out, .buhorn, .seqs, .parts, .tiers, .bytes, .ftl, .asf, .res, .pwr, .reg .cmdInflight,
    .reg .cmdReplyWait, .reg .ldlMeta, .reg .ldlGroups, .reg .tirPool, .reg .tirLend, .reg .tirEvict,
    .reg .tirPeerCtrl, .reg .tirPeerUsed, .reg .tirOccLo, .reg .tirOccHi, .reg .asfCtxStat, .reg .pwrDomStat]
  | .seqPause _ => [.out, .buhorn, .seqs, .tiers, .asf, .pwr, .reg .cmdInflight, .reg .cmdReplyWait,
    .reg .asfCtxStat, .reg .pwrDomStat]
  | .seqResume _ => [.out, .buhorn, .seqs, .parts, .tiers, .bytes, .ftl, .asf, .res, .pwr, .reg .cmdInflight,
    .reg .cmdReplyWait, .reg .ldlMeta, .reg .ldlGroups, .reg .tirPool, .reg .tirLend, .reg .tirEvict,
    .reg .tirPeerCtrl, .reg .tirPeerUsed, .reg .tirOccLo, .reg .tirOccHi, .reg .asfCtxStat, .reg .pwrDomStat]
  | .seqCancel _ => [.out, .buhorn, .seqs, .parts, .tiers, .asf, .pwr, .reg .cmdInflight, .reg .cmdReplyWait,
    .reg .asfCtxStat, .reg .pwrDomStat]
  | .seqClose _ => [.out, .buhorn, .handles, .seqs, .parts, .tiers, .bytes, .ftl, .asf, .res, .pwr,
    .reg .cmdInflight, .reg .cmdReplyWait, .reg .ldlMeta, .reg .ldlGroups, .reg .tirPool, .reg .tirLend,
    .reg .tirPeerCtrl, .reg .tirPeerUsed, .reg .tirOccLo, .reg .tirOccHi, .reg .asfCtxStat, .reg .pwrDomStat]
  | .seqQuery _ => [.out, .buhorn, .asf, .pwr, .reg .cmdInflight, .reg .cmdReplyWait, .reg .asfCtxStat,
    .reg .pwrDomStat]
  | .stateMove _ => [.out, .buhorn, .seqs, .tiers, .asf, .pwr, .reg .cmdInflight, .reg .cmdReplyWait,
    .reg .asfCtxStat, .reg .pwrDomStat]
  | .stateMirror _ => [.out, .buhorn, .seqs, .tiers, .asf, .res, .pwr, .reg .cmdInflight, .reg .cmdReplyWait,
    .reg .asfCtxStat, .reg .pwrDomStat]
  | .stateFetch _ _ => [.out, .buhorn, .asf, .pwr, .reg .cmdInflight, .reg .cmdReplyWait, .reg .ftlHoldup,
    .reg .asfCtxStat, .reg .pwrDomStat]
  | .pageListSet _ _ => [.out, .buhorn, .seqs, .parts, .tiers, .bytes, .ftl, .asf, .res, .pwr, .reg .cmdInflight,
    .reg .cmdReplyWait, .reg .ldlMeta, .reg .ldlGroups, .reg .tirPool, .reg .tirLend, .reg .tirPeerCtrl,
    .reg .tirPeerUsed, .reg .tirOccLo, .reg .tirOccHi, .reg .asfCtxStat, .reg .pwrDomStat]
  | .badOpcodeCommand _ => [.out, .buhorn, .asf, .reg .cmdReplyWait, .reg .asfCtxStat]
  | .stepBoundary _ => [.out, .buhorn, .handles, .seqs, .parts, .tenants, .tiers, .bytes, .ftl, .prm, .asf, .shp,
    .res, .pwr, .reg .cmdInflight, .reg .cmdRingSkip, .reg .cmdReplyWait, .reg .ldlMeta, .reg .ldlNopageSkip,
    .reg .ldlGroups, .reg .genSpecStat, .reg .prmStatus, .reg .prmPart, .reg .prmGroup, .reg .prmTileMap,
    .reg .schPart, .reg .schPeriod, .reg .schSwapTick, .reg .schStep, .reg .schLate, .reg .schSkip, .reg .schSkip2,
    .reg .schTenant, .reg .schTenantBudget, .reg .tirPool, .reg .tirLend, .reg .tirEvict, .reg .tirPeerCtrl,
    .reg .tirPeerUsed, .reg .tirOccLo, .reg .tirOccHi, .reg .ftlHoldup, .reg .asfCtxStat, .reg .shpGateStat,
    .reg .pwrClassPoint, .reg .pwrDomStat]
  | .boundaryScheduledTick _ => [.parts]
  | .mirrorAck _ _ _ => [.out, .buhorn, .handles, .seqs, .parts, .tiers, .bytes, .ftl, .asf, .res, .reg .cmdInflight,
    .reg .cmdReplyWait, .reg .ldlMeta, .reg .ldlGroups, .reg .tirPool, .reg .tirLend, .reg .tirPeerCtrl,
    .reg .tirPeerUsed, .reg .tirOccLo, .reg .tirOccHi, .reg .asfCtxStat]
  | .journalAck _ _ => [.seqs]
  | .commitRecordSend _ _ => [.out, .parts, .asf, .reg .asfCtxStat]
  | .armatureEntryStart _ _ => Piece.ofErrors ++ [.bytes, .ftl, .pwr, .reg .ldlMeta, .reg .ldlWalkMiss,
    .reg .ldlMetaFault, .reg .ldlGroups, .reg .tirPool, .reg .tirLend, .reg .tirEvict, .reg .tirStall,
    .reg .tirPeerCtrl, .reg .tirPeerUsed, .reg .tirOccLo, .reg .tirOccHi, .reg .asfCtxStat, .reg .pwrDomStat]
  | .kernelComplete _ _ _ => Piece.ofErrors ++ [.bytes, .ftl, .pwr, .reg .ldlMeta, .reg .ldlWalkMiss,
    .reg .ldlQuantStat, .reg .ldlGroups, .reg .schLate, .reg .tirPool, .reg .tirLend, .reg .tirEvict,
    .reg .tirPeerCtrl, .reg .tirPeerUsed, .reg .tirOccLo, .reg .tirOccHi, .reg .asfCtxStat, .reg .pwrDomStat]
  | .syncPointReach _ _ => [.seqs, .parts, .tiers, .bytes, .ftl, .asf, .res, .pwr]
  | .sync _ _ _ => Piece.ofErrors ++ [.freeCtr, .handles, .tenants, .weights, .bytes, .ftl, .dram, .poison, .pwr,
    .reg .cmdAdmqCtrl, .reg .cmdQfault, .reg .cmdInflight, .reg .cmdReplyWait, .reg .ldlMeta, .reg .ldlGroups,
    .reg .genChWait, .reg .cmpErrInfo, .reg .cmpErrBlock, .reg .schPeriod, .reg .schSwapTick, .reg .schGroup,
    .reg .schTenant, .reg .schTenantBudget, .reg .tirPool, .reg .tirLend, .reg .tirEvict, .reg .tirPeerCtrl,
    .reg .tirPeerUsed, .reg .tirOccLo, .reg .tirOccHi, .reg .ftlHoldup, .reg .asfPaging, .reg .asfCtxStat,
    .reg .asfEpoch, .reg .asfFault, .reg .asfRxDrop, .reg .asfOwnStat, .reg .resStat, .reg .resMirrorCfg,
    .reg .resRecast, .reg .pwrClassPoint, .reg .pwrDomStat]
  | .syncRelease _ _ => [.parts, .pwr, .reg .schSync, .reg .pwrDomStat]
  | .syncResendTimer _ => [.parts, .asf]
  | .syncSlackExpiry _ => [.parts, .reg .pwrDomStat]
  | .moveFlip _ _ => [.out, .buhorn, .seqs, .parts, .tiers, .bytes, .ftl, .asf, .res, .reg .cmdReplyWait,
    .reg .asfCtxStat, .reg .resStat]
  | .moveFlipAck _ _ _ => [.out, .buhorn, .handles, .seqs, .parts, .tiers, .bytes, .ftl, .asf, .res,
    .reg .cmdInflight, .reg .cmdReplyWait, .reg .ldlMeta, .reg .ldlGroups, .reg .tirPool, .reg .tirLend,
    .reg .tirPeerCtrl, .reg .tirPeerUsed, .reg .tirOccLo, .reg .tirOccHi, .reg .asfCtxStat]
  | .moveAbandonRequest _ _ => [.out, .buhorn, .handles, .seqs, .parts, .tiers, .bytes, .ftl, .asf, .res,
    .reg .cmdInflight, .reg .cmdReplyWait, .reg .ldlMeta, .reg .ldlGroups, .reg .tirPool, .reg .tirLend,
    .reg .tirPeerCtrl, .reg .tirPeerUsed, .reg .tirOccLo, .reg .tirOccHi, .reg .asfCtxStat]
  | .moveRefused _ => [.out, .buhorn, .seqs, .parts, .tiers, .asf, .res, .reg .cmdInflight, .reg .cmdReplyWait,
    .reg .asfCtxStat]
  | .nearBankDescriptorIssue _ _ _ => Piece.ofErrors ++ [.pwr, .reg .genChmode, .reg .pwrDomStat]
  | .nearBankOpComplete _ _ => Piece.ofErrors ++ [.bytes, .ftl, .dram, .poison, .pwr, .reg .genChmode,
    .reg .genChUnits, .reg .genChEcc, .reg .prmStatus, .reg .prmSelftestTemp, .reg .prmSelftestTemp2,
    .reg .prmQrecTick, .reg .prmQrecInfo, .reg .asfCtxStat, .reg .pwrDomStat, .reg .plnQstate]
  | .nearBankWatchdog _ _ _ => Piece.ofErrors ++ [.pwr, .reg .genChmode, .reg .genChUnits, .reg .prmStatus,
    .reg .prmQrecTick, .reg .prmQrecInfo, .reg .pwrDomStat, .reg .plnQstate]
  | .channelSwitchComplete _ => Piece.ofErrors ++ [.handles, .bytes, .ftl, .dram, .poison, .pwr, .reg .cmdAdmqCtrl,
    .reg .cmdQfault, .reg .cmdInflight, .reg .cmdReplyWait, .reg .ldlMeta, .reg .ldlGroups, .reg .genChmode,
    .reg .genChWait, .reg .genChEcc, .reg .cmpErrInfo, .reg .cmpErrBlock, .reg .schPeriod, .reg .schSwapTick,
    .reg .schGroup, .reg .tirPool, .reg .tirLend, .reg .tirEvict, .reg .tirPeerCtrl, .reg .tirPeerUsed,
    .reg .tirOccLo, .reg .tirOccHi, .reg .asfPaging, .reg .asfCtxStat, .reg .asfEpoch, .reg .asfRxDrop,
    .reg .asfOwnStat, .reg .pwrDomStat]
  | .logicAccessHeld _ _ => Piece.ofErrors ++ [.bytes, .dram, .poison, .pwr, .reg .genChmode, .reg .genChWait,
    .reg .pwrDomStat]
  | .memoryModeWindowExpiry _ => [.gen, .pwr, .reg .genChmode, .reg .pwrDomStat]
  | .refreshDue _ => [.gen]
  | .genChmodeWrite _ _ _ _ => [.gen, .pwr, .reg .genChmode, .reg .genChWait, .reg .pwrDomStat]
  | .genDraftCfgWrite _ _ _ => [.tiers, .gen, .reg .ldlMeta, .reg .ldlGroups, .reg .genDraftCfg, .reg .tirPool,
    .reg .tirLend, .reg .tirPeerCtrl, .reg .tirPeerUsed, .reg .tirOccLo, .reg .tirOccHi]
  | .draftCfgApply => [.tiers, .gen, .reg .ldlMeta, .reg .ldlGroups, .reg .genDraftCfg, .reg .tirPool, .reg .tirLend,
    .reg .tirPeerCtrl, .reg .tirPeerUsed, .reg .tirOccLo, .reg .tirOccHi]
  | .draftRingFillComplete _ => [.seqs, .tiers, .bytes, .dram, .poison]
  | .panelFillComplete _ _ _ _ => Piece.ofErrors ++ [.weights, .churn, .reg .cmpChurn, .reg .cmpErrInfo,
    .reg .cmpErrBlock]
  | .tileSramError _ _ _ _ _ => Piece.ofErrors ++ [.reg .prmStatus, .reg .prmSelftest, .reg .prmPart, .reg .prmGroup,
    .reg .prmTileMap, .reg .prmQrecTick, .reg .prmQrecInfo, .reg .plnQstate]
  | .replaySample _ _ => [.prm, .reg .prmReplayStat]
  | .replayCompare _ _ _ => Piece.ofErrors ++ [.reg .genChUnits, .reg .prmStatus, .reg .prmReplayStat,
    .reg .prmSelftest, .reg .prmPart, .reg .prmGroup, .reg .prmTileMap, .reg .prmQrecTick, .reg .prmQrecInfo,
    .reg .plnQstate]
  | .selfTest _ _ _ _ => Piece.ofErrors ++ [.reg .genChUnits, .reg .prmStatus, .reg .prmSelftest,
    .reg .prmSelftestTemp, .reg .prmSelftestTemp2, .reg .prmPart, .reg .prmGroup, .reg .prmTileMap,
    .reg .prmQrecTick, .reg .prmQrecInfo, .reg .plnQstate]
  | .pageStep _ => [.out, .buhorn, .seqs, .weights, .churn, .tiers, .ftl, .asf, .res, .pwr, .reg .cmdInflight,
    .reg .cmdReplyWait, .reg .ldlMeta, .reg .ldlGroups, .reg .cmpChurn, .reg .cmpStat, .reg .tirPool, .reg .tirLend,
    .reg .tirEvict, .reg .tirPeerCtrl, .reg .tirPeerUsed, .reg .tirOccLo, .reg .tirOccHi, .reg .asfCtxStat,
    .reg .pwrDomStat]
  | .migrationFlip _ _ => Piece.ofErrors ++ [.handles, .bytes, .ftl, .dram, .poison, .pwr, .reg .cmdAdmqCtrl,
    .reg .cmdQfault, .reg .cmdInflight, .reg .cmdReplyWait, .reg .ldlMeta, .reg .ldlWalkMiss, .reg .ldlQuantStat,
    .reg .ldlGroups, .reg .genChmode, .reg .genChWait, .reg .cmpErrInfo, .reg .cmpErrBlock, .reg .schPeriod,
    .reg .schSwapTick, .reg .schGroup, .reg .tirPool, .reg .tirLend, .reg .tirEvict, .reg .tirPeerCtrl,
    .reg .tirPeerUsed, .reg .tirOccLo, .reg .tirOccHi, .reg .asfPaging, .reg .asfCtxStat, .reg .asfEpoch,
    .reg .asfRxDrop, .reg .asfOwnStat, .reg .pwrDomStat]
  | .clockHandVisit => [.out, .tiers, .ftl, .asf, .pwr, .reg .ldlMeta, .reg .ldlGroups, .reg .tirPool, .reg .tirLend,
    .reg .tirPeerCtrl, .reg .tirPeerUsed, .reg .tirOccLo, .reg .tirOccHi, .reg .asfCtxStat, .reg .pwrDomStat]
  | .t2AgeTick => [.tiers]
  | .stallMaxExpiry _ _ => [.seqs, .parts, .tiers, .prm, .pwr, .reg .tirStall, .reg .pwrDomStat]
  | .tirPeerCtrlWrite _ _ _ _ => [.reg .tirPeerCtrl]
  | .flashReadComplete _ _ => Piece.ofErrors ++ [.handles, .bytes, .ftl, .dram, .poison, .pwr, .reg .cmdAdmqCtrl,
    .reg .cmdQfault, .reg .cmdInflight, .reg .cmdReplyWait, .reg .ldlMeta, .reg .ldlGroups, .reg .genChWait,
    .reg .cmpErrInfo, .reg .cmpErrBlock, .reg .schPeriod, .reg .schSwapTick, .reg .schGroup, .reg .tirPool,
    .reg .tirLend, .reg .tirEvict, .reg .tirPeerCtrl, .reg .tirPeerUsed, .reg .tirOccLo, .reg .tirOccHi,
    .reg .ftlLdpc, .reg .asfPaging, .reg .asfCtxStat, .reg .asfEpoch, .reg .asfRxDrop, .reg .asfOwnStat,
    .reg .pwrDomStat]
  | .flashProgramComplete _ _ => [.tiers, .ftl, .pwr, .reg .ldlMeta, .reg .ldlGroups, .reg .tirPool, .reg .tirLend,
    .reg .tirEvict, .reg .tirPeerCtrl, .reg .tirPeerUsed, .reg .tirOccLo, .reg .tirOccHi, .reg .pwrDomStat]
  | .journalCommit _ => [.freeCtr, .out, .buhorn, .tiers, .ftl, .asf, .pwr, .reg .cmdInflight, .reg .cmdReplyWait,
    .reg .ldlMeta, .reg .ldlGroups, .reg .tirPool, .reg .tirLend, .reg .tirEvict, .reg .tirPeerCtrl,
    .reg .tirPeerUsed, .reg .tirOccLo, .reg .tirOccHi, .reg .ftlHoldup, .reg .asfCtxStat, .reg .pwrDomStat]
  | .holdupRetry _ => [.freeCtr, .out, .buhorn, .weights, .tiers, .ftl, .asf, .pwr, .reg .cmdInflight,
    .reg .cmdReplyWait, .reg .ldlMeta, .reg .ldlGroups, .reg .tirPool, .reg .tirLend, .reg .tirEvict,
    .reg .tirPeerCtrl, .reg .tirPeerUsed, .reg .tirOccLo, .reg .tirOccHi, .reg .ftlHoldup, .reg .asfCtxStat,
    .reg .pwrDomStat]
  | .garbageCollection => [.ftl, .pwr, .reg .pwrDomStat]
  | .staticWearLevelling => [.ftl, .pwr, .reg .pwrDomStat]
  | .readDisturbRefresh _ => [.ftl, .pwr, .reg .pwrDomStat]
  | .retentionScrub _ _ _ => [.ftl, .pwr, .reg .pwrDomStat]
  | .grownBadBlock _ _ => Piece.ofErrors ++ [.ftl, .reg .ftlHealth]
  | .readReq _ => Piece.ofErrors ++ [.handles, .bytes, .ftl, .dram, .poison, .pwr, .reg .cmdAdmqCtrl,
    .reg .cmdQfault, .reg .cmdInflight, .reg .cmdReplyWait, .reg .ldlMeta, .reg .ldlGroups, .reg .genChmode,
    .reg .genChWait, .reg .cmpErrInfo, .reg .cmpErrBlock, .reg .schPeriod, .reg .schSwapTick, .reg .schGroup,
    .reg .tirPool, .reg .tirLend, .reg .tirEvict, .reg .tirPeerCtrl, .reg .tirPeerUsed, .reg .tirOccLo,
    .reg .tirOccHi, .reg .asfPaging, .reg .asfCtxStat, .reg .asfEpoch, .reg .asfRxDrop, .reg .asfOwnStat,
    .reg .pwrDomStat]
  | .readResp _ => Piece.ofErrors ++ [.handles, .tenants, .weights, .bytes, .ftl, .dram, .poison, .pwr,
    .reg .cmdAdmqCtrl, .reg .cmdQfault, .reg .cmdInflight, .reg .cmdReplyWait, .reg .ldlMeta, .reg .ldlBiasFix,
    .reg .ldlGroups, .reg .genChWait, .reg .genCrossover, .reg .cmpErrInfo, .reg .cmpErrBlock, .reg .schPeriod,
    .reg .schSwapTick, .reg .schGroup, .reg .schTenant, .reg .schTenantBudget, .reg .tirPool, .reg .tirLend,
    .reg .tirEvict, .reg .tirPeerCtrl, .reg .tirPeerUsed, .reg .tirOccLo, .reg .tirOccHi, .reg .ftlHoldup,
    .reg .asfPaging, .reg .asfCtxStat, .reg .asfEpoch, .reg .asfFault, .reg .asfRxDrop, .reg .asfOwnStat,
    .reg .resStat, .reg .pwrClassPoint, .reg .pwrDomStat]
  | .write _ _ => Piece.ofErrors ++ [.handles, .bytes, .ftl, .dram, .poison, .pwr, .reg .cmdAdmqCtrl,
    .reg .cmdQfault, .reg .cmdInflight, .reg .cmdReplyWait, .reg .ldlMeta, .reg .ldlGroups, .reg .genChmode,
    .reg .genChWait, .reg .cmpErrInfo, .reg .cmpErrBlock, .reg .schPeriod, .reg .schSwapTick, .reg .schGroup,
    .reg .tirPool, .reg .tirLend, .reg .tirEvict, .reg .tirPeerCtrl, .reg .tirPeerUsed, .reg .tirOccLo,
    .reg .tirOccHi, .reg .asfPaging, .reg .asfCtxStat, .reg .asfEpoch, .reg .asfRxDrop, .reg .asfOwnStat,
    .reg .pwrDomStat]
  | .writeImm _ => Piece.ofErrors ++ [.handles, .bytes, .ftl, .dram, .poison, .pwr, .reg .cmdAdmqCtrl,
    .reg .cmdQfault, .reg .cmdInflight, .reg .cmdReplyWait, .reg .ldlMeta, .reg .ldlGroups, .reg .genChmode,
    .reg .genChWait, .reg .cmpErrInfo, .reg .cmpErrBlock, .reg .schPeriod, .reg .schSwapTick, .reg .schGroup,
    .reg .tirPool, .reg .tirLend, .reg .tirEvict, .reg .tirPeerCtrl, .reg .tirPeerUsed, .reg .tirOccLo,
    .reg .tirOccHi, .reg .asfPaging, .reg .asfCtxStat, .reg .asfEpoch, .reg .asfRxDrop, .reg .asfOwnStat,
    .reg .pwrDomStat]
  | .fetchAdd _ => Piece.ofErrors ++ [.handles, .bytes, .ftl, .dram, .poison, .pwr, .reg .cmdAdmqCtrl,
    .reg .cmdQfault, .reg .cmdInflight, .reg .cmdReplyWait, .reg .ldlMeta, .reg .ldlGroups, .reg .genChmode,
    .reg .genChWait, .reg .cmpErrInfo, .reg .cmpErrBlock, .reg .schPeriod, .reg .schSwapTick, .reg .schGroup,
    .reg .tirPool, .reg .tirLend, .reg .tirEvict, .reg .tirPeerCtrl, .reg .tirPeerUsed, .reg .tirOccLo,
    .reg .tirOccHi, .reg .asfPaging, .reg .asfCtxStat, .reg .asfEpoch, .reg .asfRxDrop, .reg .asfOwnStat,
    .reg .pwrDomStat]
  | .swap _ => Piece.ofErrors ++ [.handles, .bytes, .ftl, .dram, .poison, .pwr, .reg .cmdAdmqCtrl, .reg .cmdQfault,
    .reg .cmdInflight, .reg .cmdReplyWait, .reg .ldlMeta, .reg .ldlGroups, .reg .genChmode, .reg .genChWait,
    .reg .cmpErrInfo, .reg .cmpErrBlock, .reg .schPeriod, .reg .schSwapTick, .reg .schGroup, .reg .tirPool,
    .reg .tirLend, .reg .tirEvict, .reg .tirPeerCtrl, .reg .tirPeerUsed, .reg .tirOccLo, .reg .tirOccHi,
    .reg .asfPaging, .reg .asfCtxStat, .reg .asfEpoch, .reg .asfRxDrop, .reg .asfOwnStat, .reg .pwrDomStat]
  | .cas _ => Piece.ofErrors ++ [.handles, .bytes, .ftl, .dram, .poison, .pwr, .reg .cmdAdmqCtrl, .reg .cmdQfault,
    .reg .cmdInflight, .reg .cmdReplyWait, .reg .ldlMeta, .reg .ldlGroups, .reg .genChmode, .reg .genChWait,
    .reg .cmpErrInfo, .reg .cmpErrBlock, .reg .schPeriod, .reg .schSwapTick, .reg .schGroup, .reg .tirPool,
    .reg .tirLend, .reg .tirEvict, .reg .tirPeerCtrl, .reg .tirPeerUsed, .reg .tirOccLo, .reg .tirOccHi,
    .reg .asfPaging, .reg .asfCtxStat, .reg .asfEpoch, .reg .asfRxDrop, .reg .asfOwnStat, .reg .pwrDomStat]
  | .atomicResp _ => Piece.ofErrors ++ [.handles, .tenants, .weights, .bytes, .ftl, .dram, .poison, .pwr,
    .reg .cmdAdmqCtrl, .reg .cmdQfault, .reg .cmdInflight, .reg .cmdReplyWait, .reg .ldlMeta, .reg .ldlBiasFix,
    .reg .ldlGroups, .reg .genChWait, .reg .genCrossover, .reg .cmpErrInfo, .reg .cmpErrBlock, .reg .schPeriod,
    .reg .schSwapTick, .reg .schGroup, .reg .schTenant, .reg .schTenantBudget, .reg .tirPool, .reg .tirLend,
    .reg .tirEvict, .reg .tirPeerCtrl, .reg .tirPeerUsed, .reg .tirOccLo, .reg .tirOccHi, .reg .ftlHoldup,
    .reg .asfPaging, .reg .asfCtxStat, .reg .asfEpoch, .reg .asfFault, .reg .asfRxDrop, .reg .asfOwnStat,
    .reg .resStat, .reg .pwrClassPoint, .reg .pwrDomStat]
  | .ack _ => Piece.ofErrors ++ [.handles, .tenants, .weights, .bytes, .ftl, .dram, .poison, .pwr, .reg .cmdAdmqCtrl,
    .reg .cmdQfault, .reg .cmdInflight, .reg .cmdReplyWait, .reg .ldlMeta, .reg .ldlGroups, .reg .genChWait,
    .reg .cmpErrInfo, .reg .cmpErrBlock, .reg .schPeriod, .reg .schSwapTick, .reg .schGroup, .reg .schTenant,
    .reg .schTenantBudget, .reg .tirPool, .reg .tirLend, .reg .tirEvict, .reg .tirPeerCtrl, .reg .tirPeerUsed,
    .reg .tirOccLo, .reg .tirOccHi, .reg .ftlHoldup, .reg .asfPaging, .reg .asfCtxStat, .reg .asfEpoch,
    .reg .asfFault, .reg .asfRxDrop, .reg .asfOwnStat, .reg .resStat, .reg .pwrClassPoint, .reg .pwrDomStat]
  | .nak _ => Piece.ofErrors ++ [.handles, .tenants, .weights, .bytes, .ftl, .dram, .poison, .pwr, .reg .cmdAdmqCtrl,
    .reg .cmdQfault, .reg .cmdInflight, .reg .cmdReplyWait, .reg .ldlMeta, .reg .ldlBiasFix, .reg .ldlGroups,
    .reg .genChWait, .reg .genCrossover, .reg .cmpErrInfo, .reg .cmpErrBlock, .reg .schPeriod, .reg .schSwapTick,
    .reg .schGroup, .reg .schTenant, .reg .schTenantBudget, .reg .tirPool, .reg .tirLend, .reg .tirEvict,
    .reg .tirPeerCtrl, .reg .tirPeerUsed, .reg .tirOccLo, .reg .tirOccHi, .reg .ftlHoldup, .reg .asfPaging,
    .reg .asfCtxStat, .reg .asfEpoch, .reg .asfFault, .reg .asfRxDrop, .reg .asfOwnStat, .reg .resStat,
    .reg .pwrClassPoint, .reg .pwrDomStat]
  | .connect _ => [.freeCtr, .out, .asf, .pwr, .reg .asfCtxStat, .reg .asfEpoch, .reg .asfRxDrop, .reg .pwrDomStat]
  | .connectAck _ => [.freeCtr, .out, .buhorn, .asf, .pwr, .reg .cmdInflight, .reg .cmdReplyWait, .reg .asfCtxStat,
    .reg .asfRxDrop, .reg .pwrDomStat]
  | .disconnect _ => Piece.ofErrors ++ [.handles, .tenants, .weights, .bytes, .ftl, .dram, .poison, .pwr,
    .reg .cmdAdmqCtrl, .reg .cmdQfault, .reg .cmdInflight, .reg .cmdReplyWait, .reg .ldlMeta, .reg .ldlGroups,
    .reg .genChWait, .reg .cmpErrInfo, .reg .cmpErrBlock, .reg .schPeriod, .reg .schSwapTick, .reg .schGroup,
    .reg .schTenant, .reg .schTenantBudget, .reg .tirPool, .reg .tirLend, .reg .tirEvict, .reg .tirPeerCtrl,
    .reg .tirPeerUsed, .reg .tirOccLo, .reg .tirOccHi, .reg .ftlHoldup, .reg .asfPaging, .reg .asfCtxStat,
    .reg .asfEpoch, .reg .asfFault, .reg .asfRxDrop, .reg .asfOwnStat, .reg .resStat, .reg .pwrClassPoint,
    .reg .pwrDomStat]
  | .disconnectAck _ => [.asf, .pwr, .reg .asfCtxStat, .reg .asfRxDrop, .reg .pwrDomStat]
  | .reservedOpFrame _ => [.pwr, .reg .asfRxDrop, .reg .pwrDomStat]
  | .ackTimer _ => [.asf]
  | .retransmissionTimeout _ => [.asf, .reg .asfEpoch]
  | .rnrWaitExpiry _ => [.asf, .reg .asfEpoch]
  | .retryAfterExpiry _ => [.asf, .reg .asfEpoch]
  | .contextFetchComplete _ _ => Piece.ofErrors ++ [.freeCtr, .handles, .tenants, .weights, .bytes, .ftl, .dram,
    .poison, .pwr, .reg .cmdAdmqCtrl, .reg .cmdQfault, .reg .cmdInflight, .reg .cmdReplyWait, .reg .ldlMeta,
    .reg .ldlGroups, .reg .genChmode, .reg .genChWait, .reg .cmpErrInfo, .reg .cmpErrBlock, .reg .schPeriod,
    .reg .schSwapTick, .reg .schGroup, .reg .schTenant, .reg .schTenantBudget, .reg .tirPool, .reg .tirLend,
    .reg .tirEvict, .reg .tirPeerCtrl, .reg .tirPeerUsed, .reg .tirOccLo, .reg .tirOccHi, .reg .ftlHoldup,
    .reg .asfPaging, .reg .asfCtxStat, .reg .asfEpoch, .reg .asfFault, .reg .asfRxDrop, .reg .asfOwnStat,
    .reg .resStat, .reg .pwrClassPoint, .reg .pwrDomStat]
  | .pagingStallLimit _ => Piece.ofErrors ++ [.handles, .bytes, .ftl, .dram, .poison, .pwr, .reg .cmdAdmqCtrl,
    .reg .cmdQfault, .reg .cmdInflight, .reg .cmdReplyWait, .reg .ldlMeta, .reg .ldlGroups, .reg .genChmode,
    .reg .genChWait, .reg .cmpErrInfo, .reg .cmpErrBlock, .reg .schPeriod, .reg .schSwapTick, .reg .schGroup,
    .reg .tirPool, .reg .tirLend, .reg .tirEvict, .reg .tirPeerCtrl, .reg .tirPeerUsed, .reg .tirOccLo,
    .reg .tirOccHi, .reg .asfPaging, .reg .asfCtxStat, .reg .asfEpoch, .reg .asfRxDrop, .reg .asfOwnStat,
    .reg .pwrDomStat]
  | .deadTargetTimeout _ => Piece.ofErrors ++ [.handles, .tenants, .weights, .bytes, .ftl, .dram, .poison, .pwr,
    .reg .cmdAdmqCtrl, .reg .cmdQfault, .reg .cmdInflight, .reg .cmdReplyWait, .reg .ldlMeta, .reg .ldlGroups,
    .reg .genChWait, .reg .cmpErrInfo, .reg .cmpErrBlock, .reg .schPeriod, .reg .schSwapTick, .reg .schGroup,
    .reg .schTenant, .reg .schTenantBudget, .reg .tirPool, .reg .tirLend, .reg .tirEvict, .reg .tirPeerCtrl,
    .reg .tirPeerUsed, .reg .tirOccLo, .reg .tirOccHi, .reg .ftlHoldup, .reg .asfPaging, .reg .asfCtxStat,
    .reg .asfEpoch, .reg .asfFault, .reg .asfRxDrop, .reg .asfOwnStat, .reg .resStat, .reg .pwrClassPoint,
    .reg .pwrDomStat]
  | .frameTxStart _ => [.out, .asf, .tmb, .shp, .pwr, .reg .asfEpoch, .reg .shpGateStat, .reg .pwrDomStat]
  | .portLinkDown _ => [.asf, .pwr, .reg .pwrDomStat]
  | .portLinkUp _ => [.asf, .pwr, .reg .pwrDomStat]
  | .oldEpochExpire => Piece.ofErrors ++ [.handles, .tenants, .weights, .bytes, .ftl, .dram, .poison, .pwr,
    .reg .cmdAdmqCtrl, .reg .cmdQfault, .reg .cmdInflight, .reg .cmdReplyWait, .reg .ldlMeta, .reg .ldlGroups,
    .reg .genChWait, .reg .cmpErrInfo, .reg .cmpErrBlock, .reg .schPeriod, .reg .schSwapTick, .reg .schGroup,
    .reg .schTenant, .reg .schTenantBudget, .reg .tirPool, .reg .tirLend, .reg .tirEvict, .reg .tirPeerCtrl,
    .reg .tirPeerUsed, .reg .tirOccLo, .reg .tirOccHi, .reg .ftlHoldup, .reg .asfPaging, .reg .asfCtxStat,
    .reg .asfEpoch, .reg .asfFault, .reg .asfRxDrop, .reg .asfOwnStat, .reg .resStat, .reg .pwrClassPoint,
    .reg .pwrDomStat]
  | .hostWindowWrite _ _ _ _ => Piece.ofErrors ++ [.handles, .tenants, .weights, .bytes, .ftl, .dram, .poison, .pwr,
    .reg .cmdAdmqCtrl, .reg .cmdQfault, .reg .cmdInflight, .reg .cmdReplyWait, .reg .ldlMeta, .reg .ldlGroups,
    .reg .genChWait, .reg .cmpErrInfo, .reg .cmpErrBlock, .reg .schPeriod, .reg .schSwapTick, .reg .schGroup,
    .reg .schTenant, .reg .schTenantBudget, .reg .tirPool, .reg .tirLend, .reg .tirEvict, .reg .tirPeerCtrl,
    .reg .tirPeerUsed, .reg .tirOccLo, .reg .tirOccHi, .reg .ftlHoldup, .reg .asfPaging, .reg .asfCtxStat,
    .reg .asfEpoch, .reg .asfFault, .reg .asfRxDrop, .reg .asfOwnStat, .reg .resStat, .reg .pwrClassPoint,
    .reg .pwrDomStat]
  | .hostWindowRead _ _ _ _ => Piece.ofErrors ++ [.handles, .tenants, .weights, .bytes, .ftl, .dram, .poison, .pwr,
    .reg .cmdAdmqCtrl, .reg .cmdQfault, .reg .cmdInflight, .reg .cmdReplyWait, .reg .ldlMeta, .reg .ldlGroups,
    .reg .genChWait, .reg .cmpErrInfo, .reg .cmpErrBlock, .reg .schPeriod, .reg .schSwapTick, .reg .schGroup,
    .reg .schTenant, .reg .schTenantBudget, .reg .tirPool, .reg .tirLend, .reg .tirEvict, .reg .tirPeerCtrl,
    .reg .tirPeerUsed, .reg .tirOccLo, .reg .tirOccHi, .reg .ftlHoldup, .reg .asfPaging, .reg .asfCtxStat,
    .reg .asfEpoch, .reg .asfFault, .reg .asfRxDrop, .reg .asfOwnStat, .reg .resStat, .reg .pwrClassPoint,
    .reg .pwrDomStat]
  | .hostWindowAtomic _ _ _ _ => Piece.ofErrors ++ [.handles, .tenants, .weights, .bytes, .ftl, .dram, .poison, .pwr,
    .reg .cmdAdmqCtrl, .reg .cmdQfault, .reg .cmdInflight, .reg .cmdReplyWait, .reg .ldlMeta, .reg .ldlGroups,
    .reg .genChWait, .reg .cmpErrInfo, .reg .cmpErrBlock, .reg .schPeriod, .reg .schSwapTick, .reg .schGroup,
    .reg .schTenant, .reg .schTenantBudget, .reg .tirPool, .reg .tirLend, .reg .tirEvict, .reg .tirPeerCtrl,
    .reg .tirPeerUsed, .reg .tirOccLo, .reg .tirOccHi, .reg .ftlHoldup, .reg .asfPaging, .reg .asfCtxStat,
    .reg .asfEpoch, .reg .asfFault, .reg .asfRxDrop, .reg .asfOwnStat, .reg .resStat, .reg .pwrClassPoint,
    .reg .pwrDomStat]
  | .asfRwinImm _ _ _ _ => Piece.ofErrors ++ [.handles, .tenants, .weights, .bytes, .ftl, .dram, .poison, .pwr,
    .reg .cmdAdmqCtrl, .reg .cmdQfault, .reg .cmdInflight, .reg .cmdReplyWait, .reg .ldlMeta, .reg .ldlGroups,
    .reg .genChWait, .reg .cmpErrInfo, .reg .cmpErrBlock, .reg .schPeriod, .reg .schSwapTick, .reg .schGroup,
    .reg .schTenant, .reg .schTenantBudget, .reg .tirPool, .reg .tirLend, .reg .tirEvict, .reg .tirPeerCtrl,
    .reg .tirPeerUsed, .reg .tirOccLo, .reg .tirOccHi, .reg .ftlHoldup, .reg .asfPaging, .reg .asfCtxStat,
    .reg .asfEpoch, .reg .asfFault, .reg .asfRxDrop, .reg .asfOwnStat, .reg .resStat, .reg .pwrClassPoint,
    .reg .pwrDomStat]
  | .asfOwnCmd _ _ _ => [.out, .buhorn, .tiers, .asf, .reg .cmdInflight, .reg .cmdReplyWait, .reg .ldlMeta,
    .reg .ldlGroups, .reg .tirPool, .reg .tirLend, .reg .tirPeerCtrl, .reg .tirPeerUsed, .reg .tirOccLo,
    .reg .tirOccHi, .reg .asfCtxStat, .reg .asfOwnStat]
  | .hostDramAccess _ _ => Piece.ofErrors ++ [.bytes, .dram, .poison, .staging, .pwr, .reg .genApertureHole,
    .reg .genChmode, .reg .genChWait, .reg .pwrDomStat]
  | .glbBar4CfgWrite _ _ _ => [.reg .glbBar4Cfg]
  | .copyCompare _ => Piece.ofErrors ++ [.tmb, .reg .tmbStat]
  | .timeReqTimer => Piece.ofErrors ++ [.tmb, .reg .tmbStat]
  | .timeReq _ _ _ => [.asf, .pwr, .reg .pwrDomStat]
  | .timeResp _ _ _ _ => Piece.ofErrors ++ [.now, .tmb, .pwr, .reg .tmbStat, .reg .tmbOffset, .reg .pwrDomStat]
  | .timeClkInLoss => Piece.ofErrors ++ [.tmb, .reg .tmbStat]
  | .timeClkInReturn => [.tmb, .reg .tmbStat]
  | .ptpMessage _ _ => Piece.ofErrors ++ [.now, .tmb, .reg .tmbStat, .reg .tmbOffset]
  | .syncPpsIn => Piece.ofErrors ++ [.now, .tmb, .reg .tmbStat, .reg .tmbOffset, .reg .tmbPpsInTs, .reg .pinInput]
  | .ppsLost => [.tmb, .reg .tmbStat]
  | .syncPpsOut => [.out, .tmb]
  | .tmbAdj _ _ _ => [.now, .tmb, .reg .tmbStat]
  | .gateEntryAdvance _ => [.shp, .reg .shpGateStat]
  | .gateArm _ _ _ _ => [.reg .shpGateCtrl, .reg .shpGateStat]
  | .gateCancel _ _ _ _ => [.reg .shpGateCtrl, .reg .shpGateStat]
  | .gateTakeover _ => [.shp, .reg .shpGateCtrl, .reg .shpGateStat]
  | .bucketRefill => [.shp]
  | .shpBucketWrite _ _ _ _ => [.shp, .reg .shpGrpBucket, .reg .shpBucket]
  | .queueSample => [.out, .shp]
  | .sliceRequest _ => [.freeCtr, .out, .tiers, .bytes, .ftl, .dram, .poison, .asf, .res, .reg .ldlMeta,
    .reg .ldlGroups, .reg .tirPool, .reg .tirLend, .reg .tirEvict, .reg .tirPeerCtrl, .reg .tirPeerUsed,
    .reg .tirOccLo, .reg .tirOccHi, .reg .resMirrorCfg]
  | .mirrorCopyComplete _ _ => [.out, .buhorn, .handles, .seqs, .parts, .tiers, .bytes, .ftl, .asf, .res,
    .reg .cmdInflight, .reg .cmdReplyWait, .reg .ldlMeta, .reg .ldlGroups, .reg .tirPool, .reg .tirLend,
    .reg .tirPeerCtrl, .reg .tirPeerUsed, .reg .tirOccLo, .reg .tirOccHi, .reg .asfCtxStat]
  | .heartbeatTimer => [.asf, .res]
  | .heartbeat _ => Piece.ofErrors ++ [.freeCtr, .handles, .tenants, .weights, .bytes, .ftl, .dram, .poison, .pwr,
    .reg .cmdAdmqCtrl, .reg .cmdQfault, .reg .cmdInflight, .reg .cmdReplyWait, .reg .ldlMeta, .reg .ldlGroups,
    .reg .genChWait, .reg .cmpErrInfo, .reg .cmpErrBlock, .reg .schPeriod, .reg .schSwapTick, .reg .schGroup,
    .reg .schTenant, .reg .schTenantBudget, .reg .tirPool, .reg .tirLend, .reg .tirEvict, .reg .tirPeerCtrl,
    .reg .tirPeerUsed, .reg .tirOccLo, .reg .tirOccHi, .reg .ftlHoldup, .reg .asfPaging, .reg .asfCtxStat,
    .reg .asfEpoch, .reg .asfFault, .reg .asfRxDrop, .reg .asfOwnStat, .reg .resMgr, .reg .resStat,
    .reg .resMirrorCfg, .reg .resRecast, .reg .pwrClassPoint, .reg .pwrDomStat]
  | .suspicionTimer _ => [.asf, .res]
  | .lossTimer _ => Piece.ofErrors ++ [.freeCtr, .handles, .tenants, .weights, .bytes, .ftl, .dram, .poison, .pwr,
    .reg .cmdAdmqCtrl, .reg .cmdQfault, .reg .cmdInflight, .reg .cmdReplyWait, .reg .ldlMeta, .reg .ldlGroups,
    .reg .genChWait, .reg .cmpErrInfo, .reg .cmpErrBlock, .reg .schPeriod, .reg .schSwapTick, .reg .schGroup,
    .reg .schTenant, .reg .schTenantBudget, .reg .tirPool, .reg .tirLend, .reg .tirEvict, .reg .tirPeerCtrl,
    .reg .tirPeerUsed, .reg .tirOccLo, .reg .tirOccHi, .reg .ftlHoldup, .reg .asfPaging, .reg .asfCtxStat,
    .reg .asfEpoch, .reg .asfFault, .reg .asfRxDrop, .reg .asfOwnStat, .reg .resStat, .reg .resMirrorCfg,
    .reg .resRecast, .reg .pwrClassPoint, .reg .pwrDomStat]
  | .probe _ => [.asf, .res, .pwr, .reg .asfRxDrop, .reg .pwrDomStat]
  | .decision _ => Piece.ofErrors ++ [.freeCtr, .handles, .tenants, .weights, .bytes, .ftl, .dram, .poison, .pwr,
    .reg .cmdAdmqCtrl, .reg .cmdQfault, .reg .cmdInflight, .reg .cmdReplyWait, .reg .ldlMeta, .reg .ldlGroups,
    .reg .genChWait, .reg .cmpErrInfo, .reg .cmpErrBlock, .reg .schPeriod, .reg .schSwapTick, .reg .schGroup,
    .reg .schTenant, .reg .schTenantBudget, .reg .tirPool, .reg .tirLend, .reg .tirEvict, .reg .tirPeerCtrl,
    .reg .tirPeerUsed, .reg .tirOccLo, .reg .tirOccHi, .reg .ftlHoldup, .reg .asfPaging, .reg .asfCtxStat,
    .reg .asfEpoch, .reg .asfFault, .reg .asfRxDrop, .reg .asfOwnStat, .reg .resMgr, .reg .resStat,
    .reg .resMirrorCfg, .reg .resRecast, .reg .pwrClassPoint, .reg .pwrDomStat]
  | .decisionResend => [.asf, .res]
  | .deputyTakeoverTimer => Piece.ofErrors ++ [.freeCtr, .handles, .tenants, .weights, .bytes, .ftl, .dram, .poison,
    .pwr, .reg .cmdAdmqCtrl, .reg .cmdQfault, .reg .cmdInflight, .reg .cmdReplyWait, .reg .ldlMeta, .reg .ldlGroups,
    .reg .genChWait, .reg .cmpErrInfo, .reg .cmpErrBlock, .reg .schPeriod, .reg .schSwapTick, .reg .schGroup,
    .reg .schTenant, .reg .schTenantBudget, .reg .tirPool, .reg .tirLend, .reg .tirEvict, .reg .tirPeerCtrl,
    .reg .tirPeerUsed, .reg .tirOccLo, .reg .tirOccHi, .reg .ftlHoldup, .reg .asfPaging, .reg .asfCtxStat,
    .reg .asfEpoch, .reg .asfFault, .reg .asfRxDrop, .reg .asfOwnStat, .reg .resMgr, .reg .resStat,
    .reg .resMirrorCfg, .reg .resRecast, .reg .pwrClassPoint, .reg .pwrDomStat]
  | .takeover _ => Piece.ofErrors ++ [.pwr, .reg .asfRxDrop, .reg .resMgr, .reg .resStat, .reg .pwrDomStat]
  | .spareRetryTimer => [.out, .tiers, .asf, .res, .reg .ldlMeta, .reg .ldlGroups, .reg .tirPool, .reg .tirLend,
    .reg .tirPeerCtrl, .reg .tirPeerUsed, .reg .tirOccLo, .reg .tirOccHi, .reg .resStat, .reg .resMirrorCfg,
    .reg .resRecast]
  | .recastFlip _ _ => [.freeCtr, .out, .buhorn, .handles, .seqs, .parts, .tiers, .bytes, .ftl, .dram, .poison, .asf,
    .res, .reg .cmdInflight, .reg .cmdReplyWait, .reg .ldlMeta, .reg .ldlGroups, .reg .tirPool, .reg .tirLend,
    .reg .tirEvict, .reg .tirPeerCtrl, .reg .tirPeerUsed, .reg .tirOccLo, .reg .tirOccHi, .reg .asfCtxStat,
    .reg .resStat, .reg .resMirrorCfg, .reg .resRecast]
  | .errorRaised _ => Piece.ofErrors
  | .ceMergeWindowEnd _ _ _ => Piece.ofErrors
  | .ceThresholdWindowEnd => [.res]
  | .glbErrlogCtrlWrite _ _ _ => [.out, .res, .reg .resErrStat, .reg .glbErrlogCtrl]
  | .domainIdleTimer _ => [.gen, .prm, .pwr, .reg .genChWait, .reg .genChEcc, .reg .pwrRefuse, .reg .pwrDomStat]
  | .rindWake _ _ => [.pwr, .reg .pwrDomStat]
  | .scheduledWake _ => [.pwr, .reg .pwrDomStat]
  | .domainWakeComplete _ _ => Piece.ofErrors ++ [.handles, .bytes, .ftl, .dram, .poison, .pwr, .reg .cmdAdmqCtrl,
    .reg .cmdQfault, .reg .cmdInflight, .reg .cmdReplyWait, .reg .ldlMeta, .reg .ldlGroups, .reg .genChmode,
    .reg .genChWait, .reg .genChEcc, .reg .cmpErrInfo, .reg .cmpErrBlock, .reg .schPeriod, .reg .schSwapTick,
    .reg .schGroup, .reg .tirPool, .reg .tirLend, .reg .tirEvict, .reg .tirPeerCtrl, .reg .tirPeerUsed,
    .reg .tirOccLo, .reg .tirOccHi, .reg .asfPaging, .reg .asfCtxStat, .reg .asfEpoch, .reg .asfRxDrop,
    .reg .asfOwnStat, .reg .pwrDomStat]
  | .c3Entry => [.out, .gen, .prm, .pwr, .reg .genChWait, .reg .genChEcc, .reg .pwrDevStat, .reg .pwrRefuse,
    .reg .pwrDomStat]
  | .c3Exit _ => [.out, .pwr, .reg .pwrDevStat, .reg .pwrDomStat]
  | .c5Entry => [.freeCtr, .out, .buhorn, .parts, .gen, .prm, .asf, .pwr, .sec, .trace, .reg .cmdInflight,
    .reg .cmdReplyWait, .reg .genChWait, .reg .genChEcc, .reg .asfCtxStat, .reg .pwrDevStat, .reg .pwrRefuse,
    .reg .pwrDomStat, .reg .secDebug, .reg .dbgTraceStat, .reg .dbgHalt, .reg .glbLifecycle]
  | .c5Exit _ _ => Piece.ofErrors ++ [.freeCtr, .pwr, .sec, .reg .tmbStat, .reg .pwrDevStat, .reg .pwrDomStat,
    .reg .secDbgNonce0, .reg .secDbgNonce1, .reg .plnBoot]
  | .cappingWindow _ => Piece.ofErrors ++ [.pwr, .reg .pwrCap, .reg .pwrCtrlStat, .reg .pwrEnergyTotal,
    .reg .pwrEnergyUnattr, .reg .pwrJobStat, .reg .pwrNeed, .reg .pwrDomStat]
  | .avsRaise _ => [.out, .pwr]
  | .vdonePoll _ _ _ => [.out, .pwr, .reg .pwrDomStat]
  | .vdoneTimeout => Piece.ofErrors ++ [.pwr, .reg .pwrAvsStat]
  | .avsBusyRetry _ => Piece.ofErrors ++ [.pwr, .reg .pwrAvsStat]
  | .droop _ => Piece.ofErrors ++ [.pwr, .reg .pwrDomStat]
  | .pwrLimitN _ => [.out, .pwr, .pln, .reg .pwrLimitCfg, .reg .pwrDomStat, .reg .pinInput]
  | .powerLimitHoldExpiry => [.pwr, .reg .pwrLimitCfg]
  | .thermalSample _ _ => Piece.ofErrors ++ [.pwr, .reg .pwrTherm, .reg .pwrDomStat]
  | .throttleStepTimer _ => [.pwr, .reg .pwrTherm, .reg .pwrDomStat]
  | .rackSharePeriod => [.freeCtr, .out, .tiers, .ftl, .asf, .pwr, .reg .ldlMeta, .reg .ldlGroups, .reg .tirPool,
    .reg .tirLend, .reg .tirEvict, .reg .tirPeerCtrl, .reg .tirPeerUsed, .reg .tirOccLo, .reg .tirOccHi,
    .reg .pwrCap, .reg .pwrRack]
  | .demandRecord => [.out, .pwr]
  | .shareRecord _ => [.pwr, .reg .pwrCap]
  | .shareFailsafe => Piece.ofErrors ++ [.pwr, .reg .pwrCap]
  | .cmpDramXtsWrite _ _ _ => [.freeCtr, .sec, .reg .cmpStat, .reg .cmpDramXts]
  | .schTenantWrite _ _ _ _ => [.reg .schTenant]
  | .schPartWrite _ _ _ _ => [.reg .schPart]
  | .registerWrite _ _ _ _ => Piece.allRegs ++ [.restart, .now, .freeCtr, .msix, .out, .buhorn, .handles, .seqs,
    .parts, .tenants, .weights, .tiers, .bytes, .ftl, .dram, .poison, .staging, .gen, .prm, .asf, .tmb, .shp, .res,
    .pwr, .sec, .trace, .pln]
  | .secRecoveryGo _ _ _ => Piece.ofErrors ++ [.staging, .sec, .reg .secBoot, .reg .secRecovery, .reg .plnBoot]
  | .dbgHaltResume _ _ _ _ => [.out, .buhorn, .parts, .asf, .reg .cmdInflight, .reg .cmdReplyWait, .reg .asfCtxStat,
    .reg .dbgHalt]
  | .dbgGstopAssert _ _ _ => [.out, .trace, .pln, .reg .dbgTraceStat, .reg .dbgGstop]
  | .plaster _ _ => Piece.ofErrors ++ [.sec, .reg .secBoot]
  | .jtagGstop => [.out, .trace, .pln, .reg .dbgTraceStat, .reg .dbgGstop]
  | .jtagBoundaryTakeover => Piece.ofErrors
  | .breakpointHit _ => [.out, .buhorn, .seqs, .parts, .asf, .reg .cmdInflight, .reg .cmdReplyWait, .reg .asfCtxStat,
    .reg .dbgHalt]
  | .traceFrame => [.out, .trace, .reg .dbgTraceStat]
  | .traceRecord _ => [.trace, .reg .dbgTraceStat]
  | .getVersion => [.out, .sec]
  | .getCapabilities => [.out, .sec]
  | .negotiateAlgorithms _ => [.out, .sec]
  | .getDigests => [.out, .sec]
  | .getCertificate _ _ _ => [.out, .sec]
  | .challenge _ => [.freeCtr, .out, .sec]
  | .getMeasurements _ _ => [.out, .sec]
  | .keyExchange _ => [.freeCtr, .out, .sec]
  | .finish _ => [.out, .sec]
  | .spdmHeartbeat => [.out, .sec]
  | .keyUpdate _ => [.out, .sec]
  | .endSession => [.out, .sec]
  | .chunkGet _ => [.out, .sec]
  | .setNodeKey _ _ _ _ _ => Piece.ofErrors ++ [.handles, .tenants, .weights, .bytes, .ftl, .dram, .poison, .pwr,
    .sec, .reg .cmdAdmqCtrl, .reg .cmdQfault, .reg .cmdInflight, .reg .cmdReplyWait, .reg .ldlMeta, .reg .ldlGroups,
    .reg .genChWait, .reg .cmpErrInfo, .reg .cmpErrBlock, .reg .schPeriod, .reg .schSwapTick, .reg .schGroup,
    .reg .schTenant, .reg .schTenantBudget, .reg .tirPool, .reg .tirLend, .reg .tirEvict, .reg .tirPeerCtrl,
    .reg .tirPeerUsed, .reg .tirOccLo, .reg .tirOccHi, .reg .ftlHoldup, .reg .asfPaging, .reg .asfCtxStat,
    .reg .asfEpoch, .reg .asfFault, .reg .asfRxDrop, .reg .asfOwnStat, .reg .resStat, .reg .pwrClassPoint,
    .reg .pwrDomStat]
  | .spdmUnsupportedRequest _ => [.out]
  | .coldStart _ => Piece.all
  | .railSequenceStart => [.out, .pln, .reg .plnBoot]
  | .railInRange => [.out, .pln]
  | .railFault => [.restart, .out, .res, .trace, .pln, .reg .resErrStat, .reg .resPlinthRec, .reg .dbgTraceStat,
    .reg .glbErrlogCtrl, .reg .glbErrStat]
  | .clocksLocked => [.out, .pwr, .trace, .pln, .reg .pwrLimitCfg, .reg .pwrDomStat, .reg .dbgTraceStat,
    .reg .dbgGstop, .reg .plnBoot]
  | .dramInitComplete => [.dram, .poison]
  | .bootVerify _ _ => Piece.ofErrors ++ [.sec, .reg .secBoot, .reg .secRecovery, .reg .plnBoot, .reg .glbCap1]
  | .diceDerivationComplete _ => Piece.ofErrors ++ [.freeCtr, .sec, .reg .plnBoot]
  | .firmwareInitComplete _ => Piece.ofErrors ++ [.freeCtr, .pwr, .reg .genChUnits, .reg .prmStatus,
    .reg .prmSelftest, .reg .prmPart, .reg .prmGroup, .reg .prmTileMap, .reg .prmQrecTick, .reg .prmQrecInfo,
    .reg .pwrDomStat, .reg .dbgHalt, .reg .plnBoot, .reg .plnQstate]
  | .ftlInService _ => Piece.ofErrors ++ [.ftl, .reg .ldlMeta, .reg .ldlGroups, .reg .tirPool, .reg .tirLend,
    .reg .tirPeerCtrl, .reg .tirPeerUsed, .reg .tirOccLo, .reg .tirOccHi, .reg .ftlHealth, .reg .glbCap1]
  | .xtalAbsent => Piece.ofErrors ++ [.reg .pwrDevCfg, .reg .plnBoot]
  | .refAbsent => [.out, .res, .trace, .pln, .reg .resErrStat, .reg .resPlinthRec, .reg .dbgTraceStat, .reg .plnBoot,
    .reg .glbErrlogCtrl, .reg .glbErrStat]
  | .portRefAbsent _ => Piece.ofErrors ++ [.pwr, .reg .pwrDomStat]
  | .perstN _ => [.restart, .out, .pwr, .trace, .pln, .reg .pwrLimitCfg, .reg .pwrDomStat, .reg .dbgTraceStat,
    .reg .dbgGstop, .reg .plnBoot, .reg .pinInput]
  | .pcieHotReset => [.restart, .out, .pwr, .trace, .pln, .reg .pwrLimitCfg, .reg .pwrDomStat, .reg .dbgTraceStat,
    .reg .dbgGstop, .reg .plnBoot]
  | .pcieLinkDown => Piece.ofErrors ++ [.sec]
  | .functionLevelReset _ => [.msix, .out, .buhorn, .handles, .seqs, .parts, .tiers, .bytes, .ftl, .gen, .prm, .asf,
    .res, .reg .cmdAdmqCtrl, .reg .cmdInflight, .reg .cmdReplyWait, .reg .ldlMeta, .reg .ldlGroups, .reg .schPart,
    .reg .schPeriod, .reg .schSwapTick, .reg .schReset, .reg .tirPool, .reg .tirLend, .reg .tirPeerCtrl,
    .reg .tirPeerUsed, .reg .tirOccLo, .reg .tirOccHi, .reg .asfCtxStat, .reg .asfNotifyCtrl, .reg .asfRwinCtrl]
  | .gstopN _ => [.out, .trace, .pln, .reg .dbgTraceStat, .reg .dbgGstop, .reg .pinInput]
  | .pfailN _ => [.out, .buhorn, .asf, .sec, .pln, .reg .cmdInflight, .reg .cmdReplyWait, .reg .asfCtxStat,
    .reg .pinInput]
  | .wakeN _ => Piece.ofErrors ++ [.freeCtr, .pwr, .sec, .reg .tmbStat, .reg .pwrDevStat, .reg .pwrDomStat,
    .reg .secDbgNonce0, .reg .secDbgNonce1, .reg .plnBoot, .reg .pinInput]
  | .alertN _ => [.out, .pln, .reg .pinInput]
  | .holdupOk _ => [.pln, .reg .pinInput]
  | .inputEventWindowEnd _ => Piece.ofErrors ++ [.freeCtr, .pwr, .sec, .reg .cmdInflight, .reg .cmdReplyWait,
    .reg .asfCtxStat, .reg .tmbStat, .reg .pwrDevStat, .reg .pwrLimitCfg, .reg .pwrDomStat, .reg .secDbgNonce0,
    .reg .secDbgNonce1, .reg .plnBoot, .reg .pinInput]
  | .inputStuck _ => Piece.ofErrors ++ [.reg .pinInput]
  | .status => [.out, .pln]
  | .temps => [.out]
  | .power => [.out]
  | .inputs => [.out]
  | .record => [.out, .res]
  | .boardCap _ _ => [.out, .reg .pwrCap]
  | .rackBudget _ _ => [.out, .reg .pwrRack]
  | .recovery _ _ => [.out, .pln, .reg .plnBoot]
  | .powerOn _ _ => [.out, .pln, .reg .plnBoot]
  | .powerOff _ _ => [.restart, .out, .buhorn, .parts, .pln]
  | .stayOff _ _ => [.out, .pln, .reg .plnBoot]
  | .setAddr _ _ => [.out, .pln]
  | .alertResponseAddress => [.out]
  | .abandonedAnswer _ => [.out, .buhorn, .seqs, .parts, .tiers, .asf, .reg .cmdInflight, .reg .cmdReplyWait,
    .reg .asfCtxStat]
  | .jtagBoundaryRelease => [.restart, .pln]
  | .pcieLinkUp => [.out, .res, .pln, .reg .resErrStat, .reg .glbErrlogCtrl]
  | .secFuseProgWrite _ _ _ _ => [.sec]
  | .ideKmRequest _ _ _ => [.out, .sec]
  | .coreWatchdog _ => Piece.ofErrors
  | .flashEraseComplete _ _ => [.ftl, .pwr, .reg .ftlHealth, .reg .pwrDomStat]
  | .hostReadCompletion _ => Piece.ofErrors ++ [.freeCtr, .handles, .tenants, .weights, .bytes, .ftl, .dram, .poison,
    .pwr, .reg .cmdAdmqCtrl, .reg .cmdQfault, .reg .cmdInflight, .reg .cmdReplyWait, .reg .ldlMeta, .reg .ldlGroups,
    .reg .genChmode, .reg .genChWait, .reg .cmpErrInfo, .reg .cmpErrBlock, .reg .schPeriod, .reg .schSwapTick,
    .reg .schGroup, .reg .schTenant, .reg .schTenantBudget, .reg .tirPool, .reg .tirLend, .reg .tirEvict,
    .reg .tirPeerCtrl, .reg .tirPeerUsed, .reg .tirOccLo, .reg .tirOccHi, .reg .ftlHoldup, .reg .asfPaging,
    .reg .asfCtxStat, .reg .asfEpoch, .reg .asfFault, .reg .asfRxDrop, .reg .asfOwnStat, .reg .resStat,
    .reg .pwrClassPoint, .reg .pwrDomStat]
  | .suppliesRemoved _ => [.restart, .out, .pln]

/-- The device reset itself at this very tick (R406, R475), which a command may end in that touches `restart`. Of the few
commands that also touch the master count this says nothing more. -/
def mayRestart (i : Instr) (s t : State) : Prop :=
  Piece.restart ∈ touches i ∧ (Piece.now ∈ touches i ∨ t.pln.resetAt = s.now)

end Sys2Proof.Machine
end

