-- ==== Sys2Proof/Certificates/Slice0/Obligations.lean ====
section
/-! DEFINITION. The statements for the provers: what the commands of each family do, the rules that the spec states outright, the
frame of every command and the invariant that every step keeps. A statement's docstring names the rules it speaks of, and the log
entries of the model's own choices that it leans on. -/

set_option Elab.async false

open Sys2Proof Sys2Proof.Machine

/-- The administration, power and tenant commands complete: each, accepted and due, has the effect named and answers its reply;
PARTITION_CONFIG gives a partition its tile groups, its privilege, its channels and its queue quota, where none of R172's bars
holds. The effect of a packet whose opcode no table lists is its reply with BAD_OPCODE (16), as the packet leaves its queue
(R66, R74, R172, R254, R257, R435, R440, R449, R532). The model's own choices in it: log entries 27, 29. -/
def Obligations.AdminCommandsComplete : Prop :=
  (∀ s c q, s.handsOn c.pkt.opcode.toNat c q = true → listedOps.contains c.pkt.opcode.toNat = false →
    exec (.badOpcodeCommand c) s = .next ((s.modQueue c.queue.toNat Queue.took).reply
      ⟨c.pkt.tag.toNat, 0x10, c.pkt.opcode.toNat, c.queue.toNat, 0, 0, 0⟩)) ∧
  (∀ s c d e, s.takes 0x00 c [] 0 d e →
    exec (.identify c) s = .next ((e.putBuffer d (d.par 16 8) (e.identity d.fn)).finish d.id 0 0 0)) ∧
  (∀ s c d e, s.takes 0xF0 c [] 0 d e → exec (.nop c) s = .next (e.finish d.id 0 0 0)) ∧
  (∀ s c d e, s.takes 0x61 c [] 0 d e →
    exec (.pwrCapSet c) s = .next ((e.setFld pwrCap_host 0 (d.par 16 2)).finish d.id 0 0 0)) ∧
  (∀ s c d e, s.takes 0x62 c [] 0 d e → d.par 16 1 ≠ 1 →
    exec (.jobEnergy c) s = .next (e.finish d.id 0 0 (e.jobEnergy d.fn d.obj / 1000 % 2 ^ 64))) ∧
  (∀ s c d e, s.takes 0x62 c [] 0 d e → d.par 16 1 = 1 →
    exec (.jobEnergy c) s =
      .next ((e.clearJob d.fn d.obj).finish d.id 0 0 (e.jobEnergy d.fn d.obj / 1000 % 2 ^ 64))) ∧
  (∀ s c d e, s.takes 0x60 c [] 0 d e →
    exec (.pwrClassPoint c) s =
      .next ((e.setFld (classPointField (d.par 16 1)) d.obj (d.par 17 1)).afterRelease d 0 0 0)) ∧
  (∀ s c d e, s.takes 0x70 c [] 0 d e → e.tenantAllowed d.fn d.part d.obj = true →
    exec (.tenantSet c) s =
      .next ((e.setTenant d.obj ((e.tenant d.obj).set (d.par 16 4) (d.par 20 4) e.now)).afterRelease d 0 0 0)) ∧
  (∀ s c d e, s.takes 0x71 c [] 0 d e → e.tenantAllowed d.fn (e.fld schTenant_partition d.obj) d.obj = true →
    exec (.tenantQuery c) s = .next (e.finish d.id 0 0 (wholeTokens (e.tenant d.obj).budget))) ∧
  (∀ s c d e, s.takes 0x04 c [] 0 d e →
    (e.groupsOf d.obj).length + e.fld prmStatus_groupsFree 0 ≥ d.par 16 1 →
    (d.par 17 1 = 1 → e.flag prmPart_privileged d.obj = true ∨ e.privileged.length < 4) →
    (d.par 16 1 = (e.groupsOf d.obj).length ∨
      e.seqs.all (fun q => !(q.2.part = d.obj && (q.2.state = .prefilling || q.2.state = .stepping))) = true) →
    tableExceeds (e.part d.obj).active (d.par 16 1) (d.par 24 8) = false →
    tableExceeds (e.part d.obj).shadow (d.par 16 1) (d.par 24 8) = false →
    e.queuesUsed (fnOf d.obj) ≤ d.par 18 1 →
    exec (.partitionConfig c) s =
      .next ((((e.setGroups d.obj (d.par 16 1)).setFlag prmPart_privileged d.obj (d.par 17 1 = 1)).modPart d.obj
        fun x => { x with channelMask := d.par 24 8, quota := d.par 18 1 }).finish d.id 0 0 0))

/-- A role change is accepted while no sequence handle is open in any partition, and otherwise returns WRONG_STATE (19) and
leaves the role unchanged: the command's only effect is its reply (R3). -/
def Obligations.RoleChangesOnlyWithoutSequences : Prop :=
  ∀ s c d e, s.takes 0x03 c [] 0 d e →
    (e.seqs.all (fun x => x.2.state = .free) = true → exec (.roleSet c) s = .next (((e.setFld glbFn_role 0 (d.par 16 1)).askSlices).finish d.id 0 0 0)) ∧
    (e.seqs.all (fun x => x.2.state = .free) = false → exec (.roleSet c) s = .next (e.finish d.id 0x13 0 0) ∧
      (e.finish d.id 0x13 0 0).fld glbFn_role 0 = s.fld glbFn_role 0)

/-- A packet that its queue hands on is refused with BAD_PARAM (17) where a reserved bit is set or a parameter is out of range,
and with ACCESS_DENIED (48) where its function may not send it; one whose opcode no table lists is refused with BAD_OPCODE (16).
The packet leaves its queue and the reply is written, and the command is not entered. The first two are said of the operation
that runs the packet of every command row, and of the rows NOP and ROLE_SET by name (R54, R61, R66, R67). The model's own
choices in it: log entry 4. -/
def Obligations.RefusedCommandsReplyAndAreNotEntered : Prop :=
  (∀ s op c q words code effect after, s.handsOn op c q = true → (reservedOk c.pkt && paramsOk s q.fn c.pkt) = false →
    s.commandThen op c words code effect after = (s.modQueue c.queue.toNat Queue.took).reply
      ⟨c.pkt.tag.toNat, 0x11, c.pkt.opcode.toNat, c.queue.toNat, 0, 0, 0⟩) ∧
  (∀ s op c q words code effect after, s.handsOn op c q = true → (reservedOk c.pkt && paramsOk s q.fn c.pkt) = true →
    rightsOk s q.fn c.pkt = false →
    s.commandThen op c words code effect after = (s.modQueue c.queue.toNat Queue.took).reply
      ⟨c.pkt.tag.toNat, 0x30, c.pkt.opcode.toNat, c.queue.toNat, 0, 0, 0⟩) ∧
  (∀ s c q, s.handsOn 0xF0 c q = true → (reservedOk c.pkt && paramsOk s q.fn c.pkt) = false →
    exec (.nop c) s = .next ((s.modQueue c.queue.toNat Queue.took).reply
      ⟨c.pkt.tag.toNat, 0x11, c.pkt.opcode.toNat, c.queue.toNat, 0, 0, 0⟩)) ∧
  (∀ s c q, s.handsOn 0x03 c q = true → (reservedOk c.pkt && paramsOk s q.fn c.pkt) = true → rightsOk s q.fn c.pkt = false →
    exec (.roleSet c) s = .next ((s.modQueue c.queue.toNat Queue.took).reply
      ⟨c.pkt.tag.toNat, 0x30, c.pkt.opcode.toNat, c.queue.toNat, 0, 0, 0⟩)) ∧
  (∀ s c q, s.handsOn c.pkt.opcode.toNat c q = true → listedOps.contains c.pkt.opcode.toNat = false →
    exec (.badOpcodeCommand c) s = .next ((s.modQueue c.queue.toNat Queue.took).reply
      ⟨c.pkt.tag.toNat, 0x10, c.pkt.opcode.toNat, c.queue.toNat, 0, 0, 0⟩))

/-- A class-B command of a partition with an active table is entered and waits for its boundary, with no effect of its own yet;
SEQ_STEP_ENABLE and SEQ_RESUME begin the fetch of their sequence's pages. A TENANT_SET of the management function waits where
its tenant is valid (R40, R64, R67). The model's own choices in it: log entry 43. -/
def Obligations.ClassBCommandsWaitForTheBoundary : Prop :=
  ∀ s c q, s.passes c q = true → isClassB c.pkt.opcode.toNat = true →
    c.pkt.opcode.toNat ≠ 0x70 ∨ q.fn ≠ 0 ∨ s.flag schTenant_valid c.pkt.object.toNat = true →
    s.hasTable (s.boundaryPart q.fn c.pkt) = true →
    (s.handsOn 0x12 c q = true → exec (.seqStepEnable c) s = .next
      ((s.enter c (s.pend c q.fn [] 0)).fetchNamed (q.fn - 1) (c.pkt.object.toNat % 2 ^ 18))) ∧
    (s.handsOn 0x13 c q = true → exec (.seqPause c) s = .next (s.enter c (s.pend c q.fn [] 0))) ∧
    (s.handsOn 0x14 c q = true → exec (.seqResume c) s = .next
      ((s.enter c (s.pend c q.fn [] 0)).fetchNamed (q.fn - 1) (c.pkt.object.toNat % 2 ^ 18))) ∧
    (s.handsOn 0x15 c q = true → exec (.seqCancel c) s = .next (s.enter c (s.pend c q.fn [] 0))) ∧
    (s.handsOn 0x16 c q = true → exec (.seqClose c) s = .next (s.enter c (s.pend c q.fn [] 0))) ∧
    (s.handsOn 0x60 c q = true → exec (.pwrClassPoint c) s = .next (s.enter c (s.pend c q.fn [] 0))) ∧
    (s.handsOn 0x70 c q = true → exec (.tenantSet c) s = .next (s.enter c (s.pend c q.fn [] 0)))

/-- The queue commands and doorbells complete: a queue is created and deleted, a doorbell moves its index, a fetch takes the
slots that the host has written and then a burst of the next queue, the administration registers are written, and packets that
come from host memory join those held (R45, R48, R49, R51, R52, R74, R75, R81). The model's own choices in it: log entries 17,
18, 19, 119. -/
def Obligations.QueueCommandsComplete : Prop :=
  (∀ s c d e, s.takes 0x01 c [] 0 d e → e.queue d.obj = none →
    (d.newQueue.kind = 2 → e.tokenRing (d.newQueue.fn - 1) = none) →
    e.queuesUsed d.newQueue.fn < (e.part (d.newQueue.fn - 1)).quota →
    (d.newQueue.kind = 0 → e.replyQueueOk d.newQueue.reply d.newQueue.fn = true) →
    exec (.queueCreate c) s = .next (((e.addQueue d.obj d.newQueue).drainQueue d.obj d.newQueue).finish d.id 0 0 0)) ∧
  (∀ s c d e x, s.takes 0x02 c [] 0 d e → e.queue d.obj = some x → x.kind = 3 →
    exec (.queueDelete c) s = .next ((e.dropQueue d.obj).finish d.id 0 0 0)) ∧
  (∀ s c d e x, s.takes 0x02 c [] 0 d e → e.queue d.obj = some x → x.kind = 0 →
    exec (.queueDelete c) s = .next (((e.modQueue d.obj fun x => { x with deleting := true, fetched := [] }).await d.id
      (.queueDelete d.obj)).endDelete { d with wait := .queueDelete d.obj })) ∧
  (∀ s fn q index x, s.live = true → s.queue q.toNat = some x → x.fn = fnNum fn → x.kind = 0 → index.toNat < x.depth →
    s.fld pwrDevStat_state 0 ≠ 1 →
    exec (.cmdDbTail fn q index) s = .next (s.modQueue q.toNat fun x => { x with tail := index.toNat })) ∧
  (∀ s fn q index x, s.live = true → s.queue q.toNat = some x → x.fn = fnNum fn → x.kind ≠ 0 → index.toNat < x.depth →
    exec (.cmdDbHead fn q index) s = .next ((s.modQueue q.toNat fun x => { x with head := index.toNat }).drainQueue q.toNat x)) ∧
  (∀ s fn writes q x t, s.live = true → t = writes.foldl (fun t w => t.writeSlot (fnNum fn) w) s →
    t.fetchStopped (fnNum fn) = false → t.nextQueue (fnNum fn) = some (q, x) →
    exec (.commandFetch fn writes) s =
      .next ({ t with buhorn := { t.buhorn with roundRobin := mset t.buhorn.roundRobin (fnNum fn) q } }.fetchBurst q x)) ∧
  (∀ s fn lane v, s.bar0Keeps .cmdAdmqCtrl (fnNum fn) = true →
    exec (.cmdAdmqCtrlWrite fn lane v) s = .next (s.writeAdmq (fnNum fn) (fnNum fn) lane v)) ∧
  (∀ s q ps, s.live = true →
    exec (.hostReadCompletion (.packets q ps)) s = .next (s.modQueue q.toNat fun x =>
      { x with
        fetched := x.fetched ++ ps.take x.reading,
        head := (x.head + (ps.take x.reading).length) % x.depth,
        reading := 0 }))

/-- The schedule commands complete: SCH_TABLE_LOAD fills the shadow table, SCH_TABLE_SWAP sets its swap tick and waits for the
boundary, and PARTITION_RESET begins the reset and waits for its end (R246, R247, R259, R260). -/
def Obligations.ScheduleCommandsComplete : Prop :=
  (∀ s c rows d e, s.takes 0x30 c [] 0 d e → (e.part d.part).swapTick = none →
    e.tableOk d.part (rows.take (d.par 24 2)) ⟨(rows.take (d.par 24 2)).map Entry.ofRow, d.par 32 8,
      tableDigest (rows.take (d.par 24 2)) (d.par 32 8)⟩ = true →
    exec (.schTableLoad c rows) s =
      .next (((e.modPart d.part fun x => { x with shadow := some ⟨(rows.take (d.par 24 2)).map Entry.ofRow, d.par 32 8,
        tableDigest (rows.take (d.par 24 2)) (d.par 32 8)⟩ }).noteTables d.part).finish d.id 0 0 0)) ∧
  (∀ s c d e, s.takes 0x31 c [] 0 d e → d.accTick ≤ d.par 16 8 → (e.part d.part).shadow.isSome = true →
    (e.part d.part).swapTick = none →
    exec (.schTableSwap c) s =
      .next (((e.modPart d.part fun x => { x with swapTick := some (d.par 16 8) }).noteTables d.part).await d.id .swap)) ∧
  (∀ s c d e, s.takes 0x05 c [] 0 d e →
    exec (.partitionReset c) s = .next ((e.beginReset d.obj 1).await d.id (.reset d.obj))) ∧
  (∀ s p, s.live = true → s.flag schPart_resetting p.val = true →
    exec (.partitionResetComplete p) s = .next (s.endReset p.val))

/-- WEIGHT_LOAD and CHURN_PASS complete: the layers loaded become the set's, and a pass begins to churn (R84, R221). The model's
own choices in it: log entries 51, 52, 53, 146. -/
def Obligations.WeightCommandsComplete : Prop :=
  (∀ s c record blocks d e old g w mine near, s.takes 0x40 c [] 0 d e → old = (mget e.weights d.obj).getD WeightSet.empty →
    g = (if d.par 16 2 = 0 then recordOf record else old.geometry) → near = (if d.par 20 1 = 0 then [] else mine) →
    mine = blocks.filter (fun b => d.par 16 2 ≤ b.layer.toNat && b.layer.toNat < d.par 16 2 + d.par 18 2) →
    geometryOk g = true → d.par 16 2 + d.par 18 2 ≤ geoLayers g → mine.all rawBlockOk = true →
    old.busy = false → e.churning d.obj = false →
    w = ((({ old with geometry := g, durable := false }.dropLayers (d.par 16 2) 0).addLayers (d.par 16 2)
      (d.par 18 2) (d.par 20 1)).addBlocks d.obj (d.par 20 1) mine) →
    w.frames ≤ e.freeFrames + old.frames → near.all e.nearFits = true → d.gaddr = false →
    exec (.weightLoad c record blocks) s =
      .next ((((e.setWeights d.obj w).layNear near).loadDone d.obj (d.par 16 2) (d.par 18 2)
        (loadFixes (d.par 16 2) g)).finish d.id 0 0 0)) ∧
  (∀ s c d e w, s.takes 0x41 c [] 0 d e → mget e.weights d.obj = some w → d.par 16 2 + d.par 18 2 ≤ w.layerCount →
    e.churnBarred d.obj = false → e.churning d.obj = false → w.busy = false → d.par 18 2 ≠ 0 →
    exec (.churnPass c) s = .next ((e.beginChurn d.obj (d.par 16 2) (d.par 18 2) w.tag (some d.id)).await d.id .churn))

/-- The fabric commands complete: a region is registered under a key and revoked, a connection is opened and closed, and an
epoch is installed (R324, R329, R336, R348). The model's own choices in it: log entries 74, 75. -/
def Obligations.FabricCommandsComplete : Prop :=
  (∀ s c d e t key, s.takes 0x50 c [] 0 d e →
    e.addRegion ⟨0, d.par 16 8, d.par 24 8, d.par 32 1, e.ownNode, d.fn, false, none, none⟩ = (t, 0, key) →
    exec (.regionRegister c) s = .next (t.finish d.id 0 0 key)) ∧
  (∀ s c d e r, s.takes 0x51 c [] 0 d e → mget e.asf.regions (d.obj % 4096) = some r → r.gen = d.obj / 4096 →
    r.draining = false → r.fn = d.fn →
    exec (.regionRevoke c) s =
      .next ((({ e with asf := { e.asf with regions := mset e.asf.regions (d.obj % 4096) { r with draining := true } } }).await d.id
        (.revoke (d.obj % 4096))).settleRegions)) ∧
  (∀ s c d e n k, s.takes 0x52 c [] 0 d e → e.freeConn = some n → e.reachable (d.par 16 2) = true →
    k = e.binding n { Conn.fresh d.fn (d.par 16 2) (d.par 18 1) e.now with cmd := some d.id } →
    exec (.connOpen c) s = .next ((((e.setConn n k).trimCache).await d.id (.connOpen n)).sendConnect n)) ∧
  (∀ s c d e k, s.takes 0x53 c [] 0 d e → e.conn d.obj = some k → k.fn = d.fn → k.mine = true → k.bulk = none →
    k.state ≠ .closing → k.state ≠ .opening →
    exec (.connClose c) s = .next (e.closeConn d.obj k (some d.id))) ∧
  (∀ s c map d e, s.takes 0x54 c [] 0 d e → e.mapOk map = true → e.flag asfEpoch_prevLive 0 = false →
    (e.flag asfEpoch_installed 0 = true → e.epochAhead (d.obj % 256) = true) →
    exec (.epochSet c map) s =
      .next (((e.installMap (d.obj % 256) (map.map fun r => (rowNode r, rowEntry r))).supersede.askSlices).finish d.id 0 0 0))

/-- The commands that open, prompt, query and close a sequence complete (R19, R23, R68, R69, R71, R379). The model's own choices
in it: log entries 37, 131, 132. -/
def Obligations.SequenceLifeCommandsComplete : Prop :=
  (∀ s c stops d e w m h t q, s.takes 0x10 c stops 0 d e → e.tenantIn (d.par 16 2) d.part = true →
    mget e.weights (d.par 24 2) = some w →
    d.par 20 4 ≤ 262144 * tokensPerPage (geoKvHeads w.geometry) (geoHeadDim w.geometry) (d.par 19 1) →
    e.defaultPartner = some m → e.takeHandle = some (h, t) → q = newSeq d w.geometry m →
    exec (.seqOpen c stops) s =
      .next ((t.openSeq h { q with hold := t.flag schTenant_hold q.tenant }).finish d.id 0 0 h)) ∧
  (∀ s c tokens d e q t, s.takes 0x11 c tokens 0 d e → e.groupsOf d.part ≠ [] → (e.tokenRing d.part).isSome = true →
    e.named d = some q → q.state = .opened ∨ q.state = .done → e.churning q.model = false →
    q.length + d.par 24 4 ≤ q.limit → q.mirror = none ∨ e.journalTakes q (q.length + d.par 24 4) = true →
    e.assignRun d.handle (q.block q.r) (q.block (q.length + d.par 24 4 - 1) + 1 - q.block q.r) = some t →
    exec (.seqPrompt c tokens) s = .next (t.startPrompt d q (d.words.take (d.par 24 4)))) ∧
  (∀ s c d e q, s.takes 0x17 c [] 0 d e → d.par 16 1 ≠ 1 → e.named d = some q →
    exec (.seqQuery c) s = .next (e.conclude d 0 0 (e.queryResult q))) ∧
  (∀ s c d e l, s.takes 0x17 c [] 0 d e → d.par 16 1 = 1 → l = e.queryList d.part (d.par 17 1) (d.par 20 4) → l ≠ [] →
    exec (.seqQuery c) s = .next ((e.putBuffer d (d.par 24 8)
      (l.flatMap fun x => leBytes 8 x.1 ++ leBytes 8 (e.queryResult x.2))).conclude d 0 0 l.length)) ∧
  (∀ s c d e q, s.takes 0x16 c [] 0 d e → e.named d = some q → q.state = .done →
    exec (.seqClose c) s =
      .next (((e.shipJournal d.part d.handle 2 q.length 0).closeSeq d.part d.handle).afterFree d))

/-- The commands that start, pause, resume and cancel stepping complete. An enable or a resume in a partition without an active
table returns WRONG_STATE (19), and each begins the fetch of its sequence's pages when it is accepted; at its boundary, in a
partition with a table, its effect is to start stepping (R22, R31, R40, R238). The model's own choices in it: log entry 43. -/
def Obligations.SteppingCommandsComplete : Prop :=
  (∀ s c d e, s.takes 0x12 c [] 0 d e →
    exec (.seqStepEnable c) s = .next ((e.finish d.id 0x13 0 0).fetchNamed (d.fn - 1) d.handle)) ∧
  (∀ s c d e, s.takes 0x14 c [] 0 d e →
    exec (.seqResume c) s = .next ((e.finish d.id 0x13 0 0).fetchNamed (d.fn - 1) d.handle)) ∧
  (∀ (e t : State) d q, e.hasTable d.part = true → (e.tokenRing d.part).isSome = true → e.named d = some q →
    q.state = .ready ∨ q.state = .paused → e.thinBars d.part q.model = false → e.churning q.model = false →
    e.startStepping d (fun q => q.setSpec (d.par 16 1)) = some t → effSeqStepEnable d e = t) ∧
  (∀ (e t : State) d q, e.hasTable d.part = true → e.named d = some q → q.state = .paused → e.thinBars d.part q.model = false →
    e.startStepping d id = some t → effSeqResume d e = t) ∧
  (∀ s c d e q, s.takes 0x13 c [] 0 d e → e.named d = some q → q.state = .stepping →
    exec (.seqPause c) s = .next ((((e.endEnables d.part d.handle).modSeq d.handle fun q =>
      { q with ring := none, appended := 0, written := [], selected := none }).become d.handle .paused).afterRelease d 0 0 0)) ∧
  (∀ s c d e q, s.takes 0x15 c [] 0 d e → e.named d = some q → q.state ≠ .done → q.state ≠ .moving →
    exec (.seqCancel c) s =
      .next (((e.leavePass d.part d.handle).makeDone d.part d.handle 2).afterRelease d 0 0 0))

/-- The state commands complete: a move begins, mirroring of pages begins and ends, pages are asked to a tier, and a page list
is set (R33, R72, R292, R71, R103). The model's own choices in it: log entries 38, 41. -/
def Obligations.StateCommandsComplete : Prop :=
  (∀ s c d e q m, s.takes 0x20 c [] 0 d e → e.named d = some q → q.state = .ready ∨ q.state = .paused →
    e.reachable (d.par 16 2) = true → m = Move.begun (d.par 16 2) (d.par 18 1 % 16) (d.par 19 1 % 8) d.handle →
    exec (.stateMove c) s = .next (((((e.modSeq d.handle fun q => { q with prior := q.state, move := some m }).become d.handle
      .moving).sendOffer d.handle m)).await d.id .move)) ∧
  (∀ s c d e q n, s.takes 0x21 c [] 0 d e → e.named d = some q → q.state ≠ .moving → q.state ≠ .rebuild →
    q.mirroring = false →
    d.par 16 1 = 0 → q.prot = false → e.mirrorChoice q (d.par 18 2) = some n →
    exec (.stateMirror c) s = .next ((e.protect d.handle n q).await d.id .mirror)) ∧
  (∀ s c d e q, s.takes 0x21 c [] 0 d e → e.named d = some q → q.state ≠ .moving → q.state ≠ .rebuild →
    q.mirroring = false →
    d.par 16 1 ≠ 0 → q.prot = true →
    exec (.stateMirror c) s = .next ((((e.dropPages d.handle).modSeq d.handle fun q => { q with prot := false }).notePins
      d.handle).await d.id .mirror)) ∧
  (∀ s c code d e q, s.takes 0x22 c [] code d e → e.named d = some q → q.state ≠ .moving → q.state ≠ .rebuild →
    d.par 16 1 ≠ 3 → e.fetchPeerBad (d.par 16 1) (d.par 18 2) = false →
    exec (.stateFetch c code) s =
      .next ((e.await d.id (.fetch (d.par 16 1) (d.par 20 4) (d.par 24 4))).checkFetches)) ∧
  (∀ s c entries d e q es t, s.takes 0x23 c entries 0 d e → e.named d = some q →
    q.state = .opened ∨ q.state = .ready ∨ q.state = .paused ∨ q.state = .done →
    es = listEntries (d.par 16 4) (d.words.take (d.par 20 4)) → e.listBad q es = false →
    ((q.changed es).foldl (fun s x => s.releaseAt d.handle x.1) e).placeAll d.handle (placements (q.changed es)) = some t →
    exec (.pageListSet c entries) s = .next ((if (q.changed es).any (fun x => x.1 = q.block q.r)
      then t.modSeq d.handle fun q => { q with appended := 0, written := [] } else t).noteTiers.conclude d 0 0 0))

/-- A boundary that is due ends the step: the step counter, the commit, the commands that wait for it, the next batch and the
release (R24 to R26, R236). The model's own choices in it: log entries 39, 45. -/
def Obligations.BoundaryRowsComplete : Prop :=
  (∀ s p, s.boundaryDue p.val = true → exec (.stepBoundary p) s = .next (s.boundary p.val)) ∧
  (∀ s p, s.boundaryDue p.val = false → s.firstTableDue p.val = true →
    exec (.stepBoundary p) s = .next (s.fixCycle p.val (s.fld schStep_count p.val))) ∧
  (∀ s p, s.live = true → (s.part p.val).active.isSome = true → s.scheduledTick p.val ≤ s.now →
    exec (.boundaryScheduledTick p) s = .next (s.modPart p.val fun x => { x with schedDue := true })) ∧
  (∀ s p node step, s.live = true →
    (s.part p.val).commits.any (fun c => c.step = step.toNat && c.waiting.contains node.toNat) = true →
    exec (.mirrorAck p node step) s = .next (s.mirrorAcked p.val node.toNat step.toNat)) ∧
  (∀ s p step, s.live = true →
    exec (.journalAck p step) s = .next ({ s with
      seqs := mmap s.seqs (fun _ q =>
        if q.part = p.val && q.unjournaled.any (fun n => n ≤ step.toNat) then { q with unjournaled := none } else q) })) ∧
  (∀ s p node c, s.live = true → (s.part p.val).commits.find? (fun c => c.toSend.contains node.toNat) = some c →
    s.appendsOut node.toNat c.step = false →
    exec (.commitRecordSend p node) s = .next (s.sendRecord p.val node.toNat c))

/-- A table entry that is due wakes the domains it names where one sleeps; with all awake it starts, or waits for a near-bank
pair held in memory mode, or stalls on its first missing page. A running kernel's completion ends it with its work done, late
where its budget has passed; a stall at its limit starts the entry without the sequences that wait (R136, R242, R301, R418). The
model's own choices in it: log entries 46, 49, 151. -/
def Obligations.EntryRowsComplete : Prop :=
  (∀ s p entry evicted declared e, s.entry p.val entry = some e → s.entryDue p.val entry e declared = true →
    s.asleep p.val e = true → exec (.armatureEntryStart p ⟨entry, evicted, declared⟩) s = .next (s.reachDomains p.val e)) ∧
  (∀ s p entry evicted declared e t, s.entry p.val entry = some e → s.entryDue p.val entry e declared = true →
    s.asleep p.val e = false → t = s.walk p.val e (evicted.map BitVec.toNat) → t.missing p.val e = [] → t.weightsHeld e = false →
    exec (.armatureEntryStart p ⟨entry, evicted, declared⟩) s = .next (t.startEntry p.val entry e)) ∧
  (∀ s p entry evicted declared e t, s.entry p.val entry = some e → s.entryDue p.val entry e declared = true →
    s.asleep p.val e = false → t = s.walk p.val e (evicted.map BitVec.toNat) → t.missing p.val e = [] → t.weightsHeld e = true →
    exec (.armatureEntryStart p ⟨entry, evicted, declared⟩) s = .next (t.waitEntry p.val entry 4)) ∧
  (∀ s p entry evicted declared e t key keys, s.entry p.val entry = some e → s.entryDue p.val entry e declared = true →
    s.asleep p.val e = false → t = s.walk p.val e (evicted.map BitVec.toNat) → t.missing p.val e = key :: keys →
    exec (.armatureEntryStart p ⟨entry, evicted, declared⟩) s = .next (t.stallEntry p.val entry key (key :: keys))) ∧
  (∀ s p entry work e since w, s.live = true → s.entry p.val entry = some e →
    mget (s.part p.val).runs entry = some (.running since) →
    w = ((s.endLayer p.val e).releaseRead p.val e).kernelWork p.val e work → w.now ≤ w.budgetEnd p.val e →
    exec (.kernelComplete p entry work) s =
      .next ((((w.endReruns p.val e).workedAll p.val e).setRun p.val entry (.ended w.now)).notePoints)) ∧
  (∀ s p entry work e since w, s.live = true → s.entry p.val entry = some e →
    mget (s.part p.val).runs entry = some (.running since) →
    w = ((s.endLayer p.val e).releaseRead p.val e).kernelWork p.val e work → w.budgetEnd p.val e < w.now →
    exec (.kernelComplete p entry work) s =
      .next (((((w.bump schLate_entries p.val 1).endReruns p.val e).workedAll p.val e).setRun p.val entry
        (.ended w.now)).notePoints)) ∧
  (∀ s p entry e since cause, s.live = true → s.entry p.val entry = some e →
    mget (s.part p.val).runs entry = some (.waiting since cause) → since + s.fld tirCfg_stallMax 0 * ticksPerMs ≤ s.now →
    s.weightsHeld e = false →
    exec (.stallMaxExpiry p entry) s =
      .next (((s.readers p.val e).foldl (fun s h => s.dropStalled p.val e h) s).startEntry p.val entry e))

/-- The lockstep rows complete: a point is reached and told, a SYNC is taken, a point is released and passed, a SYNC is sent
again, and a wait beyond the slack puts the partition's domains in D1 (R266, R267, R365, R416). The model's own choices in it:
log entries 89, 90, 165. -/
def Obligations.LockstepRowsComplete : Prop :=
  (∀ s p point, s.live = true → s.inGroup p.val = true → mhas (s.part p.val).reached point.val = false →
    s.pointDone p.val point.val = true → s.earlierPassed p.val point.val = true →
    exec (.syncPointReach p point) s = .next (s.reach p.val point.val)) ∧
  (∀ s p src m, s.live = true → s.inGroup p.val = true → m.group.toNat = s.fld schGroup_groupId p.val →
    m.member.toNat < s.fld schGroup_members p.val → m.member.toNat ≠ s.fld schGroup_index p.val →
    exec (.sync p src m) s = .next (s.takeSync p.val (syncOf src.toNat m s.now))) ∧
  (∀ s p point t, s.live = true → s.inGroup p.val = true → mhas (s.part p.val).reached point.val = true →
    (s.part p.val).passed.contains point.val = false → s.releaseTick p.val point.val = some t → t ≤ (s.now : Int) →
    exec (.syncRelease p point) s = .next (s.pass p.val point.val t)) ∧
  (∀ s p k m, s.live = true → s.inGroup p.val = true → s.waitsAt p.val = some k →
    (s.part p.val).resentAt + 50 * ticksPerUs ≤ s.now →
    (s.part p.val).syncs.find? (fun m => m.node = s.ownNode && m.point = k && m.cycle = s.cycleNo p.val) = some m →
    exec (.syncResendTimer p) s = .next ((s.modPart p.val fun x => { x with resentAt := s.now }).sendSyncs p.val m)) ∧
  (∀ s p k, s.live = true → s.inGroup p.val = true → s.waitsAt p.val = some k →
    s.pointTick p.val k + s.fld schGroup_slack p.val * ticksPerUs ≤ s.now →
    exec (.syncSlackExpiry p) s =
      .next (((List.range 89).filter fun d => s.partDomain p.val d && s.domainState d = 0 && !s.domainBusy d).foldl
        (fun s d => s.setFld pwrDomStat_state d 1)
        ((s.modPart p.val fun x => { x with pastSlack := true }).notePoints)))

/-- The rows of a move complete: the flip is stamped at the destination, its acknowledgement ends the move at the source, a
refusal sends the sequence back, and an abandonment is asked and answered (R35 to R38, R88, R395). The model's own choices in
it: log entries 42, 86, 127, 129, 161. -/
def Obligations.MoveRowsComplete : Prop :=
  (∀ s node handle h q m, s.live = true → s.arriving node.toNat handle.toNat = some (h, q, m) → s.moveHeld h q m = true →
    exec (.moveFlip node handle) s = .next (s.stampFlip h q m)) ∧
  (∀ s handle new flip q m, s.live = true → s.leaving handle.toNat = some (q, m) → m.recast = false →
    exec (.moveFlipAck handle new flip) s = .next (s.moveDone handle.toNat q m m.part new.toNat)) ∧
  (∀ s node handle, s.live = true →
    exec (.moveAbandonRequest node handle) s = .next (s.abandonAsked node.toNat handle.toNat)) ∧
  (∀ s handle q m, s.live = true → s.leaving handle.toNat = some (q, m) → m.abandonSent = false → m.recast = false →
    exec (.moveRefused handle) s = .next (s.moveBack handle.toNat q 0x13)) ∧
  (∀ s handle q m, s.live = true → s.leaving handle.toNat = some (q, m) → m.abandonSent = false → m.recast = true →
    exec (.moveRefused handle) s = .next (s.recastRefused handle.toNat q m)) ∧
  (∀ s handle q m, s.live = true → s.leaving handle.toNat = some (q, m) → m.abandonSent = true →
    exec (.abandonedAnswer handle) s = .next (s.abandoned handle.toNat q m)) ∧
  (∀ s handle new q m, s.live = true → s.promotedSeq handle.toNat = some q → q.move = some m → m.incoming = false →
    q.recastDue m.node = false →
    exec (.recastFlip handle new) s = .next (s.recastFlipped handle.toNat new.toNat q m))

/-- A near-bank descriptor that is well formed joins its channel's queue, and the sequencer runs; an operation's completion runs
the operation on what its reads give and ends it, each sector that cannot be corrected being reported and its result poisoned;
and the watchdog reports an operation that has run 8,000 ticks, poisons its result, takes the unit out and ends it (R129 to
R131, R137, R146, R158). The model's own choices in it: log entries 59, 63, 64, 65, 147. -/
def Obligations.NearBankOperationsComplete : Prop :=
  (∀ s ch p d need, s.live = true → s.flag schPart_resetting p.val = false → descOk d = true → s.descFits ch.val d need = true →
    exec (.nearBankDescriptorIssue ch p ⟨d, need⟩) s =
      .next (((s.markIssuer ch.val p.val (descMask d)).modChan ch.val fun x => { x with queue := x.queue ++ [(p.val, d)] }).sequence
        ch.val)) ∧
  (∀ s ch inp p d start t lost, s.live = true → (s.chan ch.val).running = some (p, d, start) → start ≤ s.now →
    s.now ≤ start + 8000 → p < 16 → s.decodeReads ch.val d inp.upsets = (t, lost) →
    lost ++ t.poisonedReads ch.val d = [] → inp.parity = false →
    exec (.nearBankOpComplete ch inp) s = .next ((t.runOp ch.val p d inp false).endOp ch.val start)) ∧
  (∀ s ch inp p d start t lost a as, s.live = true → (s.chan ch.val).running = some (p, d, start) → start ≤ s.now →
    s.now ≤ start + 8000 → p < 16 → s.decodeReads ch.val d inp.upsets = (t, lost) →
    lost ++ t.poisonedReads ch.val d = a :: as → inp.parity = false →
    exec (.nearBankOpComplete ch inp) s =
      .next (((a :: as).foldl (fun s a => s.unreadable p d a) (t.runOp ch.val p d inp true)).endOp ch.val start)) ∧
  (∀ s ch u tag temp p d start, s.live = true → (s.chan ch.val).running = some (p, d, start) → start + 8000 ≤ s.now →
    descMask d / 2 ^ u.val % 2 = 1 → p < 16 →
    exec (.nearBankWatchdog ch u ⟨tag, temp⟩) s =
      .next ((((s.raise { errorOfPart 1 2 3 (ch.val * 32 + u.val) p with info0 := d.truncate 64, info1 := (d >>> 64).truncate 64 }
        ).poisonResult ch.val p d tag.toNat).quarantineUnit ch.val u.val 2 temp.toNat 0xFF (some p) 0).endOp ch.val start))

/-- A channel's mode rows complete: a switch ends in its mode, an access is served or, where its channel is busy or an earlier
one is held, held with it, the window ends, a refresh is taken or owed, and GEN_CHMODE is written while the channel's domain is
awake (R129 to R133, R136, R418). The model's own choices in it: log entries 66, 67, 149. -/
def Obligations.ChannelRowsComplete : Prop :=
  (∀ s ch, s.live = true → (s.chan ch.val).switchAt + switchTicks ≤ s.now → s.chMode ch.val = 2 →
    exec (.channelSwitchComplete ch) s =
      .next (((s.bumpWrap genChmode_switches ch.val 1).setFld genChmode_mode ch.val 1).nextOp ch.val)) ∧
  (∀ s ch, s.live = true → (s.chan ch.val).switchAt + switchTicks ≤ s.now → s.chMode ch.val = 3 →
    exec (.channelSwitchComplete ch) s = .next ((s.openWindow ch.val).sequence ch.val)) ∧
  (∀ s ch a, s.live = true → s.holdPoint [deAddr ch.val a.bank.val a.offset.toNat] = none →
    exec (.logicAccessHeld ch a) s = .next (s.serveLogic ch.val a)) ∧
  (∀ s ch a k, s.live = true → s.holdPoint [deAddr ch.val a.bank.val a.offset.toNat] = some k →
    exec (.logicAccessHeld ch a) s = .next ((s.hold k (.logic a)).sequence k)) ∧
  (∀ s ch, s.live = true → exec (.memoryModeWindowExpiry ch) s = .next (s.sequence ch.val)) ∧
  (∀ s ch, s.live = true → (s.chan ch.val).refreshAt + (s.chan ch.val).refreshEvery ≤ s.now →
    (s.chan ch.val).refreshOwed = false → s.chMode ch.val = 1 → (s.chan ch.val).running.isSome = true →
    exec (.refreshDue ch) s = .next (s.modChan ch.val fun x => { x with refreshOwed := true })) ∧
  (∀ s ch, s.live = true → (s.chan ch.val).refreshAt + (s.chan ch.val).refreshEvery ≤ s.now →
    (s.chan ch.val).refreshOwed = false → s.chMode ch.val ≠ 1 ∨ (s.chan ch.val).running = none →
    exec (.refreshDue ch) s = .next (s.modChan ch.val fun x => { x with refreshAt := s.now })) ∧
  (∀ s fn ch lane v, s.bar0Keeps .genChmode ch.val = true → s.rindHolds (chanDomain ch.val) = false →
    exec (.genChmodeWrite fn ch lane v) s = .next ((s.writeFields (fnNum fn) lane .genChmode ch.val v).sequence ch.val))

/-- The draft head's rows complete: a configuration written applies at once where no ring is held, and else at the application;
a ring's fill writes its rows and marks it filled (R162, R169). The model's own choices in it: log entries 48, 145. -/
def Obligations.DraftRowsComplete : Prop :=
  (∀ s fn lane v w, s.bar0Keeps .genDraftCfg 0 = true → w = s.writeFields (fnNum fn) lane .genDraftCfg 0 v →
    w.draftDiffers = true → w.ringsHeld = 0 → exec (.genDraftCfgWrite fn lane v) s = .next w.applyDraft) ∧
  (∀ s fn lane v w, s.bar0Keeps .genDraftCfg 0 = true → w = s.writeFields (fnNum fn) lane .genDraftCfg 0 v →
    w.draftDiffers = true → w.ringsHeld ≠ 0 →
    exec (.genDraftCfgWrite fn lane v) s = .next (w.setFlag genDraftCfg_busy 0 true)) ∧
  (∀ s, s.live = true → s.flag genDraftCfg_busy 0 = true → s.ringsHeld = 0 →
    exec .draftCfgApply s = .next s.applyDraft) ∧
  (∀ s handle rows r w, s.live = true → (s.seq handle.toNat).bind Seq.ring = some r → s.draftSet = some w →
    exec (.draftRingFillComplete ⟨handle, rows⟩) s =
      .next ((rows.foldl (fun s x => s.fillRing w handle.toNat r.1 x) s).modSeq handle.toNat fun q =>
        { q with ring := q.ring.map fun r => (r.1, true) }))

/-- The tile rows complete: a panel that is read without an error fills its half; a correctable SRAM error is counted and
reported, an uncorrectable one has its kernel run again, and one that comes again within 1,000 cycles takes the tile out as
well; a sampled kernel is kept and replayed, and its outputs are compared; and a due test runs (R184, R187, R198, R202 to R206).
The model's own choices in it: log entries 60, 61, 62, 63, 153, 154, 155, 156. -/
def Obligations.TileRowsComplete : Prop :=
  (∀ s p tile half panel, s.live = true → (s.tilesOf p.val).contains tile.toNat = true →
    s.prm.quarantined.contains tile.toNat = false → s.flag schPart_resetting p.val = false → s.panelBytes panel ≤ 786432 →
    s.isPanel panel = true → s.fillable tile.toNat (if half then 1 else 0) = true → s.panelCorrected panel = [] →
    s.panelError panel = none →
    exec (.panelFillComplete p tile half panel) s =
      .next { s with prm := { s.prm with
        panels := mset s.prm.panels (2 * tile.toNat + if half then 1 else 0)
          (panel.map fun b => (b.model.toNat, b.layer.toNat, b.matrix.toNat, b.index.toNat)) } }) ∧
  (∀ s p tile acc temp, s.live = true → s.worksFor p.val tile.toNat = true →
    exec (.tileSramError p tile true acc temp) s =
      .next ((s.bump prmStatus_sramCorrected 0 1).raise (errorOfPart 0 3 1 tile.toNat p.val))) ∧
  (∀ s p tile acc temp t, s.live = true → s.worksFor p.val tile.toNat = true → t = s.sramError p.val tile.toNat →
    s.recurs p.val tile.toNat = false →
    exec (.tileSramError p tile false acc temp) s = .next { t with prm := { t.prm with
      errCycle := mset t.prm.errCycle tile.toNat (p.val, t.fld schStep_count p.val, t.now) } }) ∧
  (∀ s p tile acc temp e t, s.live = true → s.worksFor p.val tile.toNat = true → s.runningKernel p.val tile.toNat = some e →
    t = s.sramError p.val tile.toNat → s.recurs p.val tile.toNat = true →
    exec (.tileSramError p tile false acc temp) s =
      .next ({ t with prm := { t.prm with
        errCycle := mset t.prm.errCycle tile.toNat (p.val, t.fld schStep_count p.val, t.now) } }.quarantineTile
          tile.toNat 3 temp.toNat 0xFF (some p.val) e.id)) ∧
  (∀ s p sample i e input result r t x, s.live = true → s.sampleDue p.val = true →
    s.sampleEntry p.val sample.eligible = some (i, e) → s.sampleOf p.val i e sample = some (input, result) →
    t = { s with prm := { s.prm with
      replays := s.prm.replays + 1, sampled := mset s.prm.sampled p.val (s.fld schStep_count p.val) } } →
    (t.replayers sample.ran).1 = some r →
    x = (⟨p.val, e.id, sample.ran, input, result, faulty sample.faults result, s.fld schStep_count p.val⟩ : Sample) →
    exec (.replaySample p sample) s = .next { t with prm := { t.prm with sample := some x } }) ∧
  (∀ s replay third temp x slot r r3, s.live = true → s.prm.sample = some x → s.fld schStep_count x.part ≤ x.step + 4 →
    s.openSlot x.part [4, 5] = some slot → s.replayers x.ran = (some r, r3) → faulty replay x.result = x.output →
    exec (.replayCompare replay third temp) s =
      .next ((({ s with prm := { s.prm with sample := none } } : State).bump prmReplayStat_samples 0 1).recompute x r)) ∧
  (∀ s replay third temp x slot r r3, s.live = true → s.prm.sample = some x → s.fld schStep_count x.part ≤ x.step + 4 →
    s.openSlot x.part [4, 5] = some slot → s.replayers x.ran = (some r, r3) → faulty replay x.result ≠ x.output →
    exec (.replayCompare replay third temp) s =
      .next (((((({ s with prm := { s.prm with sample := none } } : State).bump prmReplayStat_samples 0 1).recompute x r).bump
        prmReplayStat_mismatches 0 1).raise (mismatchError x)).resolve x (faulty replay x.result) (faulty third x.result) temp.toNat
          r r3)) ∧
  (∀ s t pattern ok temp x, s.live = true → s.testSlot t.toNat = some x → s.mayTest t.toNat pattern.val x = true →
    exec (.selfTest (.tile t) pattern ok temp) s =
      .next ((s.noteTested t.toNat x).testTile t.toNat pattern.val ok temp.toNat)) ∧
  (∀ s c u pattern ok temp, s.live = true → s.unitQuarantined c.val u.val = false → s.unitSlot c.val = true →
    s.flag prmSelftest_enable 0 = true ∧ s.fld prmSelftest_patterns 0 / 2 ^ pattern.val % 2 = 1 ∨
      s.gen.testUnits.contains (c.val, u.val) = true →
    exec (.selfTest (.unit c u) pattern ok temp) s = .next (s.testUnit c.val u.val pattern.val ok temp.toNat))

/-- The tier rows complete: the page engine takes a step, a migration flips, the clock hand visits a frame and moves a victim
down, the tier-2 ages rise, and a peer's control is written (R280, R289, R294, R297, R538). The model's own choices in it: log
entries 40, 56. -/
def Obligations.TierRowsComplete : Prop :=
  (∀ s job, s.live = true → s.fld pwrDevStat_state 0 = 0 →
    exec (.pageStep job) s = .next ((((s.bulkStep job).notePressure).noteTiers).worked 100)) ∧
  (∀ s p page, s.live = true →
    exec (.migrationFlip p page) s =
      .next (((s.completeMove (pageKey p.val page.toNat)).flushRows).wakeAll).sequenceHeld) ∧
  (∀ s k key t, s.live = true → s.nextVisited = some (k, key) →
    t = { s with tiers := { s.tiers with hand := k, pages := mmod s.tiers.pages key Page.visit } }.notePressure →
    t.victim key = true → t.moveBarred key = false → exec .clockHandVisit s = .next ((t.evict key).noteTiers)) ∧
  (∀ s k key t, s.live = true → s.nextVisited = some (k, key) →
    t = { s with tiers := { s.tiers with hand := k, pages := mmod s.tiers.pages key Page.visit } }.notePressure →
    t.victim key = false → exec .clockHandVisit s = .next t) ∧
  (∀ s, s.live = true → s.tiers.ageAt + s.fld tirCfg_agePeriod 0 * 1000000000 ≤ s.now →
    exec .t2AgeTick s = .next { s with tiers := { s.tiers with
      ageAt := s.now,
      pages := mmap s.tiers.pages fun _ e => if e.tier = 2 then { e with age := min 7 (e.age + 1) } else e } }) ∧
  (∀ s fn i lane v, s.bar0Keeps .tirPeerCtrl i.val = true →
    exec (.tirPeerCtrlWrite fn i lane v) s = .next (s.writeFields (fnNum fn) lane .tirPeerCtrl i.val v))

/-- The flash rows that move data complete: a read delivers its page or fails it, a program lands, the journal commits, a
refused hold-up is tried again, and an erase ends (R306 to R312, R537). The model's own choices in it: log entries 54, 55, 56,
173. -/
def Obligations.FlashTransferRowsComplete : Prop :=
  (∀ s granule levels key, s.live = true → s.pageReading granule.toNat = some key →
    levels.any (fun l => l = .failed) = false →
    exec (.flashReadComplete granule levels) s =
      .next (s.flashWork fun s =>
        ((levels.foldl State.countLevel s).countReads granule.toNat levels).pageRead key granule.toNat)) ∧
  (∀ s granule levels key, s.live = true → s.pageReading granule.toNat = some key →
    levels.any (fun l => l = .failed) = true →
    exec (.flashReadComplete granule levels) s =
      .next (s.flashWork fun s => ((((levels.foldl State.countLevel s).countReads granule.toNat levels).raise
        (errorOf 0 7 1 granule.toNat)).failDelivery key 7).wakeAll)) ∧
  (∀ s granule m f t, s.live = true →
    s.tiers.moves.find? (fun m => m.2.tier = 3 && m.2.loc = granule.toNat && !mhas s.ftl.pending granule.toNat) = some m →
    t = s.rouse 98 2 → s.rindHolds 98 = false → t.ftl.program t.now false granule.toNat = some f →
    exec (.flashProgramComplete granule true) s = .next { t with ftl := t.sealPage m.1 f granule.toNat }) ∧
  (∀ s granule m, s.live = true →
    s.tiers.moves.find? (fun m => m.2.tier = 3 && m.2.loc = granule.toNat && !mhas s.ftl.pending granule.toNat) = some m →
    exec (.flashProgramComplete granule false) s = .next (s.flashWork fun s => s.abandonMove m.1)) ∧
  (∀ s code, s.ftlWrites = true → s.ftl.refusedAt = none → s.commitDue = true →
    exec (.journalCommit code) s = .next (s.flashWork fun s => s.tryCommit code)) ∧
  (∀ s code t, s.ftlWrites = true → s.ftl.refusedAt = some t → t + ticksPerMs ≤ s.now →
    exec (.holdupRetry code) s = .next (s.flashWork fun s => s.retryStore code)) ∧
  (∀ s block, s.live = true → (s.ftl.block block).erasing = true → (s.ftl.block block).suspended = true →
    exec (.flashEraseComplete block true) s =
      .next (s.flashWork fun t =>
        { t with ftl := t.ftl.setBlock block { s.ftl.block block with suspended := false } })) ∧
  (∀ s block, s.live = true → (s.ftl.block block).erasing = true → (s.ftl.block block).suspended = false →
    exec (.flashEraseComplete block false) s =
      .next (s.flashWork fun t =>
        { t with ftl := t.ftl.setBlock block { Block.fresh with erases := (s.ftl.block block).erases + 1 } }.noteErases))

/-- The flash layer's upkeep completes: collection relocates the block of fewest live granules and stops at its mark, wear
levelling and refresh relocate theirs, the scrub marks its block, and a grown bad block retires (R308). The model's own choices
in it: log entries 54, 56, 173. -/
def Obligations.FlashUpkeepRowsComplete : Prop :=
  (∀ s b, s.ftlWrites = true → s.ftl.freeCount * 1024 < s.fld ftlPolicy_gcStart 0 * s.ftl.total →
    s.ftl.coming * 1024 < s.fld ftlPolicy_gcStop 0 * s.ftl.total → (s.ftl.first fun x => x.granules.length) = some b →
    exec .garbageCollection s =
      .next (s.flashWork fun s => { s with ftl := { s.ftl with collecting := true } }.relocate b)) ∧
  (∀ s, s.ftlWrites = true → s.ftl.collecting = true →
    s.fld ftlPolicy_gcStop 0 * s.ftl.total ≤ s.ftl.coming * 1024 →
    exec .garbageCollection s = .next { s with ftl := { s.ftl with collecting := false } }) ∧
  (∀ s b, s.ftlWrites = true → s.staticVictim = some b → exec .staticWearLevelling s = .next (s.flashWork fun s => s.relocate b)) ∧
  (∀ s block, s.ftlWrites = true → (s.ftl.block block).settled = true →
    s.fld ftlPolicy2_readLimit 0 ≤ (s.ftl.block block).reads ∨ (s.ftl.block block).refresh = true →
    exec (.readDisturbRefresh block) s = .next (s.flashWork fun s => s.relocate block)) ∧
  (∀ s block weak bits, s.live = true → s.ftl.inService = true → (s.ftl.block block).retired = false →
    (s.ftl.block block).granules.isEmpty = false →
    (s.ftl.block block).scrubbed + s.fld ftlPolicy_scrubDays 0 * 86400 * ticksPerS ≤ s.now →
    exec (.retentionScrub block weak bits) s =
      .next (s.flashWork fun t => { t with ftl := t.ftl.setBlock block { s.ftl.block block with
        scrubbed := t.now,
        reads := (s.ftl.block block).reads + 4 * (s.ftl.block block).used,
        refresh := (s.ftl.block block).refresh || weak || decide (t.fld ftlPolicy2_refreshBits 0 ≤ bits) } })) ∧
  (∀ s block failed t, s.live = true → s.ftl.inService = true → block < s.ftl.total → (s.ftl.block block).retired = false →
    failed = true ∨ s.fld ftlPolicy_endurance 0 ≤ (s.ftl.block block).erases →
    t = { s with ftl := (s.ftl.relocate s.now block).modBlock block fun x =>
      { x with retired := true, erasing := false, suspended := false } } →
    exec (.grownBadBlock block failed) s =
      .next ((((t.bump ftlHealth_grownBad 0 1).raise (errorOf 0 7 2 block)).noteErases).checkReserve))

/-- A request frame that a port takes arrives at its connection: reads, writes, writes with immediate and the three atomics go
to the in-order queue of their connection (R330, R333, R334). The model's own choices in it: log entry 50. -/
def Obligations.RequestFramesArrive : Prop :=
  (∀ s rx t, s.reaches rx 1 = true → rx.tagOk = true → t = s.rxWork rx.port.val →
    exec (.readReq rx) s = .next (t.takeRequest rx .data)) ∧
  (∀ s rx use t, s.reaches rx 3 = true → rx.tagOk = true → t = s.rxWork rx.port.val →
    exec (.write rx use) s = .next (t.takeRequest rx use)) ∧
  (∀ s rx t, s.reaches rx 4 = true → rx.tagOk = true → t = s.rxWork rx.port.val →
    exec (.writeImm rx) s = .next (t.takeRequest rx .data)) ∧
  (∀ s rx t, s.reaches rx 5 = true → rx.tagOk = true → t = s.rxWork rx.port.val →
    exec (.fetchAdd rx) s = .next (t.takeRequest rx .data)) ∧
  (∀ s rx t, s.reaches rx 6 = true → rx.tagOk = true → t = s.rxWork rx.port.val →
    exec (.swap rx) s = .next (t.takeRequest rx .data)) ∧
  (∀ s rx t, s.reaches rx 7 = true → rx.tagOk = true → t = s.rxWork rx.port.val →
    exec (.cas rx) s = .next (t.takeRequest rx .data))

/-- A frame that reaches a port with a wrong tag is dropped and counted, whatever its opcode among those that a port takes in
whole: nothing else changes (R317, R322). -/
def Obligations.WrongTagFramesAreDroppedAndCounted : Prop :=
  ∀ s rx, rx.tagOk = false →
    (∀ use, s.reaches rx 3 = true → exec (.write rx use) s = .next (s.bump asfRxDrop_tagFail 0 1)) ∧
    (reservedOp rx.frame.op.toNat = true → s.reaches rx rx.frame.op.toNat = true →
      exec (.reservedOpFrame rx) s = .next (s.bump asfRxDrop_tagFail 0 1)) ∧
    (s.reaches rx 1 = true → exec (.readReq rx) s = .next (s.bump asfRxDrop_tagFail 0 1)) ∧
    (s.reaches rx 2 = true → exec (.readResp rx) s = .next (s.bump asfRxDrop_tagFail 0 1)) ∧
    (s.reaches rx 4 = true → exec (.writeImm rx) s = .next (s.bump asfRxDrop_tagFail 0 1)) ∧
    (s.reaches rx 5 = true → exec (.fetchAdd rx) s = .next (s.bump asfRxDrop_tagFail 0 1)) ∧
    (s.reaches rx 6 = true → exec (.swap rx) s = .next (s.bump asfRxDrop_tagFail 0 1)) ∧
    (s.reaches rx 7 = true → exec (.cas rx) s = .next (s.bump asfRxDrop_tagFail 0 1)) ∧
    (s.reaches rx 8 = true → exec (.atomicResp rx) s = .next (s.bump asfRxDrop_tagFail 0 1)) ∧
    (s.reaches rx 9 = true → exec (.ack rx) s = .next (s.bump asfRxDrop_tagFail 0 1)) ∧
    (s.reaches rx 0xa = true → exec (.nak rx) s = .next (s.bump asfRxDrop_tagFail 0 1)) ∧
    (s.reaches rx 0xb = true → exec (.connect rx) s = .next (s.bump asfRxDrop_tagFail 0 1)) ∧
    (s.reaches rx 0xc = true → exec (.connectAck rx) s = .next (s.bump asfRxDrop_tagFail 0 1)) ∧
    (s.reaches rx 0xd = true → exec (.disconnect rx) s = .next (s.bump asfRxDrop_tagFail 0 1)) ∧
    (s.reaches rx 0xe = true → exec (.disconnectAck rx) s = .next (s.bump asfRxDrop_tagFail 0 1)) ∧
    (s.reaches rx 0x14 = true → exec (.heartbeat rx) s = .next (s.bump asfRxDrop_tagFail 0 1)) ∧
    (s.reaches rx 0x15 = true → exec (.probe rx) s = .next (s.bump asfRxDrop_tagFail 0 1)) ∧
    (s.reaches rx 0x16 = true → exec (.decision rx) s = .next (s.bump asfRxDrop_tagFail 0 1)) ∧
    (s.reaches rx 0x17 = true → exec (.takeover rx) s = .next (s.bump asfRxDrop_tagFail 0 1))

/-- A response frame of a live connection completes: it acknowledges the operations up to its number, and a response's data or a
refusal goes to the operation it answers (R335, R339, R341, R346). The model's own choices in it: log entries 50, 72, 158. -/
def Obligations.ResponseFramesComplete : Prop :=
  (∀ s rx t u c k, s.reaches rx 2 = true → rx.tagOk = true → t = s.rxWork rx.port.val →
    c = rx.frame.dstConn.toNat → t.conn c = some k → k.isOf rx.frame = true →
    u = ((t.alive c).takeAck c rx).modConn c (fun k => { k with rnrRun := 0 }) → rx.frame.flags.getLsbD 1 = true →
    exec (.readResp rx) s = .next ((((u.refused c rx.frame.psn.toNat 3).settleClose c).tellFailures).noteEpoch)) ∧
  (∀ s rx t u c k, s.reaches rx 2 = true → rx.tagOk = true → t = s.rxWork rx.port.val →
    c = rx.frame.dstConn.toNat → t.conn c = some k → k.isOf rx.frame = true →
    u = (((t.alive c).takeAck c rx).modConn c (fun k => { k with rnrRun := 0 })).modConn c (fun k => { k with
      unacked := k.unacked.map fun x => if x.psn = rx.frame.psn.toNat && x.frame.op = 1 then x.joined rx.frame else x }) →
    rx.frame.flags.getLsbD 1 = false →
    exec (.readResp rx) s =
      .next (((((if rx.frame.flags.getLsbD 3 then u.sampleRtt c rx else u).deliver c (rx.frame.flags.getLsbD 2) k.unacked.length).settleClose c).tellFailures).noteEpoch)) ∧
  (∀ s rx t u c k, s.reaches rx 8 = true → rx.tagOk = true → t = s.rxWork rx.port.val →
    c = rx.frame.dstConn.toNat → t.conn c = some k → k.isOf rx.frame = true →
    u = (((t.alive c).takeAck c rx).sampleRtt c rx).modConn c (fun k => { k with
      rnrRun := 0,
      unacked := k.unacked.map fun x =>
        if x.psn = rx.frame.psn.toNat && 5 ≤ x.frame.op.toNat then { x with got := rx.frame.payload } else x }) →
    exec (.atomicResp rx) s =
      .next ((((u.deliver c (rx.frame.flags.getLsbD 2) k.unacked.length).settleClose c).tellFailures).noteEpoch)) ∧
  (∀ s rx t c k, s.reaches rx 9 = true → rx.tagOk = true → t = s.rxWork rx.port.val →
    c = rx.frame.dstConn.toNat → t.conn c = some k → k.isOf rx.frame = true →
    exec (.ack rx) s = .next (((((((t.alive c).sampleRtt c rx).takeAck c rx).modConn c fun k => { k with rnrRun := 0 }).settleClose
      c).tellFailures).noteEpoch)) ∧
  (∀ s rx t c k, s.reaches rx 0x0A = true → rx.tagOk = true → t = s.rxWork rx.port.val →
    c = rx.frame.dstConn.toNat → t.conn c = some k → k.state ≠ .opening → k.isOf rx.frame = true →
    exec (.nak rx) s = .next (((((t.alive c).nakRequest c rx).settleClose c).tellFailures).noteEpoch)) ∧
  (∀ s rx t c k, s.reaches rx 0x0A = true → rx.tagOk = true → t = s.rxWork rx.port.val →
    c = rx.frame.dstConn.toNat → t.conn c = some k → k.state = .opening → k.node = rx.frame.srcNode.toNat →
    exec (.nak rx) s = .next (t.nakOpen c rx k))

/-- The connection frames complete: CONNECT of the current epoch opens, its acknowledgement opens the asker's side and answers
the command, DISCONNECT closes, and a frame of a reserved opcode is dropped and counted (R321, R336, R348). The model's own
choices in it: log entry 71. -/
def Obligations.ConnectionFramesComplete : Prop :=
  (∀ s rx t, s.reaches rx 0x0B = true → rx.tagOk = true → t = s.rxWork rx.port.val →
    t.epochClass rx.frame.epoch.toNat = 0 → exec (.connect rx) s = .next (t.connected rx)) ∧
  (∀ s rx t, s.reaches rx 0x0B = true → rx.tagOk = true → t = s.rxWork rx.port.val →
    t.epochClass rx.frame.epoch.toNat = 1 → exec (.connect rx) s = .next (t.respond rx 0x0A 1 0 Frame.zero)) ∧
  (∀ s rx t u c k id, s.reaches rx 0x0C = true → rx.tagOk = true → t = s.rxWork rx.port.val →
    c = rx.frame.dstConn.toNat → t.conn c = some k → k.state = .opening → k.node = rx.frame.srcNode.toNat → k.cmd = some id →
    u = t.modConn c (fun k => { k with
      state := .open_, remote := rx.frame.srcConn.toNat, cmd := none, lastResponse := t.now, lastUse := t.now,
      rnrAt := none, retryAt := none,
      unacked := k.unacked.map fun x => { x with frame := { x.frame with dstConn := rx.frame.srcConn } } }) →
    exec (.connectAck rx) s = .next (((u.resend c).trimCache).finish id 0 (if k.retriedOpen then 6 else 0) c)) ∧
  (∀ s rx t u c k, s.reaches rx 0x0D = true → rx.tagOk = true → t = s.rxWork rx.port.val →
    c = rx.frame.dstConn.toNat → t.conn c = some k → k.isOf rx.frame = true →
    u = ((t.takeWaiting c).1.respond rx 0x0E 0 0 Frame.zero).killConn c 1 →
    exec (.disconnect rx) s = .next ((if k.mine then u else u.dropConn c).settleRegions)) ∧
  (∀ s rx t c k, s.reaches rx 0x0E = true → rx.tagOk = true → t = s.rxWork rx.port.val →
    c = rx.frame.dstConn.toNat → t.conn c = some k → k.isOf rx.frame = true → k.state = .closing → k.cmd = none →
    exec (.disconnectAck rx) s = .next (t.dropConn c)) ∧
  (∀ s rx t, reservedOp rx.frame.op.toNat = true → s.reaches rx rx.frame.op.toNat = true → rx.tagOk = true →
    t = s.rxWork rx.port.val → exec (.reservedOpFrame rx) s = .next (t.bump asfRxDrop_badOp 0 1))

/-- A connection's timers complete when their time has come: the acknowledgement owed is sent, operations are sent again, waits
end, and a target that has not answered is taken for dead (R335, R339, R342, R344, R345). The model's own choices in it: log
entries 50, 70, 158. -/
def Obligations.ConnectionTimersComplete : Prop :=
  (∀ s conn k since last, s.live = true → s.conn conn.toNat = some k → k.oldestRx = some since → k.state ≠ .dead →
    since + 2 * ticksPerUs ≤ s.now → last = BitVec.ofNat 32 (psnBefore k.expect) →
    exec (.ackTimer conn) s =
      .next ((s.queueFrame conn.toNat k (s.header conn.toNat k { Frame.zero with
        op := 9, flags := if k.ceSeen then 4 else 0, psn := last, ackPsn := last, tsEcho := k.echo })).modConn conn.toNat
          fun k => { k with unackedRx := 0, oldestRx := none, ceSeen := false })) ∧
  (∀ s conn k x xs, s.live = true → s.conn conn.toNat = some k → k.unacked = x :: xs → x.begun = true → k.state ≠ .dead →
    k.retryAt = none → k.rnrAt = none → x.sentAt + s.fld asfTimers_rtoUs 0 * ticksPerUs ≤ s.now →
    exec (.retransmissionTimeout conn) s = .next (((s.halveWindow conn.toNat).resend conn.toNat).noteEpoch)) ∧
  (∀ s conn k t, s.live = true → s.conn conn.toNat = some k → k.rnrAt = some t → t ≤ s.now →
    exec (.rnrWaitExpiry conn) s = .next (s.goOn conn.toNat k)) ∧
  (∀ s conn k t, s.live = true → s.conn conn.toNat = some k → k.retryAt = some t → t ≤ s.now →
    exec (.retryAfterExpiry conn) s = .next (s.goOn conn.toNat k)) ∧
  (∀ s conn ok, s.live = true →
    exec (.contextFetchComplete conn ok) s = .next (s.contextFetched conn.toNat ok)) ∧
  (∀ s conn k x u, s.live = true → s.conn conn.toNat = some k → k.stalled = some x → x.forPage = true →
    x.since + s.fld asfPaging_stallLimitUs 0 * ticksPerUs ≤ s.now →
    u = (s.modConn conn.toNat fun k => { k with stalled := none }).retryAfter conn.toNat x.rx 10 →
    exec (.pagingStallLimit conn) s =
      .next ((((u.pump conn.toNat k.waitingRx.length).settleRegions).sequenceHeld).noteEpoch)) ∧
  (∀ s conn k, s.live = true → s.conn conn.toNat = some k → k.waits = true → k.state = .opening →
    k.lastResponse + s.fld asfTimers_timeoutUs 0 * ticksPerUs ≤ s.now →
    exec (.deadTargetTimeout conn) s = .next ((s.openFails conn.toNat 0x22 0).noteEpoch)) ∧
  (∀ s conn k, s.live = true → s.conn conn.toNat = some k → k.waits = true → k.state ≠ .opening →
    k.lastResponse + s.fld asfTimers_timeoutUs 0 * ticksPerUs ≤ s.now →
    exec (.deadTargetTimeout conn) s = .next ((s.killConn conn.toNat 1).noteEpoch))

/-- The ports' rows complete: a free port chooses its next frame, links go down and come up, an old epoch expires, and a slice
is granted to a home (R315, R337, R348, R368, R380). The model's own choices in it: log entries 69, 70. -/
def Obligations.PortRowsComplete : Prop :=
  (∀ s port, s.live = true → s.ownNode ≠ 0xFFFF → s.asf.links.contains port.val = true →
    mgetD s.shp.portFree port.val 0 ≤ s.now →
    exec (.frameTxStart port) s = .next (s.chooseFrame port.val [7, 6, 5, 4, 3, 2, 1, 0])) ∧
  (∀ s port, s.live = true → s.asf.links.contains port.val = true →
    exec (.portLinkDown port) s = .next (s.portDown port.val)) ∧
  (∀ s port t, s.live = true → s.asf.links.contains port.val = false → s.portRef port.val = true →
    t = (if s.domainState (89 + port.val) = 0 then s else s.comeUp (89 + port.val)) →
    exec (.portLinkUp port) s = .next ({ t with asf := { t.asf with links := t.asf.links ++ [port.val] } }.rebind)) ∧
  (∀ s, s.live = true → s.flag asfEpoch_prevLive 0 = true →
    s.oldInflight = 0 ∨ s.asf.oldSince + 10 * ticksPerMs ≤ s.now →
    exec .oldEpochExpire s =
      .next (((({ s with asf := { s.asf with oldMap := [] } }).setFlag asfEpoch_prevLive 0 false).noteEpoch).derivePending)) ∧
  (∀ s home, s.live = true → s.sliceHome home.toNat = true →
    exec (.sliceRequest home) s = .next (s.grantSlice home.toNat))

/-- A host access to an enabled remote window becomes an operation of its connection under the window's key and offset; a
region's owner moves at a command (R327, R332). The model's own choices in it: log entries 73, 113. -/
def Obligations.WindowRowsComplete : Prop :=
  (∀ s fn w off data i, s.live = true → i = winOf (fnNum fn) w.val → s.flag asfRwinCtrl_enable i = true → data ≠ [] →
    exec (.hostWindowWrite fn w off data) s = .next (s.windowIssue (fnNum fn) i .windowWrite fun c s =>
      s.issueWrite c (s.fld asfRwinCtrl_key i) (s.fld asfRwinTarget_offset i + off.toNat) data .windowWrite)) ∧
  (∀ s fn w off len i, s.live = true → i = winOf (fnNum fn) w.val → s.flag asfRwinCtrl_enable i = true → len ≠ 0 →
    exec (.hostWindowRead fn w off len) s =
      .next (s.windowIssue (fnNum fn) i (.windowRead (fnNum fn) w.val off.toNat len) fun c s =>
        s.issueRead c (s.fld asfRwinCtrl_key i) (s.fld asfRwinTarget_offset i + off.toNat) len
          (.windowRead (fnNum fn) w.val off.toNat len))) ∧
  (∀ s fn w off len i, s.live = true → i = winOf (fnNum fn) w.val → s.flag asfRwinCtrl_enable i = false →
    exec (.hostWindowRead fn w off len) s =
      .next { s with out := .completion (fnNum fn) off.toNat (List.replicate len 0) false false :: s.out }) ∧
  (∀ s fn w off op i o bytes len, s.live = true → i = winOf (fnNum fn) w.val → s.flag asfRwinCtrl_enable i = true →
    atomicFrame op = some (o, bytes, len) →
    exec (.hostWindowAtomic fn w off op) s =
      .next (s.windowIssue (fnNum fn) i (.windowAtomic (fnNum fn) w.val off.toNat len) fun c s => s.issue c { Frame.zero with
        op := BitVec.ofNat 8 o, flags := 8, key := BitVec.ofNat 32 (s.fld asfRwinCtrl_key i),
        offset := BitVec.ofNat 64 (s.fld asfRwinTarget_offset i + off.toNat), payload := bytes }
          (.windowAtomic (fnNum fn) w.val off.toNat len))) ∧
  (∀ s fn w lane v i, s.live = true → i = winOf (fnNum fn) w.val → s.flag asfRwinCtrl_enable i = true → lane ≠ .high →
    exec (.asfRwinImm fn w lane v) s =
      .next (s.windowIssue (fnNum fn) i .windowImm fun c s => s.issue c { Frame.zero with
        op := 4, flags := 8, key := BitVec.ofNat 32 (s.fld asfRwinCtrl_key i),
        offset := BitVec.ofNat 64 (s.fld asfRwinTarget_offset i), arg := BitVec.ofNat 32 v.toNat } .windowImm)) ∧
  (∀ s fn v i r, s.live = true → s.flag asfOwnStat_busy 0 = false →
    s.regionOf (fnNum fn) (asfOwnCmd_key.get v) = some (i, r) →
    exec (.asfOwnCmd fn .full v) s = .next ((((({ s with asf := { s.asf with
      regions := mset s.asf.regions i { r with owner := asfOwnCmd_newOwner.get v },
      ownMoving := some (i, r.owner) } }).setFlag asfOwnStat_refused 0 false).setFld asfOwnStat_owner 0
        (asfOwnCmd_newOwner.get v)).setFlag asfOwnStat_busy 0 true).settleRegions))

/-- A host access to the DRAM aperture in service is served, or held at a channel that is busy or holds an earlier one; one that
begins or ends beyond the DRAM is counted as well; before service it reaches the recovery window; and a write of GLB_BAR4_CFG
changes its fields (R126, R127, R132, R460, R526 to R528). The model's own choices in it: log entries 66, 164. -/
def Obligations.ApertureRowsComplete : Prop :=
  (∀ s off op ups, s.hubRuns = true → s.stage ≠ 7 → exec (.hostDramAccess off ⟨op, ups⟩) s = .next (s.recoveryAccess off.toNat op)) ∧
  (∀ s off op ups, s.hubRuns = true → s.stage = 7 → s.bar4 off.toNat ≠ .remote → s.bar4 off.toNat ≠ .hole →
    s.bar4 (off.toNat + (MemOp.size op - 1)) ≠ .hole → s.holdPoint (s.bar4Places off.toNat (MemOp.size op)) = none →
    exec (.hostDramAccess off ⟨op, ups⟩) s = .next (s.serveHost off.toNat (s.bar4Places off.toNat (MemOp.size op)) op ups)) ∧
  (∀ s off op ups c, s.hubRuns = true → s.stage = 7 → s.bar4 off.toNat ≠ .remote → s.bar4 off.toNat ≠ .hole →
    s.bar4 (off.toNat + (MemOp.size op - 1)) ≠ .hole → s.holdPoint (s.bar4Places off.toNat (MemOp.size op)) = some c →
    exec (.hostDramAccess off ⟨op, ups⟩) s =
      .next ((s.hold c (.host off.toNat (s.bar4Places off.toNat (MemOp.size op)) op ups)).sequence c)) ∧
  (∀ s off op ups t, s.hubRuns = true → s.stage = 7 → s.bar4 off.toNat ≠ .remote →
    s.bar4 off.toNat = .hole ∨ s.bar4 (off.toNat + (MemOp.size op - 1)) = .hole → t = s.bump genApertureHole_count 0 1 →
    t.holdPoint (t.bar4Places off.toNat (MemOp.size op)) = none →
    exec (.hostDramAccess off ⟨op, ups⟩) s = .next (t.serveHost off.toNat (t.bar4Places off.toNat (MemOp.size op)) op ups)) ∧
  (∀ s fn lane v, s.bar0Keeps .glbBar4Cfg 0 = true →
    exec (.glbBar4CfgWrite fn lane v) s = .next (s.writeFields (fnNum fn) lane .glbBar4Cfg 0 v))

/-- The time base's rows complete: copies out of step are noted, counted and reported; at an interval's end the master is asked
for the time, or the interval of the grandmaster's messages ends; a request is answered with the port's times, and the answer to
the last request is an exchange; the input clock is lost and comes back; an announcement is noted, and a sync of the best
grandmaster is an exchange; a PPS edge is stamped, and with phase source 3 corrects the count, one that comes too soon is
ignored, and one that does not come is noted, and with phase source 3 begins holdover; the output pulse rises and falls; and a
written step of the count is taken where it may be, and else counted as refused (R353 to R363). The model's own choices in it:
log entries 76, 77, 159, 165. -/
def Obligations.TimeRowsComplete : Prop :=
  (∀ s copies off, s.live = true →
    off = copies.filter (fun c => 2 < c.2.natAbs && !mhas s.pwr.copies c.1 && !s.tmb.drift.any fun d => d.1 = c.1) →
    exec (.copyCompare copies) s =
      .next (off.foldl (fun s c => (s.bump tmbStat_relocks 0 1).raise (errorOf 0 9 1 c.1)) { s with tmb := { s.tmb with drift := off } })) ∧
  (∀ s, s.live = true → s.intervalOver = true → s.asksTime = true →
    exec .timeReqTimer s = .next (s.endInterval.sendGroup (s.fld tmbCtrl_master 0) 0x11 (leBytes 8 0))) ∧
  (∀ s, s.live = true → s.intervalOver = true → s.asksTime = false → s.fld tmbCtrl_phaseSrc 0 = 2 →
    exec .timeReqTimer s = .next s.endInterval) ∧
  (∀ s node port t1, s.live = true → s.ownNode ≠ 0xFFFF → s.asf.links.contains port.val = true →
    exec (.timeReq node port t1) s =
      .next ((s.rxWork port.val).sendGroup node.toNat 0x12 (leBytes 8 t1.toNat ++ leBytes 8 s.now ++ leBytes 8 0))) ∧
  (∀ s port t1 t2 t3 q, s.live = true → s.fld tmbCtrl_phaseSrc 0 = 1 → s.tmb.reqT1 = some (q, t1.toNat) →
    exec (.timeResp port t1 t2 t3) s = .next ((s.rxWork port.val).exchange q t1.toNat t2.toNat t3.toNat s.now)) ∧
  (∀ s, s.live = true → s.fld tmbCtrl_freqSrc 0 = 1 → s.tmb.fallback = false →
    exec .timeClkInLoss s =
      .next ((({ s with tmb := { s.tmb with fallback := true } }).setFlag tmbStat_freqLost 0 true).raise (errorOf 0 9 2 0))) ∧
  (∀ s, s.live = true → s.tmb.fallback = true →
    exec .timeClkInReturn s = .next (({ s with tmb := { s.tmb with fallback := false } }).setFlag tmbStat_freqLost 0 false)) ∧
  (∀ s port clock domain priority, s.live = true → s.fld tmbCtrl_phaseSrc 0 = 2 → port.val = s.fld tmbPtpCfg_port 0 →
    domain.toNat = s.fld tmbPtpCfg_domain 0 →
    exec (.ptpMessage port (.announce clock domain priority)) s =
      .next { s with tmb := { s.tmb with masters := noteMaster s.tmb.masters clock.toNat priority.toNat } }) ∧
  (∀ s port clock domain t1 t2 t3 t4 x, s.live = true → s.fld tmbCtrl_phaseSrc 0 = 2 → port.val = s.fld tmbPtpCfg_port 0 →
    domain.toNat = s.fld tmbPtpCfg_domain 0 → bestMaster s.tmb.masters = some x → x.1 = clock.toNat →
    exec (.ptpMessage port (.syncFollow clock domain t1 t2 t3 t4)) s =
      .next (s.exchange port.val t3.toNat t4.toNat t1.toNat t2.toNat)) ∧
  (∀ s t u, s.live = true → t = s.ppsEvent → (t.tmb.lastPps.any fun x => t.now < x + 9 * (ticksPerS / 10)) = false →
    u = (({ t with tmb := { t.tmb with lastPps := some t.now } }).setFld tmbPpsInTs_tick 0 t.now).setFlag tmbStat_ppsLost 0 false →
    u.fld tmbCtrl_phaseSrc 0 ≠ 3 → exec .syncPpsIn s = .next u) ∧
  (∀ s t u, s.live = true → t = s.ppsEvent → (t.tmb.lastPps.any fun x => t.now < x + 9 * (ticksPerS / 10)) = false →
    u = (({ t with tmb := { t.tmb with lastPps := some t.now } }).setFld tmbPpsInTs_tick 0 t.now).setFlag tmbStat_ppsLost 0 false →
    u.fld tmbCtrl_phaseSrc 0 = 3 → exec .syncPpsIn s = .next (u.correct (toSecond t.now) ticksPerS)) ∧
  (∀ s t, s.live = true → t = s.ppsEvent → (t.tmb.lastPps.any fun x => t.now < x + 9 * (ticksPerS / 10)) = true →
    exec .syncPpsIn s = .next (t.bump tmbStat_ppsIgnored 0 1)) ∧
  (∀ s t, s.live = true → s.tmb.lastPps.getD 0 + 3 * (ticksPerS / 2) ≤ s.now → t = s.setFlag tmbStat_ppsLost 0 true →
    exec .ppsLost s = .next (if t.fld tmbCtrl_phaseSrc 0 = 3 then t.holdOver else t)) ∧
  (∀ s, s.live = true → s.tmb.ppsHigh = none → s.flag tmbPpsCfg_enable 0 = true →
    ((s.now : Int) + s.fldInt tmbPpsCfg_outComp 0) % ticksPerS = 0 → exec .syncPpsOut s = .next (s.drivePps true)) ∧
  (∀ s t, s.live = true → s.tmb.ppsHigh = some t →
    s.flag tmbPpsCfg_enable 0 = false ∨ t + s.fld tmbPpsCfg_width 0 * ticksPerUs ≤ s.now →
    exec .syncPpsOut s = .next (s.drivePps false)) ∧
  (∀ s fn lane v w, s.bar0Keeps .tmbAdj 0 = true → s.triggered (fnNum fn) lane tmbAdj_adj 0 v = some w →
    s.overStep v.toInt = true → s.mayStep = true → exec (.tmbAdj fn lane v) s = .next (s.stepCount v.toInt)) ∧
  (∀ s fn lane v w, s.bar0Keeps .tmbAdj 0 = true → s.triggered (fnNum fn) lane tmbAdj_adj 0 v = some w →
    s.overStep v.toInt = false ∨ s.mayStep = false →
    exec (.tmbAdj fn lane v) s = .next (s.bump tmbStat_stepRefused 0 1))

/-- The shaping rows complete: a gate list advances and is taken over, its control arms and cancels, buckets refill and are
written, and queues are sampled (R369 to R373). The model's own choices in it: log entries 78, 79. -/
def Obligations.ShapingRowsComplete : Prop :=
  (∀ s port g t, s.live = true → mget s.shp.gates port.val = some g → g.idxEnd = some t → t ≤ s.now →
    exec (.gateEntryAdvance port) s = .next (s.nextGate port.val g t)) ∧
  (∀ s fn port lane v w, s.bar0Keeps .shpGateCtrl port.val = true → w = s.writeFields (fnNum fn) lane .shpGateCtrl port.val v →
    s.pulled (fnNum fn) lane shpGateCtrl_arm port.val v = true → s.pulled (fnNum fn) lane shpGateCtrl_cancel port.val v = false →
    w.armRefused port.val = false →
    exec (.gateArm fn port lane v) s = .next (w.setFlag shpGateCtrl_armed port.val true)) ∧
  (∀ s fn port lane v w, s.bar0Keeps .shpGateCtrl port.val = true → w = s.writeFields (fnNum fn) lane .shpGateCtrl port.val v →
    s.pulled (fnNum fn) lane shpGateCtrl_arm port.val v = true → s.pulled (fnNum fn) lane shpGateCtrl_cancel port.val v = false →
    w.armRefused port.val = true →
    exec (.gateArm fn port lane v) s = .next ((w.setFlag shpGateCtrl_armed port.val false).bump shpGateStat_refused port.val 1)) ∧
  (∀ s fn port lane v, s.bar0Keeps .shpGateCtrl port.val = true →
    s.pulled (fnNum fn) lane shpGateCtrl_arm port.val v = false → s.pulled (fnNum fn) lane shpGateCtrl_cancel port.val v = true →
    exec (.gateCancel fn port lane v) s =
      .next ((s.writeFields (fnNum fn) lane .shpGateCtrl port.val v).setFlag shpGateCtrl_armed port.val false)) ∧
  (∀ s port t bind, s.live = true → s.takeoverAt port.val = some t →
    bind = (if s.flag shpGateCtrl_bind port.val then some (s.fld shpGateCtrl_partition port.val) else none) →
    exec (.gateTakeover port) s =
      .next ((((s.restartGate port.val ⟨s.shadowGates port.val, s.fld shpGateCtrl_cycle port.val, bind, t, 0, none⟩ t).setFlag
        shpGateCtrl_armed port.val false).setFlag shpGateCtrl_active port.val true).bump shpGateStat_swaps port.val 1)) ∧
  (∀ s t, s.live = true → 0 < s.refillsDue → t = s.refillAll s.refillsDue →
    exec .bucketRefill s = .next { t with shp := { t.shp with refilledAt := s.now } }) ∧
  (∀ s fn b lane v, s.bar0Keeps (bucketReg b).1 (bucketReg b).2.1 = true →
    exec (.shpBucketWrite fn b lane v) s = .next (s.writeBucket (fnNum fn) b lane v)) ∧
  (∀ s t, s.live = true → s.flag shpSampleCtrl_enable 0 = true → s.now % 4000 = 0 → s.shp.sampledAt < s.now →
    t = ((List.range 8).filter fun q => s.fld shpSampleCtrl_ports 0 / 2 ^ q % 2 = 1).foldl State.samplePort s →
    exec .queueSample s = .next { t with shp := { t.shp with sampledAt := s.now } })

/-- The beat rows complete: heartbeats go out and are taken in, a silent node is suspected and declared lost, and a probe is
answered (R386, R387). The model's own choices in it: log entry 81. -/
def Obligations.HeartbeatRowsComplete : Prop :=
  (∀ s t, s.live = true → s.flag resCtrl_enable 0 = true →
    s.res.beats = 0 ∨ s.res.lastBeat + s.fld resCtrl_beatUs 0 * ticksPerUs ≤ s.now →
    t = s.watchers.foldl (fun t n => t.sendGroup n 0x14 s.beatBody) s →
    exec .heartbeatTimer s = .next { t with res := { t.res with beats := t.res.beats + 1, lastBeat := t.now } }) ∧
  (∀ s rx t, s.reaches rx 0x14 = true → rx.tagOk = true → t = s.rxWork rx.port.val →
    rx.frame.payload.length = 32 → frameNum rx.frame 3 1 < 8 → frameNum rx.frame 9 7 = 0 →
    exec (.heartbeat rx) s = .next (State.beat rx.frame t)) ∧
  (∀ s node, s.live = true → s.watches node.toNat = true → s.overdue node.toNat = true →
    exec (.suspicionTimer node) s = .next (s.suspect node.toNat)) ∧
  (∀ s node, s.live = true → s.flag resCtrl_enable 0 = true → s.managing = true → s.suspectedLong node.toNat = true →
    exec (.lossTimer node) s = .next (s.declareLost node.toNat)) ∧
  (∀ s rx t, s.reaches rx 0x15 = true → rx.tagOk = true → t = s.rxWork rx.port.val →
    rx.frame.payload.length = 32 → frameNum rx.frame 2 1 = 0 → frameNum rx.frame 3 29 = 0 →
    frameNum rx.frame 0 2 = t.ownNode →
    exec (.probe rx) s =
      .next (t.sendGroup rx.frame.srcNode.toNat 0x15 (leBytes 2 (frameNum rx.frame 0 2) ++ leBytes 1 1 ++ leBytes 29 0))) ∧
  (∀ s rx t, s.reaches rx 0x15 = true → rx.tagOk = true → t = s.rxWork rx.port.val →
    rx.frame.payload.length = 32 → frameNum rx.frame 2 1 = 1 → frameNum rx.frame 3 29 = 0 →
    exec (.probe rx) s = .next { t with res := { t.res with
      watch := mmod t.res.watch (frameNum rx.frame 0 2) fun w => { w with last := t.now, suspected := none } } })

/-- The rows of a decision complete: it is taken in, and sent again to the decided node and to those that lack it until none
lacks it; a deputy suspects or takes over, a takeover is followed, spares are assigned, and a mirror copy that landed protects
its sequence (R385, R388, R389, R394). The model's own choices in it: log entries 81, 82, 84, 160, 161, 166. -/
def Obligations.DecisionRowsComplete : Prop :=
  (∀ s rx t, s.reaches rx 0x16 = true → rx.tagOk = true → t = s.rxWork rx.port.val →
    rx.frame.payload.length = 32 → frameNum rx.frame 7 1 < 2 → frameNum rx.frame 10 6 = 0 →
    exec (.decision rx) s = .next (State.decided rx.frame t)) ∧
  (∀ s due, s.live = true → s.managing = true →
    due = s.res.decisions.filter (fun d => d.sentAt + s.fld resCtrl_beatUs 0 * ticksPerUs ≤ s.now) →
    exec .decisionResend s = .next (due.foldl State.resendDecision s)) ∧
  (∀ (s : State) (d : Decision), s.lacking d = [] →
    s.resendDecision d = { s with res := { s.res with decisions := s.res.decisions.erase d } }) ∧
  (∀ (s t : State) (d : Decision), s.lacking d ≠ [] → t = (d.node :: s.lacking d).foldl
      (fun s n => s.sendGroup n 0x16 (decisionBody d.term d.node d.epoch 0 0 d.tick)) s →
    s.resendDecision d = { t with res := { t.res with
      decisions := t.res.decisions.map fun x => if x = d then { d with sentAt := t.now } else x } }) ∧
  (∀ s i, s.live = true → s.deputyIndex = some i → s.flag resCtrl_enable 0 = true → s.managing = false →
    isNode (s.fld resMgr_acting 0) = true → s.lowerSilent i = true → s.overdue (s.fld resMgr_acting 0) = true →
    exec .deputyTakeoverTimer s = .next (s.suspect (s.fld resMgr_acting 0))) ∧
  (∀ s i, s.live = true → s.deputyIndex = some i → s.flag resCtrl_enable 0 = true → s.managing = false →
    isNode (s.fld resMgr_acting 0) = true → s.lowerSilent i = true → s.overdue (s.fld resMgr_acting 0) = false →
    s.suspectedLong (s.fld resMgr_acting 0) = true →
    exec .deputyTakeoverTimer s = .next (s.deputyTakes (s.fld resMgr_acting 0))) ∧
  (∀ s rx t, s.reaches rx 0x17 = true → rx.tagOk = true → t = s.rxWork rx.port.val →
    rx.frame.payload.length = 32 → frameNum rx.frame 8 24 = 0 →
    exec (.takeover rx) s = .next (State.takenOver rx.frame t)) ∧
  (∀ s, s.live = true → s.res.unspared ≠ [] → s.res.sparedAt + ticksPerMs ≤ s.now →
    exec .spareRetryTimer s = .next s.assignSpares) ∧
  (∀ s handle q, s.live = true → s.seq handle.toNat = some q → s.copyWanted handle.toNat q = true →
    (if q.prot || q.copying then s.copyLanded handle.toNat q else s.appendsAcked handle.toNat) = true →
    exec (.mirrorCopyComplete handle true) s = .next (s.copyDone handle.toNat q)) ∧
  (∀ s handle q, s.live = true → s.seq handle.toNat = some q → s.copyWanted handle.toNat q = true →
    exec (.mirrorCopyComplete handle false) s = .next (s.partnerGone handle.toNat q))

/-- The error rows complete: a unit's error is raised, a merge window ends in one record of its count, the correctable counts
start anew with each window, the log's control is written, and a core's watchdog raises by the partitions that it serves (R401
to R403, R531). -/
def Obligations.ErrorRowsComplete : Prop :=
  (∀ s e, s.takesErrors e.sev.toNat = true → 1 ≤ e.unit.toNat → e.unit.toNat ≤ 0x10 →
    exec (.errorRaised e) s = .next (s.raise e)) ∧
  (∀ s u code location m, s.res.merging.find? (fun m => m.1.unit = u.toNat && m.1.code = code.toNat && m.1.location = location) =
      some m → m.2.1 + ticksPerMs ≤ s.now → 0 < m.2.2 →
    exec (.ceMergeWindowEnd u code location) s =
      .next ({ s with res := { s.res with merging := s.res.merging.filter (· ≠ m) } }.handle (mergedRecord m.1 m.2.2))) ∧
  (∀ s, s.windowStart + s.fld resCeCfg_windowMs 0 * ticksPerMs ≤ s.now →
    exec .ceThresholdWindowEnd s =
      .next { s with res := { s.res with ceCounts := [], ceWindow := s.windowStart +
        (s.now - s.windowStart) / (s.fld resCeCfg_windowMs 0 * ticksPerMs) * (s.fld resCeCfg_windowMs 0 * ticksPerMs) } }) ∧
  (∀ s fn lane v, s.bar0Keeps .glbErrlogCtrl 0 = true →
    exec (.glbErrlogCtrlWrite fn lane v) s = .next (s.writeErrlogCtrl (fnNum fn) lane v)) ∧
  (∀ s core p, s.live = true → (List.range 16).filter (fun p => s.fld dbgHalt_cores p / 2 ^ core.val % 2 = 1) = [p] →
    exec (.coreWatchdog core) s = .next (s.raise (errorOfPart 2 0x0D 1 core.val p))) ∧
  (∀ s core, s.live = true → (List.range 16).filter (fun p => s.fld dbgHalt_cores p / 2 ^ core.val % 2 = 1) = [] →
    exec (.coreWatchdog core) s = .next (s.raise (errorOf 3 0x0D 1 core.val)))

/-- The sleep rows complete: an idle domain goes down, a wake begins and ends, and the device enters and leaves C3 and C5 (R410,
R412, R413, R417, R432, R433). The model's own choices in it: log entries 91, 92, 159. -/
def Obligations.SleepRowsComplete : Prop :=
  (∀ s d, s.live = true → s.fld pwrDevStat_state 0 = 0 → exec (.domainIdleTimer d) s = .next (s.domainIdles d.val)) ∧
  (∀ s d source, s.live = true → 1 ≤ source.toNat → source.toNat ≤ 10 → s.domainState d.val ≠ 0 →
    mget s.pwr.waking d.val = none →
    exec (.rindWake d source) s = .next ((({ s with pwr := { s.pwr with
      waking := mset s.pwr.waking d.val (source.toNat, s.now) } }.startLoop d.val).bump pwrDomStat_wakes d.val 1).setFld
        pwrDomStat_lastWake d.val source.toNat)) ∧
  (∀ s d, s.live = true → (s.neededBy d.val (s.now + wakeTicks (s.domainState d.val))).isSome = true →
    exec (.scheduledWake d) s = .next (s.beginWake d.val 1)) ∧
  (∀ s d ok w, s.live = true → mget s.pwr.waking d.val = some w → w.2 + wakeTicks (s.domainState d.val) ≤ s.now →
    s.locked d.val = true → exec (.domainWakeComplete d ok) s = .next (s.endWake d.val w ok)) ∧
  (∀ s, s.live = true → s.fld pwrDevStat_state 0 = 0 → s.flag pwrDevCfg_c3En 0 = true →
    mgetD s.pwr.lastWork 100 0 + s.fld pwrDevCfg_c3IdleMs 0 * ticksPerMs ≤ s.now → s.asithBusy = false → s.c3Refuser = none →
    exec .c3Entry s = .next s.enterC3) ∧
  (∀ s source, s.live = true → s.fld pwrDevStat_state 0 = 1 → 1 ≤ source.toNat → source.toNat ≤ 10 →
    exec (.c3Exit source) s = .next (s.toC0 source.toNat)) ∧
  (∀ s, s.live = true → s.fld pwrDevStat_state 0 = 1 → s.flag pwrDevCfg_c5En 0 = true →
    s.pwr.c3Since + s.fld pwrDevCfg_c5IdleS 0 * 1000 * ticksPerMs ≤ s.now → s.c5Refuser = none →
    exec .c5Entry s = .next s.enterC5) ∧
  (∀ s source, s.stage = 7 → s.fld pwrDevStat_state 0 = 2 → s.pln.c6 = false → 1 ≤ source.toNat → source.toNat ≤ 10 →
    exec (.c5Exit source true) s = .next (s.leaveC5 source.toNat)) ∧
  (∀ s source, s.stage = 7 → s.fld pwrDevStat_state 0 = 2 → s.pln.c6 = false → 1 ≤ source.toNat → source.toNat ≤ 10 →
    exec (.c5Exit source false) s = .next (s.reboot 3 2))

/-- The voltage rows complete: a raise begins with its writes, VDONE ends it, a timeout or a refusal fails it, and a busy answer
is tried again up to eight times (R428, R429). The model's own choices in it: log entry 91. -/
def Obligations.VoltageRowsComplete : Prop :=
  (∀ s point r, s.live = true → s.fld pwrDevStat_state 0 = 0 → s.pwr.raise = none → point.val < s.pwr.confirmed →
    topPoint s.pwr.plan = point.val → s.fld pwrAvsStat_held 0 % 4 = 0 → r = (⟨point.val, none, [1, 0], s.now, 0, 0⟩ : Raise) →
    exec (.avsRaise point) s = .next ((s.writeRaise r).setRaise (some r))) ∧
  (∀ s core sram mem r left t, s.live = true → s.pwr.raise = some r →
    left = r.waiting.filter (fun x => !((x = 0 && core) || (x = 1 && sram) || (x = 2 && mem))) →
    t = s.emit (.avsStatus (if r.waiting.contains 2 then 1 else 0)) → left = [] →
    exec (.vdonePoll core sram mem) s = .next (t.raiseDone r)) ∧
  (∀ s core sram mem r left t, s.live = true → s.pwr.raise = some r →
    left = r.waiting.filter (fun x => !((x = 0 && core) || (x = 1 && sram) || (x = 2 && mem))) →
    t = s.emit (.avsStatus (if r.waiting.contains 2 then 1 else 0)) → left ≠ [] →
    exec (.vdonePoll core sram mem) s = .next (t.setRaise (some { r with waiting := left }))) ∧
  (∀ s r, s.live = true → s.pwr.raise = some r → r.started + s.fld pwrAvsCfg_vdoneTimeoutUs 0 * ticksPerUs ≤ s.now →
    exec .vdoneTimeout s = .next (s.raiseFails r 4)) ∧
  (∀ s r, s.live = true → s.pwr.raise = some r → r.busy < 8 →
    exec (.avsBusyRetry 1) s =
      .next (((s.bump pwrAvsStat_busyRetries 0 1).writeRaise r).setRaise (some { r with busy := r.busy + 1 }))) ∧
  (∀ s r, s.live = true → s.pwr.raise = some r → 8 ≤ r.busy → exec (.avsBusyRetry 1) s = .next (s.raiseFails r 1)) ∧
  (∀ s r, s.live = true → s.pwr.raise = some r → r.crc < 3 →
    exec (.avsBusyRetry 2) s =
      .next (((s.bump pwrAvsStat_crcResends 0 1).writeRaise r).setRaise (some { r with crc := r.crc + 1 }))) ∧
  (∀ s r, s.live = true → s.pwr.raise = some r → exec (.avsBusyRetry 3) s = .next (s.raiseFails r 3))

/-- The capping and thermal rows complete: the 1 ms window runs, a droop is counted, the hold of a limit ends, the sensors are
read, and a domain beside a hot sensor steps down, and back up when none is hot (R438, R444 to R446). The model's own choices in
it: log entries 93, 94. -/
def Obligations.CappingRowsComplete : Prop :=
  (∀ s sample, s.live = true → s.pwr.windowAt = 0 ∨ s.pwr.windowAt + ticksPerMs ≤ s.now →
    exec (.cappingWindow sample) s = .next (s.window sample)) ∧
  (∀ s d n, s.live = true → d.val < 89 ∨ d.val = 100 → n = mgetD s.pwr.droopWindow d.val 0 + 1 → n ≠ 1000 →
    exec (.droop d) s = .next ({ s with pwr := { s.pwr with
      doubledClock := mset s.pwr.doubledClock d.val s.now,
      droopWindow := mset s.pwr.droopWindow d.val n } }.bump pwrDomStat_droops d.val 1)) ∧
  (∀ s d, s.live = true → d.val < 89 ∨ d.val = 100 → mgetD s.pwr.droopWindow d.val 0 = 999 →
    exec (.droop d) s = .next (({ s with pwr := { s.pwr with
      doubledClock := mset s.pwr.doubledClock d.val s.now,
      droopWindow := mset s.pwr.droopWindow d.val 1000 } }.bump pwrDomStat_droops d.val 1).raise (errorOf 0 0x0C 4 d.val))) ∧
  (∀ s t, s.live = true → s.pwr.limitUntil = some t → t ≤ s.now →
    exec .powerLimitHoldExpiry s = .next ({ s with pwr := { s.pwr with
      limitOn := false, limitUntil := none, floor := s.fld pwrLimitCfg_point 0 } }.setFlag pwrLimitCfg_active 0 false)) ∧
  (∀ s logic dram, s.live = true → exec (.thermalSample logic dram) s = .next (s.readSensors logic dram)) ∧
  (∀ s d n, s.live = true → d.val < 25 ∨ d.val = 100 → mgetD s.pwr.throttled d.val 0 = n →
    n = 0 ∨ mgetD s.pwr.stepAt d.val 0 + 100 * ticksPerUs ≤ s.now → s.domainPoint d.val < 7 →
    exec (.throttleStepTimer d) s =
      .next (if s.besideHot d.val then ((s.throttleTo d.val (n + 1)).bump pwrTherm_throttles 0 1).notePoints
        else if 0 < n && mgetD s.pwr.stepAt d.val 0 + ticksPerMs ≤ s.now then (s.throttleTo d.val (n - 1)).notePoints else s)) ∧
  (∀ s d n, s.live = true → d.val < 25 ∨ d.val = 100 → s.besideHot d.val = false → mgetD s.pwr.throttled d.val 0 = n →
    0 < n → mgetD s.pwr.stepAt d.val 0 + ticksPerMs ≤ s.now →
    exec (.throttleStepTimer d) s = .next ((s.throttleTo d.val (n - 1)).notePoints))

/-- The rack rows complete: a member tells its demand each period, the manager shares the budget, a share is taken, and without
shares for four periods the failsafe applies (R436, R437). The model's own choices in it: log entries 93, 94. -/
def Obligations.RackRowsComplete : Prop :=
  (∀ s m n d f t, s.live = true → s.manager = some m →
    s.pwr.period = 0 ∨ s.pwr.demandAt + s.fld pwrRack_periodMs 0 * ticksPerMs ≤ s.now →
    d = min 65535 (s.predict s.preferredPlan).floor.toNat → f = min 65535 (s.predict (List.replicate 7 7)).floor.toNat →
    n = (s.pwr.period + 1) % 2 ^ 32 → m = s.ownNode →
    t = { s with pwr := { s.pwr with period := n, demandAt := s.now, lateFlag := false } } →
    exec .demandRecord s = .next { t with pwr := { t.pwr with demands := mset t.pwr.demands m (d, f, s.demandFlags, n) } }) ∧
  (∀ s m n d f t, s.live = true → s.manager = some m →
    s.pwr.period = 0 ∨ s.pwr.demandAt + s.fld pwrRack_periodMs 0 * ticksPerMs ≤ s.now →
    d = min 65535 (s.predict s.preferredPlan).floor.toNat → f = min 65535 (s.predict (List.replicate 7 7)).floor.toNat →
    n = (s.pwr.period + 1) % 2 ^ 32 → m ≠ s.ownNode →
    t = { s with pwr := { s.pwr with period := n, demandAt := s.now, lateFlag := false } } →
    exec .demandRecord s =
      .next (t.send m (.demand (demandBytes s.ownNode s.demandFlags d f (s.fld pwrCtrlStat_measuredW 0) n)))) ∧
  (∀ s t fresh own all, s.live = true → s.managing = true → s.fld pwrRack_budget 0 ≠ 0 →
    s.pwr.sharedAt = 0 ∨ s.pwr.sharedAt + s.fld pwrRack_periodMs 0 * ticksPerMs ≤ s.now →
    t = { s with pwr := { s.pwr with sharedAt := s.now } }.demandRegion →
    fresh = (t.res.watch.map Prod.fst).filterMap (fun n => (t.readDemand n).map fun d => (n, d)) →
    own = ((mget t.pwr.demands t.ownNode).toList.filter fun d => d.2.2.2 = t.pwr.period && 0 < t.pwr.period).map
      (fun d => (t.ownNode, d)) → all = fresh ++ own → all ≠ [] →
    ∃ u, exec .rackSharePeriod s =
      .next ((shareOut (u.fld pwrRack_budget 0 : Rat) (all.map memberOf)).foldl State.giveShare u) ∧
      u = (fresh.foldl (fun s x => { s with pwr := { s.pwr with demands := mset s.pwr.demands x.1 x.2 } }) t).setFld
        pwrRack_reporting 0 all.length) ∧
  (∀ s r, s.live = true → r.toNat % 2 ^ 16 = s.ownNode →
    exec (.shareRecord r) s = .next (s.takeShare (r.toNat / 2 ^ 16 % 2 ^ 16))) ∧
  (∀ s m, s.live = true → s.manager = some m → s.pwr.failsafe = false → s.fld pwrCap_share 0 ≠ 0 →
    s.pwr.lastShare + 4 * s.fld pwrRack_periodMs 0 * ticksPerMs ≤ s.now →
    exec .shareFailsafe s = .next (({ s.setFld pwrCap_share 0 (s.fld pwrRack_failsafeW 0) with
      pwr := { s.pwr with failsafe := true } }).raise (errorOf 0 0x0C 9 m)))

/-- Register writes complete: a write that decodes is made in the register that the offset names, as its lane covers it, and the
rows of the registers that act have their registers' effects; a misaligned or odd-sized access is counted and discarded (R232,
R252, R253, R521, R522). The model's own choices in it: log entries 10, 110. -/
def Obligations.RegisterWriteRowsComplete : Prop :=
  (∀ s fn lane v w, s.bar0Keeps .cmpDramXts 0 = true → s.triggered (fnNum fn) lane cmpDramXts_enable 0 v = some w →
    exec (.cmpDramXtsWrite fn lane v) s =
      .next ((List.range 16).foldl (fun s p => s.writeXtsBit p (w / 2 ^ p % 2 = 1)) s)) ∧
  (∀ s fn t lane v w, s.bar0Keeps .schTenant t.toNat = true → w = s.writeFields (fnNum fn) lane .schTenant t.toNat v →
    s.seqs.any (fun q => q.2.tenant = t.toNat) = false → exec (.schTenantWrite fn t lane v) s = .next w) ∧
  (∀ s fn t lane v, s.bar0Keeps .schTenant t.toNat = true → s.seqs.any (fun q => q.2.tenant = t.toNat) = true →
    s.reg .schTenant t.toNat ≠ (s.writeFields (fnNum fn) lane .schTenant t.toNat v).reg .schTenant t.toNat →
    exec (.schTenantWrite fn t lane v) s = .next s) ∧
  (∀ s fn p lane v w, s.bar0Keeps .schPart p.val = true → w = s.writeFields (fnNum fn) lane .schPart p.val v →
    w.fld schPart_cap p.val ≤ w.fld schPart_batchMax p.val → exec (.schPartWrite fn p lane v) s = .next w) ∧
  (∀ s fn p lane v w, s.bar0Keeps .schPart p.val = true → w = s.writeFields (fnNum fn) lane .schPart p.val v →
    w.fld schPart_batchMax p.val < w.fld schPart_cap p.val →
    exec (.schPartWrite fn p lane v) s = .next (w.setFld schPart_cap p.val (w.fld schPart_batchMax p.val))) ∧
  (∀ s fn off size v l r i, laneOf off.toNat size = some l → off.toNat < 0x8000 ∨ 0x10000 ≤ off.toNat →
    findReg (fnNum fn) (off.toNat / 8 * 8) = some (r, i) → sees s (fnNum fn) r i = true → r ≠ .dbgGstop →
    s.bar0Keeps r i = true → exec (.registerWrite fn off size v) s = .next (s.writeReg fn l r i v)) ∧
  (∀ s fn off size v, laneOf off.toNat size = none → s.hubRuns = true →
    exec (.registerWrite fn off size v) s = .next (s.bump glbErrStat_badAccess 0 1))

/-- The trace and debug rows complete: a capture is configured and triggered, records and frames are taken, a partition is
halted and resumed, memory is read for debug, and a hit breakpoint halts (R478 to R488). The model's own choices in it: log
entries 102, 103, 104, 105, 106. -/
def Obligations.DebugRowsComplete : Prop :=
  (∀ s c d e, s.takes 0x80 c [] 0 d e → e.traceAllows (d.trace e.trace).payload (d.trace e.trace).stall = true →
    exec (.traceConfig c) s = .next ((e.configTrace (d.trace e.trace)).finish d.id 0 0 0)) ∧
  (∀ s c d e, s.takes 0x81 c [] 0 d e → e.trace.armedFor 0 = true →
    exec (.traceTrigger c) s = .next ((e.fireTrigger 0).finish d.id 0 0 0)) ∧
  (∀ s c d e, s.takes 0x82 c [] 0 d e → e.mayHalt d.obj = true → e.fld schGroup_members d.obj = 0 →
    e.flag dbgHalt_drained d.obj = false →
    exec (.debugHalt c) s = .next ((e.await d.id (.halt d.obj)).haltPart d.obj)) ∧
  (∀ s c d e t, s.takes 0x83 c [] 0 d e → e.maySee d.obj (d.par 40 1) = true →
    t = e.debugWakes d.obj (d.par 40 1) (d.par 16 8) (d.par 24 8) →
    exec (.debugMemRead c) s = .next ((t.putBuffer d (d.par 32 8)
      ((List.range (d.par 24 8)).map fun i => t.debugByte d.obj (d.par 40 1) (d.par 16 8 + i))).finish d.id 0 0 0)) ∧
  (∀ s core, s.live = true → exec (.breakpointHit core) s = .next
    (((List.range 16).filter fun p => s.fld dbgHalt_cores p / 2 ^ core.val % 2 = 1).foldl (fun s p =>
      if s.mayHalt p && s.fld schGroup_members p = 0 && !(s.part p).halted then s.haltPart p else s) s)) ∧
  (∀ s, s.live = true → exec .traceFrame s = .next s.sendTrace) ∧
  (∀ s r, s.live = true → exec (.traceRecord r) s = .next (s.traceEvent r)) ∧
  (∀ s fn p lane v, s.bar0Keeps .dbgHalt p.val = true → s.pulled (fnNum fn) lane dbgHalt_resume p.val v = true →
    s.mayHalt p.val = true → exec (.dbgHaltResume fn p lane v) s = .next (s.resumeHalt p.val))

/-- The global stop's rows complete: the stop is asserted by register and by JTAG, the scan headers of all 101 domains go out
under it, and the boundary-scan register takes the lands and gives them back with a reset (R476, R489, R490). The model's own
choices in it: log entry 106. -/
def Obligations.StopRowsComplete : Prop :=
  (∀ s fn lane v, s.pln.stopped = false → s.bar0Keeps .dbgGstop 0 = true →
    s.pulled (fnNum fn) lane dbgGstop_assert 0 v = true →
    exec (.dbgGstopAssert fn lane v) s = .next ((s.writeFields (fnNum fn) lane .dbgGstop 0 v).globalStop 1 true)) ∧
  (∀ s fn lane v, s.pln.stopped = true →
    exec (.dbgGstopAssert fn lane v) s = .next (s.writeFields (fnNum fn) lane .dbgGstop 0 v)) ∧
  (∀ s, s.jtagDebug = true → s.mayStop = true → exec .jtagGstop s = .next (s.globalStop 2 true)) ∧
  (∀ s chains, s.pln.stopped = true → exec (.plaster false chains) s = .next (s.plaster chains)) ∧
  (∀ s chains, s.pln.stopped = true → s.jtagDebug = true → exec (.plaster true chains) s = .next (s.plaster chains)) ∧
  (∀ s, s.pln.boundaryScan = false → s.pln.powered = true →
    ({ s with pln := { s.pln with boundaryScan := true } } : State).mayStop = true →
    exec .jtagBoundaryTakeover s =
      .next ({ s with pln := { s.pln with boundaryScan := true } }.raise (errorOf 3 0x0E 7 0))) ∧
  (∀ s, s.pln.boundaryScan = true → 2 ≤ s.stage → s.pln.c6 = false → exec .jtagBoundaryRelease s = .next (s.reboot 2 2))

/-- The security rows complete: an image that verifies is taken for programming and another is refused, a token that verifies
opens field debug and another raises an error, the lifecycle moves on, and the recovery image streamed in runs (R453 to R461,
R472). The model's own choices in it: log entries 97, 98, 100, 101. -/
def Obligations.SecurityRowsComplete : Prop :=
  (∀ s c image code d e b, s.takes 0xE0 c [] code d e → b = image.take (d.par 24 4) →
    e.sec.bootFlash.isSome = true → e.fld ftlHoldupCfg_cap 0 = 0 → e.pln.pfail = false →
    exec (.fwImage c image code) s = .next (if e.sec.imageResult b false = 0 then
      ({ e.programmingEnds with sec := { e.programmingEnds.sec with programming := some (d.id, b) } }).await d.id .firmware
      else e.finish d.id 0x30 0 0)) ∧
  (∀ s c token d e t, s.takes 0xE1 c [] 0 d e → e.lifecycle = 2 → e.sec.fieldLock = false →
    t = (((e.setFld glbLifecycle_state 0 3).setFlag secDebug_active 0 true).setFld secDebug_partition 0
      (numberAt token 69 1)).setFld secDebug_features 0 (numberAt token 68 1) →
    exec (.debugToken c token) s = .next (if e.tokenOk token then t.drawNonce.finish d.id 0 0 0
      else (e.raise (errorOf 0 0x0E 3 0)).finish d.id 0x30 0 0)) ∧
  (∀ s c d e, s.takes 0xE2 c [] 0 d e → d.par 16 1 = 1 → e.lifecycle = 0 →
    exec (.lifecycleSet c) s = .next ((({ e with sec := { e.sec with uds := some e.freeCtr }, freeCtr := e.freeCtr + 1 }).setFused
      1).finish d.id 0 0 0)) ∧
  (∀ s c d e, s.takes 0xE2 c [] 0 d e → d.par 16 1 = 2 → e.lifecycle = 1 →
    exec (.lifecycleSet c) s = .next ((e.setFused 2).finish d.id 0 0 0)) ∧
  (∀ s c d e, s.takes 0xE2 c [] 0 d e → d.par 16 1 = 4 → e.lifecycle = 2 →
    exec (.lifecycleSet c) s = .next (e.finish d.id 0 0 0).retire_) ∧
  (∀ s c d e, s.takes 0xE2 c [] 0 d e → d.par 16 1 = 1 → e.lifecycle = 2 →
    exec (.lifecycleSet c) s = .next (e.finish d.id 0x13 0 0)) ∧
  (∀ s fn lane v w, s.bar0Keeps .secRecovery 0 = true → s.pulled (fnNum fn) lane secRecovery_go 0 v = true →
    w = s.writeFields (fnNum fn) lane .secRecovery 0 v → w.stage = 4 → w.flag secRecovery_ready 0 = true →
    w.fld secRecovery_length 0 ≠ 0 → exec (.secRecoveryGo fn lane v) s = .next w.streamedImage)

/-- The SPDM requests that set a session up complete: VERSION begins the negotiation, the phases follow one another, and the
certificate, the challenge and the measurements are answered after it (R465, R466). The model's own choices in it: log entry
107. -/
def Obligations.SpdmNegotiationComplete : Prop :=
  (∀ s, s.hubRuns = true →
    exec .getVersion s = .next ((s.modSpdm fun _ => ⟨1, 0x13, 0, []⟩).spdmAnswer 0x04 [0, 2, 0, 0x12, 0, 0x13])) ∧
  (∀ s, s.hubRuns = true → 1 ≤ s.sec.spdm.phase →
    exec .getCapabilities s = .next ((s.modSpdm fun x => { x with phase := 2 }).spdmAnswer 0x61 [])) ∧
  (∀ s offer, s.hubRuns = true → 2 ≤ s.sec.spdm.phase → offer.rsassa4096 = true → offer.sha384 = true →
    offer.secp384r1 = true → offer.aes256gcm = true →
    exec (.negotiateAlgorithms offer) s = .next ((s.modSpdm fun x => { x with phase := 3 }).spdmAnswer 0x63 [])) ∧
  (∀ s c, s.hubRuns = true → s.lifecycle ≠ 4 → 3 ≤ s.sec.spdm.phase → s.chain = some c →
    exec .getDigests s = .next (s.spdmAnswer 0x01 (1 :: digestBytes (Config.sha384 c)))) ∧
  (∀ s slot off len c part, s.hubRuns = true → s.lifecycle ≠ 4 → 3 ≤ s.sec.spdm.phase → s.chain = some c → slot = 0 →
    part = (c.drop off.toNat).take len.toNat →
    exec (.getCertificate slot off len) s = .next (if off.toNat < c.length then
      s.spdmAnswer 0x02 (leBytes 2 part.length ++ leBytes 2 (c.length - off.toNat - part.length) ++ part)
      else s.spdmError spdmInvalid)) ∧
  (∀ s nonce c, s.hubRuns = true → s.lifecycle ≠ 4 → 3 ≤ s.sec.spdm.phase → s.sec.identity.isSome = true → s.chain = some c →
    exec (.challenge nonce) s = .next (({ s with freeCtr := s.freeCtr + 1 }).spdmSigned 0x03
      (digestBytes (Config.sha384 c) ++ leBytes 32 ((Config.entropy s.freeCtr).toNat % 2 ^ 256) ++ leBytes 32 nonce.toNat))) ∧
  (∀ s index, s.hubRuns = true → s.lifecycle ≠ 4 → 3 ≤ s.sec.spdm.phase → index.toNat ≤ 5 ∨ index = 0xFF →
    exec (.getMeasurements index false) s = .next (s.spdmAnswer 0x60 (s.measured index.toNat))) ∧
  (∀ s index, s.hubRuns = true → s.lifecycle ≠ 4 → 3 ≤ s.sec.spdm.phase → index.toNat ≤ 5 ∨ index = 0xFF →
    s.sec.identity.isSome = true → exec (.getMeasurements index true) s = .next (s.spdmSigned 0x60 (s.measured index.toNat)))

/-- The SPDM requests of a session complete: keys are exchanged, the session is finished, kept alive, rekeyed and ended, a large
answer is fetched in chunks, node keys and IDE keys are set inside it, and an unknown code is answered so (R465, R467, R469).
The model's own choices in it: log entries 107, 108. -/
def Obligations.SpdmSessionComplete : Prop :=
  (∀ s key, s.hubRuns = true → s.lifecycle ≠ 4 → 3 ≤ s.sec.spdm.phase → s.sec.identity.isSome = true →
    exec (.keyExchange key) s = .next ((({ s with freeCtr := s.freeCtr + 2 }).modSpdm fun x => { x with phase := 4 }).spdmSigned
      0x64 (digestBytes (Config.entropy s.freeCtr) ++ digestBytes (Config.entropy (s.freeCtr + 1)) ++ key))) ∧
  (∀ s, s.hubRuns = true → s.lifecycle ≠ 4 → s.sec.spdm.phase = 4 →
    exec (.finish true) s = .next ((s.modSpdm fun x => { x with phase := 5 }).spdmAnswer 0x65 [])) ∧
  (∀ s, s.hubRuns = true → s.lifecycle ≠ 4 → s.sec.spdm.phase = 4 →
    exec (.finish false) s = .next ((s.modSpdm fun x => { x with phase := 3 }).spdmError spdmDecrypt)) ∧
  (∀ s, s.hubRuns = true → s.lifecycle ≠ 4 → 5 ≤ s.sec.spdm.phase → exec .spdmHeartbeat s = .next (s.spdmAnswer 0x68 [])) ∧
  (∀ s op, s.hubRuns = true → s.lifecycle ≠ 4 → 5 ≤ s.sec.spdm.phase → 1 ≤ op.toNat → op.toNat ≤ 3 →
    exec (.keyUpdate op) s = .next (s.spdmAnswer 0x69 [op])) ∧
  (∀ s, s.hubRuns = true → s.lifecycle ≠ 4 → 5 ≤ s.sec.spdm.phase →
    exec .endSession s = .next ((s.spdmAnswer 0x6C []).modSpdm fun x => { x with phase := 3 })) ∧
  (∀ s chunk n, s.hubRuns = true → s.lifecycle ≠ 4 → 3 ≤ s.sec.spdm.phase → n = max 1 Config.spdmTransfer →
    (chunk.toNat + 1) * n < s.sec.spdm.large.length →
    exec (.chunkGet chunk) s = .next (s.emit (.spdm 0x06 ((s.sec.spdm.large.drop (chunk.toNat * n)).take n)))) ∧
  (∀ s node gen key, s.hubRuns = true → s.lifecycle ≠ 4 → s.sec.spdm.phase = 5 →
    exec (.setNodeKey true 1 node gen key) s = .next ((s.installKey node.toNat gen.toNat key).spdmAnswer 0x7E [])) ∧
  (∀ s op node gen key, s.hubRuns = true → s.lifecycle ≠ 4 →
    exec (.setNodeKey false op node gen key) s = .next ((s.raise (errorOf 0 0x0E 8 0)).spdmError spdmUnspecified)) ∧
  (∀ s stream, s.hubRuns = true → s.lifecycle ≠ 4 → s.sec.spdm.phase = 5 →
    exec (.ideKmRequest true stream .program) s =
      .next (({ s with sec := { s.sec with ide := mset s.sec.ide stream.val 1 } }).spdmAnswer 0x7E [])) ∧
  (∀ s stream, s.hubRuns = true → s.lifecycle ≠ 4 → s.sec.spdm.phase = 5 → mhas s.sec.ide stream.val = true →
    exec (.ideKmRequest true stream .go) s =
      .next (({ s with sec := { s.sec with ide := mset s.sec.ide stream.val 2 } }).spdmAnswer 0x7E [])) ∧
  (∀ s code, s.hubRuns = true → exec (.spdmUnsupportedRequest code) s =
    .next { s with out := .spdm 0x7F [BitVec.ofNat 8 spdmUnsupported, code] :: s.out })

/-- The start-up rows complete in their order: the plinth loads the fuses, the rails come up one by one, the clocks lock, memory
is cleared, the ROM verifies, the identity is derived, firmware initialises, and the flash layer enters service (R434, R458,
R462, R497, R506 to R508). The model's own choices in it: log entries 96, 97, 98. -/
def Obligations.StartupRowsComplete : Prop :=
  (∀ s inp, s.pln.powered = false ∨ s.stage = 0 → exec (.coldStart inp) s = .next (s.coldStart inp)) ∧
  (∀ s, s.pln.powered = true → s.stage = 0 → s.pln.c6 = false → s.pln.stayOff = false →
    s.pln.aonAt + 1000 * ticksPerMs ≤ s.now → exec .railSequenceStart s = .next s.beginRails) ∧
  (∀ s, s.stage = 1 → s.pln.rails.length < 6 →
    exec .railInRange s = .next { s with
      pln := { s.pln with rails := s.pln.rails ++ [s.pln.rails.length] }, out := .pin s.pln.rails.length true :: s.out }) ∧
  (∀ s t, s.stage = 1 → t = (s.writeRecord (errorRecord (errorOf 3 0x0F 1 (s.pln.rails.length - 1)) s.now)).toC6 8 →
    exec .railFault s = .next ({ t with pln := { t.pln with railFault := true } }.raiseAlert)) ∧
  (∀ s, s.stage = 1 → s.pln.rails.length = 6 → exec .clocksLocked s = .next (s.setFld plnBoot_stage 0 2).startLoops.hubReleased) ∧
  (∀ s, 2 ≤ s.stage → s.stage ≤ 6 → s.pln.stopped = false →
    exec .dramInitComplete s = .next { s with dram := [], poison := [] }) ∧
  (∀ s answers image, s.stage = 2 → s.pln.stopped = false → s.pln.perst = false →
    exec (.bootVerify answers image) s = .next (s.romVerify answers image)) ∧
  (∀ s, s.stage = 5 → s.pln.stopped = false →
    exec (.diceDerivationComplete true) s = .next ((s.deriveIdentity true).setFld plnBoot_stage 0 6)) ∧
  (∀ s, s.stage = 5 → s.pln.stopped = false → exec (.diceDerivationComplete false) s =
    .next (((s.deriveIdentity false).setFld plnBoot_stage 0 6).raise (errorOf 0 0x0E 4 0))) ∧
  (∀ s inp, s.stage = 6 → s.pln.stopped = false → exec (.firmwareInitComplete inp) s = .next (s.becomeReady inp)) ∧
  (∀ s targets, s.live = true → s.ftl.inService = false → exec (.ftlInService targets) s = .next (s.ftlStarts targets)) ∧
  (∀ s, s.pln.powered = true → exec (.suppliesRemoved false) s = .next (s.toC6 s.stage)) ∧
  (∀ s, s.pln.powered = true → exec (.suppliesRemoved true) s =
    .next { s.toC6 s.stage with pln := { (s.toC6 s.stage).pln with powered := false } })

/-- The rows of the references and of PCIe complete: an absent reference is recorded and bars what needs it, a reset resets, and
the link goes down and comes up (R401, R498, R511, R524, R525, R531). The model's own choices in it: log entries 96, 111. -/
def Obligations.ReferenceAndPcieRowsComplete : Prop :=
  (∀ s, s.pln.powered = true → s.flag plnBoot_xtalFault 0 = false →
    exec .xtalAbsent s =
      .next (((s.setFlag plnBoot_xtalFault 0 true).setFlag pwrDevCfg_c5En 0 false).raise (errorOf 0 0x0F 2 0))) ∧
  (∀ s, s.stage = 2 →
    exec .refAbsent s = .next ((s.writeRecord (errorRecord (errorOf 3 0x0F 3 0) s.now)).setFld plnBoot_stage 0 8)) ∧
  (∀ s refB t, s.hubRuns = true →
    t = { s with pln := { s.pln with refA := s.pln.refA && refB, refB := s.pln.refB && !refB } } →
    exec (.portRefAbsent refB) s = .next (((t.asf.links.filter fun q => (4 ≤ q) = refB).foldl State.portDown t).raise
      (errorOf 0 0x0F 7 (if refB then 1 else 0)))) ∧
  (∀ s, s.pln.pcieUp = true → s.pln.c6 = false → exec .pcieHotReset s = .next s.fundamentalReset) ∧
  (∀ s t, s.pln.pcieUp = true → t = { s with pln := { s.pln with pcieUp := false }, sec := { s.sec with ide := [] } } →
    t.hubRuns = true → exec .pcieLinkDown s = .next (t.raise (errorOf 3 0x10 3 0))) ∧
  (∀ s, s.hubRuns = true → s.pln.perst = false → s.pln.pcieUp = false →
    exec .pcieLinkUp s = .next ({ s with pln := { s.pln with pcieUp := true } }.flushHeld)) ∧
  (∀ s p, s.hubRuns = true → exec (.functionLevelReset p) s = .next (s.functionReset p.val))

/-- An input that changes level takes the new level. The change is an event, with the input's action, where the last event lies
at least the merge window back, and else is merged into that event and counted. At the window's end a level that the last event
did not report gives one further event, and an input asserted beyond its limit is declared stuck (R502 to R504). The model's own
choices in it: log entry 109. -/
def Obligations.PinRowsComplete : Prop :=
  (∀ (s : State) i a act, (s.input i).level = a → s.edge i a act = s) ∧
  (∀ (s : State) i a act, (s.input i).level ≠ a → s.merges i = true →
    s.edge i a act = (s.takeLevel i a).bump pinInput_merged i 1) ∧
  (∀ (s : State) i a act, (s.input i).level ≠ a → s.merges i = false →
    s.edge i a act = (s.takeLevel i a).inputEvent i act) ∧
  (∀ s a, exec (.gstopN a) s = .next (s.edge 0 a actGstop)) ∧
  (∀ s a, exec (.pwrLimitN a) s = .next (s.edge 1 a actPwrLimit)) ∧
  (∀ s a, exec (.pfailN a) s = .next (s.edge 2 a actPfail)) ∧
  (∀ s a, exec (.wakeN a) s = .next (s.edge 3 a actWake)) ∧
  (∀ s a, exec (.alertN a) s = .next (s.edge 4 a actAlert)) ∧
  (∀ s a, exec (.holdupOk a) s = .next (s.edge 5 a actHoldup)) ∧
  (∀ s a, exec (.perstN a) s = .next (s.edge 6 a actPerst)) ∧
  (∀ s i t, (s.input i.val).level ≠ (s.input i.val).reported → (s.input i.val).lastEvent = some t → t + mergeTicks ≤ s.now →
    exec (.inputEventWindowEnd i) s = .next (s.inputEvent i.val (inputAct i.val))) ∧
  (∀ s i n, stuckTicks i.val = some n → (s.input i.val).level = true → s.flag pinInput_stuck i.val = false →
    (s.input i.val).since + n ≤ s.now → exec (.inputStuck i) s = .next (s.declareStuck i.val))

/-- The SMBus reads answer: status, temperatures, power, inputs and the oldest unread record, and the alert response address is
answered while an alert stands (R513, R514). -/
def Obligations.SmbusReadsAnswer : Prop :=
  (∀ s, s.pln.powered = true → s.pln.alert = false →
    exec .status s = .next { s with out := .smbus (leBytes 2 s.statusWord) :: s.out }) ∧
  (∀ s, s.pln.powered = true → s.pln.alert = true →
    exec .status s = .next { s with
      pln := { s.pln with alert := false }, out := .pin 8 true :: .smbus (leBytes 2 s.statusWord) :: s.out }) ∧
  (∀ s, s.pln.powered = true → exec .temps s = .next { s with out := .smbus (leBytes 1 (s.fld pwrTherm_logicMax 0) ++
    leBytes 1 (s.fld pwrTherm_dramMax 0) ++ leBytes 1 (s.fld pwrTherm_hotSensor 0) ++ [0]) :: s.out }) ∧
  (∀ s, s.pln.powered = true → exec .power s = .next { s with out := .smbus (leBytes 2 (s.fld pwrCtrlStat_measuredW 0) ++
    leBytes 2 (s.fld pwrCap_effective 0) ++ leBytes 4 (s.fld pwrEnergyTotal_mj 0 / 1000)) :: s.out }) ∧
  (∀ s, s.pln.powered = true → exec .inputs s = .next { s with out := .smbus ((List.range 8).map fun i =>
    BitVec.ofNat 8 (s.fld pinInput_level i + 2 * s.fld pinInput_masked i + 4 * s.fld pinInput_stuck i)) :: s.out }) ∧
  (∀ s id rest j, s.pln.powered = true → s.res.unread.dropWhile (fun id => (s.recordOf id).isNone) = id :: rest →
    s.recordOf id = some j → exec .record s = .next { s with
      res := { s.res with unread := rest },
      out := .smbus (({ s with res := { s.res with unread := rest } } : State).recordBytes j) :: s.out }) ∧
  (∀ s, s.pln.powered = true → s.pln.alert = true →
    exec .alertResponseAddress s = .next { s with out := .smbus [BitVec.ofNat 8 (s.pln.smbAddr * 2)] :: s.out })

/-- Each SMBus write with a good PEC and a value in its range acts, and one with a bad PEC or a value outside its range is
answered with NACK alone. POWER_ON outside C6 and POWER_OFF in C6 change nothing (R506, R512 to R514). The model's own choices
in it: log entries 96, 112. -/
def Obligations.SmbusWritesAct : Prop :=
  (∀ s v, s.pln.powered = true → v = 0 ∨ (100 ≤ v.toNat ∧ v.toNat ≤ 1800) →
    exec (.boardCap v true) s = .next (if (s.setFld pwrCap_board 0 v.toNat).live then (s.setFld pwrCap_board 0 v.toNat).noteCap
      else s.setFld pwrCap_board 0 v.toNat)) ∧
  (∀ s v, s.pln.powered = true → pwrRack_budget.accepts v.toNat = true →
    exec (.rackBudget v true) s = .next (s.setFld pwrRack_budget 0 v.toNat)) ∧
  (∀ s, s.pln.powered = true →
    exec (.recovery 1 true) s = .next (s.setFlag plnBoot_recoveryArmed 0 true).raiseAlert) ∧
  (∀ s, s.pln.powered = true → exec (.recovery 0 true) s = .next (s.setFlag plnBoot_recoveryArmed 0 false)) ∧
  (∀ s t, s.pln.powered = true → s.pln.c6 = true → s.pln.testEn = false →
    t = { s with pln := { s.pln with thermalTrip := false, railFault := false, stayOff := false, resetAt := s.now } } →
    exec (.powerOn 1 true) s =
      .next ((if s.pln.thermalTrip then t.emit (.pin 6 true) else t).setFld plnBoot_lastReset 0 4).beginRails) ∧
  (∀ s, s.pln.powered = true → s.pln.c6 = false → exec (.powerOn 1 true) s = .next s) ∧
  (∀ s, s.pln.powered = true → s.pln.c6 = false →
    exec (.powerOff 1 true) s = .next (s.stopPartitions.toC6 s.stage)) ∧
  (∀ s, s.pln.powered = true → s.pln.c6 = true → exec (.powerOff 1 true) s = .next s) ∧
  (∀ s t, s.pln.powered = true → t = { s with pln := { s.pln with stayOff := true } } → t.stage ≠ 0 →
    exec (.stayOff 1 true) s = .next t) ∧
  (∀ s t, s.pln.powered = true → t = { s with pln := { s.pln with stayOff := true } } → t.stage = 0 →
    exec (.stayOff 1 true) s = .next ({ t with pln := { t.pln with c6 := true } }.setFld plnBoot_stage 0 9)) ∧
  (∀ s t, s.pln.powered = true → t = { s with pln := { s.pln with stayOff := false } } →
    exec (.stayOff 0 true) s = .next (if t.stage = 9 ∧ t.now < t.pln.aonAt + 1000 * ticksPerMs then
      { t with pln := { t.pln with c6 := false } }.setFld plnBoot_stage 0 0 else t)) ∧
  (∀ s v, s.pln.powered = true → 8 ≤ v.toNat → v.toNat ≤ 0x77 →
    exec (.setAddr v true) s = .next { s with pln := { s.pln with smbAddr := v.toNat } }) ∧
  (∀ s (v : BitVec 16) ok, s.pln.powered = true → ok = false ∨ (v ≠ 0 ∧ (v.toNat < 100 ∨ 1800 < v.toNat)) →
    exec (.boardCap v ok) s = .next { s with out := .nack :: s.out }) ∧
  (∀ s v ok, s.pln.powered = true → ok = false ∨ pwrRack_budget.accepts v.toNat = false →
    exec (.rackBudget v ok) s = .next { s with out := .nack :: s.out }) ∧
  (∀ s (v : BitVec 8) ok, s.pln.powered = true → ok = false ∨ 1 < v.toNat →
    exec (.recovery v ok) s = .next { s with out := .nack :: s.out } ∧
    exec (.stayOff v ok) s = .next { s with out := .nack :: s.out }) ∧
  (∀ s (v : BitVec 8) ok, s.pln.powered = true → ok = false ∨ v ≠ 1 →
    exec (.powerOn v ok) s = .next { s with out := .nack :: s.out } ∧
    exec (.powerOff v ok) s = .next { s with out := .nack :: s.out }) ∧
  (∀ s (v : BitVec 8) ok, s.pln.powered = true → ok = false ∨ v.toNat < 8 ∨ 0x77 < v.toNat →
    exec (.setAddr v ok) s = .next { s with out := .nack :: s.out })

/-- Reserved register fields read 0 and ignore writes: a bit that lies in no field of its register reads 0 in every state, and a
write leaves it in the bank as it was (R12). -/
def Obligations.ReservedFieldsReadZeroAndIgnoreWrites : Prop :=
  (∀ (s : State) (fn : Fn) r i b, r.reserved b = true → (s.readReg (fnNum fn) r i).getLsbD b = false) ∧
  (∀ (s : State) fn l r i v b, mwf s.regs = true → r.reserved b = true →
    ((s.writeFields fn l r i v).reg r i).getLsbD b = (s.reg r i).getLsbD b)

/-- The Decsiow has no unmirrored mode: when no partner is usable, SEQ_OPEN returns NO_RESOURCE (18) with detail NO_CONTEXT
(18), and a sequence that it does open has a partner (R379). -/
def Obligations.NoSequenceOpensWithoutAPartner : Prop :=
  (∀ s c stops d e w, s.takes 0x10 c stops 0 d e → e.tenantIn (d.par 16 2) d.part = true →
    mget e.weights (d.par 24 2) = some w →
    d.par 20 4 ≤ 262144 * tokensPerPage (geoKvHeads w.geometry) (geoHeadDim w.geometry) (d.par 19 1) →
    e.defaultPartner = none → exec (.seqOpen c stops) s = .next (e.finish d.id 0x12 0x12 0)) ∧
  (∀ s c stops d e w m h t, s.takes 0x10 c stops 0 d e → e.tenantIn (d.par 16 2) d.part = true →
    mget e.weights (d.par 24 2) = some w →
    d.par 20 4 ≤ 262144 * tokensPerPage (geoKvHeads w.geometry) (geoHeadDim w.geometry) (d.par 19 1) →
    e.defaultPartner = some m → e.takeHandle = some (h, t) →
    ∃ q, q.mirror = some m ∧ exec (.seqOpen c stops) s = .next ((t.openSeq h q).finish d.id 0 0 h))

/-- A record that arrives while 8 are in handling is not kept: the device counts it in RES_ERR_STAT.OVERFLOWS and raises a
Device-fatal error, unit 0x0B code 1, in a slot of its own beyond the eight (R404). -/
def Obligations.TheNinthRecordIsCountedAndFatal : Prop :=
  ∀ s e r, s.takesErrors e.sev.toNat = true → 1 ≤ e.unit.toNat → e.unit.toNat ≤ 0x10 → e.sev ≠ 0 → s.res.fatal = false →
    8 ≤ s.res.handling.length →
    r = (⟨s.now, 3, 0, 0x0B, 1, none, 1, 0, 0, 0, none, 0, 0⟩ : ErrRec) →
    ∃ t, t = s.bump resErrStat_overflows 0 1 ∧ t.res.handling = s.res.handling ∧
      exec (.errorRaised e) s =
        .next ((({ t with res := { t.res with fatal := true, nested := some r } }.stopPartitions).failingBeat).writeRecord r)

/-- In BLANK and PROVISIONED the management function blows fuse words through SEC_FUSE_PROG, a bit once 1 staying 1; from FIELD
onwards the register ignores writes, and no other function writes it (R455). -/
def Obligations.FusesAreBlownBeforeFieldOnly : Prop :=
  (∀ s i lane v w, s.bar0Keeps .secFuseProg i.val = true → s.triggered 0 lane secFuseProg_word i.val v = some w →
    s.sec.fused ≤ 1 →
    exec (.secFuseProgWrite .mgmt i lane v) s = .next { s with sec := { s.sec with
      fuseWords := mset s.sec.fuseWords i.val (mgetD s.sec.fuseWords i.val 0 ||| BitVec.ofNat 64 w) } }) ∧
  (∀ s fn i lane v, 2 ≤ s.sec.fused → exec (.secFuseProgWrite fn i lane v) s = .next s) ∧
  (∀ s p i lane v, exec (.secFuseProgWrite (.vf p) i lane v) s = .next s)

/-- A host write to the DRAM aperture in service stores its bytes where the aperture's map and the interleave put them, and
nowhere else: every other byte of DRAM outside page homes reads as before, every byte of page contents outside the sectors
written reads as before, and each byte written outside page homes reads as written (R125, R126). The model's own choices in it:
log entries 33, 34, 66. -/
def Obligations.ApertureWritesStoreTheirBytesOnly : Prop :=
  ∀ (s : State) off (data : List (BitVec 8)) ups (places : List Nat), Memory.wf s = true → s.hubRuns = true → s.stage = 7 →
    s.bar4 off.toNat ≠ .remote → s.bar4 off.toNat ≠ .hole →
    places = s.bar4Places off.toNat data.length → s.holdPoint places = none →
    ∃ t, exec (.hostDramAccess off ⟨.write data, ups⟩) s = .next t ∧
      (∀ d, d ∉ places → s.homePage (frameAt d).1 = none → t.dramByte d = s.dramByte d) ∧
      (∀ a, (∀ d ∈ places, ∀ page, s.homePage (frameAt d).1 = some page →
          a < pageByte page ((frameAt d).2 / 32 * 32) ∨ pageByte page ((frameAt d).2 / 32 * 32) + 32 ≤ a) →
        Cells.read t.tiers.bytes a = Cells.read s.tiers.bytes a) ∧
      (∀ (i d : Nat) (b : BitVec 8), places.Nodup → places[i]? = some d → data[i]? = some b → d < dramBytes →
        s.homePage (frameAt d).1 = none → t.dramByte d = b)

/-- A step runs the command at the front of the queue with the rest of the queue, and with no command waiting the block lets one
tick pass (the model's choice, log entry 1). The model's own choices in it: log entry 1. -/
def Obligations.AStepRunsTheFrontCommandOrTicks : Prop :=
  (∀ c cs (s : State), step { s with pending := c :: cs } = exec c { s with pending := cs }) ∧
  (∀ s : State, s.pending = [] → step s = .next (idle s))

/-- Every command ends in a next state, in every state and with every operand, and leaves the queue of waiting commands as it
is. The model's own choices in it: log entry 2. -/
def Obligations.EveryCommandCompletesAndLeavesTheQueue : Prop :=
  ∀ i s, ∃ t, exec i s = .next t ∧ t.pending = s.pending

/-- The frame of every command: it leaves every piece of State that the table does not name for it as it was, every register of
the register bank taken by itself, unless the device resets itself at this very tick. -/
def Obligations.CommandsLeaveWhatTheyDoNotTouch : Prop :=
  ∀ i s t, exec i s = .next t → t.pending = s.pending ∧ (mayRestart i s t ∨ ∀ p, p ∉ touches i → p.same s t)

/-- After reset the register bank and the three memories stand in their canonical form. The model's own choices in it: log entry
33. -/
def Obligations.ResetIsCanonical : Prop := Canonical State.reset

/-- Every step keeps the canonical form of the register bank and of the three memories, whatever command it runs and whatever
happens at its tick. The model's own choices in it: log entry 33. -/
def Obligations.StepsKeepTheCanonicalForm : Prop :=
  ∀ s t, Canonical s → step s = .next t → Canonical t
end

