-- ==== Sys2Proof/Laws/Command.lean ====
section
/-! SUPPORT. What a command packet does at the head of its queue: the four ends of its acceptance. -/

set_option Elab.async false

namespace Sys2Proof.Machine

/-- An accepted command that is due has its effect at once. -/
theorem commandThen_takes {s : State} {op : Nat} {c : Cmd} {w : List (BitVec 32)} {code : BitVec 12} {d : Pend} {e : State}
    (h : s.takes op c w code d e) (effect after : Pend → State → State) :
    s.commandThen op c w code effect after = after d (effect d e) := by
  obtain ⟨q, h1, h2, hf, h3, rfl, rfl⟩ := h
  simp only [State.handsOn, State.passes, Bool.and_eq_true, decide_eq_true_eq, Bool.not_eq_true'] at h1 h2
  obtain ⟨⟨⟨⟨a, b⟩, cq⟩, o⟩, mw⟩ := h1
  obtain ⟨⟨r, p⟩, ri⟩ := h2
  simp [State.commandThen, a, b, cq, o, mw, r, p, ri, hf, h3]

theorem command_takes {s : State} {op : Nat} {c : Cmd} {w : List (BitVec 32)} {code : BitVec 12} {d : Pend} {e : State}
    (h : s.takes op c w code d e) (effect : Pend → State → State) : s.command op c w code effect = effect d e :=
  commandThen_takes h _ _

/-- An accepted command that is not due is entered and waits. -/
theorem commandThen_defers {s : State} {op : Nat} {c : Cmd} {q : Queue} (h : s.handsOn op c q = true)
    (hp : s.passes c q = true) (hd : s.defers q.fn c.pkt = true) (w code effect after) :
    s.commandThen op c w code effect after = after (s.pend c q.fn w code) (s.enter c (s.pend c q.fn w code)) := by
  simp only [State.handsOn, State.passes, Bool.and_eq_true, decide_eq_true_eq, Bool.not_eq_true'] at h hp
  obtain ⟨⟨⟨⟨a, b⟩, cq⟩, o⟩, mw⟩ := h
  obtain ⟨⟨r, p⟩, ri⟩ := hp
  simp [State.commandThen, a, b, cq, o, mw, r, p, ri, hd]

/-- A packet with a wrong reserved bit or parameter is refused with BAD_PARAM. -/
theorem commandThen_refuses {s : State} {op : Nat} {c : Cmd} {q : Queue} (h : s.handsOn op c q = true)
    (hp : (reservedOk c.pkt && paramsOk s q.fn c.pkt) = false) (w code effect after) :
    s.commandThen op c w code effect after = s.refuse c 0x11 := by
  simp only [State.handsOn, Bool.and_eq_true, decide_eq_true_eq, Bool.not_eq_true'] at h
  obtain ⟨⟨⟨⟨a, b⟩, cq⟩, o⟩, mw⟩ := h
  rw [Bool.and_eq_false_iff] at hp
  have : (!reservedOk c.pkt || !paramsOk s q.fn c.pkt) = true := by simp [hp]
  simp [State.commandThen, a, b, cq, o, mw, Bool.or_eq_true] at this ⊢
  intro h1 h2; rcases hp with h | h <;> simp_all

/-- A packet that its function may not send is refused with NOT_PERMITTED. -/
theorem commandThen_forbids {s : State} {op : Nat} {c : Cmd} {q : Queue} (h : s.handsOn op c q = true)
    (hp : (reservedOk c.pkt && paramsOk s q.fn c.pkt) = true) (hr : rightsOk s q.fn c.pkt = false) (w code effect after) :
    s.commandThen op c w code effect after = s.refuse c 0x30 := by
  simp only [State.handsOn, Bool.and_eq_true, decide_eq_true_eq, Bool.not_eq_true'] at h
  obtain ⟨⟨⟨⟨a, b⟩, cq⟩, o⟩, mw⟩ := h
  rw [Bool.and_eq_true] at hp
  simp [State.commandThen, a, b, cq, o, mw, hp.1, hp.2, hr]

end Sys2Proof.Machine
end

