-- ==== Sys2Proof/Laws/Tables.lean ====
section
/-! SUPPORT. What sparse tables do: reading after writing, and the canonical form that every operation keeps. -/

set_option Elab.async false

namespace Sys2Proof

variable {α : Type}

@[simp] theorem mget_nil (x : Nat) : mget ([] : AMap α) x = none := rfl

theorem mget_cons (k : Nat) (v : α) (m : AMap α) (x : Nat) :
    mget ((k, v) :: m) x = if k = x then some v else mget m x := rfl

/-- A key reads the value that was written to it. -/
@[simp] theorem mget_mset_self (m : AMap α) (x : Nat) (v : α) : mget (mset m x v) x = some v := by
  induction m with
  | nil => simp [mset, mget]
  | cons a m ih =>
    obtain ⟨k, w⟩ := a
    simp only [mset]
    split
    · simp [mget]
    · split
      · simp [mget]
      · rename_i h; simp [mget_cons, Ne.symm h, ih]

/-- A write leaves every other key alone. -/
theorem mget_mset_ne (m : AMap α) {x y : Nat} (v : α) (h : x ≠ y) : mget (mset m x v) y = mget m y := by
  induction m with
  | nil => simp [mset, mget, h]
  | cons a m ih =>
    obtain ⟨k, w⟩ := a
    simp only [mset]
    split
    · rw [mget_cons, if_neg h]
    · split
      · rename_i h2; subst h2; simp [mget_cons, h]
      · simp [mget_cons, ih]

theorem mget_mset (m : AMap α) (x y : Nat) (v : α) : mget (mset m x v) y = if x = y then some v else mget m y := by
  split
  · rename_i h; subst h; simp
  · rename_i h; exact mget_mset_ne m v h

/-- A deletion leaves every other key alone. -/
theorem mget_mdel_ne (m : AMap α) {x y : Nat} (h : x ≠ y) : mget (mdel m x) y = mget m y := by
  induction m with
  | nil => rfl
  | cons a m ih =>
    obtain ⟨k, w⟩ := a
    simp only [mdel]
    split
    · rename_i h2; subst h2; simp [mget_cons, h]
    · simp [mget_cons, ih]

/-- The first key of a canonical table is below all others. -/
theorem mwf_cons {k : Nat} {v : α} {m : AMap α} :
    mwf ((k, v) :: m) = true ↔ (∀ a ∈ m, k < a.1) ∧ mwf m = true := by
  induction m generalizing k v with
  | nil => simp [mwf]
  | cons a m ih =>
    obtain ⟨j, w⟩ := a
    rw [mwf, Bool.and_eq_true, decide_eq_true_eq]
    refine ⟨fun ⟨h1, h2⟩ => ⟨fun b hb => ?_, h2⟩, fun ⟨h1, h2⟩ => ⟨h1 (j, w) (by simp), h2⟩⟩
    rcases List.mem_cons.1 hb with rfl | hb
    · exact h1
    · exact lt_trans h1 ((ih.1 h2).1 b hb)

@[simp] theorem mwf_nil : mwf ([] : AMap α) = true := rfl

/-- A key below every listed one reads nothing. -/
theorem mget_eq_none {m : AMap α} {x : Nat} (h : ∀ a ∈ m, a.1 ≠ x) : mget m x = none := by
  induction m with
  | nil => rfl
  | cons a m ih =>
    obtain ⟨k, w⟩ := a
    rw [mget_cons, if_neg (h (k, w) (by simp))]
    exact ih fun b hb => h b (List.mem_cons_of_mem _ hb)

/-- In a canonical table a deleted key reads nothing. -/
theorem mget_mdel_self {m : AMap α} (h : mwf m = true) (x : Nat) : mget (mdel m x) x = none := by
  induction m with
  | nil => rfl
  | cons a m ih =>
    obtain ⟨k, w⟩ := a
    obtain ⟨h1, h2⟩ := mwf_cons.1 h
    simp only [mdel]
    split
    · rename_i h3; subst h3
      exact mget_eq_none fun b hb => (Nat.ne_of_gt (h1 b hb))
    · rename_i h3; rw [mget_cons, if_neg h3]; exact ih h2

theorem mem_mset {m : AMap α} {x : Nat} {v : α} {a : Nat × α} (h : a ∈ mset m x v) : a = (x, v) ∨ a ∈ m := by
  induction m with
  | nil => simp [mset] at h; simp [h]
  | cons b m ih =>
    obtain ⟨k, w⟩ := b
    simp only [mset] at h
    split at h
    · rcases List.mem_cons.1 h with rfl | h <;> simp_all
    · split at h
      · rcases List.mem_cons.1 h with rfl | h <;> simp_all
      · rcases List.mem_cons.1 h with rfl | h
        · simp
        · rcases ih h with rfl | h <;> simp_all

theorem mem_mdel {m : AMap α} {x : Nat} {a : Nat × α} (h : a ∈ mdel m x) : a ∈ m := by
  induction m with
  | nil => simp [mdel] at h
  | cons b m ih =>
    obtain ⟨k, w⟩ := b
    simp only [mdel] at h
    split at h
    · exact List.mem_cons_of_mem _ h
    · rcases List.mem_cons.1 h with rfl | h
      · simp
      · exact List.mem_cons_of_mem _ (ih h)

/-- A write keeps the canonical form. -/
@[simp] theorem mwf_mset {m : AMap α} (h : mwf m = true) (x : Nat) (v : α) : mwf (mset m x v) = true := by
  induction m with
  | nil => rfl
  | cons a m ih =>
    obtain ⟨k, w⟩ := a
    obtain ⟨h1, h2⟩ := mwf_cons.1 h
    simp only [mset]
    split
    · rename_i h3
      refine mwf_cons.2 ⟨?_, h⟩
      intro b hb
      rcases List.mem_cons.1 hb with rfl | hb
      · exact h3
      · exact lt_trans h3 (h1 b hb)
    · split
      · rename_i h4; subst h4; exact mwf_cons.2 ⟨h1, h2⟩
      · rename_i h3 h4
        refine mwf_cons.2 ⟨?_, ih h2⟩
        intro b hb
        rcases mem_mset hb with rfl | hb
        · exact lt_of_le_of_ne (Nat.le_of_not_lt h3) (Ne.symm h4)
        · exact h1 b hb

/-- A deletion keeps the canonical form. -/
@[simp] theorem mwf_mdel {m : AMap α} (h : mwf m = true) (x : Nat) : mwf (mdel m x) = true := by
  induction m with
  | nil => rfl
  | cons a m ih =>
    obtain ⟨k, w⟩ := a
    obtain ⟨h1, h2⟩ := mwf_cons.1 h
    simp only [mdel]
    split
    · exact h2
    · exact mwf_cons.2 ⟨fun b hb => h1 b (mem_mdel hb), ih h2⟩

/-- Taking entries out keeps the canonical form. -/
@[simp] theorem mwf_filter {m : AMap α} (h : mwf m = true) (f : Nat × α → Bool) : mwf (m.filter f) = true := by
  induction m with
  | nil => rfl
  | cons a m ih =>
    obtain ⟨k, w⟩ := a
    obtain ⟨h1, h2⟩ := mwf_cons.1 h
    rw [List.filter_cons]
    split
    · exact mwf_cons.2 ⟨fun b hb => h1 b (List.mem_of_mem_filter hb), ih h2⟩
    · exact ih h2

end Sys2Proof
end

