-- ==== Sys2Proof/Laws/Memory.lean ====
section
/-! SUPPORT. What the byte memories do: reading after writing, and the canonical form that every memory operation keeps. -/

set_option Elab.async false

namespace Sys2Proof.Machine

/-- The canonical form of a memory, clause by clause. -/
theorem cells_wf_iff {m : List Cell} : Cells.wf m = true ↔ mwf m = true ∧ ∀ c ∈ m, c.2 ≠ 0 := by
  simp [Cells.wf, List.all_eq_true]

@[simp] theorem cells_wf_nil : Cells.wf [] = true := rfl

/-- A write keeps the canonical form. -/
@[simp] theorem cells_wf_write {m : List Cell} (h : Cells.wf m = true) (a : Nat) (v : BitVec 8) :
    Cells.wf (Cells.write m a v) = true := by
  obtain ⟨h1, h2⟩ := cells_wf_iff.1 h
  unfold Cells.write
  split
  · exact cells_wf_iff.2 ⟨mwf_mdel h1 a, fun c hc => h2 c (mem_mdel hc)⟩
  · rename_i hv
    refine cells_wf_iff.2 ⟨mwf_mset h1 a v, fun c hc => ?_⟩
    rcases mem_mset hc with rfl | hc
    · exact hv
    · exact h2 c hc

/-- Writing bytes upwards keeps the canonical form. -/
@[simp] theorem cells_wf_writeList {m : List Cell} (h : Cells.wf m = true) (a : Nat) (bs : List (BitVec 8)) :
    Cells.wf (Cells.writeList m a bs) = true := by
  induction bs generalizing m a with
  | nil => exact h
  | cons b bs ih => exact ih (cells_wf_write h a b) (a + 1)

/-- Taking bytes out keeps the canonical form. -/
@[simp] theorem cells_wf_filter {m : List Cell} (h : Cells.wf m = true) (f : Cell → Bool) :
    Cells.wf (m.filter f) = true := by
  obtain ⟨h1, h2⟩ := cells_wf_iff.1 h
  exact cells_wf_iff.2 ⟨mwf_filter h1 f, fun c hc => h2 c (List.mem_of_mem_filter hc)⟩

/-- Clearing a range keeps the canonical form. -/
@[simp] theorem cells_wf_clear {m : List Cell} (h : Cells.wf m = true) (a n : Nat) :
    Cells.wf (Cells.clear m a n) = true := cells_wf_filter h _

/-- A byte reads as it was written last. -/
theorem cells_read_write {m : List Cell} (h : Cells.wf m = true) (a b : Nat) (v : BitVec 8) :
    Cells.read (Cells.write m a v) b = if a = b then v else Cells.read m b := by
  unfold Cells.read Cells.write mgetD
  split
  · rename_i hv
    split
    · rename_i hab; subst hab; simp [mget_mdel_self (cells_wf_iff.1 h).1, hv]
    · rename_i hab; rw [mget_mdel_ne m hab]
  · rw [mget_mset]; split <;> simp

/-- Bytes written upwards leave every byte outside their range alone. -/
theorem cells_read_writeList_out {m : List Cell} (h : Cells.wf m = true) (a b : Nat) (bs : List (BitVec 8))
    (hb : b < a ∨ a + bs.length ≤ b) : Cells.read (Cells.writeList m a bs) b = Cells.read m b := by
  induction bs generalizing m a with
  | nil => rfl
  | cons v bs ih =>
    simp only [List.length_cons] at hb
    rw [Cells.writeList, ih (cells_wf_write h a v) (a + 1) (by omega), cells_read_write h, if_neg (by omega)]

/-- Bytes written upwards read as they were written. -/
theorem cells_read_writeList_in {m : List Cell} (h : Cells.wf m = true) (a i : Nat) (bs : List (BitVec 8))
    (hi : i < bs.length) : Cells.read (Cells.writeList m a bs) (a + i) = bs[i] := by
  induction bs generalizing m a i with
  | nil => simp at hi
  | cons v bs ih =>
    rw [Cells.writeList]
    cases i with
    | zero =>
      rw [cells_read_writeList_out (cells_wf_write h a v) (a + 1) _ bs (by omega), cells_read_write h]
      simp
    | succ i =>
      have := ih (cells_wf_write h a v) (a + 1) i (by simpa using hi)
      rw [show a + (i + 1) = a + 1 + i by omega, this]
      simp

/-- A cleared range reads 0, and every other byte as before. -/
theorem cells_read_clear (m : List Cell) (a n b : Nat) :
    Cells.read (Cells.clear m a n) b = if a ≤ b ∧ b < a + n then 0 else Cells.read m b := by
  unfold Cells.read Cells.clear mgetD
  induction m with
  | nil => simp
  | cons c m ih =>
    obtain ⟨k, v⟩ := c
    rw [List.filter_cons]
    by_cases hk : (k < a ∨ a + n ≤ k)
    · rw [if_pos (by simpa using hk), mget_cons, mget_cons]
      by_cases hkb : k = b
      · subst hkb; rw [if_pos rfl, if_pos rfl, if_neg (by omega)]
      · rw [if_neg hkb, if_neg hkb]; exact ih
    · rw [if_neg (by simpa using hk), ih, mget_cons]
      by_cases hkb : k = b
      · subst hkb; rw [if_pos (by omega), if_pos (by omega)]
      · rw [if_neg hkb]

end Sys2Proof.Machine
end

