-- ==== Sys2Proof/Laws/Registers.lean ====
section
/-! SUPPORT. Reading a register or a field after a write of it or of another. -/

set_option Elab.async false

namespace Sys2Proof.Machine

/-- A register reads the value written, in a canonical bank. -/
theorem State.reg_setReg_self {s : State} (h : mwf s.regs = true) (r : Reg) (i : Nat) (hi : r.has i = true) (v : BitVec 64) :
    (s.setReg r i v).reg r i = v := by
  unfold State.setReg State.reg mgetD
  rw [if_pos hi]
  split
  · simp [mget_mdel_self h, *]
  · simp

/-- Another register reads as before. -/
theorem State.reg_setReg_ne {s : State} {r r' : Reg} {i j : Nat} (h : r.offset i ≠ r'.offset j) (v : BitVec 64) :
    (s.setReg r i v).reg r' j = s.reg r' j := by
  unfold State.setReg State.reg mgetD
  split
  · split
    · simp [mget_mdel_ne _ h]
    · simp [mget_mset_ne _ _ h]
  · rfl

/-- A word as the bits above a field, the field and the bits below it. -/
theorem Field.split (f : Field) (w : BitVec 64) :
    w.toNat = w.toNat / 2 ^ (f.lo + f.width) * 2 ^ (f.lo + f.width) + f.get w * 2 ^ f.lo + w.toNat % 2 ^ f.lo := by
  have h1 := Nat.div_add_mod w.toNat (2 ^ f.lo)
  have h2 := Nat.div_add_mod (w.toNat / 2 ^ f.lo) (2 ^ f.width)
  have h3 : w.toNat / 2 ^ (f.lo + f.width) = w.toNat / 2 ^ f.lo / 2 ^ f.width := by rw [Nat.pow_add, Nat.div_div_eq_div_mul]
  unfold Field.get
  rw [h3, Nat.pow_add]
  calc w.toNat = 2 ^ f.lo * (w.toNat / 2 ^ f.lo) + w.toNat % 2 ^ f.lo := h1.symm
    _ = 2 ^ f.lo * (2 ^ f.width * (w.toNat / 2 ^ f.lo / 2 ^ f.width) + w.toNat / 2 ^ f.lo % 2 ^ f.width) +
        w.toNat % 2 ^ f.lo := by rw [h2]
    _ = _ := by ring

/-- The word that `put` makes, as a number. -/
theorem Field.put_toNat {f : Field} (hf : f.lo + f.width ≤ 64) (w : BitVec 64) (v : Nat) :
    (f.put w v).toNat =
      w.toNat / 2 ^ (f.lo + f.width) * 2 ^ (f.lo + f.width) + v % 2 ^ f.width * 2 ^ f.lo + w.toNat % 2 ^ f.lo := by
  have hs := f.split w
  have hv : v % 2 ^ f.width < 2 ^ f.width := Nat.mod_lt _ (Nat.two_pow_pos _)
  have hr : w.toNat % 2 ^ f.lo < 2 ^ f.lo := Nat.mod_lt _ (Nat.two_pow_pos _)
  have hq : w.toNat / 2 ^ (f.lo + f.width) < 2 ^ (64 - (f.lo + f.width)) := by
    rw [Nat.div_lt_iff_lt_mul (Nat.two_pow_pos _), ← Nat.pow_add, Nat.sub_add_cancel hf]
    exact w.isLt
  have hlow : v % 2 ^ f.width * 2 ^ f.lo + w.toNat % 2 ^ f.lo < 2 ^ (f.lo + f.width) := by
    rw [Nat.pow_add]
    calc v % 2 ^ f.width * 2 ^ f.lo + w.toNat % 2 ^ f.lo < v % 2 ^ f.width * 2 ^ f.lo + 2 ^ f.lo := by omega
      _ = (v % 2 ^ f.width + 1) * 2 ^ f.lo := by ring
      _ ≤ 2 ^ f.width * 2 ^ f.lo := Nat.mul_le_mul_right _ hv
      _ = 2 ^ f.lo * 2 ^ f.width := Nat.mul_comm _ _
  have h64 : 2 ^ 64 = 2 ^ (64 - (f.lo + f.width)) * 2 ^ (f.lo + f.width) := by
    rw [← Nat.pow_add, Nat.sub_add_cancel hf]
  have hlt : w.toNat / 2 ^ (f.lo + f.width) * 2 ^ (f.lo + f.width) + v % 2 ^ f.width * 2 ^ f.lo + w.toNat % 2 ^ f.lo <
      2 ^ 64 := by
    rw [h64]
    calc _ < w.toNat / 2 ^ (f.lo + f.width) * 2 ^ (f.lo + f.width) + 2 ^ (f.lo + f.width) := by omega
      _ = (w.toNat / 2 ^ (f.lo + f.width) + 1) * 2 ^ (f.lo + f.width) := by ring
      _ ≤ _ := Nat.mul_le_mul_right _ hq
  unfold Field.put
  rw [BitVec.toNat_ofNat]
  have : w.toNat - f.get w * 2 ^ f.lo + v % 2 ^ f.width * 2 ^ f.lo =
      w.toNat / 2 ^ (f.lo + f.width) * 2 ^ (f.lo + f.width) + v % 2 ^ f.width * 2 ^ f.lo + w.toNat % 2 ^ f.lo := by omega
  rw [this, Nat.mod_eq_of_lt hlt]

/-- A field reads the value put there, cut to the field's width. -/
theorem Field.get_put {f : Field} (hf : f.lo + f.width ≤ 64) (w : BitVec 64) (v : Nat) :
    f.get (f.put w v) = v % 2 ^ f.width := by
  unfold Field.get
  rw [Field.put_toNat hf]
  have hr : w.toNat % 2 ^ f.lo < 2 ^ f.lo := Nat.mod_lt _ (Nat.two_pow_pos _)
  have : w.toNat / 2 ^ (f.lo + f.width) * 2 ^ (f.lo + f.width) + v % 2 ^ f.width * 2 ^ f.lo + w.toNat % 2 ^ f.lo =
      w.toNat % 2 ^ f.lo + 2 ^ f.lo * (w.toNat / 2 ^ (f.lo + f.width) * 2 ^ f.width + v % 2 ^ f.width) := by
    rw [Nat.pow_add]; ring
  rw [this, Nat.add_mul_div_left _ _ (Nat.two_pow_pos _), Nat.div_eq_of_lt hr, Nat.zero_add, Nat.mul_add_mod', Nat.mod_mod]

/-- A field beside the one put reads as before. -/
theorem Field.get_put_ne {f g : Field} (hf : f.lo + f.width ≤ 64)
    (h : g.lo + g.width ≤ f.lo ∨ f.lo + f.width ≤ g.lo) (w : BitVec 64) (v : Nat) : g.get (f.put w v) = g.get w := by
  have key : ∀ n : Nat, g.lo + g.width ≤ n → ∀ a b c : Nat, (a * 2 ^ n + c) / 2 ^ g.lo % 2 ^ g.width =
      (b * 2 ^ n + c) / 2 ^ g.lo % 2 ^ g.width := by
    intro n hn a b c
    have hp : ∀ a, (a * 2 ^ n + c) / 2 ^ g.lo % 2 ^ g.width = c / 2 ^ g.lo % 2 ^ g.width := by
      intro a
      have : 2 ^ n = 2 ^ g.lo * (2 ^ g.width * 2 ^ (n - g.lo - g.width)) := by
        rw [← Nat.pow_add, ← Nat.pow_add]; congr 1; omega
      have : a * 2 ^ n + c = c + 2 ^ g.lo * (2 ^ g.width * (a * 2 ^ (n - g.lo - g.width))) := by rw [this]; ring
      rw [this, Nat.add_mul_div_left _ _ (Nat.two_pow_pos _), Nat.add_mul_mod_self_left]
    rw [hp a, hp b]
  have hs := f.split w
  unfold Field.get
  rw [Field.put_toNat hf]
  rcases h with h | h
  · conv_rhs => rw [hs]
    have e1 : ∀ x, w.toNat / 2 ^ (f.lo + f.width) * 2 ^ (f.lo + f.width) + x * 2 ^ f.lo + w.toNat % 2 ^ f.lo =
        (w.toNat / 2 ^ (f.lo + f.width) * 2 ^ f.width + x) * 2 ^ f.lo + w.toNat % 2 ^ f.lo := by
      intro x; rw [Nat.pow_add]; ring
    rw [e1, e1]
    exact key f.lo h _ _ _
  · have low : ∀ x, x < 2 ^ f.width → (w.toNat / 2 ^ (f.lo + f.width) * 2 ^ (f.lo + f.width) + x * 2 ^ f.lo +
        w.toNat % 2 ^ f.lo) / 2 ^ g.lo = w.toNat / 2 ^ (f.lo + f.width) / 2 ^ (g.lo - (f.lo + f.width)) := by
      intro x hx
      have hr : w.toNat % 2 ^ f.lo < 2 ^ f.lo := Nat.mod_lt _ (Nat.two_pow_pos _)
      have hlow : x * 2 ^ f.lo + w.toNat % 2 ^ f.lo < 2 ^ (f.lo + f.width) := by
        rw [Nat.pow_add]
        calc x * 2 ^ f.lo + w.toNat % 2 ^ f.lo < x * 2 ^ f.lo + 2 ^ f.lo := by omega
          _ = (x + 1) * 2 ^ f.lo := by ring
          _ ≤ 2 ^ f.width * 2 ^ f.lo := Nat.mul_le_mul_right _ hx
          _ = 2 ^ f.lo * 2 ^ f.width := Nat.mul_comm _ _
      have : 2 ^ g.lo = 2 ^ (f.lo + f.width) * 2 ^ (g.lo - (f.lo + f.width)) := by
        rw [← Nat.pow_add]; congr 1; omega
      rw [this, ← Nat.div_div_eq_div_mul]
      congr 1
      rw [Nat.add_assoc, Nat.mul_comm, Nat.add_comm, Nat.add_mul_div_left _ _ (Nat.two_pow_pos _), Nat.div_eq_of_lt hlow,
        Nat.zero_add]
    rw [low _ (Nat.mod_lt _ (Nat.two_pow_pos _))]
    conv_rhs => rw [hs]
    rw [low _ (by unfold Field.get; exact Nat.mod_lt _ (Nat.two_pow_pos _))]

/-- A field reads the value written, cut to its width, in a canonical bank. -/
theorem State.fld_setFld_self {s : State} (h : mwf s.regs = true) {f : Field} (hf : f.lo + f.width ≤ 64) (i : Nat)
    (hi : f.reg.has i = true) (v : Nat) : (s.setFld f i v).fld f i = v % 2 ^ f.width := by
  unfold State.setFld State.fld
  rw [State.reg_setReg_self h _ _ hi, Field.get_put hf]

/-- A field of another register reads as before. -/
theorem State.fld_setFld_ne {s : State} {f g : Field} {i j : Nat} (h : f.reg.offset i ≠ g.reg.offset j) (v : Nat) :
    (s.setFld f i v).fld g j = s.fld g j := by
  unfold State.setFld State.fld
  rw [State.reg_setReg_ne h]

/-- Another field of the same register reads as before. -/
theorem State.fld_setFld_beside {s : State} (hs : mwf s.regs = true) {f g : Field} (hr : g.reg = f.reg)
    (hf : f.lo + f.width ≤ 64) (h : g.lo + g.width ≤ f.lo ∨ f.lo + f.width ≤ g.lo) (i v : Nat) :
    (s.setFld f i v).fld g i = s.fld g i := by
  unfold State.setFld State.fld
  by_cases hi : f.reg.has i = true
  · rw [hr, State.reg_setReg_self hs _ _ hi, Field.get_put_ne hf h]
  · unfold State.setReg State.reg
    rw [if_neg hi]

end Sys2Proof.Machine
end

