-- ==== Sys2Proof/Laws/Places.lean ====
section
/-! SUPPORT. No two register instances have the same offset, so that a write to one register leaves every other as it was. -/

set_option Elab.async false

namespace Sys2Proof.Machine

/-- Where a register's offsets lie: between two bounds, with a remainder between two more. -/
structure Spot where
  lo : Nat
  hi : Nat
  m : Nat
  low : Nat
  high : Nat
deriving DecidableEq, Repr

/-- The place that a plain layout gives. -/
def Layout.spot (l : Layout) : Spot :=
  let hi := l.base + l.s1 * (l.n1 - 1) + l.s2 * (l.n2 - 1) + 1
  if l.n1 = 1 then ⟨l.base, hi, l.s2, l.base % l.s2, l.base % l.s2 + 1⟩
  else if l.base % l.s1 + l.s2 * (l.n2 - 1) < l.s1 then
    ⟨l.base, hi, l.s1, l.base % l.s1, l.base % l.s1 + l.s2 * (l.n2 - 1) + 1⟩
  else ⟨l.base, hi, 1, 0, 1⟩

/-- The place of a register: the administration pairs and the strided records by their remainder, the others by their bounds. -/
def Reg.spot (r : Reg) : Spot :=
  let l := r.layout
  match r with
  | .asfRwinTarget | .asfRwinCtrl | .asfRwinImm => ⟨l.base, l.base + 0x13000, 32, l.base % 32, l.base % 32 + 1⟩
  | _ => l.spot

/-- Whether two places have no offset in common. -/
def Spot.apart (p q : Spot) : Bool :=
  p.hi ≤ q.lo || q.hi ≤ p.lo ||
  (p.m = q.m && (p.high ≤ q.low || q.high ≤ p.low)) ||
  (q.hi ≤ p.m && (p.high ≤ q.lo || q.hi ≤ p.low)) ||
  (p.hi ≤ q.m && (q.high ≤ p.lo || p.hi ≤ q.low))

/-- An offset lies in a place. -/
def Spot.holds (p : Spot) (a : Nat) : Prop := p.lo ≤ a ∧ a < p.hi ∧ p.low ≤ a % p.m ∧ a % p.m < p.high

theorem Spot.apart_ne {p q : Spot} (h : p.apart q = true) {a b : Nat} (ha : p.holds a) (hb : q.holds b) : a ≠ b := by
  rintro rfl
  obtain ⟨a1, a2, a3, a4⟩ := ha
  obtain ⟨b1, b2, b3, b4⟩ := hb
  simp only [Spot.apart, Bool.or_eq_true, Bool.and_eq_true, decide_eq_true_eq] at h
  rcases h with (((h | h) | ⟨h, k⟩) | ⟨h, k⟩) | ⟨h, k⟩
  · omega
  · omega
  · rw [← h] at b3 b4; omega
  · rw [Nat.mod_eq_of_lt (Nat.lt_of_lt_of_le b2 h)] at a3 a4
    omega
  · rw [Nat.mod_eq_of_lt (Nat.lt_of_lt_of_le a2 h)] at b3 b4
    omega

theorem Layout.spot_holds (l : Layout) (i : Nat) (h : i < l.n1 * l.n2) :
    l.spot.holds (l.base + l.s1 * (i / l.n2) + l.s2 * (i % l.n2)) := by
  have h2 : 0 < l.n2 := Nat.pos_of_ne_zero fun e => by rw [e] at h; omega
  have ha : i / l.n2 ≤ l.n1 - 1 := by
    have := (Nat.div_lt_iff_lt_mul h2).2 h
    omega
  have hb : i % l.n2 ≤ l.n2 - 1 := by have := Nat.mod_lt i h2; omega
  generalize i / l.n2 = a at *
  generalize i % l.n2 = b at *
  have h3 := Nat.mul_le_mul_left l.s1 ha
  have h4 := Nat.mul_le_mul_left l.s2 hb
  unfold Layout.spot
  extract_lets hi
  have hhi : l.base + l.s1 * a + l.s2 * b < hi := by omega
  clear_value hi
  have hlo : l.base ≤ l.base + l.s1 * a + l.s2 * b := by omega
  split
  · rename_i h1
    have : a = 0 := by omega
    refine ⟨hlo, hhi, ?_⟩
    dsimp only
    rw [this, Nat.mul_zero, Nat.add_zero, Nat.add_mul_mod_self_left]
    omega
  · split
    · rename_i h1
      refine ⟨hlo, hhi, ?_⟩
      dsimp only
      have e : (l.base + l.s1 * a + l.s2 * b) % l.s1 = l.base % l.s1 + l.s2 * b := by
        rw [Nat.add_right_comm, Nat.add_mul_mod_self_left]
        have hd := Nat.div_add_mod l.base l.s1
        rw [← hd, Nat.add_assoc, Nat.mul_add_mod]
        exact (Nat.mod_eq_of_lt (by omega)).trans (by rw [Nat.mul_add_mod, Nat.mod_mod])
      rw [e]
      omega
    · refine ⟨hlo, hhi, ?_⟩
      dsimp only
      rw [Nat.mod_one]
      omega

/-- Every instance of a register lies in its place. -/
theorem Reg.spot_holds (r : Reg) (i : Nat) (h : r.has i = true) :
    r.spot.holds (r.offset i) := by
  have hi : i < r.layout.n1 * r.layout.n2 := by
    unfold Reg.has at h
    simp only [Bool.and_eq_true, decide_eq_true_eq] at h
    exact h.2
  have key := Layout.spot_holds r.layout i hi
  cases r
  case asfRwinTarget | asfRwinCtrl | asfRwinImm =>
    have hi' : i < 17 * 16 := hi
    clear key h
    unfold Reg.spot Reg.offset Spot.holds
    dsimp only [Reg.layout]
    by_cases h : i < 16
    · rw [if_pos h]; omega
    · rw [if_neg h]; omega
  all_goals exact key

/-- The numbers of the registers, so that pairs of them can be run through. -/
def Reg.apartAll (rs : List Reg) : Bool := rs.all fun r => Reg.all.all fun q => r = q || r.spot.apart q.spot

theorem regs0_apart : Reg.apartAll regs0 = true := by decide +kernel
theorem regs1_apart : Reg.apartAll regs1 = true := by decide +kernel
theorem regs2_apart : Reg.apartAll regs2 = true := by decide +kernel
theorem regs3_apart : Reg.apartAll regs3 = true := by decide +kernel
theorem regs4_apart : Reg.apartAll regs4 = true := by decide +kernel
theorem regs5_apart : Reg.apartAll regs5 = true := by decide +kernel
theorem regs6_apart : Reg.apartAll regs6 = true := by decide +kernel
theorem regs7_apart : Reg.apartAll regs7 = true := by decide +kernel

theorem Reg.mem_all (r : Reg) : r ∈ Reg.all := by
  have h : Reg.all.contains r = true := by cases r <;> rfl
  exact List.contains_iff_mem.1 h

theorem Reg.spots_apart {r q : Reg} (h : r ≠ q) : r.spot.apart q.spot = true := by
  have all : Reg.apartAll Reg.all = true := by
    have e : ∀ a b, Reg.apartAll (a ++ b) = (Reg.apartAll a && Reg.apartAll b) := fun a b => List.all_append
    simp only [Reg.all, e, regs0_apart, regs1_apart, regs2_apart, regs3_apart, regs4_apart, regs5_apart, regs6_apart,
      regs7_apart, Bool.and_self]
  have := List.all_eq_true.1 (List.all_eq_true.1 all r r.mem_all) q q.mem_all
  simpa [h] using this

/-- Instances of two registers have two offsets. -/
theorem Reg.offset_ne {r q : Reg} (h : r ≠ q) {i j : Nat} (hi : r.has i = true) (hj : q.has j = true) :
    r.offset i ≠ q.offset j :=
  Spot.apart_ne (Reg.spots_apart h) (r.spot_holds i hi) (q.spot_holds j hj)

/-- A write to one register leaves every other as it was. -/
theorem State.reg_setReg_other (s : State) {r q : Reg} (h : r ≠ q) (i : Nat) (v : BitVec 64) {j : Nat} (hj : q.has j = true) :
    (s.setReg r i v).reg q j = s.reg q j := by
  by_cases hi : r.has i = true
  · exact State.reg_setReg_ne (Reg.offset_ne h hi hj) v
  · unfold State.setReg State.reg
    rw [if_neg hi]

end Sys2Proof.Machine
end

