-- ==== Sys2Proof/Laws/Keeps.lean ====
section
/-! SUPPORT. What every operation keeps: the queue of waiting commands, the canonical form of the register bank and of the
three memories, and every piece of State that it does not touch. The files Laws/Keeps<File>.lean say so for each operation of
Machine/<File>.lean. -/

set_option Elab.async false
set_option linter.unusedSimpArgs false
set_option linter.unusedTactic false
set_option linter.unreachableTactic false

namespace Sys2Proof.Machine

/-- The number of a piece; a set of pieces is a number with the bits of its pieces. -/
def Piece.num : Piece → Nat
  | .restart => 0 | .now => 1 | .freeCtr => 2 | .msix => 3 | .out => 4 | .buhorn => 5 | .handles => 6 | .seqs => 7
  | .parts => 8 | .tenants => 9 | .weights => 10 | .churn => 11 | .tiers => 12 | .bytes => 13 | .ftl => 14 | .dram => 15
  | .poison => 16 | .staging => 17 | .gen => 18 | .prm => 19 | .asf => 20 | .tmb => 21 | .shp => 22 | .res => 23 | .pwr => 24
  | .sec => 25 | .trace => 26 | .pln => 27 | .reg r => 28 + r.ctorIdx

theorem Piece.num_inj {p q : Piece} (h : p.num = q.num) : p = q := by
  have inj : ∀ r r' : Reg, r.ctorIdx = r'.ctorIdx → r = r' := by
    intro r r' e
    have k : ∀ r : Reg, Reg.all[r.ctorIdx]? = some r := by intro r; cases r <;> rfl
    have a := k r
    rw [e, k r'] at a
    exact (Option.some.inj a).symm
  cases p <;> cases q <;> simp only [Piece.num] at h <;> first
    | rfl
    | omega
    | (congr 1; exact inj _ _ (by omega))

/-- A list of pieces as a set. -/
def maskOf (l : List Piece) : Nat := l.foldr (fun p m => Nat.lor (2 ^ p.num) m) 0

/-- The set of a list has the pieces of the list. -/
theorem testBit_maskOf {l : List Piece} {p : Piece} : (maskOf l).testBit p.num = true ↔ p ∈ l := by
  induction l with
  | nil => simp [maskOf]
  | cons x l ih =>
    have e : maskOf (x :: l) = 2 ^ x.num ||| maskOf l := rfl
    rw [e, Nat.testBit_or, Bool.or_eq_true, ih, Nat.testBit_two_pow, decide_eq_true_eq, List.mem_cons]
    constructor
    · rintro (h | h)
      · exact .inl (Piece.num_inj h).symm
      · exact .inr h
    · rintro (h | h)
      · exact .inl (by rw [h])
      · exact .inr h

/-- What a state is held against: an earlier state, whether the canonical forms are asked, and the set of the pieces that may
differ. -/
structure Ref where
  base : State
  canon : Bool
  free : Nat

/-- The pieces of `m` may differ. -/
def Frees (z : Ref) (m : Nat) : Prop := Nat.land m z.free = m

theorem Frees.sub {z : Ref} {m m' : Nat} (h : Frees z m) (e : Nat.land m' m = m') : Frees z m' := by
  unfold Frees at *
  have : Nat.land (Nat.land m' m) z.free = Nat.land m' (Nat.land m z.free) := Nat.land_assoc m' m z.free
  rw [h, e] at this
  exact this

theorem Frees.of {z : Ref} {m m' : Nat} (h : Frees z m) (e : m = m') : Frees z m' := e ▸ h

/-- A piece may differ. -/
def Ref.opens (z : Ref) (p : Piece) : Prop := z.free.testBit p.num = true

theorem Frees.opens {z : Ref} {m : Nat} (h : Frees z m) {p : Piece} (hp : m.testBit p.num = true) : z.opens p := by
  unfold Frees at h
  have e : Nat.testBit (m &&& z.free) p.num = true := by
    show Nat.testBit (Nat.land m z.free) p.num = true
    rw [h]; exact hp
  rw [Nat.testBit_and, hp, Bool.true_and] at e
  exact e

/-- The register bank is canonical where that is asked. -/
def KeepRegs (z : Ref) (x : AMap (BitVec 64)) : Prop := z.canon = true → mwf x = true

/-- A memory is canonical where that is asked. -/
def KeepCells (z : Ref) (x : List Cell) : Prop := z.canon = true → Cells.wf x = true

/-- The four canonical forms. -/
def Forms (z : Ref) (s : State) : Prop :=
  KeepRegs z s.regs ∧ KeepCells z s.dram ∧ KeepCells z s.tiers.bytes ∧ KeepCells z s.staging

/-- The device reset itself at this very tick, and may. -/
def Restarted (z : Ref) (s : State) : Prop := z.opens .restart ∧ (z.opens .now ∨ s.pln.resetAt = z.base.now)

/-- The queue is that of the earlier state, the forms are canonical, and every piece that may not differ is the same, unless the
device has reset itself. -/
def Kept (z : Ref) (s : State) : Prop :=
  s.pending = z.base.pending ∧ Forms z s ∧ (z.opens .now ∨ s.now = z.base.now) ∧
    (Restarted z s ∨ ∀ p, z.opens p ∨ p.same z.base s)

theorem Piece.same_refl (p : Piece) (s : State) : p.same s s := by cases p <;> simp [Piece.same]

theorem Piece.same_trans {p : Piece} {s t u : State} (h : p.same s t) (k : p.same t u) : p.same s u := by
  cases p <;> simp only [Piece.same] at * <;> first
    | exact k.trans h
    | (intro i hi; rw [k i hi, h i hi])

variable {z : Ref} {s t : State}

/-- A state is kept against itself, where the forms are not asked or hold. -/
theorem kept_self (s : State) (c : Bool) (m : Nat) (h : c = true → Canonical s) : Kept ⟨s, c, m⟩ s := by
  refine ⟨rfl, ⟨fun e => (h e).2, fun e => ?_, fun e => ?_, fun e => ?_⟩, .inr rfl, .inr fun p => .inr (p.same_refl s)⟩ <;>
    (have k := (h e).1; simp only [Memory.wf, Bool.and_eq_true] at k)
  · exact k.1.1
  · exact k.1.2
  · exact k.2

theorem frees_self (s : State) (c : Bool) (m : Nat) : Frees ⟨s, c, m⟩ m := Nat.and_self m

/-- A later state is kept where an operation keeps what the earlier one had. -/
theorem Kept.next (h : Kept z s) (hq : t.pending = s.pending) (hf : Forms z s → Forms z t) (hn : z.opens .now ∨ t.now = s.now)
    (hr : t.pln.resetAt = s.pln.resetAt ∨ t.pln.resetAt = t.now) (hp : ∀ p, z.opens p ∨ p.same s t) : Kept z t := by
  refine ⟨hq.trans h.1, hf h.2.1, ?_, ?_⟩
  · rcases hn with hn | hn
    · exact .inl hn
    · rcases h.2.2.1 with k | k
      · exact .inl k
      · exact .inr (hn.trans k)
  · rcases h.2.2.2 with ⟨k, k'⟩ | k
    · left
      refine ⟨k, ?_⟩
      rcases k' with k' | k'
      · exact .inl k'
      · rcases hn with hn | hn
        · exact .inl hn
        · rcases h.2.2.1 with e | e
          · exact .inl e
          · right
            rcases hr with hr | hr
            · exact hr.trans k'
            · exact hr.trans (hn.trans e)
    · right
      intro p
      rcases hp p with a | a
      · exact .inl a
      · rcases k p with b | b
        · exact .inl b
        · exact .inr (Piece.same_trans b a)

theorem kept_regs (h : Kept z s) : KeepRegs z s.regs := h.2.1.1
theorem kept_dram (h : Kept z s) : KeepCells z s.dram := h.2.1.2.1
theorem kept_bytes (h : Kept z s) : KeepCells z s.tiers.bytes := h.2.1.2.2.1
theorem kept_staging (h : Kept z s) : KeepCells z s.staging := h.2.1.2.2.2

theorem keepRegs_mset {m : AMap (BitVec 64)} (h : KeepRegs z m) (k v) : KeepRegs z (mset m k v) := fun c => mwf_mset (h c) k v
theorem keepRegs_mdel {m : AMap (BitVec 64)} (h : KeepRegs z m) (k) : KeepRegs z (mdel m k) := fun c => mwf_mdel (h c) k
theorem keepRegs_filter {m : AMap (BitVec 64)} (h : KeepRegs z m) (f) : KeepRegs z (m.filter f) := fun c => mwf_filter (h c) f
@[simp] theorem keepRegs_nil : KeepRegs z [] := fun _ => rfl
@[simp] theorem keepCells_nil : KeepCells z [] := fun _ => rfl
theorem keepCells_write {m : List Cell} (h : KeepCells z m) (a v) : KeepCells z (Cells.write m a v) :=
  fun c => cells_wf_write (h c) a v
theorem keepCells_writeList {m : List Cell} (h : KeepCells z m) (a bs) : KeepCells z (Cells.writeList m a bs) :=
  fun c => cells_wf_writeList (h c) a bs
theorem keepCells_filter {m : List Cell} (h : KeepCells z m) (f) : KeepCells z (m.filter f) := fun c => cells_wf_filter (h c) f
theorem keepCells_clear {m : List Cell} (h : KeepCells z m) (a n) : KeepCells z (Cells.clear m a n) :=
  fun c => cells_wf_clear (h c) a n

/-- A register as a set of pieces. -/
def Reg.bit (r : Reg) : Nat := 2 ^ (28 + r.ctorIdx)

/-- The register of a field as a set of pieces. -/
def Field.bit (f : Field) : Nat := f.reg.bit

/-- Where every register may differ, each may. -/
theorem Frees.reg {m : Nat} (h : Frees z m) (e : Nat.land 0x1fffffffffffffffffffffffffffffffffffffff0000000 m = 0x1fffffffffffffffffffffffffffffffffffffff0000000) (r : Reg) : Frees z r.bit := by
  have k : Frees z 0x1fffffffffffffffffffffffffffffffffffffff0000000 := h.sub e
  cases r <;> exact k.sub rfl

/-- Where every piece may differ, each may. -/
theorem Frees.all (h : Frees z 0x1ffffffffffffffffffffffffffffffffffffffffffffff) (p : Piece) : z.opens p := by
  cases p with
  | reg r => exact h.opens (by cases r <;> rfl)
  | _ => exact h.opens rfl

/-! An update of one piece or a few, where they may differ. -/

theorem upd_asf {a20} (hw : Frees z 0x100000) (h : Kept z s) :
    Kept z (State.mk s.pending s.now s.freeCtr s.regs s.msix s.out s.buhorn s.handles s.seqs s.parts s.tenants s.weights s.churn s.tiers s.ftl s.dram s.poison s.staging s.gen s.prm a20 s.tmb s.shp s.res s.pwr s.sec s.trace s.pln) :=
  h.next rfl (fun f => ⟨f.1, f.2.1, f.2.2.1, f.2.2.2⟩) (.inr rfl) (.inl rfl) fun p => by
    cases p <;> first
      | exact .inl (hw.opens rfl)
      | exact .inr rfl
      | exact .inr trivial
      | exact .inr fun _ _ => rfl

theorem upd_asf_res {a20} {a23} (hw : Frees z 0x900000) (h : Kept z s) :
    Kept z (State.mk s.pending s.now s.freeCtr s.regs s.msix s.out s.buhorn s.handles s.seqs s.parts s.tenants s.weights s.churn s.tiers s.ftl s.dram s.poison s.staging s.gen s.prm a20 s.tmb s.shp a23 s.pwr s.sec s.trace s.pln) :=
  h.next rfl (fun f => ⟨f.1, f.2.1, f.2.2.1, f.2.2.2⟩) (.inr rfl) (.inl rfl) fun p => by
    cases p <;> first
      | exact .inl (hw.opens rfl)
      | exact .inr rfl
      | exact .inr trivial
      | exact .inr fun _ _ => rfl

theorem upd_asf_sec {a20} {a25} (hw : Frees z 0x2100000) (h : Kept z s) :
    Kept z (State.mk s.pending s.now s.freeCtr s.regs s.msix s.out s.buhorn s.handles s.seqs s.parts s.tenants s.weights s.churn s.tiers s.ftl s.dram s.poison s.staging s.gen s.prm a20 s.tmb s.shp s.res s.pwr a25 s.trace s.pln) :=
  h.next rfl (fun f => ⟨f.1, f.2.1, f.2.2.1, f.2.2.2⟩) (.inr rfl) (.inl rfl) fun p => by
    cases p <;> first
      | exact .inl (hw.opens rfl)
      | exact .inr rfl
      | exact .inr trivial
      | exact .inr fun _ _ => rfl

theorem upd_asf_shp {a20} {a22} (hw : Frees z 0x500000) (h : Kept z s) :
    Kept z (State.mk s.pending s.now s.freeCtr s.regs s.msix s.out s.buhorn s.handles s.seqs s.parts s.tenants s.weights s.churn s.tiers s.ftl s.dram s.poison s.staging s.gen s.prm a20 s.tmb a22 s.res s.pwr s.sec s.trace s.pln) :=
  h.next rfl (fun f => ⟨f.1, f.2.1, f.2.2.1, f.2.2.2⟩) (.inr rfl) (.inl rfl) fun p => by
    cases p <;> first
      | exact .inl (hw.opens rfl)
      | exact .inr rfl
      | exact .inr trivial
      | exact .inr fun _ _ => rfl

theorem upd_buhorn {a6} (hw : Frees z 0x20) (h : Kept z s) :
    Kept z (State.mk s.pending s.now s.freeCtr s.regs s.msix s.out a6 s.handles s.seqs s.parts s.tenants s.weights s.churn s.tiers s.ftl s.dram s.poison s.staging s.gen s.prm s.asf s.tmb s.shp s.res s.pwr s.sec s.trace s.pln) :=
  h.next rfl (fun f => ⟨f.1, f.2.1, f.2.2.1, f.2.2.2⟩) (.inr rfl) (.inl rfl) fun p => by
    cases p <;> first
      | exact .inl (hw.opens rfl)
      | exact .inr rfl
      | exact .inr trivial
      | exact .inr fun _ _ => rfl

theorem upd_buhorn_parts {a6} {a9} (hw : Frees z 0x120) (h : Kept z s) :
    Kept z (State.mk s.pending s.now s.freeCtr s.regs s.msix s.out a6 s.handles s.seqs a9 s.tenants s.weights s.churn s.tiers s.ftl s.dram s.poison s.staging s.gen s.prm s.asf s.tmb s.shp s.res s.pwr s.sec s.trace s.pln) :=
  h.next rfl (fun f => ⟨f.1, f.2.1, f.2.2.1, f.2.2.2⟩) (.inr rfl) (.inl rfl) fun p => by
    cases p <;> first
      | exact .inl (hw.opens rfl)
      | exact .inr rfl
      | exact .inr trivial
      | exact .inr fun _ _ => rfl

theorem upd_churn {a12} (hw : Frees z 0x800) (h : Kept z s) :
    Kept z (State.mk s.pending s.now s.freeCtr s.regs s.msix s.out s.buhorn s.handles s.seqs s.parts s.tenants s.weights a12 s.tiers s.ftl s.dram s.poison s.staging s.gen s.prm s.asf s.tmb s.shp s.res s.pwr s.sec s.trace s.pln) :=
  h.next rfl (fun f => ⟨f.1, f.2.1, f.2.2.1, f.2.2.2⟩) (.inr rfl) (.inl rfl) fun p => by
    cases p <;> first
      | exact .inl (hw.opens rfl)
      | exact .inr rfl
      | exact .inr trivial
      | exact .inr fun _ _ => rfl

theorem upd_dram {a15} (hw : Frees z 0x8000) (hb : KeepCells z a15) (h : Kept z s) :
    Kept z (State.mk s.pending s.now s.freeCtr s.regs s.msix s.out s.buhorn s.handles s.seqs s.parts s.tenants s.weights s.churn s.tiers s.ftl a15 s.poison s.staging s.gen s.prm s.asf s.tmb s.shp s.res s.pwr s.sec s.trace s.pln) :=
  h.next rfl (fun f => ⟨f.1, hb, f.2.2.1, f.2.2.2⟩) (.inr rfl) (.inl rfl) fun p => by
    cases p <;> first
      | exact .inl (hw.opens rfl)
      | exact .inr rfl
      | exact .inr trivial
      | exact .inr fun _ _ => rfl

theorem upd_dram_poison {a15} {a16} (hw : Frees z 0x18000) (hb : KeepCells z a15) (h : Kept z s) :
    Kept z (State.mk s.pending s.now s.freeCtr s.regs s.msix s.out s.buhorn s.handles s.seqs s.parts s.tenants s.weights s.churn s.tiers s.ftl a15 a16 s.staging s.gen s.prm s.asf s.tmb s.shp s.res s.pwr s.sec s.trace s.pln) :=
  h.next rfl (fun f => ⟨f.1, hb, f.2.2.1, f.2.2.2⟩) (.inr rfl) (.inl rfl) fun p => by
    cases p <;> first
      | exact .inl (hw.opens rfl)
      | exact .inr rfl
      | exact .inr trivial
      | exact .inr fun _ _ => rfl

theorem upd_freeCtr {a2} (hw : Frees z 0x4) (h : Kept z s) :
    Kept z (State.mk s.pending s.now a2 s.regs s.msix s.out s.buhorn s.handles s.seqs s.parts s.tenants s.weights s.churn s.tiers s.ftl s.dram s.poison s.staging s.gen s.prm s.asf s.tmb s.shp s.res s.pwr s.sec s.trace s.pln) :=
  h.next rfl (fun f => ⟨f.1, f.2.1, f.2.2.1, f.2.2.2⟩) (.inr rfl) (.inl rfl) fun p => by
    cases p <;> first
      | exact .inl (hw.opens rfl)
      | exact .inr rfl
      | exact .inr trivial
      | exact .inr fun _ _ => rfl

theorem upd_freeCtr_res {a2} {a23} (hw : Frees z 0x800004) (h : Kept z s) :
    Kept z (State.mk s.pending s.now a2 s.regs s.msix s.out s.buhorn s.handles s.seqs s.parts s.tenants s.weights s.churn s.tiers s.ftl s.dram s.poison s.staging s.gen s.prm s.asf s.tmb s.shp a23 s.pwr s.sec s.trace s.pln) :=
  h.next rfl (fun f => ⟨f.1, f.2.1, f.2.2.1, f.2.2.2⟩) (.inr rfl) (.inl rfl) fun p => by
    cases p <;> first
      | exact .inl (hw.opens rfl)
      | exact .inr rfl
      | exact .inr trivial
      | exact .inr fun _ _ => rfl

theorem upd_freeCtr_sec {a2} {a25} (hw : Frees z 0x2000004) (h : Kept z s) :
    Kept z (State.mk s.pending s.now a2 s.regs s.msix s.out s.buhorn s.handles s.seqs s.parts s.tenants s.weights s.churn s.tiers s.ftl s.dram s.poison s.staging s.gen s.prm s.asf s.tmb s.shp s.res s.pwr a25 s.trace s.pln) :=
  h.next rfl (fun f => ⟨f.1, f.2.1, f.2.2.1, f.2.2.2⟩) (.inr rfl) (.inl rfl) fun p => by
    cases p <;> first
      | exact .inl (hw.opens rfl)
      | exact .inr rfl
      | exact .inr trivial
      | exact .inr fun _ _ => rfl

theorem upd_ftl {a14} (hw : Frees z 0x4000) (h : Kept z s) :
    Kept z (State.mk s.pending s.now s.freeCtr s.regs s.msix s.out s.buhorn s.handles s.seqs s.parts s.tenants s.weights s.churn s.tiers a14 s.dram s.poison s.staging s.gen s.prm s.asf s.tmb s.shp s.res s.pwr s.sec s.trace s.pln) :=
  h.next rfl (fun f => ⟨f.1, f.2.1, f.2.2.1, f.2.2.2⟩) (.inr rfl) (.inl rfl) fun p => by
    cases p <;> first
      | exact .inl (hw.opens rfl)
      | exact .inr rfl
      | exact .inr trivial
      | exact .inr fun _ _ => rfl

theorem upd_ftl_sec {a14} {a25} (hw : Frees z 0x2004000) (h : Kept z s) :
    Kept z (State.mk s.pending s.now s.freeCtr s.regs s.msix s.out s.buhorn s.handles s.seqs s.parts s.tenants s.weights s.churn s.tiers a14 s.dram s.poison s.staging s.gen s.prm s.asf s.tmb s.shp s.res s.pwr a25 s.trace s.pln) :=
  h.next rfl (fun f => ⟨f.1, f.2.1, f.2.2.1, f.2.2.2⟩) (.inr rfl) (.inl rfl) fun p => by
    cases p <;> first
      | exact .inl (hw.opens rfl)
      | exact .inr rfl
      | exact .inr trivial
      | exact .inr fun _ _ => rfl

theorem upd_gen {a18} (hw : Frees z 0x40000) (h : Kept z s) :
    Kept z (State.mk s.pending s.now s.freeCtr s.regs s.msix s.out s.buhorn s.handles s.seqs s.parts s.tenants s.weights s.churn s.tiers s.ftl s.dram s.poison s.staging a18 s.prm s.asf s.tmb s.shp s.res s.pwr s.sec s.trace s.pln) :=
  h.next rfl (fun f => ⟨f.1, f.2.1, f.2.2.1, f.2.2.2⟩) (.inr rfl) (.inl rfl) fun p => by
    cases p <;> first
      | exact .inl (hw.opens rfl)
      | exact .inr rfl
      | exact .inr trivial
      | exact .inr fun _ _ => rfl

theorem upd_handles {a7} (hw : Frees z 0x40) (h : Kept z s) :
    Kept z (State.mk s.pending s.now s.freeCtr s.regs s.msix s.out s.buhorn a7 s.seqs s.parts s.tenants s.weights s.churn s.tiers s.ftl s.dram s.poison s.staging s.gen s.prm s.asf s.tmb s.shp s.res s.pwr s.sec s.trace s.pln) :=
  h.next rfl (fun f => ⟨f.1, f.2.1, f.2.2.1, f.2.2.2⟩) (.inr rfl) (.inl rfl) fun p => by
    cases p <;> first
      | exact .inl (hw.opens rfl)
      | exact .inr rfl
      | exact .inr trivial
      | exact .inr fun _ _ => rfl

theorem upd_handles_seqs {a7} {a8} (hw : Frees z 0xc0) (h : Kept z s) :
    Kept z (State.mk s.pending s.now s.freeCtr s.regs s.msix s.out s.buhorn a7 a8 s.parts s.tenants s.weights s.churn s.tiers s.ftl s.dram s.poison s.staging s.gen s.prm s.asf s.tmb s.shp s.res s.pwr s.sec s.trace s.pln) :=
  h.next rfl (fun f => ⟨f.1, f.2.1, f.2.2.1, f.2.2.2⟩) (.inr rfl) (.inl rfl) fun p => by
    cases p <;> first
      | exact .inl (hw.opens rfl)
      | exact .inr rfl
      | exact .inr trivial
      | exact .inr fun _ _ => rfl

theorem upd_msix {a4} (hw : Frees z 0x8) (h : Kept z s) :
    Kept z (State.mk s.pending s.now s.freeCtr s.regs a4 s.out s.buhorn s.handles s.seqs s.parts s.tenants s.weights s.churn s.tiers s.ftl s.dram s.poison s.staging s.gen s.prm s.asf s.tmb s.shp s.res s.pwr s.sec s.trace s.pln) :=
  h.next rfl (fun f => ⟨f.1, f.2.1, f.2.2.1, f.2.2.2⟩) (.inr rfl) (.inl rfl) fun p => by
    cases p <;> first
      | exact .inl (hw.opens rfl)
      | exact .inr rfl
      | exact .inr trivial
      | exact .inr fun _ _ => rfl

theorem upd_now {a1} (hw : Frees z 0x2) (h : Kept z s) :
    Kept z (State.mk s.pending a1 s.freeCtr s.regs s.msix s.out s.buhorn s.handles s.seqs s.parts s.tenants s.weights s.churn s.tiers s.ftl s.dram s.poison s.staging s.gen s.prm s.asf s.tmb s.shp s.res s.pwr s.sec s.trace s.pln) :=
  h.next rfl (fun f => ⟨f.1, f.2.1, f.2.2.1, f.2.2.2⟩) (.inl (hw.opens rfl)) (.inl rfl) fun p => by
    cases p <;> first
      | exact .inl (hw.opens rfl)
      | exact .inr rfl
      | exact .inr trivial
      | exact .inr fun _ _ => rfl

theorem upd_now_tmb {a1} {a21} (hw : Frees z 0x200002) (h : Kept z s) :
    Kept z (State.mk s.pending a1 s.freeCtr s.regs s.msix s.out s.buhorn s.handles s.seqs s.parts s.tenants s.weights s.churn s.tiers s.ftl s.dram s.poison s.staging s.gen s.prm s.asf a21 s.shp s.res s.pwr s.sec s.trace s.pln) :=
  h.next rfl (fun f => ⟨f.1, f.2.1, f.2.2.1, f.2.2.2⟩) (.inl (hw.opens rfl)) (.inl rfl) fun p => by
    cases p <;> first
      | exact .inl (hw.opens rfl)
      | exact .inr rfl
      | exact .inr trivial
      | exact .inr fun _ _ => rfl

theorem upd_out {a5} (hw : Frees z 0x10) (h : Kept z s) :
    Kept z (State.mk s.pending s.now s.freeCtr s.regs s.msix a5 s.buhorn s.handles s.seqs s.parts s.tenants s.weights s.churn s.tiers s.ftl s.dram s.poison s.staging s.gen s.prm s.asf s.tmb s.shp s.res s.pwr s.sec s.trace s.pln) :=
  h.next rfl (fun f => ⟨f.1, f.2.1, f.2.2.1, f.2.2.2⟩) (.inr rfl) (.inl rfl) fun p => by
    cases p <;> first
      | exact .inl (hw.opens rfl)
      | exact .inr rfl
      | exact .inr trivial
      | exact .inr fun _ _ => rfl

theorem upd_parts {a9} (hw : Frees z 0x100) (h : Kept z s) :
    Kept z (State.mk s.pending s.now s.freeCtr s.regs s.msix s.out s.buhorn s.handles s.seqs a9 s.tenants s.weights s.churn s.tiers s.ftl s.dram s.poison s.staging s.gen s.prm s.asf s.tmb s.shp s.res s.pwr s.sec s.trace s.pln) :=
  h.next rfl (fun f => ⟨f.1, f.2.1, f.2.2.1, f.2.2.2⟩) (.inr rfl) (.inl rfl) fun p => by
    cases p <;> first
      | exact .inl (hw.opens rfl)
      | exact .inr rfl
      | exact .inr trivial
      | exact .inr fun _ _ => rfl

theorem upd_pln {a27 : Pln} (hw : Frees z 0x8000000) (hr : a27.resetAt = s.pln.resetAt ∨ a27.resetAt = s.now) (h : Kept z s) :
    Kept z (State.mk s.pending s.now s.freeCtr s.regs s.msix s.out s.buhorn s.handles s.seqs s.parts s.tenants s.weights s.churn s.tiers s.ftl s.dram s.poison s.staging s.gen s.prm s.asf s.tmb s.shp s.res s.pwr s.sec s.trace a27) :=
  h.next rfl (fun f => ⟨f.1, f.2.1, f.2.2.1, f.2.2.2⟩) (.inr rfl) (hr) fun p => by
    cases p <;> first
      | exact .inl (hw.opens rfl)
      | exact .inr rfl
      | exact .inr trivial
      | exact .inr fun _ _ => rfl

theorem upd_poison {a16} (hw : Frees z 0x10000) (h : Kept z s) :
    Kept z (State.mk s.pending s.now s.freeCtr s.regs s.msix s.out s.buhorn s.handles s.seqs s.parts s.tenants s.weights s.churn s.tiers s.ftl s.dram a16 s.staging s.gen s.prm s.asf s.tmb s.shp s.res s.pwr s.sec s.trace s.pln) :=
  h.next rfl (fun f => ⟨f.1, f.2.1, f.2.2.1, f.2.2.2⟩) (.inr rfl) (.inl rfl) fun p => by
    cases p <;> first
      | exact .inl (hw.opens rfl)
      | exact .inr rfl
      | exact .inr trivial
      | exact .inr fun _ _ => rfl

theorem upd_prm {a19} (hw : Frees z 0x80000) (h : Kept z s) :
    Kept z (State.mk s.pending s.now s.freeCtr s.regs s.msix s.out s.buhorn s.handles s.seqs s.parts s.tenants s.weights s.churn s.tiers s.ftl s.dram s.poison s.staging s.gen a19 s.asf s.tmb s.shp s.res s.pwr s.sec s.trace s.pln) :=
  h.next rfl (fun f => ⟨f.1, f.2.1, f.2.2.1, f.2.2.2⟩) (.inr rfl) (.inl rfl) fun p => by
    cases p <;> first
      | exact .inl (hw.opens rfl)
      | exact .inr rfl
      | exact .inr trivial
      | exact .inr fun _ _ => rfl

theorem upd_pwr {a24} (hw : Frees z 0x1000000) (h : Kept z s) :
    Kept z (State.mk s.pending s.now s.freeCtr s.regs s.msix s.out s.buhorn s.handles s.seqs s.parts s.tenants s.weights s.churn s.tiers s.ftl s.dram s.poison s.staging s.gen s.prm s.asf s.tmb s.shp s.res a24 s.sec s.trace s.pln) :=
  h.next rfl (fun f => ⟨f.1, f.2.1, f.2.2.1, f.2.2.2⟩) (.inr rfl) (.inl rfl) fun p => by
    cases p <;> first
      | exact .inl (hw.opens rfl)
      | exact .inr rfl
      | exact .inr trivial
      | exact .inr fun _ _ => rfl

theorem upd_res {a23} (hw : Frees z 0x800000) (h : Kept z s) :
    Kept z (State.mk s.pending s.now s.freeCtr s.regs s.msix s.out s.buhorn s.handles s.seqs s.parts s.tenants s.weights s.churn s.tiers s.ftl s.dram s.poison s.staging s.gen s.prm s.asf s.tmb s.shp a23 s.pwr s.sec s.trace s.pln) :=
  h.next rfl (fun f => ⟨f.1, f.2.1, f.2.2.1, f.2.2.2⟩) (.inr rfl) (.inl rfl) fun p => by
    cases p <;> first
      | exact .inl (hw.opens rfl)
      | exact .inr rfl
      | exact .inr trivial
      | exact .inr fun _ _ => rfl

theorem upd_sec {a25} (hw : Frees z 0x2000000) (h : Kept z s) :
    Kept z (State.mk s.pending s.now s.freeCtr s.regs s.msix s.out s.buhorn s.handles s.seqs s.parts s.tenants s.weights s.churn s.tiers s.ftl s.dram s.poison s.staging s.gen s.prm s.asf s.tmb s.shp s.res s.pwr a25 s.trace s.pln) :=
  h.next rfl (fun f => ⟨f.1, f.2.1, f.2.2.1, f.2.2.2⟩) (.inr rfl) (.inl rfl) fun p => by
    cases p <;> first
      | exact .inl (hw.opens rfl)
      | exact .inr rfl
      | exact .inr trivial
      | exact .inr fun _ _ => rfl

theorem upd_sec_pln {a25} {a27 : Pln} (hw : Frees z 0xa000000) (hr : a27.resetAt = s.pln.resetAt ∨ a27.resetAt = s.now) (h : Kept z s) :
    Kept z (State.mk s.pending s.now s.freeCtr s.regs s.msix s.out s.buhorn s.handles s.seqs s.parts s.tenants s.weights s.churn s.tiers s.ftl s.dram s.poison s.staging s.gen s.prm s.asf s.tmb s.shp s.res s.pwr a25 s.trace a27) :=
  h.next rfl (fun f => ⟨f.1, f.2.1, f.2.2.1, f.2.2.2⟩) (.inr rfl) (hr) fun p => by
    cases p <;> first
      | exact .inl (hw.opens rfl)
      | exact .inr rfl
      | exact .inr trivial
      | exact .inr fun _ _ => rfl

theorem upd_seqs {a8} (hw : Frees z 0x80) (h : Kept z s) :
    Kept z (State.mk s.pending s.now s.freeCtr s.regs s.msix s.out s.buhorn s.handles a8 s.parts s.tenants s.weights s.churn s.tiers s.ftl s.dram s.poison s.staging s.gen s.prm s.asf s.tmb s.shp s.res s.pwr s.sec s.trace s.pln) :=
  h.next rfl (fun f => ⟨f.1, f.2.1, f.2.2.1, f.2.2.2⟩) (.inr rfl) (.inl rfl) fun p => by
    cases p <;> first
      | exact .inl (hw.opens rfl)
      | exact .inr rfl
      | exact .inr trivial
      | exact .inr fun _ _ => rfl

theorem upd_seqs_parts_res {a8} {a9} {a23} (hw : Frees z 0x800180) (h : Kept z s) :
    Kept z (State.mk s.pending s.now s.freeCtr s.regs s.msix s.out s.buhorn s.handles a8 a9 s.tenants s.weights s.churn s.tiers s.ftl s.dram s.poison s.staging s.gen s.prm s.asf s.tmb s.shp a23 s.pwr s.sec s.trace s.pln) :=
  h.next rfl (fun f => ⟨f.1, f.2.1, f.2.2.1, f.2.2.2⟩) (.inr rfl) (.inl rfl) fun p => by
    cases p <;> first
      | exact .inl (hw.opens rfl)
      | exact .inr rfl
      | exact .inr trivial
      | exact .inr fun _ _ => rfl

theorem upd_seqs_tiers_gen_prm {a8} {a13 : Tiers} {a18} {a19} (hw : Frees z 0xc1080) (hb : Tiers.bytes a13 = s.tiers.bytes) (h : Kept z s) :
    Kept z (State.mk s.pending s.now s.freeCtr s.regs s.msix s.out s.buhorn s.handles a8 s.parts s.tenants s.weights s.churn a13 s.ftl s.dram s.poison s.staging a18 a19 s.asf s.tmb s.shp s.res s.pwr s.sec s.trace s.pln) :=
  h.next rfl (fun f => ⟨f.1, f.2.1, hb ▸ f.2.2.1, f.2.2.2⟩) (.inr rfl) (.inl rfl) fun p => by
    cases p <;> first
      | exact .inl (hw.opens rfl)
      | exact .inr rfl
      | exact .inr trivial
      | exact .inr fun _ _ => rfl
      | exact .inr hb

theorem upd_shp {a22} (hw : Frees z 0x400000) (h : Kept z s) :
    Kept z (State.mk s.pending s.now s.freeCtr s.regs s.msix s.out s.buhorn s.handles s.seqs s.parts s.tenants s.weights s.churn s.tiers s.ftl s.dram s.poison s.staging s.gen s.prm s.asf s.tmb a22 s.res s.pwr s.sec s.trace s.pln) :=
  h.next rfl (fun f => ⟨f.1, f.2.1, f.2.2.1, f.2.2.2⟩) (.inr rfl) (.inl rfl) fun p => by
    cases p <;> first
      | exact .inl (hw.opens rfl)
      | exact .inr rfl
      | exact .inr trivial
      | exact .inr fun _ _ => rfl

theorem upd_staging {a17} (hw : Frees z 0x20000) (hb : KeepCells z a17) (h : Kept z s) :
    Kept z (State.mk s.pending s.now s.freeCtr s.regs s.msix s.out s.buhorn s.handles s.seqs s.parts s.tenants s.weights s.churn s.tiers s.ftl s.dram s.poison a17 s.gen s.prm s.asf s.tmb s.shp s.res s.pwr s.sec s.trace s.pln) :=
  h.next rfl (fun f => ⟨f.1, f.2.1, f.2.2.1, hb⟩) (.inr rfl) (.inl rfl) fun p => by
    cases p <;> first
      | exact .inl (hw.opens rfl)
      | exact .inr rfl
      | exact .inr trivial
      | exact .inr fun _ _ => rfl

theorem upd_tenants {a10} (hw : Frees z 0x200) (h : Kept z s) :
    Kept z (State.mk s.pending s.now s.freeCtr s.regs s.msix s.out s.buhorn s.handles s.seqs s.parts a10 s.weights s.churn s.tiers s.ftl s.dram s.poison s.staging s.gen s.prm s.asf s.tmb s.shp s.res s.pwr s.sec s.trace s.pln) :=
  h.next rfl (fun f => ⟨f.1, f.2.1, f.2.2.1, f.2.2.2⟩) (.inr rfl) (.inl rfl) fun p => by
    cases p <;> first
      | exact .inl (hw.opens rfl)
      | exact .inr rfl
      | exact .inr trivial
      | exact .inr fun _ _ => rfl

theorem upd_tiers {a13 : Tiers} (hw : Frees z 0x1000) (hb : Tiers.bytes a13 = s.tiers.bytes) (h : Kept z s) :
    Kept z (State.mk s.pending s.now s.freeCtr s.regs s.msix s.out s.buhorn s.handles s.seqs s.parts s.tenants s.weights s.churn a13 s.ftl s.dram s.poison s.staging s.gen s.prm s.asf s.tmb s.shp s.res s.pwr s.sec s.trace s.pln) :=
  h.next rfl (fun f => ⟨f.1, f.2.1, hb ▸ f.2.2.1, f.2.2.2⟩) (.inr rfl) (.inl rfl) fun p => by
    cases p <;> first
      | exact .inl (hw.opens rfl)
      | exact .inr rfl
      | exact .inr trivial
      | exact .inr fun _ _ => rfl
      | exact .inr hb

theorem upd_tiers_bytes {a13 : Tiers} (hw : Frees z 0x3000) (hb : KeepCells z (Tiers.bytes a13)) (h : Kept z s) :
    Kept z (State.mk s.pending s.now s.freeCtr s.regs s.msix s.out s.buhorn s.handles s.seqs s.parts s.tenants s.weights s.churn a13 s.ftl s.dram s.poison s.staging s.gen s.prm s.asf s.tmb s.shp s.res s.pwr s.sec s.trace s.pln) :=
  h.next rfl (fun f => ⟨f.1, f.2.1, hb, f.2.2.2⟩) (.inr rfl) (.inl rfl) fun p => by
    cases p <;> first
      | exact .inl (hw.opens rfl)
      | exact .inr rfl
      | exact .inr trivial
      | exact .inr fun _ _ => rfl

theorem upd_tiers_bytes_ftl {a13 : Tiers} {a14} (hw : Frees z 0x7000) (hb : KeepCells z (Tiers.bytes a13)) (h : Kept z s) :
    Kept z (State.mk s.pending s.now s.freeCtr s.regs s.msix s.out s.buhorn s.handles s.seqs s.parts s.tenants s.weights s.churn a13 a14 s.dram s.poison s.staging s.gen s.prm s.asf s.tmb s.shp s.res s.pwr s.sec s.trace s.pln) :=
  h.next rfl (fun f => ⟨f.1, f.2.1, hb, f.2.2.2⟩) (.inr rfl) (.inl rfl) fun p => by
    cases p <;> first
      | exact .inl (hw.opens rfl)
      | exact .inr rfl
      | exact .inr trivial
      | exact .inr fun _ _ => rfl

theorem upd_tiers_asf {a13 : Tiers} {a20} (hw : Frees z 0x101000) (hb : Tiers.bytes a13 = s.tiers.bytes) (h : Kept z s) :
    Kept z (State.mk s.pending s.now s.freeCtr s.regs s.msix s.out s.buhorn s.handles s.seqs s.parts s.tenants s.weights s.churn a13 s.ftl s.dram s.poison s.staging s.gen s.prm a20 s.tmb s.shp s.res s.pwr s.sec s.trace s.pln) :=
  h.next rfl (fun f => ⟨f.1, f.2.1, hb ▸ f.2.2.1, f.2.2.2⟩) (.inr rfl) (.inl rfl) fun p => by
    cases p <;> first
      | exact .inl (hw.opens rfl)
      | exact .inr rfl
      | exact .inr trivial
      | exact .inr fun _ _ => rfl
      | exact .inr hb

theorem upd_tiers_ftl {a13 : Tiers} {a14} (hw : Frees z 0x5000) (hb : Tiers.bytes a13 = s.tiers.bytes) (h : Kept z s) :
    Kept z (State.mk s.pending s.now s.freeCtr s.regs s.msix s.out s.buhorn s.handles s.seqs s.parts s.tenants s.weights s.churn a13 a14 s.dram s.poison s.staging s.gen s.prm s.asf s.tmb s.shp s.res s.pwr s.sec s.trace s.pln) :=
  h.next rfl (fun f => ⟨f.1, f.2.1, hb ▸ f.2.2.1, f.2.2.2⟩) (.inr rfl) (.inl rfl) fun p => by
    cases p <;> first
      | exact .inl (hw.opens rfl)
      | exact .inr rfl
      | exact .inr trivial
      | exact .inr fun _ _ => rfl
      | exact .inr hb

theorem upd_tiers_res {a13 : Tiers} {a23} (hw : Frees z 0x801000) (hb : Tiers.bytes a13 = s.tiers.bytes) (h : Kept z s) :
    Kept z (State.mk s.pending s.now s.freeCtr s.regs s.msix s.out s.buhorn s.handles s.seqs s.parts s.tenants s.weights s.churn a13 s.ftl s.dram s.poison s.staging s.gen s.prm s.asf s.tmb s.shp a23 s.pwr s.sec s.trace s.pln) :=
  h.next rfl (fun f => ⟨f.1, f.2.1, hb ▸ f.2.2.1, f.2.2.2⟩) (.inr rfl) (.inl rfl) fun p => by
    cases p <;> first
      | exact .inl (hw.opens rfl)
      | exact .inr rfl
      | exact .inr trivial
      | exact .inr fun _ _ => rfl
      | exact .inr hb

theorem upd_tmb {a21} (hw : Frees z 0x200000) (h : Kept z s) :
    Kept z (State.mk s.pending s.now s.freeCtr s.regs s.msix s.out s.buhorn s.handles s.seqs s.parts s.tenants s.weights s.churn s.tiers s.ftl s.dram s.poison s.staging s.gen s.prm s.asf a21 s.shp s.res s.pwr s.sec s.trace s.pln) :=
  h.next rfl (fun f => ⟨f.1, f.2.1, f.2.2.1, f.2.2.2⟩) (.inr rfl) (.inl rfl) fun p => by
    cases p <;> first
      | exact .inl (hw.opens rfl)
      | exact .inr rfl
      | exact .inr trivial
      | exact .inr fun _ _ => rfl

theorem upd_trace {a26} (hw : Frees z 0x4000000) (h : Kept z s) :
    Kept z (State.mk s.pending s.now s.freeCtr s.regs s.msix s.out s.buhorn s.handles s.seqs s.parts s.tenants s.weights s.churn s.tiers s.ftl s.dram s.poison s.staging s.gen s.prm s.asf s.tmb s.shp s.res s.pwr s.sec a26 s.pln) :=
  h.next rfl (fun f => ⟨f.1, f.2.1, f.2.2.1, f.2.2.2⟩) (.inr rfl) (.inl rfl) fun p => by
    cases p <;> first
      | exact .inl (hw.opens rfl)
      | exact .inr rfl
      | exact .inr trivial
      | exact .inr fun _ _ => rfl

theorem upd_weights {a11} (hw : Frees z 0x400) (h : Kept z s) :
    Kept z (State.mk s.pending s.now s.freeCtr s.regs s.msix s.out s.buhorn s.handles s.seqs s.parts s.tenants a11 s.churn s.tiers s.ftl s.dram s.poison s.staging s.gen s.prm s.asf s.tmb s.shp s.res s.pwr s.sec s.trace s.pln) :=
  h.next rfl (fun f => ⟨f.1, f.2.1, f.2.2.1, f.2.2.2⟩) (.inr rfl) (.inl rfl) fun p => by
    cases p <;> first
      | exact .inl (hw.opens rfl)
      | exact .inr rfl
      | exact .inr trivial
      | exact .inr fun _ _ => rfl

theorem upd_weights_ftl {a11} {a14} (hw : Frees z 0x4400) (h : Kept z s) :
    Kept z (State.mk s.pending s.now s.freeCtr s.regs s.msix s.out s.buhorn s.handles s.seqs s.parts s.tenants a11 s.churn s.tiers a14 s.dram s.poison s.staging s.gen s.prm s.asf s.tmb s.shp s.res s.pwr s.sec s.trace s.pln) :=
  h.next rfl (fun f => ⟨f.1, f.2.1, f.2.2.1, f.2.2.2⟩) (.inr rfl) (.inl rfl) fun p => by
    cases p <;> first
      | exact .inl (hw.opens rfl)
      | exact .inr rfl
      | exact .inr trivial
      | exact .inr fun _ _ => rfl

theorem kept_if {c : Prop} [Decidable c] {a b : State} (ha : c → Kept z a) (hb : ¬c → Kept z b) :
    Kept z (if c then a else b) := by
  split
  · exact ha ‹_›
  · exact hb ‹_›

theorem kept_ite {c : Prop} [Decidable c] {a b : State} :
    Kept z (if c then a else b) = ((c → Kept z a) ∧ (¬c → Kept z b)) := by
  split <;> simp_all

/-- Of an optional state: it is kept if there is one. -/
@[irreducible] def KeptOpt (z : Ref) (o : Option State) : Prop := ∀ t, o = some t → Kept z t

/-- Of an outcome: its next state is kept. -/
@[irreducible] def KeptOut (z : Ref) (o : Out) : Prop := ∀ t, o = .next t → Kept z t

@[simp] theorem keptOpt_none : KeptOpt z none := by unfold KeptOpt; simp
@[simp] theorem keptOpt_some : KeptOpt z (some s) = Kept z s := by unfold KeptOpt; simp
@[simp] theorem keptOut_next : KeptOut z (.next s) = Kept z s := by unfold KeptOut; simp

theorem keptOpt_of (h : Kept z s) : KeptOpt z (some s) := by simpa using h

theorem keptOut_of (h : Kept z s) : KeptOut z (.next s) := by simpa using h

theorem KeptOpt.get {o : Option State} {t : State} (h : KeptOpt z o) (e : o = some t) : Kept z t := by
  unfold KeptOpt at h; exact h t e

theorem KeptOpt.getD {o : Option State} {t : State} (h : KeptOpt z o) (ht : Kept z t) : Kept z (o.getD t) := by
  cases o with
  | none => exact ht
  | some s => exact h.get rfl

theorem keptOpt_bind {α : Type} {o : Option α} {f : α → Option State} (h : ∀ x, KeptOpt z (f x)) : KeptOpt z (o.bind f) := by
  cases o with
  | none => exact keptOpt_none
  | some x => exact h x

theorem keptOpt_map {α : Type} {o : Option α} {f : α → State} (h : ∀ x, Kept z (f x)) : KeptOpt z (o.map f) := by
  cases o with
  | none => exact keptOpt_none
  | some x => exact keptOpt_of (h x)

theorem kept_elim {α : Type} {o : Option α} {f : α → State} (ht : Kept z s) (h : ∀ x, Kept z (f x)) : Kept z (o.elim s f) := by
  cases o with
  | none => exact ht
  | some x => exact h x

theorem KeptOut.get {o : Out} {t : State} (h : KeptOut z o) (e : o = .next t) : Kept z t := by
  unfold KeptOut at h; exact h t e

/-- A fold of operations that keep is one that keeps. -/
theorem kept_foldl {β : Type} {g : State → β → State} (l : List β) (h : Kept z s)
    (hg : ∀ (t : State) (x : β), Kept z t → Kept z (g t x)) : Kept z (l.foldl g s) := by
  induction l generalizing s with
  | nil => exact h
  | cons x l ih => exact ih (hg s x h)

/-- The same for a fold that carries a second value. -/
theorem kept_foldl_pair {α β : Type} {g : State × α → β → State × α} (l : List β) {a : State × α} (h : Kept z a.1)
    (hg : ∀ (t : State × α) (x : β), Kept z t.1 → Kept z (g t x).1) : Kept z (l.foldl g a).1 := by
  induction l generalizing a with
  | nil => exact h
  | cons x l ih => exact ih (hg a x h)

theorem keptOpt_map_of {o : Option State} {f : State → State} (h : KeptOpt z o) (hf : ∀ t, Kept z t → Kept z (f t)) :
    KeptOpt z (o.map f) := by
  cases o with
  | none => exact keptOpt_none
  | some x => exact keptOpt_of (hf x (h.get rfl))

end Sys2Proof.Machine
end

