-- ==== Sys2Proof/Laws/KeepsBank.lean ====
section
/-! SUPPORT. Every operation of Machine/Bank.lean keeps the queue, the canonical forms and every piece that it does not touch. -/

set_option Elab.async false
set_option linter.unusedSimpArgs false
set_option linter.unusedTactic false
set_option linter.unreachableTactic false

namespace Sys2Proof.Machine

variable {z : Ref}

theorem State.setReg_keeps (s : State) {r : Reg} (i : ℕ) (v : BitVec 64) (hw : Frees z r.bit)  (hk : Kept z s) :
    Kept z (State.setReg s r i v) := by
  refine hk.next rfl (fun f => ⟨?_, f.2⟩) (.inr rfl) (.inl rfl) fun p => ?_
  · unfold State.setReg
    dsimp only
    split
    · split
      · exact keepRegs_mdel f.1 _
      · exact keepRegs_mset f.1 _ _
    · exact f.1
  · cases p <;> first
      | exact .inr rfl
      | exact .inr trivial
      | skip
    rename_i r'
    by_cases e : r = r'
    · subst e
      exact .inl (hw.opens (by show Nat.testBit (2 ^ (28 + r.ctorIdx)) (28 + r.ctorIdx) = true; simp))
    · exact .inr fun j hj => State.reg_setReg_other s e i v hj

theorem State.setFld_keeps (s : State) {f : Field} (i : ℕ) (v : ℕ) (hw : Frees z f.bit)  (hk : Kept z s) :
    Kept z (State.setFld s f i v) := by
  exact State.setReg_keeps s i _ hw hk

theorem State.setFldInt_keeps (s : State) {f : Field} (i : ℕ) (v : ℤ) (hw : Frees z f.bit)  (hk : Kept z s) :
    Kept z (State.setFldInt s f i v) := by
  exact State.setFld_keeps s i _ hw hk

theorem State.bump_keeps (s : State) {f : Field} (i : ℕ) (n : ℕ) (hw : Frees z f.bit)  (hk : Kept z s) :
    Kept z (State.bump s f i n) := by
  exact State.setFld_keeps s i _ hw hk

theorem State.bumpWrap_keeps (s : State) {f : Field} (i : ℕ) (n : ℕ) (hw : Frees z f.bit)  (hk : Kept z s) :
    Kept z (State.bumpWrap s f i n) := by
  exact State.setFld_keeps s i _ hw hk

theorem State.setFlag_keeps (s : State) {f : Field} (i : ℕ) (b : Bool) (hw : Frees z f.bit)  (hk : Kept z s) :
    Kept z (State.setFlag s f i b) := by
  exact State.setFld_keeps s i _ hw hk

theorem State.emit_keeps (hw : Frees z 0x10) (s : State) (o : Output)  (hk : Kept z s) :
    Kept z (State.emit s o) := by
  have w0 : Frees z 0x10 := hw.sub rfl
  simp (maxDischargeDepth := 30) only [State.emit, upd_out w0, and_self, hk]

theorem State.free_keeps (hw : Frees z 0x4) (s : State)  (hk : Kept z s) :
    Kept z (State.free s).2 := by
  have w0 : Frees z 0x4 := hw.sub rfl
  simp (maxDischargeDepth := 30) only [State.free, upd_freeCtr w0, and_self, hk]
theorem State.free_gives (hw : Frees z 0x4) {t : State} {y0} {s : State} (he : State.free s = (y0, t)) (hk : Kept z s) : Kept z t :=
  by have k := State.free_keeps hw s hk; rw [he] at k; exact k

theorem State.workedUntil_keeps (hw : Frees z 0x1000000) (s : State) (d : ℕ) (t : Tick)  (hk : Kept z s) :
    Kept z (State.workedUntil s d t) := by
  have w0 : Frees z 0x1000000 := hw.sub rfl
  simp (maxDischargeDepth := 30) only [State.workedUntil, upd_pwr w0, and_self, hk]

theorem State.setPart_keeps (hw : Frees z 0x100) (s : State) (p : ℕ) (x : Part)  (hk : Kept z s) :
    Kept z (State.setPart s p x) := by
  have w0 : Frees z 0x100 := hw.sub rfl
  simp (maxDischargeDepth := 30) only [State.setPart, upd_parts w0, and_self, hk]

theorem State.modPart_keeps (hw : Frees z 0x100) (s : State) (p : ℕ) (f : Part → Part)  (hk : Kept z s) :
    Kept z (State.modPart s p f) := by
  have w0 : Frees z 0x100 := hw.sub rfl
  simp (maxDischargeDepth := 30) only [State.modPart, State.setPart_keeps w0, and_self, hk]

theorem State.modSeq_keeps (hw : Frees z 0x80) (s : State) (h : ℕ) (f : Seq → Seq)  (hk : Kept z s) :
    Kept z (State.modSeq s h f) := by
  have w0 : Frees z 0x80 := hw.sub rfl
  simp (maxDischargeDepth := 30) only [State.modSeq, upd_seqs w0, and_self, hk]

theorem State.modQueue_keeps (hw : Frees z 0x20) (s : State) (q : ℕ) (f : Queue → Queue)  (hk : Kept z s) :
    Kept z (State.modQueue s q f) := by
  have w0 : Frees z 0x20 := hw.sub rfl
  simp (maxDischargeDepth := 30) only [State.modQueue, upd_buhorn w0, and_self, hk]

theorem State.noteEntry_keeps (hw : Frees z 0x30) (s : State) (q : ℕ)  (hk : Kept z s) :
    Kept z (State.noteEntry s q) := by
  have w0 : Frees z 0x10 := hw.sub rfl
  have w1 : Frees z 0x20 := hw.sub rfl
  unfold State.noteEntry
  (repeat' split) <;> simp (maxDischargeDepth := 30) only [State.emit_keeps w0, State.modQueue_keeps w1, and_self, *]

end Sys2Proof.Machine
end

