-- ==== Sys2Proof/Laws/KeepsSend.lean ====
section
/-! SUPPORT. Every operation of Machine/Send.lean keeps the queue, the canonical forms and every piece that it does not touch. -/

set_option Elab.async false
set_option linter.unusedSimpArgs false
set_option linter.unusedTactic false
set_option linter.unreachableTactic false

namespace Sys2Proof.Machine

variable {z : Ref}

theorem State.enqueue_keeps (hw : Frees z 0x100000) (s : State) (port : ℕ) (cls : ℕ) (group : ℕ) (f : Frame)  (hk : Kept z s) :
    Kept z (State.enqueue s port cls group f) := by
  have w0 : Frees z 0x100000 := hw.sub rfl
  simp (maxDischargeDepth := 30) only [State.enqueue, upd_asf w0, and_self, hk]

theorem State.noteCtx_keeps (hw : Frees z 0x400000000000000000000000000) (s : State)  (hk : Kept z s) :
    Kept z (State.noteCtx s) := by
  have w0 : Frees z (Field.bit asfCtxStat_cached) := hw.sub rfl
  have w1 : Frees z (Field.bit asfCtxStat_open) := hw.sub rfl
  simp (maxDischargeDepth := 30) only [State.noteCtx, (State.setFld_keeps (hw := w0)), (State.setFld_keeps (hw := w1)), and_self, hk]

theorem State.setConn_keeps (hw : Frees z 0x400000000000000000000100000) (s : State) (c : ℕ) (k : Conn)  (hk : Kept z s) :
    Kept z (State.setConn s c k) := by
  have w0 : Frees z 0x400000000000000000000000000 := hw.sub rfl
  have w1 : Frees z 0x100000 := hw.sub rfl
  unfold State.setConn
  repeat' first
    | with_reducible assumption
    | extract_lets
    | intro _
    | split
    | with_reducible apply State.noteCtx_keeps w0
    | with_reducible apply kept_if
    | with_reducible apply kept_foldl
    | with_reducible refine upd_asf w1 ?_

theorem State.dropConn_keeps (hw : Frees z 0x400000000000000000000100000) (s : State) (c : ℕ)  (hk : Kept z s) :
    Kept z (State.dropConn s c) := by
  have w0 : Frees z 0x400000000000000000000000000 := hw.sub rfl
  have w1 : Frees z 0x100000 := hw.sub rfl
  unfold State.dropConn
  repeat' first
    | with_reducible assumption
    | extract_lets
    | intro _
    | split
    | with_reducible apply State.noteCtx_keeps w0
    | with_reducible apply kept_if
    | with_reducible apply kept_foldl
    | with_reducible refine upd_asf w1 ?_

theorem State.modConn_keeps (hw : Frees z 0x100000) (s : State) (c : ℕ) (f : Conn → Conn)  (hk : Kept z s) :
    Kept z (State.modConn s c f) := by
  have w0 : Frees z 0x100000 := hw.sub rfl
  simp (maxDischargeDepth := 30) only [State.modConn, upd_asf w0, and_self, hk]

theorem State.queueFrame_keeps (hw : Frees z 0x100000) (s : State) (c : ℕ) (k : Conn) (f : Frame)  (hk : Kept z s) :
    Kept z (State.queueFrame s c k f) := by
  have w0 : Frees z 0x100000 := hw.sub rfl
  unfold State.queueFrame
  (repeat' split) <;> simp (maxDischargeDepth := 30) only [State.enqueue_keeps w0, and_self, *]

theorem State.failLater_keeps (hw : Frees z 0x100000) (s : State) (c : ℕ) (cause : ℕ) (node : ℕ) (p : Purpose)  (hk : Kept z s) :
    Kept z (State.failLater s c cause node p) := by
  have w0 : Frees z 0x100000 := hw.sub rfl
  simp (maxDischargeDepth := 30) only [State.failLater, upd_asf w0, and_self, hk]

theorem State.fetchContext_keeps (hw : Frees z 0x400000000000000000000000010) (s : State) (c : ℕ)  (hk : Kept z s) :
    Kept z (State.fetchContext s c) := by
  have w0 : Frees z 0x10 := hw.sub rfl
  have w1 : Frees z (Field.bit asfCtxStat_misses) := hw.sub rfl
  simp (maxDischargeDepth := 30) only [State.fetchContext, State.emit_keeps w0, (State.bump_keeps (hw := w1)), and_self, hk]

theorem State.issue_keeps (hw : Frees z 0x400000000000000000000100010) (s : State) (c : ℕ) (f : Frame) (p : Purpose)  (hk : Kept z s) :
    Kept z (State.issue s c f p) := by
  have w0 : Frees z 0x100000 := hw.sub rfl
  have w1 : Frees z 0x400000000000000000000000010 := hw.sub rfl
  unfold State.issue
  repeat' first
    | with_reducible assumption
    | extract_lets
    | intro _
    | split
    | with_reducible apply State.failLater_keeps w0
    | with_reducible apply State.fetchContext_keeps w1
    | with_reducible apply State.modConn_keeps w0
    | with_reducible apply State.queueFrame_keeps w0
    | with_reducible apply kept_if
    | with_reducible apply kept_foldl

theorem State.issueWrite_keeps (hw : Frees z 0x400000000000000000000100010) (s : State) (c : ℕ) (key : ℕ) (off : ℕ) (bs : List (BitVec 8)) (p : Purpose)  (hk : Kept z s) :
    Kept z (State.issueWrite s c key off bs p) := by
  have w0 : Frees z 0x400000000000000000000100010 := hw.sub rfl
  unfold State.issueWrite
  repeat' first
    | with_reducible assumption
    | extract_lets
    | intro _
    | split
    | with_reducible apply State.issue_keeps w0
    | with_reducible apply kept_if
    | with_reducible apply kept_foldl

theorem State.issueRead_keeps (hw : Frees z 0x400000000000000000000100010) (s : State) (c : ℕ) (key : ℕ) (off : ℕ) (len : ℕ) (p : Purpose)  (hk : Kept z s) :
    Kept z (State.issueRead s c key off len p) := by
  have w0 : Frees z 0x400000000000000000000100010 := hw.sub rfl
  simp (maxDischargeDepth := 30) +contextual only [State.issueRead, State.issue_keeps w0, and_self, kept_foldl, kept_ite, implies_true, hk]

theorem State.sendConnect_keeps (hw : Frees z 0x100000) (s : State) (c : ℕ)  (hk : Kept z s) :
    Kept z (State.sendConnect s c) := by
  have w0 : Frees z 0x100000 := hw.sub rfl
  unfold State.sendConnect
  (repeat' split) <;> simp (maxDischargeDepth := 30) only [State.queueFrame_keeps w0, and_self, *]

theorem State.bulkConn_keeps (hw : Frees z 0x400000000000000000000100000) (s : State) (node : ℕ) (cls : ℕ) (i : ℕ)  (hk : Kept z s) :
    Kept z (State.bulkConn s node cls i).1 := by
  have w0 : Frees z 0x100000 := hw.sub rfl
  have w1 : Frees z 0x400000000000000000000100000 := hw.sub rfl
  unfold State.bulkConn
  (repeat' split) <;> simp (maxDischargeDepth := 30) only [State.sendConnect_keeps w0, State.setConn_keeps w1, and_self, *]
theorem State.bulkConn_gives (hw : Frees z 0x400000000000000000000100000) {t : State} {y0} {s : State} {node : ℕ} {cls : ℕ} {i : ℕ} (he : State.bulkConn s node cls i = (t, y0)) (hk : Kept z s) : Kept z t :=
  by have k := State.bulkConn_keeps hw s node cls i hk; rw [he] at k; exact k

theorem State.issueBulk_keeps (hw : Frees z 0x400000000000000000000100010) (s : State) (node : ℕ) (cls : ℕ) (i : ℕ) (f : Frame) (p : Purpose)  (hk : Kept z s) :
    Kept z (State.issueBulk s node cls i f p) := by
  have w0 : Frees z 0x400000000000000000000100000 := hw.sub rfl
  have w1 : Frees z 0x400000000000000000000100010 := hw.sub rfl
  have w2 : Frees z 0x100000 := hw.sub rfl
  unfold State.issueBulk
  repeat' first
    | with_reducible assumption
    | extract_lets
    | intro _
    | split
    | with_reducible apply State.bulkConn_keeps w0
    | with_reducible refine State.bulkConn_gives w0 (by with_reducible assumption) ?_
    | with_reducible apply State.issue_keeps w1
    | with_reducible apply State.failLater_keeps w2
    | with_reducible apply kept_if
    | with_reducible apply kept_foldl

theorem State.writeBulk_keeps (hw : Frees z 0x400000000000000000000100010) (s : State) (node : ℕ) (cls : ℕ) (i : ℕ) (key : ℕ) (off : ℕ) (bs : List (BitVec 8)) (p : Purpose)  (hk : Kept z s) :
    Kept z (State.writeBulk s node cls i key off bs p) := by
  have w0 : Frees z 0x400000000000000000000100000 := hw.sub rfl
  have w1 : Frees z 0x400000000000000000000100010 := hw.sub rfl
  have w2 : Frees z 0x100000 := hw.sub rfl
  unfold State.writeBulk
  repeat' first
    | with_reducible assumption
    | extract_lets
    | intro _
    | split
    | with_reducible apply State.bulkConn_keeps w0
    | with_reducible refine State.bulkConn_gives w0 (by with_reducible assumption) ?_
    | with_reducible apply State.issueWrite_keeps w1
    | with_reducible apply State.failLater_keeps w2
    | with_reducible apply kept_if
    | with_reducible apply kept_foldl

theorem State.readBulk_keeps (hw : Frees z 0x400000000000000000000100010) (s : State) (node : ℕ) (cls : ℕ) (i : ℕ) (key : ℕ) (off : ℕ) (len : ℕ) (p : Purpose)  (hk : Kept z s) :
    Kept z (State.readBulk s node cls i key off len p) := by
  have w0 : Frees z 0x400000000000000000000100000 := hw.sub rfl
  have w1 : Frees z 0x400000000000000000000100010 := hw.sub rfl
  have w2 : Frees z 0x100000 := hw.sub rfl
  unfold State.readBulk
  repeat' first
    | with_reducible assumption
    | extract_lets
    | intro _
    | split
    | with_reducible apply State.bulkConn_keeps w0
    | with_reducible refine State.bulkConn_gives w0 (by with_reducible assumption) ?_
    | with_reducible apply State.issueRead_keeps w1
    | with_reducible apply State.failLater_keeps w2
    | with_reducible apply kept_if
    | with_reducible apply kept_foldl

theorem State.respond_keeps (hw : Frees z 0x100000) (s : State) (rx : Rx) (op : ℕ) (status : ℕ) (ackPsn : ℕ) (f : Frame)  (hk : Kept z s) :
    Kept z (State.respond s rx op status ackPsn f) := by
  have w0 : Frees z 0x100000 := hw.sub rfl
  unfold State.respond
  repeat' first
    | with_reducible assumption
    | extract_lets
    | intro _
    | split
    | with_reducible apply State.enqueue_keeps w0
    | with_reducible apply kept_if
    | with_reducible apply kept_foldl
    | dsimp +zetaDelta only

theorem State.countGroup_keeps (hw : Frees z 0x100000) (s : State) (dst : ℕ)  (hk : Kept z s) :
    Kept z (State.countGroup s dst) := by
  have w0 : Frees z 0x100000 := hw.sub rfl
  simp (maxDischargeDepth := 30) only [State.countGroup, upd_asf w0, and_self, hk]

theorem State.sendGroup_keeps (hw : Frees z 0x100000) (s : State) (dst : ℕ) (op : ℕ) (payload : List (BitVec 8))  (hk : Kept z s) :
    Kept z (State.sendGroup s dst op payload) := by
  have w0 : Frees z 0x100000 := hw.sub rfl
  unfold State.sendGroup
  (repeat' split) <;> simp (maxDischargeDepth := 30) only [State.enqueue_keeps w0, State.countGroup_keeps w0, and_self, *]

theorem State.sendProbes_keeps (hw : Frees z 0x100000) (s : State) (dst : ℕ) (payload : List (BitVec 8))  (hk : Kept z s) :
    Kept z (State.sendProbes s dst payload) := by
  have w0 : Frees z 0x100000 := hw.sub rfl
  unfold State.sendProbes
  repeat' first
    | with_reducible refine keptOpt_map ?_
    | with_reducible assumption
    | extract_lets
    | intro _
    | split
    | with_reducible apply State.enqueue_keeps w0
    | with_reducible apply State.countGroup_keeps w0
    | with_reducible apply kept_if
    | with_reducible apply kept_foldl

theorem State.sendLast_keeps (hw : Frees z 0x100010) (s : State) (q : ℕ) (dst : ℕ) (op : ℕ) (payload : List (BitVec 8))  (hk : Kept z s) :
    Kept z (State.sendLast s q dst op payload) := by
  have w0 : Frees z 0x10 := hw.sub rfl
  have w1 : Frees z 0x100000 := hw.sub rfl
  unfold State.sendLast
  (repeat' split) <;> simp (maxDischargeDepth := 30) only [State.emit_keeps w0, State.countGroup_keeps w1, and_self, *]

theorem State.send_keeps (hw : Frees z 0x10) (s : State) (dst : ℕ) (m : Msg)  (hk : Kept z s) :
    Kept z (State.send s dst m) := by
  have w0 : Frees z 0x10 := hw.sub rfl
  simp (maxDischargeDepth := 30) only [State.send, State.emit_keeps w0, and_self, hk]

end Sys2Proof.Machine
end

