-- ==== Sys2Proof/Laws/KeepsRind.lean ====
section
/-! SUPPORT. Every operation of Machine/Rind.lean keeps the queue, the canonical forms and every piece that it does not touch. -/

set_option Elab.async false
set_option linter.unusedSimpArgs false
set_option linter.unusedTactic false
set_option linter.unreachableTactic false

namespace Sys2Proof.Machine

variable {z : Ref}

theorem State.startLoop_keeps (hw : Frees z 0x1000000) (s : State) (d : ℕ)  (hk : Kept z s) :
    Kept z (State.startLoop s d) := by
  have w0 : Frees z 0x1000000 := hw.sub rfl
  unfold State.startLoop
  repeat' first
    | with_reducible assumption
    | extract_lets
    | intro _
    | split
    | with_reducible apply kept_if
    | with_reducible apply kept_foldl
    | with_reducible refine upd_pwr w0 ?_

theorem State.startLoops_keeps (hw : Frees z 0x1000000) (s : State)  (hk : Kept z s) :
    Kept z (State.startLoops s) := by
  have w0 : Frees z 0x1000000 := hw.sub rfl
  unfold State.startLoops
  repeat' first
    | with_reducible assumption
    | extract_lets
    | intro _
    | split
    | with_reducible apply State.startLoop_keeps w0
    | with_reducible apply kept_if
    | with_reducible apply kept_foldl

theorem State.stopLoop_keeps (hw : Frees z 0x1000000) (s : State) (d : ℕ)  (hk : Kept z s) :
    Kept z (State.stopLoop s d) := by
  have w0 : Frees z 0x1000000 := hw.sub rfl
  unfold State.stopLoop
  repeat' first
    | with_reducible assumption
    | extract_lets
    | intro _
    | split
    | with_reducible apply kept_if
    | with_reducible apply kept_foldl
    | with_reducible refine upd_pwr w0 ?_

theorem State.clampOn_keeps (hw : Frees z 0x1000000) (s : State) (d : ℕ)  (hk : Kept z s) :
    Kept z (State.clampOn s d) := by
  have w0 : Frees z 0x1000000 := hw.sub rfl
  simp (maxDischargeDepth := 30) only [State.clampOn, upd_pwr w0, and_self, hk]

theorem State.clampIn_keeps (hw : Frees z 0x80000000000000000000000000000000001000000) (s : State) (d : ℕ) (st : ℕ)  (hk : Kept z s) :
    Kept z (State.clampIn s d st) := by
  have w0 : Frees z 0x1000000 := hw.sub rfl
  have w1 : Frees z (Field.bit pwrDomStat_state) := hw.sub rfl
  unfold State.clampIn
  repeat' first
    | with_reducible assumption
    | extract_lets
    | intro _
    | split
    | with_reducible apply State.stopLoop_keeps w0
    | with_reducible apply State.clampOn_keeps w0
    | with_reducible apply State.setFld_keeps (hw := w1)
    | with_reducible apply kept_if
    | with_reducible apply kept_foldl

theorem State.clampOff_keeps (hw : Frees z 0x1000000) (s : State) (d : ℕ)  (hk : Kept z s) :
    Kept z (State.clampOff s d) := by
  have w0 : Frees z 0x1000000 := hw.sub rfl
  simp (maxDischargeDepth := 30) only [State.clampOff, upd_pwr w0, and_self, hk]

theorem State.countWake_keeps (hw : Frees z 0x80000000000000000000000000000000000000000) (s : State) (d : ℕ) (source : ℕ)  (hk : Kept z s) :
    Kept z (State.countWake s d source) := by
  have w0 : Frees z (Field.bit pwrDomStat_lastWake) := hw.sub rfl
  have w1 : Frees z (Field.bit pwrDomStat_wakes) := hw.sub rfl
  simp (maxDischargeDepth := 30) only [State.countWake, (State.setFld_keeps (hw := w0)), (State.bump_keeps (hw := w1)), and_self, hk]

theorem State.beginWake_keeps (hw : Frees z 0x80000000000000000000000000000000001000000) (s : State) (d : ℕ) (source : ℕ)  (hk : Kept z s) :
    Kept z (State.beginWake s d source) := by
  have w0 : Frees z 0x80000000000000000000000000000000000000000 := hw.sub rfl
  have w1 : Frees z 0x1000000 := hw.sub rfl
  simp (maxDischargeDepth := 30) +contextual only [State.beginWake, upd_pwr w1, State.countWake_keeps w0, State.startLoop_keeps w1, and_self, kept_foldl, kept_ite, implies_true, hk]

theorem State.comeUp_keeps (hw : Frees z 0x80000000000000000000000000000000001000000) (s : State) (d : ℕ)  (hk : Kept z s) :
    Kept z (State.comeUp s d) := by
  have w0 : Frees z 0x1000000 := hw.sub rfl
  have w1 : Frees z (Field.bit pwrDomStat_state) := hw.sub rfl
  simp (maxDischargeDepth := 30) only [State.comeUp, upd_pwr w0, State.clampOff_keeps w0, (State.setFld_keeps (hw := w1)), State.startLoop_keeps w0, and_self, hk]

theorem State.rouse_keeps (hw : Frees z 0x80000000000000000000000000000000001000000) (s : State) (d : ℕ) (source : ℕ)  (hk : Kept z s) :
    Kept z (State.rouse s d source) := by
  have w0 : Frees z 0x1000000 := hw.sub rfl
  have w1 : Frees z 0x80000000000000000000000000000000000000000 := hw.sub rfl
  have w2 : Frees z 0x80000000000000000000000000000000001000000 := hw.sub rfl
  unfold State.rouse
  extract_lets s1
  have h1 : Kept z s1 := State.workedUntil_keeps w0 _ _ _ hk
  clear_value s1
  exact kept_if (fun _ => State.countWake_keeps w1 _ _ _ (State.comeUp_keeps w2 _ _ h1)) fun _ => h1

theorem State.worked_keeps (hw : Frees z 0x80000000000000000000000000000000001000000) (s : State) (d : ℕ)  (hk : Kept z s) :
    Kept z (State.worked s d) := by
  have w0 : Frees z 0x80000000000000000000000000000000001000000 := hw.sub rfl
  simp (maxDischargeDepth := 30) only [State.worked, State.rouse_keeps w0, and_self, hk]

theorem State.arrivesAt_keeps (hw : Frees z 0x80000000000000000000000000000000001000000) (s : State) (d : ℕ) (source : ℕ)  (hk : Kept z s) :
    Kept z (State.arrivesAt s d source) := by
  have w0 : Frees z 0x80000000000000000000000000000000001000000 := hw.sub rfl
  unfold State.arrivesAt
  (repeat' split) <;> simp (maxDischargeDepth := 30) only [State.beginWake_keeps w0, State.rouse_keeps w0, and_self, *]

end Sys2Proof.Machine
end

