-- ==== Sys2Proof/Laws/KeepsTrace.lean ====
section
/-! SUPPORT. Every operation of Machine/Trace.lean keeps the queue, the canonical forms and every piece that it does not touch. -/

set_option Elab.async false
set_option linter.unusedSimpArgs false
set_option linter.unusedTactic false
set_option linter.unreachableTactic false

namespace Sys2Proof.Machine

variable {z : Ref}

theorem State.noteTrace_keeps (hw : Frees z 0x4000000000000000000000000000000000000000000) (s : State)  (hk : Kept z s) :
    Kept z (State.noteTrace s) := by
  have w0 : Frees z (Field.bit dbgTraceStat_enabled) := hw.sub rfl
  have w1 : Frees z (Field.bit dbgTraceStat_triggered) := hw.sub rfl
  have w2 : Frees z (Field.bit dbgTraceStat_frozen) := hw.sub rfl
  have w3 : Frees z (Field.bit dbgTraceStat_fill) := hw.sub rfl
  simp (maxDischargeDepth := 30) only [State.noteTrace, (State.setFlag_keeps (hw := w0)), (State.setFlag_keeps (hw := w1)), (State.setFlag_keeps (hw := w2)), (State.setFld_keeps (hw := w3)), and_self, hk]

theorem State.dropSegment_keeps (hw : Frees z 0x4000000000000000000000000000000000004000000) (s : State) (g : ℕ)  (hk : Kept z s) :
    Kept z (State.dropSegment s g) := by
  have w0 : Frees z (Field.bit dbgTraceStat_lost) := hw.sub rfl
  have w1 : Frees z 0x4000000 := hw.sub rfl
  unfold State.dropSegment
  repeat' first
    | with_reducible assumption
    | extract_lets
    | intro _
    | split
    | with_reducible apply State.bump_keeps (hw := w0)
    | with_reducible apply kept_if
    | with_reducible apply kept_foldl
    | with_reducible refine upd_trace w1 ?_

theorem State.makeSlot_keeps (hw : Frees z 0x4000000000000000000000000000000000004000000) (s : State)  (hk : Kept z s) :
    Kept z (State.makeSlot s) := by
  have w0 : Frees z 0x4000000000000000000000000000000000004000000 := hw.sub rfl
  have w1 : Frees z 0x4000000 := hw.sub rfl
  unfold State.makeSlot
  (repeat' split) <;> simp (maxDischargeDepth := 30) only [upd_trace w1, State.dropSegment_keeps w0, and_self, *]

theorem State.putTrace_keeps (hw : Frees z 0x4000000000000000000000000000000000004000000) (s : State) (r : TraceRec) (payload : ℕ) (prot : Bool) (trigger : Bool)  (hk : Kept z s) :
    Kept z (State.putTrace s r payload prot trigger) := by
  have w0 : Frees z 0x4000000000000000000000000000000000004000000 := hw.sub rfl
  have w1 : Frees z 0x4000000000000000000000000000000000000000000 := hw.sub rfl
  have w2 : Frees z 0x4000000 := hw.sub rfl
  unfold State.putTrace
  repeat' first
    | with_reducible assumption
    | extract_lets
    | intro _
    | split
    | with_reducible apply State.makeSlot_keeps w0
    | with_reducible apply State.noteTrace_keeps w1
    | with_reducible apply kept_if
    | with_reducible apply kept_foldl
    | with_reducible refine upd_trace w2 ?_

theorem State.fireTrigger_keeps (hw : Frees z 0x4000000000000000000000000000000000004000000) (s : State) (source : ℕ)  (hk : Kept z s) :
    Kept z (State.fireTrigger s source) := by
  have w0 : Frees z 0x4000000000000000000000000000000000004000000 := hw.sub rfl
  have w1 : Frees z 0x4000000000000000000000000000000000000000000 := hw.sub rfl
  have w2 : Frees z 0x4000000 := hw.sub rfl
  unfold State.fireTrigger
  repeat' first
    | with_reducible assumption
    | extract_lets
    | intro _
    | split
    | with_reducible apply State.putTrace_keeps w0
    | with_reducible apply State.noteTrace_keeps w1
    | with_reducible apply kept_if
    | with_reducible apply kept_foldl
    | with_reducible refine upd_trace w2 ?_

theorem State.sourceTrigger_keeps (hw : Frees z 0x4000000000000000000000000000000000004000000) (s : State) (bit : ℕ)  (hk : Kept z s) :
    Kept z (State.sourceTrigger s bit) := by
  have w0 : Frees z 0x4000000000000000000000000000000000004000000 := hw.sub rfl
  unfold State.sourceTrigger
  (repeat' split) <;> simp (maxDischargeDepth := 30) only [State.fireTrigger_keeps w0, and_self, *]

theorem State.errorTrigger_keeps (hw : Frees z 0x4000000000000000000000000000000000004000000) (s : State) (sev : ℕ)  (hk : Kept z s) :
    Kept z (State.errorTrigger s sev) := by
  have w0 : Frees z 0x4000000000000000000000000000000000004000000 := hw.sub rfl
  unfold State.errorTrigger
  (repeat' split) <;> simp (maxDischargeDepth := 30) only [State.sourceTrigger_keeps w0, and_self, *]

theorem State.recordEvent_keeps (hw : Frees z 0x4000000000000000000000000000000000004000000) (s : State) (r : TraceRec)  (hk : Kept z s) :
    Kept z (State.recordEvent s r) := by
  have w0 : Frees z 0x4000000000000000000000000000000000004000000 := hw.sub rfl
  unfold State.recordEvent
  repeat' first
    | with_reducible assumption
    | extract_lets
    | intro _
    | split
    | with_reducible apply State.putTrace_keeps w0
    | with_reducible apply State.fireTrigger_keeps w0
    | with_reducible apply kept_if
    | with_reducible apply kept_foldl

theorem State.traceEvent_keeps (hw : Frees z 0x4000000000000000000000000000000000004000000) (s : State) (r : TraceRec)  (hk : Kept z s) :
    Kept z (State.traceEvent s r) := by
  have w0 : Frees z 0x4000000000000000000000000000000000004000000 := hw.sub rfl
  have w1 : Frees z 0x4000000 := hw.sub rfl
  unfold State.traceEvent
  (repeat' split) <;> simp (maxDischargeDepth := 30) only [upd_trace w1, State.recordEvent_keeps w0, and_self, *]

theorem State.releaseEvents_keeps (hw : Frees z 0x4000000000000000000000000000000000004000000) (s : State) (x1 : ℕ)  (hk : Kept z s) :
    Kept z (State.releaseEvents s x1) := by
  have w0 : Frees z 0x4000000000000000000000000000000000004000000 := hw.sub rfl
  have w1 : Frees z 0x4000000 := hw.sub rfl
  induction x1 generalizing s with
  | zero =>
    unfold State.releaseEvents
    repeat' first
      | with_reducible assumption
      | extract_lets
      | intro _
      | split
      | with_reducible apply State.recordEvent_keeps w0
      | with_reducible apply kept_if
      | with_reducible apply kept_foldl
      | with_reducible refine upd_trace w1 ?_
  | succ n ih =>
    unfold State.releaseEvents
    repeat' first
      | with_reducible assumption
      | extract_lets
      | intro _
      | split
      | with_reducible apply ih
      | with_reducible refine KeptOpt.get ?_ (by with_reducible assumption)
      | with_reducible apply State.recordEvent_keeps w0
      | with_reducible apply kept_if
      | with_reducible apply kept_foldl
      | with_reducible refine upd_trace w1 ?_

theorem State.sendTrace_keeps (hw : Frees z 0x4000000000000000000000000000000000004000010) (s : State)  (hk : Kept z s) :
    Kept z (State.sendTrace s) := by
  have w0 : Frees z 0x10 := hw.sub rfl
  have w1 : Frees z 0x4000000000000000000000000000000000000000000 := hw.sub rfl
  have w2 : Frees z 0x4000000000000000000000000000000000004000000 := hw.sub rfl
  have w3 : Frees z 0x4000000 := hw.sub rfl
  unfold State.sendTrace
  repeat' first
    | with_reducible assumption
    | extract_lets
    | intro _
    | split
    | with_reducible apply State.emit_keeps w0
    | with_reducible apply State.noteTrace_keeps w1
    | with_reducible apply State.releaseEvents_keeps w2
    | with_reducible apply kept_if
    | with_reducible apply kept_foldl
    | with_reducible refine upd_trace w3 ?_

theorem State.configTrace_keeps (hw : Frees z 0x4080000000000000000000000000000000005000000) (s : State) (t : Trace)  (hk : Kept z s) :
    Kept z (State.configTrace s t) := by
  have w0 : Frees z 0x80000000000000000000000000000000001000000 := hw.sub rfl
  have w1 : Frees z 0x4000000000000000000000000000000000000000000 := hw.sub rfl
  have w2 : Frees z 0x4000000 := hw.sub rfl
  unfold State.configTrace
  repeat' first
    | with_reducible assumption
    | extract_lets
    | intro _
    | split
    | with_reducible apply State.comeUp_keeps w0
    | with_reducible apply State.clampIn_keeps w0
    | with_reducible apply State.noteTrace_keeps w1
    | with_reducible apply kept_if
    | with_reducible apply kept_foldl
    | with_reducible refine upd_trace w2 ?_

theorem State.stopTrace_keeps (hw : Frees z 0x4080000000000000000000000000000000005000000) (s : State)  (hk : Kept z s) :
    Kept z (State.stopTrace s) := by
  have w0 : Frees z 0x4080000000000000000000000000000000005000000 := hw.sub rfl
  simp (maxDischargeDepth := 30) only [State.stopTrace, State.configTrace_keeps w0, and_self, hk]

end Sys2Proof.Machine
end

