-- ==== Sys2Proof/Laws/KeepsOps.lean ====
section
/-! SUPPORT. Every operation of Machine/Ops.lean keeps the queue, the canonical forms and every piece that it does not touch. -/

set_option Elab.async false
set_option linter.unusedSimpArgs false
set_option linter.unusedTactic false
set_option linter.unreachableTactic false

namespace Sys2Proof.Machine

variable {z : Ref}

theorem State.shipEntry_keeps (hw : Frees z 0x400000000000000000000100010) (s : State) (q : ℕ) (x : Queue) (bytes : List (BitVec 8))  (hk : Kept z s) :
    Kept z (State.shipEntry s q x bytes) := by
  have w0 : Frees z 0x400000000000000000000100010 := hw.sub rfl
  unfold State.shipEntry
  (repeat' split) <;> simp (maxDischargeDepth := 30) only [State.writeBulk_keeps w0, and_self, *]

theorem State.putReply_keeps (hw : Frees z 0x400000000000000000000100030) (s : State) (rq : ℕ) (r : Reply)  (hk : Kept z s) :
    Kept z (State.putReply s rq r) := by
  have w0 : Frees z 0x400000000000000000000100010 := hw.sub rfl
  have w1 : Frees z 0x30 := hw.sub rfl
  have w2 : Frees z 0x20 := hw.sub rfl
  have w3 : Frees z 0x10 := hw.sub rfl
  unfold State.putReply
  repeat' first
    | with_reducible assumption
    | extract_lets
    | intro _
    | split
    | with_reducible apply State.shipEntry_keeps w0
    | with_reducible apply State.noteEntry_keeps w1
    | with_reducible apply State.modQueue_keeps w2
    | with_reducible apply State.emit_keeps w3
    | with_reducible apply kept_if
    | with_reducible apply kept_foldl

theorem State.replyOwed_keeps (hw : Frees z 0x400000000000000000400100030) (s : State) (rq : ℕ) (owed : Option ℕ) (r : Reply)  (hk : Kept z s) :
    Kept z (State.replyOwed s rq owed r) := by
  have w0 : Frees z (Field.bit cmdReplyWait_count) := hw.sub rfl
  have w1 : Frees z 0x400000000000000000000100030 := hw.sub rfl
  have w2 : Frees z 0x20 := hw.sub rfl
  unfold State.replyOwed
  repeat' first
    | with_reducible assumption
    | extract_lets
    | intro _
    | split
    | with_reducible apply State.bump_keeps (hw := w0)
    | with_reducible apply State.putReply_keeps w1
    | with_reducible apply kept_if
    | with_reducible apply kept_foldl
    | with_reducible refine upd_buhorn w2 ?_

theorem State.replyTo_keeps (hw : Frees z 0x400000000000000000400100030) (s : State) (rq : ℕ) (r : Reply)  (hk : Kept z s) :
    Kept z (State.replyTo s rq r) := by
  have w0 : Frees z 0x400000000000000000400100030 := hw.sub rfl
  simp (maxDischargeDepth := 30) only [State.replyTo, State.replyOwed_keeps w0, and_self, hk]

theorem State.answer_keeps (hw : Frees z 0x400000000000000000400100030) (s : State) (owed : Option ℕ) (r : Reply)  (hk : Kept z s) :
    Kept z (State.answer s owed r) := by
  have w0 : Frees z 0x400000000000000000400100030 := hw.sub rfl
  unfold State.answer
  repeat' first
    | with_reducible assumption
    | extract_lets
    | intro _
    | split
    | with_reducible apply State.replyOwed_keeps w0
    | with_reducible apply kept_if
    | with_reducible apply kept_foldl

theorem State.reply_keeps (hw : Frees z 0x400000000000000000400100030) (s : State) (r : Reply)  (hk : Kept z s) :
    Kept z (State.reply s r) := by
  have w0 : Frees z 0x400000000000000000400100030 := hw.sub rfl
  unfold State.reply
  (repeat' split) <;> simp (maxDischargeDepth := 30) only [State.answer_keeps w0, and_self, *]

theorem State.noteInflight_keeps (hw : Frees z 0x100000000) (s : State) (fn : ℕ)  (hk : Kept z s) :
    Kept z (State.noteInflight s fn) := by
  have w0 : Frees z (Field.bit cmdInflight_count) := hw.sub rfl
  simp (maxDischargeDepth := 30) only [State.noteInflight, (State.setFld_keeps (hw := w0)), and_self, hk]

theorem State.drainReplies_keeps (hw : Frees z 0x400000000000000000100100030) (s : State) (rq : ℕ) (x2 : ℕ)  (hk : Kept z s) :
    Kept z (State.drainReplies s rq x2) := by
  have w0 : Frees z 0x400000000000000000000100030 := hw.sub rfl
  have w1 : Frees z 0x20 := hw.sub rfl
  have w2 : Frees z 0x100000000 := hw.sub rfl
  induction x2 generalizing s with
  | zero => exact hk
  | succ n ih =>
    rw [State.drainReplies]
    split
    · rename_i x h _ _
      refine kept_if (fun _ => hk) fun _ => ?_
      extract_lets src s1
      have h1 : Kept z s1 := State.putReply_keeps w0 _ _ _ (upd_buhorn w1 hk)
      clear_value s1
      refine ih _ ?_
      split
      · exact State.noteInflight_keeps w2 _ _ h1
      · exact h1
    · exact hk

theorem State.finishOne_keeps (hw : Frees z 0x400000000000000000500100030) (s : State) (id : ℕ) (status : ℕ) (detail : ℕ) (result : ℕ)  (hk : Kept z s) :
    Kept z (State.finishOne s id status detail result) := by
  have w0 : Frees z 0x100000000 := hw.sub rfl
  have w1 : Frees z 0x400000000000000000400100030 := hw.sub rfl
  have w2 : Frees z 0x20 := hw.sub rfl
  unfold State.finishOne
  repeat' first
    | with_reducible assumption
    | extract_lets
    | intro _
    | split
    | with_reducible apply State.noteInflight_keeps w0
    | with_reducible apply State.answer_keeps w1
    | with_reducible apply kept_if
    | with_reducible apply kept_foldl
    | with_reducible refine upd_buhorn w2 ?_

theorem State.endDelete_keeps (hw : Frees z 0x400000000000000000500100030) (s : State) (c : Pend)  (hk : Kept z s) :
    Kept z (State.endDelete s c) := by
  have w0 : Frees z 0x400000000000000000500100030 := hw.sub rfl
  have w1 : Frees z 0x20 := hw.sub rfl
  unfold State.endDelete
  (repeat' split) <;> simp (maxDischargeDepth := 30) only [upd_buhorn w1, State.finishOne_keeps w0, and_self, *]

theorem State.endDeletes_keeps (hw : Frees z 0x400000000000000000500100030) (s : State)  (hk : Kept z s) :
    Kept z (State.endDeletes s) := by
  have w0 : Frees z 0x400000000000000000500100030 := hw.sub rfl
  unfold State.endDeletes
  repeat' first
    | with_reducible assumption
    | extract_lets
    | intro _
    | split
    | with_reducible apply State.endDelete_keeps w0
    | with_reducible apply kept_if
    | with_reducible apply kept_foldl

theorem State.finish_keeps (hw : Frees z 0x400000000000000000500100030) (s : State) (id : ℕ) (status : ℕ) (detail : ℕ) (result : ℕ)  (hk : Kept z s) :
    Kept z (State.finish s id status detail result) := by
  have w0 : Frees z 0x400000000000000000500100030 := hw.sub rfl
  unfold State.finish
  repeat' first
    | with_reducible assumption
    | extract_lets
    | intro _
    | split
    | with_reducible apply State.endDeletes_keeps w0
    | with_reducible apply State.finishOne_keeps w0
    | with_reducible apply kept_if
    | with_reducible apply kept_foldl

theorem State.modCmd_keeps (hw : Frees z 0x20) (s : State) (id : ℕ) (f : Pend → Pend)  (hk : Kept z s) :
    Kept z (State.modCmd s id f) := by
  have w0 : Frees z 0x20 := hw.sub rfl
  simp (maxDischargeDepth := 30) only [State.modCmd, upd_buhorn w0, and_self, hk]

theorem State.markIssuer_keeps (hw : Frees z 0x40000) (s : State) (c : ℕ) (p : ℕ) (m : ℕ)  (hk : Kept z s) :
    Kept z (State.markIssuer s c p m) := by
  have w0 : Frees z 0x40000 := hw.sub rfl
  unfold State.markIssuer
  repeat' first
    | with_reducible assumption
    | extract_lets
    | intro _
    | split
    | with_reducible apply kept_if
    | with_reducible apply kept_foldl
    | with_reducible refine upd_gen w0 ?_

theorem State.noteGroups_keeps (hw : Frees z 0x8000000000000) (s : State)  (hk : Kept z s) :
    Kept z (State.noteGroups s) := by
  have w0 : Frees z (Field.bit prmStatus_withdrawn) := hw.sub rfl
  have w1 : Frees z (Field.bit prmStatus_groupsFree) := hw.sub rfl
  simp (maxDischargeDepth := 30) only [State.noteGroups, (State.setFld_keeps (hw := w0)), (State.setFld_keeps (hw := w1)), and_self, hk]

theorem State.noteSpares_keeps (hw : Frees z 0x8000000000000) (s : State)  (hk : Kept z s) :
    Kept z (State.noteSpares s) := by
  have w0 : Frees z (Field.bit prmStatus_quarantined) := hw.sub rfl
  have w1 : Frees z (Field.bit prmStatus_sparesFree) := hw.sub rfl
  simp (maxDischargeDepth := 30) only [State.noteSpares, (State.setFld_keeps (hw := w0)), (State.setFld_keeps (hw := w1)), and_self, hk]

theorem State.emptyTiles_keeps (hw : Frees z 0x80000) (s : State) (f : ℕ → Bool)  (hk : Kept z s) :
    Kept z (State.emptyTiles s f) := by
  have w0 : Frees z 0x80000 := hw.sub rfl
  simp (maxDischargeDepth := 30) only [State.emptyTiles, upd_prm w0, and_self, hk]

theorem State.clearAcc_keeps (hw : Frees z 0x80000) (s : State) (f : ℕ → Bool)  (hk : Kept z s) :
    Kept z (State.clearAcc s f) := by
  have w0 : Frees z 0x80000 := hw.sub rfl
  simp (maxDischargeDepth := 30) only [State.clearAcc, upd_prm w0, and_self, hk]

theorem State.replaceTile_keeps (hw : Frees z 0x808000000080000) (s : State) (logical : ℕ) (phys : ℕ)  (hk : Kept z s) :
    Kept z (State.replaceTile s logical phys) := by
  have w0 : Frees z 0x80000 := hw.sub rfl
  have w1 : Frees z (Field.bit prmTileMap_physical) := hw.sub rfl
  have w2 : Frees z 0x8000000000000 := hw.sub rfl
  unfold State.replaceTile
  repeat' first
    | with_reducible assumption
    | extract_lets
    | intro _
    | split
    | with_reducible apply State.emptyTiles_keeps w0
    | with_reducible apply State.setFld_keeps (hw := w1)
    | with_reducible apply State.noteSpares_keeps w2
    | with_reducible apply kept_if
    | with_reducible apply kept_foldl
    | with_reducible refine upd_prm w0 ?_

theorem State.withdraw_keeps (hw : Frees z 0xe08000000080000) (s : State) (g : ℕ)  (hk : Kept z s) :
    Kept z (State.withdraw s g) := by
  have w0 : Frees z (Field.bit prmGroup_owner) := hw.sub rfl
  have w1 : Frees z (Field.bit prmGroup_state) := hw.sub rfl
  have w2 : Frees z (Field.bit prmPart_groups) := hw.sub rfl
  have w3 : Frees z (Field.bit prmTileMap_valid) := hw.sub rfl
  have w4 : Frees z 0x8000000000000 := hw.sub rfl
  have w5 : Frees z 0x80000 := hw.sub rfl
  unfold State.withdraw
  repeat' first
    | with_reducible assumption
    | extract_lets
    | intro _
    | split
    | with_reducible apply State.setFld_keeps (hw := w0)
    | with_reducible apply State.setFld_keeps (hw := w1)
    | with_reducible apply State.setFld_keeps (hw := w2)
    | with_reducible apply State.setFlag_keeps (hw := w3)
    | with_reducible apply State.noteSpares_keeps w4
    | with_reducible apply State.noteGroups_keeps w4
    | with_reducible apply kept_if
    | with_reducible apply kept_foldl
    | with_reducible refine upd_prm w5 ?_

theorem State.chooseTile_keeps (hw : Frees z 0xe08000000080000) (s : State) (g : ℕ)  (hk : Kept z s) :
    Kept z (State.chooseTile s g).1 := by
  have w0 : Frees z 0xe08000000080000 := hw.sub rfl
  unfold State.chooseTile
  (repeat' split) <;> simp (maxDischargeDepth := 30) only [State.withdraw_keeps w0, and_self, *]
theorem State.chooseTile_gives (hw : Frees z 0xe08000000080000) {t : State} {y0} {s : State} {g : ℕ} (he : State.chooseTile s g = (t, y0)) (hk : Kept z s) : Kept z t :=
  by have k := State.chooseTile_keeps hw s g hk; rw [he] at k; exact k

theorem State.replaceLogical_keeps (hw : Frees z 0xe08000000080000) (s : State) (logical : ℕ)  (hk : Kept z s) :
    Kept z (State.replaceLogical s logical) := by
  have w0 : Frees z 0xe08000000080000 := hw.sub rfl
  have w1 : Frees z 0x808000000080000 := hw.sub rfl
  have w2 : Frees z 0x80000 := hw.sub rfl
  unfold State.replaceLogical
  repeat' first
    | with_reducible assumption
    | extract_lets
    | intro _
    | split
    | with_reducible apply State.chooseTile_keeps w0
    | with_reducible refine State.chooseTile_gives w0 (by with_reducible assumption) ?_
    | with_reducible apply State.replaceTile_keeps w1
    | with_reducible apply State.withdraw_keeps w0
    | with_reducible apply kept_if
    | with_reducible apply kept_foldl
    | with_reducible refine upd_prm w2 ?_

theorem State.replaceQuarantined_keeps (hw : Frees z 0xe08000000080000) (s : State) (t : ℕ)  (hk : Kept z s) :
    Kept z (State.replaceQuarantined s t) := by
  have w0 : Frees z 0xe08000000080000 := hw.sub rfl
  unfold State.replaceQuarantined
  (repeat' split) <;> simp (maxDischargeDepth := 30) only [State.replaceLogical_keeps w0, and_self, *]

theorem State.loadTileMap_keeps (hw : Frees z 0xe08000000080000) (s : State)  (hk : Kept z s) :
    Kept z (State.loadTileMap s) := by
  have w0 : Frees z 0x8000000000000 := hw.sub rfl
  have w1 : Frees z 0xe08000000080000 := hw.sub rfl
  simp (maxDischargeDepth := 30) +contextual only [State.loadTileMap, State.noteSpares_keeps w0, State.noteGroups_keeps w0, State.replaceQuarantined_keeps w1, and_self, kept_foldl, kept_ite, implies_true, hk]

theorem State.noteMemOnly_keeps (hw : Frees z 0x800000000000) (s : State) (c : ℕ)  (hk : Kept z s) :
    Kept z (State.noteMemOnly s c) := by
  have w0 : Frees z (Field.bit genChUnits_memOnly) := hw.sub rfl
  simp (maxDischargeDepth := 30) only [State.noteMemOnly, (State.setFlag_keeps (hw := w0)), and_self, hk]

theorem State.beginReset_keeps (hw : Frees z 0x201000000000000c1180) (s : State) (p : ℕ) (cause : ℕ)  (hk : Kept z s) :
    Kept z (State.beginReset s p cause) := by
  have w0 : Frees z (Field.bit schReset_count) := hw.sub rfl
  have w1 : Frees z (Field.bit schReset_cause) := hw.sub rfl
  have w2 : Frees z (Field.bit schPart_resetting) := hw.sub rfl
  have w3 : Frees z 0x100 := hw.sub rfl
  have w4 : Frees z 0xc1080 := hw.sub rfl
  unfold State.beginReset
  repeat' first
    | with_reducible assumption
    | extract_lets
    | intro _
    | split
    | with_reducible apply State.bump_keeps (hw := w0)
    | with_reducible apply State.setFld_keeps (hw := w1)
    | with_reducible apply State.setFlag_keeps (hw := w2)
    | with_reducible apply State.modPart_keeps w3
    | with_reducible apply kept_if
    | with_reducible apply kept_foldl
    | with_reducible refine upd_seqs_tiers_gen_prm w4 rfl ?_

theorem State.carryFlags_keeps (hw : Frees z 0x1008000000040000000000000000000000800000000000) (old : State) (new : State)  (hk : Kept z new) :
    Kept z (State.carryFlags old new) := by
  have w0 : Frees z 0x800000000000 := hw.sub rfl
  have w1 : Frees z (Field.bit genChUnits_quarantine) := hw.sub rfl
  have w2 : Frees z (Field.bit glbFn_role) := hw.sub rfl
  have w3 : Frees z (Field.bit dbgGstop_stopped) := hw.sub rfl
  have w4 : Frees z (Field.bit resStat_fenced) := hw.sub rfl
  unfold State.carryFlags
  repeat' first
    | with_reducible assumption
    | extract_lets
    | intro _
    | split
    | with_reducible apply State.noteMemOnly_keeps w0
    | with_reducible apply State.setFld_keeps (hw := w1)
    | with_reducible apply State.setFld_keeps (hw := w2)
    | with_reducible apply State.setFld_keeps (hw := w3)
    | with_reducible apply State.setFld_keeps (hw := w4)
    | with_reducible apply kept_if
    | with_reducible apply kept_foldl

theorem State.resumeHalt_keeps (hw : Frees z 0x10000000000000000400000000000000000500100130) (s : State) (p : ℕ)  (hk : Kept z s) :
    Kept z (State.resumeHalt s p) := by
  have w0 : Frees z 0x100 := hw.sub rfl
  have w1 : Frees z (Field.bit dbgHalt_drained) := hw.sub rfl
  have w2 : Frees z (Field.bit dbgHalt_halted) := hw.sub rfl
  have w3 : Frees z 0x400000000000000000500100030 := hw.sub rfl
  unfold State.resumeHalt
  repeat' first
    | with_reducible assumption
    | extract_lets
    | intro _
    | split
    | with_reducible apply State.modPart_keeps w0
    | with_reducible apply State.setFlag_keeps (hw := w1)
    | with_reducible apply State.setFlag_keeps (hw := w2)
    | with_reducible apply State.finish_keeps w3
    | with_reducible apply kept_if
    | with_reducible apply kept_foldl

theorem State.endFieldDebug_keeps (hw : Frees z 0x810400000000000000400000000000000000504100130) (s : State)  (hk : Kept z s) :
    Kept z (State.endFieldDebug s) := by
  have w0 : Frees z (Reg.bit .secDebug) := hw.sub rfl
  have w1 : Frees z (Field.bit glbLifecycle_state) := hw.sub rfl
  have w2 : Frees z 0x10000000000000000400000000000000000500100130 := hw.sub rfl
  have w3 : Frees z 0x4000000 := hw.sub rfl
  unfold State.endFieldDebug
  repeat' first
    | with_reducible assumption
    | extract_lets
    | intro _
    | split
    | with_reducible apply State.setReg_keeps (hw := w0)
    | with_reducible apply State.setFld_keeps (hw := w1)
    | with_reducible apply State.resumeHalt_keeps w2
    | with_reducible apply kept_if
    | with_reducible apply kept_foldl
    | with_reducible refine upd_trace w3 ?_

theorem State.drawNonce_keeps (hw : Frees z 0x1800000000000000000000000000000000000000004) (s : State)  (hk : Kept z s) :
    Kept z (State.drawNonce s) := by
  have w0 : Frees z (Field.bit secDbgNonce1_nonce) := hw.sub rfl
  have w1 : Frees z (Field.bit secDbgNonce0_nonce) := hw.sub rfl
  have w2 : Frees z 0x4 := hw.sub rfl
  unfold State.drawNonce
  repeat' first
    | with_reducible assumption
    | extract_lets
    | intro _
    | split
    | with_reducible apply State.setFld_keeps (hw := w0)
    | with_reducible apply State.setFld_keeps (hw := w1)
    | with_reducible apply kept_if
    | with_reducible apply kept_foldl
    | with_reducible refine upd_freeCtr w2 ?_

theorem State.reboot_keeps (hw : Frees z 0x1) (s : State) (kind : ℕ) (stage : ℕ)  (hk : Kept z s) :
    Kept z (State.reboot s kind stage) := by
  let n : State := { State.reset with
    pending := s.pending
    now := s.now
    freeCtr := s.freeCtr
    out := s.out
    regs := s.regs.filter fun r => keepAcrossReset r.1
    ftl := s.ftl.afterReset
    prm := { Prm.reset with quarantined := s.prm.quarantined }
    sec := s.sec.afterReset
    res := { Res.reset with unread := s.res.unread, held := s.res.held, nextErr := s.res.nextErr }
    pln := { s.pln with resetAt := s.now, pcieUp := false, boundaryScan := false, stopped := false } }
  let y : Ref := ⟨n, z.canon, 0x1fffffffffffffffffffffffffffffffffffffff7fffffd⟩
  have hn : Kept y n :=
    ⟨rfl, ⟨keepRegs_filter (z := z) hk.2.1.1 _, keepCells_nil, keepCells_nil, keepCells_nil⟩, .inr rfl,
      .inr fun p => .inr (p.same_refl n)⟩
  have wy : Frees y 0x1fffffffffffffffffffffffffffffffffffffff7fffffd := Nat.and_self _
  have hs : Forms y s := hk.2.1
  have h1 : Kept y (State.carryFlags s n) := State.carryFlags_keeps (wy.sub rfl) s n hn
  have h2 := State.loadTileMap_keeps (wy.sub rfl) _ h1
  have h4 : Kept y (if 2 ≤ stage then (State.carryFlags s n).loadTileMap.startLoops else (State.carryFlags s n).loadTileMap) :=
    kept_if (fun _ => State.startLoops_keeps (wy.sub rfl) _ h2) fun _ => h2
  have h5 := State.drawNonce_keeps (wy.sub rfl) _ (State.endFieldDebug_keeps (wy.sub rfl) _ h4)
  have h8 : Kept y (s.reboot kind stage) := by
    unfold State.reboot
    exact State.setFld_keeps (hw := wy.sub rfl) _ _ _ (State.setFld_keeps (hw := wy.sub rfl) _ _ _
      (State.setFld_keeps (hw := wy.sub rfl) _ _ _ h5))
  have hnow : (s.reboot kind stage).now = s.now := by
    rcases h8.2.2.1 with h | h
    · exact absurd h (by show ¬ (Nat.testBit 0x1fffffffffffffffffffffffffffffffffffffff7fffffd _ = true); decide)
    · exact h
  refine ⟨h8.1.trans hk.1, h8.2.1, ?_, .inl ⟨hw.opens rfl, ?_⟩⟩
  · rcases hk.2.2.1 with h | h
    · exact .inl h
    · exact .inr (hnow.trans h)
  · rcases hk.2.2.1 with h | h
    · exact .inl h
    · right
      have e : (s.reboot kind stage).pln.resetAt = s.now := by
        rcases h8.2.2.2 with ⟨_, k | k⟩ | k
        · exact absurd k (by show ¬ (Nat.testBit 0x1fffffffffffffffffffffffffffffffffffffff7fffffd _ = true); decide)
        · exact k
        · rcases k .pln with k | k
          · exact absurd k (by show ¬ (Nat.testBit 0x1fffffffffffffffffffffffffffffffffffffff7fffffd _ = true); decide)
          · exact congrArg Pln.resetAt k
      exact e.trans h

theorem State.plinthPut_keeps (hw : Frees z 0x2000000000000000000000000000000000000) (s : State) (j : ℕ) (f : ℕ → BitVec 64)  (hk : Kept z s) :
    Kept z (State.plinthPut s j f) := by
  have w0 : Frees z (Reg.bit .resPlinthRec) := hw.sub rfl
  simp (maxDischargeDepth := 30) +contextual only [State.plinthPut, (State.setReg_keeps (hw := w0)), and_self, kept_foldl, kept_ite, implies_true, hk]

theorem State.plinthPush_keeps (hw : Frees z 0x2000000000000000000000000000000800000) (s : State) (r : ErrRec)  (hk : Kept z s) :
    Kept z (State.plinthPush s r) := by
  have w0 : Frees z 0x2000000000000000000000000000000000000 := hw.sub rfl
  have w1 : Frees z 0x800000 := hw.sub rfl
  unfold State.plinthPush
  repeat' first
    | with_reducible assumption
    | extract_lets
    | intro _
    | split
    | with_reducible apply State.plinthPut_keeps w0
    | with_reducible apply kept_if
    | with_reducible apply kept_foldl
    | with_reducible refine upd_res w1 ?_

theorem State.raiseAlert_keeps (hw : Frees z 0x8000010) (s : State)  (hk : Kept z s) :
    Kept z (State.raiseAlert s) := by
  have w0 : Frees z 0x10 := hw.sub rfl
  have w1 : Frees z 0x8000000 := hw.sub rfl
  unfold State.raiseAlert
  repeat' first
    | with_reducible assumption
    | extract_lets
    | intro _
    | split
    | with_reducible apply State.emit_keeps w0
    | with_reducible apply kept_if
    | with_reducible apply kept_foldl
    | with_reducible refine upd_pln w1 (.inl rfl) ?_
    | with_reducible refine upd_pln w1 (.inr rfl) ?_

theorem State.logRecord_keeps (hw : Frees z 0x8000000000400000000000000000000000000000800010) (s : State) (r : ErrRec)  (hk : Kept z s) :
    Kept z (State.logRecord s r) := by
  have w0 : Frees z (Field.bit resErrStat_logLost) := hw.sub rfl
  have w1 : Frees z 0x10 := hw.sub rfl
  have w2 : Frees z (Field.bit glbErrlogCtrl_full) := hw.sub rfl
  have w3 : Frees z (Field.bit glbErrlogCtrl_tail) := hw.sub rfl
  have w4 : Frees z 0x800000 := hw.sub rfl
  unfold State.logRecord
  repeat' first
    | with_reducible assumption
    | extract_lets
    | intro _
    | split
    | with_reducible apply State.bump_keeps (hw := w0)
    | with_reducible apply State.emit_keeps w1
    | with_reducible apply State.setFlag_keeps (hw := w2)
    | with_reducible apply State.setFld_keeps (hw := w3)
    | with_reducible apply kept_if
    | with_reducible apply kept_foldl
    | with_reducible refine upd_res w4 ?_

theorem State.writeRecord_keeps (hw : Frees z 0x1800400000240000000000000000000000000000c800010) (s : State) (r : ErrRec)  (hk : Kept z s) :
    Kept z (State.writeRecord s r) := by
  have w0 : Frees z (Field.bit glbErrStat_lastId) := hw.sub rfl
  have w1 : Frees z (Field.bit glbErrStat_corrected) := hw.sub rfl
  have w2 : Frees z (Field.bit glbErrStat_deferred) := hw.sub rfl
  have w3 : Frees z (Field.bit glbErrStat_pfatal) := hw.sub rfl
  have w4 : Frees z 0x8000010 := hw.sub rfl
  have w5 : Frees z 0x2000000000000000000000000000000800000 := hw.sub rfl
  have w6 : Frees z 0x4000000000000000000000000000000000004000000 := hw.sub rfl
  have w7 : Frees z 0x8000000000400000000000000000000000000000800010 := hw.sub rfl
  have w8 : Frees z 0x800000 := hw.sub rfl
  unfold State.writeRecord
  repeat' first
    | with_reducible assumption
    | extract_lets
    | intro _
    | split
    | with_reducible apply State.setFld_keeps (hw := w0)
    | with_reducible apply State.bump_keeps (hw := w1)
    | with_reducible apply State.bump_keeps (hw := w2)
    | with_reducible apply State.bump_keeps (hw := w3)
    | with_reducible apply State.raiseAlert_keeps w4
    | with_reducible apply State.plinthPush_keeps w5
    | with_reducible apply State.errorTrigger_keeps w6
    | with_reducible apply State.logRecord_keeps w7
    | with_reducible apply kept_if
    | with_reducible apply kept_foldl
    | with_reducible refine upd_res w8 ?_
    | dsimp +zetaDelta only

theorem State.stopPartitions_keeps (hw : Frees z 0x120) (s : State)  (hk : Kept z s) :
    Kept z (State.stopPartitions s) := by
  have w0 : Frees z 0x120 := hw.sub rfl
  simp (maxDischargeDepth := 30) only [State.stopPartitions, upd_buhorn_parts w0, and_self, hk]

theorem State.globalStop_keeps (hw : Frees z 0xc00000000000000000000000000000000000c000010) (s : State) (source : ℕ) (drive : Bool)  (hk : Kept z s) :
    Kept z (State.globalStop s source drive) := by
  have w0 : Frees z (Field.bit dbgGstop_source) := hw.sub rfl
  have w1 : Frees z (Field.bit dbgGstop_stopped) := hw.sub rfl
  have w2 : Frees z 0x4000000000000000000000000000000000004000000 := hw.sub rfl
  have w3 : Frees z 0x10 := hw.sub rfl
  have w4 : Frees z 0x8000000 := hw.sub rfl
  unfold State.globalStop
  repeat' first
    | with_reducible assumption
    | extract_lets
    | intro _
    | split
    | with_reducible apply State.setFld_keeps (hw := w0)
    | with_reducible apply State.setFlag_keeps (hw := w1)
    | with_reducible apply State.sourceTrigger_keeps w2
    | with_reducible apply State.emit_keeps w3
    | with_reducible apply kept_if
    | with_reducible apply kept_foldl
    | with_reducible refine upd_pln w4 (.inl rfl) ?_
    | with_reducible refine upd_pln w4 (.inr rfl) ?_

theorem State.failingBeat_keeps (hw : Frees z 0x100010) (s : State)  (hk : Kept z s) :
    Kept z (State.failingBeat s) := by
  have w0 : Frees z 0x100010 := hw.sub rfl
  unfold State.failingBeat
  repeat' first
    | with_reducible assumption
    | extract_lets
    | intro _
    | split
    | with_reducible apply State.sendLast_keeps w0
    | with_reducible apply kept_if
    | with_reducible apply kept_foldl

theorem State.deviceFatal_keeps (hw : Frees z 0x1800c00000240000000000000000000000000000c900131) (s : State) (r : ErrRec)  (hk : Kept z s) :
    Kept z (State.deviceFatal s r) := by
  have w0 : Frees z (Field.bit resErrStat_escalations) := hw.sub rfl
  have w1 : Frees z 0x2000000000000000000000000000000000000 := hw.sub rfl
  have w2 : Frees z 0x1 := hw.sub rfl
  have w3 : Frees z 0xc00000000000000000000000000000000000c000010 := hw.sub rfl
  have w4 : Frees z 0x1800400000240000000000000000000000000000c800010 := hw.sub rfl
  have w5 : Frees z 0x100010 := hw.sub rfl
  have w6 : Frees z 0x120 := hw.sub rfl
  have w7 : Frees z 0x800000 := hw.sub rfl
  unfold State.deviceFatal
  repeat' first
    | with_reducible assumption
    | extract_lets
    | intro _
    | split
    | with_reducible apply State.bump_keeps (hw := w0)
    | with_reducible apply State.plinthPut_keeps w1
    | with_reducible apply State.reboot_keeps w2
    | with_reducible apply State.globalStop_keeps w3
    | with_reducible apply State.writeRecord_keeps w4
    | with_reducible apply State.failingBeat_keeps w5
    | with_reducible apply State.stopPartitions_keeps w6
    | with_reducible refine KeptOpt.getD ?_ ?_
    | with_reducible apply kept_if
    | with_reducible apply kept_foldl
    | with_reducible refine upd_res w7 ?_

theorem State.setHandling_keeps (hw : Frees z 0x400000000000000000000000000000800000) (s : State) (l : List ErrRec)  (hk : Kept z s) :
    Kept z (State.setHandling s l) := by
  have w0 : Frees z (Field.bit resErrStat_inHandling) := hw.sub rfl
  have w1 : Frees z 0x800000 := hw.sub rfl
  unfold State.setHandling
  repeat' first
    | with_reducible assumption
    | extract_lets
    | intro _
    | split
    | with_reducible apply State.setFld_keeps (hw := w0)
    | with_reducible apply kept_if
    | with_reducible apply kept_foldl
    | with_reducible refine upd_res w1 ?_

theorem State.actOn_keeps (hw : Frees z 0x1800c00000240000000000000002010000000000c9c11b1) (s : State) (r : ErrRec)  (hk : Kept z s) :
    Kept z (State.actOn s r) := by
  have w0 : Frees z 0x1800c00000240000000000000000000000000000c900131 := hw.sub rfl
  have w1 : Frees z 0x1800400000240000000000000000000000000000c800010 := hw.sub rfl
  have w2 : Frees z 0x201000000000000c1180 := hw.sub rfl
  unfold State.actOn
  (repeat' split) <;> simp (maxDischargeDepth := 30) only [State.deviceFatal_keeps w0, State.writeRecord_keeps w1, State.beginReset_keeps w2, and_self, *]

theorem State.handle_keeps (hw : Frees z 0x1800c00000240000000000000002010000000000c9c11b1) (s : State) (r : ErrRec)  (hk : Kept z s) :
    Kept z (State.handle s r) := by
  have w0 : Frees z 0x1800c00000240000000000000000000000000000c900131 := hw.sub rfl
  have w1 : Frees z (Field.bit resErrStat_overflows) := hw.sub rfl
  have w2 : Frees z (Field.bit resErrStat_preempted) := hw.sub rfl
  have w3 : Frees z 0x1800c00000240000000000000002010000000000c9c11b1 := hw.sub rfl
  have w4 : Frees z 0x400000000000000000000000000000800000 := hw.sub rfl
  unfold State.handle
  (repeat' split) <;> simp (maxDischargeDepth := 30) only [State.deviceFatal_keeps w0, (State.bump_keeps (hw := w1)), (State.bump_keeps (hw := w2)), State.actOn_keeps w3, State.setHandling_keeps w4, and_self, *]

theorem State.retireError_keeps (hw : Frees z 0x400000000000000000000000000000800000) (s : State)  (hk : Kept z s) :
    Kept z (State.retireError s) := by
  have w0 : Frees z 0x400000000000000000000000000000800000 := hw.sub rfl
  unfold State.retireError
  (repeat' split) <;> simp (maxDischargeDepth := 30) only [State.setHandling_keeps w0, and_self, *]

theorem State.rollWindow_keeps (hw : Frees z 0x800000) (s : State)  (hk : Kept z s) :
    Kept z (State.rollWindow s) := by
  have w0 : Frees z 0x800000 := hw.sub rfl
  unfold State.rollWindow
  repeat' first
    | with_reducible assumption
    | extract_lets
    | intro _
    | split
    | with_reducible apply kept_if
    | with_reducible apply kept_foldl
    | with_reducible refine upd_res w0 ?_

theorem State.raise_keeps (hw : Frees z 0x1800c00000240000000000000002010000000000c9c11b1) (s : State) (e : ErrorReport)  (hk : Kept z s) :
    Kept z (State.raise s e) := by
  have w0 : Frees z 0x800000 := hw.sub rfl
  have w1 : Frees z 0x1800c00000240000000000000002010000000000c9c11b1 := hw.sub rfl
  unfold State.raise
  repeat' first
    | with_reducible refine keptOpt_map ?_
    | with_reducible assumption
    | extract_lets
    | intro _
    | split
    | with_reducible apply State.rollWindow_keeps w0
    | with_reducible apply State.handle_keeps w1
    | with_reducible apply kept_if
    | with_reducible apply kept_foldl
    | with_reducible refine upd_res w0 ?_

theorem State.whenLive_keeps (hw : Frees z 0x0) (s : State) (f : State → State)  (hk : Kept z s) (hk_f : ∀ y0, Kept z y0 → Kept z (f y0)) :
    Kept z (State.whenLive s f) := by
  unfold State.whenLive
  (repeat' split) <;> simp (maxDischargeDepth := 30) only [and_self, *]

end Sys2Proof.Machine
end

