-- ==== Sys2Proof/Laws/KeepsGates.lean ====
section
/-! SUPPORT. Every operation of Machine/Gates.lean keeps the queue, the canonical forms and every piece that it does not touch. -/

set_option Elab.async false
set_option linter.unusedSimpArgs false
set_option linter.unusedTactic false
set_option linter.unreachableTactic false

namespace Sys2Proof.Machine

variable {z : Ref}

theorem State.enterGate_keeps (hw : Frees z 0x1000000000000000000000000000400000) (s : State) (q : ℕ) (g : GateList) (idx : ℕ) (from_ : Tick)  (hk : Kept z s) :
    Kept z (State.enterGate s q g idx from_) := by
  have w0 : Frees z (Field.bit shpGateStat_gates) := hw.sub rfl
  have w1 : Frees z 0x400000 := hw.sub rfl
  unfold State.enterGate
  repeat' first
    | with_reducible assumption
    | extract_lets
    | intro _
    | split
    | with_reducible apply State.setFld_keeps (hw := w0)
    | with_reducible refine KeptOpt.getD ?_ ?_
    | with_reducible apply kept_if
    | with_reducible apply kept_foldl
    | with_reducible refine upd_shp w1 ?_

theorem State.restartGate_keeps (hw : Frees z 0x1000000000000000000000000000400000) (s : State) (q : ℕ) (g : GateList) (from_ : Tick)  (hk : Kept z s) :
    Kept z (State.restartGate s q g from_) := by
  have w0 : Frees z 0x1000000000000000000000000000400000 := hw.sub rfl
  simp (maxDischargeDepth := 30) only [State.restartGate, State.enterGate_keeps w0, and_self, hk]

theorem State.restartGates_keeps (hw : Frees z 0x1000000000000000000000000000400000) (s : State) (p : ℕ)  (hk : Kept z s) :
    Kept z (State.restartGates s p) := by
  have w0 : Frees z 0x1000000000000000000000000000400000 := hw.sub rfl
  unfold State.restartGates
  repeat' first
    | with_reducible refine keptOpt_bind ?_
    | with_reducible assumption
    | extract_lets
    | intro _
    | split
    | with_reducible apply State.restartGate_keeps w0
    | with_reducible apply kept_if
    | with_reducible apply kept_foldl

theorem State.nextGate_keeps (hw : Frees z 0x1000000000000000000000000000400000) (s : State) (q : ℕ) (g : GateList) (t : Tick)  (hk : Kept z s) :
    Kept z (State.nextGate s q g t) := by
  have w0 : Frees z 0x1000000000000000000000000000400000 := hw.sub rfl
  unfold State.nextGate
  repeat' first
    | with_reducible refine keptOpt_bind ?_
    | with_reducible assumption
    | extract_lets
    | intro _
    | split
    | with_reducible apply State.enterGate_keeps w0
    | with_reducible apply State.restartGate_keeps w0
    | with_reducible apply kept_if
    | with_reducible apply kept_foldl

end Sys2Proof.Machine
end

