-- ==== Sys2Proof/Laws/KeepsQuarantine.lean ====
section
/-! SUPPORT. Every operation of Machine/Quarantine.lean keeps the queue, the canonical forms and every piece that it does not touch. -/

set_option Elab.async false
set_option linter.unusedSimpArgs false
set_option linter.unusedTactic false
set_option linter.unreachableTactic false

namespace Sys2Proof.Machine

variable {z : Ref}

theorem State.saveQuarantine_keeps (hw : Frees z 0x1804c00000240000000000000002010000000000c9c11b1) (s : State)  (hk : Kept z s) :
    Kept z (State.saveQuarantine s) := by
  have w0 : Frees z (Field.bit plnQstate_flashValid) := hw.sub rfl
  have w1 : Frees z (Field.bit plnQstate_copy) := hw.sub rfl
  have w2 : Frees z (Field.bit plnQstate_generation) := hw.sub rfl
  have w3 : Frees z 0x1800c00000240000000000000002010000000000c9c11b1 := hw.sub rfl
  have w4 : Frees z (Field.bit plnQstate_writeFails) := hw.sub rfl
  unfold State.saveQuarantine
  repeat' first
    | with_reducible assumption
    | extract_lets
    | intro _
    | split
    | with_reducible apply State.setFlag_keeps (hw := w0)
    | with_reducible apply State.setFld_keeps (hw := w1)
    | with_reducible apply State.bumpWrap_keeps (hw := w2)
    | with_reducible apply State.raise_keeps w3
    | with_reducible apply State.bump_keeps (hw := w4)
    | with_reducible apply kept_if
    | with_reducible apply kept_foldl

theorem State.record_keeps (hw : Frees z 0x1804c00000240000000000000002010300800000c9c11b1) (s : State) (q : Quarantine)  (hk : Kept z s) :
    Kept z (State.record s q) := by
  have w0 : Frees z (Field.bit prmStatus_qrecLost) := hw.sub rfl
  have w1 : Frees z (Reg.bit .prmQrecInfo) := hw.sub rfl
  have w2 : Frees z (Field.bit prmQrecTick_tick) := hw.sub rfl
  have w3 : Frees z (Field.bit prmQrecInfo_cause) := hw.sub rfl
  have w4 : Frees z (Field.bit prmQrecInfo_kind) := hw.sub rfl
  have w5 : Frees z (Field.bit prmQrecInfo_pattern) := hw.sub rfl
  have w6 : Frees z (Field.bit prmQrecInfo_temp) := hw.sub rfl
  have w7 : Frees z (Field.bit prmQrecInfo_partition) := hw.sub rfl
  have w8 : Frees z (Field.bit prmQrecInfo_location) := hw.sub rfl
  have w9 : Frees z (Field.bit prmQrecInfo_kernel) := hw.sub rfl
  have w10 : Frees z (Field.bit prmQrecInfo_partValid) := hw.sub rfl
  have w11 : Frees z 0x1804c00000240000000000000002010000000000c9c11b1 := hw.sub rfl
  unfold State.record
  repeat' first
    | with_reducible assumption
    | extract_lets
    | intro _
    | split
    | with_reducible apply State.bump_keeps (hw := w0)
    | with_reducible apply State.setReg_keeps (hw := w1)
    | with_reducible apply State.setFld_keeps (hw := w2)
    | with_reducible apply State.setFld_keeps (hw := w3)
    | with_reducible apply State.setFld_keeps (hw := w4)
    | with_reducible apply State.setFld_keeps (hw := w5)
    | with_reducible apply State.setFld_keeps (hw := w6)
    | with_reducible apply State.setFld_keeps (hw := w7)
    | with_reducible apply State.setFld_keeps (hw := w8)
    | with_reducible apply State.setFld_keeps (hw := w9)
    | with_reducible apply State.setFlag_keeps (hw := w10)
    | with_reducible apply State.saveQuarantine_keeps w11
    | with_reducible apply kept_if
    | with_reducible apply kept_foldl
    | dsimp +zetaDelta only

theorem State.quarantineTile_keeps (hw : Frees z 0x1804c000002400000000000000020103e4800000c9c11b1) (s : State) (t : ℕ) (cause : ℕ) (temp : ℕ) (pattern : ℕ) (part : Option ℕ) (kernel : ℕ)  (hk : Kept z s) :
    Kept z (State.quarantineTile s t cause temp pattern part kernel) := by
  have w0 : Frees z (Field.bit prmSelftest_nextTile) := hw.sub rfl
  have w1 : Frees z 0x80000 := hw.sub rfl
  have w2 : Frees z 0x1804c00000240000000000000002010300800000c9c11b1 := hw.sub rfl
  have w3 : Frees z 0xe08000000080000 := hw.sub rfl
  have w4 : Frees z 0x8000000000000 := hw.sub rfl
  unfold State.quarantineTile
  repeat' first
    | with_reducible assumption
    | extract_lets
    | intro _
    | split
    | with_reducible apply State.setFld_keeps (hw := w0)
    | with_reducible apply State.emptyTiles_keeps w1
    | with_reducible apply State.record_keeps w2
    | with_reducible apply State.replaceLogical_keeps w3
    | with_reducible apply State.noteSpares_keeps w4
    | with_reducible apply State.replaceQuarantined_keeps w3
    | with_reducible apply kept_if
    | with_reducible apply kept_foldl
    | with_reducible refine upd_prm w1 ?_

theorem State.keepTemp_keeps (hw : Frees z 0x180000000000000) (s : State) (pattern : ℕ) (temp : ℕ)  (hk : Kept z s) :
    Kept z (State.keepTemp s pattern temp) := by
  have w0 : Frees z (Field.bit prmSelftestTemp_temps) := hw.sub rfl
  have w1 : Frees z (Field.bit prmSelftestTemp2_temps) := hw.sub rfl
  unfold State.keepTemp
  repeat' first
    | with_reducible assumption
    | extract_lets
    | intro _
    | split
    | with_reducible apply State.setFld_keeps (hw := w0)
    | with_reducible apply State.setFld_keeps (hw := w1)
    | with_reducible apply kept_if
    | with_reducible apply kept_foldl

theorem State.quarantineUnit_keeps (hw : Frees z 0x1804c00000240000000000000002010300880000c9c11b1) (s : State) (c : ℕ) (u : ℕ) (cause : ℕ) (temp : ℕ) (pattern : ℕ) (part : Option ℕ) (kernel : ℕ)  (hk : Kept z s) :
    Kept z (State.quarantineUnit s c u cause temp pattern part kernel) := by
  have w0 : Frees z 0x800000000000 := hw.sub rfl
  have w1 : Frees z (Field.bit genChUnits_quarantine) := hw.sub rfl
  have w2 : Frees z 0x1804c00000240000000000000002010300800000c9c11b1 := hw.sub rfl
  have w3 : Frees z 0x40000 := hw.sub rfl
  unfold State.quarantineUnit
  repeat' first
    | with_reducible assumption
    | extract_lets
    | intro _
    | split
    | with_reducible apply State.noteMemOnly_keeps w0
    | with_reducible apply State.setFld_keeps (hw := w1)
    | with_reducible apply State.record_keeps w2
    | with_reducible apply kept_if
    | with_reducible apply kept_foldl
    | with_reducible refine upd_gen w3 ?_

end Sys2Proof.Machine
end

