-- ==== Sys2Proof/Laws/KeepsOperands.lean ====
section
/-! SUPPORT. Every operation of Machine/Operands.lean keeps the queue, the canonical forms and every piece that it does not touch. -/

set_option Elab.async false
set_option linter.unusedSimpArgs false
set_option linter.unusedTactic false
set_option linter.unreachableTactic false

namespace Sys2Proof.Machine

variable {z : Ref}

theorem State.refuse_keeps (hw : Frees z 0x400000000000000000400100030) (s : State) (c : Cmd) (status : ℕ)  (hk : Kept z s) :
    Kept z (State.refuse s c status) := by
  have w0 : Frees z 0x400000000000000000400100030 := hw.sub rfl
  have w1 : Frees z 0x20 := hw.sub rfl
  simp (maxDischargeDepth := 30) only [State.refuse, State.reply_keeps w0, State.modQueue_keeps w1, and_self, hk]

theorem State.readInput_keeps (hw : Frees z 0x400000000000000000000100010) (s : State) (c : Cmd) (d : Pend)  (hk : Kept z s) :
    Kept z (State.readInput s c d) := by
  have w0 : Frees z 0x400000000000000000000100010 := hw.sub rfl
  have w1 : Frees z 0x10 := hw.sub rfl
  unfold State.readInput
  repeat' first
    | with_reducible assumption
    | extract_lets
    | intro _
    | split
    | with_reducible apply State.readBulk_keeps w0
    | with_reducible apply State.emit_keeps w1
    | with_reducible apply kept_if
    | with_reducible apply kept_foldl

theorem State.enter_keeps (hw : Frees z 0x80000000000000400000000000000000501100030) (s : State) (c : Cmd) (d : Pend)  (hk : Kept z s) :
    Kept z (State.enter s c d) := by
  have w0 : Frees z 0x20 := hw.sub rfl
  have w1 : Frees z 0x80000000000000000000000000000000001000000 := hw.sub rfl
  have w2 : Frees z 0x100000000 := hw.sub rfl
  have w3 : Frees z 0x400000000000000000400100030 := hw.sub rfl
  have w4 : Frees z 0x400000000000000000000100010 := hw.sub rfl
  unfold State.enter
  repeat' first
    | with_reducible assumption
    | extract_lets
    | intro _
    | split
    | with_reducible apply State.modQueue_keeps w0
    | with_reducible apply State.rouse_keeps w1
    | with_reducible apply State.noteInflight_keeps w2
    | with_reducible apply State.reply_keeps w3
    | with_reducible apply State.readInput_keeps w4
    | with_reducible apply kept_if
    | with_reducible apply kept_foldl
    | with_reducible refine upd_buhorn w0 ?_

theorem State.commandThen_keeps (hw : Frees z 0x80000000000000400000000000000000501100030) (s : State) (op : ℕ) (c : Cmd) (words : List (BitVec 32)) (code : BitVec 12) (effect : Pend → State → State) (after : Pend → State → State)  (hk : Kept z s) (hk_effect : ∀ y0 y1, Kept z y1 → Kept z (effect y0 y1)) (hk_after : ∀ y0 y1, Kept z y1 → Kept z (after y0 y1)) :
    Kept z (State.commandThen s op c words code effect after) := by
  have w0 : Frees z 0x400000000000000000400100030 := hw.sub rfl
  have w1 : Frees z 0x80000000000000400000000000000000501100030 := hw.sub rfl
  unfold State.commandThen
  repeat' first
    | with_reducible assumption
    | extract_lets
    | intro _
    | split
    | with_reducible apply State.refuse_keeps w0
    | with_reducible apply State.enter_keeps w1
    | with_reducible apply hk_effect
    | with_reducible apply hk_after
    | with_reducible apply kept_if
    | with_reducible apply kept_foldl

theorem State.command_keeps (hw : Frees z 0x80000000000000400000000000000000501100030) (s : State) (op : ℕ) (c : Cmd) (words : List (BitVec 32)) (code : BitVec 12) (effect : Pend → State → State)  (hk : Kept z s) (hk_effect : ∀ y0 y1, Kept z y1 → Kept z (effect y0 y1)) :
    Kept z (State.command s op c words code effect) := by
  have w0 : Frees z 0x80000000000000400000000000000000501100030 := hw.sub rfl
  unfold State.command
  repeat' first
    | with_reducible assumption
    | extract_lets
    | intro _
    | split
    | with_reducible apply State.commandThen_keeps w0
    | with_reducible apply hk_effect
    | with_reducible apply kept_if
    | with_reducible apply kept_foldl

theorem State.plain_keeps (hw : Frees z 0x80000000000000400000000000000000501100030) (s : State) (op : ℕ) (c : Cmd) (effect : Pend → State → State)  (hk : Kept z s) (hk_effect : ∀ y0 y1, Kept z y1 → Kept z (effect y0 y1)) :
    Kept z (State.plain s op c effect) := by
  have w0 : Frees z 0x80000000000000400000000000000000501100030 := hw.sub rfl
  unfold State.plain
  repeat' first
    | with_reducible assumption
    | extract_lets
    | intro _
    | split
    | with_reducible apply State.command_keeps w0
    | with_reducible apply hk_effect
    | with_reducible apply kept_if
    | with_reducible apply kept_foldl

theorem State.await_keeps (hw : Frees z 0x20) (s : State) (id : ℕ) (w : Wait)  (hk : Kept z s) :
    Kept z (State.await s id w) := by
  have w0 : Frees z 0x20 := hw.sub rfl
  simp (maxDischargeDepth := 30) only [State.await, State.modCmd_keeps w0, and_self, hk]

theorem State.putBuffer_keeps (hw : Frees z 0x400000000000000000000100010) (s : State) (d : Pend) (addr : ℕ) (bytes : List (BitVec 8))  (hk : Kept z s) :
    Kept z (State.putBuffer s d addr bytes) := by
  have w0 : Frees z 0x400000000000000000000100010 := hw.sub rfl
  have w1 : Frees z 0x10 := hw.sub rfl
  unfold State.putBuffer
  repeat' first
    | with_reducible assumption
    | extract_lets
    | intro _
    | split
    | with_reducible apply State.writeBulk_keeps w0
    | with_reducible apply State.emit_keeps w1
    | with_reducible apply kept_if
    | with_reducible apply kept_foldl

end Sys2Proof.Machine
end

