-- ==== Sys2Proof/Laws/KeepsFlags.lean ====
section
/-! SUPPORT. Every operation of Machine/Flags.lean keeps the queue, the canonical forms and every piece that it does not touch. -/

set_option Elab.async false
set_option linter.unusedSimpArgs false
set_option linter.unusedTactic false
set_option linter.unreachableTactic false

namespace Sys2Proof.Machine

variable {z : Ref}

/-- The fields of a register are fields of that register. -/
theorem Reg.fields_reg {r : Reg} {f : Field} (h : f ∈ r.fields) : f.reg = r := by
  have k : r.fields.all (fun f => f.reg = r) = true := by cases r <;> rfl
  simpa using List.all_eq_true.1 k f h

/-- A fold over a list keeps where each of its members does. -/
theorem kept_foldl_mem {β : Type} {g : State → β → State} (l : List β) {s : State} (h : Kept z s)
    (hg : ∀ x ∈ l, ∀ t : State, Kept z t → Kept z (g t x)) : Kept z (l.foldl g s) := by
  induction l generalizing s with
  | nil => exact h
  | cons x l ih => exact ih (hg x (List.mem_cons_self ..) s h) fun y hy => hg y (List.mem_cons_of_mem _ hy)

theorem State.clearRc_keeps (s : State) (l : Lane) {r : Reg} (i : ℕ) (hw : Frees z r.bit)  (hk : Kept z s) :
    Kept z (State.clearRc s l r i) := by
  unfold State.clearRc
  refine kept_foldl_mem _ hk fun f hf t ht => ?_
  have e : f.bit = r.bit := by unfold Field.bit; rw [Reg.fields_reg hf]
  exact kept_if (fun _ => State.setFld_keeps _ _ _ (e ▸ hw) ht) fun _ => ht

theorem State.readLane_keeps (s : State) (fn : ℕ) (l : Lane) {r : Reg} (i : ℕ) (hw : Frees z r.bit)  (hk : Kept z s) :
    Kept z (State.readLane s fn l r i).2 := by
  unfold State.readLane
  extract_lets w v s'
  have h : Kept z s' := by
    unfold s'
    split
    · rename_i hc
      have e : r = .dbgGstop := by simp only [Bool.and_eq_true, decide_eq_true_eq] at hc; exact hc.1.1
      subst e
      exact State.setFlag_keeps (f := dbgGstop_stopped) _ _ _ hw hk
    · exact hk
  exact State.clearRc_keeps _ _ _ hw h
theorem State.readLane_gives {t : State} {y0} {s : State} {fn : ℕ} {l : Lane} {r : Reg} {i : ℕ} (hw : Frees z r.bit) (he : State.readLane s fn l r i = (y0, t)) (hk : Kept z s) : Kept z t :=
  by have k := State.readLane_keeps s fn l i hw hk; rw [he] at k; exact k

theorem State.whenKept_keeps (hw : Frees z 0x0) (s : State) (r : Reg) (i : ℕ) (f : State → State)  (hk : Kept z s) (hk_f : ∀ y0, Kept z y0 → Kept z (f y0)) :
    Kept z (State.whenKept s r i f) := by
  unfold State.whenKept
  (repeat' split) <;> simp (maxDischargeDepth := 30) only [and_self, *]

theorem State.badAccess_keeps (hw : Frees z 0x10000000000000000000000000000000000000000000000) (s : State)  (hk : Kept z s) :
    Kept z (State.badAccess s) := by
  have w0 : Frees z (Field.bit glbErrStat_badAccess) := hw.sub rfl
  simp (maxDischargeDepth := 30) only [State.badAccess, (State.bump_keeps (hw := w0)), and_self, hk]

theorem State.bar0Read_keeps (hw : Frees z 0x1fffffffffffffffffffffffffffffffffffffff0000000) (s : State) (fn : ℕ) (off : ℕ) (size : ℕ)  (hk : Kept z s) :
    Kept z (State.bar0Read s fn off size).2 := by
  have w0 : Frees z 0x10000000000000000000000000000000000000000000000 := hw.sub rfl
  unfold State.bar0Read
  repeat' first
    | with_reducible assumption
    | extract_lets
    | intro _
    | split
    | with_reducible apply State.badAccess_keeps w0
    | with_reducible apply State.readLane_keeps (hw := hw.reg rfl _)
    | with_reducible refine State.readLane_gives (hw := hw.reg rfl _) (by with_reducible assumption) ?_
    | with_reducible apply kept_if
    | with_reducible apply kept_foldl
theorem State.bar0Read_gives (hw : Frees z 0x1fffffffffffffffffffffffffffffffffffffff0000000) {t : State} {y0} {s : State} {fn : ℕ} {off : ℕ} {size : ℕ} (he : State.bar0Read s fn off size = (y0, t)) (hk : Kept z s) : Kept z t :=
  by have k := State.bar0Read_keeps hw s fn off size hk; rw [he] at k; exact k

theorem State.writeField_keeps (old : State) (s : State) (fn : ℕ) (l : Lane) {f : Field} (i : ℕ) (w : BitVec 64) (hw : Frees z f.bit)  (hk : Kept z old) (hk_s : Kept z s) :
    Kept z (State.writeField old s fn l f i w) := by
  unfold State.writeField
  (repeat' split) <;> first
    | exact hk_s
    | exact State.setFld_keeps _ _ _ hw hk_s

theorem State.writeFields_keeps (s : State) (fn : ℕ) (l : Lane) {r : Reg} (i : ℕ) (v : BitVec 64) (hw : Frees z r.bit)  (hk : Kept z s) :
    Kept z (State.writeFields s fn l r i v) := by
  unfold State.writeFields
  extract_lets w
  refine kept_if (fun _ => ?_) fun _ => hk
  refine kept_foldl_mem _ hk fun f hf t ht => ?_
  have e : f.bit = r.bit := by unfold Field.bit; rw [Reg.fields_reg hf]
  exact State.writeField_keeps _ _ _ _ _ _ (e ▸ hw) hk ht

end Sys2Proof.Machine
end

