-- ==== Sys2Proof/Laws/KeepsPages.lean ====
section
/-! SUPPORT. Every operation of Machine/Pages.lean keeps the queue, the canonical forms and every piece that it does not touch. -/

set_option Elab.async false
set_option linter.unusedSimpArgs false
set_option linter.unusedTactic false
set_option linter.unreachableTactic false

namespace Sys2Proof.Machine

variable {z : Ref}

theorem Tiers.zero_keeps {t : Tiers} (h : KeepCells z t.bytes) (key layers : Nat) :
    KeepCells z (t.zero key layers).bytes := keepCells_clear h _ _

theorem Tiers.freePage_bytes (t : Tiers) (k : Nat) : (t.freePage k).bytes = t.bytes := by
  unfold Tiers.freePage
  repeat' split
  all_goals rfl

theorem Tiers.freePages_bytes (t : Tiers) (l : List Nat) (f : Nat → Nat) :
    (l.foldl (fun t x => t.freePage (f x)) t).bytes = t.bytes := by
  induction l generalizing t with
  | nil => rfl
  | cons x l ih => exact (ih _).trans (Tiers.freePage_bytes _ _)

theorem State.noteTenant_keeps (hw : Frees z 0xc0000000000000000000000) (s : State) (t : ℕ)  (hk : Kept z s) :
    Kept z (State.noteTenant s t) := by
  have w0 : Frees z (Field.bit tirOccHi_t3) := hw.sub rfl
  have w1 : Frees z (Field.bit tirOccLo_t2) := hw.sub rfl
  have w2 : Frees z (Field.bit tirOccLo_t1) := hw.sub rfl
  have w3 : Frees z (Field.bit tirOccLo_t0) := hw.sub rfl
  simp (maxDischargeDepth := 30) only [State.noteTenant, (State.setFld_keeps (hw := w0)), (State.setFld_keeps (hw := w1)), (State.setFld_keeps (hw := w2)), (State.setFld_keeps (hw := w3)), and_self, hk]

theorem State.noteLodging_keeps (hw : Frees z 0x28000000000000000000000) (s : State) (i : ℕ)  (hk : Kept z s) :
    Kept z (State.noteLodging s i) := by
  have w0 : Frees z (Field.bit tirPeerCtrl_drained) := hw.sub rfl
  have w1 : Frees z (Field.bit tirPeerUsed_used) := hw.sub rfl
  simp (maxDischargeDepth := 30) only [State.noteLodging, (State.setFlag_keeps (hw := w0)), (State.setFld_keeps (hw := w1)), and_self, hk]

theorem State.noteTiers_keeps (hw : Frees z 0xe9800000000020800000000) (s : State)  (hk : Kept z s) :
    Kept z (State.noteTiers s) := by
  have w0 : Frees z (Field.bit tirPool_free) := hw.sub rfl
  have w1 : Frees z (Field.bit tirLend_lent) := hw.sub rfl
  have w2 : Frees z (Field.bit tirLend_t0Free) := hw.sub rfl
  have w3 : Frees z (Field.bit ldlGroups_count) := hw.sub rfl
  have w4 : Frees z (Field.bit ldlMeta_freeChunks) := hw.sub rfl
  have w5 : Frees z 0x28000000000000000000000 := hw.sub rfl
  have w6 : Frees z 0xc0000000000000000000000 := hw.sub rfl
  unfold State.noteTiers
  repeat' first
    | with_reducible refine keptOpt_map ?_
    | with_reducible assumption
    | extract_lets
    | intro _
    | split
    | with_reducible apply State.setFld_keeps (hw := w0)
    | with_reducible apply State.setFld_keeps (hw := w1)
    | with_reducible apply State.setFld_keeps (hw := w2)
    | with_reducible apply State.setFld_keeps (hw := w3)
    | with_reducible apply State.setFld_keeps (hw := w4)
    | with_reducible apply State.noteLodging_keeps w5
    | with_reducible apply State.noteTenant_keeps w6
    | with_reducible apply kept_if
    | with_reducible apply kept_foldl

theorem State.relayTier1_keeps (hw : Frees z 0xe9800000000020800001000) (s : State)  (hk : Kept z s) :
    Kept z (State.relayTier1 s) := by
  have w0 : Frees z 0xe9800000000020800000000 := hw.sub rfl
  have w1 : Frees z (Field.bit tirPool_pool) := hw.sub rfl
  have w2 : Frees z 0x1000 := hw.sub rfl
  unfold State.relayTier1
  repeat' first
    | with_reducible assumption
    | extract_lets
    | intro _
    | split
    | with_reducible apply State.noteTiers_keeps w0
    | with_reducible apply State.setFld_keeps (hw := w1)
    | with_reducible apply kept_if
    | with_reducible apply kept_foldl
    | with_reducible refine upd_tiers w2 rfl ?_

theorem State.placeFrames_keeps (hw : Frees z 0x1000) (s : State) (p : ℕ) (n : ℕ) (x3 : List ℕ)  (hk : Kept z s) :
    KeptOpt z (State.placeFrames s p n x3) := by
  have w0 : Frees z 0x1000 := hw.sub rfl
  induction x3 generalizing s p n with
  | nil =>
    unfold State.placeFrames
    repeat' first
      | with_reducible refine keptOpt_bind ?_
      | with_reducible assumption
      | extract_lets
      | intro _
      | split
      | with_reducible apply kept_if
      | with_reducible apply kept_foldl
      | with_reducible refine upd_tiers w0 rfl ?_
      | with_reducible apply keptOpt_none
      | with_reducible apply keptOpt_of
      | with_reducible refine KeptOpt.getD ?_ ?_
  | cons y ys ih =>
    unfold State.placeFrames
    repeat' first
      | with_reducible refine keptOpt_bind ?_
      | with_reducible assumption
      | extract_lets
      | intro _
      | split
      | with_reducible apply ih
      | with_reducible refine KeptOpt.get ?_ (by with_reducible assumption)
      | with_reducible apply kept_if
      | with_reducible apply kept_foldl
      | with_reducible refine upd_tiers w0 rfl ?_
      | with_reducible apply keptOpt_none
      | with_reducible apply keptOpt_of
      | with_reducible refine KeptOpt.getD ?_ ?_
theorem State.placeFrames_gives (hw : Frees z 0x1000) {t : State} {s : State} {p : ℕ} {n : ℕ} {x3 : List ℕ} (he : State.placeFrames s p n x3 = some t) (hk : Kept z s) : Kept z t :=
  (State.placeFrames_keeps hw s p n x3 hk).get he

theorem State.takeExtent_keeps (hw : Frees z 0x5000) (s : State) (key : ℕ)  (hk : Kept z s) :
    KeptOpt z (State.takeExtent s key) := by
  have w0 : Frees z 0x5000 := hw.sub rfl
  unfold State.takeExtent
  repeat' first
    | with_reducible assumption
    | extract_lets
    | intro _
    | split
    | with_reducible apply kept_if
    | with_reducible apply kept_foldl
    | with_reducible refine upd_tiers_ftl w0 rfl ?_
    | with_reducible apply keptOpt_none
    | with_reducible apply keptOpt_of
    | with_reducible refine KeptOpt.getD ?_ ?_
theorem State.takeExtent_gives (hw : Frees z 0x5000) {t : State} {s : State} {key : ℕ} (he : State.takeExtent s key = some t) (hk : Kept z s) : Kept z t :=
  (State.takeExtent_keeps hw s key hk).get he

theorem State.takeGroup_keeps (hw : Frees z 0x100) (s : State) (p : ℕ) (layers : ℕ)  (hk : Kept z s) :
    ∀ x, State.takeGroup s p layers = some x → Kept z x.2 := by
  have w0 : Frees z 0x100 := hw.sub rfl
  intro x e
  unfold State.takeGroup at e
  dsimp only at e
  (repeat' split at e) <;> simp only [Option.some.injEq, reduceCtorEq] at e <;> subst e <;> exact State.setPart_keeps w0 _ _ _ hk
theorem State.takeGroup_gives (hw : Frees z 0x100) {t : State} {y0} {s : State} {p : ℕ} {layers : ℕ} (he : State.takeGroup s p layers = some (y0, t)) (hk : Kept z s) : Kept z t :=
  State.takeGroup_keeps hw s p layers hk _ he

theorem State.askSlices_keeps (hw : Frees z 0x10) (s : State)  (hk : Kept z s) :
    Kept z (State.askSlices s) := by
  have w0 : Frees z 0x10 := hw.sub rfl
  unfold State.askSlices
  repeat' first
    | with_reducible assumption
    | extract_lets
    | intro _
    | split
    | with_reducible apply State.send_keeps w0
    | with_reducible apply kept_if
    | with_reducible apply kept_foldl

theorem State.modGrant_keeps (hw : Frees z 0x800000) (s : State) (node : ℕ) (f : Grant → Grant)  (hk : Kept z s) :
    Kept z (State.modGrant s node f) := by
  have w0 : Frees z 0x800000 := hw.sub rfl
  simp (maxDischargeDepth := 30) only [State.modGrant, upd_res w0, and_self, hk]

theorem State.shipIn_keeps (hw : Frees z 0x400000000000000000000100010) (s : State) (cls : ℕ) (node : ℕ) (i : ℕ) (off : ℕ) (bs : List (BitVec 8)) (p : Purpose)  (hk : Kept z s) :
    Kept z (State.shipIn s cls node i off bs p) := by
  have w0 : Frees z 0x400000000000000000000100010 := hw.sub rfl
  unfold State.shipIn
  repeat' first
    | with_reducible assumption
    | extract_lets
    | intro _
    | split
    | with_reducible apply State.writeBulk_keeps w0
    | with_reducible apply kept_if
    | with_reducible apply kept_foldl

theorem State.shipAt_keeps (hw : Frees z 0x400000000000000000000100010) (s : State) (node : ℕ) (i : ℕ) (off : ℕ) (bs : List (BitVec 8)) (p : Purpose)  (hk : Kept z s) :
    Kept z (State.shipAt s node i off bs p) := by
  have w0 : Frees z 0x400000000000000000000100010 := hw.sub rfl
  unfold State.shipAt
  repeat' first
    | with_reducible assumption
    | extract_lets
    | intro _
    | split
    | with_reducible apply State.shipIn_keeps w0
    | with_reducible apply kept_if
    | with_reducible apply kept_foldl

theorem State.slotsAt_keeps (hw : Frees z 0x800080) (s : State) (h : ℕ) (node : ℕ) (i : ℕ) (q : Seq)  (hk : Kept z s) :
    Kept z (State.slotsAt s h node i q) := by
  have w0 : Frees z 0x80 := hw.sub rfl
  have w1 : Frees z 0x800000 := hw.sub rfl
  unfold State.slotsAt
  repeat' first
    | with_reducible assumption
    | extract_lets
    | intro _
    | split
    | with_reducible apply State.modSeq_keeps w0
    | with_reducible apply State.modGrant_keeps w1
    | with_reducible apply kept_if
    | with_reducible apply kept_foldl

theorem State.mirrorTake_keeps (hw : Frees z 0x800080) (s : State) (h : ℕ) (i : ℕ) (q : Seq)  (hk : Kept z s) :
    Kept z (State.mirrorTake s h i q) := by
  have w0 : Frees z 0x800080 := hw.sub rfl
  unfold State.mirrorTake
  repeat' first
    | with_reducible assumption
    | extract_lets
    | intro _
    | split
    | with_reducible apply State.slotsAt_keeps w0
    | with_reducible apply kept_if
    | with_reducible apply kept_foldl

theorem State.dropSlots_keeps (hw : Frees z 0x400000000000000000000900010) (s : State) (h : ℕ) (node : ℕ) (q : Seq) (l : List ℕ)  (hk : Kept z s) :
    Kept z (State.dropSlots s h node q l) := by
  have w0 : Frees z 0x400000000000000000000100010 := hw.sub rfl
  have w1 : Frees z 0x800000 := hw.sub rfl
  unfold State.dropSlots
  repeat' first
    | with_reducible assumption
    | extract_lets
    | intro _
    | split
    | with_reducible apply State.shipAt_keeps w0
    | with_reducible apply State.modGrant_keeps w1
    | with_reducible apply kept_if
    | with_reducible apply kept_foldl

theorem State.mirrorFree_keeps (hw : Frees z 0x400000000000000000000900090) (s : State) (h : ℕ) (i : ℕ) (q : Seq)  (hk : Kept z s) :
    Kept z (State.mirrorFree s h i q) := by
  have w0 : Frees z 0x400000000000000000000900010 := hw.sub rfl
  have w1 : Frees z 0x80 := hw.sub rfl
  unfold State.mirrorFree
  repeat' first
    | with_reducible refine keptOpt_map ?_
    | with_reducible assumption
    | extract_lets
    | intro _
    | split
    | with_reducible apply State.dropSlots_keeps w0
    | with_reducible apply State.modSeq_keeps w1
    | with_reducible apply kept_if
    | with_reducible apply kept_foldl
    | dsimp +zetaDelta only

theorem State.houseGroup_keeps (hw : Frees z 0x5000) (s : State) (p : ℕ) (n : ℕ) (layers : ℕ)  (hk : Kept z s) :
    KeptOpt z (State.houseGroup s p n layers) := by
  have w0 : Frees z 0x1000 := hw.sub rfl
  have w1 : Frees z 0x5000 := hw.sub rfl
  unfold State.houseGroup
  have k := State.placeFrames_keeps w0 s p n (List.range layers) hk
  have l := State.takeExtent_keeps w1 s (pageKey p n) hk
  dsimp only
  (repeat' split) <;> rename_i h <;> first
    | exact keptOpt_none
    | exact k
    | exact keptOpt_of (l.get h)
    | (split at h
       · exact keptOpt_of (k.get h)
       · cases h)
theorem State.houseGroup_gives (hw : Frees z 0x5000) {t : State} {s : State} {p : ℕ} {n : ℕ} {layers : ℕ} (he : State.houseGroup s p n layers = some t) (hk : Kept z s) : Kept z t :=
  (State.houseGroup_keeps hw s p n layers hk).get he

theorem State.assignAt_keeps (hw : Frees z 0x807080) (s : State) (h : ℕ) (i : ℕ) (n : ℕ) (placed : Bool)  (hk : Kept z s) :
    KeptOpt z (State.assignAt s h i n placed) := by
  have w0 : Frees z 0x5000 := hw.sub rfl
  have w1 : Frees z 0x800080 := hw.sub rfl
  have w2 : Frees z 0x80 := hw.sub rfl
  have w3 : Frees z 0x3000 := hw.sub rfl
  unfold State.assignAt
  repeat' first
    | with_reducible assumption
    | with_reducible exact kept_dram (by with_reducible assumption)
    | with_reducible exact kept_bytes (by with_reducible assumption)
    | with_reducible exact kept_staging (by with_reducible assumption)
    | with_reducible exact keepCells_nil
    | with_reducible apply keepRegs_mset
    | with_reducible apply Tiers.zero_keeps
    | extract_lets
    | intro _
    | split
    | with_reducible apply State.houseGroup_keeps w0
    | with_reducible refine State.houseGroup_gives w0 (by with_reducible assumption) ?_
    | with_reducible apply State.mirrorTake_keeps w1
    | with_reducible apply State.modSeq_keeps w2
    | with_reducible apply kept_if
    | with_reducible apply kept_foldl
    | with_reducible refine upd_tiers_bytes w3 ?_ ?_
    | with_reducible apply keptOpt_none
    | with_reducible apply keptOpt_of
    | with_reducible refine KeptOpt.getD ?_ ?_
theorem State.assignAt_gives (hw : Frees z 0x807080) {t : State} {s : State} {h : ℕ} {i : ℕ} {n : ℕ} {placed : Bool} (he : State.assignAt s h i n placed = some t) (hk : Kept z s) : Kept z t :=
  (State.assignAt_keeps hw s h i n placed hk).get he

theorem State.assignGroup_keeps (hw : Frees z 0x807180) (s : State) (h : ℕ) (i : ℕ)  (hk : Kept z s) :
    KeptOpt z (State.assignGroup s h i) := by
  have w0 : Frees z 0x100 := hw.sub rfl
  have w1 : Frees z 0x807080 := hw.sub rfl
  unfold State.assignGroup
  repeat' first
    | with_reducible assumption
    | extract_lets
    | intro _
    | split
    | with_reducible apply State.takeGroup_keeps w0
    | with_reducible refine State.takeGroup_gives w0 (by with_reducible assumption) ?_
    | with_reducible apply State.assignAt_keeps w1
    | with_reducible refine State.assignAt_gives w1 (by with_reducible assumption) ?_
    | with_reducible apply kept_if
    | with_reducible apply kept_foldl
    | with_reducible apply keptOpt_none
    | with_reducible apply keptOpt_of
    | with_reducible refine KeptOpt.getD ?_ ?_
theorem State.assignGroup_gives (hw : Frees z 0x807180) {t : State} {s : State} {h : ℕ} {i : ℕ} (he : State.assignGroup s h i = some t) (hk : Kept z s) : Kept z t :=
  (State.assignGroup_keeps hw s h i hk).get he

theorem State.assignRun_keeps (hw : Frees z 0x807180) (s : State) (h : ℕ) (first : ℕ) (x3 : ℕ)  (hk : Kept z s) :
    KeptOpt z (State.assignRun s h first x3) := by
  have w0 : Frees z 0x807180 := hw.sub rfl
  induction x3 generalizing s h first with
  | zero =>
    unfold State.assignRun
    repeat' first
      | with_reducible assumption
      | extract_lets
      | intro _
      | split
      | with_reducible apply State.assignGroup_keeps w0
      | with_reducible refine State.assignGroup_gives w0 (by with_reducible assumption) ?_
      | with_reducible apply kept_if
      | with_reducible apply kept_foldl
      | with_reducible apply keptOpt_none
      | with_reducible apply keptOpt_of
      | with_reducible refine KeptOpt.getD ?_ ?_
  | succ n ih =>
    unfold State.assignRun
    repeat' first
      | with_reducible assumption
      | extract_lets
      | intro _
      | split
      | with_reducible apply ih
      | with_reducible refine KeptOpt.get ?_ (by with_reducible assumption)
      | with_reducible apply State.assignGroup_keeps w0
      | with_reducible refine State.assignGroup_gives w0 (by with_reducible assumption) ?_
      | with_reducible apply kept_if
      | with_reducible apply kept_foldl
      | with_reducible apply keptOpt_none
      | with_reducible apply keptOpt_of
      | with_reducible refine KeptOpt.getD ?_ ?_
theorem State.assignRun_gives (hw : Frees z 0x807180) {t : State} {s : State} {h : ℕ} {first : ℕ} {x3 : ℕ} (he : State.assignRun s h first x3 = some t) (hk : Kept z s) : Kept z t :=
  (State.assignRun_keeps hw s h first x3 hk).get he

theorem State.freeGroup_keeps (hw : Frees z 0x7100) (s : State) (p : ℕ) (n : ℕ)  (hk : Kept z s) :
    Kept z (State.freeGroup s p n) := by
  have w0 : Frees z 0x7000 := hw.sub rfl
  have w1 : Frees z 0x100 := hw.sub rfl
  unfold State.freeGroup
  extract_lets key
  split
  · exact hk
  · extract_lets t f src s1
    have ht : KeepCells z t.bytes := by
      show KeepCells z (Tiers.bytes (List.foldl _ _ _))
      rw [Tiers.freePages_bytes]
      exact kept_bytes hk
    have h1 : Kept z s1 := upd_tiers_bytes_ftl w0 (Tiers.zero_keeps ht _ _) hk
    clear_value s1
    exact kept_if (fun _ => h1) fun _ => State.modPart_keeps w1 _ _ _ h1

theorem State.releaseAt_keeps (hw : Frees z 0x400000000000000000000907190) (s : State) (h : ℕ) (i : ℕ)  (hk : Kept z s) :
    Kept z (State.releaseAt s h i) := by
  have w0 : Frees z 0x80 := hw.sub rfl
  have w1 : Frees z 0x400000000000000000000900090 := hw.sub rfl
  have w2 : Frees z 0x7100 := hw.sub rfl
  unfold State.releaseAt
  (repeat' split) <;> simp (maxDischargeDepth := 30) only [State.modSeq_keeps w0, State.mirrorFree_keeps w1, State.freeGroup_keeps w2, and_self, *]

theorem State.releaseAll_keeps (hw : Frees z 0x400000000000000000000907190) (s : State) (h : ℕ)  (hk : Kept z s) :
    Kept z (State.releaseAll s h) := by
  have w0 : Frees z 0x80 := hw.sub rfl
  have w1 : Frees z 0x400000000000000000000907190 := hw.sub rfl
  unfold State.releaseAll
  repeat' first
    | with_reducible assumption
    | extract_lets
    | intro _
    | split
    | with_reducible apply State.modSeq_keeps w0
    | with_reducible apply State.releaseAt_keeps w1
    | with_reducible apply kept_if
    | with_reducible apply kept_foldl

theorem State.freeHandle_keeps (hw : Frees z 0xc0) (s : State) (h : ℕ)  (hk : Kept z s) :
    Kept z (State.freeHandle s h) := by
  have w0 : Frees z 0xc0 := hw.sub rfl
  simp (maxDischargeDepth := 30) only [State.freeHandle, upd_handles_seqs w0, and_self, hk]

theorem State.takeHandle_keeps (hw : Frees z 0x40) (s : State)  (hk : Kept z s) :
    ∀ x, State.takeHandle s = some x → Kept z x.2 := by
  have w0 : Frees z 0x40 := hw.sub rfl
  intro x e
  unfold State.takeHandle at e
  (repeat' split at e) <;> simp only [Option.some.injEq, reduceCtorEq] at e <;> subst e <;> exact upd_handles w0 hk
theorem State.takeHandle_gives (hw : Frees z 0x40) {t : State} {y0} {s : State} (he : State.takeHandle s = some (y0, t)) (hk : Kept z s) : Kept z t :=
  State.takeHandle_keeps hw s hk _ he

theorem State.notePins_keeps (hw : Frees z 0x1000) (s : State) (h : ℕ)  (hk : Kept z s) :
    Kept z (State.notePins s h) := by
  have w0 : Frees z 0x1000 := hw.sub rfl
  unfold State.notePins
  repeat' first
    | with_reducible assumption
    | extract_lets
    | intro _
    | split
    | with_reducible apply kept_if
    | with_reducible apply kept_foldl
    | with_reducible refine upd_tiers w0 rfl ?_

theorem State.become_keeps (hw : Frees z 0x1080) (s : State) (h : ℕ) (st : SeqState)  (hk : Kept z s) :
    Kept z (State.become s h st) := by
  have w0 : Frees z 0x1000 := hw.sub rfl
  have w1 : Frees z 0x80 := hw.sub rfl
  simp (maxDischargeDepth := 30) only [State.become, State.notePins_keeps w0, State.modSeq_keeps w1, and_self, hk]

end Sys2Proof.Machine
end

