-- ==== Sys2Proof/Laws/KeepsMemory.lean ====
section
/-! SUPPORT. Every operation of Machine/Memory.lean keeps the queue, the canonical forms and every piece that it does not touch. -/

set_option Elab.async false
set_option linter.unusedSimpArgs false
set_option linter.unusedTactic false
set_option linter.unreachableTactic false

namespace Sys2Proof.Machine

variable {z : Ref}

theorem State.putDramByte_keeps (hw : Frees z 0xb000) (s : State) (d : ℕ) (v : BitVec 8)  (hk : Kept z s) :
    Kept z (State.putDramByte s d v) := by
  have w0 : Frees z 0x3000 := hw.sub rfl
  have w1 : Frees z 0x8000 := hw.sub rfl
  unfold State.putDramByte
  repeat' first
    | with_reducible assumption
    | with_reducible exact kept_dram (by with_reducible assumption)
    | with_reducible exact kept_bytes (by with_reducible assumption)
    | with_reducible exact kept_staging (by with_reducible assumption)
    | with_reducible exact keepCells_nil
    | with_reducible apply keepCells_write
    | with_reducible apply keepCells_writeList
    | extract_lets
    | intro _
    | split
    | with_reducible apply kept_if
    | with_reducible apply kept_foldl
    | with_reducible refine upd_tiers_bytes w0 ?_ ?_
    | with_reducible refine upd_dram w1 ?_ ?_

theorem State.poisonSector_keeps (hw : Frees z 0x11000) (s : State) (d : ℕ)  (hk : Kept z s) :
    Kept z (State.poisonSector s d) := by
  have w0 : Frees z 0x1000 := hw.sub rfl
  have w1 : Frees z 0x10000 := hw.sub rfl
  unfold State.poisonSector
  repeat' first
    | with_reducible assumption
    | extract_lets
    | intro _
    | split
    | with_reducible apply kept_if
    | with_reducible apply kept_foldl
    | with_reducible refine upd_tiers w0 rfl ?_
    | with_reducible refine upd_poison w1 ?_

theorem State.cleanSector_keeps (hw : Frees z 0x11000) (s : State) (d : ℕ)  (hk : Kept z s) :
    Kept z (State.cleanSector s d) := by
  have w0 : Frees z 0x1000 := hw.sub rfl
  have w1 : Frees z 0x10000 := hw.sub rfl
  unfold State.cleanSector
  repeat' first
    | with_reducible assumption
    | extract_lets
    | intro _
    | split
    | with_reducible apply kept_if
    | with_reducible apply kept_foldl
    | with_reducible refine upd_tiers w0 rfl ?_
    | with_reducible refine upd_poison w1 ?_

theorem State.writePlaces_keeps (hw : Frees z 0x1b000) (s : State) (places : List ℕ) (bs : List (BitVec 8))  (hk : Kept z s) :
    Kept z (State.writePlaces s places bs) := by
  have w0 : Frees z 0xb000 := hw.sub rfl
  have w1 : Frees z 0x11000 := hw.sub rfl
  unfold State.writePlaces
  repeat' first
    | with_reducible assumption
    | extract_lets
    | intro _
    | split
    | with_reducible apply State.putDramByte_keeps w0
    | with_reducible apply State.cleanSector_keeps w1
    | with_reducible apply kept_if
    | with_reducible apply kept_foldl

theorem State.standsAs_keeps (hw : Frees z 0xb000) (s : State) (sec : ℕ) (d : List (BitVec 8))  (hk : Kept z s) :
    Kept z (State.standsAs s sec d) := by
  have w0 : Frees z 0xb000 := hw.sub rfl
  unfold State.standsAs
  repeat' first
    | with_reducible assumption
    | extract_lets
    | intro _
    | split
    | with_reducible apply State.putDramByte_keeps w0
    | with_reducible apply kept_if
    | with_reducible apply kept_foldl

theorem State.writeDram_keeps (hw : Frees z 0x1b000) (s : State) (a : ℕ) (bs : List (BitVec 8))  (hk : Kept z s) :
    Kept z (State.writeDram s a bs) := by
  have w0 : Frees z 0x1b000 := hw.sub rfl
  simp (maxDischargeDepth := 30) only [State.writeDram, State.writePlaces_keeps w0, and_self, hk]

theorem State.setPageBytes_keeps (hw : Frees z 0x3000) (s : State) (key : ℕ) (bs : List (BitVec 8))  (hk : Kept z s) :
    Kept z (State.setPageBytes s key bs) := by
  have w0 : Frees z 0x3000 := hw.sub rfl
  unfold State.setPageBytes
  repeat' first
    | with_reducible assumption
    | with_reducible exact kept_dram (by with_reducible assumption)
    | with_reducible exact kept_bytes (by with_reducible assumption)
    | with_reducible exact kept_staging (by with_reducible assumption)
    | with_reducible exact keepCells_nil
    | with_reducible apply keepCells_writeList
    | with_reducible apply keepCells_clear
    | with_reducible apply keepRegs_filter
    | with_reducible apply keepCells_filter
    | extract_lets
    | intro _
    | split
    | with_reducible apply kept_if
    | with_reducible apply kept_foldl
    | with_reducible refine upd_tiers_bytes w0 ?_ ?_

theorem State.poisonPage_keeps (hw : Frees z 0x1000) (s : State) (key : ℕ) (secs : List ℕ)  (hk : Kept z s) :
    Kept z (State.poisonPage s key secs) := by
  have w0 : Frees z 0x1000 := hw.sub rfl
  unfold State.poisonPage
  repeat' first
    | with_reducible refine keptOpt_map ?_
    | with_reducible assumption
    | extract_lets
    | intro _
    | split
    | with_reducible apply kept_if
    | with_reducible apply kept_foldl
    | with_reducible refine upd_tiers w0 rfl ?_

end Sys2Proof.Machine
end

