-- ==== Sys2Proof/Laws/KeepsMirror.lean ====
section
/-! SUPPORT. Every operation of Machine/Mirror.lean keeps the queue, the canonical forms and every piece that it does not touch. -/

set_option Elab.async false
set_option linter.unusedSimpArgs false
set_option linter.unusedTactic false
set_option linter.unreachableTactic false

namespace Sys2Proof.Machine

variable {z : Ref}

theorem State.shipRow_keeps (hw : Frees z 0x400000000000000000000100010) (s : State) (h : ℕ) (i : ℕ) (l : ℕ) (o : ℕ) (bs : List (BitVec 8))  (hk : Kept z s) :
    Kept z (State.shipRow s h i l o bs) := by
  have w0 : Frees z 0x400000000000000000000100010 := hw.sub rfl
  unfold State.shipRow
  repeat' first
    | with_reducible assumption
    | extract_lets
    | intro _
    | split
    | with_reducible apply State.shipAt_keeps w0
    | with_reducible apply kept_if
    | with_reducible apply kept_foldl

theorem State.journalSlot_keeps (hw : Frees z 0x400000000000000000000900090) (s : State) (h : ℕ) (cls : ℕ) (node : ℕ) (page : ℕ)  (hk : Kept z s) :
    Kept z (State.journalSlot s h cls node page) := by
  have w0 : Frees z 0x80 := hw.sub rfl
  have w1 : Frees z 0x800000 := hw.sub rfl
  have w2 : Frees z 0x400000000000000000000100010 := hw.sub rfl
  unfold State.journalSlot
  repeat' first
    | with_reducible assumption
    | extract_lets
    | intro _
    | split
    | with_reducible apply State.modSeq_keeps w0
    | with_reducible apply State.modGrant_keeps w1
    | with_reducible apply State.shipIn_keeps w2
    | with_reducible apply kept_if
    | with_reducible apply kept_foldl

theorem State.shipToken_keeps (hw : Frees z 0x400000000000000000000900090) (s : State) (h : ℕ) (cls : ℕ) (node : ℕ) (pos : ℕ) (tok : BitVec 32)  (hk : Kept z s) :
    Kept z (State.shipToken s h cls node pos tok) := by
  have w0 : Frees z 0x400000000000000000000900090 := hw.sub rfl
  have w1 : Frees z 0x400000000000000000000100010 := hw.sub rfl
  unfold State.shipToken
  repeat' first
    | with_reducible assumption
    | extract_lets
    | intro _
    | split
    | with_reducible apply State.journalSlot_keeps w0
    | with_reducible apply State.shipIn_keeps w1
    | with_reducible apply kept_if
    | with_reducible apply kept_foldl

theorem State.shipTokens_keeps (hw : Frees z 0x400000000000000000000900090) (s : State) (h : ℕ) (cls : ℕ) (node : ℕ) (pos : ℕ) (x5 : List (BitVec 32))  (hk : Kept z s) :
    Kept z (State.shipTokens s h cls node pos x5) := by
  have w0 : Frees z 0x400000000000000000000900090 := hw.sub rfl
  induction x5 generalizing s h cls node pos with
  | nil =>
    unfold State.shipTokens
    repeat' first
      | with_reducible assumption
      | extract_lets
      | intro _
      | split
      | with_reducible apply State.shipToken_keeps w0
      | with_reducible apply kept_if
      | with_reducible apply kept_foldl
  | cons y ys ih =>
    unfold State.shipTokens
    repeat' first
      | with_reducible assumption
      | extract_lets
      | intro _
      | split
      | with_reducible apply ih
      | with_reducible refine KeptOpt.get ?_ (by with_reducible assumption)
      | with_reducible apply State.shipToken_keeps w0
      | with_reducible apply kept_if
      | with_reducible apply kept_foldl

theorem State.shipSlots_keeps (hw : Frees z 0x400000000000000000000100010) (s : State) (h : ℕ) (cls : ℕ) (node : ℕ) (first : ℕ) (q : Seq)  (hk : Kept z s) :
    Kept z (State.shipSlots s h cls node first q) := by
  have w0 : Frees z 0x400000000000000000000100010 := hw.sub rfl
  unfold State.shipSlots
  repeat' first
    | with_reducible assumption
    | extract_lets
    | intro _
    | split
    | with_reducible apply State.shipIn_keeps w0
    | with_reducible apply kept_if
    | with_reducible apply kept_foldl

theorem State.shipDescriptor_keeps (hw : Frees z 0x400000000000000000000100010) (s : State) (h : ℕ) (copy : ℕ)  (hk : Kept z s) :
    Kept z (State.shipDescriptor s h copy) := by
  have w0 : Frees z 0x400000000000000000000100010 := hw.sub rfl
  unfold State.shipDescriptor
  repeat' first
    | with_reducible assumption
    | extract_lets
    | intro _
    | split
    | with_reducible apply State.shipAt_keeps w0
    | with_reducible apply kept_if
    | with_reducible apply kept_foldl

theorem State.shipFree_keeps (hw : Frees z 0x400000000000000000000100010) (s : State) (h : ℕ) (node : ℕ) (q : Seq)  (hk : Kept z s) :
    Kept z (State.shipFree s h node q) := by
  have w0 : Frees z 0x400000000000000000000100010 := hw.sub rfl
  unfold State.shipFree
  repeat' first
    | with_reducible assumption
    | extract_lets
    | intro _
    | split
    | with_reducible apply State.shipAt_keeps w0
    | with_reducible apply kept_if
    | with_reducible apply kept_foldl

theorem State.shipRecord_keeps (hw : Frees z 0x400000000000000000000100010) (s : State) (node : ℕ) (p : ℕ) (c : Commit)  (hk : Kept z s) :
    Kept z (State.shipRecord s node p c) := by
  have w0 : Frees z 0x400000000000000000000100000 := hw.sub rfl
  have w1 : Frees z 0x400000000000000000000100010 := hw.sub rfl
  have w2 : Frees z 0x100000 := hw.sub rfl
  unfold State.shipRecord
  repeat' first
    | with_reducible assumption
    | extract_lets
    | intro _
    | split
    | with_reducible apply State.bulkConn_keeps w0
    | with_reducible refine State.bulkConn_gives w0 (by with_reducible assumption) ?_
    | with_reducible apply State.issue_keeps w1
    | with_reducible apply State.failLater_keeps w2
    | with_reducible apply State.shipAt_keeps w1
    | with_reducible apply kept_if
    | with_reducible apply kept_foldl
    | dsimp +zetaDelta only

theorem State.deferredDue_keeps (hw : Frees z 0x400000000000000000400900030) (s : State) (node : ℕ) (handle : ℕ) (pos : ℕ)  (hk : Kept z s) :
    Kept z (State.deferredDue s node handle pos) := by
  have w0 : Frees z 0x400000000000000000400100030 := hw.sub rfl
  have w1 : Frees z 0x800000 := hw.sub rfl
  unfold State.deferredDue
  repeat' first
    | with_reducible assumption
    | extract_lets
    | intro _
    | split
    | with_reducible apply State.replyTo_keeps w0
    | with_reducible apply kept_if
    | with_reducible apply kept_foldl
    | with_reducible refine upd_res w1 ?_

theorem State.keepJournal_keeps (hw : Frees z 0x400000000000000000400900030) (s : State) (node : ℕ) (handle : ℕ) (pos : ℕ) (tok : BitVec 32) (kind : ℕ)  (hk : Kept z s) :
    Kept z (State.keepJournal s node handle pos tok kind) := by
  have w0 : Frees z 0x400000000000000000400900030 := hw.sub rfl
  have w1 : Frees z 0x800000 := hw.sub rfl
  unfold State.keepJournal
  repeat' first
    | with_reducible assumption
    | extract_lets
    | intro _
    | split
    | with_reducible apply State.deferredDue_keeps w0
    | with_reducible apply kept_if
    | with_reducible apply kept_foldl
    | with_reducible refine upd_res w1 ?_

theorem State.shipRecordIn_keeps (hw : Frees z 0x400000000000000000400900030) (s : State) (cls : ℕ) (home : ℕ) (p : ℕ) (h : ℕ) (kind : ℕ) (pos : ℕ) (tok : ℕ)  (hk : Kept z s) :
    Kept z (State.shipRecordIn s cls home p h kind pos tok) := by
  have w0 : Frees z 0x400000000000000000400900030 := hw.sub rfl
  have w1 : Frees z 0x400000000000000000000100010 := hw.sub rfl
  have w2 : Frees z 0x800000 := hw.sub rfl
  unfold State.shipRecordIn
  repeat' first
    | with_reducible assumption
    | extract_lets
    | intro _
    | split
    | with_reducible apply State.keepJournal_keeps w0
    | with_reducible apply State.writeBulk_keeps w1
    | with_reducible apply kept_if
    | with_reducible apply kept_foldl
    | with_reducible refine upd_res w2 ?_

theorem State.shipJournal_keeps (hw : Frees z 0x400000000000000000400900030) (s : State) (p : ℕ) (h : ℕ) (kind : ℕ) (pos : ℕ) (tok : ℕ)  (hk : Kept z s) :
    Kept z (State.shipJournal s p h kind pos tok) := by
  have w0 : Frees z 0x400000000000000000400900030 := hw.sub rfl
  simp (maxDischargeDepth := 30) only [State.shipJournal, State.shipRecordIn_keeps w0, and_self, hk]

theorem State.shipJournals_keeps (hw : Frees z 0x400000000000000000400900030) (s : State) (p : ℕ) (h : ℕ) (kind : ℕ) (pos : ℕ) (x5 : List (BitVec 32))  (hk : Kept z s) :
    Kept z (State.shipJournals s p h kind pos x5) := by
  have w0 : Frees z 0x400000000000000000400900030 := hw.sub rfl
  induction x5 generalizing s p h kind pos with
  | nil =>
    unfold State.shipJournals
    repeat' first
      | with_reducible assumption
      | extract_lets
      | intro _
      | split
      | with_reducible apply State.shipJournal_keeps w0
      | with_reducible apply kept_if
      | with_reducible apply kept_foldl
  | cons y ys ih =>
    unfold State.shipJournals
    repeat' first
      | with_reducible assumption
      | extract_lets
      | intro _
      | split
      | with_reducible apply ih
      | with_reducible refine KeptOpt.get ?_ (by with_reducible assumption)
      | with_reducible apply State.shipJournal_keeps w0
      | with_reducible apply kept_if
      | with_reducible apply kept_foldl

theorem State.shipCommit_keeps (hw : Frees z 0x4000000000000000004009000b0) (s : State) (h : ℕ) (from_ : ℕ) (first : ℕ) (copy : ℕ)  (hk : Kept z s) :
    Kept z (State.shipCommit s h from_ first copy) := by
  have w0 : Frees z 0x400000000000000000000100010 := hw.sub rfl
  have w1 : Frees z 0x400000000000000000000900090 := hw.sub rfl
  have w2 : Frees z 0x400000000000000000400900030 := hw.sub rfl
  unfold State.shipCommit
  repeat' first
    | with_reducible assumption
    | extract_lets
    | intro _
    | split
    | with_reducible apply State.shipDescriptor_keeps w0
    | with_reducible apply State.shipSlots_keeps w0
    | with_reducible apply State.shipTokens_keeps w1
    | with_reducible apply State.shipJournals_keeps w2
    | with_reducible apply kept_if
    | with_reducible apply kept_foldl
    | dsimp +zetaDelta only

theorem State.markJournal_keeps (hw : Frees z 0x80) (s : State) (h : ℕ) (step : ℕ)  (hk : Kept z s) :
    Kept z (State.markJournal s h step) := by
  have w0 : Frees z 0x80 := hw.sub rfl
  unfold State.markJournal
  repeat' first
    | with_reducible assumption
    | extract_lets
    | intro _
    | split
    | with_reducible apply State.modSeq_keeps w0
    | with_reducible apply kept_if
    | with_reducible apply kept_foldl

theorem State.shipPrompt_keeps (hw : Frees z 0x4000000000000000004009000b0) (s : State) (h : ℕ) (pos : ℕ) (toks : List (BitVec 32))  (hk : Kept z s) :
    Kept z (State.shipPrompt s h pos toks) := by
  have w0 : Frees z 0x400000000000000000000900090 := hw.sub rfl
  have w1 : Frees z 0x80 := hw.sub rfl
  have w2 : Frees z 0x400000000000000000400900030 := hw.sub rfl
  unfold State.shipPrompt
  repeat' first
    | with_reducible assumption
    | extract_lets
    | intro _
    | split
    | with_reducible apply State.shipTokens_keeps w0
    | with_reducible apply State.markJournal_keeps w1
    | with_reducible apply State.shipJournals_keeps w2
    | with_reducible apply kept_if
    | with_reducible apply kept_foldl
    | dsimp +zetaDelta only

theorem State.reshipJournal_keeps (hw : Frees z 0x400000000000000000400900030) (s : State) (h : ℕ) (q : Seq)  (hk : Kept z s) :
    Kept z (State.reshipJournal s h q) := by
  have w0 : Frees z 0x400000000000000000400900030 := hw.sub rfl
  unfold State.reshipJournal
  repeat' first
    | with_reducible assumption
    | extract_lets
    | intro _
    | split
    | with_reducible apply State.shipRecordIn_keeps w0
    | with_reducible apply kept_if
    | with_reducible apply kept_foldl

theorem State.reshipJournals_keeps (hw : Frees z 0x400000000000000000400900030) (s : State)  (hk : Kept z s) :
    Kept z (State.reshipJournals s) := by
  have w0 : Frees z 0x400000000000000000400900030 := hw.sub rfl
  have w1 : Frees z 0x800000 := hw.sub rfl
  unfold State.reshipJournals
  repeat' first
    | with_reducible assumption
    | extract_lets
    | intro _
    | split
    | with_reducible apply State.reshipJournal_keeps w0
    | with_reducible apply kept_if
    | with_reducible apply kept_foldl
    | with_reducible refine upd_res w1 ?_

theorem State.leavePartner_keeps (hw : Frees z 0x400000000000000000000900010) (s : State) (h : ℕ) (node : ℕ) (slots : List ℕ) (q : Seq)  (hk : Kept z s) :
    Kept z (State.leavePartner s h node slots q) := by
  have w0 : Frees z 0x400000000000000000000900010 := hw.sub rfl
  have w1 : Frees z 0x400000000000000000000100010 := hw.sub rfl
  simp (maxDischargeDepth := 30) only [State.leavePartner, State.dropSlots_keeps w0, State.shipFree_keeps w1, and_self, hk]

theorem State.dropMirror_keeps (hw : Frees z 0x400000000000000000000900090) (s : State) (h : ℕ)  (hk : Kept z s) :
    Kept z (State.dropMirror s h) := by
  have w0 : Frees z 0x400000000000000000000900010 := hw.sub rfl
  have w1 : Frees z 0x80 := hw.sub rfl
  unfold State.dropMirror
  repeat' first
    | with_reducible refine keptOpt_map ?_
    | with_reducible assumption
    | extract_lets
    | intro _
    | split
    | with_reducible apply State.leavePartner_keeps w0
    | with_reducible apply State.modSeq_keeps w1
    | with_reducible apply kept_if
    | with_reducible apply kept_foldl
    | dsimp +zetaDelta only

theorem State.dropPages_keeps (hw : Frees z 0x400000000000000000000900090) (s : State) (h : ℕ)  (hk : Kept z s) :
    Kept z (State.dropPages s h) := by
  have w0 : Frees z 0x400000000000000000000900010 := hw.sub rfl
  have w1 : Frees z 0x80 := hw.sub rfl
  unfold State.dropPages
  repeat' first
    | with_reducible refine keptOpt_map ?_
    | with_reducible assumption
    | extract_lets
    | intro _
    | split
    | with_reducible apply State.dropSlots_keeps w0
    | with_reducible apply State.modSeq_keeps w1
    | with_reducible apply kept_if
    | with_reducible apply kept_foldl
    | dsimp +zetaDelta only

theorem State.freeSeq_keeps (hw : Frees z 0x4000e98000000000208009071d0) (s : State) (h : ℕ)  (hk : Kept z s) :
    Kept z (State.freeSeq s h) := by
  have w0 : Frees z 0xe9800000000020800000000 := hw.sub rfl
  have w1 : Frees z 0xc0 := hw.sub rfl
  have w2 : Frees z 0x400000000000000000000900090 := hw.sub rfl
  have w3 : Frees z 0x400000000000000000000907190 := hw.sub rfl
  simp (maxDischargeDepth := 30) only [State.freeSeq, State.noteTiers_keeps w0, State.freeHandle_keeps w1, State.dropMirror_keeps w2, State.releaseAll_keeps w3, and_self, hk]

end Sys2Proof.Machine
end

