-- ==== Sys2Proof/Laws/KeepsRelease.lean ====
section
/-! SUPPORT. Every operation of Machine/Release.lean keeps the queue, the canonical forms and every piece that it does not touch. -/

set_option Elab.async false
set_option linter.unusedSimpArgs false
set_option linter.unusedTactic false
set_option linter.unreachableTactic false

namespace Sys2Proof.Machine

variable {z : Ref}

theorem State.putRec_keeps (hw : Frees z 0x400000000000000000000100030) (s : State) (ring : ℕ) (r : TokRec)  (hk : Kept z s) :
    Kept z (State.putRec s ring r) := by
  have w0 : Frees z 0x400000000000000000000100010 := hw.sub rfl
  have w1 : Frees z 0x30 := hw.sub rfl
  have w2 : Frees z 0x20 := hw.sub rfl
  have w3 : Frees z 0x10 := hw.sub rfl
  unfold State.putRec
  repeat' first
    | with_reducible assumption
    | extract_lets
    | intro _
    | split
    | with_reducible apply State.shipEntry_keeps w0
    | with_reducible apply State.noteEntry_keeps w1
    | with_reducible apply State.modQueue_keeps w2
    | with_reducible apply State.emit_keeps w3
    | with_reducible apply kept_if
    | with_reducible apply kept_foldl

theorem State.setHeld_keeps (hw : Frees z 0x20) (s : State) (p : ℕ) (l : List (ℕ × List TokRec))  (hk : Kept z s) :
    Kept z (State.setHeld s p l) := by
  have w0 : Frees z 0x20 := hw.sub rfl
  simp (maxDischargeDepth := 30) only [State.setHeld, upd_buhorn w0, and_self, hk]

theorem State.putRecs_keeps (hw : Frees z 0x400000000000000000000100030) (s : State) (p : ℕ) (l : List TokRec)  (hk : Kept z s) :
    Kept z (State.putRecs s p l) := by
  have w0 : Frees z 0x400000000000000000000100030 := hw.sub rfl
  unfold State.putRecs
  repeat' first
    | with_reducible assumption
    | extract_lets
    | intro _
    | split
    | with_reducible apply State.putRec_keeps w0
    | with_reducible apply kept_if
    | with_reducible apply kept_foldl

theorem State.releaseRecs_keeps (hw : Frees z 0x400000000000000000000100030) (s : State) (p : ℕ) (l : List (ℕ × List TokRec))  (hk : Kept z s) :
    Kept z (State.releaseRecs s p l) := by
  have w0 : Frees z 0x20 := hw.sub rfl
  have w1 : Frees z 0x400000000000000000000100030 := hw.sub rfl
  unfold State.releaseRecs
  repeat' first
    | with_reducible assumption
    | extract_lets
    | intro _
    | split
    | with_reducible apply State.setHeld_keeps w0
    | with_reducible apply State.putRecs_keeps w1
    | with_reducible apply kept_if
    | with_reducible apply kept_foldl

theorem State.drainRecs_keeps (hw : Frees z 0x400000000000000000000100030) (s : State) (p : ℕ)  (hk : Kept z s) :
    Kept z (State.drainRecs s p) := by
  have w0 : Frees z 0x400000000000000000000100030 := hw.sub rfl
  have w1 : Frees z 0x20 := hw.sub rfl
  unfold State.drainRecs
  repeat' first
    | with_reducible assumption
    | extract_lets
    | intro _
    | split
    | with_reducible apply State.releaseRecs_keeps w0
    | with_reducible apply State.setHeld_keeps w1
    | with_reducible apply kept_if
    | with_reducible apply kept_foldl

theorem State.releaseReplies_keeps (hw : Frees z 0x400000000000000000500100030) (s : State) (p : ℕ)  (hk : Kept z s) :
    Kept z (State.releaseReplies s p) := by
  have w0 : Frees z 0x400000000000000000500100030 := hw.sub rfl
  unfold State.releaseReplies
  repeat' first
    | with_reducible assumption
    | extract_lets
    | intro _
    | split
    | with_reducible apply State.finish_keeps w0
    | with_reducible apply kept_if
    | with_reducible apply kept_foldl

theorem State.releaseCommit_keeps (hw : Frees z 0x400000000000000000000100130) (s : State) (p : ℕ) (c : Commit)  (hk : Kept z s) :
    Kept z (State.releaseCommit s p c) := by
  have w0 : Frees z 0x100 := hw.sub rfl
  have w1 : Frees z 0x400000000000000000000100030 := hw.sub rfl
  unfold State.releaseCommit
  repeat' first
    | with_reducible refine keptOpt_map ?_
    | with_reducible assumption
    | extract_lets
    | intro _
    | split
    | with_reducible apply State.modPart_keeps w0
    | with_reducible apply State.releaseRecs_keeps w1
    | with_reducible apply kept_if
    | with_reducible apply kept_foldl

theorem State.freeClosed_keeps (hw : Frees z 0x4000e98000000000208009071d0) (s : State) (p : ℕ)  (hk : Kept z s) :
    Kept z (State.freeClosed s p) := by
  have w0 : Frees z 0x4000e98000000000208009071d0 := hw.sub rfl
  unfold State.freeClosed
  repeat' first
    | with_reducible assumption
    | extract_lets
    | intro _
    | split
    | with_reducible apply State.freeSeq_keeps w0
    | with_reducible apply kept_if
    | with_reducible apply kept_foldl

theorem State.closeSeq_keeps (hw : Frees z 0x4000e98000000000208009071d0) (s : State) (p : ℕ) (h : ℕ)  (hk : Kept z s) :
    Kept z (State.closeSeq s p h) := by
  have w0 : Frees z 0x4000e98000000000208009071d0 := hw.sub rfl
  have w1 : Frees z 0x1080 := hw.sub rfl
  simp (maxDischargeDepth := 30) only [State.closeSeq, State.freeClosed_keeps w0, State.become_keeps w1, and_self, hk]

theorem State.release_keeps (hw : Frees z 0x4000e9800000000020d009071f0) (s : State) (p : ℕ)  (hk : Kept z s) :
    Kept z (State.release s p) := by
  have w0 : Frees z 0x400000000000000000000100130 := hw.sub rfl
  have w1 : Frees z 0x400000000000000000500100030 := hw.sub rfl
  have w2 : Frees z 0x4000e98000000000208009071d0 := hw.sub rfl
  have w3 : Frees z 0x100 := hw.sub rfl
  unfold State.release
  repeat' first
    | with_reducible assumption
    | extract_lets
    | intro _
    | split
    | with_reducible apply State.releaseCommit_keeps w0
    | with_reducible apply State.releaseReplies_keeps w1
    | with_reducible apply State.freeClosed_keeps w2
    | with_reducible apply State.modPart_keeps w3
    | with_reducible apply kept_if
    | with_reducible apply kept_foldl

theorem State.afterRelease_keeps (hw : Frees z 0x400000000000000000500100030) (s : State) (d : Pend) (status : ℕ) (detail : ℕ) (result : ℕ)  (hk : Kept z s) :
    Kept z (State.afterRelease s d status detail result) := by
  have w0 : Frees z 0x20 := hw.sub rfl
  have w1 : Frees z 0x400000000000000000500100030 := hw.sub rfl
  unfold State.afterRelease
  repeat' first
    | with_reducible assumption
    | extract_lets
    | intro _
    | split
    | with_reducible apply State.modCmd_keeps w0
    | with_reducible apply State.releaseReplies_keeps w1
    | with_reducible apply kept_if
    | with_reducible apply kept_foldl

theorem State.afterRecords_keeps (hw : Frees z 0x400000000000000000500100030) (s : State) (d : Pend) (status : ℕ) (detail : ℕ) (result : ℕ)  (hk : Kept z s) :
    Kept z (State.afterRecords s d status detail result) := by
  have w0 : Frees z 0x20 := hw.sub rfl
  have w1 : Frees z 0x400000000000000000500100030 := hw.sub rfl
  unfold State.afterRecords
  repeat' first
    | with_reducible assumption
    | extract_lets
    | intro _
    | split
    | with_reducible apply State.modCmd_keeps w0
    | with_reducible apply State.releaseReplies_keeps w1
    | with_reducible apply kept_if
    | with_reducible apply kept_foldl

theorem State.afterFree_keeps (hw : Frees z 0x400000000000000000500100030) (s : State) (d : Pend)  (hk : Kept z s) :
    Kept z (State.afterFree s d) := by
  have w0 : Frees z 0x400000000000000000500100030 := hw.sub rfl
  have w1 : Frees z 0x20 := hw.sub rfl
  unfold State.afterFree
  repeat' first
    | with_reducible assumption
    | extract_lets
    | intro _
    | split
    | with_reducible apply State.releaseReplies_keeps w0
    | with_reducible apply State.modCmd_keeps w1
    | with_reducible apply kept_if
    | with_reducible apply kept_foldl

theorem State.freeAcked_keeps (hw : Frees z 0x400000000000000000500100030) (s : State) (h : ℕ)  (hk : Kept z s) :
    Kept z (State.freeAcked s h) := by
  have w0 : Frees z 0x400000000000000000500100030 := hw.sub rfl
  unfold State.freeAcked
  repeat' first
    | with_reducible assumption
    | extract_lets
    | intro _
    | split
    | with_reducible apply State.releaseReplies_keeps w0
    | with_reducible apply kept_if
    | with_reducible apply kept_foldl

theorem State.conclude_keeps (hw : Frees z 0x400000000000000000500100030) (s : State) (d : Pend) (status : ℕ) (detail : ℕ) (result : ℕ)  (hk : Kept z s) :
    Kept z (State.conclude s d status detail result) := by
  have w0 : Frees z 0x400000000000000000500100030 := hw.sub rfl
  unfold State.conclude
  repeat' first
    | with_reducible assumption
    | extract_lets
    | intro _
    | split
    | with_reducible apply State.finish_keeps w0
    | with_reducible apply State.afterRelease_keeps w0
    | with_reducible apply kept_if
    | with_reducible apply kept_foldl

theorem State.addRecs_keeps (hw : Frees z 0x400000000000000000000100130) (s : State) (p : ℕ) (h : ℕ) (l : List TokRec)  (hk : Kept z s) :
    Kept z (State.addRecs s p h l) := by
  have w0 : Frees z 0x100 := hw.sub rfl
  have w1 : Frees z 0x400000000000000000000100030 := hw.sub rfl
  unfold State.addRecs
  repeat' first
    | with_reducible refine keptOpt_map ?_
    | with_reducible assumption
    | extract_lets
    | intro _
    | split
    | with_reducible apply State.modPart_keeps w0
    | with_reducible apply State.releaseRecs_keeps w1
    | with_reducible apply kept_if
    | with_reducible apply kept_foldl

theorem State.endEnables_keeps (hw : Frees z 0x400000000000000000500100030) (s : State) (p : ℕ) (h : ℕ)  (hk : Kept z s) :
    Kept z (State.endEnables s p h) := by
  have w0 : Frees z 0x400000000000000000500100030 := hw.sub rfl
  unfold State.endEnables
  repeat' first
    | with_reducible assumption
    | extract_lets
    | intro _
    | split
    | with_reducible apply State.afterRelease_keeps w0
    | with_reducible apply kept_if
    | with_reducible apply kept_foldl

theorem State.endPrompts_keeps (hw : Frees z 0x400000000000000000500100030) (s : State) (p : ℕ) (h : ℕ) (length : ℕ)  (hk : Kept z s) :
    Kept z (State.endPrompts s p h length) := by
  have w0 : Frees z 0x400000000000000000500100030 := hw.sub rfl
  unfold State.endPrompts
  repeat' first
    | with_reducible assumption
    | extract_lets
    | intro _
    | split
    | with_reducible apply State.afterRelease_keeps w0
    | with_reducible apply kept_if
    | with_reducible apply kept_foldl

theorem State.markRebuilt_keeps (hw : Frees z 0x20) (s : State) (p : ℕ) (h : ℕ)  (hk : Kept z s) :
    Kept z (State.markRebuilt s p h) := by
  have w0 : Frees z 0x20 := hw.sub rfl
  simp (maxDischargeDepth := 30) only [State.markRebuilt, upd_buhorn w0, and_self, hk]

theorem State.makeDone_keeps (hw : Frees z 0x4000000000000000005001011b0) (s : State) (p : ℕ) (h : ℕ) (reason : ℕ)  (hk : Kept z s) :
    Kept z (State.makeDone s p h reason) := by
  have w0 : Frees z 0x1080 := hw.sub rfl
  have w1 : Frees z 0x80 := hw.sub rfl
  have w2 : Frees z 0x400000000000000000000100130 := hw.sub rfl
  have w3 : Frees z 0x400000000000000000500100030 := hw.sub rfl
  unfold State.makeDone
  repeat' first
    | with_reducible assumption
    | extract_lets
    | intro _
    | split
    | with_reducible apply State.become_keeps w0
    | with_reducible apply State.modSeq_keeps w1
    | with_reducible apply State.addRecs_keeps w2
    | with_reducible apply State.endEnables_keeps w3
    | with_reducible apply State.endPrompts_keeps w3
    | with_reducible apply kept_if
    | with_reducible apply kept_foldl

theorem State.renewGroup_keeps (hw : Frees z 0x400000000000000000000907190) (s : State) (h : ℕ) (i : ℕ)  (hk : Kept z s) :
    Kept z (State.renewGroup s h i) := by
  have w0 : Frees z 0x400000000000000000000907190 := hw.sub rfl
  have w1 : Frees z 0x807180 := hw.sub rfl
  unfold State.renewGroup
  have k := State.releaseAt_keeps w0 s h i hk
  exact (State.assignGroup_keeps w1 _ h i k).getD k

theorem State.toRebuild_keeps (hw : Frees z 0x4000000000000000000009071b0) (s : State) (h : ℕ)  (hk : Kept z s) :
    Kept z (State.toRebuild s h) := by
  have w0 : Frees z 0x80 := hw.sub rfl
  have w1 : Frees z 0x1080 := hw.sub rfl
  have w2 : Frees z 0x20 := hw.sub rfl
  have w3 : Frees z 0x400000000000000000000907190 := hw.sub rfl
  unfold State.toRebuild
  repeat' first
    | with_reducible assumption
    | extract_lets
    | intro _
    | split
    | with_reducible apply State.modSeq_keeps w0
    | with_reducible apply State.become_keeps w1
    | with_reducible apply State.markRebuilt_keeps w2
    | with_reducible apply State.renewGroup_keeps w3
    | with_reducible apply kept_if
    | with_reducible apply kept_foldl
    | dsimp +zetaDelta only

end Sys2Proof.Machine
end

