-- ==== Sys2Proof/Laws/KeepsBuhorn.lean ====
section
/-! SUPPORT. Every operation of Machine/Buhorn.lean keeps the queue, the canonical forms and every piece that it does not touch. -/

set_option Elab.async false
set_option linter.unusedSimpArgs false
set_option linter.unusedTactic false
set_option linter.unreachableTactic false

namespace Sys2Proof.Machine

variable {z : Ref}

theorem State.noteFault_keeps (hw : Frees z 0x80000000) (s : State) (fn : ℕ) (q : ℕ) (cause : ℕ) (position : ℕ)  (hk : Kept z s) :
    Kept z (State.noteFault s fn q cause position) := by
  have w0 : Frees z (Field.bit cmdQfault_position) := hw.sub rfl
  have w1 : Frees z (Field.bit cmdQfault_cause) := hw.sub rfl
  have w2 : Frees z (Field.bit cmdQfault_queue) := hw.sub rfl
  have w3 : Frees z (Field.bit cmdQfault_count) := hw.sub rfl
  simp (maxDischargeDepth := 30) only [State.noteFault, (State.setFld_keeps (hw := w0)), (State.setFld_keeps (hw := w1)), (State.setFld_keeps (hw := w2)), (State.bump_keeps (hw := w3)), and_self, hk]

theorem State.faultQueue_keeps (hw : Frees z 0x90000020) (s : State) (q : ℕ) (cause : ℕ) (position : ℕ)  (hk : Kept z s) :
    Kept z (State.faultQueue s q cause position) := by
  have w0 : Frees z 0x80000000 := hw.sub rfl
  have w1 : Frees z 0x20 := hw.sub rfl
  have w2 : Frees z (Field.bit cmdAdmqCtrl_fault) := hw.sub rfl
  unfold State.faultQueue
  repeat' first
    | with_reducible assumption
    | extract_lets
    | intro _
    | split
    | with_reducible apply State.noteFault_keeps w0
    | with_reducible apply State.modQueue_keeps w1
    | with_reducible apply State.setFlag_keeps (hw := w2)
    | with_reducible apply kept_if
    | with_reducible apply kept_foldl

theorem State.ringTail_keeps (hw : Frees z 0x90000020) (s : State) (q : ℕ) (index : ℕ)  (hk : Kept z s) :
    Kept z (State.ringTail s q index) := by
  have w0 : Frees z 0x90000020 := hw.sub rfl
  have w1 : Frees z 0x20 := hw.sub rfl
  unfold State.ringTail
  repeat' first
    | with_reducible assumption
    | extract_lets
    | intro _
    | split
    | with_reducible apply State.faultQueue_keeps w0
    | with_reducible apply State.modQueue_keeps w1
    | with_reducible apply kept_if
    | with_reducible apply kept_foldl

theorem State.drainQueue_keeps (hw : Frees z 0x400000000000000000500100030) (s : State) (q : ℕ) (x : Queue)  (hk : Kept z s) :
    Kept z (State.drainQueue s q x) := by
  have w0 : Frees z 0x400000000000000000500100030 := hw.sub rfl
  have w1 : Frees z 0x400000000000000000000100030 := hw.sub rfl
  have w2 : Frees z 0x400000000000000000100100030 := hw.sub rfl
  unfold State.drainQueue
  repeat' first
    | with_reducible assumption
    | extract_lets
    | intro _
    | split
    | with_reducible apply State.releaseReplies_keeps w0
    | with_reducible apply State.drainRecs_keeps w1
    | with_reducible apply State.endDeletes_keeps w0
    | with_reducible apply State.drainReplies_keeps w2
    | with_reducible apply kept_if
    | with_reducible apply kept_foldl

theorem State.ringHead_keeps (hw : Frees z 0x400000000000000000590100030) (s : State) (q : ℕ) (index : ℕ)  (hk : Kept z s) :
    Kept z (State.ringHead s q index) := by
  have w0 : Frees z 0x90000020 := hw.sub rfl
  have w1 : Frees z 0x400000000000000000500100030 := hw.sub rfl
  have w2 : Frees z 0x20 := hw.sub rfl
  unfold State.ringHead
  repeat' first
    | with_reducible assumption
    | extract_lets
    | intro _
    | split
    | with_reducible apply State.faultQueue_keeps w0
    | with_reducible apply State.drainQueue_keeps w1
    | with_reducible apply State.modQueue_keeps w2
    | with_reducible apply kept_if
    | with_reducible apply kept_foldl

theorem execCmdDbTail_keeps (hw : Frees z 0x90000020) (fn : Fn) (q : BitVec 8) (index : BitVec 16) (s : State)  (hk : Kept z s) :
    KeptOut z (execCmdDbTail fn q index s) := by
  have w0 : Frees z 0x0 := hw.sub rfl
  have w1 : Frees z 0x90000020 := hw.sub rfl
  simp (maxDischargeDepth := 30) +contextual only [execCmdDbTail, keptOut_next, State.whenLive_keeps w0, State.ringTail_keeps w1, and_self, kept_foldl, kept_ite, implies_true, hk]

theorem execCmdDbHead_keeps (hw : Frees z 0x400000000000000000590100030) (fn : Fn) (q : BitVec 8) (index : BitVec 16) (s : State)  (hk : Kept z s) :
    KeptOut z (execCmdDbHead fn q index s) := by
  have w0 : Frees z 0x0 := hw.sub rfl
  have w1 : Frees z 0x400000000000000000590100030 := hw.sub rfl
  simp (maxDischargeDepth := 30) +contextual only [execCmdDbHead, keptOut_next, State.whenLive_keeps w0, State.ringHead_keeps w1, and_self, kept_foldl, kept_ite, implies_true, hk]

theorem State.writeSlot_keeps (hw : Frees z 0x20) (s : State) (fn : ℕ) (w : SlotWrite)  (hk : Kept z s) :
    Kept z (State.writeSlot s fn w) := by
  have w0 : Frees z 0x20 := hw.sub rfl
  unfold State.writeSlot
  repeat' first
    | with_reducible assumption
    | extract_lets
    | intro _
    | split
    | with_reducible apply kept_if
    | with_reducible apply kept_foldl
    | with_reducible refine upd_buhorn w0 ?_

theorem State.fetchBurst_keeps (hw : Frees z 0x400000000000000000000100030) (s : State) (q : ℕ) (x : Queue)  (hk : Kept z s) :
    Kept z (State.fetchBurst s q x) := by
  have w0 : Frees z 0x20 := hw.sub rfl
  have w1 : Frees z 0x400000000000000000000100010 := hw.sub rfl
  have w2 : Frees z 0x10 := hw.sub rfl
  unfold State.fetchBurst
  repeat' first
    | with_reducible refine keptOpt_map ?_
    | with_reducible assumption
    | extract_lets
    | intro _
    | split
    | with_reducible apply State.modQueue_keeps w0
    | with_reducible apply State.readBulk_keeps w1
    | with_reducible apply State.emit_keeps w2
    | with_reducible apply kept_if
    | with_reducible apply kept_foldl

theorem State.fetchNext_keeps (hw : Frees z 0x400000000000000000000100030) (s : State) (fn : ℕ)  (hk : Kept z s) :
    Kept z (State.fetchNext s fn) := by
  have w0 : Frees z 0x400000000000000000000100030 := hw.sub rfl
  have w1 : Frees z 0x20 := hw.sub rfl
  unfold State.fetchNext
  repeat' first
    | with_reducible assumption
    | extract_lets
    | intro _
    | split
    | with_reducible apply State.fetchBurst_keeps w0
    | with_reducible apply kept_if
    | with_reducible apply kept_foldl
    | with_reducible refine upd_buhorn w1 ?_

theorem execCommandFetch_keeps (hw : Frees z 0x400000000000000000000100030) (who : Fn) (writes : List SlotWrite) (s : State)  (hk : Kept z s) :
    KeptOut z (execCommandFetch who writes s) := by
  have w0 : Frees z 0x0 := hw.sub rfl
  have w1 : Frees z 0x400000000000000000000100030 := hw.sub rfl
  have w2 : Frees z 0x20 := hw.sub rfl
  simp (maxDischargeDepth := 30) +contextual only [execCommandFetch, keptOut_next, State.whenLive_keeps w0, State.fetchNext_keeps w1, State.writeSlot_keeps w2, and_self, kept_foldl, kept_ite, implies_true, hk]

theorem State.packetsArrive_keeps (hw : Frees z 0x20) (s : State) (q : ℕ) (ps : List Packet)  (hk : Kept z s) :
    Kept z (State.packetsArrive s q ps) := by
  have w0 : Frees z 0x20 := hw.sub rfl
  simp (maxDischargeDepth := 30) only [State.packetsArrive, State.modQueue_keeps w0, and_self, hk]

theorem State.packetsFail_keeps (hw : Frees z 0x90000020) (s : State) (q : ℕ) (cause : ℕ)  (hk : Kept z s) :
    Kept z (State.packetsFail s q cause) := by
  have w0 : Frees z 0x90000020 := hw.sub rfl
  have w1 : Frees z 0x20 := hw.sub rfl
  unfold State.packetsFail
  repeat' first
    | with_reducible assumption
    | extract_lets
    | intro _
    | split
    | with_reducible apply State.faultQueue_keeps w0
    | with_reducible apply State.modQueue_keeps w1
    | with_reducible apply kept_if
    | with_reducible apply kept_foldl

theorem State.addQueue_keeps (hw : Frees z 0x20) (s : State) (q : ℕ) (x : Queue)  (hk : Kept z s) :
    Kept z (State.addQueue s q x) := by
  have w0 : Frees z 0x20 := hw.sub rfl
  simp (maxDischargeDepth := 30) only [State.addQueue, upd_buhorn w0, and_self, hk]

theorem State.openPair_keeps (hw : Frees z 0x10000020) (s : State) (fn : ℕ)  (hk : Kept z s) :
    Kept z (State.openPair s fn) := by
  have w0 : Frees z (Field.bit cmdAdmqCtrl_fault) := hw.sub rfl
  have w1 : Frees z 0x20 := hw.sub rfl
  unfold State.openPair
  repeat' first
    | with_reducible assumption
    | extract_lets
    | intro _
    | split
    | with_reducible apply State.setFlag_keeps (hw := w0)
    | with_reducible apply State.addQueue_keeps w1
    | with_reducible apply kept_if
    | with_reducible apply kept_foldl

theorem State.writeAdmq_keeps (hw : Frees z 0x10000020) (s : State) (writer : ℕ) (fn : ℕ) (l : Lane) (v : BitVec 64)  (hk : Kept z s) :
    Kept z (State.writeAdmq s writer fn l v) := by
  have w0 : Frees z (Reg.bit .cmdAdmqCtrl) := hw.sub rfl
  have w1 : Frees z 0x10000020 := hw.sub rfl
  have w2 : Frees z (Field.bit cmdAdmqCtrl_fault) := hw.sub rfl
  have w3 : Frees z (Field.bit cmdAdmqCtrl_enable) := hw.sub rfl
  unfold State.writeAdmq
  repeat' first
    | with_reducible assumption
    | extract_lets
    | intro _
    | split
    | with_reducible apply State.writeFields_keeps (hw := w0)
    | with_reducible apply State.openPair_keeps w1
    | with_reducible apply State.setFlag_keeps (hw := w2)
    | with_reducible apply State.setFlag_keeps (hw := w3)
    | with_reducible apply kept_if
    | with_reducible apply kept_foldl

theorem execCmdAdmqCtrlWrite_keeps (hw : Frees z 0x10000020) (fn : Fn) (lane : Lane) (v : BitVec 64) (s : State)  (hk : Kept z s) :
    KeptOut z (execCmdAdmqCtrlWrite fn lane v s) := by
  have w0 : Frees z 0x0 := hw.sub rfl
  have w1 : Frees z 0x10000020 := hw.sub rfl
  simp (maxDischargeDepth := 30) +contextual only [execCmdAdmqCtrlWrite, keptOut_next, State.whenKept_keeps w0, State.writeAdmq_keeps w1, and_self, kept_foldl, kept_ite, implies_true, hk]

theorem effQueueCreate_keeps (hw : Frees z 0x400000000000000000500100030) (d : Pend) (s : State)  (hk : Kept z s) :
    Kept z (effQueueCreate d s) := by
  have w0 : Frees z 0x400000000000000000500100030 := hw.sub rfl
  have w1 : Frees z 0x20 := hw.sub rfl
  unfold effQueueCreate
  repeat' first
    | with_reducible assumption
    | extract_lets
    | intro _
    | split
    | with_reducible apply State.finish_keeps w0
    | with_reducible apply State.drainQueue_keeps w0
    | with_reducible apply State.addQueue_keeps w1
    | with_reducible apply kept_if
    | with_reducible apply kept_foldl

theorem execQueueCreate_keeps (hw : Frees z 0x80000000000000400000000000000000501100030) (c : Cmd) (s : State)  (hk : Kept z s) :
    KeptOut z (execQueueCreate c s) := by
  have w0 : Frees z 0x80000000000000400000000000000000501100030 := hw.sub rfl
  have w1 : Frees z 0x400000000000000000500100030 := hw.sub rfl
  simp (maxDischargeDepth := 30) +contextual only [execQueueCreate, keptOut_next, State.plain_keeps w0, effQueueCreate_keeps w1, and_self, kept_foldl, kept_ite, implies_true, hk]

theorem State.dropQueue_keeps (hw : Frees z 0x100000020) (s : State) (q : ℕ)  (hk : Kept z s) :
    Kept z (State.dropQueue s q) := by
  have w0 : Frees z 0x100000000 := hw.sub rfl
  have w1 : Frees z 0x20 := hw.sub rfl
  unfold State.dropQueue
  repeat' first
    | with_reducible assumption
    | extract_lets
    | intro _
    | split
    | with_reducible apply State.noteInflight_keeps w0
    | with_reducible apply kept_if
    | with_reducible apply kept_foldl
    | with_reducible refine upd_buhorn w1 ?_

theorem effQueueDelete_keeps (hw : Frees z 0x400000000000000000500100030) (d : Pend) (s : State)  (hk : Kept z s) :
    Kept z (effQueueDelete d s) := by
  have w0 : Frees z 0x400000000000000000500100030 := hw.sub rfl
  have w1 : Frees z 0x20 := hw.sub rfl
  have w2 : Frees z 0x100000020 := hw.sub rfl
  unfold effQueueDelete
  (repeat' split) <;> simp (maxDischargeDepth := 30) only [State.finish_keeps w0, State.await_keeps w1, State.modQueue_keeps w1, State.endDelete_keeps w0, State.dropQueue_keeps w2, and_self, *]

theorem execQueueDelete_keeps (hw : Frees z 0x80000000000000400000000000000000501100030) (c : Cmd) (s : State)  (hk : Kept z s) :
    KeptOut z (execQueueDelete c s) := by
  have w0 : Frees z 0x80000000000000400000000000000000501100030 := hw.sub rfl
  have w1 : Frees z 0x400000000000000000500100030 := hw.sub rfl
  simp (maxDischargeDepth := 30) +contextual only [execQueueDelete, keptOut_next, State.plain_keeps w0, effQueueDelete_keeps w1, and_self, kept_foldl, kept_ite, implies_true, hk]

end Sys2Proof.Machine
end

