-- ==== Sys2Proof/Laws/KeepsPlan.lean ====
section
/-! SUPPORT. Every operation of Machine/Plan.lean keeps the queue, the canonical forms and every piece that it does not touch. -/

set_option Elab.async false
set_option linter.unusedSimpArgs false
set_option linter.unusedTactic false
set_option linter.unreachableTactic false

namespace Sys2Proof.Machine

variable {z : Ref}

theorem classPointField_reg (c : Nat) : (classPointField c).bit = Reg.bit .pwrClassPoint := by
  unfold classPointField
  split <;> rfl

theorem State.lowerCore_keeps (hw : Frees z 0x1000010) (s : State) (p : ℕ)  (hk : Kept z s) :
    Kept z (State.lowerCore s p) := by
  have w0 : Frees z 0x10 := hw.sub rfl
  have w1 : Frees z 0x1000000 := hw.sub rfl
  unfold State.lowerCore
  repeat' first
    | with_reducible assumption
    | extract_lets
    | intro _
    | split
    | with_reducible apply State.emit_keeps w0
    | with_reducible apply kept_if
    | with_reducible apply kept_foldl
    | with_reducible refine upd_pwr w1 ?_

theorem State.notePoints_keeps (hw : Frees z 0x80000000000000000000000000000000000000000) (s : State)  (hk : Kept z s) :
    Kept z (State.notePoints s) := by
  have w0 : Frees z (Field.bit pwrDomStat_point) := hw.sub rfl
  unfold State.notePoints
  repeat' first
    | with_reducible assumption
    | extract_lets
    | intro _
    | split
    | with_reducible apply State.setFld_keeps (hw := w0)
    | with_reducible apply kept_if
    | with_reducible apply kept_foldl

theorem State.setMem_keeps (hw : Frees z 0x1000010) (s : State) (m : ℕ)  (hk : Kept z s) :
    Kept z (State.setMem s m) := by
  have w0 : Frees z 0x10 := hw.sub rfl
  have w1 : Frees z 0x1000000 := hw.sub rfl
  unfold State.setMem
  repeat' first
    | with_reducible assumption
    | extract_lets
    | intro _
    | split
    | with_reducible apply State.emit_keeps w0
    | with_reducible apply kept_if
    | with_reducible apply kept_foldl
    | with_reducible refine upd_pwr w1 ?_

theorem State.dropRaise_keeps (hw : Frees z 0x1000010) (s : State) (top : ℕ)  (hk : Kept z s) :
    Kept z (State.dropRaise s top) := by
  have w0 : Frees z 0x1000010 := hw.sub rfl
  have w1 : Frees z 0x1000000 := hw.sub rfl
  unfold State.dropRaise
  repeat' first
    | with_reducible assumption
    | extract_lets
    | intro _
    | split
    | with_reducible apply State.lowerCore_keeps w0
    | with_reducible apply kept_if
    | with_reducible apply kept_foldl
    | with_reducible refine upd_pwr w1 ?_

theorem State.planPoints_keeps (hw : Frees z 0x80000000000000000000000000000000001000010) (s : State)  (hk : Kept z s) :
    Kept z (State.planPoints s) := by
  have w0 : Frees z 0x1000000 := hw.sub rfl
  have w1 : Frees z 0x1000010 := hw.sub rfl
  have w2 : Frees z 0x80000000000000000000000000000000000000000 := hw.sub rfl
  unfold State.planPoints
  extract_lets plan hot m1 src s1 s2 s3
  have h1 : Kept z s1 := upd_pwr w0 hk
  have h2 : Kept z s2 := kept_if (fun _ => State.setMem_keeps w1 _ _ h1) fun _ => h1
  have h3 : Kept z s3 := State.dropRaise_keeps w1 _ _ h2
  exact State.notePoints_keeps w2 _ (kept_if (fun _ => State.lowerCore_keeps w1 _ _ h3) fun _ => h3)

end Sys2Proof.Machine
end

