-- ==== Sys2Proof/Laws/KeepsAdmin.lean ====
section
/-! SUPPORT. Every operation of Machine/Admin.lean keeps the queue, the canonical forms and every piece that it does not touch. -/

set_option Elab.async false
set_option linter.unusedSimpArgs false
set_option linter.unusedTactic false
set_option linter.unreachableTactic false

namespace Sys2Proof.Machine

variable {z : Ref}

theorem effIdentify_keeps (hw : Frees z 0x400000000000000000500100030) (d : Pend) (s : State)  (hk : Kept z s) :
    Kept z (effIdentify d s) := by
  have w0 : Frees z 0x400000000000000000500100030 := hw.sub rfl
  have w1 : Frees z 0x400000000000000000000100010 := hw.sub rfl
  simp (maxDischargeDepth := 30) only [effIdentify, State.finish_keeps w0, State.putBuffer_keeps w1, and_self, hk]

theorem execIdentify_keeps (hw : Frees z 0x80000000000000400000000000000000501100030) (c : Cmd) (s : State)  (hk : Kept z s) :
    KeptOut z (execIdentify c s) := by
  have w0 : Frees z 0x80000000000000400000000000000000501100030 := hw.sub rfl
  have w1 : Frees z 0x400000000000000000500100030 := hw.sub rfl
  simp (maxDischargeDepth := 30) +contextual only [execIdentify, keptOut_next, State.plain_keeps w0, effIdentify_keeps w1, and_self, kept_foldl, kept_ite, implies_true, hk]

theorem effRoleSet_keeps (hw : Frees z 0x1000000000000000000400000000000000000500100030) (d : Pend) (s : State)  (hk : Kept z s) :
    Kept z (effRoleSet d s) := by
  have w0 : Frees z 0x400000000000000000500100030 := hw.sub rfl
  have w1 : Frees z 0x10 := hw.sub rfl
  have w2 : Frees z (Field.bit glbFn_role) := hw.sub rfl
  unfold effRoleSet
  repeat' first
    | with_reducible assumption
    | extract_lets
    | intro _
    | split
    | with_reducible apply State.finish_keeps w0
    | with_reducible apply State.askSlices_keeps w1
    | with_reducible apply State.setFld_keeps (hw := w2)
    | with_reducible apply kept_if
    | with_reducible apply kept_foldl

theorem execRoleSet_keeps (hw : Frees z 0x1000080000000000000400000000000000000501100030) (c : Cmd) (s : State)  (hk : Kept z s) :
    KeptOut z (execRoleSet c s) := by
  have w0 : Frees z 0x80000000000000400000000000000000501100030 := hw.sub rfl
  have w1 : Frees z 0x1000000000000000000400000000000000000500100030 := hw.sub rfl
  simp (maxDischargeDepth := 30) +contextual only [execRoleSet, keptOut_next, State.plain_keeps w0, effRoleSet_keeps w1, and_self, kept_foldl, kept_ite, implies_true, hk]

theorem State.ownGroup_keeps (hw : Frees z 0x400000000000000) (s : State) (p : ℕ) (g : ℕ)  (hk : Kept z s) :
    Kept z (State.ownGroup s p g) := by
  have w0 : Frees z (Field.bit prmGroup_owner) := hw.sub rfl
  have w1 : Frees z (Field.bit prmGroup_state) := hw.sub rfl
  simp (maxDischargeDepth := 30) only [State.ownGroup, (State.setFld_keeps (hw := w0)), (State.setFld_keeps (hw := w1)), and_self, hk]

theorem State.idleGroup_keeps (hw : Frees z 0xe08000000080000) (s : State) (g : ℕ)  (hk : Kept z s) :
    Kept z (State.idleGroup s g) := by
  have w0 : Frees z 0x80000 := hw.sub rfl
  have w1 : Frees z (Field.bit prmGroup_owner) := hw.sub rfl
  have w2 : Frees z (Field.bit prmGroup_state) := hw.sub rfl
  have w3 : Frees z 0x808000000080000 := hw.sub rfl
  have w4 : Frees z 0xe08000000080000 := hw.sub rfl
  unfold State.idleGroup
  repeat' first
    | with_reducible refine keptOpt_map ?_
    | with_reducible assumption
    | extract_lets
    | intro _
    | split
    | with_reducible apply State.clearAcc_keeps w0
    | with_reducible apply State.emptyTiles_keeps w0
    | with_reducible apply State.setFld_keeps (hw := w1)
    | with_reducible apply State.setFld_keeps (hw := w2)
    | with_reducible apply State.replaceTile_keeps w3
    | with_reducible apply State.withdraw_keeps w4
    | with_reducible apply kept_if
    | with_reducible apply kept_foldl

theorem State.setGroups_keeps (hw : Frees z 0xe08000000080000) (s : State) (p : ℕ) (n : ℕ)  (hk : Kept z s) :
    Kept z (State.setGroups s p n) := by
  have w0 : Frees z 0x400000000000000 := hw.sub rfl
  have w1 : Frees z 0xe08000000080000 := hw.sub rfl
  have w2 : Frees z 0x8000000000000 := hw.sub rfl
  have w3 : Frees z (Field.bit prmPart_groups) := hw.sub rfl
  unfold State.setGroups
  repeat' first
    | with_reducible assumption
    | extract_lets
    | intro _
    | split
    | with_reducible apply State.ownGroup_keeps w0
    | with_reducible apply State.idleGroup_keeps w1
    | with_reducible apply State.noteGroups_keeps w2
    | with_reducible apply State.setFld_keeps (hw := w3)
    | with_reducible apply kept_if
    | with_reducible apply kept_foldl

theorem effPartitionConfig_keeps (hw : Frees z 0x400000000000e08000500180130) (d : Pend) (s : State)  (hk : Kept z s) :
    Kept z (effPartitionConfig d s) := by
  have w0 : Frees z 0x400000000000000000500100030 := hw.sub rfl
  have w1 : Frees z (Field.bit prmPart_privileged) := hw.sub rfl
  have w2 : Frees z 0xe08000000080000 := hw.sub rfl
  have w3 : Frees z 0x100 := hw.sub rfl
  unfold effPartitionConfig
  repeat' first
    | with_reducible assumption
    | extract_lets
    | intro _
    | split
    | with_reducible apply State.finish_keeps w0
    | with_reducible apply State.setFlag_keeps (hw := w1)
    | with_reducible apply State.setGroups_keeps w2
    | with_reducible apply State.modPart_keeps w3
    | with_reducible apply kept_if
    | with_reducible apply kept_foldl

theorem execPartitionConfig_keeps (hw : Frees z 0x80000000000000400000000000e08000501180130) (c : Cmd) (s : State)  (hk : Kept z s) :
    KeptOut z (execPartitionConfig c s) := by
  have w0 : Frees z 0x80000000000000400000000000000000501100030 := hw.sub rfl
  have w1 : Frees z 0x400000000000e08000500180130 := hw.sub rfl
  simp (maxDischargeDepth := 30) +contextual only [execPartitionConfig, keptOut_next, State.plain_keeps w0, effPartitionConfig_keeps w1, and_self, kept_foldl, kept_ite, implies_true, hk]

theorem effPwrClassPoint_keeps (hw : Frees z 0x4000000000000400000000000000000500100030) (d : Pend) (s : State)  (hk : Kept z s) :
    Kept z (effPwrClassPoint d s) := by
  have w0 : Frees z 0x400000000000000000500100030 := hw.sub rfl
  have wc : ∀ c, Frees z (classPointField c).bit := fun c => (classPointField_reg c).symm ▸ hw.sub rfl
  unfold effPwrClassPoint
  repeat' first
    | with_reducible assumption
    | extract_lets
    | split
    | intro _
    | with_reducible apply State.afterRelease_keeps w0
    | with_reducible apply State.setFld_keeps (hw := wc _)
    | with_reducible apply kept_if

theorem execPwrClassPoint_keeps (hw : Frees z 0x84000000000000400000000000000000501100030) (c : Cmd) (s : State)  (hk : Kept z s) :
    KeptOut z (execPwrClassPoint c s) := by
  have w0 : Frees z 0x80000000000000400000000000000000501100030 := hw.sub rfl
  have w1 : Frees z 0x4000000000000400000000000000000500100030 := hw.sub rfl
  simp (maxDischargeDepth := 30) +contextual only [execPwrClassPoint, keptOut_next, State.plain_keeps w0, effPwrClassPoint_keeps w1, and_self, kept_foldl, kept_ite, implies_true, hk]

theorem effPwrCapSet_keeps (hw : Frees z 0x10000000000400000000000000000500100030) (d : Pend) (s : State)  (hk : Kept z s) :
    Kept z (effPwrCapSet d s) := by
  have w0 : Frees z 0x400000000000000000500100030 := hw.sub rfl
  have w1 : Frees z (Field.bit pwrCap_host) := hw.sub rfl
  simp (maxDischargeDepth := 30) only [effPwrCapSet, State.finish_keeps w0, (State.setFld_keeps (hw := w1)), and_self, hk]

theorem execPwrCapSet_keeps (hw : Frees z 0x80010000000000400000000000000000501100030) (c : Cmd) (s : State)  (hk : Kept z s) :
    KeptOut z (execPwrCapSet c s) := by
  have w0 : Frees z 0x80000000000000400000000000000000501100030 := hw.sub rfl
  have w1 : Frees z 0x10000000000400000000000000000500100030 := hw.sub rfl
  simp (maxDischargeDepth := 30) +contextual only [execPwrCapSet, keptOut_next, State.plain_keeps w0, effPwrCapSet_keeps w1, and_self, kept_foldl, kept_ite, implies_true, hk]

theorem State.clearJob_keeps (hw : Frees z 0x2000000000000000000000000000000001000000) (s : State) (fn : ℕ) (job : ℕ)  (hk : Kept z s) :
    Kept z (State.clearJob s fn job) := by
  have w0 : Frees z (Field.bit pwrJobStat_entries) := hw.sub rfl
  have w1 : Frees z 0x1000000 := hw.sub rfl
  unfold State.clearJob
  repeat' first
    | with_reducible assumption
    | extract_lets
    | intro _
    | split
    | with_reducible apply State.setFld_keeps (hw := w0)
    | with_reducible apply kept_if
    | with_reducible apply kept_foldl
    | with_reducible refine upd_pwr w1 ?_

theorem effJobEnergy_keeps (hw : Frees z 0x2000000000000400000000000000000501100030) (d : Pend) (s : State)  (hk : Kept z s) :
    Kept z (effJobEnergy d s) := by
  have w0 : Frees z 0x400000000000000000500100030 := hw.sub rfl
  have w1 : Frees z 0x2000000000000000000000000000000001000000 := hw.sub rfl
  unfold effJobEnergy
  repeat' first
    | with_reducible assumption
    | extract_lets
    | intro _
    | split
    | with_reducible apply State.finish_keeps w0
    | with_reducible apply State.clearJob_keeps w1
    | with_reducible apply kept_if
    | with_reducible apply kept_foldl

theorem execJobEnergy_keeps (hw : Frees z 0x82000000000000400000000000000000501100030) (c : Cmd) (s : State)  (hk : Kept z s) :
    KeptOut z (execJobEnergy c s) := by
  have w0 : Frees z 0x80000000000000400000000000000000501100030 := hw.sub rfl
  have w1 : Frees z 0x2000000000000400000000000000000501100030 := hw.sub rfl
  simp (maxDischargeDepth := 30) +contextual only [execJobEnergy, keptOut_next, State.plain_keeps w0, effJobEnergy_keeps w1, and_self, kept_foldl, kept_ite, implies_true, hk]

theorem State.setTenant_keeps (hw : Frees z 0x180000000000000000200) (s : State) (t : ℕ) (x : Tenant)  (hk : Kept z s) :
    Kept z (State.setTenant s t x) := by
  have w0 : Frees z (Field.bit schTenantBudget_budget) := hw.sub rfl
  have w1 : Frees z (Field.bit schTenant_unlimited) := hw.sub rfl
  have w2 : Frees z 0x200 := hw.sub rfl
  unfold State.setTenant
  repeat' first
    | with_reducible assumption
    | extract_lets
    | intro _
    | split
    | with_reducible apply State.setFldInt_keeps (hw := w0)
    | with_reducible apply State.setFlag_keeps (hw := w1)
    | with_reducible apply kept_if
    | with_reducible apply kept_foldl
    | with_reducible refine upd_tenants w2 ?_

theorem effTenantSet_keeps (hw : Frees z 0x400000180000000000500100230) (d : Pend) (s : State)  (hk : Kept z s) :
    Kept z (effTenantSet d s) := by
  have w0 : Frees z 0x400000000000000000500100030 := hw.sub rfl
  have w1 : Frees z 0x180000000000000000200 := hw.sub rfl
  unfold effTenantSet
  repeat' first
    | with_reducible assumption
    | extract_lets
    | intro _
    | split
    | with_reducible apply State.afterRelease_keeps w0
    | with_reducible apply State.setTenant_keeps w1
    | with_reducible apply kept_if
    | with_reducible apply kept_foldl

theorem execTenantSet_keeps (hw : Frees z 0x80000000000000400000180000000000501100230) (c : Cmd) (s : State)  (hk : Kept z s) :
    KeptOut z (execTenantSet c s) := by
  have w0 : Frees z 0x80000000000000400000000000000000501100030 := hw.sub rfl
  have w1 : Frees z 0x400000180000000000500100230 := hw.sub rfl
  simp (maxDischargeDepth := 30) +contextual only [execTenantSet, keptOut_next, State.plain_keeps w0, effTenantSet_keeps w1, and_self, kept_foldl, kept_ite, implies_true, hk]

theorem effTenantQuery_keeps (hw : Frees z 0x400000000000000000500100030) (d : Pend) (s : State)  (hk : Kept z s) :
    Kept z (effTenantQuery d s) := by
  have w0 : Frees z 0x400000000000000000500100030 := hw.sub rfl
  unfold effTenantQuery
  repeat' first
    | with_reducible assumption
    | extract_lets
    | intro _
    | split
    | with_reducible apply State.finish_keeps w0
    | with_reducible apply kept_if
    | with_reducible apply kept_foldl

theorem execTenantQuery_keeps (hw : Frees z 0x80000000000000400000000000000000501100030) (c : Cmd) (s : State)  (hk : Kept z s) :
    KeptOut z (execTenantQuery c s) := by
  have w0 : Frees z 0x80000000000000400000000000000000501100030 := hw.sub rfl
  have w1 : Frees z 0x400000000000000000500100030 := hw.sub rfl
  simp (maxDischargeDepth := 30) +contextual only [execTenantQuery, keptOut_next, State.plain_keeps w0, effTenantQuery_keeps w1, and_self, kept_foldl, kept_ite, implies_true, hk]

theorem effNop_keeps (hw : Frees z 0x400000000000000000500100030) (d : Pend) (s : State)  (hk : Kept z s) :
    Kept z (effNop d s) := by
  have w0 : Frees z 0x400000000000000000500100030 := hw.sub rfl
  simp (maxDischargeDepth := 30) only [effNop, State.finish_keeps w0, and_self, hk]

theorem execNop_keeps (hw : Frees z 0x80000000000000400000000000000000501100030) (c : Cmd) (s : State)  (hk : Kept z s) :
    KeptOut z (execNop c s) := by
  have w0 : Frees z 0x80000000000000400000000000000000501100030 := hw.sub rfl
  have w1 : Frees z 0x400000000000000000500100030 := hw.sub rfl
  simp (maxDischargeDepth := 30) +contextual only [execNop, keptOut_next, State.plain_keeps w0, effNop_keeps w1, and_self, kept_foldl, kept_ite, implies_true, hk]

theorem State.badOpcode_keeps (hw : Frees z 0x400000000000000000400100030) (s : State) (c : Cmd)  (hk : Kept z s) :
    Kept z (State.badOpcode s c) := by
  have w0 : Frees z 0x400000000000000000400100030 := hw.sub rfl
  unfold State.badOpcode
  repeat' first
    | with_reducible assumption
    | extract_lets
    | intro _
    | split
    | with_reducible apply State.refuse_keeps w0
    | with_reducible apply kept_if
    | with_reducible apply kept_foldl

theorem execBadOpcodeCommand_keeps (hw : Frees z 0x400000000000000000400100030) (c : Cmd) (s : State)  (hk : Kept z s) :
    KeptOut z (execBadOpcodeCommand c s) := by
  have w0 : Frees z 0x400000000000000000400100030 := hw.sub rfl
  simp (maxDischargeDepth := 30) only [execBadOpcodeCommand, keptOut_next, State.badOpcode_keeps w0, and_self, hk]

end Sys2Proof.Machine
end

