-- ==== Sys2Proof/Laws/KeepsMigrate.lean ====
section
/-! SUPPORT. Every operation of Machine/Migrate.lean keeps the queue, the canonical forms and every piece that it does not touch. -/

set_option Elab.async false
set_option linter.unusedSimpArgs false
set_option linter.unusedTactic false
set_option linter.unreachableTactic false

namespace Sys2Proof.Machine

variable {z : Ref}

theorem Tiers.dropDest_bytes (t : Tiers) (key : Nat) (m : Migration) : (t.dropDest key m).bytes = t.bytes := by
  unfold Tiers.dropDest
  extract_lets u
  split <;> rfl

theorem Tiers.touch_bytes (t : Tiers) (k : Nat) : (t.touch k).bytes = t.bytes := by
  unfold Tiers.touch
  repeat' split
  all_goals rfl

theorem State.startMove_keeps (hw : Frees z 0x1000) (s : State) (key : ℕ) (m : Migration)  (hk : Kept z s) :
    Kept z (State.startMove s key m) := by
  have w0 : Frees z 0x1000 := hw.sub rfl
  unfold State.startMove
  repeat' first
    | with_reducible assumption
    | extract_lets
    | intro _
    | split
    | with_reducible apply kept_if
    | with_reducible apply kept_foldl
    | with_reducible refine upd_tiers w0 rfl ?_

theorem State.moveToLodging_keeps (hw : Frees z 0x400000000000000000000101010) (s : State) (key : ℕ) (i : ℕ) (cmd : Option ℕ)  (hk : Kept z s) :
    KeptOpt z (State.moveToLodging s key i cmd) := by
  have w0 : Frees z 0x1000 := hw.sub rfl
  have w1 : Frees z 0x400000000000000000000100010 := hw.sub rfl
  unfold State.moveToLodging
  repeat' first
    | with_reducible assumption
    | extract_lets
    | intro _
    | split
    | with_reducible apply State.startMove_keeps w0
    | with_reducible apply State.writeBulk_keeps w1
    | with_reducible apply kept_if
    | with_reducible apply kept_foldl
    | with_reducible refine upd_tiers w0 rfl ?_
    | with_reducible apply keptOpt_none
    | with_reducible apply keptOpt_of
    | with_reducible refine KeptOpt.getD ?_ ?_
theorem State.moveToLodging_gives (hw : Frees z 0x400000000000000000000101010) {t : State} {s : State} {key : ℕ} {i : ℕ} {cmd : Option ℕ} (he : State.moveToLodging s key i cmd = some t) (hk : Kept z s) : Kept z t :=
  (State.moveToLodging_keeps hw s key i cmd hk).get he

theorem State.moveToFlash_keeps (hw : Frees z 0x80000000000000000000000000000000001005000) (s : State) (key : ℕ) (cmd : Option ℕ)  (hk : Kept z s) :
    KeptOpt z (State.moveToFlash s key cmd) := by
  have w0 : Frees z 0x5000 := hw.sub rfl
  have w1 : Frees z 0x80000000000000000000000000000000001000000 := hw.sub rfl
  have w2 : Frees z 0x1000 := hw.sub rfl
  unfold State.moveToFlash
  repeat' first
    | with_reducible assumption
    | extract_lets
    | intro _
    | split
    | with_reducible apply State.takeExtent_keeps w0
    | with_reducible refine State.takeExtent_gives w0 (by with_reducible assumption) ?_
    | with_reducible apply State.arrivesAt_keeps w1
    | with_reducible apply State.startMove_keeps w2
    | with_reducible apply kept_if
    | with_reducible apply kept_foldl
    | with_reducible apply keptOpt_none
    | with_reducible apply keptOpt_of
    | with_reducible refine KeptOpt.getD ?_ ?_
theorem State.moveToFlash_gives (hw : Frees z 0x80000000000000000000000000000000001005000) {t : State} {s : State} {key : ℕ} {cmd : Option ℕ} (he : State.moveToFlash s key cmd = some t) (hk : Kept z s) : Kept z t :=
  (State.moveToFlash_keeps hw s key cmd hk).get he

theorem State.moveToFrame_keeps (hw : Frees z 0x1000) (s : State) (key : ℕ) (cmd : Option ℕ)  (hk : Kept z s) :
    KeptOpt z (State.moveToFrame s key cmd) := by
  have w0 : Frees z 0x1000 := hw.sub rfl
  unfold State.moveToFrame
  repeat' first
    | with_reducible assumption
    | extract_lets
    | intro _
    | split
    | with_reducible apply State.startMove_keeps w0
    | with_reducible apply kept_if
    | with_reducible apply kept_foldl
    | with_reducible refine upd_tiers w0 rfl ?_
    | with_reducible apply keptOpt_none
    | with_reducible apply keptOpt_of
    | with_reducible refine KeptOpt.getD ?_ ?_
theorem State.moveToFrame_gives (hw : Frees z 0x1000) {t : State} {s : State} {key : ℕ} {cmd : Option ℕ} (he : State.moveToFrame s key cmd = some t) (hk : Kept z s) : Kept z t :=
  (State.moveToFrame_keeps hw s key cmd hk).get he

theorem State.askPage_keeps (hw : Frees z 0x80000000000000400000000000000000001104010) (s : State) (key : ℕ)  (hk : Kept z s) :
    Kept z (State.askPage s key) := by
  have w0 : Frees z 0x400000000000000000000100010 := hw.sub rfl
  have w1 : Frees z 0x80000000000000000000000000000000001000000 := hw.sub rfl
  have w2 : Frees z 0x4000 := hw.sub rfl
  unfold State.askPage
  repeat' first
    | with_reducible assumption
    | extract_lets
    | intro _
    | split
    | with_reducible apply State.readBulk_keeps w0
    | with_reducible apply State.arrivesAt_keeps w1
    | with_reducible apply kept_if
    | with_reducible apply kept_foldl
    | with_reducible refine upd_ftl w2 ?_

theorem State.moveToSlot_keeps (hw : Frees z 0x80000000000000400000000000000000001105010) (s : State) (key : ℕ) (cmd : Option ℕ)  (hk : Kept z s) :
    KeptOpt z (State.moveToSlot s key cmd) := by
  have w0 : Frees z 0x1000 := hw.sub rfl
  have w1 : Frees z 0x80000000000000400000000000000000001104010 := hw.sub rfl
  unfold State.moveToSlot
  repeat' first
    | with_reducible refine keptOpt_map ?_
    | with_reducible assumption
    | extract_lets
    | intro _
    | split
    | with_reducible apply State.startMove_keeps w0
    | with_reducible apply State.askPage_keeps w1
    | with_reducible apply kept_if
    | with_reducible apply kept_foldl
    | with_reducible refine upd_tiers w0 rfl ?_
    | with_reducible apply keptOpt_none
    | with_reducible apply keptOpt_of
    | with_reducible refine KeptOpt.getD ?_ ?_
theorem State.moveToSlot_gives (hw : Frees z 0x80000000000000400000000000000000001105010) {t : State} {s : State} {key : ℕ} {cmd : Option ℕ} (he : State.moveToSlot s key cmd = some t) (hk : Kept z s) : Kept z t :=
  (State.moveToSlot_keeps hw s key cmd hk).get he

theorem State.moveUp_keeps (hw : Frees z 0x80000000000000400000000000000000001105010) (s : State) (key : ℕ) (cmd : Option ℕ)  (hk : Kept z s) :
    KeptOpt z (State.moveUp s key cmd) := by
  have w0 : Frees z 0x1000 := hw.sub rfl
  have w1 : Frees z 0x80000000000000400000000000000000001105010 := hw.sub rfl
  unfold State.moveUp
  repeat' first
    | with_reducible assumption
    | extract_lets
    | intro _
    | split
    | with_reducible apply State.moveToFrame_keeps w0
    | with_reducible refine State.moveToFrame_gives w0 (by with_reducible assumption) ?_
    | with_reducible apply State.moveToSlot_keeps w1
    | with_reducible refine State.moveToSlot_gives w1 (by with_reducible assumption) ?_
    | with_reducible apply kept_if
    | with_reducible apply kept_foldl
    | with_reducible apply keptOpt_none
    | with_reducible apply keptOpt_of
    | with_reducible refine KeptOpt.getD ?_ ?_
theorem State.moveUp_gives (hw : Frees z 0x80000000000000400000000000000000001105010) {t : State} {s : State} {key : ℕ} {cmd : Option ℕ} (he : State.moveUp s key cmd = some t) (hk : Kept z s) : Kept z t :=
  (State.moveUp_keeps hw s key cmd hk).get he

theorem State.abandonMove_keeps (hw : Frees z 0xeb800000000020800005000) (s : State) (key : ℕ)  (hk : Kept z s) :
    Kept z (State.abandonMove s key) := by
  have w0 : Frees z 0x5000 := hw.sub rfl
  have w1 : Frees z (Field.bit tirEvict_abandoned) := hw.sub rfl
  have w2 : Frees z 0xe9800000000020800000000 := hw.sub rfl
  unfold State.abandonMove
  split
  · exact hk
  · extract_lets s1 s2
    have h1 : Kept z s1 := upd_tiers_ftl w0 (Tiers.dropDest_bytes _ _ _) hk
    have h2 : Kept z s2 := kept_if (fun _ => State.bump_keeps (hw := w1) _ _ _ h1) (fun _ => h1)
    exact State.noteTiers_keeps w2 _ h2

theorem State.moveWritten_keeps (hw : Frees z 0x1000) (s : State) (key : ℕ)  (hk : Kept z s) :
    Kept z (State.moveWritten s key) := by
  have w0 : Frees z 0x1000 := hw.sub rfl
  unfold State.moveWritten
  repeat' first
    | with_reducible assumption
    | extract_lets
    | intro _
    | split
    | with_reducible apply kept_if
    | with_reducible apply kept_foldl
    | with_reducible refine upd_tiers w0 rfl ?_

theorem State.pageCame_keeps (hw : Frees z 0x1000) (s : State) (key : ℕ)  (hk : Kept z s) :
    Kept z (State.pageCame s key) := by
  have w0 : Frees z 0x1000 := hw.sub rfl
  unfold State.pageCame
  repeat' first
    | with_reducible assumption
    | extract_lets
    | intro _
    | split
    | with_reducible apply State.moveWritten_keeps w0
    | with_reducible apply kept_if
    | with_reducible apply kept_foldl
    | with_reducible refine upd_tiers w0 rfl ?_

theorem State.endStreams_keeps (hw : Frees z 0xe9800000000020800001000) (s : State) (keys : List ℕ)  (hk : Kept z s) :
    Kept z (State.endStreams s keys) := by
  have w0 : Frees z 0xe9800000000020800000000 := hw.sub rfl
  have w1 : Frees z 0x1000 := hw.sub rfl
  unfold State.endStreams
  repeat' first
    | with_reducible assumption
    | extract_lets
    | intro _
    | split
    | with_reducible apply State.noteTiers_keeps w0
    | with_reducible apply kept_if
    | with_reducible apply kept_foldl
    | with_reducible refine upd_tiers w1 rfl ?_

theorem State.checkFetches_keeps (hw : Frees z 0x400000000000000000500100030) (s : State)  (hk : Kept z s) :
    Kept z (State.checkFetches s) := by
  have w0 : Frees z 0x400000000000000000500100030 := hw.sub rfl
  unfold State.checkFetches
  repeat' first
    | with_reducible assumption
    | extract_lets
    | intro _
    | split
    | with_reducible apply State.finish_keeps w0
    | with_reducible apply kept_if
    | with_reducible apply kept_foldl

theorem State.failFetch_keeps (hw : Frees z 0x4000eb800000000020d00105030) (s : State) (id : ℕ) (status : ℕ) (detail : ℕ)  (hk : Kept z s) :
    Kept z (State.failFetch s id status detail) := by
  have w0 : Frees z 0x400000000000000000500100030 := hw.sub rfl
  have w1 : Frees z 0xeb800000000020800005000 := hw.sub rfl
  unfold State.failFetch
  repeat' first
    | with_reducible assumption
    | extract_lets
    | intro _
    | split
    | with_reducible apply State.finish_keeps w0
    | with_reducible apply State.abandonMove_keeps w1
    | with_reducible apply kept_if
    | with_reducible apply kept_foldl

theorem State.freeSource_keeps (hw : Frees z 0x5000) (s : State) (key : ℕ)  (hk : Kept z s) :
    Kept z (State.freeSource s key) := by
  have w0 : Frees z 0x1000 := hw.sub rfl
  have w1 : Frees z 0x4000 := hw.sub rfl
  unfold State.freeSource
  repeat' first
    | with_reducible assumption
    | extract_lets
    | intro _
    | split
    | with_reducible apply kept_if
    | with_reducible apply kept_foldl
    | with_reducible refine upd_tiers w0 rfl ?_
    | with_reducible refine upd_ftl w1 ?_

theorem State.countEviction_keeps (hw : Frees z 0x2000000000000000000000) (s : State) (m : Migration)  (hk : Kept z s) :
    Kept z (State.countEviction s m) := by
  have w0 : Frees z (Field.bit tirEvict_toT2) := hw.sub rfl
  have w1 : Frees z (Field.bit tirEvict_toT3) := hw.sub rfl
  unfold State.countEviction
  repeat' first
    | with_reducible assumption
    | extract_lets
    | intro _
    | split
    | with_reducible apply State.bump_keeps (hw := w0)
    | with_reducible apply State.bump_keeps (hw := w1)
    | with_reducible apply kept_if
    | with_reducible apply kept_foldl

theorem State.flip_keeps (hw : Frees z 0x2000000000000000005000) (s : State) (key : ℕ) (m : Migration)  (hk : Kept z s) :
    Kept z (State.flip s key m) := by
  have w0 : Frees z 0x2000000000000000000000 := hw.sub rfl
  have w1 : Frees z 0x5000 := hw.sub rfl
  have w2 : Frees z 0x1000 := hw.sub rfl
  unfold State.flip
  repeat' first
    | with_reducible assumption
    | extract_lets
    | intro _
    | split
    | with_reducible apply State.countEviction_keeps w0
    | with_reducible apply State.freeSource_keeps w1
    | with_reducible apply kept_if
    | with_reducible apply kept_foldl
    | with_reducible refine upd_tiers w2 rfl ?_

theorem State.moveOn_keeps (hw : Frees z 0x1000) (s : State) (key : ℕ) (cmd : Option ℕ)  (hk : Kept z s) :
    Kept z (State.moveOn s key cmd) := by
  have w0 : Frees z 0x1000 := hw.sub rfl
  unfold State.moveOn
  repeat' first
    | with_reducible assumption
    | extract_lets
    | intro _
    | split
    | with_reducible apply State.moveToFrame_keeps w0
    | with_reducible refine State.moveToFrame_gives w0 (by with_reducible assumption) ?_
    | with_reducible refine KeptOpt.getD ?_ ?_
    | with_reducible apply kept_if
    | with_reducible apply kept_foldl

theorem State.completeMove_keeps (hw : Frees z 0x4000eb800000000020d00105030) (s : State) (key : ℕ)  (hk : Kept z s) :
    Kept z (State.completeMove s key) := by
  have w0 : Frees z 0xe9800000000020800000000 := hw.sub rfl
  have w1 : Frees z 0x400000000000000000500100030 := hw.sub rfl
  have w2 : Frees z 0x1000 := hw.sub rfl
  have w3 : Frees z 0x2000000000000000005000 := hw.sub rfl
  unfold State.completeMove
  repeat' first
    | with_reducible assumption
    | extract_lets
    | intro _
    | split
    | with_reducible apply State.noteTiers_keeps w0
    | with_reducible apply State.checkFetches_keeps w1
    | with_reducible apply State.moveOn_keeps w2
    | with_reducible apply State.flip_keeps w3
    | with_reducible apply kept_if
    | with_reducible apply kept_foldl

theorem State.blockError_keeps (hw : Frees z 0x1800c00000240000000000000002013000000000c9c11b1) (s : State) (p : ℕ) (code : ℕ) (site : ℕ) (location : ℕ) (b : Stored)  (hk : Kept z s) :
    Kept z (State.blockError s p code site location b) := by
  have w0 : Frees z (Field.bit cmpErrInfo_code) := hw.sub rfl
  have w1 : Frees z (Field.bit cmpErrInfo_kind) := hw.sub rfl
  have w2 : Frees z (Field.bit cmpErrInfo_partition) := hw.sub rfl
  have w3 : Frees z (Field.bit cmpErrInfo_table) := hw.sub rfl
  have w4 : Frees z (Field.bit cmpErrBlock_word1) := hw.sub rfl
  have w5 : Frees z (Field.bit cmpErrInfo_site) := hw.sub rfl
  have w6 : Frees z (Field.bit cmpErrInfo_count) := hw.sub rfl
  have w7 : Frees z (Field.bit cmpErrInfo_escape) := hw.sub rfl
  have w8 : Frees z 0x1800c00000240000000000000002010000000000c9c11b1 := hw.sub rfl
  unfold State.blockError
  repeat' first
    | with_reducible assumption
    | extract_lets
    | intro _
    | split
    | with_reducible apply State.setFld_keeps (hw := w0)
    | with_reducible apply State.setFld_keeps (hw := w1)
    | with_reducible apply State.setFld_keeps (hw := w2)
    | with_reducible apply State.setFld_keeps (hw := w3)
    | with_reducible apply State.setFld_keeps (hw := w4)
    | with_reducible apply State.setFld_keeps (hw := w5)
    | with_reducible apply State.bump_keeps (hw := w6)
    | with_reducible apply State.setFlag_keeps (hw := w7)
    | with_reducible apply State.raise_keeps w8
    | with_reducible apply kept_if
    | with_reducible apply kept_foldl

theorem State.expandError_keeps (hw : Frees z 0x1800c00000240000000000000002013000000000c9c11b1) (s : State) (code : ℕ) (location : ℕ) (b : Stored)  (hk : Kept z s) :
    Kept z (State.expandError s code location b) := by
  have w0 : Frees z 0x1800c00000240000000000000002013000000000c9c11b1 := hw.sub rfl
  simp (maxDischargeDepth := 30) only [State.expandError, State.blockError_keeps w0, and_self, hk]

theorem State.loseKey_keeps (hw : Frees z 0x1000) (s : State) (key : ℕ)  (hk : Kept z s) :
    Kept z (State.loseKey s key) := by
  have w0 : Frees z 0x1000 := hw.sub rfl
  unfold State.loseKey
  repeat' first
    | with_reducible assumption
    | extract_lets
    | intro _
    | split
    | with_reducible apply kept_if
    | with_reducible apply kept_foldl
    | with_reducible refine upd_tiers w0 rfl ?_

theorem State.expandFailed_keeps (hw : Frees z 0x1800c0000024000000004000eb82013000002080c9c71b1) (s : State) (key : ℕ) (code : ℕ) (slots : List (BitVec 8))  (hk : Kept z s) :
    Kept z (State.expandFailed s key code slots) := by
  have w0 : Frees z 0x1000 := hw.sub rfl
  have w1 : Frees z 0xe9800000000020800001000 := hw.sub rfl
  have w2 : Frees z 0xeb800000000020800005000 := hw.sub rfl
  have w3 : Frees z 0x4000000000000000000009071b0 := hw.sub rfl
  have w4 : Frees z 0x1800c00000240000000000000002010000000000c9c11b1 := hw.sub rfl
  have w5 : Frees z 0x1800c00000240000000000000002013000000000c9c11b1 := hw.sub rfl
  unfold State.expandFailed
  repeat' first
    | with_reducible assumption
    | extract_lets
    | intro _
    | split
    | with_reducible apply State.loseKey_keeps w0
    | with_reducible apply State.endStreams_keeps w1
    | with_reducible apply State.abandonMove_keeps w2
    | with_reducible apply State.toRebuild_keeps w3
    | with_reducible apply State.raise_keeps w4
    | with_reducible apply State.expandError_keeps w5
    | with_reducible refine KeptOpt.getD ?_ ?_
    | with_reducible apply kept_if
    | with_reducible apply kept_foldl
    | dsimp +zetaDelta only

theorem State.failDelivery_keeps (hw : Frees z 0x1800c0800024000000004000eb82010000002080d9c71b1) (s : State) (key : ℕ) (cause : ℕ)  (hk : Kept z s) :
    Kept z (State.failDelivery s key cause) := by
  have w0 : Frees z 0xe9800000000020800001000 := hw.sub rfl
  have w1 : Frees z 0xeb800000000020800005000 := hw.sub rfl
  have w2 : Frees z 0x1800c00000240000000000000002010000000000c9c11b1 := hw.sub rfl
  have w3 : Frees z 0x1000 := hw.sub rfl
  have w4 : Frees z 0x4000 := hw.sub rfl
  have w5 : Frees z 0x4000000000000000000009071b0 := hw.sub rfl
  have w6 : Frees z 0x80000000000000400000000000000000001105010 := hw.sub rfl
  have w7 : Frees z 0x80 := hw.sub rfl
  unfold State.failDelivery
  extract_lets s1 granule
  have h1 : Kept z s1 := State.endStreams_keeps w0 _ _ (State.abandonMove_keeps w1 _ _ hk)
  clear_value s1 granule
  split
  · exact h1
  · extract_lets s2 s3 s4
    have h2 : Kept z s2 := State.raise_keeps w2 _ _ h1
    have h3 : Kept z s3 := State.loseKey_keeps w3 _ _ h2
    clear_value s2 s3
    have h4 : Kept z s4 := by
      show Kept z (match cause, granule with
        | 7, some a => { s3 with ftl := s3.ftl.trim s3.now a 1 }
        | _, _ => s3)
      split
      · exact upd_ftl w4 h3
      · exact h3
    clear_value s4
    refine kept_if (fun _ => ?_) (fun _ => State.toRebuild_keeps w5 _ _ h4)
    exact (State.moveToSlot_keeps w6 _ _ _ (State.modSeq_keeps w7 _ _ _ h4)).getD h4

theorem State.loseLodging_keeps (hw : Frees z 0x1800c0800024000000004000eb82010000002080d9c71b1) (s : State) (i : ℕ)  (hk : Kept z s) :
    Kept z (State.loseLodging s i) := by
  have w0 : Frees z 0x1800c0800024000000004000eb82010000002080d9c71b1 := hw.sub rfl
  unfold State.loseLodging
  repeat' first
    | with_reducible refine keptOpt_map ?_
    | with_reducible assumption
    | extract_lets
    | intro _
    | split
    | with_reducible apply State.failDelivery_keeps w0
    | with_reducible apply kept_if
    | with_reducible apply kept_foldl

theorem State.streamPage_keeps (hw : Frees z 0x800000000000004000e9800000000020801105010) (s : State) (key : ℕ)  (hk : Kept z s) :
    Kept z (State.streamPage s key) := by
  have w0 : Frees z 0xe9800000000020800000000 := hw.sub rfl
  have w1 : Frees z 0x80000000000000400000000000000000001104010 := hw.sub rfl
  have w2 : Frees z 0x1000 := hw.sub rfl
  unfold State.streamPage
  repeat' first
    | with_reducible refine kept_elim ?_ ?_
    | with_reducible assumption
    | extract_lets
    | intro _
    | split
    | with_reducible apply State.noteTiers_keeps w0
    | with_reducible apply State.askPage_keeps w1
    | with_reducible apply kept_if
    | with_reducible apply kept_foldl
    | with_reducible refine upd_tiers w2 rfl ?_

theorem State.fetchPage_keeps (hw : Frees z 0x800000000000004000eb800000000020801105010) (s : State) (key : ℕ)  (hk : Kept z s) :
    Kept z (State.fetchPage s key) := by
  have w0 : Frees z 0xeb800000000020800005000 := hw.sub rfl
  have w1 : Frees z 0xe9800000000020800000000 := hw.sub rfl
  have w2 : Frees z 0x80000000000000400000000000000000001105010 := hw.sub rfl
  unfold State.fetchPage
  repeat' first
    | with_reducible assumption
    | extract_lets
    | intro _
    | split
    | with_reducible apply State.abandonMove_keeps w0
    | with_reducible apply State.noteTiers_keeps w1
    | with_reducible apply State.moveUp_keeps w2
    | with_reducible refine State.moveUp_gives w2 (by with_reducible assumption) ?_
    | with_reducible refine KeptOpt.getD ?_ ?_
    | with_reducible apply kept_if
    | with_reducible apply kept_foldl
    | dsimp +zetaDelta only

theorem State.bringUp_keeps (hw : Frees z 0x800000000000004000eb800000000020801105010) (s : State) (key : ℕ)  (hk : Kept z s) :
    Kept z (State.bringUp s key) := by
  have w0 : Frees z 0xeb800000000020800005000 := hw.sub rfl
  have w1 : Frees z 0xe9800000000020800000000 := hw.sub rfl
  have w2 : Frees z 0x80000000000000400000000000000000001105010 := hw.sub rfl
  unfold State.bringUp
  repeat' first
    | with_reducible assumption
    | extract_lets
    | intro _
    | split
    | with_reducible apply State.abandonMove_keeps w0
    | with_reducible apply State.noteTiers_keeps w1
    | with_reducible apply State.moveUp_keeps w2
    | with_reducible refine State.moveUp_gives w2 (by with_reducible assumption) ?_
    | with_reducible refine KeptOpt.getD ?_ ?_
    | with_reducible apply kept_if
    | with_reducible apply kept_foldl
    | dsimp +zetaDelta only

theorem State.touchPages_keeps (hw : Frees z 0x1000) (s : State) (keys : List ℕ)  (hk : Kept z s) :
    Kept z (State.touchPages s keys) := by
  have w0 : Frees z 0x1000 := hw.sub rfl
  unfold State.touchPages
  refine upd_tiers w0 ?_ hk
  generalize s.tiers = t
  induction keys generalizing t with
  | nil => rfl
  | cons x l ih => exact (ih _).trans (Tiers.touch_bytes _ _)

theorem State.fetchSeq_keeps (hw : Frees z 0x800000000000004000eb800000000020801105010) (s : State) (h : ℕ)  (hk : Kept z s) :
    Kept z (State.fetchSeq s h) := by
  have w0 : Frees z 0x800000000000004000eb800000000020801105010 := hw.sub rfl
  unfold State.fetchSeq
  repeat' first
    | with_reducible assumption
    | extract_lets
    | intro _
    | split
    | with_reducible apply State.fetchPage_keeps w0
    | with_reducible apply kept_if
    | with_reducible apply kept_foldl

end Sys2Proof.Machine
end

