-- ==== Sys2Proof/Laws/KeepsDraft.lean ====
section
/-! SUPPORT. Every operation of Machine/Draft.lean keeps the queue, the canonical forms and every piece that it does not touch. -/

set_option Elab.async false
set_option linter.unusedSimpArgs false
set_option linter.unusedTactic false
set_option linter.unreachableTactic false

namespace Sys2Proof.Machine

variable {z : Ref}

theorem State.noteDraft_keeps (hw : Frees z 0x40000) (s : State)  (hk : Kept z s) :
    Kept z (State.noteDraft s) := by
  have w0 : Frees z 0x40000 := hw.sub rfl
  simp (maxDischargeDepth := 30) only [State.noteDraft, upd_gen w0, and_self, hk]

theorem State.giveRing_keeps (hw : Frees z 0x80) (s : State) (h : ℕ)  (hk : Kept z s) :
    Kept z (State.giveRing s h) := by
  have w0 : Frees z 0x80 := hw.sub rfl
  unfold State.giveRing
  repeat' first
    | with_reducible assumption
    | extract_lets
    | intro _
    | split
    | with_reducible apply State.modSeq_keeps w0
    | with_reducible apply kept_if
    | with_reducible apply kept_foldl

theorem State.holdupCheck_keeps (hw : Frees z 0x4000000000000000000000000) (s : State) (code : BitVec 12) (bytes : ℕ)  (hk : Kept z s) :
    Kept z (State.holdupCheck s code bytes).2 := by
  have w0 : Frees z (Field.bit ftlHoldup_energyMj) := hw.sub rfl
  have w1 : Frees z (Field.bit ftlHoldup_code) := hw.sub rfl
  have w2 : Frees z (Field.bit ftlHoldup_refused) := hw.sub rfl
  unfold State.holdupCheck
  repeat' first
    | with_reducible assumption
    | extract_lets
    | intro _
    | split
    | with_reducible apply State.setFld_keeps (hw := w0)
    | with_reducible apply State.setFld_keeps (hw := w1)
    | with_reducible apply State.bump_keeps (hw := w2)
    | with_reducible apply kept_if
    | with_reducible apply kept_foldl
theorem State.holdupCheck_gives (hw : Frees z 0x4000000000000000000000000) {t : State} {y0} {s : State} {code : BitVec 12} {bytes : ℕ} (he : State.holdupCheck s code bytes = (y0, t)) (hk : Kept z s) : Kept z t :=
  by have k := State.holdupCheck_keeps hw s code bytes hk; rw [he] at k; exact k

end Sys2Proof.Machine
end

