-- ==== Sys2Proof/Laws/KeepsSequence.lean ====
section
/-! SUPPORT. Every operation of Machine/Sequence.lean keeps the queue, the canonical forms and every piece that it does not touch. -/

set_option Elab.async false
set_option linter.unusedSimpArgs false
set_option linter.unusedTactic false
set_option linter.unreachableTactic false

namespace Sys2Proof.Machine

variable {z : Ref}

theorem State.openSeq_keeps (hw : Frees z 0x80) (s : State) (h : ℕ) (q : Seq)  (hk : Kept z s) :
    Kept z (State.openSeq s h q) := by
  have w0 : Frees z 0x80 := hw.sub rfl
  simp (maxDischargeDepth := 30) only [State.openSeq, upd_seqs w0, and_self, hk]

theorem effSeqOpen_keeps (hw : Frees z 0x4000000000000000005001000f0) (d : Pend) (s : State)  (hk : Kept z s) :
    Kept z (effSeqOpen d s) := by
  have w0 : Frees z 0x400000000000000000500100030 := hw.sub rfl
  have w1 : Frees z 0x40 := hw.sub rfl
  have w2 : Frees z 0x80 := hw.sub rfl
  unfold effSeqOpen
  repeat' first
    | with_reducible assumption
    | extract_lets
    | intro _
    | split
    | with_reducible apply State.finish_keeps w0
    | with_reducible apply State.takeHandle_keeps w1
    | with_reducible refine State.takeHandle_gives w1 (by with_reducible assumption) ?_
    | with_reducible apply State.openSeq_keeps w2
    | with_reducible apply kept_if
    | with_reducible apply kept_foldl

theorem execSeqOpen_keeps (hw : Frees z 0x800000000000004000000000000000005011000f0) (c : Cmd) (stops : List (BitVec 32)) (s : State)  (hk : Kept z s) :
    KeptOut z (execSeqOpen c stops s) := by
  have w0 : Frees z 0x80000000000000400000000000000000501100030 := hw.sub rfl
  have w1 : Frees z 0x4000000000000000005001000f0 := hw.sub rfl
  simp (maxDischargeDepth := 30) +contextual only [execSeqOpen, keptOut_next, State.command_keeps w0, effSeqOpen_keeps w1, and_self, kept_foldl, kept_ite, implies_true, hk]

theorem State.startPrompt_keeps (hw : Frees z 0x800000000000004000eb800000000020c019050b0) (s : State) (d : Pend) (q : Seq) (toks : List (BitVec 32))  (hk : Kept z s) :
    Kept z (State.startPrompt s d q toks) := by
  have w0 : Frees z 0x80 := hw.sub rfl
  have w1 : Frees z 0x1080 := hw.sub rfl
  have w2 : Frees z 0x4000000000000000004009000b0 := hw.sub rfl
  have w3 : Frees z 0x800000000000004000eb800000000020801105010 := hw.sub rfl
  have w4 : Frees z 0xe9800000000020800000000 := hw.sub rfl
  have w5 : Frees z 0x20 := hw.sub rfl
  unfold State.startPrompt
  repeat' first
    | with_reducible refine keptOpt_map ?_
    | with_reducible assumption
    | extract_lets
    | intro _
    | split
    | with_reducible apply State.modSeq_keeps w0
    | with_reducible apply State.become_keeps w1
    | with_reducible apply State.shipPrompt_keeps w2
    | with_reducible apply State.fetchSeq_keeps w3
    | with_reducible apply State.noteTiers_keeps w4
    | with_reducible apply State.await_keeps w5
    | with_reducible apply kept_if
    | with_reducible apply kept_foldl

theorem effSeqPrompt_keeps (hw : Frees z 0x800000000000004000eb800000000020d019071b0) (d : Pend) (s : State)  (hk : Kept z s) :
    Kept z (effSeqPrompt d s) := by
  have w0 : Frees z 0x400000000000000000500100030 := hw.sub rfl
  have w1 : Frees z 0x800000000000004000eb800000000020c019050b0 := hw.sub rfl
  have w2 : Frees z 0x807180 := hw.sub rfl
  unfold effSeqPrompt
  extract_lets n
  refine kept_if (fun _ => State.conclude_keeps w0 _ _ _ _ _ hk) fun _ => ?_
  refine kept_if (fun _ => State.conclude_keeps w0 _ _ _ _ _ hk) fun _ => ?_
  split
  · exact State.conclude_keeps w0 _ _ _ _ _ hk
  · refine kept_if (fun _ => State.conclude_keeps w0 _ _ _ _ _ hk) fun _ => ?_
    refine kept_if (fun _ => State.conclude_keeps w0 _ _ _ _ _ hk) fun _ => ?_
    extract_lets first
    split
    · exact State.conclude_keeps w0 _ _ _ _ _ hk
    · rename_i t ht
      split at ht
      · cases ht
      · exact State.startPrompt_keeps w1 _ _ _ _ (State.assignRun_gives w2 ht hk)

theorem execSeqPrompt_keeps (hw : Frees z 0x800000000000004000eb800000000020d019071b0) (c : Cmd) (tokens : List (BitVec 32)) (s : State)  (hk : Kept z s) :
    KeptOut z (execSeqPrompt c tokens s) := by
  have w0 : Frees z 0x80000000000000400000000000000000501100030 := hw.sub rfl
  have w1 : Frees z 0x800000000000004000eb800000000020d019071b0 := hw.sub rfl
  simp (maxDischargeDepth := 30) +contextual only [execSeqPrompt, keptOut_next, State.command_keeps w0, effSeqPrompt_keeps w1, and_self, kept_foldl, kept_ite, implies_true, hk]

theorem State.assignStep_keeps (hw : Frees z 0x807180) (s : State) (h : ℕ) (k : ℕ)  (hk : Kept z s) :
    KeptOpt z (State.assignStep s h k) := by
  have w0 : Frees z 0x807180 := hw.sub rfl
  unfold State.assignStep
  (repeat' split) <;> simp (maxDischargeDepth := 30) only [keptOpt_some, keptOpt_none, State.assignRun_keeps w0, and_self, *]
theorem State.assignStep_gives (hw : Frees z 0x807180) {t : State} {s : State} {h : ℕ} {k : ℕ} (he : State.assignStep s h k = some t) (hk : Kept z s) : Kept z t :=
  (State.assignStep_keeps hw s h k hk).get he

theorem State.startStepping_keeps (hw : Frees z 0xe98000000000208008071a0) (s : State) (d : Pend) (spec : Seq → Seq)  (hk : Kept z s) :
    KeptOpt z (State.startStepping s d spec) := by
  have w0 : Frees z 0x80 := hw.sub rfl
  have w1 : Frees z 0x807180 := hw.sub rfl
  have w2 : Frees z 0xe9800000000020800000000 := hw.sub rfl
  have w3 : Frees z 0x20 := hw.sub rfl
  have w4 : Frees z 0x1080 := hw.sub rfl
  unfold State.startStepping
  repeat' first
    | with_reducible assumption
    | extract_lets
    | intro _
    | split
    | with_reducible apply State.modSeq_keeps w0
    | with_reducible apply State.assignStep_keeps w1
    | with_reducible refine State.assignStep_gives w1 (by with_reducible assumption) ?_
    | with_reducible apply State.noteTiers_keeps w2
    | with_reducible apply State.await_keeps w3
    | with_reducible apply State.giveRing_keeps w0
    | with_reducible apply State.become_keeps w4
    | with_reducible apply kept_if
    | with_reducible apply kept_foldl
    | with_reducible apply keptOpt_none
    | with_reducible apply keptOpt_of
    | with_reducible refine KeptOpt.getD ?_ ?_
theorem State.startStepping_gives (hw : Frees z 0xe98000000000208008071a0) {t : State} {s : State} {d : Pend} {spec : Seq → Seq} (he : State.startStepping s d spec = some t) (hk : Kept z s) : Kept z t :=
  (State.startStepping_keeps hw s d spec hk).get he

theorem effSeqStepEnable_keeps (hw : Frees z 0x4000e9800000000020d009071b0) (d : Pend) (s : State)  (hk : Kept z s) :
    Kept z (effSeqStepEnable d s) := by
  have w0 : Frees z 0x400000000000000000500100030 := hw.sub rfl
  have w1 : Frees z 0xe98000000000208008071a0 := hw.sub rfl
  unfold effSeqStepEnable
  repeat' first
    | with_reducible assumption
    | extract_lets
    | intro _
    | split
    | with_reducible apply State.finish_keeps w0
    | with_reducible apply State.afterRelease_keeps w0
    | with_reducible apply State.startStepping_keeps w1
    | with_reducible refine State.startStepping_gives w1 (by with_reducible assumption) ?_
    | with_reducible apply kept_if
    | with_reducible apply kept_foldl

theorem State.fetchNamed_keeps (hw : Frees z 0x800000000000004000eb800000000020801105010) (s : State) (part : ℕ) (h : ℕ)  (hk : Kept z s) :
    Kept z (State.fetchNamed s part h) := by
  have w0 : Frees z 0x800000000000004000eb800000000020801105010 := hw.sub rfl
  unfold State.fetchNamed
  repeat' first
    | with_reducible assumption
    | extract_lets
    | intro _
    | split
    | with_reducible apply State.fetchSeq_keeps w0
    | with_reducible apply kept_if
    | with_reducible apply kept_foldl

theorem State.plainFetch_keeps (hw : Frees z 0x800000000000004000eb800000000020d01105030) (s : State) (op : ℕ) (c : Cmd) (effect : Pend → State → State)  (hk : Kept z s) (hk_effect : ∀ y0 y1, Kept z y1 → Kept z (effect y0 y1)) :
    Kept z (State.plainFetch s op c effect) := by
  have w0 : Frees z 0x80000000000000400000000000000000501100030 := hw.sub rfl
  have w1 : Frees z 0x800000000000004000eb800000000020801105010 := hw.sub rfl
  unfold State.plainFetch
  repeat' first
    | with_reducible assumption
    | extract_lets
    | intro _
    | split
    | with_reducible apply State.commandThen_keeps w0
    | with_reducible apply State.fetchNamed_keeps w1
    | with_reducible apply hk_effect
    | with_reducible apply kept_if
    | with_reducible apply kept_foldl

theorem execSeqStepEnable_keeps (hw : Frees z 0x800000000000004000eb800000000020d019071b0) (c : Cmd) (s : State)  (hk : Kept z s) :
    KeptOut z (execSeqStepEnable c s) := by
  have w0 : Frees z 0x800000000000004000eb800000000020d01105030 := hw.sub rfl
  have w1 : Frees z 0x4000e9800000000020d009071b0 := hw.sub rfl
  simp (maxDischargeDepth := 30) +contextual only [execSeqStepEnable, keptOut_next, State.plainFetch_keeps w0, effSeqStepEnable_keeps w1, and_self, kept_foldl, kept_ite, implies_true, hk]

theorem effSeqResume_keeps (hw : Frees z 0x4000e9800000000020d009071b0) (d : Pend) (s : State)  (hk : Kept z s) :
    Kept z (effSeqResume d s) := by
  have w0 : Frees z 0x400000000000000000500100030 := hw.sub rfl
  have w1 : Frees z 0xe98000000000208008071a0 := hw.sub rfl
  unfold effSeqResume
  repeat' first
    | with_reducible assumption
    | extract_lets
    | intro _
    | split
    | with_reducible apply State.finish_keeps w0
    | with_reducible apply State.afterRelease_keeps w0
    | with_reducible apply State.startStepping_keeps w1
    | with_reducible refine State.startStepping_gives w1 (by with_reducible assumption) ?_
    | with_reducible apply kept_if
    | with_reducible apply kept_foldl

theorem execSeqResume_keeps (hw : Frees z 0x800000000000004000eb800000000020d019071b0) (c : Cmd) (s : State)  (hk : Kept z s) :
    KeptOut z (execSeqResume c s) := by
  have w0 : Frees z 0x800000000000004000eb800000000020d01105030 := hw.sub rfl
  have w1 : Frees z 0x4000e9800000000020d009071b0 := hw.sub rfl
  simp (maxDischargeDepth := 30) +contextual only [execSeqResume, keptOut_next, State.plainFetch_keeps w0, effSeqResume_keeps w1, and_self, kept_foldl, kept_ite, implies_true, hk]

theorem effSeqPause_keeps (hw : Frees z 0x4000000000000000005001010b0) (d : Pend) (s : State)  (hk : Kept z s) :
    Kept z (effSeqPause d s) := by
  have w0 : Frees z 0x400000000000000000500100030 := hw.sub rfl
  have w1 : Frees z 0x80 := hw.sub rfl
  have w2 : Frees z 0x1080 := hw.sub rfl
  unfold effSeqPause
  repeat' first
    | with_reducible assumption
    | extract_lets
    | intro _
    | split
    | with_reducible apply State.afterRelease_keeps w0
    | with_reducible apply State.endEnables_keeps w0
    | with_reducible apply State.modSeq_keeps w1
    | with_reducible apply State.become_keeps w2
    | with_reducible apply kept_if
    | with_reducible apply kept_foldl

theorem execSeqPause_keeps (hw : Frees z 0x800000000000004000000000000000005011010b0) (c : Cmd) (s : State)  (hk : Kept z s) :
    KeptOut z (execSeqPause c s) := by
  have w0 : Frees z 0x80000000000000400000000000000000501100030 := hw.sub rfl
  have w1 : Frees z 0x4000000000000000005001010b0 := hw.sub rfl
  simp (maxDischargeDepth := 30) +contextual only [execSeqPause, keptOut_next, State.plain_keeps w0, effSeqPause_keeps w1, and_self, kept_foldl, kept_ite, implies_true, hk]

theorem State.leavePass_keeps (hw : Frees z 0x100) (s : State) (p : ℕ) (h : ℕ)  (hk : Kept z s) :
    Kept z (State.leavePass s p h) := by
  have w0 : Frees z 0x100 := hw.sub rfl
  unfold State.leavePass
  repeat' first
    | with_reducible refine keptOpt_map ?_
    | with_reducible assumption
    | extract_lets
    | intro _
    | split
    | with_reducible apply State.modPart_keeps w0
    | with_reducible apply kept_if
    | with_reducible apply kept_foldl

theorem State.askAbandon_keeps (hw : Frees z 0x90) (s : State) (h : ℕ) (m : Move)  (hk : Kept z s) :
    Kept z (State.askAbandon s h m) := by
  have w0 : Frees z 0x80 := hw.sub rfl
  have w1 : Frees z 0x10 := hw.sub rfl
  simp (maxDischargeDepth := 30) only [State.askAbandon, State.modSeq_keeps w0, State.send_keeps w1, and_self, hk]

theorem State.cancelArriving_keeps (hw : Frees z 0x4000000000000000005001011b0) (s : State) (d : Pend) (m : Move)  (hk : Kept z s) :
    Kept z (State.cancelArriving s d m) := by
  have w0 : Frees z 0x400000000000000000500100030 := hw.sub rfl
  have w1 : Frees z 0x4000000000000000005001011b0 := hw.sub rfl
  have w2 : Frees z 0x10 := hw.sub rfl
  simp (maxDischargeDepth := 30) only [State.cancelArriving, State.afterRelease_keeps w0, State.makeDone_keeps w1, State.send_keeps w2, and_self, hk]

theorem effSeqCancel_keeps (hw : Frees z 0x4000000000000000005001011b0) (d : Pend) (s : State)  (hk : Kept z s) :
    Kept z (effSeqCancel d s) := by
  have w0 : Frees z 0x400000000000000000500100030 := hw.sub rfl
  have w1 : Frees z 0x4000000000000000005001011b0 := hw.sub rfl
  have w2 : Frees z 0x90 := hw.sub rfl
  have w3 : Frees z 0x20 := hw.sub rfl
  have w4 : Frees z 0x80 := hw.sub rfl
  have w5 : Frees z 0x100 := hw.sub rfl
  unfold effSeqCancel
  repeat' first
    | with_reducible assumption
    | extract_lets
    | intro _
    | split
    | with_reducible apply State.afterRelease_keeps w0
    | with_reducible apply State.cancelArriving_keeps w1
    | with_reducible apply State.askAbandon_keeps w2
    | with_reducible apply State.await_keeps w3
    | with_reducible apply State.modSeq_keeps w4
    | with_reducible apply State.makeDone_keeps w1
    | with_reducible apply State.leavePass_keeps w5
    | with_reducible apply kept_if
    | with_reducible apply kept_foldl

theorem execSeqCancel_keeps (hw : Frees z 0x800000000000004000000000000000005011011b0) (c : Cmd) (s : State)  (hk : Kept z s) :
    KeptOut z (execSeqCancel c s) := by
  have w0 : Frees z 0x80000000000000400000000000000000501100030 := hw.sub rfl
  have w1 : Frees z 0x4000000000000000005001011b0 := hw.sub rfl
  simp (maxDischargeDepth := 30) +contextual only [execSeqCancel, keptOut_next, State.plain_keeps w0, effSeqCancel_keeps w1, and_self, kept_foldl, kept_ite, implies_true, hk]

theorem effSeqClose_keeps (hw : Frees z 0x4000e9800000000020d009071f0) (d : Pend) (s : State)  (hk : Kept z s) :
    Kept z (effSeqClose d s) := by
  have w0 : Frees z 0x400000000000000000500100030 := hw.sub rfl
  have w1 : Frees z 0x4000e98000000000208009071d0 := hw.sub rfl
  have w2 : Frees z 0x400000000000000000400900030 := hw.sub rfl
  unfold effSeqClose
  repeat' first
    | with_reducible assumption
    | extract_lets
    | intro _
    | split
    | with_reducible apply State.afterRelease_keeps w0
    | with_reducible apply State.afterFree_keeps w0
    | with_reducible apply State.closeSeq_keeps w1
    | with_reducible apply State.shipJournal_keeps w2
    | with_reducible apply kept_if
    | with_reducible apply kept_foldl

theorem execSeqClose_keeps (hw : Frees z 0x800000000000004000e9800000000020d019071f0) (c : Cmd) (s : State)  (hk : Kept z s) :
    KeptOut z (execSeqClose c s) := by
  have w0 : Frees z 0x80000000000000400000000000000000501100030 := hw.sub rfl
  have w1 : Frees z 0x4000e9800000000020d009071f0 := hw.sub rfl
  simp (maxDischargeDepth := 30) +contextual only [execSeqClose, keptOut_next, State.plain_keeps w0, effSeqClose_keeps w1, and_self, kept_foldl, kept_ite, implies_true, hk]

theorem effSeqQuery_keeps (hw : Frees z 0x400000000000000000500100030) (d : Pend) (s : State)  (hk : Kept z s) :
    Kept z (effSeqQuery d s) := by
  have w0 : Frees z 0x400000000000000000500100030 := hw.sub rfl
  have w1 : Frees z 0x400000000000000000000100010 := hw.sub rfl
  unfold effSeqQuery
  repeat' first
    | with_reducible assumption
    | extract_lets
    | intro _
    | split
    | with_reducible apply State.conclude_keeps w0
    | with_reducible apply State.putBuffer_keeps w1
    | with_reducible apply kept_if
    | with_reducible apply kept_foldl

theorem execSeqQuery_keeps (hw : Frees z 0x80000000000000400000000000000000501100030) (c : Cmd) (s : State)  (hk : Kept z s) :
    KeptOut z (execSeqQuery c s) := by
  have w0 : Frees z 0x80000000000000400000000000000000501100030 := hw.sub rfl
  have w1 : Frees z 0x400000000000000000500100030 := hw.sub rfl
  simp (maxDischargeDepth := 30) +contextual only [execSeqQuery, keptOut_next, State.plain_keeps w0, effSeqQuery_keeps w1, and_self, kept_foldl, kept_ite, implies_true, hk]

theorem State.changePartner_keeps (hw : Frees z 0x800080) (s : State) (h : ℕ) (node : ℕ)  (hk : Kept z s) :
    Kept z (State.changePartner s h node) := by
  have w0 : Frees z 0x80 := hw.sub rfl
  have w1 : Frees z 0x800080 := hw.sub rfl
  unfold State.changePartner
  repeat' first
    | with_reducible refine keptOpt_map ?_
    | with_reducible assumption
    | extract_lets
    | intro _
    | split
    | with_reducible apply State.modSeq_keeps w0
    | with_reducible apply State.slotsAt_keeps w1
    | with_reducible apply kept_if
    | with_reducible apply kept_foldl
    | dsimp +zetaDelta only

theorem State.slotAll_keeps (hw : Frees z 0x800080) (s : State) (h : ℕ)  (hk : Kept z s) :
    Kept z (State.slotAll s h) := by
  have w0 : Frees z 0x800080 := hw.sub rfl
  unfold State.slotAll
  repeat' first
    | with_reducible assumption
    | extract_lets
    | intro _
    | split
    | with_reducible apply State.mirrorTake_keeps w0
    | with_reducible apply kept_if
    | with_reducible apply kept_foldl

theorem State.protect_keeps (hw : Frees z 0x801080) (s : State) (h : ℕ) (node : ℕ) (q : Seq)  (hk : Kept z s) :
    Kept z (State.protect s h node q) := by
  have w0 : Frees z 0x80 := hw.sub rfl
  have w1 : Frees z 0x1000 := hw.sub rfl
  have w2 : Frees z 0x800080 := hw.sub rfl
  unfold State.protect
  repeat' first
    | with_reducible assumption
    | extract_lets
    | intro _
    | split
    | with_reducible apply State.modSeq_keeps w0
    | with_reducible apply State.notePins_keeps w1
    | with_reducible apply State.slotAll_keeps w2
    | with_reducible apply State.changePartner_keeps w2
    | with_reducible apply kept_if
    | with_reducible apply kept_foldl
    | dsimp +zetaDelta only

theorem effStateMirror_keeps (hw : Frees z 0x4000000000000000005009010b0) (d : Pend) (s : State)  (hk : Kept z s) :
    Kept z (effStateMirror d s) := by
  have w0 : Frees z 0x400000000000000000500100030 := hw.sub rfl
  have w1 : Frees z 0x20 := hw.sub rfl
  have w2 : Frees z 0x801080 := hw.sub rfl
  have w3 : Frees z 0x1000 := hw.sub rfl
  have w4 : Frees z 0x80 := hw.sub rfl
  have w5 : Frees z 0x400000000000000000000900090 := hw.sub rfl
  unfold effStateMirror
  repeat' first
    | with_reducible assumption
    | extract_lets
    | intro _
    | split
    | with_reducible apply State.conclude_keeps w0
    | with_reducible apply State.await_keeps w1
    | with_reducible apply State.protect_keeps w2
    | with_reducible apply State.notePins_keeps w3
    | with_reducible apply State.modSeq_keeps w4
    | with_reducible apply State.dropPages_keeps w5
    | with_reducible apply kept_if
    | with_reducible apply kept_foldl

theorem execStateMirror_keeps (hw : Frees z 0x800000000000004000000000000000005019010b0) (c : Cmd) (s : State)  (hk : Kept z s) :
    KeptOut z (execStateMirror c s) := by
  have w0 : Frees z 0x80000000000000400000000000000000501100030 := hw.sub rfl
  have w1 : Frees z 0x4000000000000000005009010b0 := hw.sub rfl
  simp (maxDischargeDepth := 30) +contextual only [execStateMirror, keptOut_next, State.plain_keeps w0, effStateMirror_keeps w1, and_self, kept_foldl, kept_ite, implies_true, hk]

theorem effStateFetch_keeps (hw : Frees z 0x404000000000000000500100030) (d : Pend) (s : State)  (hk : Kept z s) :
    Kept z (effStateFetch d s) := by
  have w0 : Frees z 0x400000000000000000500100030 := hw.sub rfl
  have w1 : Frees z 0x4000000000000000000000000 := hw.sub rfl
  have w2 : Frees z 0x20 := hw.sub rfl
  unfold effStateFetch
  extract_lets tier
  split
  · exact State.conclude_keeps w0 _ _ _ _ _ hk
  · refine kept_if (fun _ => State.conclude_keeps w0 _ _ _ _ _ hk) fun _ => ?_
    refine kept_if (fun _ => State.conclude_keeps w0 _ _ _ _ _ hk) fun _ => ?_
    extract_lets left r
    have hr : Kept z r.2 := by
      unfold r
      split
      · exact State.holdupCheck_keeps w1 _ _ _ hk
      · exact hk
    clear_value r
    exact kept_if (fun _ => State.checkFetches_keeps w0 _ (State.await_keeps w2 _ _ _ hr)) fun _ => State.conclude_keeps w0 _ _ _ _ _ hr

theorem execStateFetch_keeps (hw : Frees z 0x80000000000000404000000000000000501100030) (c : Cmd) (code : BitVec 12) (s : State)  (hk : Kept z s) :
    KeptOut z (execStateFetch c code s) := by
  have w0 : Frees z 0x80000000000000400000000000000000501100030 := hw.sub rfl
  have w1 : Frees z 0x404000000000000000500100030 := hw.sub rfl
  simp (maxDischargeDepth := 30) +contextual only [execStateFetch, keptOut_next, State.command_keeps w0, effStateFetch_keeps w1, and_self, kept_foldl, kept_ite, implies_true, hk]

theorem State.placeAll_keeps (hw : Frees z 0x807080) (s : State) (h : ℕ) (x2 : List (ℕ × ℕ))  (hk : Kept z s) :
    KeptOpt z (State.placeAll s h x2) := by
  have w0 : Frees z 0x807080 := hw.sub rfl
  induction x2 generalizing s h with
  | nil =>
    unfold State.placeAll
    repeat' first
      | with_reducible assumption
      | extract_lets
      | intro _
      | split
      | with_reducible apply State.assignAt_keeps w0
      | with_reducible refine State.assignAt_gives w0 (by with_reducible assumption) ?_
      | with_reducible apply kept_if
      | with_reducible apply kept_foldl
      | with_reducible apply keptOpt_none
      | with_reducible apply keptOpt_of
      | with_reducible refine KeptOpt.getD ?_ ?_
  | cons y ys ih =>
    unfold State.placeAll
    repeat' first
      | with_reducible assumption
      | extract_lets
      | intro _
      | split
      | with_reducible apply ih
      | with_reducible refine KeptOpt.get ?_ (by with_reducible assumption)
      | with_reducible apply State.assignAt_keeps w0
      | with_reducible refine State.assignAt_gives w0 (by with_reducible assumption) ?_
      | with_reducible apply kept_if
      | with_reducible apply kept_foldl
      | with_reducible apply keptOpt_none
      | with_reducible apply keptOpt_of
      | with_reducible refine KeptOpt.getD ?_ ?_
theorem State.placeAll_gives (hw : Frees z 0x807080) {t : State} {s : State} {h : ℕ} {x2 : List (ℕ × ℕ)} (he : State.placeAll s h x2 = some t) (hk : Kept z s) : Kept z t :=
  (State.placeAll_keeps hw s h x2 hk).get he

theorem effPageListSet_keeps (hw : Frees z 0x4000e9800000000020d009071b0) (d : Pend) (s : State)  (hk : Kept z s) :
    Kept z (effPageListSet d s) := by
  have w0 : Frees z 0x400000000000000000500100030 := hw.sub rfl
  have w1 : Frees z 0x400000000000000000000907190 := hw.sub rfl
  have w2 : Frees z 0x807080 := hw.sub rfl
  have w3 : Frees z 0x80 := hw.sub rfl
  have w4 : Frees z 0xe9800000000020800000000 := hw.sub rfl
  unfold effPageListSet
  repeat' first
    | with_reducible assumption
    | extract_lets
    | intro _
    | split
    | with_reducible apply State.conclude_keeps w0
    | with_reducible apply State.releaseAt_keeps w1
    | with_reducible apply State.placeAll_keeps w2
    | with_reducible refine State.placeAll_gives w2 (by with_reducible assumption) ?_
    | with_reducible apply State.modSeq_keeps w3
    | with_reducible apply State.noteTiers_keeps w4
    | with_reducible apply kept_if
    | with_reducible apply kept_foldl

theorem execPageListSet_keeps (hw : Frees z 0x800000000000004000e9800000000020d019071b0) (c : Cmd) (entries : List (BitVec 32)) (s : State)  (hk : Kept z s) :
    KeptOut z (execPageListSet c entries s) := by
  have w0 : Frees z 0x80000000000000400000000000000000501100030 := hw.sub rfl
  have w1 : Frees z 0x4000e9800000000020d009071b0 := hw.sub rfl
  simp (maxDischargeDepth := 30) +contextual only [execPageListSet, keptOut_next, State.command_keeps w0, effPageListSet_keeps w1, and_self, kept_foldl, kept_ite, implies_true, hk]

end Sys2Proof.Machine
end

