-- ==== Sys2Proof/Laws/KeepsMoves.lean ====
section
/-! SUPPORT. Every operation of Machine/Moves.lean keeps the queue, the canonical forms and every piece that it does not touch. -/

set_option Elab.async false
set_option linter.unusedSimpArgs false
set_option linter.unusedTactic false
set_option linter.unreachableTactic false

namespace Sys2Proof.Machine

variable {z : Ref}

theorem State.sendOffer_keeps (hw : Frees z 0x400000000000000000000100010) (s : State) (h : ℕ) (m : Move)  (hk : Kept z s) :
    Kept z (State.sendOffer s h m) := by
  have w0 : Frees z 0x400000000000000000000100010 := hw.sub rfl
  unfold State.sendOffer
  repeat' first
    | with_reducible assumption
    | extract_lets
    | intro _
    | split
    | with_reducible apply State.writeBulk_keeps w0
    | with_reducible apply kept_if
    | with_reducible apply kept_foldl

theorem State.sendPage_keeps (hw : Frees z 0x400000000000000000000101090) (s : State) (h : ℕ)  (hk : Kept z s) :
    Kept z (State.sendPage s h) := by
  have w0 : Frees z 0x1000 := hw.sub rfl
  have w1 : Frees z 0x80 := hw.sub rfl
  have w2 : Frees z 0x400000000000000000000100010 := hw.sub rfl
  unfold State.sendPage
  repeat' first
    | with_reducible assumption
    | extract_lets
    | intro _
    | split
    | with_reducible apply State.touchPages_keeps w0
    | with_reducible apply State.modSeq_keeps w1
    | with_reducible apply State.writeBulk_keeps w2
    | with_reducible apply kept_if
    | with_reducible apply kept_foldl

theorem effStateMove_keeps (hw : Frees z 0x4000000000000000005001010b0) (d : Pend) (s : State)  (hk : Kept z s) :
    Kept z (effStateMove d s) := by
  have w0 : Frees z 0x400000000000000000500100030 := hw.sub rfl
  have w1 : Frees z 0x80 := hw.sub rfl
  have w2 : Frees z 0x20 := hw.sub rfl
  have w3 : Frees z 0x400000000000000000000100010 := hw.sub rfl
  have w4 : Frees z 0x1080 := hw.sub rfl
  unfold effStateMove
  repeat' first
    | with_reducible assumption
    | extract_lets
    | intro _
    | split
    | with_reducible apply State.conclude_keeps w0
    | with_reducible apply State.modSeq_keeps w1
    | with_reducible apply State.await_keeps w2
    | with_reducible apply State.sendOffer_keeps w3
    | with_reducible apply State.become_keeps w4
    | with_reducible apply kept_if
    | with_reducible apply kept_foldl

theorem execStateMove_keeps (hw : Frees z 0x800000000000004000000000000000005011010b0) (c : Cmd) (s : State)  (hk : Kept z s) :
    KeptOut z (execStateMove c s) := by
  have w0 : Frees z 0x80000000000000400000000000000000501100030 := hw.sub rfl
  have w1 : Frees z 0x4000000000000000005001010b0 := hw.sub rfl
  simp (maxDischargeDepth := 30) +contextual only [execStateMove, keptOut_next, State.plain_keeps w0, effStateMove_keeps w1, and_self, kept_foldl, kept_ite, implies_true, hk]

theorem State.moveReplies_keeps (hw : Frees z 0x400000000000000000500100030) (s : State) (moves : List Pend) (cancels : List Pend) (status : ℕ) (detail : ℕ) (result : ℕ) (cancelled : ℕ)  (hk : Kept z s) :
    Kept z (State.moveReplies s moves cancels status detail result cancelled) := by
  have w0 : Frees z 0x400000000000000000500100030 := hw.sub rfl
  unfold State.moveReplies
  repeat' first
    | with_reducible assumption
    | extract_lets
    | intro _
    | split
    | with_reducible apply State.afterRecords_keeps w0
    | with_reducible apply kept_if
    | with_reducible apply kept_foldl

theorem State.moveEnds_keeps (hw : Frees z 0x4000e9800000000020d009071f0) (s : State) (h : ℕ) (q : Seq) (detail : ℕ) (home : ℕ)  (hk : Kept z s) :
    Kept z (State.moveEnds s h q detail home) := by
  have w0 : Frees z 0x400000000000000000500100030 := hw.sub rfl
  have w1 : Frees z 0x4000e98000000000208009071d0 := hw.sub rfl
  have w2 : Frees z 0x400000000000000000400900030 := hw.sub rfl
  unfold State.moveEnds
  repeat' first
    | with_reducible assumption
    | extract_lets
    | intro _
    | split
    | with_reducible apply State.moveReplies_keeps w0
    | with_reducible apply State.closeSeq_keeps w1
    | with_reducible apply State.shipJournal_keeps w2
    | with_reducible apply kept_if
    | with_reducible apply kept_foldl

theorem State.moveDone_keeps (hw : Frees z 0x4000e9800000000020d009071f0) (s : State) (h : ℕ) (q : Seq) (m : Move) (newPart : ℕ) (newHandle : ℕ)  (hk : Kept z s) :
    Kept z (State.moveDone s h q m newPart newHandle) := by
  have w0 : Frees z 0x4000e9800000000020d009071f0 := hw.sub rfl
  unfold State.moveDone
  repeat' first
    | with_reducible assumption
    | extract_lets
    | intro _
    | split
    | with_reducible apply State.moveEnds_keeps w0
    | with_reducible apply kept_if
    | with_reducible apply kept_foldl

theorem State.moveCancelled_keeps (hw : Frees z 0x4000000000000000005001011b0) (s : State) (h : ℕ) (q : Seq) (status : ℕ)  (hk : Kept z s) :
    Kept z (State.moveCancelled s h q status) := by
  have w0 : Frees z 0x400000000000000000500100030 := hw.sub rfl
  have w1 : Frees z 0x4000000000000000005001011b0 := hw.sub rfl
  unfold State.moveCancelled
  repeat' first
    | with_reducible assumption
    | extract_lets
    | intro _
    | split
    | with_reducible apply State.moveReplies_keeps w0
    | with_reducible apply State.makeDone_keeps w1
    | with_reducible apply kept_if
    | with_reducible apply kept_foldl

theorem State.moveBack_keeps (hw : Frees z 0x4000000000000000005001011b0) (s : State) (h : ℕ) (q : Seq) (status : ℕ)  (hk : Kept z s) :
    Kept z (State.moveBack s h q status) := by
  have w0 : Frees z 0x80 := hw.sub rfl
  have w1 : Frees z 0x1080 := hw.sub rfl
  have w2 : Frees z 0x4000000000000000005001011b0 := hw.sub rfl
  have w3 : Frees z 0x400000000000000000500100030 := hw.sub rfl
  unfold State.moveBack
  repeat' first
    | with_reducible assumption
    | extract_lets
    | intro _
    | split
    | with_reducible apply State.modSeq_keeps w0
    | with_reducible apply State.become_keeps w1
    | with_reducible apply State.makeDone_keeps w2
    | with_reducible apply State.moveReplies_keeps w3
    | with_reducible apply kept_if
    | with_reducible apply kept_foldl

theorem State.destinationLost_keeps (hw : Frees z 0x4000e9800000000020d009071f4) (s : State) (h : ℕ) (q : Seq) (m : Move)  (hk : Kept z s) :
    Kept z (State.destinationLost s h q m) := by
  have w0 : Frees z 0x4000000000000000005001011b0 := hw.sub rfl
  have w1 : Frees z 0x4000e9800000000020d009071f0 := hw.sub rfl
  have w2 : Frees z 0x4 := hw.sub rfl
  unfold State.destinationLost
  repeat' first
    | with_reducible assumption
    | extract_lets
    | intro _
    | split
    | with_reducible apply State.moveBack_keeps w0
    | with_reducible apply State.moveEnds_keeps w1
    | with_reducible apply kept_if
    | with_reducible apply kept_foldl
    | with_reducible refine upd_freeCtr w2 ?_

theorem execMoveFlipAck_keeps (hw : Frees z 0x4000e9800000000020d009071f0) (handle : BitVec 18) (newHandle : BitVec 18) (x2 : BitVec 64) (s : State)  (hk : Kept z s) :
    KeptOut z (execMoveFlipAck handle newHandle x2 s) := by
  have w0 : Frees z 0x0 := hw.sub rfl
  have w1 : Frees z 0x4000e9800000000020d009071f0 := hw.sub rfl
  unfold execMoveFlipAck
  repeat' first
    | with_reducible assumption
    | extract_lets
    | intro _
    | split
    | with_reducible apply State.whenLive_keeps w0
    | with_reducible apply State.moveDone_keeps w1
    | with_reducible apply kept_if
    | with_reducible apply kept_foldl
    | with_reducible apply keptOut_of

theorem State.abandoned_keeps (hw : Frees z 0x4000000000000000005001011b0) (s : State) (h : ℕ) (q : Seq) (m : Move)  (hk : Kept z s) :
    Kept z (State.abandoned s h q m) := by
  have w0 : Frees z 0x4000000000000000005001011b0 := hw.sub rfl
  unfold State.abandoned
  repeat' first
    | with_reducible assumption
    | extract_lets
    | intro _
    | split
    | with_reducible apply State.moveBack_keeps w0
    | with_reducible apply State.moveCancelled_keeps w0
    | with_reducible apply kept_if
    | with_reducible apply kept_foldl

theorem State.recastEnds_keeps (hw : Frees z 0x80) (s : State) (h : ℕ)  (hk : Kept z s) :
    Kept z (State.recastEnds s h) := by
  have w0 : Frees z 0x80 := hw.sub rfl
  simp (maxDischargeDepth := 30) only [State.recastEnds, State.modSeq_keeps w0, and_self, hk]

theorem State.spareRefused_keeps (hw : Frees z 0x800000) (s : State) (lost : ℕ) (spare : ℕ)  (hk : Kept z s) :
    Kept z (State.spareRefused s lost spare) := by
  have w0 : Frees z 0x800000 := hw.sub rfl
  simp (maxDischargeDepth := 30) only [State.spareRefused, upd_res w0, and_self, hk]

theorem State.recastRefused_keeps (hw : Frees z 0x800090) (s : State) (h : ℕ) (q : Seq) (m : Move)  (hk : Kept z s) :
    Kept z (State.recastRefused s h q m) := by
  have w0 : Frees z 0x80 := hw.sub rfl
  have w1 : Frees z 0x800000 := hw.sub rfl
  have w2 : Frees z 0x10 := hw.sub rfl
  unfold State.recastRefused
  repeat' first
    | with_reducible assumption
    | extract_lets
    | intro _
    | split
    | with_reducible apply State.modSeq_keeps w0
    | with_reducible apply State.recastEnds_keeps w0
    | with_reducible apply State.spareRefused_keeps w1
    | with_reducible apply State.send_keeps w2
    | with_reducible apply kept_if
    | with_reducible apply kept_foldl

theorem execMoveRefused_keeps (hw : Frees z 0x4000000000000000005009011b0) (handle : BitVec 18) (s : State)  (hk : Kept z s) :
    KeptOut z (execMoveRefused handle s) := by
  have w0 : Frees z 0x0 := hw.sub rfl
  have w1 : Frees z 0x4000000000000000005001011b0 := hw.sub rfl
  have w2 : Frees z 0x800090 := hw.sub rfl
  unfold execMoveRefused
  repeat' first
    | with_reducible assumption
    | extract_lets
    | intro _
    | split
    | with_reducible apply State.whenLive_keeps w0
    | with_reducible apply State.abandoned_keeps w1
    | with_reducible apply State.recastRefused_keeps w2
    | with_reducible apply State.moveBack_keeps w1
    | with_reducible apply kept_if
    | with_reducible apply kept_foldl
    | with_reducible apply keptOut_of

theorem execAbandonedAnswer_keeps (hw : Frees z 0x4000000000000000005001011b0) (handle : BitVec 18) (s : State)  (hk : Kept z s) :
    KeptOut z (execAbandonedAnswer handle s) := by
  have w0 : Frees z 0x0 := hw.sub rfl
  have w1 : Frees z 0x4000000000000000005001011b0 := hw.sub rfl
  unfold execAbandonedAnswer
  repeat' first
    | with_reducible assumption
    | extract_lets
    | intro _
    | split
    | with_reducible apply State.whenLive_keeps w0
    | with_reducible apply State.abandoned_keeps w1
    | with_reducible apply kept_if
    | with_reducible apply kept_foldl
    | with_reducible apply keptOut_of

theorem State.assignList_keeps (hw : Frees z 0x807180) (s : State) (h : ℕ) (x2 : List ℕ)  (hk : Kept z s) :
    KeptOpt z (State.assignList s h x2) := by
  have w0 : Frees z 0x807180 := hw.sub rfl
  induction x2 generalizing s h with
  | nil =>
    unfold State.assignList
    repeat' first
      | with_reducible assumption
      | extract_lets
      | intro _
      | split
      | with_reducible apply State.assignGroup_keeps w0
      | with_reducible refine State.assignGroup_gives w0 (by with_reducible assumption) ?_
      | with_reducible apply kept_if
      | with_reducible apply kept_foldl
      | with_reducible apply keptOpt_none
      | with_reducible apply keptOpt_of
      | with_reducible refine KeptOpt.getD ?_ ?_
  | cons y ys ih =>
    unfold State.assignList
    repeat' first
      | with_reducible assumption
      | extract_lets
      | intro _
      | split
      | with_reducible apply ih
      | with_reducible refine KeptOpt.get ?_ (by with_reducible assumption)
      | with_reducible apply State.assignGroup_keeps w0
      | with_reducible refine State.assignGroup_gives w0 (by with_reducible assumption) ?_
      | with_reducible apply kept_if
      | with_reducible apply kept_foldl
      | with_reducible apply keptOpt_none
      | with_reducible apply keptOpt_of
      | with_reducible refine KeptOpt.getD ?_ ?_
theorem State.assignList_gives (hw : Frees z 0x807180) {t : State} {s : State} {h : ℕ} {x2 : List ℕ} (he : State.assignList s h x2 = some t) (hk : Kept z s) : Kept z t :=
  (State.assignList_keeps hw s h x2 hk).get he

theorem State.shipArrived_keeps (hw : Frees z 0x400000000000000000000900090) (s : State) (h : ℕ)  (hk : Kept z s) :
    Kept z (State.shipArrived s h) := by
  have w0 : Frees z 0x400000000000000000000100010 := hw.sub rfl
  have w1 : Frees z 0x400000000000000000000900090 := hw.sub rfl
  unfold State.shipArrived
  repeat' first
    | with_reducible refine keptOpt_map ?_
    | with_reducible assumption
    | extract_lets
    | intro _
    | split
    | with_reducible apply State.shipSlots_keeps w0
    | with_reducible apply State.shipTokens_keeps w1
    | with_reducible apply kept_if
    | with_reducible apply kept_foldl

theorem State.takeMove_keeps (hw : Frees z 0x4000e98000000000208009071d0) (s : State) (node : ℕ) (o : MoveOffer)  (hk : Kept z s) :
    KeptOpt z (State.takeMove s node o) := by
  have w0 : Frees z 0x40 := hw.sub rfl
  have w1 : Frees z 0x807180 := hw.sub rfl
  have w2 : Frees z 0x80 := hw.sub rfl
  have w3 : Frees z 0xe9800000000020800000000 := hw.sub rfl
  have w4 : Frees z 0x400000000000000000000900090 := hw.sub rfl
  unfold State.takeMove
  split
  · exact keptOpt_none
  · extract_lets recast mirror
    clear_value mirror recast
    split
    · have h1 := State.takeHandle_gives w0 (by with_reducible assumption) hk
      extract_lets q
      clear_value q
      split
      · exact keptOpt_none
      · exact keptOpt_map_of (State.assignList_keeps w1 _ _ _ (State.openSeq_keeps w2 _ _ _ h1)) fun t ht =>
          State.noteTiers_keeps w3 _ (kept_if (fun _ => ht) fun _ => State.shipArrived_keeps w4 _ _ ht)
    · exact keptOpt_none
theorem State.takeMove_gives (hw : Frees z 0x4000e98000000000208009071d0) {t : State} {s : State} {node : ℕ} {o : MoveOffer} (he : State.takeMove s node o = some t) (hk : Kept z s) : Kept z t :=
  (State.takeMove_keeps hw s node o hk).get he

theorem State.moveOffered_keeps (hw : Frees z 0x4000e98000000000208009071d0) (s : State) (node : ℕ) (o : MoveOffer)  (hk : Kept z s) :
    Kept z (State.moveOffered s node o) := by
  have w0 : Frees z 0x4000e98000000000208009071d0 := hw.sub rfl
  have w1 : Frees z 0x10 := hw.sub rfl
  unfold State.moveOffered
  repeat' first
    | with_reducible assumption
    | extract_lets
    | intro _
    | split
    | with_reducible apply State.takeMove_keeps w0
    | with_reducible refine State.takeMove_gives w0 (by with_reducible assumption) ?_
    | with_reducible apply State.send_keeps w1
    | with_reducible refine KeptOpt.getD ?_ ?_
    | with_reducible apply kept_if
    | with_reducible apply kept_foldl

theorem State.expandGroup_keeps (hw : Frees z 0x3000) (s : State) (key : ℕ) (x2 : ℕ) (x3 : List (BitVec 8))  (hk : Kept z s) :
    Kept z (State.expandGroup s key x2 x3).1 := by
  have w0 : Frees z 0x3000 := hw.sub rfl
  induction x2 generalizing s key x3 with
  | zero => exact hk
  | succ n ih =>
    rw [State.expandGroup]
    split
    · exact ih _ _ _ (State.setPageBytes_keeps w0 _ _ _ hk)
    · exact hk
theorem State.expandGroup_gives (hw : Frees z 0x3000) {t : State} {y0} {s : State} {key : ℕ} {x2 : ℕ} {x3 : List (BitVec 8)} (he : State.expandGroup s key x2 x3 = (t, y0)) (hk : Kept z s) : Kept z t :=
  by have k := State.expandGroup_keeps hw s key x2 x3 hk; rw [he] at k; exact k

theorem State.mirrorGroup_keeps (hw : Frees z 0x400000000000000000000100010) (s : State) (h : ℕ) (i : ℕ) (n : ℕ) (q : Seq)  (hk : Kept z s) :
    Kept z (State.mirrorGroup s h i n q) := by
  have w0 : Frees z 0x400000000000000000000100010 := hw.sub rfl
  unfold State.mirrorGroup
  repeat' first
    | with_reducible assumption
    | extract_lets
    | intro _
    | split
    | with_reducible apply State.shipRow_keeps w0
    | with_reducible apply kept_if
    | with_reducible apply kept_foldl

theorem State.groupArrives_keeps (hw : Frees z 0x1800c0000024000000004000e982013000002080c9c71f1) (s : State) (node : ℕ) (handle : ℕ) (i : ℕ) (bs : List (BitVec 8))  (hk : Kept z s) :
    Kept z (State.groupArrives s node handle i bs) := by
  have w0 : Frees z 0x3000 := hw.sub rfl
  have w1 : Frees z 0x400000000000000000000100010 := hw.sub rfl
  have w2 : Frees z 0x80 := hw.sub rfl
  have w3 : Frees z 0x10 := hw.sub rfl
  have w4 : Frees z 0x4000e98000000000208009071d0 := hw.sub rfl
  have w5 : Frees z 0x1800c00000240000000000000002013000000000c9c11b1 := hw.sub rfl
  have w6 : Frees z 0x1000 := hw.sub rfl
  unfold State.groupArrives
  repeat' first
    | with_reducible assumption
    | extract_lets
    | intro _
    | split
    | with_reducible apply State.expandGroup_keeps w0
    | with_reducible refine State.expandGroup_gives w0 (by with_reducible assumption) ?_
    | with_reducible apply State.mirrorGroup_keeps w1
    | with_reducible apply State.modSeq_keeps w2
    | with_reducible apply State.send_keeps w3
    | with_reducible apply State.freeSeq_keeps w4
    | with_reducible apply State.expandError_keeps w5
    | with_reducible refine KeptOpt.getD ?_ ?_
    | with_reducible apply kept_if
    | with_reducible apply kept_foldl
    | with_reducible refine upd_tiers w6 rfl ?_

theorem State.sendFlip_keeps (hw : Frees z 0x400000000000000000000100010) (s : State) (node : ℕ) (srcHandle : ℕ) (part : ℕ) (h : ℕ) (tick : ℕ)  (hk : Kept z s) :
    Kept z (State.sendFlip s node srcHandle part h tick) := by
  have w0 : Frees z 0x400000000000000000000100010 := hw.sub rfl
  have w1 : Frees z 0x10 := hw.sub rfl
  simp (maxDischargeDepth := 30) only [State.sendFlip, State.writeBulk_keeps w0, State.send_keeps w1, and_self, hk]

theorem State.stampFlip_keeps (hw : Frees z 0x400000004000000000000000004009071b0) (s : State) (h : ℕ) (q : Seq) (m : Move)  (hk : Kept z s) :
    Kept z (State.stampFlip s h q m) := by
  have w0 : Frees z 0x80 := hw.sub rfl
  have w1 : Frees z 0x1080 := hw.sub rfl
  have w2 : Frees z 0x4000000000000000000009071b0 := hw.sub rfl
  have w3 : Frees z (Field.bit resStat_recastDest) := hw.sub rfl
  have w4 : Frees z 0x400000000000000000400900030 := hw.sub rfl
  have w5 : Frees z 0x400000000000000000000100010 := hw.sub rfl
  unfold State.stampFlip
  repeat' first
    | with_reducible assumption
    | extract_lets
    | intro _
    | split
    | with_reducible apply State.modSeq_keeps w0
    | with_reducible apply State.become_keeps w1
    | with_reducible apply State.toRebuild_keeps w2
    | with_reducible apply State.setFlag_keeps (hw := w3)
    | with_reducible apply State.reshipJournal_keeps w4
    | with_reducible apply State.shipDescriptor_keeps w5
    | with_reducible apply State.markJournal_keeps w0
    | with_reducible apply State.sendFlip_keeps w5
    | with_reducible apply kept_if
    | with_reducible apply kept_foldl

theorem execMoveFlip_keeps (hw : Frees z 0x400000004000000000000000004009071b0) (node : BitVec 16) (handle : BitVec 18) (s : State)  (hk : Kept z s) :
    KeptOut z (execMoveFlip node handle s) := by
  have w0 : Frees z 0x0 := hw.sub rfl
  have w1 : Frees z 0x400000004000000000000000004009071b0 := hw.sub rfl
  unfold execMoveFlip
  repeat' first
    | with_reducible assumption
    | extract_lets
    | intro _
    | split
    | with_reducible apply State.whenLive_keeps w0
    | with_reducible apply State.stampFlip_keeps w1
    | with_reducible apply kept_if
    | with_reducible apply kept_foldl
    | with_reducible apply keptOut_of

theorem State.lateCancel_keeps (hw : Frees z 0x4000000000000000005001011b0) (s : State) (h : ℕ)  (hk : Kept z s) :
    Kept z (State.lateCancel s h) := by
  have w0 : Frees z 0x80 := hw.sub rfl
  have w1 : Frees z 0x4000000000000000005001011b0 := hw.sub rfl
  unfold State.lateCancel
  repeat' first
    | with_reducible assumption
    | extract_lets
    | intro _
    | split
    | with_reducible apply State.modSeq_keeps w0
    | with_reducible apply State.makeDone_keeps w1
    | with_reducible apply kept_if
    | with_reducible apply kept_foldl

theorem State.abandonAsked_keeps (hw : Frees z 0x4000e9800000000020d009071f0) (s : State) (node : ℕ) (handle : ℕ)  (hk : Kept z s) :
    Kept z (State.abandonAsked s node handle) := by
  have w0 : Frees z 0x10 := hw.sub rfl
  have w1 : Frees z 0x80 := hw.sub rfl
  have w2 : Frees z 0x4000000000000000005001011b0 := hw.sub rfl
  have w3 : Frees z 0x4000e98000000000208009071d0 := hw.sub rfl
  unfold State.abandonAsked
  repeat' first
    | with_reducible assumption
    | extract_lets
    | intro _
    | split
    | with_reducible apply State.send_keeps w0
    | with_reducible apply State.modSeq_keeps w1
    | with_reducible apply State.lateCancel_keeps w2
    | with_reducible apply State.freeSeq_keeps w3
    | with_reducible apply kept_if
    | with_reducible apply kept_foldl

theorem execMoveAbandonRequest_keeps (hw : Frees z 0x4000e9800000000020d009071f0) (node : BitVec 16) (handle : BitVec 18) (s : State)  (hk : Kept z s) :
    KeptOut z (execMoveAbandonRequest node handle s) := by
  have w0 : Frees z 0x0 := hw.sub rfl
  have w1 : Frees z 0x4000e9800000000020d009071f0 := hw.sub rfl
  simp (maxDischargeDepth := 30) +contextual only [execMoveAbandonRequest, keptOut_next, State.whenLive_keeps w0, State.abandonAsked_keeps w1, and_self, kept_foldl, kept_ite, implies_true, hk]

end Sys2Proof.Machine
end

