-- ==== Sys2Proof/Laws/KeepsChannels.lean ====
section
/-! SUPPORT. Every operation of Machine/Channels.lean keeps the queue, the canonical forms and every piece that it does not touch. -/

set_option Elab.async false
set_option linter.unusedSimpArgs false
set_option linter.unusedTactic false
set_option linter.unreachableTactic false

namespace Sys2Proof.Machine

variable {z : Ref}

theorem State.modChan_keeps (hw : Frees z 0x40000) (s : State) (c : ℕ) (f : Channel → Channel)  (hk : Kept z s) :
    Kept z (State.modChan s c f) := by
  have w0 : Frees z 0x40000 := hw.sub rfl
  simp (maxDischargeDepth := 30) only [State.modChan, upd_gen w0, and_self, hk]

theorem State.hold_keeps (hw : Frees z 0x80000000000000000000000000000400001040000) (s : State) (c : ℕ) (a : HeldAccess)  (hk : Kept z s) :
    Kept z (State.hold s c a) := by
  have w0 : Frees z (Field.bit genChWait_held) := hw.sub rfl
  have w1 : Frees z 0x80000000000000000000000000000000001000000 := hw.sub rfl
  have w2 : Frees z 0x40000 := hw.sub rfl
  unfold State.hold
  repeat' first
    | with_reducible assumption
    | extract_lets
    | intro _
    | split
    | with_reducible apply State.bump_keeps (hw := w0)
    | with_reducible apply State.arrivesAt_keeps w1
    | with_reducible apply State.modChan_keeps w2
    | with_reducible apply kept_if
    | with_reducible apply kept_foldl

theorem State.addWait_keeps (hw : Frees z 0x400000040000) (s : State) (c : ℕ) (ticks : ℕ)  (hk : Kept z s) :
    Kept z (State.addWait s c ticks) := by
  have w0 : Frees z 0x40000 := hw.sub rfl
  have w1 : Frees z (Field.bit genChWait_waitTicks) := hw.sub rfl
  unfold State.addWait
  repeat' first
    | with_reducible assumption
    | extract_lets
    | intro _
    | split
    | with_reducible apply State.modChan_keeps w0
    | with_reducible apply State.bump_keeps (hw := w1)
    | with_reducible apply kept_if
    | with_reducible apply kept_foldl

end Sys2Proof.Machine
end

