-- ==== Sys2Proof/Laws/KeepsSchedule.lean ====
section
/-! SUPPORT. Every operation of Machine/Schedule.lean keeps the queue, the canonical forms and every piece that it does not touch. -/

set_option Elab.async false
set_option linter.unusedSimpArgs false
set_option linter.unusedTactic false
set_option linter.unreachableTactic false

namespace Sys2Proof.Machine

variable {z : Ref}

theorem State.noteTables_keeps (hw : Frees z 0x700000000000000000) (s : State) (p : ℕ)  (hk : Kept z s) :
    Kept z (State.noteTables s p) := by
  have w0 : Frees z (Field.bit schPart_shadowValid) := hw.sub rfl
  have w1 : Frees z (Field.bit schPart_activeValid) := hw.sub rfl
  have w2 : Frees z (Field.bit schPart_swapPending) := hw.sub rfl
  have w3 : Frees z (Field.bit schSwapTick_tick) := hw.sub rfl
  have w4 : Frees z (Field.bit schPeriod_period) := hw.sub rfl
  unfold State.noteTables
  repeat' first
    | with_reducible assumption
    | extract_lets
    | intro _
    | split
    | with_reducible apply State.setFlag_keeps (hw := w0)
    | with_reducible apply State.setFlag_keeps (hw := w1)
    | with_reducible apply State.setFlag_keeps (hw := w2)
    | with_reducible apply State.setFld_keeps (hw := w3)
    | with_reducible apply State.setFld_keeps (hw := w4)
    | with_reducible refine KeptOpt.getD ?_ ?_
    | with_reducible apply kept_if
    | with_reducible apply kept_foldl

theorem effSchTableLoad_keeps (hw : Frees z 0x400000000700000000500100130) (rows : List (BitVec 256)) (d : Pend) (s : State)  (hk : Kept z s) :
    Kept z (effSchTableLoad rows d s) := by
  have w0 : Frees z 0x400000000000000000500100030 := hw.sub rfl
  have w1 : Frees z 0x700000000000000000 := hw.sub rfl
  have w2 : Frees z 0x100 := hw.sub rfl
  unfold effSchTableLoad
  repeat' first
    | with_reducible refine keptOpt_map ?_
    | with_reducible assumption
    | extract_lets
    | intro _
    | split
    | with_reducible apply State.finish_keeps w0
    | with_reducible apply State.noteTables_keeps w1
    | with_reducible apply State.modPart_keeps w2
    | with_reducible apply kept_if
    | with_reducible apply kept_foldl

theorem execSchTableLoad_keeps (hw : Frees z 0x80000000000000400000000700000000501100130) (c : Cmd) (rows : List (BitVec 256)) (s : State)  (hk : Kept z s) :
    KeptOut z (execSchTableLoad c rows s) := by
  have w0 : Frees z 0x80000000000000400000000000000000501100030 := hw.sub rfl
  have w1 : Frees z 0x400000000700000000500100130 := hw.sub rfl
  simp (maxDischargeDepth := 30) +contextual only [execSchTableLoad, keptOut_next, State.command_keeps w0, effSchTableLoad_keeps w1, and_self, kept_foldl, kept_ite, implies_true, hk]

theorem effSchTableSwap_keeps (hw : Frees z 0x400000000700000000500100130) (d : Pend) (s : State)  (hk : Kept z s) :
    Kept z (effSchTableSwap d s) := by
  have w0 : Frees z 0x400000000000000000500100030 := hw.sub rfl
  have w1 : Frees z 0x20 := hw.sub rfl
  have w2 : Frees z 0x700000000000000000 := hw.sub rfl
  have w3 : Frees z 0x100 := hw.sub rfl
  unfold effSchTableSwap
  repeat' first
    | with_reducible assumption
    | extract_lets
    | intro _
    | split
    | with_reducible apply State.finish_keeps w0
    | with_reducible apply State.await_keeps w1
    | with_reducible apply State.noteTables_keeps w2
    | with_reducible apply State.modPart_keeps w3
    | with_reducible apply kept_if
    | with_reducible apply kept_foldl

theorem execSchTableSwap_keeps (hw : Frees z 0x80000000000000400000000700000000501100130) (c : Cmd) (s : State)  (hk : Kept z s) :
    KeptOut z (execSchTableSwap c s) := by
  have w0 : Frees z 0x80000000000000400000000000000000501100030 := hw.sub rfl
  have w1 : Frees z 0x400000000700000000500100130 := hw.sub rfl
  simp (maxDischargeDepth := 30) +contextual only [execSchTableSwap, keptOut_next, State.plain_keeps w0, effSchTableSwap_keeps w1, and_self, kept_foldl, kept_ite, implies_true, hk]

theorem State.takeOver_keeps (hw : Frees z 0x400000000700000000500100130) (s : State) (p : ℕ)  (hk : Kept z s) :
    Kept z (State.takeOver s p) := by
  have w0 : Frees z 0x700000000000000000 := hw.sub rfl
  have w1 : Frees z 0x100 := hw.sub rfl
  have w2 : Frees z 0x400000000000000000500100030 := hw.sub rfl
  have w3 : Frees z (Field.bit schPeriod_stretch) := hw.sub rfl
  have w4 : Frees z 0x20 := hw.sub rfl
  unfold State.takeOver
  repeat' first
    | with_reducible assumption
    | extract_lets
    | intro _
    | split
    | with_reducible apply State.noteTables_keeps w0
    | with_reducible apply State.modPart_keeps w1
    | with_reducible apply State.finish_keeps w2
    | with_reducible apply State.setFld_keeps (hw := w3)
    | with_reducible apply State.modCmd_keeps w4
    | with_reducible apply kept_if
    | with_reducible apply kept_foldl

end Sys2Proof.Machine
end

