-- ==== Sys2Proof/Laws/KeepsAsithRx.lean ====
section
/-! SUPPORT. Every operation of Machine/AsithRx.lean keeps the queue, the canonical forms and every piece that it does not touch. -/

set_option Elab.async false
set_option linter.unusedSimpArgs false
set_option linter.unusedTactic false
set_option linter.unreachableTactic false

namespace Sys2Proof.Machine

variable {z : Ref}

theorem State.rxWork_keeps (hw : Frees z 0x80000000000000000000000000000000001000000) (s : State) (q : ℕ)  (hk : Kept z s) :
    Kept z (State.rxWork s q) := by
  have w0 : Frees z 0x80000000000000000000000000000000001000000 := hw.sub rfl
  simp (maxDischargeDepth := 30) only [State.rxWork, State.rouse_keeps w0, and_self, hk]

theorem State.atPort_keeps (hw : Frees z 0x80000000000002000000000000000000001000000) (s : State) (rx : Rx) (op : ℕ) (f : State → State)  (hk : Kept z s) (hk_f : ∀ y0, Kept z y0 → Kept z (f y0)) :
    Kept z (State.atPort s rx op f) := by
  have w0 : Frees z (Field.bit asfRxDrop_tagFail) := hw.sub rfl
  have w1 : Frees z 0x80000000000000000000000000000000001000000 := hw.sub rfl
  unfold State.atPort
  (repeat' split) <;> simp (maxDischargeDepth := 30) only [(State.bump_keeps (hw := w0)), State.rxWork_keeps w1, and_self, *]

theorem State.acked_keeps (hw : Frees z 0x100000) (s : State) (c : ℕ)  (hk : Kept z s) :
    Kept z (State.acked s c) := by
  have w0 : Frees z 0x100000 := hw.sub rfl
  simp (maxDischargeDepth := 30) only [State.acked, State.modConn_keeps w0, and_self, hk]

theorem State.nak_keeps (hw : Frees z 0x100000) (s : State) (c : ℕ) (rx : Rx) (status : ℕ) (arg : ℕ)  (hk : Kept z s) :
    Kept z (State.nak s c rx status arg) := by
  have w0 : Frees z 0x100000 := hw.sub rfl
  simp (maxDischargeDepth := 30) only [State.nak, State.acked_keeps w0, State.respond_keeps w0, and_self, hk]

theorem State.ackNow_keeps (hw : Frees z 0x100000) (s : State) (c : ℕ) (rx : Rx)  (hk : Kept z s) :
    Kept z (State.ackNow s c rx) := by
  have w0 : Frees z 0x100000 := hw.sub rfl
  unfold State.ackNow
  repeat' first
    | with_reducible assumption
    | extract_lets
    | intro _
    | split
    | with_reducible apply State.acked_keeps w0
    | with_reducible apply State.respond_keeps w0
    | with_reducible apply kept_if
    | with_reducible apply kept_foldl

theorem State.retire_keeps (hw : Frees z 0x100000) (s : State) (c : ℕ) (rx : Rx)  (hk : Kept z s) :
    Kept z (State.retire s c rx) := by
  have w0 : Frees z 0x100000 := hw.sub rfl
  unfold State.retire
  repeat' first
    | with_reducible assumption
    | extract_lets
    | intro _
    | split
    | with_reducible apply State.modConn_keeps w0
    | with_reducible apply State.ackNow_keeps w0
    | with_reducible refine KeptOpt.getD ?_ ?_
    | with_reducible apply kept_if
    | with_reducible apply kept_foldl
    | dsimp +zetaDelta only

theorem State.consume_keeps (hw : Frees z 0x100000) (s : State) (c : ℕ) (rx : Rx)  (hk : Kept z s) :
    Kept z (State.consume s c rx) := by
  have w0 : Frees z 0x100000 := hw.sub rfl
  simp (maxDischargeDepth := 30) only [State.consume, State.modConn_keeps w0, and_self, hk]

theorem State.endRequest_keeps (hw : Frees z 0x100000) (s : State) (c : ℕ) (rx : Rx) (status : ℕ)  (hk : Kept z s) :
    Kept z (State.endRequest s c rx status) := by
  have w0 : Frees z 0x100000 := hw.sub rfl
  simp (maxDischargeDepth := 30) only [State.endRequest, State.consume_keeps w0, State.nak_keeps w0, and_self, hk]

theorem State.refuseAccess_keeps (hw : Frees z 0x2000000000000000000000100000) (s : State) (c : ℕ) (rx : Rx)  (hk : Kept z s) :
    Kept z (State.refuseAccess s c rx) := by
  have w0 : Frees z 0x100000 := hw.sub rfl
  have w1 : Frees z (Field.bit asfRxDrop_refused) := hw.sub rfl
  simp (maxDischargeDepth := 30) only [State.refuseAccess, State.endRequest_keeps w0, (State.bump_keeps (hw := w1)), and_self, hk]

theorem State.withdrawRequest_keeps (hw : Frees z 0x100000) (s : State) (c : ℕ) (rx : Rx) (status : ℕ) (arg : ℕ)  (hk : Kept z s) :
    Kept z (State.withdrawRequest s c rx status arg) := by
  have w0 : Frees z 0x100000 := hw.sub rfl
  simp (maxDischargeDepth := 30) only [State.withdrawRequest, State.modConn_keeps w0, State.nak_keeps w0, and_self, hk]

theorem State.retryAfter_keeps (hw : Frees z 0x80000000000000000000100000) (s : State) (c : ℕ) (rx : Rx) (us : ℕ)  (hk : Kept z s) :
    Kept z (State.retryAfter s c rx us) := by
  have w0 : Frees z 0x100000 := hw.sub rfl
  have w1 : Frees z (Field.bit asfPaging_retriesSent) := hw.sub rfl
  simp (maxDischargeDepth := 30) only [State.retryAfter, State.withdrawRequest_keeps w0, (State.bump_keeps (hw := w1)), and_self, hk]

theorem State.poisonMet_keeps (hw : Frees z 0x1800c00000240000000000000002010000000000c9c11b1) (s : State) (f : Frame)  (hk : Kept z s) :
    Kept z (State.poisonMet s f) := by
  have w0 : Frees z 0x1800c00000240000000000000002010000000000c9c11b1 := hw.sub rfl
  unfold State.poisonMet
  repeat' first
    | with_reducible assumption
    | extract_lets
    | intro _
    | split
    | with_reducible apply State.raise_keeps w0
    | with_reducible apply kept_if
    | with_reducible apply kept_foldl

theorem State.writeSpace_keeps (hw : Frees z 0x1b010) (s : State) (fn : ℕ) (off : ℕ) (bs : List (BitVec 8)) (poison : Bool)  (hk : Kept z s) :
    Kept z (State.writeSpace s fn off bs poison) := by
  have w0 : Frees z 0x1b000 := hw.sub rfl
  have w1 : Frees z 0x10000 := hw.sub rfl
  have w2 : Frees z 0x3000 := hw.sub rfl
  have w3 : Frees z 0x10 := hw.sub rfl
  unfold State.writeSpace
  split
  · extract_lets s1
    have h1 : Kept z s1 := State.writeDram_keeps w0 _ _ _ hk
    clear_value s1
    exact kept_if (fun _ => upd_poison w1 h1) fun _ => h1
  · extract_lets b whole src t
    refine upd_tiers_bytes w2 ?_ hk
    have ht : KeepCells z t.bytes := keepCells_writeList (kept_bytes hk) _ _
    clear_value t
    split
    · exact ht
    · exact ht
  · exact kept_if (fun _ => hk) fun _ => State.emit_keeps w3 _ _ hk
  · exact hk

theorem State.pageFor_keeps (hw : Frees z 0x1800c0800024000000004000eb820100000020d0d9c51b1) (s : State) (key : ℕ)  (hk : Kept z s) :
    Kept z (State.pageFor s key).1 := by
  have w0 : Frees z 0x1800c00000240000000000000002010000000000c9c11b1 := hw.sub rfl
  have w1 : Frees z 0xeb800000000020800005000 := hw.sub rfl
  have w2 : Frees z 0x80000000000000400000000000000000001105010 := hw.sub rfl
  have w3 : Frees z 0xe9800000000020800000000 := hw.sub rfl
  have w4 : Frees z 0x4000eb800000000020d00105030 := hw.sub rfl
  unfold State.pageFor
  repeat' first
    | with_reducible assumption
    | extract_lets
    | intro _
    | split
    | with_reducible apply State.raise_keeps w0
    | with_reducible apply State.abandonMove_keeps w1
    | with_reducible apply State.moveUp_keeps w2
    | with_reducible refine State.moveUp_gives w2 (by with_reducible assumption) ?_
    | with_reducible apply State.noteTiers_keeps w3
    | with_reducible apply State.completeMove_keeps w4
    | with_reducible apply kept_if
    | with_reducible apply kept_foldl
theorem State.pageFor_gives (hw : Frees z 0x1800c0800024000000004000eb820100000020d0d9c51b1) {t : State} {y0} {s : State} {key : ℕ} (he : State.pageFor s key = (t, y0)) (hk : Kept z s) : Kept z t :=
  by have k := State.pageFor_keeps hw s key hk; rw [he] at k; exact k

theorem State.pagesFor_keeps (hw : Frees z 0x1800c0800024000000004000eb820100000020d0d9c51b1) (s : State) (x1 : List ℕ)  (hk : Kept z s) :
    Kept z (State.pagesFor s x1).1 := by
  have w0 : Frees z 0x1800c0800024000000004000eb820100000020d0d9c51b1 := hw.sub rfl
  induction x1 generalizing s with
  | nil =>
    unfold State.pagesFor
    repeat' first
      | with_reducible assumption
      | extract_lets
      | intro _
      | split
      | with_reducible apply State.pageFor_keeps w0
      | with_reducible refine State.pageFor_gives w0 (by with_reducible assumption) ?_
      | with_reducible apply kept_if
      | with_reducible apply kept_foldl
  | cons y ys ih =>
    unfold State.pagesFor
    repeat' first
      | with_reducible assumption
      | extract_lets
      | intro _
      | split
      | with_reducible apply ih
      | with_reducible refine KeptOpt.get ?_ (by with_reducible assumption)
      | with_reducible apply State.pageFor_keeps w0
      | with_reducible refine State.pageFor_gives w0 (by with_reducible assumption) ?_
      | with_reducible apply kept_if
      | with_reducible apply kept_foldl
theorem State.pagesFor_gives (hw : Frees z 0x1800c0800024000000004000eb820100000020d0d9c51b1) {t : State} {y0} {s : State} {x1 : List ℕ} (he : State.pagesFor s x1 = (t, y0)) (hk : Kept z s) : Kept z t :=
  by have k := State.pagesFor_keeps hw s x1 hk; rw [he] at k; exact k

theorem State.pagingOf_keeps (hw : Frees z 0x1800c0800024000000004000eb820100000020d0d9c51b1) (s : State) (f : Frame)  (hk : Kept z s) :
    Kept z (State.pagingOf s f).1 := by
  have w0 : Frees z 0x1800c0800024000000004000eb820100000020d0d9c51b1 := hw.sub rfl
  unfold State.pagingOf
  repeat' first
    | with_reducible assumption
    | extract_lets
    | intro _
    | split
    | with_reducible apply State.pagesFor_keeps w0
    | with_reducible refine State.pagesFor_gives w0 (by with_reducible assumption) ?_
    | with_reducible apply kept_if
    | with_reducible apply kept_foldl
theorem State.pagingOf_gives (hw : Frees z 0x1800c0800024000000004000eb820100000020d0d9c51b1) {t : State} {y0} {s : State} {f : Frame} (he : State.pagingOf s f = (t, y0)) (hk : Kept z s) : Kept z t :=
  by have k := State.pagingOf_keeps hw s f hk; rw [he] at k; exact k

theorem State.answerRead_keeps (hw : Frees z 0x100000) (s : State) (c : ℕ) (rx : Rx) (bytes : List (BitVec 8)) (poison : Bool)  (hk : Kept z s) :
    Kept z (State.answerRead s c rx bytes poison) := by
  have w0 : Frees z 0x100000 := hw.sub rfl
  unfold State.answerRead
  repeat' first
    | with_reducible assumption
    | extract_lets
    | intro _
    | split
    | with_reducible apply State.acked_keeps w0
    | with_reducible apply State.respond_keeps w0
    | with_reducible apply kept_if
    | with_reducible apply kept_foldl

theorem State.doAtomic_keeps (hw : Frees z 0x1800c00000240000000000000002010000000000c9db1b1) (s : State) (c : ℕ) (rx : Rx) (fn : ℕ)  (hk : Kept z s) :
    Kept z (State.doAtomic s c rx fn) := by
  have w0 : Frees z 0x100000 := hw.sub rfl
  have w1 : Frees z 0x1800c00000240000000000000002010000000000c9c11b1 := hw.sub rfl
  have w2 : Frees z 0x1b010 := hw.sub rfl
  unfold State.doAtomic
  extract_lets f was s1 s2 s3
  refine kept_if (fun _ => State.endRequest_keeps w0 _ _ _ _ (State.poisonMet_keeps w1 _ _ hk)) fun _ => ?_
  have h1 : Kept z s1 := State.writeSpace_keeps w2 _ _ _ _ _ hk
  clear_value s1
  have h2 : Kept z s2 := State.modConn_keeps w0 _ _ _ h1
  clear_value s2
  have h3 : Kept z s3 := State.consume_keeps w0 _ _ _ h2
  clear_value s3
  exact State.acked_keeps w0 _ _ (State.respond_keeps w0 _ _ _ _ _ _ h3)

theorem State.notify_keeps (hw : Frees z 0x100010) (s : State) (r : ℕ) (index : ℕ) (f : Frame)  (hk : Kept z s) :
    Kept z (State.notify s r index f) := by
  have w0 : Frees z 0x10 := hw.sub rfl
  have w1 : Frees z 0x100000 := hw.sub rfl
  unfold State.notify
  repeat' first
    | with_reducible assumption
    | extract_lets
    | intro _
    | split
    | with_reducible apply State.emit_keeps w0
    | with_reducible apply kept_if
    | with_reducible apply kept_foldl
    | with_reducible refine upd_asf w1 ?_

theorem State.stall_keeps (hw : Frees z 0x100000) (s : State) (c : ℕ) (x : Stall)  (hk : Kept z s) :
    Kept z (State.stall s c x) := by
  have w0 : Frees z 0x100000 := hw.sub rfl
  simp (maxDischargeDepth := 30) only [State.stall, State.modConn_keeps w0, and_self, hk]

theorem State.carryOut_keeps (hw : Frees z 0x1800c00000240000000200000002010000000000c9db1b1) (s : State) (c : ℕ) (x : Stall)  (hk : Kept z s) :
    Kept z (State.carryOut s c x) := by
  have w0 : Frees z 0x100000 := hw.sub rfl
  have w1 : Frees z 0x10 := hw.sub rfl
  have w2 : Frees z 0x1800c00000240000000000000002010000000000c9c11b1 := hw.sub rfl
  have w3 : Frees z 0x1b010 := hw.sub rfl
  have w4 : Frees z 0x2000000000000000000000100000 := hw.sub rfl
  have w5 : Frees z 0x100010 := hw.sub rfl
  have w6 : Frees z 0x1800c00000240000000000000002010000000000c9db1b1 := hw.sub rfl
  unfold State.carryOut
  repeat' first
    | with_reducible assumption
    | extract_lets
    | intro _
    | split
    | with_reducible apply State.stall_keeps w0
    | with_reducible apply State.emit_keeps w1
    | with_reducible apply State.poisonMet_keeps w2
    | with_reducible apply State.answerRead_keeps w0
    | with_reducible apply State.consume_keeps w0
    | with_reducible apply State.retire_keeps w0
    | with_reducible apply State.writeSpace_keeps w3
    | with_reducible apply State.refuseAccess_keeps w4
    | with_reducible apply State.withdrawRequest_keeps w0
    | with_reducible apply State.notify_keeps w5
    | with_reducible apply State.doAtomic_keeps w6
    | with_reducible apply kept_if
    | with_reducible apply kept_foldl

theorem State.proceed_keeps (hw : Frees z 0x1800c0800024000000024800eb820100000420d0d9df1b1) (s : State) (c : ℕ) (x : Stall) (again : Bool)  (hk : Kept z s) :
    Kept z (State.proceed s c x again) := by
  have w0 : Frees z 0x1800c0800024000000004000eb820100000020d0d9c51b1 := hw.sub rfl
  have w1 : Frees z 0x80000000000000000000000000000400001040000 := hw.sub rfl
  have w2 : Frees z 0x100000 := hw.sub rfl
  have w3 : Frees z 0x1800c00000240000000200000002010000000000c9db1b1 := hw.sub rfl
  have w4 : Frees z (Field.bit asfPaging_stalls) := hw.sub rfl
  have w5 : Frees z 0x80000000000000000000100000 := hw.sub rfl
  unfold State.proceed
  repeat' first
    | with_reducible assumption
    | extract_lets
    | intro _
    | split
    | with_reducible apply State.pagingOf_keeps w0
    | with_reducible refine State.pagingOf_gives w0 (by with_reducible assumption) ?_
    | with_reducible apply State.hold_keeps w1
    | with_reducible apply State.stall_keeps w2
    | with_reducible apply State.carryOut_keeps w3
    | with_reducible apply State.bump_keeps (hw := w4)
    | with_reducible apply State.retryAfter_keeps w5
    | with_reducible apply State.endRequest_keeps w2
    | with_reducible apply kept_if
    | with_reducible apply kept_foldl

theorem State.doorbellStore_keeps (hw : Frees z 0x2400000000000000000590100030) (s : State) (c : ℕ) (rx : Rx) (o : ℕ)  (hk : Kept z s) :
    Kept z (State.doorbellStore s c rx o) := by
  have w0 : Frees z 0x2000000000000000000000100000 := hw.sub rfl
  have w1 : Frees z 0x80000000 := hw.sub rfl
  have w2 : Frees z 0x90000020 := hw.sub rfl
  have w3 : Frees z 0x400000000000000000590100030 := hw.sub rfl
  have w4 : Frees z 0x100000 := hw.sub rfl
  unfold State.doorbellStore
  repeat' first
    | with_reducible assumption
    | extract_lets
    | intro _
    | split
    | with_reducible apply State.refuseAccess_keeps w0
    | with_reducible apply State.noteFault_keeps w1
    | with_reducible apply State.ringTail_keeps w2
    | with_reducible apply State.ringHead_keeps w3
    | with_reducible apply State.retire_keeps w4
    | with_reducible apply State.consume_keeps w4
    | with_reducible apply kept_if
    | with_reducible apply kept_foldl
    | dsimp +zetaDelta only

theorem State.takeMember_keeps (hw : Frees z 0x10700000000000000100) (s : State) (p : ℕ) (group : BitVec 64) (swapTick : ℕ) (period : ℕ) (stretch : ℕ) (rows : List (BitVec 256))  (hk : Kept z s) :
    Kept z (State.takeMember s p group swapTick period stretch rows) := by
  have w0 : Frees z (Field.bit schPeriod_stretch) := hw.sub rfl
  have w1 : Frees z (Reg.bit .schGroup) := hw.sub rfl
  have w2 : Frees z 0x700000000000000000 := hw.sub rfl
  have w3 : Frees z 0x100 := hw.sub rfl
  unfold State.takeMember
  repeat' first
    | with_reducible refine keptOpt_map ?_
    | with_reducible assumption
    | extract_lets
    | intro _
    | split
    | with_reducible apply State.setFld_keeps (hw := w0)
    | with_reducible apply State.setReg_keeps (hw := w1)
    | with_reducible apply State.noteTables_keeps w2
    | with_reducible apply State.modPart_keeps w3
    | with_reducible apply kept_if
    | with_reducible apply kept_foldl

theorem State.useWrite_keeps (hw : Frees z 0x1800c0000024000000024000e9830730000020c0c9c71f1) (s : State) (c : ℕ) (rx : Rx) (use : WriteUse)  (hk : Kept z s) :
    Kept z (State.useWrite s c rx use) := by
  have w0 : Frees z 0x100000 := hw.sub rfl
  have w1 : Frees z 0x4000e98000000000208009071d0 := hw.sub rfl
  have w2 : Frees z 0x2000000000000000000000100000 := hw.sub rfl
  have w3 : Frees z 0x1800c0000024000000004000e982013000002080c9c71f1 := hw.sub rfl
  have w4 : Frees z 0x400000000000000000400900030 := hw.sub rfl
  have w5 : Frees z 0x10700000000000000100 := hw.sub rfl
  have w6 : Frees z 0x800000 := hw.sub rfl
  unfold State.useWrite
  repeat' first
    | with_reducible assumption
    | extract_lets
    | intro _
    | split
    | with_reducible apply State.retire_keeps w0
    | with_reducible apply State.consume_keeps w0
    | with_reducible apply State.moveOffered_keeps w1
    | with_reducible apply State.refuseAccess_keeps w2
    | with_reducible apply State.groupArrives_keeps w3
    | with_reducible apply State.keepJournal_keeps w4
    | with_reducible apply State.reshipJournals_keeps w4
    | with_reducible apply State.takeMember_keeps w5
    | with_reducible apply State.spareRefused_keeps w6
    | with_reducible apply kept_if
    | with_reducible apply kept_foldl
    | with_reducible refine upd_res w6 ?_

theorem State.head_keeps (hw : Frees z 0x1800c080002400000002c800eb830730000420d9d9df1f1) (s : State) (c : ℕ) (rx : Rx) (use : WriteUse)  (hk : Kept z s) :
    Kept z (State.head s c rx use) := by
  have w0 : Frees z 0x100000 := hw.sub rfl
  have w1 : Frees z (Field.bit asfEpoch_staleSent) := hw.sub rfl
  have w2 : Frees z 0x1800c0000024000000024000e9830730000020c0c9c71f1 := hw.sub rfl
  have w3 : Frees z 0x2400000000000000000590100030 := hw.sub rfl
  have w4 : Frees z 0x2000000000000000000000100000 := hw.sub rfl
  have w5 : Frees z 0x1800c0800024000000024800eb820100000420d0d9df1b1 := hw.sub rfl
  unfold State.head
  repeat' first
    | with_reducible assumption
    | extract_lets
    | intro _
    | split
    | with_reducible apply State.withdrawRequest_keeps w0
    | with_reducible apply State.bump_keeps (hw := w1)
    | with_reducible apply State.endRequest_keeps w0
    | with_reducible apply State.useWrite_keeps w2
    | with_reducible apply State.doorbellStore_keeps w3
    | with_reducible apply State.refuseAccess_keeps w4
    | with_reducible apply State.proceed_keeps w5
    | with_reducible apply kept_if
    | with_reducible apply kept_foldl

theorem State.duplicate_keeps (hw : Frees z 0x1800c080002400000002c800eb830730000420d9d9df1f1) (s : State) (c : ℕ) (k : Conn) (rx : Rx)  (hk : Kept z s) :
    Kept z (State.duplicate s c k rx) := by
  have w0 : Frees z 0x1800c080002400000002c800eb830730000420d9d9df1f1 := hw.sub rfl
  have w1 : Frees z 0x100000 := hw.sub rfl
  unfold State.duplicate
  repeat' first
    | with_reducible assumption
    | extract_lets
    | intro _
    | split
    | with_reducible apply State.head_keeps w0
    | with_reducible apply State.ackNow_keeps w1
    | with_reducible apply State.respond_keeps w1
    | with_reducible apply kept_if
    | with_reducible apply kept_foldl

theorem State.ordered_keeps (hw : Frees z 0x1800c080002400000002c800eb830730000420d9d9df1f1) (s : State) (c : ℕ) (rx : Rx) (use : WriteUse)  (hk : Kept z s) :
    Kept z (State.ordered s c rx use) := by
  have w0 : Frees z (Field.bit asfRxDrop_seqDiscard) := hw.sub rfl
  have w1 : Frees z 0x1800c080002400000002c800eb830730000420d9d9df1f1 := hw.sub rfl
  have w2 : Frees z 0x100000 := hw.sub rfl
  unfold State.ordered
  repeat' first
    | with_reducible assumption
    | extract_lets
    | intro _
    | split
    | with_reducible apply State.bump_keeps (hw := w0)
    | with_reducible apply State.head_keeps w1
    | with_reducible apply State.modConn_keeps w2
    | with_reducible apply State.nak_keeps w2
    | with_reducible apply State.duplicate_keeps w1
    | with_reducible apply kept_if
    | with_reducible apply kept_foldl

theorem State.bufferFrame_keeps (hw : Frees z 0x400000000000000000000100000) (s : State) (c : ℕ) (rx : Rx) (use : WriteUse)  (hk : Kept z s) :
    Kept z (State.bufferFrame s c rx use) := by
  have w0 : Frees z 0x100000 := hw.sub rfl
  have w1 : Frees z (Field.bit asfCtxStat_rnrSent) := hw.sub rfl
  unfold State.bufferFrame
  repeat' first
    | with_reducible assumption
    | extract_lets
    | intro _
    | split
    | with_reducible apply State.withdrawRequest_keeps w0
    | with_reducible apply State.bump_keeps (hw := w1)
    | with_reducible apply State.modConn_keeps w0
    | with_reducible apply kept_if
    | with_reducible apply kept_foldl
    | with_reducible refine upd_asf w0 ?_

theorem State.noteEpoch_keeps (hw : Frees z 0x800000000000000000000000000) (s : State)  (hk : Kept z s) :
    Kept z (State.noteEpoch s) := by
  have w0 : Frees z (Field.bit asfEpoch_oldInflight) := hw.sub rfl
  simp (maxDischargeDepth := 30) only [State.noteEpoch, (State.setFld_keeps (hw := w0)), and_self, hk]

theorem State.pump_keeps (hw : Frees z 0x1800c080002400000002c800eb830730000420d9d9df1f1) (s : State) (c : ℕ) (x2 : ℕ)  (hk : Kept z s) :
    Kept z (State.pump s c x2) := by
  have w0 : Frees z 0x1800c080002400000002c800eb830730000420d9d9df1f1 := hw.sub rfl
  have w1 : Frees z 0x100000 := hw.sub rfl
  induction x2 generalizing s c with
  | zero =>
    unfold State.pump
    repeat' first
      | with_reducible assumption
      | extract_lets
      | intro _
      | split
      | with_reducible apply State.ordered_keeps w0
      | with_reducible apply State.modConn_keeps w1
      | with_reducible apply kept_if
      | with_reducible apply kept_foldl
      | with_reducible refine upd_asf w1 ?_
  | succ n ih =>
    unfold State.pump
    repeat' first
      | with_reducible assumption
      | extract_lets
      | intro _
      | split
      | with_reducible apply ih
      | with_reducible refine KeptOpt.get ?_ (by with_reducible assumption)
      | with_reducible apply State.ordered_keeps w0
      | with_reducible apply State.modConn_keeps w1
      | with_reducible apply kept_if
      | with_reducible apply kept_foldl
      | with_reducible refine upd_asf w1 ?_

theorem State.arrive_keeps (hw : Frees z 0x1800c080002400000002c800eb830730000420d9d9df1f1) (s : State) (rx : Rx) (use : WriteUse)  (hk : Kept z s) :
    Kept z (State.arrive s rx use) := by
  have w0 : Frees z 0x100000 := hw.sub rfl
  have w1 : Frees z 0x400000000000000000000000010 := hw.sub rfl
  have w2 : Frees z 0x800000000000000000000000000 := hw.sub rfl
  have w3 : Frees z 0x400000000000000000000100000 := hw.sub rfl
  have w4 : Frees z 0x1800c080002400000002c800eb830730000420d9d9df1f1 := hw.sub rfl
  unfold State.arrive
  repeat' first
    | with_reducible assumption
    | extract_lets
    | intro _
    | split
    | with_reducible apply State.respond_keeps w0
    | with_reducible apply State.fetchContext_keeps w1
    | with_reducible apply State.noteEpoch_keeps w2
    | with_reducible apply State.bufferFrame_keeps w3
    | with_reducible apply State.ordered_keeps w4
    | with_reducible apply kept_if
    | with_reducible apply kept_foldl

theorem State.markFrames_keeps (hw : Frees z 0x1000) (s : State) (i : ℕ) (r : Region)  (hk : Kept z s) :
    Kept z (State.markFrames s i r) := by
  have w0 : Frees z 0x1000 := hw.sub rfl
  unfold State.markFrames
  repeat' first
    | with_reducible assumption
    | extract_lets
    | intro _
    | split
    | with_reducible apply kept_if
    | with_reducible apply kept_foldl
    | with_reducible refine upd_tiers w0 rfl ?_

theorem State.notePool_keeps (hw : Frees z 0xe9800000000020800000000) (s : State)  (hk : Kept z s) :
    Kept z (State.notePool s) := by
  have w0 : Frees z 0xe9800000000020800000000 := hw.sub rfl
  have w1 : Frees z (Field.bit tirPool_pool) := hw.sub rfl
  simp (maxDischargeDepth := 30) only [State.notePool, State.noteTiers_keeps w0, (State.setFld_keeps (hw := w1)), and_self, hk]

theorem State.freeRegion_keeps (hw : Frees z 0xe9800000000020800101000) (s : State) (i : ℕ)  (hk : Kept z s) :
    Kept z (State.freeRegion s i) := by
  have w0 : Frees z 0x1000 := hw.sub rfl
  have w1 : Frees z 0xe9800000000020800000000 := hw.sub rfl
  have w2 : Frees z 0x101000 := hw.sub rfl
  unfold State.freeRegion
  repeat' first
    | with_reducible assumption
    | extract_lets
    | intro _
    | split
    | with_reducible apply State.markFrames_keeps w0
    | with_reducible apply State.notePool_keeps w1
    | with_reducible apply kept_if
    | with_reducible apply kept_foldl
    | with_reducible refine upd_tiers_asf w2 rfl ?_

theorem State.settleRegions_keeps (hw : Frees z 0x204000e9800000000020d00101030) (s : State)  (hk : Kept z s) :
    Kept z (State.settleRegions s) := by
  have w0 : Frees z 0x400000000000000000500100030 := hw.sub rfl
  have w1 : Frees z 0xe9800000000020800101000 := hw.sub rfl
  have w2 : Frees z (Field.bit asfOwnStat_busy) := hw.sub rfl
  have w3 : Frees z 0x100000 := hw.sub rfl
  unfold State.settleRegions
  repeat' first
    | with_reducible assumption
    | extract_lets
    | intro _
    | split
    | with_reducible apply State.finish_keeps w0
    | with_reducible apply State.freeRegion_keeps w1
    | with_reducible apply State.setFlag_keeps (hw := w2)
    | with_reducible apply kept_if
    | with_reducible apply kept_foldl
    | with_reducible refine upd_asf w3 ?_

theorem State.resume_keeps (hw : Frees z 0x1800c080002400000002c800eb830730000420d9d9df1f1) (s : State) (c : ℕ) (x : Stall)  (hk : Kept z s) :
    Kept z (State.resume s c x) := by
  have w0 : Frees z 0x1800c0800024000000024800eb820100000420d0d9df1b1 := hw.sub rfl
  have w1 : Frees z 0x100000 := hw.sub rfl
  have w2 : Frees z 0x1800c080002400000002c800eb830730000420d9d9df1f1 := hw.sub rfl
  unfold State.resume
  repeat' first
    | with_reducible assumption
    | extract_lets
    | intro _
    | split
    | with_reducible apply State.proceed_keeps w0
    | with_reducible apply State.modConn_keeps w1
    | with_reducible apply State.pump_keeps w2
    | with_reducible apply kept_if
    | with_reducible apply kept_foldl

theorem State.wake_keeps (hw : Frees z 0x1800c080002400000002c800eb830730000420d9d9df1f1) (s : State) (c : ℕ)  (hk : Kept z s) :
    Kept z (State.wake s c) := by
  have w0 : Frees z 0x1800c080002400000002c800eb830730000420d9d9df1f1 := hw.sub rfl
  unfold State.wake
  repeat' first
    | with_reducible refine keptOpt_bind ?_
    | with_reducible assumption
    | extract_lets
    | intro _
    | split
    | with_reducible apply State.resume_keeps w0
    | with_reducible apply kept_if
    | with_reducible apply kept_foldl

theorem State.channelServes_keeps (hw : Frees z 0x1800c080002400000002c800eb830730000420d9d9df1f1) (s : State) (c : ℕ)  (hk : Kept z s) :
    Kept z (State.channelServes s c) := by
  have w0 : Frees z 0x1800c080002400000002c800eb830730000420d9d9df1f1 := hw.sub rfl
  unfold State.channelServes
  repeat' first
    | with_reducible refine keptOpt_bind ?_
    | with_reducible assumption
    | extract_lets
    | intro _
    | split
    | with_reducible apply State.resume_keeps w0
    | with_reducible apply kept_if
    | with_reducible apply kept_foldl

theorem State.wakeAll_keeps (hw : Frees z 0x1800c080002400000022c800eb830730000420d9d9df1f1) (s : State)  (hk : Kept z s) :
    Kept z (State.wakeAll s) := by
  have w0 : Frees z 0x800000000000000000000000000 := hw.sub rfl
  have w1 : Frees z 0x204000e9800000000020d00101030 := hw.sub rfl
  have w2 : Frees z 0x1800c080002400000002c800eb830730000420d9d9df1f1 := hw.sub rfl
  unfold State.wakeAll
  repeat' first
    | with_reducible assumption
    | extract_lets
    | intro _
    | split
    | with_reducible apply State.noteEpoch_keeps w0
    | with_reducible apply State.settleRegions_keeps w1
    | with_reducible apply State.wake_keeps w2
    | with_reducible apply kept_if
    | with_reducible apply kept_foldl

end Sys2Proof.Machine
end

