-- ==== Sys2Proof/Laws/KeepsControl.lean ====
section
/-! SUPPORT. Every operation of Machine/Control.lean keeps the queue, the canonical forms and every piece that it does not touch. -/

set_option Elab.async false
set_option linter.unusedSimpArgs false
set_option linter.unusedTactic false
set_option linter.unreachableTactic false

namespace Sys2Proof.Machine

variable {z : Ref}

theorem State.shipControl_keeps (hw : Frees z 0x400000000000000000000100010) (s : State) (p : ℕ) (step : ℕ) (c : ℕ) (node : ℕ)  (hk : Kept z s) :
    Kept z (State.shipControl s p step c node) := by
  have w0 : Frees z 0x400000000000000000000100010 := hw.sub rfl
  unfold State.shipControl
  repeat' first
    | with_reducible assumption
    | extract_lets
    | intro _
    | split
    | with_reducible apply State.shipAt_keeps w0
    | with_reducible apply kept_if
    | with_reducible apply kept_foldl
    | dsimp +zetaDelta only

end Sys2Proof.Machine
end

