-- ==== Sys2Proof/Laws/KeepsCommit.lean ====
section
/-! SUPPORT. Every operation of Machine/Commit.lean keeps the queue, the canonical forms and every piece that it does not touch. -/

set_option Elab.async false
set_option linter.unusedSimpArgs false
set_option linter.unusedTactic false
set_option linter.unreachableTactic false

namespace Sys2Proof.Machine

variable {z : Ref}

theorem State.chargeTenant_keeps (hw : Frees z 0x180000000000000000200) (s : State) (t : ℕ) (units : ℕ)  (hk : Kept z s) :
    Kept z (State.chargeTenant s t units) := by
  have w0 : Frees z 0x180000000000000000200 := hw.sub rfl
  unfold State.chargeTenant
  repeat' first
    | with_reducible assumption
    | extract_lets
    | intro _
    | split
    | with_reducible apply State.setTenant_keeps w0
    | with_reducible apply kept_if
    | with_reducible apply kept_foldl

theorem State.countSpec_keeps (hw : Frees z 0x2000000000000) (s : State) (q : Seq) (k : ℕ) (a : ℕ)  (hk : Kept z s) :
    Kept z (State.countSpec s q k a) := by
  have w0 : Frees z (Field.bit genSpecStat_halvings) := hw.sub rfl
  have w1 : Frees z (Field.bit genSpecStat_probesAccepted) := hw.sub rfl
  unfold State.countSpec
  repeat' first
    | with_reducible assumption
    | extract_lets
    | intro _
    | split
    | with_reducible apply State.bump_keeps (hw := w0)
    | with_reducible apply State.bump_keeps (hw := w1)
    | with_reducible apply kept_if
    | with_reducible apply kept_foldl

theorem State.markStep_keeps (hw : Frees z 0x80) (s : State) (h : ℕ) (step : ℕ)  (hk : Kept z s) :
    Kept z (State.markStep s h step) := by
  have w0 : Frees z 0x80 := hw.sub rfl
  unfold State.markStep
  repeat' first
    | with_reducible assumption
    | extract_lets
    | intro _
    | split
    | with_reducible apply State.modSeq_keeps w0
    | with_reducible apply kept_if
    | with_reducible apply kept_foldl

theorem State.owe_keeps (hw : Frees z 0x100) (s : State) (p : ℕ) (step : ℕ) (h : ℕ) (from_ : ℕ) (first : ℕ)  (hk : Kept z s) :
    Kept z (State.owe s p step h from_ first) := by
  have w0 : Frees z 0x100 := hw.sub rfl
  simp (maxDischargeDepth := 30) only [State.owe, State.modPart_keeps w0, and_self, hk]

theorem State.addTokens_keeps (hw : Frees z 0x4000001800000000000001003b0) (s : State) (p : ℕ) (h : ℕ) (step : ℕ) (q : Seq) (toks : List ℕ)  (hk : Kept z s) :
    Kept z (State.addTokens s p h step q toks) := by
  have w0 : Frees z 0x80 := hw.sub rfl
  have w1 : Frees z 0x180000000000000000200 := hw.sub rfl
  have w2 : Frees z 0x400000000000000000000100130 := hw.sub rfl
  unfold State.addTokens
  repeat' first
    | with_reducible refine keptOpt_map ?_
    | with_reducible assumption
    | extract_lets
    | intro _
    | split
    | with_reducible apply State.modSeq_keeps w0
    | with_reducible apply State.chargeTenant_keeps w1
    | with_reducible apply State.addRecs_keeps w2
    | with_reducible apply State.markStep_keeps w0
    | with_reducible apply State.markJournal_keeps w0
    | with_reducible apply kept_if
    | with_reducible apply kept_foldl

theorem State.commitDone_keeps (hw : Frees z 0x4000000000000000000001011b0) (s : State) (p : ℕ) (h : ℕ) (reason : ℕ)  (hk : Kept z s) :
    Kept z (State.commitDone s p h reason) := by
  have w0 : Frees z 0x400000000000000000000100130 := hw.sub rfl
  have w1 : Frees z 0x1080 := hw.sub rfl
  have w2 : Frees z 0x80 := hw.sub rfl
  unfold State.commitDone
  repeat' first
    | with_reducible assumption
    | extract_lets
    | intro _
    | split
    | with_reducible apply State.addRecs_keeps w0
    | with_reducible apply State.become_keeps w1
    | with_reducible apply State.modSeq_keeps w2
    | with_reducible apply kept_if
    | with_reducible apply kept_foldl

theorem State.commitStep_keeps (hw : Frees z 0x4000001800000020005001013b0) (s : State) (p : ℕ) (step : ℕ) (h : ℕ)  (hk : Kept z s) :
    Kept z (State.commitStep s p step h) := by
  have w0 : Frees z 0x80 := hw.sub rfl
  have w1 : Frees z 0x2000000000000 := hw.sub rfl
  have w2 : Frees z 0x4000001800000000000001003b0 := hw.sub rfl
  have w3 : Frees z 0x400000000000000000500100030 := hw.sub rfl
  have w4 : Frees z 0x4000000000000000000001011b0 := hw.sub rfl
  have w5 : Frees z 0x1000 := hw.sub rfl
  have w6 : Frees z 0x100 := hw.sub rfl
  unfold State.commitStep
  repeat' first
    | with_reducible refine keptOpt_map ?_
    | with_reducible assumption
    | extract_lets
    | intro _
    | split
    | with_reducible apply State.modSeq_keeps w0
    | with_reducible apply State.countSpec_keeps w1
    | with_reducible apply State.addTokens_keeps w2
    | with_reducible apply State.afterRelease_keeps w3
    | with_reducible apply State.commitDone_keeps w4
    | with_reducible apply State.notePins_keeps w5
    | with_reducible apply State.owe_keeps w6
    | with_reducible refine KeptOpt.getD ?_ ?_
    | with_reducible apply kept_if
    | with_reducible apply kept_foldl
    | dsimp +zetaDelta only

theorem State.firstToken_keeps (hw : Frees z 0x400000000000000000500100030) (s : State) (p : ℕ) (h : ℕ)  (hk : Kept z s) :
    Kept z (State.firstToken s p h) := by
  have w0 : Frees z 0x400000000000000000500100030 := hw.sub rfl
  unfold State.firstToken
  repeat' first
    | with_reducible assumption
    | extract_lets
    | intro _
    | split
    | with_reducible apply State.endPrompts_keeps w0
    | with_reducible apply kept_if
    | with_reducible apply kept_foldl

theorem State.promptEnds_keeps (hw : Frees z 0x4000001800000000005001013b0) (s : State) (p : ℕ) (h : ℕ) (step : ℕ) (q : Seq) (toks : List ℕ)  (hk : Kept z s) :
    Kept z (State.promptEnds s p h step q toks) := by
  have w0 : Frees z 0x400000000000000000500100030 := hw.sub rfl
  have w1 : Frees z 0x4000000000000000000001011b0 := hw.sub rfl
  have w2 : Frees z 0x4000001800000000000001003b0 := hw.sub rfl
  have w3 : Frees z 0x1080 := hw.sub rfl
  unfold State.promptEnds
  repeat' first
    | with_reducible assumption
    | extract_lets
    | intro _
    | split
    | with_reducible apply State.firstToken_keeps w0
    | with_reducible apply State.commitDone_keeps w1
    | with_reducible apply State.addTokens_keeps w2
    | with_reducible apply State.become_keeps w3
    | with_reducible apply kept_if
    | with_reducible apply kept_foldl
    | dsimp +zetaDelta only

theorem State.commitPrompt_keeps (hw : Frees z 0x4000001800000000005001013b0) (s : State) (p : ℕ) (step : ℕ) (h : ℕ) (n : ℕ) (q : Seq)  (hk : Kept z s) :
    Kept z (State.commitPrompt s p step h n q) := by
  have w0 : Frees z 0x180000000000000000200 := hw.sub rfl
  have w1 : Frees z 0x80 := hw.sub rfl
  have w2 : Frees z 0x4000001800000000005001013b0 := hw.sub rfl
  have w3 : Frees z 0x1000 := hw.sub rfl
  have w4 : Frees z 0x100 := hw.sub rfl
  unfold State.commitPrompt
  repeat' first
    | with_reducible refine keptOpt_map ?_
    | with_reducible assumption
    | extract_lets
    | intro _
    | split
    | with_reducible apply State.chargeTenant_keeps w0
    | with_reducible apply State.modSeq_keeps w1
    | with_reducible apply State.markStep_keeps w1
    | with_reducible apply State.promptEnds_keeps w2
    | with_reducible apply State.notePins_keeps w3
    | with_reducible apply State.owe_keeps w4
    | with_reducible apply kept_if
    | with_reducible apply kept_foldl

theorem State.rebuilt_keeps (hw : Frees z 0x1080) (s : State) (h : ℕ)  (hk : Kept z s) :
    Kept z (State.rebuilt s h) := by
  have w0 : Frees z 0x1080 := hw.sub rfl
  have w1 : Frees z 0x80 := hw.sub rfl
  unfold State.rebuilt
  repeat' first
    | with_reducible assumption
    | extract_lets
    | intro _
    | split
    | with_reducible apply State.become_keeps w0
    | with_reducible apply State.modSeq_keeps w1
    | with_reducible apply kept_if
    | with_reducible apply kept_foldl

theorem State.commitWork_keeps (hw : Frees z 0x4000001800000000005001013b0) (s : State) (p : ℕ) (step : ℕ) (x : ℕ × ℕ)  (hk : Kept z s) :
    Kept z (State.commitWork s p step x) := by
  have w0 : Frees z 0x80 := hw.sub rfl
  have w1 : Frees z 0x1080 := hw.sub rfl
  have w2 : Frees z 0x4000001800000000005001013b0 := hw.sub rfl
  unfold State.commitWork
  repeat' first
    | with_reducible assumption
    | extract_lets
    | intro _
    | split
    | with_reducible apply State.modSeq_keeps w0
    | with_reducible apply State.rebuilt_keeps w1
    | with_reducible apply State.commitPrompt_keeps w2
    | with_reducible apply kept_if
    | with_reducible apply kept_foldl

theorem State.commitPass_keeps (hw : Frees z 0x4000001800000000005001013b0) (s : State) (p : ℕ) (step : ℕ)  (hk : Kept z s) :
    Kept z (State.commitPass s p step) := by
  have w0 : Frees z 0x100 := hw.sub rfl
  have w1 : Frees z 0x4000001800000000005001013b0 := hw.sub rfl
  unfold State.commitPass
  repeat' first
    | with_reducible assumption
    | extract_lets
    | intro _
    | split
    | with_reducible apply State.modPart_keeps w0
    | with_reducible apply State.commitWork_keeps w1
    | with_reducible apply kept_if
    | with_reducible apply kept_foldl

theorem State.commitChunk_keeps (hw : Frees z 0x4000001800000000005001013b0) (s : State) (p : ℕ) (step : ℕ)  (hk : Kept z s) :
    Kept z (State.commitChunk s p step) := by
  have w0 : Frees z 0x100 := hw.sub rfl
  have w1 : Frees z 0x4000001800000000005001013b0 := hw.sub rfl
  unfold State.commitChunk
  repeat' first
    | with_reducible assumption
    | extract_lets
    | intro _
    | split
    | with_reducible apply State.modPart_keeps w0
    | with_reducible apply State.commitWork_keeps w1
    | with_reducible apply kept_if
    | with_reducible apply kept_foldl

theorem State.openCommit_keeps (hw : Frees z 0x100) (s : State) (p : ℕ) (step : ℕ)  (hk : Kept z s) :
    Kept z (State.openCommit s p step) := by
  have w0 : Frees z 0x100 := hw.sub rfl
  unfold State.openCommit
  repeat' first
    | with_reducible assumption
    | extract_lets
    | intro _
    | split
    | with_reducible apply State.modPart_keeps w0
    | with_reducible apply kept_if
    | with_reducible apply kept_foldl

theorem State.shipControls_keeps (hw : Frees z 0x400000000000000000000100010) (s : State) (p : ℕ) (step : ℕ)  (hk : Kept z s) :
    Kept z (State.shipControls s p step) := by
  have w0 : Frees z 0x400000000000000000000100010 := hw.sub rfl
  unfold State.shipControls
  repeat' first
    | with_reducible refine keptOpt_map ?_
    | with_reducible assumption
    | extract_lets
    | intro _
    | split
    | with_reducible apply State.shipControl_keeps w0
    | with_reducible apply kept_if
    | with_reducible apply kept_foldl

theorem State.shipStep_keeps (hw : Frees z 0x4000000000000000004009000b0) (s : State) (p : ℕ) (step : ℕ)  (hk : Kept z s) :
    Kept z (State.shipStep s p step) := by
  have w0 : Frees z 0x400000000000000000000100010 := hw.sub rfl
  have w1 : Frees z 0x4000000000000000004009000b0 := hw.sub rfl
  unfold State.shipStep
  repeat' first
    | with_reducible assumption
    | extract_lets
    | intro _
    | split
    | with_reducible apply State.shipControls_keeps w0
    | with_reducible apply State.shipCommit_keeps w1
    | with_reducible apply kept_if
    | with_reducible apply kept_foldl

theorem State.commitAll_keeps (hw : Frees z 0x4000001820000020005001013b0) (s : State) (p : ℕ) (step : ℕ)  (hk : Kept z s) :
    Kept z (State.commitAll s p step) := by
  have w0 : Frees z 0x100 := hw.sub rfl
  have w1 : Frees z (Field.bit schLate_void) := hw.sub rfl
  have w2 : Frees z 0x80 := hw.sub rfl
  have w3 : Frees z 0x4000001800000020005001013b0 := hw.sub rfl
  have w4 : Frees z 0x4000001800000000005001013b0 := hw.sub rfl
  unfold State.commitAll
  repeat' first
    | with_reducible assumption
    | extract_lets
    | intro _
    | split
    | with_reducible apply State.openCommit_keeps w0
    | with_reducible apply State.bump_keeps (hw := w1)
    | with_reducible apply State.modSeq_keeps w2
    | with_reducible apply State.modPart_keeps w0
    | with_reducible apply State.commitStep_keeps w3
    | with_reducible apply State.commitChunk_keeps w4
    | with_reducible apply State.commitPass_keeps w4
    | with_reducible apply kept_if
    | with_reducible apply kept_foldl

end Sys2Proof.Machine
end

