-- ==== Sys2Proof/Laws/KeepsBatch.lean ====
section
/-! SUPPORT. Every operation of Machine/Batch.lean keeps the queue, the canonical forms and every piece that it does not touch. -/

set_option Elab.async false
set_option linter.unusedSimpArgs false
set_option linter.unusedTactic false
set_option linter.unreachableTactic false

namespace Sys2Proof.Machine

variable {z : Ref}

theorem State.skimTenant_keeps (hw : Frees z 0x180000000000000000280) (s : State) (t : ℕ) (x : Tenant)  (hk : Kept z s) :
    Kept z (State.skimTenant s t x) := by
  have w0 : Frees z (Field.bit schTenant_hold) := hw.sub rfl
  have w1 : Frees z 0x180000000000000000200 := hw.sub rfl
  have w2 : Frees z 0x80 := hw.sub rfl
  unfold State.skimTenant
  repeat' first
    | with_reducible assumption
    | extract_lets
    | intro _
    | split
    | with_reducible apply State.setFlag_keeps (hw := w0)
    | with_reducible apply State.setTenant_keeps w1
    | with_reducible apply kept_if
    | with_reducible apply kept_foldl
    | with_reducible refine upd_seqs w2 ?_

theorem State.skim_keeps (hw : Frees z 0x180000000000000000280) (s : State) (p : ℕ)  (hk : Kept z s) :
    Kept z (State.skim s p) := by
  have w0 : Frees z 0x180000000000000000280 := hw.sub rfl
  unfold State.skim
  repeat' first
    | with_reducible assumption
    | extract_lets
    | intro _
    | split
    | with_reducible apply State.skimTenant_keeps w0
    | with_reducible apply kept_if
    | with_reducible apply kept_foldl

theorem State.holdReplies_keeps (hw : Frees z 0x400000000000000000500100030) (s : State) (p : ℕ)  (hk : Kept z s) :
    Kept z (State.holdReplies s p) := by
  have w0 : Frees z 0x400000000000000000500100030 := hw.sub rfl
  unfold State.holdReplies
  repeat' first
    | with_reducible assumption
    | extract_lets
    | intro _
    | split
    | with_reducible apply State.afterRelease_keeps w0
    | with_reducible apply kept_if
    | with_reducible apply kept_foldl

theorem State.updateCap_keeps (hw : Frees z 0x100000000000000100) (s : State) (p : ℕ) (i : ℕ)  (hk : Kept z s) :
    Kept z (State.updateCap s p i) := by
  have w0 : Frees z 0x100 := hw.sub rfl
  have w1 : Frees z (Field.bit schPart_cap) := hw.sub rfl
  unfold State.updateCap
  repeat' first
    | with_reducible assumption
    | extract_lets
    | intro _
    | split
    | with_reducible apply State.setPart_keeps w0
    | with_reducible apply State.setFld_keeps (hw := w1)
    | with_reducible apply kept_if
    | with_reducible apply kept_foldl

theorem State.keep_keeps (hw : Frees z 0x2000000000080) (s : State) (h : ℕ) (q : Seq)  (hk : Kept z s) :
    Kept z (State.keep s h q) := by
  have w0 : Frees z 0x80 := hw.sub rfl
  have w1 : Frees z (Field.bit genSpecStat_noRing) := hw.sub rfl
  have w2 : Frees z (Field.bit genSpecStat_probes) := hw.sub rfl
  unfold State.keep
  repeat' first
    | with_reducible assumption
    | extract_lets
    | intro _
    | split
    | with_reducible apply State.modSeq_keeps w0
    | with_reducible apply State.bump_keeps (hw := w1)
    | with_reducible apply State.bump_keeps (hw := w2)
    | with_reducible apply kept_if
    | with_reducible apply kept_foldl

theorem State.consider_keeps (hw : Frees z 0x800000000000004000eb80c000002030a01907190) (p : ℕ) (step : ℕ) (n : ℕ) (lockstep : ℕ) (a : State × List ℕ) (x : (ℕ × Seq) × ℕ)  (hk : Kept z a.1) :
    Kept z (State.consider p step n lockstep a x).1 := by
  have w0 : Frees z 0x80 := hw.sub rfl
  have w1 : Frees z (Field.bit schSkip_shed) := hw.sub rfl
  have w2 : Frees z (Field.bit schSkip2_mirrorLate) := hw.sub rfl
  have w3 : Frees z (Field.bit cmdRingSkip_count) := hw.sub rfl
  have w4 : Frees z (Field.bit ldlNopageSkip_count) := hw.sub rfl
  have w5 : Frees z (Field.bit schSkip_hold) := hw.sub rfl
  have w6 : Frees z (Field.bit schSkip2_excluded) := hw.sub rfl
  have w7 : Frees z 0x807180 := hw.sub rfl
  have w8 : Frees z 0x800000000000004000eb800000000020801105010 := hw.sub rfl
  have w9 : Frees z 0x2000000000080 := hw.sub rfl
  have w10 : Frees z 0x1000 := hw.sub rfl
  unfold State.consider
  repeat' first
    | with_reducible assumption
    | extract_lets
    | intro _
    | split
    | with_reducible apply State.giveRing_keeps w0
    | with_reducible apply State.bump_keeps (hw := w1)
    | with_reducible apply State.bump_keeps (hw := w2)
    | with_reducible apply State.bump_keeps (hw := w3)
    | with_reducible apply State.bump_keeps (hw := w4)
    | with_reducible apply State.bump_keeps (hw := w5)
    | with_reducible apply State.bump_keeps (hw := w6)
    | with_reducible apply State.assignStep_keeps w7
    | with_reducible refine State.assignStep_gives w7 (by with_reducible assumption) ?_
    | with_reducible apply State.fetchSeq_keeps w8
    | with_reducible apply State.keep_keeps w9
    | with_reducible apply State.notePins_keeps w10
    | with_reducible apply kept_if
    | with_reducible apply kept_foldl
theorem State.consider_gives (hw : Frees z 0x800000000000004000eb80c000002030a01907190) {t : State} {y0} {p : ℕ} {step : ℕ} {n : ℕ} {lockstep : ℕ} {a : State × List ℕ} {x : (ℕ × Seq) × ℕ} (he : State.consider p step n lockstep a x = (t, y0)) (hk : Kept z a.1) : Kept z t :=
  by have k := State.consider_keeps hw p step n lockstep a x hk; rw [he] at k; exact k

theorem State.fixBatch_keeps (hw : Frees z 0x800000000000004000eb80c000002030a01907190) (s : State) (p : ℕ) (step : ℕ)  (hk : Kept z s) :
    Kept z (State.fixBatch s p step) := by
  have w0 : Frees z 0x800000000000004000eb80c000002030a01907190 := hw.sub rfl
  have w1 : Frees z 0x80 := hw.sub rfl
  have w2 : Frees z 0x100 := hw.sub rfl
  unfold State.fixBatch
  extract_lets n r s1
  have hr : Kept z r.1 := kept_foldl_pair _ hk fun t x ht => State.consider_keeps w0 _ _ _ _ _ _ ht
  clear_value r
  exact upd_seqs w1 (State.modPart_keeps w2 _ _ _ hr)

theorem State.fixPaths_keeps (hw : Frees z 0x100) (s : State) (p : ℕ)  (hk : Kept z s) :
    Kept z (State.fixPaths s p) := by
  have w0 : Frees z 0x100 := hw.sub rfl
  simp (maxDischargeDepth := 30) only [State.fixPaths, State.modPart_keeps w0, and_self, hk]

theorem State.pickWork_keeps (hw : Frees z 0x800000000000004000eb808000000020801105010) (s : State) (p : ℕ) (step : ℕ) (n : ℕ) (all : List (ℕ × Seq))  (hk : Kept z s) :
    Kept z (State.pickWork s p step n all).1 := by
  have w0 : Frees z (Field.bit schSkip2_mirrorLate) := hw.sub rfl
  have w1 : Frees z 0x800000000000004000eb800000000020801105010 := hw.sub rfl
  unfold State.pickWork
  repeat' first
    | with_reducible assumption
    | extract_lets
    | intro _
    | split
    | with_reducible apply State.bump_keeps (hw := w0)
    | with_reducible apply State.fetchSeq_keeps w1
    | with_reducible apply kept_if
    | with_reducible apply kept_foldl
theorem State.pickWork_gives (hw : Frees z 0x800000000000004000eb808000000020801105010) {t : State} {y0} {s : State} {p : ℕ} {step : ℕ} {n : ℕ} {all : List (ℕ × Seq)} (he : State.pickWork s p step n all = (t, y0)) (hk : Kept z s) : Kept z t :=
  by have k := State.pickWork_keeps hw s p step n all hk; rw [he] at k; exact k

theorem State.formPass_keeps (hw : Frees z 0x800000000000004000eb808000000020801105110) (s : State) (p : ℕ) (step : ℕ)  (hk : Kept z s) :
    Kept z (State.formPass s p step) := by
  have w0 : Frees z 0x800000000000004000eb808000000020801105010 := hw.sub rfl
  have w1 : Frees z 0x100 := hw.sub rfl
  unfold State.formPass
  repeat' first
    | with_reducible assumption
    | extract_lets
    | intro _
    | split
    | with_reducible apply State.pickWork_keeps w0
    | with_reducible refine State.pickWork_gives w0 (by with_reducible assumption) ?_
    | with_reducible apply State.modPart_keeps w1
    | with_reducible apply kept_if
    | with_reducible apply kept_foldl

theorem State.formChunk_keeps (hw : Frees z 0x800000000000004000eb808000000020801105110) (s : State) (p : ℕ) (step : ℕ)  (hk : Kept z s) :
    Kept z (State.formChunk s p step) := by
  have w0 : Frees z 0x800000000000004000eb808000000020801105010 := hw.sub rfl
  have w1 : Frees z 0x100 := hw.sub rfl
  unfold State.formChunk
  repeat' first
    | with_reducible assumption
    | extract_lets
    | intro _
    | split
    | with_reducible apply State.pickWork_keeps w0
    | with_reducible refine State.pickWork_gives w0 (by with_reducible assumption) ?_
    | with_reducible apply State.modPart_keeps w1
    | with_reducible apply kept_if
    | with_reducible apply kept_foldl

theorem State.dropChunk_keeps (hw : Frees z 0x200000000000000) (s : State) (p : ℕ)  (hk : Kept z s) :
    Kept z (State.dropChunk s p) := by
  have w0 : Frees z (Field.bit prmPart_chunk) := hw.sub rfl
  unfold State.dropChunk
  repeat' first
    | with_reducible assumption
    | extract_lets
    | intro _
    | split
    | with_reducible apply State.setFld_keeps (hw := w0)
    | with_reducible apply kept_if
    | with_reducible apply kept_foldl

end Sys2Proof.Machine
end

