-- ==== Sys2Proof/Laws/KeepsBoundary.lean ====
section
/-! SUPPORT. Every operation of Machine/Boundary.lean keeps the queue, the canonical forms and every piece that it does not touch. -/

set_option Elab.async false
set_option linter.unusedSimpArgs false
set_option linter.unusedTactic false
set_option linter.unreachableTactic false

namespace Sys2Proof.Machine

variable {z : Ref}

theorem boundaryEffect_keeps (hw : Frees z 0x840000000000004040eb980000000020d019073f0) (d : Pend) (s : State)  (hk : Kept z s) :
    Kept z (boundaryEffect d s) := by
  have w0 : Frees z 0x800000000000004000eb800000000020d019071b0 := hw.sub rfl
  have w1 : Frees z 0x4000e9800000000020d009071b0 := hw.sub rfl
  have w2 : Frees z 0x4000000000000000005001010b0 := hw.sub rfl
  have w3 : Frees z 0x4000000000000000005001011b0 := hw.sub rfl
  have w4 : Frees z 0x4000e9800000000020d009071f0 := hw.sub rfl
  have w5 : Frees z 0x400000000000000000500100030 := hw.sub rfl
  have w6 : Frees z 0x4000000000000000005009010b0 := hw.sub rfl
  have w7 : Frees z 0x404000000000000000500100030 := hw.sub rfl
  have w8 : Frees z 0x4000000000000400000000000000000500100030 := hw.sub rfl
  have w9 : Frees z 0x400000180000000000500100230 := hw.sub rfl
  unfold boundaryEffect
  repeat' first
    | with_reducible assumption
    | extract_lets
    | intro _
    | split
    | with_reducible apply effSeqPrompt_keeps w0
    | with_reducible apply effSeqStepEnable_keeps w1
    | with_reducible apply effSeqPause_keeps w2
    | with_reducible apply effSeqResume_keeps w1
    | with_reducible apply effSeqCancel_keeps w3
    | with_reducible apply effSeqClose_keeps w4
    | with_reducible apply effSeqQuery_keeps w5
    | with_reducible apply effStateMove_keeps w2
    | with_reducible apply effStateMirror_keeps w6
    | with_reducible apply effStateFetch_keeps w7
    | with_reducible apply effPageListSet_keeps w1
    | with_reducible apply effPwrClassPoint_keeps w8
    | with_reducible apply effTenantSet_keeps w9
    | with_reducible apply kept_if
    | with_reducible apply kept_foldl

theorem applyOne_keeps (hw : Frees z 0x840000000000004040eb980000000020d019073f0) (a : State × List ℕ) (d : Pend)  (hk : Kept z a.1) :
    Kept z (applyOne a d).1 := by
  have w0 : Frees z 0x800000000000004000eb800000000020801105010 := hw.sub rfl
  have w1 : Frees z 0x840000000000004040eb980000000020d019073f0 := hw.sub rfl
  have w2 : Frees z 0x20 := hw.sub rfl
  unfold applyOne
  repeat' first
    | with_reducible assumption
    | extract_lets
    | intro _
    | split
    | with_reducible apply State.fetchNamed_keeps w0
    | with_reducible apply boundaryEffect_keeps w1
    | with_reducible apply State.modCmd_keeps w2
    | with_reducible apply kept_if
    | with_reducible apply kept_foldl
theorem applyOne_gives (hw : Frees z 0x840000000000004040eb980000000020d019073f0) {t : State} {y0} {a : State × List ℕ} {d : Pend} (he : applyOne a d = (t, y0)) (hk : Kept z a.1) : Kept z t :=
  by have k := applyOne_keeps hw a d hk; rw [he] at k; exact k

theorem State.resumeCmd_keeps (hw : Frees z 0x840000000000004040eb980000000020d019073f0) (s : State) (d : Pend)  (hk : Kept z s) :
    Kept z (State.resumeCmd s d) := by
  have w0 : Frees z 0x20 := hw.sub rfl
  have w1 : Frees z 0x840000000000004040eb980000000020d019073f0 := hw.sub rfl
  unfold State.resumeCmd
  repeat' first
    | with_reducible assumption
    | extract_lets
    | intro _
    | split
    | with_reducible apply State.await_keeps w0
    | with_reducible apply boundaryEffect_keeps w1
    | with_reducible apply State.modCmd_keeps w0
    | with_reducible apply kept_if
    | with_reducible apply kept_foldl

theorem State.flipArrived_keeps (hw : Frees z 0x840000000000004040eb980000000020d019073f0) (s : State) (h : ℕ)  (hk : Kept z s) :
    Kept z (State.flipArrived s h) := by
  have w0 : Frees z 0x80 := hw.sub rfl
  have w1 : Frees z 0x840000000000004040eb980000000020d019073f0 := hw.sub rfl
  unfold State.flipArrived
  repeat' first
    | with_reducible refine keptOpt_map ?_
    | with_reducible assumption
    | extract_lets
    | intro _
    | split
    | with_reducible apply State.modSeq_keeps w0
    | with_reducible apply State.resumeCmd_keeps w1
    | with_reducible apply kept_if
    | with_reducible apply kept_foldl

theorem State.applyCommands_keeps (hw : Frees z 0x840000000000004040eb980000000020d019073f0) (s : State) (p : ℕ)  (hk : Kept z s) :
    Kept z (State.applyCommands s p) := by
  have w0 : Frees z 0x840000000000004040eb980000000020d019073f0 := hw.sub rfl
  unfold State.applyCommands
  exact kept_foldl_pair _ hk fun t x ht => applyOne_keeps w0 _ _ ht

theorem State.lateCancels_keeps (hw : Frees z 0x4000000000000000005001011b0) (s : State) (p : ℕ)  (hk : Kept z s) :
    Kept z (State.lateCancels s p) := by
  have w0 : Frees z 0x4000000000000000005001011b0 := hw.sub rfl
  unfold State.lateCancels
  repeat' first
    | with_reducible assumption
    | extract_lets
    | intro _
    | split
    | with_reducible apply State.lateCancel_keeps w0
    | with_reducible apply kept_if
    | with_reducible apply kept_foldl

theorem State.retryPartner_keeps (hw : Frees z 0x800080) (s : State) (h : ℕ)  (hk : Kept z s) :
    Kept z (State.retryPartner s h) := by
  have w0 : Frees z 0x800080 := hw.sub rfl
  unfold State.retryPartner
  repeat' first
    | with_reducible assumption
    | extract_lets
    | intro _
    | split
    | with_reducible apply State.changePartner_keeps w0
    | with_reducible apply kept_if
    | with_reducible apply kept_foldl

theorem State.noteGone_keeps (hw : Frees z 0x100) (s : State) (p : ℕ) (g : ℕ)  (hk : Kept z s) :
    Kept z (State.noteGone s p g) := by
  have w0 : Frees z 0x100 := hw.sub rfl
  simp (maxDischargeDepth := 30) only [State.noteGone, State.modPart_keeps w0, and_self, hk]

theorem State.settleTiles_keeps (hw : Frees z 0xe08000000080100) (s : State) (p : ℕ)  (hk : Kept z s) :
    Kept z (State.settleTiles s p) := by
  have w0 : Frees z 0x808000000080000 := hw.sub rfl
  have w1 : Frees z 0xe08000000080000 := hw.sub rfl
  have w2 : Frees z 0x100 := hw.sub rfl
  unfold State.settleTiles
  repeat' first
    | with_reducible assumption
    | extract_lets
    | intro _
    | split
    | with_reducible apply State.replaceTile_keeps w0
    | with_reducible apply State.withdraw_keeps w1
    | with_reducible apply State.noteGone_keeps w2
    | with_reducible apply kept_if
    | with_reducible apply kept_foldl

theorem State.applyStretch_keeps (hw : Frees z 0x700000000000000100) (s : State) (p : ℕ)  (hk : Kept z s) :
    Kept z (State.applyStretch s p) := by
  have w0 : Frees z (Field.bit schPeriod_stretch) := hw.sub rfl
  have w1 : Frees z 0x100 := hw.sub rfl
  have w2 : Frees z 0x700000000000000000 := hw.sub rfl
  unfold State.applyStretch
  repeat' first
    | with_reducible assumption
    | extract_lets
    | intro _
    | split
    | with_reducible apply State.setFld_keeps (hw := w0)
    | with_reducible apply State.modPart_keeps w1
    | with_reducible apply State.noteTables_keeps w2
    | with_reducible apply kept_if
    | with_reducible apply kept_foldl
    | dsimp +zetaDelta only

theorem State.decideStretch_keeps (hw : Frees z 0x100) (s : State) (p : ℕ)  (hk : Kept z s) :
    Kept z (State.decideStretch s p) := by
  have w0 : Frees z 0x100 := hw.sub rfl
  unfold State.decideStretch
  repeat' first
    | with_reducible assumption
    | extract_lets
    | intro _
    | split
    | with_reducible apply State.setPart_keeps w0
    | with_reducible apply State.modPart_keeps w0
    | with_reducible apply kept_if
    | with_reducible apply kept_foldl

theorem State.beginCycle_keeps (hw : Frees z 0x100) (s : State) (p : ℕ) (step : ℕ)  (hk : Kept z s) :
    Kept z (State.beginCycle s p step) := by
  have w0 : Frees z 0x100 := hw.sub rfl
  simp (maxDischargeDepth := 30) only [State.beginCycle, State.modPart_keeps w0, and_self, hk]

theorem State.fixCycle_keeps (hw : Frees z 0x800000010000004000eb80c700e0a030f01d871b0) (s : State) (p : ℕ) (step : ℕ)  (hk : Kept z s) :
    Kept z (State.fixCycle s p step) := by
  have w0 : Frees z 0xe08000000080100 := hw.sub rfl
  have w1 : Frees z 0x200000000000000 := hw.sub rfl
  have w2 : Frees z 0x700000000000000100 := hw.sub rfl
  have w3 : Frees z 0x400000000700000000500100130 := hw.sub rfl
  have w4 : Frees z 0x800080 := hw.sub rfl
  have w5 : Frees z 0x800000000000004000eb808000000020801105110 := hw.sub rfl
  have w6 : Frees z 0x100 := hw.sub rfl
  have w7 : Frees z 0x800000000000004000eb80c000002030a01907190 := hw.sub rfl
  have w8 : Frees z 0xe9800000000020800000000 := hw.sub rfl
  have w9 : Frees z 0x80000000000000000000000000000000001000010 := hw.sub rfl
  have w10 : Frees z 0x1000000000000000000000000000400000 := hw.sub rfl
  unfold State.fixCycle
  repeat' first
    | with_reducible assumption
    | extract_lets
    | intro _
    | split
    | with_reducible apply State.settleTiles_keeps w0
    | with_reducible apply State.dropChunk_keeps w1
    | with_reducible apply State.applyStretch_keeps w2
    | with_reducible apply State.takeOver_keeps w3
    | with_reducible apply State.retryPartner_keeps w4
    | with_reducible apply State.formChunk_keeps w5
    | with_reducible apply State.formPass_keeps w5
    | with_reducible apply State.fixPaths_keeps w6
    | with_reducible apply State.fixBatch_keeps w7
    | with_reducible apply State.beginCycle_keeps w6
    | with_reducible apply State.noteTiers_keeps w8
    | with_reducible apply State.planPoints_keeps w9
    | with_reducible apply State.decideStretch_keeps w6
    | with_reducible apply State.restartGates_keeps w10
    | with_reducible apply kept_if
    | with_reducible apply kept_foldl

theorem State.boundary_keeps (hw : Frees z 0x840000010000004040eb98ef00e0a030f01d873f0) (s : State) (p : ℕ)  (hk : Kept z s) :
    Kept z (State.boundary s p) := by
  have w0 : Frees z (Field.bit schLate_maxLateness) := hw.sub rfl
  have w1 : Frees z (Field.bit schStep_count) := hw.sub rfl
  have w2 : Frees z 0x840000000000004040eb980000000020d019073f0 := hw.sub rfl
  have w3 : Frees z 0x4000000000000000005001011b0 := hw.sub rfl
  have w4 : Frees z 0x4000001820000020005001013b0 := hw.sub rfl
  have w5 : Frees z 0x100000000000000100 := hw.sub rfl
  have w6 : Frees z 0x400000000000000000500100030 := hw.sub rfl
  have w7 : Frees z 0x180000000000000000280 := hw.sub rfl
  have w8 : Frees z 0x4000e9800000000020d009071f0 := hw.sub rfl
  have w9 : Frees z 0x4000000000000000004009000b0 := hw.sub rfl
  have w10 : Frees z 0x800000010000004000eb80c700e0a030f01d871b0 := hw.sub rfl
  unfold State.boundary
  repeat' first
    | with_reducible assumption
    | extract_lets
    | intro _
    | split
    | with_reducible apply State.setFld_keeps (hw := w0)
    | with_reducible apply State.bumpWrap_keeps (hw := w1)
    | with_reducible apply State.applyCommands_keeps w2
    | with_reducible apply State.lateCancels_keeps w3
    | with_reducible apply State.commitAll_keeps w4
    | with_reducible apply State.updateCap_keeps w5
    | with_reducible apply State.holdReplies_keeps w6
    | with_reducible apply State.skim_keeps w7
    | with_reducible apply State.release_keeps w8
    | with_reducible apply State.shipStep_keeps w9
    | with_reducible apply State.fixCycle_keeps w10
    | with_reducible apply kept_if
    | with_reducible apply kept_foldl

theorem execStepBoundary_keeps (hw : Frees z 0x840000010000004040eb98ef00e0a030f01d873f0) (p : Fin 16) (s : State)  (hk : Kept z s) :
    KeptOut z (execStepBoundary p s) := by
  have w0 : Frees z 0x840000010000004040eb98ef00e0a030f01d873f0 := hw.sub rfl
  have w1 : Frees z 0x800000010000004000eb80c700e0a030f01d871b0 := hw.sub rfl
  unfold execStepBoundary
  (repeat' split) <;> simp (maxDischargeDepth := 30) only [keptOut_next, State.boundary_keeps w0, State.fixCycle_keeps w1, and_self, *]

theorem execBoundaryScheduledTick_keeps (hw : Frees z 0x100) (p : Fin 16) (s : State)  (hk : Kept z s) :
    KeptOut z (execBoundaryScheduledTick p s) := by
  have w0 : Frees z 0x0 := hw.sub rfl
  have w1 : Frees z 0x100 := hw.sub rfl
  simp (maxDischargeDepth := 30) +contextual only [execBoundaryScheduledTick, keptOut_next, State.whenLive_keeps w0, State.modPart_keeps w1, and_self, kept_foldl, kept_ite, implies_true, hk]

theorem State.mirrorAcked_keeps (hw : Frees z 0x4000e9800000000020d009071f0) (s : State) (p : ℕ) (node : ℕ) (step : ℕ)  (hk : Kept z s) :
    Kept z (State.mirrorAcked s p node step) := by
  have w0 : Frees z 0x100 := hw.sub rfl
  have w1 : Frees z 0x4000e9800000000020d009071f0 := hw.sub rfl
  have w2 : Frees z 0x80 := hw.sub rfl
  unfold State.mirrorAcked
  repeat' first
    | with_reducible refine keptOpt_map ?_
    | with_reducible assumption
    | extract_lets
    | intro _
    | split
    | with_reducible apply State.modPart_keeps w0
    | with_reducible apply State.release_keeps w1
    | with_reducible apply kept_if
    | with_reducible apply kept_foldl
    | with_reducible refine upd_seqs w2 ?_

theorem execMirrorAck_keeps (hw : Frees z 0x4000e9800000000020d009071f0) (p : Fin 16) (node : BitVec 16) (step : BitVec 64) (s : State)  (hk : Kept z s) :
    KeptOut z (execMirrorAck p node step s) := by
  have w0 : Frees z 0x0 := hw.sub rfl
  have w1 : Frees z 0x4000e9800000000020d009071f0 := hw.sub rfl
  simp (maxDischargeDepth := 30) +contextual only [execMirrorAck, keptOut_next, State.whenLive_keeps w0, State.mirrorAcked_keeps w1, and_self, kept_foldl, kept_ite, implies_true, hk]

theorem State.journalAcked_keeps (hw : Frees z 0x80) (s : State) (p : ℕ) (step : ℕ)  (hk : Kept z s) :
    Kept z (State.journalAcked s p step) := by
  have w0 : Frees z 0x80 := hw.sub rfl
  simp (maxDischargeDepth := 30) only [State.journalAcked, upd_seqs w0, and_self, hk]

theorem execJournalAck_keeps (hw : Frees z 0x80) (p : Fin 16) (step : BitVec 64) (s : State)  (hk : Kept z s) :
    KeptOut z (execJournalAck p step s) := by
  have w0 : Frees z 0x0 := hw.sub rfl
  have w1 : Frees z 0x80 := hw.sub rfl
  simp (maxDischargeDepth := 30) +contextual only [execJournalAck, keptOut_next, State.whenLive_keeps w0, State.journalAcked_keeps w1, and_self, kept_foldl, kept_ite, implies_true, hk]

theorem State.sendRecord_keeps (hw : Frees z 0x400000000000000000000100110) (s : State) (p : ℕ) (node : ℕ) (c : Commit)  (hk : Kept z s) :
    Kept z (State.sendRecord s p node c) := by
  have w0 : Frees z 0x400000000000000000000100010 := hw.sub rfl
  have w1 : Frees z 0x100 := hw.sub rfl
  unfold State.sendRecord
  repeat' first
    | with_reducible refine keptOpt_map ?_
    | with_reducible assumption
    | extract_lets
    | intro _
    | split
    | with_reducible apply State.shipRecord_keeps w0
    | with_reducible apply State.modPart_keeps w1
    | with_reducible apply kept_if
    | with_reducible apply kept_foldl

theorem execCommitRecordSend_keeps (hw : Frees z 0x400000000000000000000100110) (p : Fin 16) (node : BitVec 16) (s : State)  (hk : Kept z s) :
    KeptOut z (execCommitRecordSend p node s) := by
  have w0 : Frees z 0x0 := hw.sub rfl
  have w1 : Frees z 0x400000000000000000000100110 := hw.sub rfl
  unfold execCommitRecordSend
  repeat' first
    | with_reducible assumption
    | extract_lets
    | intro _
    | split
    | with_reducible apply State.whenLive_keeps w0
    | with_reducible apply State.sendRecord_keeps w1
    | with_reducible apply kept_if
    | with_reducible apply kept_foldl
    | with_reducible apply keptOut_of

end Sys2Proof.Machine
end

