-- ==== Sys2Proof/Laws/KeepsRows.lean ====
section
/-! SUPPORT. Every operation of Machine/Rows.lean keeps the queue, the canonical forms and every piece that it does not touch. -/

set_option Elab.async false
set_option linter.unusedSimpArgs false
set_option linter.unusedTactic false
set_option linter.unreachableTactic false

namespace Sys2Proof.Machine

variable {z : Ref}

theorem State.mergeError_keeps (hw : Frees z 0x1800c00000240000000000000002010000000000c9c11b1) (s : State) (p : ℕ) (loc : ℕ) (sec : ℕ)  (hk : Kept z s) :
    Kept z (State.mergeError s p loc sec) := by
  have w0 : Frees z 0x1800c00000240000000000000002010000000000c9c11b1 := hw.sub rfl
  unfold State.mergeError
  repeat' first
    | with_reducible assumption
    | extract_lets
    | intro _
    | split
    | with_reducible apply State.raise_keeps w0
    | with_reducible apply kept_if
    | with_reducible apply kept_foldl

theorem State.writeSectors_keeps (hw : Frees z 0x1800c00000240000000000000002010000000000c9c11b1) (s : State) (p : ℕ) (key : ℕ) (o : ℕ) (n : ℕ)  (hk : Kept z s) :
    Kept z (State.writeSectors s p key o n) := by
  have w0 : Frees z 0x1800c00000240000000000000002010000000000c9c11b1 := hw.sub rfl
  have w1 : Frees z 0x40000 := hw.sub rfl
  have w2 : Frees z 0x1000 := hw.sub rfl
  unfold State.writeSectors
  repeat' first
    | with_reducible assumption
    | extract_lets
    | intro _
    | split
    | with_reducible apply State.mergeError_keeps w0
    | with_reducible apply State.markIssuer_keeps w1
    | with_reducible apply kept_if
    | with_reducible apply kept_foldl
    | with_reducible refine upd_tiers w2 rfl ?_

theorem State.putRow_keeps (hw : Frees z 0x1800c00000240000000040000002010000000000c9c31b1) (s : State) (h : ℕ) (i : ℕ) (l : ℕ) (key : ℕ) (o : ℕ) (bs : List (BitVec 8))  (hk : Kept z s) :
    Kept z (State.putRow s h i l key o bs) := by
  have w0 : Frees z 0x1800c00000240000000000000002010000000000c9c11b1 := hw.sub rfl
  have w1 : Frees z 0x3000 := hw.sub rfl
  have w2 : Frees z 0x400000000000000000000100010 := hw.sub rfl
  unfold State.putRow
  extract_lets s1 src s2
  have h1 : Kept z s1 := State.writeSectors_keeps w0 _ _ _ _ _ hk
  clear_value s1
  have h2 : Kept z s2 := upd_tiers_bytes w1 (keepCells_writeList (kept_bytes h1) _ _) h1
  clear_value s2
  exact State.shipRow_keeps w2 _ _ _ _ _ _ h2

theorem State.appendHead_keeps (hw : Frees z 0x1800c00000240000000040000002010000000800c9c31b1) (s : State) (h : ℕ) (q : Seq) (g : List Cell) (l : ℕ) (pos : ℕ) (key : ℕ) (kind : ℕ) (head : ℕ) (row : List Num)  (hk : Kept z s) :
    Kept z (State.appendHead s h q g l pos key kind head row) := by
  have w0 : Frees z 0x1800c00000240000000040000002010000000000c9c31b1 := hw.sub rfl
  have w1 : Frees z (Field.bit ldlQuantStat_satCount) := hw.sub rfl
  have w2 : Frees z (Field.bit ldlQuantStat_nanCount) := hw.sub rfl
  unfold State.appendHead
  repeat' first
    | with_reducible assumption
    | extract_lets
    | intro _
    | split
    | with_reducible apply State.putRow_keeps w0
    | with_reducible apply State.bump_keeps (hw := w1)
    | with_reducible apply State.bump_keeps (hw := w2)
    | with_reducible apply kept_if
    | with_reducible apply kept_foldl

theorem State.appendAt_keeps (hw : Frees z 0x1800c00000240000000040000002010000000800c9c31b1) (s : State) (h : ℕ) (q : Seq) (g : List Cell) (l : ℕ) (pos : ℕ) (key : ℕ) (r : AppendRow)  (hk : Kept z s) :
    Kept z (State.appendAt s h q g l pos key r) := by
  have w0 : Frees z 0x1800c00000240000000040000002010000000800c9c31b1 := hw.sub rfl
  have w1 : Frees z (Field.bit ldlQuantStat_appendCount) := hw.sub rfl
  unfold State.appendAt
  repeat' first
    | with_reducible assumption
    | extract_lets
    | intro _
    | split
    | with_reducible apply State.appendHead_keeps w0
    | with_reducible apply State.bumpWrap_keeps (hw := w1)
    | with_reducible apply kept_if
    | with_reducible apply kept_foldl

theorem State.useLeaves_keeps (hw : Frees z 0x1000001000) (s : State) (chunks : List ℕ)  (hk : Kept z s) :
    Kept z (State.useLeaves s chunks) := by
  have w0 : Frees z (Field.bit ldlWalkMiss_count) := hw.sub rfl
  have w1 : Frees z 0x1000 := hw.sub rfl
  unfold State.useLeaves
  repeat' first
    | with_reducible assumption
    | extract_lets
    | intro _
    | split
    | with_reducible apply State.bump_keeps (hw := w0)
    | with_reducible apply kept_if
    | with_reducible apply kept_foldl
    | with_reducible refine upd_tiers w1 rfl ?_

theorem State.append_keeps (hw : Frees z 0x1800c0800024000000004000eb82010000002980d9c71b1) (s : State) (r : AppendRow)  (hk : Kept z s) :
    Kept z (State.append s r) := by
  have w0 : Frees z 0x800000000000004000eb800000000020801105010 := hw.sub rfl
  have w1 : Frees z 0x1800c00000240000000040000002010000000800c9c31b1 := hw.sub rfl
  have w2 : Frees z 0x1000001000 := hw.sub rfl
  have w3 : Frees z 0x80 := hw.sub rfl
  have w4 : Frees z 0x1000 := hw.sub rfl
  unfold State.append
  repeat' first
    | with_reducible assumption
    | extract_lets
    | intro _
    | split
    | with_reducible apply State.bringUp_keeps w0
    | with_reducible apply State.appendAt_keeps w1
    | with_reducible apply State.useLeaves_keeps w2
    | with_reducible apply State.modSeq_keeps w3
    | with_reducible apply kept_if
    | with_reducible apply kept_foldl
    | with_reducible refine upd_tiers w4 rfl ?_

theorem State.flushRows_keeps (hw : Frees z 0x1800c0800024000000004000eb82010000002980d9c71b1) (s : State)  (hk : Kept z s) :
    Kept z (State.flushRows s) := by
  have w0 : Frees z 0x1800c0800024000000004000eb82010000002980d9c71b1 := hw.sub rfl
  have w1 : Frees z 0x1000 := hw.sub rfl
  unfold State.flushRows
  repeat' first
    | with_reducible assumption
    | extract_lets
    | intro _
    | split
    | with_reducible apply State.append_keeps w0
    | with_reducible apply kept_if
    | with_reducible apply kept_foldl
    | with_reducible refine upd_tiers w1 rfl ?_

end Sys2Proof.Machine
end

