-- ==== Sys2Proof/Laws/KeepsNearArith.lean ====
section
/-! SUPPORT. Every operation of Machine/NearArith.lean keeps the queue, the canonical forms and every piece that it does not touch. -/

set_option Elab.async false
set_option linter.unusedSimpArgs false
set_option linter.unusedTactic false
set_option linter.unreachableTactic false

namespace Sys2Proof.Machine

variable {z : Ref}

theorem State.addPartial_keeps (hw : Frees z 0x40000) (s : State) (owner : ℕ) (layer : ℕ) (c : ℕ) (u : ℕ) (query : ℕ) (p : Partial)  (hk : Kept z s) :
    Kept z (State.addPartial s owner layer c u query p) := by
  have w0 : Frees z 0x40000 := hw.sub rfl
  unfold State.addPartial
  repeat' first
    | with_reducible assumption
    | extract_lets
    | intro _
    | split
    | with_reducible apply kept_if
    | with_reducible apply kept_foldl
    | with_reducible refine upd_gen w0 ?_
    | dsimp +zetaDelta only

theorem State.endReduction_keeps (hw : Frees z 0x40000) (s : State) (layer : ℕ) (owner : ℕ)  (hk : Kept z s) :
    Kept z (State.endReduction s layer owner) := by
  have w0 : Frees z 0x40000 := hw.sub rfl
  unfold State.endReduction
  repeat' first
    | with_reducible assumption
    | extract_lets
    | intro _
    | split
    | with_reducible apply kept_if
    | with_reducible apply kept_foldl
    | with_reducible refine upd_gen w0 ?_

theorem State.endReductions_keeps (hw : Frees z 0x40000) (s : State) (layer : ℕ) (owners : List ℕ)  (hk : Kept z s) :
    Kept z (State.endReductions s layer owners) := by
  have w0 : Frees z 0x40000 := hw.sub rfl
  unfold State.endReductions
  repeat' first
    | with_reducible assumption
    | extract_lets
    | intro _
    | split
    | with_reducible apply State.endReduction_keeps w0
    | with_reducible apply kept_if
    | with_reducible apply kept_foldl
    | with_reducible refine upd_gen w0 ?_

end Sys2Proof.Machine
end

