-- ==== Sys2Proof/Laws/KeepsPartition.lean ====
section
/-! SUPPORT. Every operation of Machine/Partition.lean keeps the queue, the canonical forms and every piece that it does not touch. -/

set_option Elab.async false
set_option linter.unusedSimpArgs false
set_option linter.unusedTactic false
set_option linter.unreachableTactic false

namespace Sys2Proof.Machine

variable {z : Ref}

theorem effPartitionReset_keeps (hw : Frees z 0x201000000000000c11a0) (d : Pend) (s : State)  (hk : Kept z s) :
    Kept z (effPartitionReset d s) := by
  have w0 : Frees z 0x20 := hw.sub rfl
  have w1 : Frees z 0x201000000000000c1180 := hw.sub rfl
  simp (maxDischargeDepth := 30) only [effPartitionReset, State.await_keeps w0, State.beginReset_keeps w1, and_self, hk]

theorem execPartitionReset_keeps (hw : Frees z 0x800000000000004000000201000000005011c11b0) (c : Cmd) (s : State)  (hk : Kept z s) :
    KeptOut z (execPartitionReset c s) := by
  have w0 : Frees z 0x80000000000000400000000000000000501100030 := hw.sub rfl
  have w1 : Frees z 0x201000000000000c11a0 := hw.sub rfl
  simp (maxDischargeDepth := 30) +contextual only [execPartitionReset, keptOut_next, State.plain_keeps w0, effPartitionReset_keeps w1, and_self, kept_foldl, kept_ite, implies_true, hk]

theorem State.resetReply_keeps (hw : Frees z 0x400000000000000000500100030) (s : State) (p : ℕ) (c : Pend)  (hk : Kept z s) :
    Kept z (State.resetReply s p c) := by
  have w0 : Frees z 0x400000000000000000500100030 := hw.sub rfl
  unfold State.resetReply
  repeat' first
    | with_reducible assumption
    | extract_lets
    | intro _
    | split
    | with_reducible apply State.finish_keeps w0
    | with_reducible apply kept_if
    | with_reducible apply kept_foldl

theorem State.resetMove_keeps (hw : Frees z 0x4000e98000000000208009071d0) (s : State) (x : ℕ × Seq)  (hk : Kept z s) :
    Kept z (State.resetMove s x) := by
  have w0 : Frees z 0x4000e98000000000208009071d0 := hw.sub rfl
  have w1 : Frees z 0x10 := hw.sub rfl
  have w2 : Frees z 0x80 := hw.sub rfl
  unfold State.resetMove
  repeat' first
    | with_reducible assumption
    | extract_lets
    | intro _
    | split
    | with_reducible apply State.freeSeq_keeps w0
    | with_reducible apply State.send_keeps w1
    | with_reducible apply State.modSeq_keeps w2
    | with_reducible apply kept_if
    | with_reducible apply kept_foldl

theorem State.endReset_keeps (hw : Frees z 0x4000e9820700000020d009071f0) (s : State) (p : ℕ)  (hk : Kept z s) :
    Kept z (State.endReset s p) := by
  have w0 : Frees z (Field.bit schReset_duration) := hw.sub rfl
  have w1 : Frees z 0x700000000000000000 := hw.sub rfl
  have w2 : Frees z 0x100 := hw.sub rfl
  have w3 : Frees z 0x4000e98000000000208009071d0 := hw.sub rfl
  have w4 : Frees z 0x400000000000000000500100030 := hw.sub rfl
  have w5 : Frees z 0xe9800000000020800000000 := hw.sub rfl
  have w6 : Frees z (Field.bit schPart_resetting) := hw.sub rfl
  unfold State.endReset
  repeat' first
    | with_reducible assumption
    | extract_lets
    | intro _
    | split
    | with_reducible apply State.setFld_keeps (hw := w0)
    | with_reducible apply State.noteTables_keeps w1
    | with_reducible apply State.modPart_keeps w2
    | with_reducible apply State.resetMove_keeps w3
    | with_reducible apply State.resetReply_keeps w4
    | with_reducible apply State.noteTiers_keeps w5
    | with_reducible apply State.setFlag_keeps (hw := w6)
    | with_reducible refine KeptOpt.getD ?_ ?_
    | with_reducible apply kept_if
    | with_reducible apply kept_foldl

theorem execPartitionResetComplete_keeps (hw : Frees z 0x4000e9820700000020d009071f0) (p : Fin 16) (s : State)  (hk : Kept z s) :
    KeptOut z (execPartitionResetComplete p s) := by
  have w0 : Frees z 0x0 := hw.sub rfl
  have w1 : Frees z 0x4000e9820700000020d009071f0 := hw.sub rfl
  simp (maxDischargeDepth := 30) +contextual only [execPartitionResetComplete, keptOut_next, State.whenLive_keeps w0, State.endReset_keeps w1, and_self, kept_foldl, kept_ite, implies_true, hk]

end Sys2Proof.Machine
end

