-- ==== Sys2Proof/Laws/KeepsFlash.lean ====
section
/-! SUPPORT. Every operation of Machine/Flash.lean keeps the queue, the canonical forms and every piece that it does not touch. -/

set_option Elab.async false
set_option linter.unusedSimpArgs false
set_option linter.unusedTactic false
set_option linter.unreachableTactic false

namespace Sys2Proof.Machine

variable {z : Ref}

theorem State.noteErases_keeps (hw : Frees z 0x400000000000000000000000) (s : State)  (hk : Kept z s) :
    Kept z (State.noteErases s) := by
  have w0 : Frees z (Field.bit ftlHealth_eraseMin) := hw.sub rfl
  have w1 : Frees z (Field.bit ftlHealth_eraseMax) := hw.sub rfl
  simp (maxDischargeDepth := 30) only [State.noteErases, (State.setFld_keeps (hw := w0)), (State.setFld_keeps (hw := w1)), and_self, hk]

theorem State.checkReserve_keeps (hw : Frees z 0x1800c00000240000000000040002010000000000c9c11b1) (s : State)  (hk : Kept z s) :
    Kept z (State.checkReserve s) := by
  have w0 : Frees z 0x1800c00000240000000000000002010000000000c9c11b1 := hw.sub rfl
  have w1 : Frees z (Field.bit ftlHealth_mode) := hw.sub rfl
  unfold State.checkReserve
  repeat' first
    | with_reducible assumption
    | extract_lets
    | intro _
    | split
    | with_reducible apply State.raise_keeps w0
    | with_reducible apply State.setFld_keeps (hw := w1)
    | with_reducible apply kept_if
    | with_reducible apply kept_foldl

theorem State.holdupAuto_keeps (hw : Frees z 0x4000000000000000000000004) (s : State) (bytes : ℕ)  (hk : Kept z s) :
    Kept z (State.holdupAuto s bytes).2 := by
  have w0 : Frees z 0x4000000000000000000000000 := hw.sub rfl
  have w1 : Frees z 0x4 := hw.sub rfl
  unfold State.holdupAuto
  repeat' first
    | with_reducible assumption
    | extract_lets
    | intro _
    | split
    | with_reducible apply State.holdupCheck_keeps w0
    | with_reducible refine State.holdupCheck_gives w0 (by with_reducible assumption) ?_
    | with_reducible apply kept_if
    | with_reducible apply kept_foldl
    | with_reducible refine upd_freeCtr w1 ?_
theorem State.holdupAuto_gives (hw : Frees z 0x4000000000000000000000004) {t : State} {y0} {s : State} {bytes : ℕ} (he : State.holdupAuto s bytes = (y0, t)) (hk : Kept z s) : Kept z t :=
  by have k := State.holdupAuto_keeps hw s bytes hk; rw [he] at k; exact k

theorem State.storeRefused_keeps (hw : Frees z 0x4000) (s : State)  (hk : Kept z s) :
    Kept z (State.storeRefused s) := by
  have w0 : Frees z 0x4000 := hw.sub rfl
  unfold State.storeRefused
  repeat' first
    | with_reducible assumption
    | extract_lets
    | intro _
    | split
    | with_reducible apply kept_if
    | with_reducible apply kept_foldl
    | with_reducible refine upd_ftl w0 ?_

theorem State.storePortions_keeps (hw : Frees z 0x4000000000000000000004004) (s : State) (x1 : ℕ)  (hk : Kept z s) :
    Kept z (State.storePortions s x1) := by
  have w0 : Frees z 0x4000 := hw.sub rfl
  have w1 : Frees z 0x4000000000000000000000004 := hw.sub rfl
  induction x1 generalizing s with
  | zero =>
    unfold State.storePortions
    repeat' first
      | with_reducible assumption
      | extract_lets
      | intro _
      | split
      | with_reducible apply State.storeRefused_keeps w0
      | with_reducible apply State.holdupAuto_keeps w1
      | with_reducible refine State.holdupAuto_gives w1 (by with_reducible assumption) ?_
      | with_reducible apply kept_if
      | with_reducible apply kept_foldl
      | with_reducible refine upd_ftl w0 ?_
  | succ n ih =>
    unfold State.storePortions
    repeat' first
      | with_reducible assumption
      | extract_lets
      | intro _
      | split
      | with_reducible apply ih
      | with_reducible refine KeptOpt.get ?_ (by with_reducible assumption)
      | with_reducible apply State.storeRefused_keeps w0
      | with_reducible apply State.holdupAuto_keeps w1
      | with_reducible refine State.holdupAuto_gives w1 (by with_reducible assumption) ?_
      | with_reducible apply kept_if
      | with_reducible apply kept_foldl
      | with_reducible refine upd_ftl w0 ?_

theorem State.checkpoint_keeps (hw : Frees z 0x4000000000000000000004004) (s : State)  (hk : Kept z s) :
    Kept z (State.checkpoint s) := by
  have w0 : Frees z 0x4000000000000000000004004 := hw.sub rfl
  have w1 : Frees z 0x4000 := hw.sub rfl
  unfold State.checkpoint
  repeat' first
    | with_reducible refine keptOpt_map ?_
    | with_reducible assumption
    | extract_lets
    | intro _
    | split
    | with_reducible apply State.storePortions_keeps w0
    | with_reducible apply kept_if
    | with_reducible apply kept_foldl
    | with_reducible refine upd_ftl w1 ?_

theorem State.makeCommit_keeps (hw : Frees z 0x4000eb800000000020d00105030) (s : State)  (hk : Kept z s) :
    Kept z (State.makeCommit s) := by
  have w0 : Frees z 0x4000eb800000000020d00105030 := hw.sub rfl
  have w1 : Frees z 0x1000 := hw.sub rfl
  have w2 : Frees z 0x4000 := hw.sub rfl
  unfold State.makeCommit
  repeat' first
    | with_reducible assumption
    | extract_lets
    | intro _
    | split
    | with_reducible apply State.completeMove_keeps w0
    | with_reducible apply State.moveWritten_keeps w1
    | with_reducible apply kept_if
    | with_reducible apply kept_foldl
    | with_reducible refine upd_ftl w2 ?_

theorem State.commitRefused_keeps (hw : Frees z 0x4000eb800000000020d00105030) (s : State)  (hk : Kept z s) :
    Kept z (State.commitRefused s) := by
  have w0 : Frees z 0x4000 := hw.sub rfl
  have w1 : Frees z 0x4000eb800000000020d00105030 := hw.sub rfl
  unfold State.commitRefused
  repeat' first
    | with_reducible assumption
    | extract_lets
    | intro _
    | split
    | with_reducible apply State.storeRefused_keeps w0
    | with_reducible apply State.failFetch_keeps w1
    | with_reducible apply kept_if
    | with_reducible apply kept_foldl

theorem State.tryCommit_keeps (hw : Frees z 0x4040eb800000000020d00105034) (s : State) (code : BitVec 12)  (hk : Kept z s) :
    Kept z (State.tryCommit s code) := by
  have w0 : Frees z 0x4000000000000000000000000 := hw.sub rfl
  have w1 : Frees z 0x4000000000000000000004004 := hw.sub rfl
  have w2 : Frees z 0x4000eb800000000020d00105030 := hw.sub rfl
  unfold State.tryCommit
  repeat' first
    | with_reducible assumption
    | extract_lets
    | intro _
    | split
    | with_reducible apply State.holdupCheck_keeps w0
    | with_reducible refine State.holdupCheck_gives w0 (by with_reducible assumption) ?_
    | with_reducible apply State.checkpoint_keeps w1
    | with_reducible apply State.makeCommit_keeps w2
    | with_reducible apply State.commitRefused_keeps w2
    | with_reducible apply kept_if
    | with_reducible apply kept_foldl

theorem State.durableRun_keeps (hw : Frees z 0x4000) (s : State) (set : ℕ) (w : WeightSet)  (hk : Kept z s) :
    ∀ x, State.durableRun s set w = some x → Kept z x.2.2 := by
  have w0 : Frees z 0x4000 := hw.sub rfl
  intro x e
  unfold State.durableRun at e
  extract_lets n s1 at e
  have h1 : Kept z s1 := by
    show Kept z (match mget s.ftl.durableAt set with
      | some x => { s with ftl := { (s.ftl.trim s.now x.1 x.2) with
          extents := mdel s.ftl.extents x.1, durable := mdel s.ftl.durable set, durableAt := mdel s.ftl.durableAt set } }
      | none => s)
    split
    · exact upd_ftl w0 hk
    · exact hk
  clear_value s1
  cases h : s1.freeExtent n with
  | none => rw [h] at e; cases e
  | some a => rw [h] at e; cases e; exact h1
theorem State.durableRun_gives (hw : Frees z 0x4000) {t : State} {y0 y1} {s : State} {set : ℕ} {w : WeightSet} (he : State.durableRun s set w = some (y0, y1, t)) (hk : Kept z s) : Kept z t :=
  State.durableRun_keeps hw s set w hk _ he

theorem State.writeDurable_keeps (hw : Frees z 0x4000000000000000000004400) (s : State) (set : ℕ) (w : WeightSet) (code : BitVec 12)  (hk : Kept z s) :
    Kept z (State.writeDurable s set w code) := by
  have w0 : Frees z 0x4000000000000000000000000 := hw.sub rfl
  have w1 : Frees z 0x4000 := hw.sub rfl
  have w2 : Frees z 0x4400 := hw.sub rfl
  unfold State.writeDurable
  repeat' first
    | with_reducible assumption
    | extract_lets
    | intro _
    | split
    | with_reducible apply State.holdupCheck_keeps w0
    | with_reducible refine State.holdupCheck_gives w0 (by with_reducible assumption) ?_
    | with_reducible apply State.storeRefused_keeps w1
    | with_reducible apply State.durableRun_keeps w1
    | with_reducible refine State.durableRun_gives w1 (by with_reducible assumption) ?_
    | with_reducible apply kept_if
    | with_reducible apply kept_foldl
    | with_reducible refine upd_weights_ftl w2 ?_

theorem State.flashWork_keeps (hw : Frees z 0x80000000000000000000000000000000001000000) (s : State) (f : State → State)  (hk : Kept z s) (hk_f : ∀ y0, Kept z y0 → Kept z (f y0)) :
    Kept z (State.flashWork s f) := by
  have w0 : Frees z 0x80000000000000000000000000000000001000000 := hw.sub rfl
  unfold State.flashWork
  repeat' first
    | with_reducible assumption
    | extract_lets
    | intro _
    | split
    | with_reducible apply State.beginWake_keeps w0
    | with_reducible apply State.rouse_keeps w0
    | with_reducible apply hk_f
    | with_reducible apply kept_if
    | with_reducible apply kept_foldl

theorem execJournalCommit_keeps (hw : Frees z 0x800000000000004040eb800000000020d01105034) (code : BitVec 12) (s : State)  (hk : Kept z s) :
    KeptOut z (execJournalCommit code s) := by
  have w0 : Frees z 0x80000000000000000000000000000000001000000 := hw.sub rfl
  have w1 : Frees z 0x4040eb800000000020d00105034 := hw.sub rfl
  unfold execJournalCommit
  repeat' first
    | with_reducible assumption
    | extract_lets
    | intro _
    | split
    | with_reducible apply State.flashWork_keeps w0
    | with_reducible apply State.tryCommit_keeps w1
    | with_reducible apply kept_if
    | with_reducible apply kept_foldl
    | with_reducible apply keptOut_of

theorem State.retryStore_keeps (hw : Frees z 0x4040eb800000000020d00105434) (s : State) (code : BitVec 12)  (hk : Kept z s) :
    Kept z (State.retryStore s code) := by
  have w0 : Frees z 0x4040eb800000000020d00105034 := hw.sub rfl
  have w1 : Frees z 0x4000000000000000000000000 := hw.sub rfl
  have w2 : Frees z 0x4000000000000000000004004 := hw.sub rfl
  have w3 : Frees z 0x4000 := hw.sub rfl
  have w4 : Frees z 0x4000000000000000000004400 := hw.sub rfl
  unfold State.retryStore
  repeat' first
    | with_reducible assumption
    | extract_lets
    | intro _
    | split
    | with_reducible apply State.tryCommit_keeps w0
    | with_reducible apply State.holdupCheck_keeps w1
    | with_reducible refine State.holdupCheck_gives w1 (by with_reducible assumption) ?_
    | with_reducible apply State.storePortions_keeps w2
    | with_reducible apply State.storeRefused_keeps w3
    | with_reducible apply State.writeDurable_keeps w4
    | with_reducible apply kept_if
    | with_reducible apply kept_foldl
    | with_reducible refine upd_ftl w3 ?_

theorem execHoldupRetry_keeps (hw : Frees z 0x800000000000004040eb800000000020d01105434) (code : BitVec 12) (s : State)  (hk : Kept z s) :
    KeptOut z (execHoldupRetry code s) := by
  have w0 : Frees z 0x80000000000000000000000000000000001000000 := hw.sub rfl
  have w1 : Frees z 0x4040eb800000000020d00105434 := hw.sub rfl
  unfold execHoldupRetry
  repeat' first
    | with_reducible assumption
    | extract_lets
    | intro _
    | split
    | with_reducible apply State.flashWork_keeps w0
    | with_reducible apply State.retryStore_keeps w1
    | with_reducible apply kept_if
    | with_reducible apply kept_foldl
    | with_reducible apply keptOut_of

theorem State.countLevel_keeps (hw : Frees z 0x800000000000000000000000) (s : State) (l : DecodeLevel)  (hk : Kept z s) :
    Kept z (State.countLevel s l) := by
  have w0 : Frees z (Field.bit ftlLdpc_retry) := hw.sub rfl
  have w1 : Frees z (Field.bit ftlLdpc_soft) := hw.sub rfl
  have w2 : Frees z (Field.bit ftlLdpc_uncorrectable) := hw.sub rfl
  unfold State.countLevel
  repeat' first
    | with_reducible assumption
    | extract_lets
    | intro _
    | split
    | with_reducible apply State.bump_keeps (hw := w0)
    | with_reducible apply State.bump_keeps (hw := w1)
    | with_reducible apply State.bump_keeps (hw := w2)
    | with_reducible apply kept_if
    | with_reducible apply kept_foldl

theorem State.countReads_keeps (hw : Frees z 0x4000) (s : State) (granule : ℕ) (levels : List DecodeLevel)  (hk : Kept z s) :
    Kept z (State.countReads s granule levels) := by
  have w0 : Frees z 0x4000 := hw.sub rfl
  unfold State.countReads
  repeat' first
    | with_reducible refine keptOpt_map ?_
    | with_reducible assumption
    | extract_lets
    | intro _
    | split
    | with_reducible apply kept_if
    | with_reducible apply kept_foldl
    | with_reducible refine upd_ftl w0 ?_

theorem State.pageRead_keeps (hw : Frees z 0x1800c080002400000022c800eb830730000420d9d9df1f1) (s : State) (key : ℕ) (a : ℕ)  (hk : Kept z s) :
    Kept z (State.pageRead s key a) := by
  have w0 : Frees z 0x1000 := hw.sub rfl
  have w1 : Frees z 0x1800c080002400000022c800eb830730000420d9d9df1f1 := hw.sub rfl
  have w2 : Frees z 0x1800c0000024000000004000eb82013000002080c9c71b1 := hw.sub rfl
  have w3 : Frees z 0x3000 := hw.sub rfl
  unfold State.pageRead
  repeat' first
    | with_reducible assumption
    | with_reducible exact kept_dram (by with_reducible assumption)
    | with_reducible exact kept_bytes (by with_reducible assumption)
    | with_reducible exact kept_staging (by with_reducible assumption)
    | with_reducible exact keepCells_nil
    | with_reducible apply keepCells_writeList
    | with_reducible apply keepCells_clear
    | extract_lets
    | intro _
    | split
    | with_reducible apply State.pageCame_keeps w0
    | with_reducible apply State.wakeAll_keeps w1
    | with_reducible apply State.expandFailed_keeps w2
    | with_reducible apply kept_if
    | with_reducible apply kept_foldl
    | with_reducible refine upd_tiers_bytes w3 ?_ ?_

theorem execFlashReadComplete_keeps (hw : Frees z 0x1800c080002400000022c808eb830730000420d9d9df1f1) (granule : BitVec 30) (levels : List DecodeLevel) (s : State)  (hk : Kept z s) :
    KeptOut z (execFlashReadComplete granule levels s) := by
  have w0 : Frees z 0x0 := hw.sub rfl
  have w1 : Frees z 0x80000000000000000000000000000000001000000 := hw.sub rfl
  have w2 : Frees z 0x4000 := hw.sub rfl
  have w3 : Frees z 0x800000000000000000000000 := hw.sub rfl
  have w4 : Frees z 0x1800c080002400000022c800eb830730000420d9d9df1f1 := hw.sub rfl
  have w5 : Frees z 0x1800c0800024000000004000eb82010000002080d9c71b1 := hw.sub rfl
  have w6 : Frees z 0x1800c00000240000000000000002010000000000c9c11b1 := hw.sub rfl
  unfold execFlashReadComplete
  repeat' first
    | with_reducible assumption
    | extract_lets
    | intro _
    | split
    | with_reducible apply State.whenLive_keeps w0
    | with_reducible apply State.flashWork_keeps w1
    | with_reducible apply State.countReads_keeps w2
    | with_reducible apply State.countLevel_keeps w3
    | with_reducible apply State.wakeAll_keeps w4
    | with_reducible apply State.failDelivery_keeps w5
    | with_reducible apply State.raise_keeps w6
    | with_reducible apply State.pageRead_keeps w4
    | with_reducible apply kept_if
    | with_reducible apply kept_foldl
    | with_reducible apply keptOut_of

theorem execFlashProgramComplete_keeps (hw : Frees z 0x800000000000000000eb800000000020801005000) (granule : BitVec 30) (ok : Bool) (s : State)  (hk : Kept z s) :
    KeptOut z (execFlashProgramComplete granule ok s) := by
  have w0 : Frees z 0x0 := hw.sub rfl
  have w1 : Frees z 0x80000000000000000000000000000000001000000 := hw.sub rfl
  have w2 : Frees z 0xeb800000000020800005000 := hw.sub rfl
  have w3 : Frees z 0x4000 := hw.sub rfl
  unfold execFlashProgramComplete
  repeat' first
    | with_reducible assumption
    | extract_lets
    | intro _
    | split
    | with_reducible apply State.whenLive_keeps w0
    | with_reducible apply State.flashWork_keeps w1
    | with_reducible apply State.abandonMove_keeps w2
    | with_reducible apply kept_if
    | with_reducible apply kept_foldl
    | with_reducible refine upd_ftl w3 ?_
    | with_reducible apply keptOut_of

theorem State.relocate_keeps (hw : Frees z 0x4000) (s : State) (b : ℕ)  (hk : Kept z s) :
    Kept z (State.relocate s b) := by
  have w0 : Frees z 0x4000 := hw.sub rfl
  unfold State.relocate
  repeat' first
    | with_reducible assumption
    | extract_lets
    | intro _
    | split
    | with_reducible apply kept_if
    | with_reducible apply kept_foldl
    | with_reducible refine upd_ftl w0 ?_

theorem execGarbageCollection_keeps (hw : Frees z 0x80000000000000000000000000000000001004000) (s : State)  (hk : Kept z s) :
    KeptOut z (execGarbageCollection s) := by
  have w0 : Frees z 0x80000000000000000000000000000000001000000 := hw.sub rfl
  have w1 : Frees z 0x4000 := hw.sub rfl
  unfold execGarbageCollection
  repeat' first
    | with_reducible assumption
    | extract_lets
    | intro _
    | split
    | with_reducible apply State.flashWork_keeps w0
    | with_reducible apply State.relocate_keeps w1
    | with_reducible apply kept_if
    | with_reducible apply kept_foldl
    | with_reducible refine upd_ftl w1 ?_
    | with_reducible apply keptOut_of

theorem execStaticWearLevelling_keeps (hw : Frees z 0x80000000000000000000000000000000001004000) (s : State)  (hk : Kept z s) :
    KeptOut z (execStaticWearLevelling s) := by
  have w0 : Frees z 0x80000000000000000000000000000000001000000 := hw.sub rfl
  have w1 : Frees z 0x4000 := hw.sub rfl
  unfold execStaticWearLevelling
  repeat' first
    | with_reducible assumption
    | extract_lets
    | intro _
    | split
    | with_reducible apply State.flashWork_keeps w0
    | with_reducible apply State.relocate_keeps w1
    | with_reducible apply kept_if
    | with_reducible apply kept_foldl
    | with_reducible apply keptOut_of

theorem execReadDisturbRefresh_keeps (hw : Frees z 0x80000000000000000000000000000000001004000) (block : ℕ) (s : State)  (hk : Kept z s) :
    KeptOut z (execReadDisturbRefresh block s) := by
  have w0 : Frees z 0x80000000000000000000000000000000001000000 := hw.sub rfl
  have w1 : Frees z 0x4000 := hw.sub rfl
  unfold execReadDisturbRefresh
  repeat' first
    | with_reducible assumption
    | extract_lets
    | intro _
    | split
    | with_reducible apply State.flashWork_keeps w0
    | with_reducible apply State.relocate_keeps w1
    | with_reducible apply kept_if
    | with_reducible apply kept_foldl
    | with_reducible apply keptOut_of

theorem execRetentionScrub_keeps (hw : Frees z 0x80000000000000000000000000000000001004000) (block : ℕ) (weak : Bool) (correctedBits : ℕ) (s : State)  (hk : Kept z s) :
    KeptOut z (execRetentionScrub block weak correctedBits s) := by
  have w0 : Frees z 0x80000000000000000000000000000000001000000 := hw.sub rfl
  have w1 : Frees z 0x4000 := hw.sub rfl
  unfold execRetentionScrub
  repeat' first
    | with_reducible assumption
    | extract_lets
    | intro _
    | split
    | with_reducible apply State.flashWork_keeps w0
    | with_reducible apply kept_if
    | with_reducible apply kept_foldl
    | with_reducible refine upd_ftl w1 ?_
    | with_reducible apply keptOut_of

theorem execGrownBadBlock_keeps (hw : Frees z 0x1800c00000240000000000040002010000000000c9c51b1) (block : ℕ) (failed : Bool) (s : State)  (hk : Kept z s) :
    KeptOut z (execGrownBadBlock block failed s) := by
  have w0 : Frees z 0x1800c00000240000000000040002010000000000c9c11b1 := hw.sub rfl
  have w1 : Frees z 0x400000000000000000000000 := hw.sub rfl
  have w2 : Frees z 0x1800c00000240000000000000002010000000000c9c11b1 := hw.sub rfl
  have w3 : Frees z (Field.bit ftlHealth_grownBad) := hw.sub rfl
  have w4 : Frees z 0x4000 := hw.sub rfl
  unfold execGrownBadBlock
  repeat' first
    | with_reducible assumption
    | extract_lets
    | intro _
    | split
    | with_reducible apply State.checkReserve_keeps w0
    | with_reducible apply State.noteErases_keeps w1
    | with_reducible apply State.raise_keeps w2
    | with_reducible apply State.bump_keeps (hw := w3)
    | with_reducible apply kept_if
    | with_reducible apply kept_foldl
    | with_reducible refine upd_ftl w4 ?_
    | with_reducible apply keptOut_of

theorem execFlashEraseComplete_keeps (hw : Frees z 0x80000000000000000400000000000000001004000) (block : ℕ) (suspended : Bool) (s : State)  (hk : Kept z s) :
    KeptOut z (execFlashEraseComplete block suspended s) := by
  have w0 : Frees z 0x0 := hw.sub rfl
  have w1 : Frees z 0x80000000000000000000000000000000001000000 := hw.sub rfl
  have w2 : Frees z 0x400000000000000000000000 := hw.sub rfl
  have w3 : Frees z 0x4000 := hw.sub rfl
  unfold execFlashEraseComplete
  repeat' first
    | with_reducible assumption
    | extract_lets
    | intro _
    | split
    | with_reducible apply State.whenLive_keeps w0
    | with_reducible apply State.flashWork_keeps w1
    | with_reducible apply State.noteErases_keeps w2
    | with_reducible apply kept_if
    | with_reducible apply kept_foldl
    | with_reducible refine upd_ftl w3 ?_
    | with_reducible apply keptOut_of

end Sys2Proof.Machine
end

