-- ==== Sys2Proof/Laws/KeepsWeights.lean ====
section
/-! SUPPORT. Every operation of Machine/Weights.lean keeps the queue, the canonical forms and every piece that it does not touch. -/

set_option Elab.async false
set_option linter.unusedSimpArgs false
set_option linter.unusedTactic false
set_option linter.unreachableTactic false

namespace Sys2Proof.Machine

variable {z : Ref}

theorem State.layNear_keeps (hw : Frees z 0x1b000) (s : State) (bs : List RawBlock)  (hk : Kept z s) :
    Kept z (State.layNear s bs) := by
  have w0 : Frees z 0x1b000 := hw.sub rfl
  unfold State.layNear
  repeat' first
    | with_reducible assumption
    | extract_lets
    | intro _
    | split
    | with_reducible apply State.writePlaces_keeps w0
    | with_reducible apply kept_if
    | with_reducible apply kept_foldl

theorem State.rereadNear_keeps (hw : Frees z 0x1b000) (s : State) (set : ℕ) (place : ℕ)  (hk : Kept z s) :
    Kept z (State.rereadNear s set place) := by
  have w0 : Frees z 0x1b000 := hw.sub rfl
  unfold State.rereadNear
  repeat' first
    | with_reducible assumption
    | extract_lets
    | intro _
    | split
    | with_reducible apply State.writePlaces_keeps w0
    | with_reducible apply kept_if
    | with_reducible apply kept_foldl

theorem State.setWeights_keeps (hw : Frees z 0x400) (s : State) (set : ℕ) (w : WeightSet)  (hk : Kept z s) :
    Kept z (State.setWeights s set w) := by
  have w0 : Frees z 0x400 := hw.sub rfl
  simp (maxDischargeDepth := 30) only [State.setWeights, upd_weights w0, and_self, hk]

theorem State.loadDone_keeps (hw : Frees z 0x40e9800000004022800045400) (s : State) (set : ℕ) (first : ℕ) (count : ℕ) (fixes : ℕ)  (hk : Kept z s) :
    Kept z (State.loadDone s set first count fixes) := by
  have w0 : Frees z (Field.bit genCrossover_positions) := hw.sub rfl
  have w1 : Frees z 0xe9800000000020800001000 := hw.sub rfl
  have w2 : Frees z 0x40000 := hw.sub rfl
  have w3 : Frees z (Field.bit ldlBiasFix_count) := hw.sub rfl
  have w4 : Frees z 0x4000000000000000000004400 := hw.sub rfl
  unfold State.loadDone
  repeat' first
    | with_reducible assumption
    | extract_lets
    | intro _
    | split
    | with_reducible apply State.setFld_keeps (hw := w0)
    | with_reducible apply State.relayTier1_keeps w1
    | with_reducible apply State.noteDraft_keeps w2
    | with_reducible apply State.bump_keeps (hw := w3)
    | with_reducible apply State.writeDurable_keeps w4
    | with_reducible apply kept_if
    | with_reducible apply kept_foldl

theorem State.readSource_keeps (hw : Frees z 0x400000000000000000000100010) (s : State) (d : Pend)  (hk : Kept z s) :
    Kept z (State.readSource s d) := by
  have w0 : Frees z 0x400000000000000000000100010 := hw.sub rfl
  unfold State.readSource
  repeat' first
    | with_reducible assumption
    | extract_lets
    | intro _
    | split
    | with_reducible apply State.readBulk_keeps w0
    | with_reducible apply kept_if
    | with_reducible apply kept_foldl

theorem effWeightLoad_keeps (hw : Frees z 0x4040e9800000004022d0015f430) (record : List Cell) (blocks : List RawBlock) (d : Pend) (s : State)  (hk : Kept z s) :
    Kept z (effWeightLoad record blocks d s) := by
  have w0 : Frees z 0x400000000000000000500100030 := hw.sub rfl
  have w1 : Frees z 0x40e9800000004022800045400 := hw.sub rfl
  have w2 : Frees z 0x1b000 := hw.sub rfl
  have w3 : Frees z 0x400 := hw.sub rfl
  have w4 : Frees z 0x20 := hw.sub rfl
  have w5 : Frees z 0x400000000000000000000100010 := hw.sub rfl
  have w6 : Frees z 0x40000 := hw.sub rfl
  unfold effWeightLoad
  repeat' first
    | with_reducible assumption
    | extract_lets
    | intro _
    | split
    | with_reducible apply State.finish_keeps w0
    | with_reducible apply State.loadDone_keeps w1
    | with_reducible apply State.layNear_keeps w2
    | with_reducible apply State.setWeights_keeps w3
    | with_reducible apply State.await_keeps w4
    | with_reducible apply State.readSource_keeps w5
    | with_reducible apply State.noteDraft_keeps w6
    | with_reducible refine KeptOpt.getD ?_ ?_
    | with_reducible apply kept_if
    | with_reducible apply kept_foldl

theorem execWeightLoad_keeps (hw : Frees z 0x800000000000004040e9800000004022d0115f430) (c : Cmd) (record : List Cell) (blocks : List RawBlock) (s : State)  (hk : Kept z s) :
    KeptOut z (execWeightLoad c record blocks s) := by
  have w0 : Frees z 0x80000000000000400000000000000000501100030 := hw.sub rfl
  have w1 : Frees z 0x4040e9800000004022d0015f430 := hw.sub rfl
  simp (maxDischargeDepth := 30) +contextual only [execWeightLoad, keptOut_next, State.command_keeps w0, effWeightLoad_keeps w1, and_self, kept_foldl, kept_ite, implies_true, hk]

theorem State.sourceRead_keeps (hw : Frees z 0x4040e9800000004022d00145430) (s : State) (set : ℕ)  (hk : Kept z s) :
    Kept z (State.sourceRead s set) := by
  have w0 : Frees z 0x400000000000000000500100030 := hw.sub rfl
  have w1 : Frees z 0x40e9800000004022800045400 := hw.sub rfl
  have w2 : Frees z 0x400 := hw.sub rfl
  unfold State.sourceRead
  repeat' first
    | with_reducible assumption
    | extract_lets
    | intro _
    | split
    | with_reducible apply State.finish_keeps w0
    | with_reducible apply State.loadDone_keeps w1
    | with_reducible apply State.setWeights_keeps w2
    | with_reducible apply kept_if
    | with_reducible apply kept_foldl

theorem State.sourceFails_keeps (hw : Frees z 0x4000e9800000000020d00141430) (s : State) (set : ℕ) (status : ℕ)  (hk : Kept z s) :
    Kept z (State.sourceFails s set status) := by
  have w0 : Frees z 0x400000000000000000500100030 := hw.sub rfl
  have w1 : Frees z 0xe9800000000020800001000 := hw.sub rfl
  have w2 : Frees z 0x40000 := hw.sub rfl
  have w3 : Frees z 0x400 := hw.sub rfl
  unfold State.sourceFails
  repeat' first
    | with_reducible assumption
    | extract_lets
    | intro _
    | split
    | with_reducible apply State.finish_keeps w0
    | with_reducible apply State.relayTier1_keeps w1
    | with_reducible apply State.noteDraft_keeps w2
    | with_reducible apply State.setWeights_keeps w3
    | with_reducible apply kept_if
    | with_reducible apply kept_foldl

theorem State.noteChurn_keeps (hw : Frees z 0x4000000000000000) (s : State)  (hk : Kept z s) :
    Kept z (State.noteChurn s) := by
  have w0 : Frees z (Field.bit cmpChurn_busy) := hw.sub rfl
  have w1 : Frees z (Field.bit cmpChurn_layer) := hw.sub rfl
  have w2 : Frees z (Field.bit cmpChurn_weightSet) := hw.sub rfl
  unfold State.noteChurn
  repeat' first
    | with_reducible assumption
    | extract_lets
    | intro _
    | split
    | with_reducible apply State.setFlag_keeps (hw := w0)
    | with_reducible apply State.setFld_keeps (hw := w1)
    | with_reducible apply State.setFld_keeps (hw := w2)
    | with_reducible apply kept_if
    | with_reducible apply kept_foldl

theorem State.beginChurn_keeps (hw : Frees z 0x4000000000000800) (s : State) (set : ℕ) (first : ℕ) (count : ℕ) (tag : BitVec 32) (cmd : Option ℕ)  (hk : Kept z s) :
    Kept z (State.beginChurn s set first count tag cmd) := by
  have w0 : Frees z 0x4000000000000000 := hw.sub rfl
  have w1 : Frees z 0x800 := hw.sub rfl
  unfold State.beginChurn
  repeat' first
    | with_reducible assumption
    | extract_lets
    | intro _
    | split
    | with_reducible apply State.noteChurn_keeps w0
    | with_reducible apply kept_if
    | with_reducible apply kept_foldl
    | with_reducible refine upd_churn w1 ?_

theorem effChurnPass_keeps (hw : Frees z 0x400000000004000000500100830) (d : Pend) (s : State)  (hk : Kept z s) :
    Kept z (effChurnPass d s) := by
  have w0 : Frees z 0x400000000000000000500100030 := hw.sub rfl
  have w1 : Frees z 0x20 := hw.sub rfl
  have w2 : Frees z 0x4000000000000800 := hw.sub rfl
  unfold effChurnPass
  repeat' first
    | with_reducible assumption
    | extract_lets
    | intro _
    | split
    | with_reducible apply State.finish_keeps w0
    | with_reducible apply State.await_keeps w1
    | with_reducible apply State.beginChurn_keeps w2
    | with_reducible apply kept_if
    | with_reducible apply kept_foldl

theorem execChurnPass_keeps (hw : Frees z 0x80000000000000400000000004000000501100830) (c : Cmd) (s : State)  (hk : Kept z s) :
    KeptOut z (execChurnPass c s) := by
  have w0 : Frees z 0x80000000000000400000000000000000501100030 := hw.sub rfl
  have w1 : Frees z 0x400000000004000000500100830 := hw.sub rfl
  simp (maxDischargeDepth := 30) +contextual only [execChurnPass, keptOut_next, State.plain_keeps w0, effChurnPass_keeps w1, and_self, kept_foldl, kept_ite, implies_true, hk]

theorem State.installLayer_keeps (hw : Frees z 0x40000000000c000000500100c30) (s : State) (c : Churn) (cs : List Churn) (w : WeightSet)  (hk : Kept z s) :
    Kept z (State.installLayer s c cs w) := by
  have w0 : Frees z (Field.bit cmpStat_coded) := hw.sub rfl
  have w1 : Frees z (Field.bit cmpStat_escaped) := hw.sub rfl
  have w2 : Frees z 0x400 := hw.sub rfl
  have w3 : Frees z 0x4000000000000000 := hw.sub rfl
  have w4 : Frees z 0x400000000000000000500100030 := hw.sub rfl
  have w5 : Frees z 0x800 := hw.sub rfl
  unfold State.installLayer
  repeat' first
    | with_reducible assumption
    | extract_lets
    | intro _
    | split
    | with_reducible apply State.bump_keeps (hw := w0)
    | with_reducible apply State.bump_keeps (hw := w1)
    | with_reducible apply State.setWeights_keeps w2
    | with_reducible apply State.noteChurn_keeps w3
    | with_reducible apply State.finish_keeps w4
    | with_reducible apply kept_if
    | with_reducible apply kept_foldl
    | with_reducible refine upd_churn w5 ?_

theorem State.churnStep_keeps (hw : Frees z 0x40000000000c000000500100c30) (s : State)  (hk : Kept z s) :
    Kept z (State.churnStep s) := by
  have w0 : Frees z 0x4000000000000000 := hw.sub rfl
  have w1 : Frees z 0x40000000000c000000500100c30 := hw.sub rfl
  have w2 : Frees z 0x800 := hw.sub rfl
  unfold State.churnStep
  repeat' first
    | with_reducible assumption
    | extract_lets
    | intro _
    | split
    | with_reducible apply State.noteChurn_keeps w0
    | with_reducible apply State.installLayer_keeps w1
    | with_reducible apply kept_if
    | with_reducible apply kept_foldl
    | with_reducible refine upd_churn w2 ?_

theorem State.rereadLayer_keeps (hw : Frees z 0x4000000000000c00) (s : State) (set : ℕ) (layer : ℕ)  (hk : Kept z s) :
    Kept z (State.rereadLayer s set layer) := by
  have w0 : Frees z 0x400 := hw.sub rfl
  have w1 : Frees z 0x4000000000000800 := hw.sub rfl
  unfold State.rereadLayer
  repeat' first
    | with_reducible assumption
    | extract_lets
    | intro _
    | split
    | with_reducible apply State.setWeights_keeps w0
    | with_reducible apply State.beginChurn_keeps w1
    | with_reducible apply kept_if
    | with_reducible apply kept_foldl

theorem State.rereadBlock_keeps (hw : Frees z 0x400) (s : State) (set : ℕ) (place : ℕ)  (hk : Kept z s) :
    Kept z (State.rereadBlock s set place) := by
  have w0 : Frees z 0x400 := hw.sub rfl
  unfold State.rereadBlock
  repeat' first
    | with_reducible assumption
    | extract_lets
    | intro _
    | split
    | with_reducible apply State.setWeights_keeps w0
    | with_reducible apply kept_if
    | with_reducible apply kept_foldl

end Sys2Proof.Machine
end

