-- ==== Sys2Proof/Laws/KeepsEntries.lean ====
section
/-! SUPPORT. Every operation of Machine/Entries.lean keeps the queue, the canonical forms and every piece that it does not touch. -/

set_option Elab.async false
set_option linter.unusedSimpArgs false
set_option linter.unusedTactic false
set_option linter.unreachableTactic false

namespace Sys2Proof.Machine

variable {z : Ref}

theorem State.workedAll_keeps (hw : Frees z 0x80000000000000000000000000000000001000000) (s : State) (p : ℕ) (e : Entry)  (hk : Kept z s) :
    Kept z (State.workedAll s p e) := by
  have w0 : Frees z 0x80000000000000000000000000000000001000000 := hw.sub rfl
  unfold State.workedAll
  repeat' first
    | with_reducible assumption
    | extract_lets
    | intro _
    | split
    | with_reducible apply State.worked_keeps w0
    | with_reducible apply kept_if
    | with_reducible apply kept_foldl

theorem State.metaFault_keeps (hw : Frees z 0x1800c00000240000000040000002010000000400c9c71b1) (s : State) (p : ℕ) (h : ℕ)  (hk : Kept z s) :
    Kept z (State.metaFault s p h) := by
  have w0 : Frees z 0x1800c00000240000000000000002010000000000c9c11b1 := hw.sub rfl
  have w1 : Frees z (Field.bit ldlMetaFault_count) := hw.sub rfl
  have w2 : Frees z 0x4000000000000000000009071b0 := hw.sub rfl
  have w3 : Frees z 0x80 := hw.sub rfl
  unfold State.metaFault
  repeat' first
    | with_reducible assumption
    | extract_lets
    | intro _
    | split
    | with_reducible apply State.raise_keeps w0
    | with_reducible apply State.bump_keeps (hw := w1)
    | with_reducible apply State.toRebuild_keeps w2
    | with_reducible apply State.modSeq_keeps w3
    | with_reducible apply kept_if
    | with_reducible apply kept_foldl

theorem State.walkSeq_keeps (hw : Frees z 0x1800c00000240000000040000002010000000500c9c71b1) (s : State) (p : ℕ) (h : ℕ)  (hk : Kept z s) :
    Kept z (State.walkSeq s p h) := by
  have w0 : Frees z 0x1000001000 := hw.sub rfl
  have w1 : Frees z 0x1800c00000240000000040000002010000000400c9c71b1 := hw.sub rfl
  unfold State.walkSeq
  repeat' first
    | with_reducible assumption
    | extract_lets
    | intro _
    | split
    | with_reducible apply State.useLeaves_keeps w0
    | with_reducible apply State.metaFault_keeps w1
    | with_reducible apply kept_if
    | with_reducible apply kept_foldl

theorem State.walk_keeps (hw : Frees z 0x1800c00000240000000040000002010000000500c9c71b1) (s : State) (p : ℕ) (e : Entry) (evicted : List ℕ)  (hk : Kept z s) :
    Kept z (State.walk s p e evicted) := by
  have w0 : Frees z 0x1800c00000240000000040000002010000000500c9c71b1 := hw.sub rfl
  have w1 : Frees z 0x1000 := hw.sub rfl
  unfold State.walk
  repeat' first
    | with_reducible assumption
    | extract_lets
    | intro _
    | split
    | with_reducible apply State.walkSeq_keeps w0
    | with_reducible apply kept_if
    | with_reducible apply kept_foldl
    | with_reducible refine upd_tiers w1 rfl ?_

theorem State.setRun_keeps (hw : Frees z 0x100) (s : State) (p : ℕ) (i : ℕ) (r : EntryRun)  (hk : Kept z s) :
    Kept z (State.setRun s p i r) := by
  have w0 : Frees z 0x100 := hw.sub rfl
  simp (maxDischargeDepth := 30) only [State.setRun, State.modPart_keeps w0, and_self, hk]

theorem State.chargeWait_keeps (hw : Frees z 0x4000000000000000001000) (s : State) (cause : ℕ) (since : ℕ)  (hk : Kept z s) :
    Kept z (State.chargeWait s cause since) := by
  have w0 : Frees z (Field.bit tirStall_wait) := hw.sub rfl
  have w1 : Frees z 0x1000 := hw.sub rfl
  unfold State.chargeWait
  repeat' first
    | with_reducible assumption
    | extract_lets
    | intro _
    | split
    | with_reducible apply State.bump_keeps (hw := w0)
    | with_reducible apply kept_if
    | with_reducible apply kept_foldl
    | with_reducible refine upd_tiers w1 rfl ?_

theorem State.takeHalves_keeps (hw : Frees z 0x80000) (s : State) (p : ℕ) (e : Entry)  (hk : Kept z s) :
    Kept z (State.takeHalves s p e) := by
  have w0 : Frees z 0x80000 := hw.sub rfl
  unfold State.takeHalves
  repeat' first
    | with_reducible assumption
    | extract_lets
    | intro _
    | split
    | with_reducible apply kept_if
    | with_reducible apply kept_foldl
    | with_reducible refine upd_prm w0 ?_

theorem State.reachDomains_keeps (hw : Frees z 0x80000000000000000000000000000000001000000) (s : State) (p : ℕ) (e : Entry)  (hk : Kept z s) :
    Kept z (State.reachDomains s p e) := by
  have w0 : Frees z 0x80000000000000000000000000000000001000000 := hw.sub rfl
  unfold State.reachDomains
  repeat' first
    | with_reducible assumption
    | extract_lets
    | intro _
    | split
    | with_reducible apply State.arrivesAt_keeps w0
    | with_reducible apply kept_if
    | with_reducible apply kept_foldl

theorem State.startEntry_keeps (hw : Frees z 0x80000000000000000004000000000000001081100) (s : State) (p : ℕ) (i : ℕ) (e : Entry)  (hk : Kept z s) :
    Kept z (State.startEntry s p i e) := by
  have w0 : Frees z 0x80000000000000000000000000000000001000000 := hw.sub rfl
  have w1 : Frees z 0x4000000000000000001000 := hw.sub rfl
  have w2 : Frees z 0x80000000000000000000000000000000000000000 := hw.sub rfl
  have w3 : Frees z 0x100 := hw.sub rfl
  have w4 : Frees z 0x1000 := hw.sub rfl
  have w5 : Frees z 0x80000 := hw.sub rfl
  unfold State.startEntry
  extract_lets s1 s2
  have h1 : Kept z s1 := State.reachDomains_keeps w0 _ _ _ hk
  have h2 : Kept z s2 := by
    unfold s2
    split
    · exact State.chargeWait_keeps w1 _ _ _ h1
    · exact h1
  clear_value s1 s2
  exact State.notePoints_keeps w2 _ (State.modPart_keeps w3 _ _ _ (State.setRun_keeps w3 _ _ _ _ (State.touchPages_keeps w4 _ _ (State.takeHalves_keeps w5 _ _ _ h2))))

theorem State.waitEntry_keeps (hw : Frees z 0x4000000000000000000100) (s : State) (p : ℕ) (i : ℕ) (cause : ℕ)  (hk : Kept z s) :
    Kept z (State.waitEntry s p i cause) := by
  have w0 : Frees z 0x100 := hw.sub rfl
  have w1 : Frees z (Field.bit tirStall_count) := hw.sub rfl
  unfold State.waitEntry
  repeat' first
    | with_reducible assumption
    | extract_lets
    | intro _
    | split
    | with_reducible apply State.setRun_keeps w0
    | with_reducible apply State.bump_keeps (hw := w1)
    | with_reducible apply kept_if
    | with_reducible apply kept_foldl

theorem State.stallEntry_keeps (hw : Frees z 0x800000000000004000ef800000000020801105110) (s : State) (p : ℕ) (i : ℕ) (key : ℕ) (keys : List ℕ)  (hk : Kept z s) :
    Kept z (State.stallEntry s p i key keys) := by
  have w0 : Frees z 0x4000000000000000000100 := hw.sub rfl
  have w1 : Frees z 0x800000000000004000eb800000000020801105010 := hw.sub rfl
  have w2 : Frees z 0x800000000000004000e9800000000020801105010 := hw.sub rfl
  unfold State.stallEntry
  repeat' first
    | with_reducible assumption
    | extract_lets
    | intro _
    | split
    | with_reducible apply State.waitEntry_keeps w0
    | with_reducible apply State.fetchPage_keeps w1
    | with_reducible apply State.streamPage_keeps w2
    | with_reducible apply kept_if
    | with_reducible apply kept_foldl

theorem execArmatureEntryStart_keeps (hw : Frees z 0x1800c0800024000000004000ef82010000002580d9c71b1) (p : Fin 16) (start : EntryStart) (s : State)  (hk : Kept z s) :
    KeptOut z (execArmatureEntryStart p start s) := by
  have w0 : Frees z 0x80000000000000000000000000000000001000000 := hw.sub rfl
  have w1 : Frees z 0x1800c00000240000000040000002010000000500c9c71b1 := hw.sub rfl
  have w2 : Frees z 0x4000000000000000000100 := hw.sub rfl
  have w3 : Frees z 0x80000000000000000004000000000000001081100 := hw.sub rfl
  have w4 : Frees z 0x800000000000004000ef800000000020801105110 := hw.sub rfl
  unfold execArmatureEntryStart
  repeat' first
    | with_reducible refine keptOpt_map ?_
    | with_reducible assumption
    | extract_lets
    | intro _
    | split
    | with_reducible apply State.reachDomains_keeps w0
    | with_reducible apply State.walk_keeps w1
    | with_reducible apply State.waitEntry_keeps w2
    | with_reducible apply State.startEntry_keeps w3
    | with_reducible apply State.stallEntry_keeps w4
    | with_reducible apply kept_if
    | with_reducible apply kept_foldl
    | with_reducible apply keptOut_of

theorem State.takeLogits_keeps (hw : Frees z 0x80) (s : State) (r : LogitRow)  (hk : Kept z s) :
    Kept z (State.takeLogits s r) := by
  have w0 : Frees z 0x80 := hw.sub rfl
  simp (maxDischargeDepth := 30) only [State.takeLogits, State.modSeq_keeps w0, and_self, hk]

theorem State.poisonWork_keeps (hw : Frees z 0x180) (s : State) (p : ℕ) (e : Entry)  (hk : Kept z s) :
    Kept z (State.poisonWork s p e) := by
  have w0 : Frees z 0x80 := hw.sub rfl
  have w1 : Frees z 0x100 := hw.sub rfl
  unfold State.poisonWork
  repeat' first
    | with_reducible refine keptOpt_map ?_
    | with_reducible assumption
    | extract_lets
    | intro _
    | split
    | with_reducible apply State.modSeq_keeps w0
    | with_reducible apply State.modPart_keeps w1
    | with_reducible apply kept_if
    | with_reducible apply kept_foldl

theorem State.poisonBatch_keeps (hw : Frees z 0x180) (s : State) (p : ℕ)  (hk : Kept z s) :
    Kept z (State.poisonBatch s p) := by
  have w0 : Frees z 0x80 := hw.sub rfl
  have w1 : Frees z 0x100 := hw.sub rfl
  unfold State.poisonBatch
  repeat' first
    | with_reducible assumption
    | extract_lets
    | intro _
    | split
    | with_reducible apply State.modSeq_keeps w0
    | with_reducible apply State.modPart_keeps w1
    | with_reducible apply kept_if
    | with_reducible apply kept_foldl

theorem State.consumePoison_keeps (hw : Frees z 0x180) (s : State) (p : ℕ) (layer : ℕ) (owners : List ℕ)  (hk : Kept z s) :
    Kept z (State.consumePoison s p layer owners) := by
  have w0 : Frees z 0x80 := hw.sub rfl
  have w1 : Frees z 0x180 := hw.sub rfl
  unfold State.consumePoison
  repeat' first
    | with_reducible assumption
    | extract_lets
    | intro _
    | split
    | with_reducible apply State.modSeq_keeps w0
    | with_reducible apply State.poisonBatch_keeps w1
    | with_reducible apply kept_if
    | with_reducible apply kept_foldl

theorem State.endLayer_keeps (hw : Frees z 0x40180) (s : State) (p : ℕ) (e : Entry)  (hk : Kept z s) :
    Kept z (State.endLayer s p e) := by
  have w0 : Frees z 0x180 := hw.sub rfl
  have w1 : Frees z 0x40000 := hw.sub rfl
  unfold State.endLayer
  repeat' first
    | with_reducible assumption
    | extract_lets
    | intro _
    | split
    | with_reducible apply State.consumePoison_keeps w0
    | with_reducible apply State.endReductions_keeps w1
    | with_reducible apply kept_if
    | with_reducible apply kept_foldl

theorem State.releaseRead_keeps (hw : Frees z 0xe9800000000020800001000) (s : State) (p : ℕ) (e : Entry)  (hk : Kept z s) :
    Kept z (State.releaseRead s p e) := by
  have w0 : Frees z 0xe9800000000020800001000 := hw.sub rfl
  unfold State.releaseRead
  repeat' first
    | with_reducible assumption
    | extract_lets
    | intro _
    | split
    | with_reducible apply State.endStreams_keeps w0
    | with_reducible apply kept_if
    | with_reducible apply kept_foldl

theorem State.endReruns_keeps (hw : Frees z 0x80000) (s : State) (p : ℕ) (e : Entry)  (hk : Kept z s) :
    Kept z (State.endReruns s p e) := by
  have w0 : Frees z 0x80000 := hw.sub rfl
  unfold State.endReruns
  repeat' first
    | with_reducible assumption
    | extract_lets
    | intro _
    | split
    | with_reducible apply kept_if
    | with_reducible apply kept_foldl
    | with_reducible refine upd_prm w0 ?_

theorem State.kernelFault_keeps (hw : Frees z 0x1800c00000240000000000000002010000000000c9c11b1) (s : State) (p : ℕ) (tile : ℕ) (i : ℕ)  (hk : Kept z s) :
    Kept z (State.kernelFault s p tile i) := by
  have w0 : Frees z 0x1800c00000240000000000000002010000000000c9c11b1 := hw.sub rfl
  simp (maxDischargeDepth := 30) only [State.kernelFault, State.raise_keeps w0, and_self, hk]

theorem State.runProduct_keeps (hw : Frees z 0x1800c00000240000000000000002010000000000c9c11b1) (s : State) (p : ℕ) (i : ℕ) (e : Entry) (outs : List (List (List (BitVec 32)))) (j : TileJob)  (hk : Kept z s) :
    Kept z (State.runProduct s p i e outs j).1 := by
  have w0 : Frees z 0x1800c00000240000000000000002010000000000c9c11b1 := hw.sub rfl
  have w1 : Frees z 0x80000 := hw.sub rfl
  unfold State.runProduct
  split
  · exact hk
  · extract_lets x
    split
    · exact State.kernelFault_keeps w0 _ _ _ _ hk
    · exact upd_prm w1 hk
theorem State.runProduct_gives (hw : Frees z 0x1800c00000240000000000000002010000000000c9c11b1) {t : State} {y0} {s : State} {p : ℕ} {i : ℕ} {e : Entry} {outs : List (List (List (BitVec 32)))} {j : TileJob} (he : State.runProduct s p i e outs j = (t, y0)) (hk : Kept z s) : Kept z t :=
  by have k := State.runProduct_keeps hw s p i e outs j hk; rw [he] at k; exact k

theorem State.losePoisoned_keeps (hw : Frees z 0x1800c00000240000000040000002010000000000c9c71b1) (s : State) (p : ℕ) (h : ℕ) (key : ℕ)  (hk : Kept z s) :
    Kept z (State.losePoisoned s p h key) := by
  have w0 : Frees z 0x4000000000000000000009071b0 := hw.sub rfl
  have w1 : Frees z 0x1000 := hw.sub rfl
  have w2 : Frees z 0x1800c00000240000000000000002010000000000c9c11b1 := hw.sub rfl
  simp (maxDischargeDepth := 30) only [State.losePoisoned, State.toRebuild_keeps w0, State.loseKey_keeps w1, State.raise_keeps w2, and_self, hk]

theorem State.attendRow_keeps (hw : Frees z 0x1800c00000240000000040000002010000000000c9c71b1) (s : State) (p : ℕ) (e : Entry) (outs : List (List (List (BitVec 32)))) (a : AttnJob)  (hk : Kept z s) :
    Kept z (State.attendRow s p e outs a).1 := by
  have w0 : Frees z 0x1800c00000240000000040000002010000000000c9c71b1 := hw.sub rfl
  unfold State.attendRow
  extract_lets h
  split
  · extract_lets r bad
    exact kept_foldl _ hk fun t k ht => State.losePoisoned_keeps w0 _ _ _ _ ht
  · exact hk
theorem State.attendRow_gives (hw : Frees z 0x1800c00000240000000040000002010000000000c9c71b1) {t : State} {y0} {s : State} {p : ℕ} {e : Entry} {outs : List (List (List (BitVec 32)))} {a : AttnJob} (he : State.attendRow s p e outs a = (t, y0)) (hk : Kept z s) : Kept z t :=
  by have k := State.attendRow_keeps hw s p e outs a hk; rw [he] at k; exact k

theorem State.runWork_keeps (hw : Frees z 0x1800c00000240000000040000002010000000000c9c71b1) (p : ℕ) (e : Entry) (a : State × List (List TileRow)) (x : TileWork × ℕ)  (hk : Kept z a.1) :
    Kept z (State.runWork p e a x).1 := by
  have w0 : Frees z 0x1800c00000240000000000000002010000000000c9c11b1 := hw.sub rfl
  have w1 : Frees z 0x1800c00000240000000040000002010000000000c9c71b1 := hw.sub rfl
  unfold State.runWork
  extract_lets outs
  split
  · extract_lets r
    exact State.runProduct_keeps w0 _ _ _ _ _ _ hk
  · extract_lets r
    have h : Kept z r.1 := kept_foldl_pair _ hk fun t y ht => State.attendRow_keeps w1 _ _ _ _ _ ht
    exact h
theorem State.runWork_gives (hw : Frees z 0x1800c00000240000000040000002010000000000c9c71b1) {t : State} {y0} {p : ℕ} {e : Entry} {a : State × List (List TileRow)} {x : TileWork × ℕ} (he : State.runWork p e a x = (t, y0)) (hk : Kept z a.1) : Kept z t :=
  by have k := State.runWork_keeps hw p e a x hk; rw [he] at k; exact k

theorem State.runWorks_keeps (hw : Frees z 0x1800c00000240000000040000002010000000000c9c71b1) (s : State) (p : ℕ) (e : Entry) (works : List TileWork)  (hk : Kept z s) :
    Kept z (State.runWorks s p e works).1 := by
  have w0 : Frees z 0x1800c00000240000000040000002010000000000c9c71b1 := hw.sub rfl
  have w1 : Frees z 0x80000 := hw.sub rfl
  unfold State.runWorks
  split
  · exact hk
  · extract_lets r
    have h : Kept z r.1 := kept_foldl_pair _ hk fun t x ht => State.runWork_keeps w0 _ _ _ _ ht
    clear_value r
    exact upd_prm w1 h
theorem State.runWorks_gives (hw : Frees z 0x1800c00000240000000040000002010000000000c9c71b1) {t : State} {y0} {s : State} {p : ℕ} {e : Entry} {works : List TileWork} (he : State.runWorks s p e works = (t, y0)) (hk : Kept z s) : Kept z t :=
  by have k := State.runWorks_keeps hw s p e works hk; rw [he] at k; exact k

theorem State.endPassLayer_keeps (hw : Frees z 0x100) (s : State) (p : ℕ)  (hk : Kept z s) :
    Kept z (State.endPassLayer s p) := by
  have w0 : Frees z 0x100 := hw.sub rfl
  simp (maxDischargeDepth := 30) only [State.endPassLayer, State.modPart_keeps w0, and_self, hk]

theorem State.kernelWork_keeps (hw : Frees z 0x1800c0800024000000004000eb82010000002980d9c71b1) (s : State) (p : ℕ) (e : Entry) (w : KernelWork)  (hk : Kept z s) :
    Kept z (State.kernelWork s p e w) := by
  have w0 : Frees z 0x1800c00000240000000040000002010000000000c9c71b1 := hw.sub rfl
  have w1 : Frees z 0x1800c0800024000000004000eb82010000002980d9c71b1 := hw.sub rfl
  have w2 : Frees z 0x80 := hw.sub rfl
  have w3 : Frees z 0x180 := hw.sub rfl
  have w4 : Frees z 0x100 := hw.sub rfl
  unfold State.kernelWork
  extract_lets r s1 vec s2 s3 s4
  have h1 : Kept z s1 := State.runWorks_keeps w0 _ _ _ _ hk
  clear_value s1 vec
  have h2 : Kept z s2 := kept_foldl _ h1 fun t x ht => State.append_keeps w1 _ _ ht
  clear_value s2
  have h3 : Kept z s3 := kept_foldl _ h2 fun t x ht => State.takeLogits_keeps w2 _ _ ht
  clear_value s3
  have h4 : Kept z s4 := kept_if (fun _ => State.poisonWork_keeps w3 _ _ _ h3) fun _ => h3
  clear_value s4
  exact kept_if (fun _ => State.endPassLayer_keeps w4 _ _ h4) fun _ => h4

theorem execKernelComplete_keeps (hw : Frees z 0x1800c0800024000000004000eb82210000002980d9c71b1) (p : Fin 16) (entry : ℕ) (work : KernelWork) (s : State)  (hk : Kept z s) :
    KeptOut z (execKernelComplete p entry work s) := by
  have w0 : Frees z 0x0 := hw.sub rfl
  have w1 : Frees z 0x1800c0800024000000004000eb82010000002980d9c71b1 := hw.sub rfl
  have w2 : Frees z 0xe9800000000020800001000 := hw.sub rfl
  have w3 : Frees z 0x40180 := hw.sub rfl
  have w4 : Frees z (Field.bit schLate_entries) := hw.sub rfl
  have w5 : Frees z 0x80000000000000000000000000000000000000000 := hw.sub rfl
  have w6 : Frees z 0x100 := hw.sub rfl
  have w7 : Frees z 0x80000000000000000000000000000000001000000 := hw.sub rfl
  have w8 : Frees z 0x80000 := hw.sub rfl
  unfold execKernelComplete
  repeat' first
    | with_reducible assumption
    | extract_lets
    | intro _
    | split
    | with_reducible apply State.whenLive_keeps w0
    | with_reducible apply State.kernelWork_keeps w1
    | with_reducible apply State.releaseRead_keeps w2
    | with_reducible apply State.endLayer_keeps w3
    | with_reducible apply State.bump_keeps (hw := w4)
    | with_reducible apply State.notePoints_keeps w5
    | with_reducible apply State.setRun_keeps w6
    | with_reducible apply State.workedAll_keeps w7
    | with_reducible apply State.endReruns_keeps w8
    | with_reducible apply kept_if
    | with_reducible apply kept_foldl
    | with_reducible apply keptOut_of

end Sys2Proof.Machine
end

