-- ==== Sys2Proof/Laws/KeepsFailure.lean ====
section
/-! SUPPORT. Every operation of Machine/Failure.lean keeps the queue, the canonical forms and every piece that it does not touch. -/

set_option Elab.async false
set_option linter.unusedSimpArgs false
set_option linter.unusedTactic false
set_option linter.unreachableTactic false

namespace Sys2Proof.Machine

variable {z : Ref}

theorem State.noteFailure_keeps (hw : Frees z 0x1800c00000240000000100000002010000000000c9c11b1) (s : State) (c : ℕ) (cause : ℕ) (node : ℕ)  (hk : Kept z s) :
    Kept z (State.noteFailure s c cause node) := by
  have w0 : Frees z (Field.bit asfFault_node) := hw.sub rfl
  have w1 : Frees z (Field.bit asfFault_conn) := hw.sub rfl
  have w2 : Frees z (Field.bit asfFault_cause) := hw.sub rfl
  have w3 : Frees z (Field.bit asfFault_count) := hw.sub rfl
  have w4 : Frees z 0x1800c00000240000000000000002010000000000c9c11b1 := hw.sub rfl
  unfold State.noteFailure
  repeat' first
    | with_reducible assumption
    | extract_lets
    | intro _
    | split
    | with_reducible apply State.setFld_keeps (hw := w0)
    | with_reducible apply State.setFld_keeps (hw := w1)
    | with_reducible apply State.setFld_keeps (hw := w2)
    | with_reducible apply State.bump_keeps (hw := w3)
    | with_reducible apply State.raise_keeps w4
    | with_reducible apply kept_if
    | with_reducible apply kept_foldl

theorem State.lodgeFails_keeps (hw : Frees z 0x4000eb800000000020d00105030) (s : State) (key : ℕ)  (hk : Kept z s) :
    Kept z (State.lodgeFails s key) := by
  have w0 : Frees z 0xeb800000000020800005000 := hw.sub rfl
  have w1 : Frees z 0x4000eb800000000020d00105030 := hw.sub rfl
  unfold State.lodgeFails
  repeat' first
    | with_reducible assumption
    | extract_lets
    | intro _
    | split
    | with_reducible apply State.abandonMove_keeps w0
    | with_reducible apply State.failFetch_keeps w1
    | with_reducible apply kept_if
    | with_reducible apply kept_foldl

theorem State.mirrorFails_keeps (hw : Frees z 0x4000eb8000000000208009071b0) (s : State) (key : ℕ)  (hk : Kept z s) :
    Kept z (State.mirrorFails s key) := by
  have w0 : Frees z 0xe9800000000020800001000 := hw.sub rfl
  have w1 : Frees z 0xeb800000000020800005000 := hw.sub rfl
  have w2 : Frees z 0x4000000000000000000009071b0 := hw.sub rfl
  unfold State.mirrorFails
  repeat' first
    | with_reducible assumption
    | extract_lets
    | intro _
    | split
    | with_reducible apply State.endStreams_keeps w0
    | with_reducible apply State.abandonMove_keeps w1
    | with_reducible apply State.toRebuild_keeps w2
    | with_reducible apply kept_if
    | with_reducible apply kept_foldl

theorem State.moveFails_keeps (hw : Frees z 0x4000000000000000005009011b0) (s : State) (h : ℕ) (cause : ℕ)  (hk : Kept z s) :
    Kept z (State.moveFails s h cause) := by
  have w0 : Frees z 0x800090 := hw.sub rfl
  have w1 : Frees z 0x4000000000000000005001011b0 := hw.sub rfl
  unfold State.moveFails
  repeat' first
    | with_reducible assumption
    | extract_lets
    | intro _
    | split
    | with_reducible apply State.recastRefused_keeps w0
    | with_reducible apply State.moveBack_keeps w1
    | with_reducible apply kept_if
    | with_reducible apply kept_foldl

theorem State.fence_keeps (hw : Frees z 0x1800c00000244000000000000002010000000000c9c11b1) (s : State)  (hk : Kept z s) :
    Kept z (State.fence s) := by
  have w0 : Frees z 0x1800c00000240000000000000002010000000000c9c11b1 := hw.sub rfl
  have w1 : Frees z (Field.bit resStat_fenced) := hw.sub rfl
  unfold State.fence
  repeat' first
    | with_reducible assumption
    | extract_lets
    | intro _
    | split
    | with_reducible apply State.raise_keeps w0
    | with_reducible apply State.setFlag_keeps (hw := w1)
    | with_reducible apply kept_if
    | with_reducible apply kept_foldl

theorem State.tellIssuer_keeps (hw : Frees z 0x1800c084002440000022c840eb9b0730000420d9d9df7f1) (s : State) (cause : ℕ) (p : Purpose)  (hk : Kept z s) :
    Kept z (State.tellIssuer s cause p) := by
  have w0 : Frees z 0x10 := hw.sub rfl
  have w1 : Frees z 0x90000020 := hw.sub rfl
  have w2 : Frees z 0x4000eb800000000020d00105030 := hw.sub rfl
  have w3 : Frees z 0x1800c080002400000022c800eb830730000420d9d9df1f1 := hw.sub rfl
  have w4 : Frees z 0x1800c0800024000000004000eb82010000002080d9c71b1 := hw.sub rfl
  have w5 : Frees z 0x4000eb8000000000208009071b0 := hw.sub rfl
  have w6 : Frees z 0x400000000000000000500100030 := hw.sub rfl
  have w7 : Frees z 0x1800c00000244000000000000002010000000000c9c11b1 := hw.sub rfl
  have w8 : Frees z 0x4000000000000000005009011b0 := hw.sub rfl
  have w9 : Frees z 0x4000e9800000000020d00141430 := hw.sub rfl
  have w10 : Frees z 0x840000000000004040eb980000000020d019073f0 := hw.sub rfl
  unfold State.tellIssuer
  repeat' first
    | with_reducible assumption
    | extract_lets
    | intro _
    | split
    | with_reducible apply State.emit_keeps w0
    | with_reducible apply State.packetsFail_keeps w1
    | with_reducible apply State.lodgeFails_keeps w2
    | with_reducible apply State.wakeAll_keeps w3
    | with_reducible apply State.failDelivery_keeps w4
    | with_reducible apply State.mirrorFails_keeps w5
    | with_reducible apply State.freeAcked_keeps w6
    | with_reducible apply State.fence_keeps w7
    | with_reducible apply State.moveFails_keeps w8
    | with_reducible apply State.sourceFails_keeps w9
    | with_reducible apply State.flipArrived_keeps w10
    | with_reducible apply kept_if
    | with_reducible apply kept_foldl

theorem State.tellFailure_keeps (hw : Frees z 0x1800c084002440000023c840eb9b0730000420d9d9df7f1) (s : State) (x : ℕ × ℕ × ℕ × Purpose)  (hk : Kept z s) :
    Kept z (State.tellFailure s x) := by
  have w0 : Frees z 0x1800c084002440000022c840eb9b0730000420d9d9df7f1 := hw.sub rfl
  have w1 : Frees z 0x1800c00000240000000100000002010000000000c9c11b1 := hw.sub rfl
  unfold State.tellFailure
  repeat' first
    | with_reducible assumption
    | extract_lets
    | intro _
    | split
    | with_reducible apply State.tellIssuer_keeps w0
    | with_reducible apply State.noteFailure_keeps w1
    | with_reducible apply kept_if
    | with_reducible apply kept_foldl

theorem State.tellFailures_keeps (hw : Frees z 0x1800c084002440000023c840eb9b0730000420d9d9df7f1) (s : State)  (hk : Kept z s) :
    Kept z (State.tellFailures s) := by
  have w0 : Frees z 0x1800c084002440000023c840eb9b0730000420d9d9df7f1 := hw.sub rfl
  have w1 : Frees z 0x100000 := hw.sub rfl
  unfold State.tellFailures
  repeat' first
    | with_reducible assumption
    | extract_lets
    | intro _
    | split
    | with_reducible apply State.tellFailure_keeps w0
    | with_reducible apply kept_if
    | with_reducible apply kept_foldl
    | with_reducible refine upd_asf w1 ?_

end Sys2Proof.Machine
end

