-- ==== Sys2Proof/Laws/KeepsTiles.lean ====
section
/-! SUPPORT. Every operation of Machine/Tiles.lean keeps the queue, the canonical forms and every piece that it does not touch. -/

set_option Elab.async false
set_option linter.unusedSimpArgs false
set_option linter.unusedTactic false
set_option linter.unreachableTactic false

namespace Sys2Proof.Machine

variable {z : Ref}

theorem State.poisonTiles_keeps (hw : Frees z 0x180) (s : State) (p : ℕ) (model : ℕ) (layer : ℕ)  (hk : Kept z s) :
    Kept z (State.poisonTiles s p model layer) := by
  have w0 : Frees z 0x180 := hw.sub rfl
  unfold State.poisonTiles
  repeat' first
    | with_reducible assumption
    | extract_lets
    | intro _
    | split
    | with_reducible apply State.poisonWork_keeps w0
    | with_reducible apply kept_if
    | with_reducible apply kept_foldl

theorem State.separatorError_keeps (hw : Frees z 0x1800c00000240000000000000002013400000000c9c1db1) (s : State) (p : ℕ) (tile : ℕ) (b : BlockRead) (x : Stored) (code : ℕ)  (hk : Kept z s) :
    Kept z (State.separatorError s p tile b x code) := by
  have w0 : Frees z 0x1800c00000240000000000000002010000000000c9c11b1 := hw.sub rfl
  have w1 : Frees z 0x400 := hw.sub rfl
  have w2 : Frees z 0x180 := hw.sub rfl
  have w3 : Frees z 0x4000000000000c00 := hw.sub rfl
  have w4 : Frees z 0x1800c00000240000000000000002013000000000c9c11b1 := hw.sub rfl
  unfold State.separatorError
  repeat' first
    | with_reducible assumption
    | extract_lets
    | intro _
    | split
    | with_reducible apply State.raise_keeps w0
    | with_reducible apply State.rereadBlock_keeps w1
    | with_reducible apply State.poisonTiles_keeps w2
    | with_reducible apply State.rereadLayer_keeps w3
    | with_reducible apply State.blockError_keeps w4
    | with_reducible apply kept_if
    | with_reducible apply kept_foldl

theorem execPanelFillComplete_keeps (hw : Frees z 0x1800c00000240000000000000002013400000000c9c1db1) (p : Fin 16) (tile : BitVec 8) (half : Bool) (panel : List BlockRead) (s : State)  (hk : Kept z s) :
    KeptOut z (execPanelFillComplete p tile half panel s) := by
  have w0 : Frees z 0x0 := hw.sub rfl
  have w1 : Frees z 0x1800c00000240000000000000002010000000000c9c11b1 := hw.sub rfl
  have w2 : Frees z 0x1800c00000240000000000000002013400000000c9c1db1 := hw.sub rfl
  have w3 : Frees z 0x80000 := hw.sub rfl
  unfold execPanelFillComplete
  repeat' first
    | with_reducible refine keptOpt_map ?_
    | with_reducible assumption
    | extract_lets
    | intro _
    | split
    | with_reducible apply State.whenLive_keeps w0
    | with_reducible apply State.raise_keeps w1
    | with_reducible apply State.separatorError_keeps w2
    | with_reducible apply kept_if
    | with_reducible apply kept_foldl
    | with_reducible refine upd_prm w3 ?_
    | with_reducible apply keptOut_of

theorem State.oweTile_keeps (hw : Frees z 0x80000) (s : State) (t : ℕ)  (hk : Kept z s) :
    Kept z (State.oweTile s t) := by
  have w0 : Frees z 0x80000 := hw.sub rfl
  simp (maxDischargeDepth := 30) only [State.oweTile, upd_prm w0, and_self, hk]

theorem State.sramPoison_keeps (hw : Frees z 0x1800c00000240000000000000002010000000000c9c11b1) (s : State) (p : ℕ) (t : ℕ)  (hk : Kept z s) :
    Kept z (State.sramPoison s p t) := by
  have w0 : Frees z 0x180 := hw.sub rfl
  have w1 : Frees z 0x80000 := hw.sub rfl
  have w2 : Frees z 0x1800c00000240000000000000002010000000000c9c11b1 := hw.sub rfl
  unfold State.sramPoison
  repeat' first
    | with_reducible assumption
    | extract_lets
    | intro _
    | split
    | with_reducible apply State.poisonWork_keeps w0
    | with_reducible apply State.oweTile_keeps w1
    | with_reducible apply State.raise_keeps w2
    | with_reducible apply kept_if
    | with_reducible apply kept_foldl
    | dsimp +zetaDelta only

theorem State.sramError_keeps (hw : Frees z 0x1800c00000240000000000000002010000000000c9c11b1) (s : State) (p : ℕ) (t : ℕ)  (hk : Kept z s) :
    Kept z (State.sramError s p t) := by
  have w0 : Frees z 0x1800c00000240000000000000002010000000000c9c11b1 := hw.sub rfl
  have w1 : Frees z 0x80000 := hw.sub rfl
  unfold State.sramError
  repeat' first
    | with_reducible assumption
    | extract_lets
    | intro _
    | split
    | with_reducible apply State.sramPoison_keeps w0
    | with_reducible apply kept_if
    | with_reducible apply kept_foldl
    | with_reducible refine upd_prm w1 ?_

theorem execTileSramError_keeps (hw : Frees z 0x1804c000002400000000000000020103e4800000c9c11b1) (p : Fin 16) (tile : BitVec 8) (correctable : Bool) (accumulator : Bool) (temp : BitVec 8) (s : State)  (hk : Kept z s) :
    KeptOut z (execTileSramError p tile correctable accumulator temp s) := by
  have w0 : Frees z 0x0 := hw.sub rfl
  have w1 : Frees z 0x1800c00000240000000000000002010000000000c9c11b1 := hw.sub rfl
  have w2 : Frees z (Field.bit prmStatus_sramCorrected) := hw.sub rfl
  have w3 : Frees z 0x1804c000002400000000000000020103e4800000c9c11b1 := hw.sub rfl
  have w4 : Frees z 0x80000 := hw.sub rfl
  unfold execTileSramError
  repeat' first
    | with_reducible assumption
    | extract_lets
    | intro _
    | split
    | with_reducible apply State.whenLive_keeps w0
    | with_reducible apply State.raise_keeps w1
    | with_reducible apply State.bump_keeps (hw := w2)
    | with_reducible apply State.sramError_keeps w1
    | with_reducible apply State.quarantineTile_keeps w3
    | with_reducible apply kept_if
    | with_reducible apply kept_foldl
    | with_reducible refine upd_prm w4 ?_
    | dsimp +zetaDelta only
    | with_reducible apply keptOut_of

theorem execReplaySample_keeps (hw : Frees z 0x20000000080000) (p : Fin 16) (sample : KernelSample) (s : State)  (hk : Kept z s) :
    KeptOut z (execReplaySample p sample s) := by
  have w0 : Frees z 0x0 := hw.sub rfl
  have w1 : Frees z (Field.bit prmReplayStat_noTile) := hw.sub rfl
  have w2 : Frees z 0x80000 := hw.sub rfl
  unfold execReplaySample
  repeat' first
    | with_reducible assumption
    | extract_lets
    | intro _
    | split
    | with_reducible apply State.whenLive_keeps w0
    | with_reducible apply State.bump_keeps (hw := w1)
    | with_reducible apply kept_if
    | with_reducible apply kept_foldl
    | with_reducible refine upd_prm w2 ?_
    | with_reducible apply keptOut_of

theorem State.quarantineAny_keeps (hw : Frees z 0x1804c000002400000000000000020103e4880000c9c11b1) (s : State) (r : TestUnit) (cause : ℕ) (temp : ℕ) (pattern : ℕ) (part : Option ℕ) (kernel : ℕ)  (hk : Kept z s) :
    Kept z (State.quarantineAny s r cause temp pattern part kernel) := by
  have w0 : Frees z 0x1804c000002400000000000000020103e4800000c9c11b1 := hw.sub rfl
  have w1 : Frees z 0x1804c00000240000000000000002010300880000c9c11b1 := hw.sub rfl
  unfold State.quarantineAny
  repeat' first
    | with_reducible assumption
    | extract_lets
    | intro _
    | split
    | with_reducible apply State.quarantineTile_keeps w0
    | with_reducible apply State.quarantineUnit_keeps w1
    | with_reducible apply kept_if
    | with_reducible apply kept_foldl

theorem State.oweTest_keeps (hw : Frees z 0xc0000) (s : State) (r : TestUnit)  (hk : Kept z s) :
    Kept z (State.oweTest s r) := by
  have w0 : Frees z 0x80000 := hw.sub rfl
  have w1 : Frees z 0x40000 := hw.sub rfl
  unfold State.oweTest
  repeat' first
    | with_reducible assumption
    | extract_lets
    | intro _
    | split
    | with_reducible apply State.oweTile_keeps w0
    | with_reducible apply kept_if
    | with_reducible apply kept_foldl
    | with_reducible refine upd_gen w1 ?_

theorem State.recompute_keeps (hw : Frees z 0x80000) (s : State) (x : Sample) (r : TestUnit)  (hk : Kept z s) :
    Kept z (State.recompute s x r) := by
  have w0 : Frees z 0x80000 := hw.sub rfl
  unfold State.recompute
  repeat' first
    | with_reducible refine keptOpt_map ?_
    | with_reducible assumption
    | extract_lets
    | intro _
    | split
    | with_reducible apply kept_if
    | with_reducible apply kept_foldl
    | with_reducible refine upd_prm w0 ?_

theorem State.resolve_keeps (hw : Frees z 0x1804c000002400000000000000020103e6880000c9c11b1) (s : State) (x : Sample) (replay : List (BitVec 32)) (third : List (BitVec 32)) (temp : ℕ) (by_ : TestUnit) (by3 : Option TestUnit)  (hk : Kept z s) :
    Kept z (State.resolve s x replay third temp by_ by3) := by
  have w0 : Frees z 0xc0000 := hw.sub rfl
  have w1 : Frees z (Field.bit prmReplayStat_unresolved) := hw.sub rfl
  have w2 : Frees z 0x80000 := hw.sub rfl
  have w3 : Frees z 0x1804c000002400000000000000020103e4880000c9c11b1 := hw.sub rfl
  unfold State.resolve
  (repeat' split) <;> simp (maxDischargeDepth := 30) only [State.oweTest_keeps w0, (State.bump_keeps (hw := w1)), State.recompute_keeps w2, State.quarantineAny_keeps w3, and_self, *]

theorem State.endSample_keeps (hw : Frees z 0x80000) (s : State)  (hk : Kept z s) :
    Kept z (State.endSample s) := by
  have w0 : Frees z 0x80000 := hw.sub rfl
  simp (maxDischargeDepth := 30) only [State.endSample, upd_prm w0, and_self, hk]

theorem State.replay_keeps (hw : Frees z 0x1804c000002400000000000000020103e6880000c9c11b1) (s : State) (x : Sample) (replay : Faults) (third : Faults) (temp : ℕ)  (hk : Kept z s) :
    Kept z (State.replay s x replay third temp) := by
  have w0 : Frees z (Field.bit prmReplayStat_noTile) := hw.sub rfl
  have w1 : Frees z (Field.bit prmReplayStat_samples) := hw.sub rfl
  have w2 : Frees z (Field.bit prmReplayStat_mismatches) := hw.sub rfl
  have w3 : Frees z 0x80000 := hw.sub rfl
  have w4 : Frees z 0x1804c000002400000000000000020103e6880000c9c11b1 := hw.sub rfl
  have w5 : Frees z 0x1800c00000240000000000000002010000000000c9c11b1 := hw.sub rfl
  unfold State.replay
  (repeat' split) <;> simp (maxDischargeDepth := 30) only [(State.bump_keeps (hw := w0)), (State.bump_keeps (hw := w1)), (State.bump_keeps (hw := w2)), State.endSample_keeps w3, State.recompute_keeps w3, State.resolve_keeps w4, State.raise_keeps w5, and_self, *]

theorem execReplayCompare_keeps (hw : Frees z 0x1804c000002400000000000000020103e6880000c9c11b1) (replay : Faults) (third : Faults) (temp : BitVec 8) (s : State)  (hk : Kept z s) :
    KeptOut z (execReplayCompare replay third temp s) := by
  have w0 : Frees z 0x0 := hw.sub rfl
  have w1 : Frees z 0x80000 := hw.sub rfl
  have w2 : Frees z 0x1804c000002400000000000000020103e6880000c9c11b1 := hw.sub rfl
  unfold execReplayCompare
  repeat' first
    | with_reducible assumption
    | extract_lets
    | intro _
    | split
    | with_reducible apply State.whenLive_keeps w0
    | with_reducible apply State.endSample_keeps w1
    | with_reducible apply State.replay_keeps w2
    | with_reducible apply kept_if
    | with_reducible apply kept_foldl
    | with_reducible apply keptOut_of

theorem State.noteTested_keeps (hw : Frees z 0x80000) (s : State) (t : ℕ) (x : ℕ × Tick)  (hk : Kept z s) :
    Kept z (State.noteTested s t x) := by
  have w0 : Frees z 0x80000 := hw.sub rfl
  unfold State.noteTested
  repeat' first
    | with_reducible assumption
    | extract_lets
    | intro _
    | split
    | with_reducible apply kept_if
    | with_reducible apply kept_foldl
    | with_reducible refine upd_prm w0 ?_

theorem State.testTile_keeps (hw : Frees z 0x1804c000002400000000000000020103fc800000c9c11b1) (s : State) (t : ℕ) (pattern : ℕ) (ok : Bool) (temp : ℕ)  (hk : Kept z s) :
    Kept z (State.testTile s t pattern ok temp) := by
  have w0 : Frees z 0x80000 := hw.sub rfl
  have w1 : Frees z 0x180000000000000 := hw.sub rfl
  have w2 : Frees z (Field.bit prmSelftest_passes) := hw.sub rfl
  have w3 : Frees z (Field.bit prmSelftest_fails) := hw.sub rfl
  have w4 : Frees z 0x1804c000002400000000000000020103e4800000c9c11b1 := hw.sub rfl
  have w5 : Frees z (Field.bit prmSelftest_nextTile) := hw.sub rfl
  unfold State.testTile
  repeat' first
    | with_reducible assumption
    | extract_lets
    | intro _
    | split
    | with_reducible apply State.clearAcc_keeps w0
    | with_reducible apply State.keepTemp_keeps w1
    | with_reducible apply State.bump_keeps (hw := w2)
    | with_reducible apply State.bump_keeps (hw := w3)
    | with_reducible apply State.quarantineTile_keeps w4
    | with_reducible apply State.setFld_keeps (hw := w5)
    | with_reducible apply kept_if
    | with_reducible apply kept_foldl
    | with_reducible refine upd_prm w0 ?_

theorem State.testUnit_keeps (hw : Frees z 0x1804c00000240000000000000002010318880000c9c11b1) (s : State) (c : ℕ) (u : ℕ) (pattern : ℕ) (ok : Bool) (temp : ℕ)  (hk : Kept z s) :
    Kept z (State.testUnit s c u pattern ok temp) := by
  have w0 : Frees z 0x180000000000000 := hw.sub rfl
  have w1 : Frees z 0x1804c00000240000000000000002010300880000c9c11b1 := hw.sub rfl
  have w2 : Frees z 0x40000 := hw.sub rfl
  unfold State.testUnit
  repeat' first
    | with_reducible assumption
    | extract_lets
    | intro _
    | split
    | with_reducible apply State.keepTemp_keeps w0
    | with_reducible apply State.quarantineUnit_keeps w1
    | with_reducible apply kept_if
    | with_reducible apply kept_foldl
    | with_reducible refine upd_gen w2 ?_

theorem execSelfTest_keeps (hw : Frees z 0x1804c000002400000000000000020103fc880000c9c11b1) (unit : TestUnit) (pattern : Fin 10) (signatureOk : Bool) (temp : BitVec 8) (s : State)  (hk : Kept z s) :
    KeptOut z (execSelfTest unit pattern signatureOk temp s) := by
  have w0 : Frees z 0x0 := hw.sub rfl
  have w1 : Frees z 0x1804c000002400000000000000020103fc800000c9c11b1 := hw.sub rfl
  have w2 : Frees z 0x80000 := hw.sub rfl
  have w3 : Frees z 0x1804c00000240000000000000002010318880000c9c11b1 := hw.sub rfl
  unfold execSelfTest
  repeat' first
    | with_reducible assumption
    | extract_lets
    | intro _
    | split
    | with_reducible apply State.whenLive_keeps w0
    | with_reducible apply State.testTile_keeps w1
    | with_reducible apply State.noteTested_keeps w2
    | with_reducible apply State.testUnit_keeps w3
    | with_reducible apply kept_if
    | with_reducible apply kept_foldl
    | with_reducible apply keptOut_of

end Sys2Proof.Machine
end

