-- ==== Sys2Proof/Laws/KeepsNearBank.lean ====
section
/-! SUPPORT. Every operation of Machine/NearBank.lean keeps the queue, the canonical forms and every piece that it does not touch. -/

set_option Elab.async false
set_option linter.unusedSimpArgs false
set_option linter.unusedTactic false
set_option linter.unreachableTactic false

namespace Sys2Proof.Machine

variable {z : Ref}

theorem State.startSwitch_keeps (hw : Frees z 0x200000040000) (s : State) (c : ℕ) (mode : ℕ) (owes : Bool)  (hk : Kept z s) :
    Kept z (State.startSwitch s c mode owes) := by
  have w0 : Frees z 0x40000 := hw.sub rfl
  have w1 : Frees z (Field.bit genChmode_mode) := hw.sub rfl
  simp (maxDischargeDepth := 30) only [State.startSwitch, State.modChan_keeps w0, (State.setFld_keeps (hw := w1)), and_self, hk]

theorem State.correctReads_keeps (hw : Frees z 0x1800c00000240000000000000002010000000000c9cb1b1) (s : State) (places : List ℕ) (ups : List Upset)  (hk : Kept z s) :
    Kept z (State.correctReads s places ups) := by
  have w0 : Frees z 0x1800c00000240000000000000002010000000000c9c11b1 := hw.sub rfl
  have w1 : Frees z 0xb000 := hw.sub rfl
  unfold State.correctReads
  repeat' first
    | with_reducible assumption
    | extract_lets
    | intro _
    | split
    | with_reducible apply State.raise_keeps w0
    | with_reducible apply State.standsAs_keeps w1
    | with_reducible apply kept_if
    | with_reducible apply kept_foldl

theorem State.serveLogic_keeps (hw : Frees z 0x1800c00000240000000000000002010000000000c9db1b1) (s : State) (c : ℕ) (a : LogicAccess)  (hk : Kept z s) :
    Kept z (State.serveLogic s c a) := by
  have w0 : Frees z 0x1b000 := hw.sub rfl
  have w1 : Frees z 0x1800c00000240000000000000002010000000000c9c11b1 := hw.sub rfl
  have w2 : Frees z 0x10 := hw.sub rfl
  unfold State.serveLogic
  repeat' first
    | with_reducible assumption
    | extract_lets
    | intro _
    | split
    | with_reducible apply State.writePlaces_keeps w0
    | with_reducible apply State.raise_keeps w1
    | with_reducible apply State.emit_keeps w2
    | with_reducible apply kept_if
    | with_reducible apply kept_foldl
    | dsimp +zetaDelta only

theorem State.serveHost_keeps (hw : Frees z 0x1800c00000240000000000000002010000000000c9db1b1) (s : State) (off : ℕ) (places : List ℕ) (op : MemOp) (ups : List Upset)  (hk : Kept z s) :
    Kept z (State.serveHost s off places op ups) := by
  have w0 : Frees z 0x1b000 := hw.sub rfl
  have w1 : Frees z 0x1800c00000240000000000000002010000000000c9cb1b1 := hw.sub rfl
  have w2 : Frees z 0x10 := hw.sub rfl
  have w3 : Frees z 0x1800c00000240000000000000002010000000000c9c11b1 := hw.sub rfl
  unfold State.serveHost
  split
  · exact State.writePlaces_keeps w0 _ _ _ hk
  · extract_lets bad s1 bytes
    have h1 : Kept z s1 := State.correctReads_keeps w1 _ _ _ hk
    clear_value s1 bad bytes
    split
    · exact State.emit_keeps w2 _ _ (State.raise_keeps w3 _ _ h1)
    · exact State.emit_keeps w2 _ _ h1

theorem State.serve_keeps (hw : Frees z 0x1800c080002400000022c800eb830730000620d9d9df1f1) (s : State) (c : ℕ) (a : HeldAccess × Tick)  (hk : Kept z s) :
    Kept z (State.serve s c a) := by
  have w0 : Frees z 0x400000040000 := hw.sub rfl
  have w1 : Frees z 0x800000000000000000000000000 := hw.sub rfl
  have w2 : Frees z 0x204000e9800000000020d00101030 := hw.sub rfl
  have w3 : Frees z 0x1800c080002400000002c800eb830730000420d9d9df1f1 := hw.sub rfl
  have w4 : Frees z (Reg.bit .genChmode) := hw.sub rfl
  have w5 : Frees z 0x80000000000000000000000000000400001040000 := hw.sub rfl
  have w6 : Frees z 0x1800c00000240000000000000002010000000000c9db1b1 := hw.sub rfl
  unfold State.serve
  repeat' first
    | with_reducible assumption
    | extract_lets
    | intro _
    | split
    | with_reducible apply State.addWait_keeps w0
    | with_reducible apply State.noteEpoch_keeps w1
    | with_reducible apply State.settleRegions_keeps w2
    | with_reducible apply State.channelServes_keeps w3
    | with_reducible apply State.writeFields_keeps (hw := w4)
    | with_reducible apply State.hold_keeps w5
    | with_reducible apply State.serveLogic_keeps w6
    | with_reducible apply State.serveHost_keeps w6
    | with_reducible apply kept_if
    | with_reducible apply kept_foldl

theorem State.scrubBack_keeps (hw : Frees z 0x1000000040000) (s : State) (c : ℕ)  (hk : Kept z s) :
    Kept z (State.scrubBack s c) := by
  have w0 : Frees z 0x40000 := hw.sub rfl
  have w1 : Frees z (Field.bit genChEcc_scrubbed) := hw.sub rfl
  simp (maxDischargeDepth := 30) only [State.scrubBack, State.modChan_keeps w0, (State.bump_keeps (hw := w1)), and_self, hk]

theorem State.openWindow_keeps (hw : Frees z 0x1800c080002400000022c800eb830730001620d9d9df1f1) (s : State) (c : ℕ)  (hk : Kept z s) :
    Kept z (State.openWindow s c) := by
  have w0 : Frees z 0x40000 := hw.sub rfl
  have w1 : Frees z (Field.bit genChmode_mode) := hw.sub rfl
  have w2 : Frees z 0x1000000040000 := hw.sub rfl
  have w3 : Frees z 0x1800c080002400000022c800eb830730000620d9d9df1f1 := hw.sub rfl
  unfold State.openWindow
  repeat' first
    | with_reducible assumption
    | extract_lets
    | intro _
    | split
    | with_reducible apply State.modChan_keeps w0
    | with_reducible apply State.setFld_keeps (hw := w1)
    | with_reducible apply State.scrubBack_keeps w2
    | with_reducible apply State.serve_keeps w3
    | with_reducible apply kept_if
    | with_reducible apply kept_foldl

theorem State.startOp_keeps (hw : Frees z 0x40000) (s : State) (c : ℕ) (delay : ℕ) (o : ℕ × BitVec 256)  (hk : Kept z s) :
    Kept z (State.startOp s c delay o) := by
  have w0 : Frees z 0x40000 := hw.sub rfl
  simp (maxDischargeDepth := 30) only [State.startOp, State.modChan_keeps w0, and_self, hk]

theorem State.nextOp_keeps (hw : Frees z 0x200000040000) (s : State) (c : ℕ)  (hk : Kept z s) :
    Kept z (State.nextOp s c) := by
  have w0 : Frees z 0x40000 := hw.sub rfl
  have w1 : Frees z 0x200000040000 := hw.sub rfl
  unfold State.nextOp
  repeat' first
    | with_reducible assumption
    | extract_lets
    | intro _
    | split
    | with_reducible apply State.modChan_keeps w0
    | with_reducible apply State.startSwitch_keeps w1
    | with_reducible apply State.startOp_keeps w0
    | with_reducible apply kept_if
    | with_reducible apply kept_foldl

theorem State.choose_keeps (hw : Frees z 0x200000040000) (s : State) (c : ℕ)  (hk : Kept z s) :
    Kept z (State.choose s c) := by
  have w0 : Frees z 0x200000040000 := hw.sub rfl
  unfold State.choose
  repeat' first
    | with_reducible assumption
    | extract_lets
    | intro _
    | split
    | with_reducible apply State.startSwitch_keeps w0
    | with_reducible apply State.nextOp_keeps w0
    | with_reducible apply kept_if
    | with_reducible apply kept_foldl

theorem State.sequence_keeps (hw : Frees z 0x80000000000000000000000000000200001040000) (s : State) (c : ℕ)  (hk : Kept z s) :
    Kept z (State.sequence s c) := by
  have w0 : Frees z 0x80000000000000000000000000000000001000000 := hw.sub rfl
  have w1 : Frees z 0x200000040000 := hw.sub rfl
  unfold State.sequence
  repeat' first
    | with_reducible assumption
    | extract_lets
    | intro _
    | split
    | with_reducible apply State.arrivesAt_keeps w0
    | with_reducible apply State.choose_keeps w1
    | with_reducible apply kept_if
    | with_reducible apply kept_foldl

theorem State.sequenceHeld_keeps (hw : Frees z 0x80000000000000000000000000000200001040000) (s : State)  (hk : Kept z s) :
    Kept z (State.sequenceHeld s) := by
  have w0 : Frees z 0x80000000000000000000000000000200001040000 := hw.sub rfl
  unfold State.sequenceHeld
  repeat' first
    | with_reducible assumption
    | extract_lets
    | intro _
    | split
    | with_reducible apply State.sequence_keeps w0
    | with_reducible apply kept_if
    | with_reducible apply kept_foldl

theorem State.channelWoke_keeps (hw : Frees z 0x1800c080002400000022c800eb830730001620d9d9df1f1) (s : State) (c : ℕ)  (hk : Kept z s) :
    Kept z (State.channelWoke s c) := by
  have w0 : Frees z 0x80000000000000000000000000000200001040000 := hw.sub rfl
  have w1 : Frees z 0x1800c080002400000022c800eb830730001620d9d9df1f1 := hw.sub rfl
  unfold State.channelWoke
  repeat' first
    | with_reducible assumption
    | extract_lets
    | intro _
    | split
    | with_reducible apply State.sequence_keeps w0
    | with_reducible apply State.openWindow_keeps w1
    | with_reducible apply kept_if
    | with_reducible apply kept_foldl

theorem State.refuseDesc_keeps (hw : Frees z 0x1800c00000240000000000000002010000000000c9c11b1) (s : State) (c : ℕ) (p : ℕ) (d : BitVec 256)  (hk : Kept z s) :
    Kept z (State.refuseDesc s c p d) := by
  have w0 : Frees z 0x1800c00000240000000000000002010000000000c9c11b1 := hw.sub rfl
  simp (maxDischargeDepth := 30) only [State.refuseDesc, State.raise_keeps w0, and_self, hk]

theorem execNearBankDescriptorIssue_keeps (hw : Frees z 0x1800c08000240000000000000002010000020000d9c11b1) (ch : Fin 64) (p : Fin 16) (d : NbIssue) (s : State)  (hk : Kept z s) :
    KeptOut z (execNearBankDescriptorIssue ch p d s) := by
  have w0 : Frees z 0x0 := hw.sub rfl
  have w1 : Frees z 0x1800c00000240000000000000002010000000000c9c11b1 := hw.sub rfl
  have w2 : Frees z 0x40000 := hw.sub rfl
  have w3 : Frees z 0x80000000000000000000000000000200001040000 := hw.sub rfl
  unfold execNearBankDescriptorIssue
  repeat' first
    | with_reducible assumption
    | extract_lets
    | intro _
    | split
    | with_reducible apply State.whenLive_keeps w0
    | with_reducible apply State.refuseDesc_keeps w1
    | with_reducible apply State.markIssuer_keeps w2
    | with_reducible apply State.sequence_keeps w3
    | with_reducible apply State.modChan_keeps w2
    | with_reducible apply kept_if
    | with_reducible apply kept_foldl
    | with_reducible apply keptOut_of

theorem State.runAttn_keeps (hw : Frees z 0x40000) (s : State) (c : ℕ) (d : BitVec 256) (poisoned : Bool)  (hk : Kept z s) :
    Kept z (State.runAttn s c d poisoned) := by
  have w0 : Frees z 0x40000 := hw.sub rfl
  unfold State.runAttn
  repeat' first
    | with_reducible assumption
    | extract_lets
    | intro _
    | split
    | with_reducible apply State.addPartial_keeps w0
    | with_reducible apply kept_if
    | with_reducible apply kept_foldl

theorem State.runMatvec_keeps (hw : Frees z 0x40000) (s : State) (c : ℕ) (p : ℕ) (kind : ℕ) (d : BitVec 256) (inp : NbInput) (poisoned : Bool)  (hk : Kept z s) :
    Kept z (State.runMatvec s c p kind d inp poisoned) := by
  have w0 : Frees z 0x40000 := hw.sub rfl
  unfold State.runMatvec
  repeat' first
    | with_reducible assumption
    | extract_lets
    | intro _
    | split
    | with_reducible apply State.addPartial_keeps w0
    | with_reducible apply kept_if
    | with_reducible apply kept_foldl

theorem State.runLoad_keeps (hw : Frees z 0x40000) (s : State) (c : ℕ) (p : ℕ) (d : BitVec 256) (inp : NbInput)  (hk : Kept z s) :
    Kept z (State.runLoad s c p d inp) := by
  have w0 : Frees z 0x40000 := hw.sub rfl
  unfold State.runLoad
  repeat' first
    | with_reducible assumption
    | extract_lets
    | intro _
    | split
    | with_reducible apply kept_if
    | with_reducible apply kept_foldl
    | with_reducible refine upd_gen w0 ?_

theorem State.storeByte_keeps (hw : Frees z 0xb000) (s : State) (d : ℕ) (v : BitVec 8)  (hk : Kept z s) :
    Kept z (State.storeByte s d v) := by
  have w0 : Frees z 0x3000 := hw.sub rfl
  have w1 : Frees z 0x8000 := hw.sub rfl
  unfold State.storeByte
  repeat' first
    | with_reducible assumption
    | with_reducible exact kept_dram (by with_reducible assumption)
    | with_reducible exact kept_bytes (by with_reducible assumption)
    | with_reducible exact kept_staging (by with_reducible assumption)
    | with_reducible exact keepCells_nil
    | with_reducible apply keepCells_write
    | extract_lets
    | intro _
    | split
    | with_reducible apply kept_if
    | with_reducible apply kept_foldl
    | with_reducible refine upd_tiers_bytes w0 ?_ ?_
    | with_reducible refine upd_dram w1 ?_ ?_

theorem State.runStore_keeps (hw : Frees z 0x1b000) (s : State) (c : ℕ) (d : BitVec 256)  (hk : Kept z s) :
    Kept z (State.runStore s c d) := by
  have w0 : Frees z 0xb000 := hw.sub rfl
  have w1 : Frees z 0x11000 := hw.sub rfl
  unfold State.runStore
  repeat' first
    | with_reducible assumption
    | extract_lets
    | intro _
    | split
    | with_reducible apply State.storeByte_keeps w0
    | with_reducible apply State.cleanSector_keeps w1
    | with_reducible apply kept_if
    | with_reducible apply kept_foldl

theorem State.runTest_keeps (hw : Frees z 0x1804c00000240000000000000002010318880000c9c11b1) (s : State) (c : ℕ) (d : BitVec 256) (inp : NbInput)  (hk : Kept z s) :
    Kept z (State.runTest s c d inp) := by
  have w0 : Frees z 0x180000000000000 := hw.sub rfl
  have w1 : Frees z 0x1804c00000240000000000000002010300880000c9c11b1 := hw.sub rfl
  have w2 : Frees z 0x40000 := hw.sub rfl
  unfold State.runTest
  repeat' first
    | with_reducible refine keptOpt_map ?_
    | with_reducible assumption
    | extract_lets
    | intro _
    | split
    | with_reducible apply State.keepTemp_keeps w0
    | with_reducible apply State.quarantineUnit_keeps w1
    | with_reducible apply kept_if
    | with_reducible apply kept_foldl
    | with_reducible refine upd_gen w2 ?_

theorem State.noteCorrected_keeps (hw : Frees z 0x1800c00000240000000000000002010000100000c9cb1b1) (s : State) (c : ℕ) (sec : ℕ) (d : List (BitVec 8))  (hk : Kept z s) :
    Kept z (State.noteCorrected s c sec d) := by
  have w0 : Frees z 0x1800c00000240000000000000002010000000000c9c11b1 := hw.sub rfl
  have w1 : Frees z 0x40000 := hw.sub rfl
  have w2 : Frees z (Field.bit genChEcc_corrected) := hw.sub rfl
  have w3 : Frees z 0xb000 := hw.sub rfl
  unfold State.noteCorrected
  repeat' first
    | with_reducible assumption
    | extract_lets
    | intro _
    | split
    | with_reducible apply State.raise_keeps w0
    | with_reducible apply State.modChan_keeps w1
    | with_reducible apply State.bump_keeps (hw := w2)
    | with_reducible apply State.standsAs_keeps w3
    | with_reducible apply kept_if
    | with_reducible apply kept_foldl

theorem State.decodeReads_keeps (hw : Frees z 0x1800c00000240000000000000002010000100000c9cb1b1) (s : State) (c : ℕ) (d : BitVec 256) (ups : List Upset)  (hk : Kept z s) :
    Kept z (State.decodeReads s c d ups).1 := by
  have w0 : Frees z 0xb000 := hw.sub rfl
  have w1 : Frees z 0x1800c00000240000000000000002010000100000c9cb1b1 := hw.sub rfl
  have w2 : Frees z (Field.bit genChEcc_uncorrected) := hw.sub rfl
  unfold State.decodeReads
  refine kept_foldl_pair _ hk fun t x ht => ?_
  split
  · exact State.standsAs_keeps w0 _ _ _ ht
  · exact State.noteCorrected_keeps w1 _ _ _ _ ht
  · exact ht
  · exact State.bump_keeps (hw := w2) _ _ _ ht
theorem State.decodeReads_gives (hw : Frees z 0x1800c00000240000000000000002010000100000c9cb1b1) {t : State} {y0} {s : State} {c : ℕ} {d : BitVec 256} {ups : List Upset} (he : State.decodeReads s c d ups = (t, y0)) (hk : Kept z s) : Kept z t :=
  by have k := State.decodeReads_keeps hw s c d ups hk; rw [he] at k; exact k

theorem State.draftOff_keeps (hw : Frees z 0x80) (s : State) (p : ℕ)  (hk : Kept z s) :
    Kept z (State.draftOff s p) := by
  have w0 : Frees z 0x80 := hw.sub rfl
  simp (maxDischargeDepth := 30) only [State.draftOff, upd_seqs w0, and_self, hk]

theorem State.dataLost_keeps (hw : Frees z 0x40000000000000000000091f1b0) (s : State) (p : ℕ) (a : ℕ)  (hk : Kept z s) :
    Kept z (State.dataLost s p a) := by
  have w0 : Frees z 0x4000000000000000000009071b0 := hw.sub rfl
  have w1 : Frees z 0x1000 := hw.sub rfl
  have w2 : Frees z 0x80 := hw.sub rfl
  have w3 : Frees z 0x1b000 := hw.sub rfl
  have w4 : Frees z 0x180 := hw.sub rfl
  unfold State.dataLost
  repeat' first
    | with_reducible refine keptOpt_map ?_
    | with_reducible assumption
    | extract_lets
    | intro _
    | split
    | with_reducible apply State.toRebuild_keeps w0
    | with_reducible apply State.loseKey_keeps w1
    | with_reducible apply State.modSeq_keeps w2
    | with_reducible apply State.draftOff_keeps w2
    | with_reducible apply State.rereadNear_keeps w3
    | with_reducible apply State.poisonBatch_keeps w4
    | with_reducible apply kept_if
    | with_reducible apply kept_foldl

theorem State.unreadable_keeps (hw : Frees z 0x1800c00000240000000040000002010000000000c9df1b1) (s : State) (p : ℕ) (d : BitVec 256) (a : ℕ)  (hk : Kept z s) :
    Kept z (State.unreadable s p d a) := by
  have w0 : Frees z 0x1800c00000240000000000000002010000000000c9c11b1 := hw.sub rfl
  have w1 : Frees z 0x11000 := hw.sub rfl
  have w2 : Frees z 0x40000000000000000000091f1b0 := hw.sub rfl
  unfold State.unreadable
  repeat' first
    | with_reducible assumption
    | extract_lets
    | intro _
    | split
    | with_reducible apply State.raise_keeps w0
    | with_reducible apply State.poisonSector_keeps w1
    | with_reducible apply State.dataLost_keeps w2
    | with_reducible apply kept_if
    | with_reducible apply kept_foldl

theorem State.bufferParity_keeps (hw : Frees z 0x1800c00000240000000000000002010000000000c9c11b1) (s : State) (c : ℕ) (p : ℕ) (d : BitVec 256)  (hk : Kept z s) :
    Kept z (State.bufferParity s c p d) := by
  have w0 : Frees z 0x1800c00000240000000000000002010000000000c9c11b1 := hw.sub rfl
  have w1 : Frees z 0x180 := hw.sub rfl
  have w2 : Frees z 0x40000 := hw.sub rfl
  unfold State.bufferParity
  repeat' first
    | with_reducible refine keptOpt_map ?_
    | with_reducible assumption
    | extract_lets
    | intro _
    | split
    | with_reducible apply State.raise_keeps w0
    | with_reducible apply State.poisonBatch_keeps w1
    | with_reducible apply kept_if
    | with_reducible apply kept_foldl
    | with_reducible refine upd_gen w2 ?_

theorem State.runOp_keeps (hw : Frees z 0x1804c00000240000000000000002010318880000c9db1b1) (s : State) (c : ℕ) (p : ℕ) (d : BitVec 256) (inp : NbInput) (bad : Bool)  (hk : Kept z s) :
    Kept z (State.runOp s c p d inp bad) := by
  have w0 : Frees z 0x40000 := hw.sub rfl
  have w1 : Frees z 0x1b000 := hw.sub rfl
  have w2 : Frees z 0x1804c00000240000000000000002010318880000c9c11b1 := hw.sub rfl
  unfold State.runOp
  repeat' first
    | with_reducible assumption
    | extract_lets
    | intro _
    | split
    | with_reducible apply State.runMatvec_keeps w0
    | with_reducible apply State.runAttn_keeps w0
    | with_reducible apply State.runStore_keeps w1
    | with_reducible apply State.runLoad_keeps w0
    | with_reducible apply State.runTest_keeps w2
    | with_reducible apply kept_if
    | with_reducible apply kept_foldl

theorem State.doOp_keeps (hw : Frees z 0x1804c00000240000000040000002010318980000c9df1b1) (s : State) (c : ℕ) (p : ℕ) (d : BitVec 256) (inp : NbInput)  (hk : Kept z s) :
    Kept z (State.doOp s c p d inp) := by
  have w0 : Frees z 0x1800c00000240000000000000002010000100000c9cb1b1 := hw.sub rfl
  have w1 : Frees z 0x1804c00000240000000000000002010318880000c9db1b1 := hw.sub rfl
  have w2 : Frees z 0x1800c00000240000000040000002010000000000c9df1b1 := hw.sub rfl
  have w3 : Frees z 0x1800c00000240000000000000002010000000000c9c11b1 := hw.sub rfl
  unfold State.doOp
  repeat' first
    | with_reducible assumption
    | extract_lets
    | intro _
    | split
    | with_reducible apply State.decodeReads_keeps w0
    | with_reducible refine State.decodeReads_gives w0 (by with_reducible assumption) ?_
    | with_reducible apply State.runOp_keeps w1
    | with_reducible apply State.unreadable_keeps w2
    | with_reducible apply State.bufferParity_keeps w3
    | with_reducible apply kept_if
    | with_reducible apply kept_foldl

theorem State.poisonResult_keeps (hw : Frees z 0x40180) (s : State) (c : ℕ) (p : ℕ) (d : BitVec 256) (tag : ℕ)  (hk : Kept z s) :
    Kept z (State.poisonResult s c p d tag) := by
  have w0 : Frees z 0x40000 := hw.sub rfl
  have w1 : Frees z 0x80 := hw.sub rfl
  have w2 : Frees z 0x180 := hw.sub rfl
  unfold State.poisonResult
  repeat' first
    | with_reducible assumption
    | extract_lets
    | intro _
    | split
    | with_reducible apply State.addPartial_keeps w0
    | with_reducible apply State.modSeq_keeps w1
    | with_reducible apply State.poisonBatch_keeps w2
    | with_reducible apply kept_if
    | with_reducible apply kept_foldl

theorem State.endOp_keeps (hw : Frees z 0x80000000000000000000000000000200001040000) (s : State) (c : ℕ) (start : Tick)  (hk : Kept z s) :
    Kept z (State.endOp s c start) := by
  have w0 : Frees z 0x80000000000000000000000000000200001040000 := hw.sub rfl
  have w1 : Frees z 0x40000 := hw.sub rfl
  have w2 : Frees z 0x80000000000000000000000000000000001000000 := hw.sub rfl
  simp (maxDischargeDepth := 30) only [State.endOp, State.sequence_keeps w0, State.modChan_keeps w1, State.worked_keeps w2, and_self, hk]

theorem execNearBankOpComplete_keeps (hw : Frees z 0x1804c080002400000000400000020103189a0000d9df1b1) (ch : Fin 64) (inp : NbInput) (s : State)  (hk : Kept z s) :
    KeptOut z (execNearBankOpComplete ch inp s) := by
  have w0 : Frees z 0x0 := hw.sub rfl
  have w1 : Frees z 0x80000000000000000000000000000200001040000 := hw.sub rfl
  have w2 : Frees z 0x1804c00000240000000040000002010318980000c9df1b1 := hw.sub rfl
  unfold execNearBankOpComplete
  repeat' first
    | with_reducible assumption
    | extract_lets
    | intro _
    | split
    | with_reducible apply State.whenLive_keeps w0
    | with_reducible apply State.endOp_keeps w1
    | with_reducible apply State.doOp_keeps w2
    | with_reducible apply kept_if
    | with_reducible apply kept_foldl
    | with_reducible apply keptOut_of

theorem execNearBankWatchdog_keeps (hw : Frees z 0x1804c080002400000000000000020103008a0000d9c11b1) (ch : Fin 64) (u : Fin 32) (fin : WatchdogEnd) (s : State)  (hk : Kept z s) :
    KeptOut z (execNearBankWatchdog ch u fin s) := by
  have w0 : Frees z 0x0 := hw.sub rfl
  have w1 : Frees z 0x1800c00000240000000000000002010000000000c9c11b1 := hw.sub rfl
  have w2 : Frees z 0x40180 := hw.sub rfl
  have w3 : Frees z 0x1804c00000240000000000000002010300880000c9c11b1 := hw.sub rfl
  have w4 : Frees z 0x80000000000000000000000000000200001040000 := hw.sub rfl
  unfold execNearBankWatchdog
  repeat' first
    | with_reducible assumption
    | extract_lets
    | intro _
    | split
    | with_reducible apply State.whenLive_keeps w0
    | with_reducible apply State.raise_keeps w1
    | with_reducible apply State.poisonResult_keeps w2
    | with_reducible apply State.quarantineUnit_keeps w3
    | with_reducible apply State.endOp_keeps w4
    | with_reducible apply kept_if
    | with_reducible apply kept_foldl
    | with_reducible apply keptOut_of

theorem execChannelSwitchComplete_keeps (hw : Frees z 0x1800c080002400000022c800eb830730001620d9d9df1f1) (ch : Fin 64) (s : State)  (hk : Kept z s) :
    KeptOut z (execChannelSwitchComplete ch s) := by
  have w0 : Frees z 0x0 := hw.sub rfl
  have w1 : Frees z (Field.bit genChmode_switches) := hw.sub rfl
  have w2 : Frees z 0x200000040000 := hw.sub rfl
  have w3 : Frees z (Field.bit genChmode_mode) := hw.sub rfl
  have w4 : Frees z 0x80000000000000000000000000000200001040000 := hw.sub rfl
  have w5 : Frees z 0x1800c080002400000022c800eb830730001620d9d9df1f1 := hw.sub rfl
  unfold execChannelSwitchComplete
  repeat' first
    | with_reducible assumption
    | extract_lets
    | intro _
    | split
    | with_reducible apply State.whenLive_keeps w0
    | with_reducible apply State.bumpWrap_keeps (hw := w1)
    | with_reducible apply State.nextOp_keeps w2
    | with_reducible apply State.setFld_keeps (hw := w3)
    | with_reducible apply State.sequence_keeps w4
    | with_reducible apply State.openWindow_keeps w5
    | with_reducible apply kept_if
    | with_reducible apply kept_foldl
    | with_reducible apply keptOut_of

theorem execLogicAccessHeld_keeps (hw : Frees z 0x1800c08000240000000000000002010000060000d9db1b1) (ch : Fin 64) (a : LogicAccess) (s : State)  (hk : Kept z s) :
    KeptOut z (execLogicAccessHeld ch a s) := by
  have w0 : Frees z 0x0 := hw.sub rfl
  have w1 : Frees z 0x80000000000000000000000000000200001040000 := hw.sub rfl
  have w2 : Frees z 0x80000000000000000000000000000400001040000 := hw.sub rfl
  have w3 : Frees z 0x1800c00000240000000000000002010000000000c9db1b1 := hw.sub rfl
  unfold execLogicAccessHeld
  repeat' first
    | with_reducible assumption
    | extract_lets
    | intro _
    | split
    | with_reducible apply State.whenLive_keeps w0
    | with_reducible apply State.sequence_keeps w1
    | with_reducible apply State.hold_keeps w2
    | with_reducible apply State.serveLogic_keeps w3
    | with_reducible apply kept_if
    | with_reducible apply kept_foldl
    | with_reducible apply keptOut_of

theorem execMemoryModeWindowExpiry_keeps (hw : Frees z 0x80000000000000000000000000000200001040000) (ch : Fin 64) (s : State)  (hk : Kept z s) :
    KeptOut z (execMemoryModeWindowExpiry ch s) := by
  have w0 : Frees z 0x0 := hw.sub rfl
  have w1 : Frees z 0x80000000000000000000000000000200001040000 := hw.sub rfl
  unfold execMemoryModeWindowExpiry
  repeat' first
    | with_reducible assumption
    | extract_lets
    | intro _
    | split
    | with_reducible apply State.whenLive_keeps w0
    | with_reducible apply State.sequence_keeps w1
    | with_reducible apply kept_if
    | with_reducible apply kept_foldl
    | with_reducible apply keptOut_of

theorem execRefreshDue_keeps (hw : Frees z 0x40000) (ch : Fin 64) (s : State)  (hk : Kept z s) :
    KeptOut z (execRefreshDue ch s) := by
  have w0 : Frees z 0x0 := hw.sub rfl
  have w1 : Frees z 0x40000 := hw.sub rfl
  unfold execRefreshDue
  repeat' first
    | with_reducible assumption
    | extract_lets
    | intro _
    | split
    | with_reducible apply State.whenLive_keeps w0
    | with_reducible apply State.modChan_keeps w1
    | with_reducible apply kept_if
    | with_reducible apply kept_foldl
    | with_reducible apply keptOut_of

theorem execGenChmodeWrite_keeps (hw : Frees z 0x80000000000000000000000000000600001040000) (fn : Fn) (ch : Fin 64) (lane : Lane) (v : BitVec 64) (s : State)  (hk : Kept z s) :
    KeptOut z (execGenChmodeWrite fn ch lane v s) := by
  have w0 : Frees z 0x0 := hw.sub rfl
  have w1 : Frees z 0x80000000000000000000000000000400001040000 := hw.sub rfl
  have w2 : Frees z 0x80000000000000000000000000000200001040000 := hw.sub rfl
  have w3 : Frees z (Reg.bit .genChmode) := hw.sub rfl
  unfold execGenChmodeWrite
  repeat' first
    | with_reducible assumption
    | extract_lets
    | intro _
    | split
    | with_reducible apply State.whenKept_keeps w0
    | with_reducible apply State.hold_keeps w1
    | with_reducible apply State.sequence_keeps w2
    | with_reducible apply State.writeFields_keeps (hw := w3)
    | with_reducible apply kept_if
    | with_reducible apply kept_foldl
    | with_reducible apply keptOut_of

theorem State.applyDraft_keeps (hw : Frees z 0xe98000000000a0800041000) (s : State)  (hk : Kept z s) :
    Kept z (State.applyDraft s) := by
  have w0 : Frees z 0xe9800000000020800001000 := hw.sub rfl
  have w1 : Frees z 0x40000 := hw.sub rfl
  have w2 : Frees z (Field.bit genDraftCfg_busy) := hw.sub rfl
  unfold State.applyDraft
  repeat' first
    | with_reducible assumption
    | extract_lets
    | intro _
    | split
    | with_reducible apply State.relayTier1_keeps w0
    | with_reducible apply State.noteDraft_keeps w1
    | with_reducible apply State.setFlag_keeps (hw := w2)
    | with_reducible apply kept_if
    | with_reducible apply kept_foldl
    | with_reducible refine upd_gen w1 ?_

theorem State.writeDraftCfg_keeps (hw : Frees z 0xe98000000000a0800041000) (s : State) (fn : ℕ) (lane : Lane) (v : BitVec 64)  (hk : Kept z s) :
    Kept z (State.writeDraftCfg s fn lane v) := by
  have w0 : Frees z (Reg.bit .genDraftCfg) := hw.sub rfl
  have w1 : Frees z (Field.bit genDraftCfg_busy) := hw.sub rfl
  have w2 : Frees z 0xe98000000000a0800041000 := hw.sub rfl
  unfold State.writeDraftCfg
  repeat' first
    | with_reducible assumption
    | extract_lets
    | intro _
    | split
    | with_reducible apply State.writeFields_keeps (hw := w0)
    | with_reducible apply State.setFlag_keeps (hw := w1)
    | with_reducible apply State.applyDraft_keeps w2
    | with_reducible apply kept_if
    | with_reducible apply kept_foldl

theorem execGenDraftCfgWrite_keeps (hw : Frees z 0xe98000000000a0800041000) (fn : Fn) (lane : Lane) (v : BitVec 64) (s : State)  (hk : Kept z s) :
    KeptOut z (execGenDraftCfgWrite fn lane v s) := by
  have w0 : Frees z 0x0 := hw.sub rfl
  have w1 : Frees z 0xe98000000000a0800041000 := hw.sub rfl
  unfold execGenDraftCfgWrite
  repeat' first
    | with_reducible assumption
    | extract_lets
    | intro _
    | split
    | with_reducible apply State.whenKept_keeps w0
    | with_reducible apply State.writeDraftCfg_keeps w1
    | with_reducible apply kept_if
    | with_reducible apply kept_foldl
    | with_reducible apply keptOut_of

theorem execDraftCfgApply_keeps (hw : Frees z 0xe98000000000a0800041000) (s : State)  (hk : Kept z s) :
    KeptOut z (execDraftCfgApply s) := by
  have w0 : Frees z 0x0 := hw.sub rfl
  have w1 : Frees z 0xe98000000000a0800041000 := hw.sub rfl
  unfold execDraftCfgApply
  repeat' first
    | with_reducible assumption
    | extract_lets
    | intro _
    | split
    | with_reducible apply State.whenLive_keeps w0
    | with_reducible apply State.applyDraft_keeps w1
    | with_reducible apply kept_if
    | with_reducible apply kept_foldl
    | with_reducible apply keptOut_of

theorem State.putRing_keeps (hw : Frees z 0x1b000) (s : State) (w : WeightSet) (k : ℕ) (layer : ℕ) (kind : ℕ) (head : ℕ) (slot : ℕ) (row : List Num)  (hk : Kept z s) :
    Kept z (State.putRing s w k layer kind head slot row) := by
  have w0 : Frees z 0x1b000 := hw.sub rfl
  unfold State.putRing
  repeat' first
    | with_reducible refine keptOpt_map ?_
    | with_reducible assumption
    | extract_lets
    | intro _
    | split
    | with_reducible apply State.writePlaces_keeps w0
    | with_reducible apply kept_if
    | with_reducible apply kept_foldl

theorem State.fillRing_keeps (hw : Frees z 0x1b000) (s : State) (w : WeightSet) (h : ℕ) (ring : ℕ) (r : AppendRow)  (hk : Kept z s) :
    Kept z (State.fillRing s w h ring r) := by
  have w0 : Frees z 0x1b000 := hw.sub rfl
  unfold State.fillRing
  repeat' first
    | with_reducible assumption
    | extract_lets
    | intro _
    | split
    | with_reducible apply State.putRing_keeps w0
    | with_reducible apply kept_if
    | with_reducible apply kept_foldl

theorem execDraftRingFillComplete_keeps (hw : Frees z 0x1b080) (fill : RingFill) (s : State)  (hk : Kept z s) :
    KeptOut z (execDraftRingFillComplete fill s) := by
  have w0 : Frees z 0x0 := hw.sub rfl
  have w1 : Frees z 0x80 := hw.sub rfl
  have w2 : Frees z 0x1b000 := hw.sub rfl
  unfold execDraftRingFillComplete
  repeat' first
    | with_reducible refine keptOpt_bind ?_
    | with_reducible refine keptOpt_map ?_
    | with_reducible assumption
    | extract_lets
    | intro _
    | split
    | with_reducible apply State.whenLive_keeps w0
    | with_reducible apply State.modSeq_keeps w1
    | with_reducible apply State.fillRing_keeps w2
    | with_reducible apply kept_if
    | with_reducible apply kept_foldl
    | with_reducible apply keptOut_of

theorem State.recoveryAccess_keeps (hw : Frees z 0x20010) (s : State) (off : ℕ) (op : MemOp)  (hk : Kept z s) :
    Kept z (State.recoveryAccess s off op) := by
  have w0 : Frees z 0x20000 := hw.sub rfl
  have w1 : Frees z 0x10 := hw.sub rfl
  unfold State.recoveryAccess
  extract_lets size
  cases op with
  | write data =>
    refine kept_if (fun _ => ?_) (fun _ => hk)
    refine upd_staging w0 ?_ hk
    generalize data.zipIdx = l
    have h := kept_staging hk
    generalize s.staging = m at h
    induction l generalizing m with
    | nil => exact h
    | cons x l ih =>
      refine ih _ ?_
      dsimp only
      split
      · exact keepCells_write h _ _
      · exact h
  | read n => exact State.emit_keeps w1 _ _ hk

theorem execHostDramAccess_keeps (hw : Frees z 0x1800c08000240000000000000002010000070000d9fb1b1) (off : BitVec 38) (access : DramAccess) (s : State)  (hk : Kept z s) :
    KeptOut z (execHostDramAccess off access s) := by
  have w0 : Frees z 0x20010 := hw.sub rfl
  have w1 : Frees z (Field.bit genApertureHole_count) := hw.sub rfl
  have w2 : Frees z 0x80000000000000000000000000000200001040000 := hw.sub rfl
  have w3 : Frees z 0x80000000000000000000000000000400001040000 := hw.sub rfl
  have w4 : Frees z 0x1800c00000240000000000000002010000000000c9db1b1 := hw.sub rfl
  unfold execHostDramAccess
  repeat' first
    | with_reducible assumption
    | extract_lets
    | intro _
    | split
    | with_reducible apply State.recoveryAccess_keeps w0
    | with_reducible apply State.bump_keeps (hw := w1)
    | with_reducible apply State.sequence_keeps w2
    | with_reducible apply State.hold_keeps w3
    | with_reducible apply State.serveHost_keeps w4
    | with_reducible apply kept_if
    | with_reducible apply kept_foldl
    | with_reducible apply keptOut_of

end Sys2Proof.Machine
end

