-- ==== Sys2Proof/Laws/KeepsAsith.lean ====
section
/-! SUPPORT. Every operation of Machine/Asith.lean keeps the queue, the canonical forms and every piece that it does not touch. -/

set_option Elab.async false
set_option linter.unusedSimpArgs false
set_option linter.unusedTactic false
set_option linter.unreachableTactic false

namespace Sys2Proof.Machine

variable {z : Ref}

theorem State.unqueue_keeps (hw : Frees z 0x100000) (s : State) (c : ℕ) (f : Frame → Bool)  (hk : Kept z s) :
    Kept z (State.unqueue s c f) := by
  have w0 : Frees z 0x100000 := hw.sub rfl
  simp (maxDischargeDepth := 30) only [State.unqueue, upd_asf w0, and_self, hk]

theorem State.resend_keeps (hw : Frees z 0x100000) (s : State) (c : ℕ)  (hk : Kept z s) :
    Kept z (State.resend s c) := by
  have w0 : Frees z 0x100000 := hw.sub rfl
  unfold State.resend
  repeat' first
    | with_reducible refine keptOpt_map ?_
    | with_reducible assumption
    | extract_lets
    | intro _
    | split
    | with_reducible apply State.modConn_keeps w0
    | with_reducible apply State.unqueue_keeps w0
    | with_reducible apply State.queueFrame_keeps w0
    | with_reducible apply kept_if
    | with_reducible apply kept_foldl

theorem State.halveWindow_keeps (hw : Frees z 0x100000) (s : State) (c : ℕ)  (hk : Kept z s) :
    Kept z (State.halveWindow s c) := by
  have w0 : Frees z 0x100000 := hw.sub rfl
  simp (maxDischargeDepth := 30) only [State.halveWindow, State.modConn_keeps w0, and_self, hk]

theorem State.settle_keeps (hw : Frees z 0x100000) (s : State) (c : ℕ) (gone : List Sent) (marked : Bool)  (hk : Kept z s) :
    Kept z (State.settle s c gone marked) := by
  have w0 : Frees z 0x100000 := hw.sub rfl
  unfold State.settle
  repeat' first
    | with_reducible refine keptOpt_map ?_
    | with_reducible assumption
    | extract_lets
    | intro _
    | split
    | with_reducible apply State.unqueue_keeps w0
    | with_reducible apply State.modConn_keeps w0
    | with_reducible apply kept_if
    | with_reducible apply kept_foldl

theorem State.writeRetired_keeps (hw : Frees z 0x840000000000004040eb980000000020d019073f0) (s : State) (node : ℕ) (p : Purpose)  (hk : Kept z s) :
    Kept z (State.writeRetired s node p) := by
  have w0 : Frees z 0x4000e9800000000020d009071f0 := hw.sub rfl
  have w1 : Frees z 0x80 := hw.sub rfl
  have w2 : Frees z 0x1000 := hw.sub rfl
  have w3 : Frees z 0x400000000000000000500100030 := hw.sub rfl
  have w4 : Frees z 0x840000000000004040eb980000000020d019073f0 := hw.sub rfl
  unfold State.writeRetired
  repeat' first
    | with_reducible assumption
    | extract_lets
    | intro _
    | split
    | with_reducible apply State.mirrorAcked_keeps w0
    | with_reducible apply State.journalAcked_keeps w1
    | with_reducible apply State.moveWritten_keeps w2
    | with_reducible apply State.freeAcked_keeps w3
    | with_reducible apply State.flipArrived_keeps w4
    | with_reducible apply kept_if
    | with_reducible apply kept_foldl

theorem State.lodgedArrives_keeps (hw : Frees z 0x1800c080002400000022c800eb830730000420d9d9df1f1) (s : State) (key : ℕ) (bs : List (BitVec 8))  (hk : Kept z s) :
    Kept z (State.lodgedArrives s key bs) := by
  have w0 : Frees z 0x1000 := hw.sub rfl
  have w1 : Frees z 0x3000 := hw.sub rfl
  have w2 : Frees z 0x1800c080002400000022c800eb830730000420d9d9df1f1 := hw.sub rfl
  have w3 : Frees z 0x1800c0000024000000004000eb82013000002080c9c71b1 := hw.sub rfl
  unfold State.lodgedArrives
  repeat' first
    | with_reducible assumption
    | extract_lets
    | intro _
    | split
    | with_reducible apply State.pageCame_keeps w0
    | with_reducible apply State.setPageBytes_keeps w1
    | with_reducible apply State.wakeAll_keeps w2
    | with_reducible apply State.expandFailed_keeps w3
    | with_reducible apply kept_if
    | with_reducible apply kept_foldl
    | with_reducible refine upd_tiers w0 rfl ?_

theorem State.mirrorArrives_keeps (hw : Frees z 0x3000) (s : State) (key : ℕ) (bs : List (BitVec 8))  (hk : Kept z s) :
    Kept z (State.mirrorArrives s key bs) := by
  have w0 : Frees z 0x1000 := hw.sub rfl
  have w1 : Frees z 0x3000 := hw.sub rfl
  unfold State.mirrorArrives
  repeat' first
    | with_reducible assumption
    | extract_lets
    | intro _
    | split
    | with_reducible apply State.pageCame_keeps w0
    | with_reducible apply State.setPageBytes_keeps w1
    | with_reducible apply kept_if
    | with_reducible apply kept_foldl

theorem State.answered_keeps (hw : Frees z 0x1800c080002400000022c840eb830730004422d9d9df5f1) (s : State) (p : Purpose) (bs : List (BitVec 8))  (hk : Kept z s) :
    Kept z (State.answered s p bs) := by
  have w0 : Frees z 0x10 := hw.sub rfl
  have w1 : Frees z 0x20 := hw.sub rfl
  have w2 : Frees z 0x1800c080002400000022c800eb830730000420d9d9df1f1 := hw.sub rfl
  have w3 : Frees z 0x3000 := hw.sub rfl
  have w4 : Frees z 0x4040e9800000004022d00145430 := hw.sub rfl
  unfold State.answered
  repeat' first
    | with_reducible refine keptOpt_map ?_
    | with_reducible assumption
    | extract_lets
    | intro _
    | split
    | with_reducible apply State.emit_keeps w0
    | with_reducible apply State.packetsArrive_keeps w1
    | with_reducible apply State.lodgedArrives_keeps w2
    | with_reducible apply State.mirrorArrives_keeps w3
    | with_reducible apply State.sourceRead_keeps w4
    | with_reducible apply kept_if
    | with_reducible apply kept_foldl

theorem State.deliver_keeps (hw : Frees z 0x1800c080002400000022c840eb830730004422d9d9df5f1) (s : State) (c : ℕ) (marked : Bool) (x3 : ℕ)  (hk : Kept z s) :
    Kept z (State.deliver s c marked x3) := by
  have w0 : Frees z 0x1800c080002400000022c840eb830730004422d9d9df5f1 := hw.sub rfl
  have w1 : Frees z 0x100000 := hw.sub rfl
  induction x3 generalizing s c marked with
  | zero =>
    unfold State.deliver
    repeat' first
      | with_reducible assumption
      | extract_lets
      | intro _
      | split
      | with_reducible apply State.answered_keeps w0
      | with_reducible apply State.settle_keeps w1
      | with_reducible apply kept_if
      | with_reducible apply kept_foldl
  | succ n ih =>
    unfold State.deliver
    repeat' first
      | with_reducible assumption
      | extract_lets
      | intro _
      | split
      | with_reducible apply ih
      | with_reducible refine KeptOpt.get ?_ (by with_reducible assumption)
      | with_reducible apply State.answered_keeps w0
      | with_reducible apply State.settle_keeps w1
      | with_reducible apply kept_if
      | with_reducible apply kept_foldl

theorem State.sendDisconnect_keeps (hw : Frees z 0x100000) (s : State) (c : ℕ) (k : Conn)  (hk : Kept z s) :
    Kept z (State.sendDisconnect s c k) := by
  have w0 : Frees z 0x100000 := hw.sub rfl
  simp (maxDischargeDepth := 30) only [State.sendDisconnect, State.queueFrame_keeps w0, and_self, hk]

theorem State.settleClose_keeps (hw : Frees z 0x400000000000000000500100030) (s : State) (c : ℕ)  (hk : Kept z s) :
    Kept z (State.settleClose s c) := by
  have w0 : Frees z 0x400000000000000000500100030 := hw.sub rfl
  have w1 : Frees z 0x100000 := hw.sub rfl
  unfold State.settleClose
  repeat' first
    | with_reducible assumption
    | extract_lets
    | intro _
    | split
    | with_reducible apply State.finish_keeps w0
    | with_reducible apply State.sendDisconnect_keeps w1
    | with_reducible apply State.modConn_keeps w1
    | with_reducible apply kept_if
    | with_reducible apply kept_foldl

theorem State.takeAck_keeps (hw : Frees z 0x840000000000004040eb980000000020d019073f0) (s : State) (c : ℕ) (rx : Rx)  (hk : Kept z s) :
    Kept z (State.takeAck s c rx) := by
  have w0 : Frees z 0x100000 := hw.sub rfl
  have w1 : Frees z 0x840000000000004040eb980000000020d019073f0 := hw.sub rfl
  unfold State.takeAck
  repeat' first
    | with_reducible refine keptOpt_map ?_
    | with_reducible assumption
    | extract_lets
    | intro _
    | split
    | with_reducible apply State.settle_keeps w0
    | with_reducible apply State.writeRetired_keeps w1
    | with_reducible apply kept_if
    | with_reducible apply kept_foldl

theorem State.sampleRtt_keeps (hw : Frees z 0x100000) (s : State) (c : ℕ) (rx : Rx)  (hk : Kept z s) :
    Kept z (State.sampleRtt s c rx) := by
  have w0 : Frees z 0x100000 := hw.sub rfl
  simp (maxDischargeDepth := 30) only [State.sampleRtt, State.modConn_keeps w0, and_self, hk]

theorem State.alive_keeps (hw : Frees z 0x100000) (s : State) (c : ℕ)  (hk : Kept z s) :
    Kept z (State.alive s c) := by
  have w0 : Frees z 0x100000 := hw.sub rfl
  simp (maxDischargeDepth := 30) only [State.alive, State.modConn_keeps w0, and_self, hk]

theorem State.fromPeer_keeps (hw : Frees z 0x1800c084002440000023c840eb9b0730000420d9d9df7f1) (s : State) (rx : Rx) (op : ℕ) (f : State → ℕ → Conn → State)  (hk : Kept z s) (hk_f : ∀ y0 y1 y2, Kept z y0 → Kept z (f y0 y1 y2)) :
    Kept z (State.fromPeer s rx op f) := by
  have w0 : Frees z 0x80000000000002000000000000000000001000000 := hw.sub rfl
  have w1 : Frees z 0x800000000000000000000000000 := hw.sub rfl
  have w2 : Frees z 0x1800c084002440000023c840eb9b0730000420d9d9df7f1 := hw.sub rfl
  have w3 : Frees z 0x400000000000000000500100030 := hw.sub rfl
  have w4 : Frees z 0x100000 := hw.sub rfl
  unfold State.fromPeer
  repeat' first
    | with_reducible assumption
    | extract_lets
    | intro _
    | split
    | with_reducible apply State.atPort_keeps w0
    | with_reducible apply State.noteEpoch_keeps w1
    | with_reducible apply State.tellFailures_keeps w2
    | with_reducible apply State.settleClose_keeps w3
    | with_reducible apply State.alive_keeps w4
    | with_reducible apply hk_f
    | with_reducible apply kept_if
    | with_reducible apply kept_foldl

theorem State.refused_keeps (hw : Frees z 0x1800c080002400000022c840eb830730004422d9d9df5f1) (s : State) (c : ℕ) (psn : ℕ) (cause : ℕ)  (hk : Kept z s) :
    Kept z (State.refused s c psn cause) := by
  have w0 : Frees z 0x100000 := hw.sub rfl
  have w1 : Frees z 0x1800c080002400000022c840eb830730004422d9d9df5f1 := hw.sub rfl
  unfold State.refused
  repeat' first
    | with_reducible assumption
    | extract_lets
    | intro _
    | split
    | with_reducible apply State.modConn_keeps w0
    | with_reducible apply State.unqueue_keeps w0
    | with_reducible apply State.failLater_keeps w0
    | with_reducible apply State.deliver_keeps w1
    | with_reducible apply kept_if
    | with_reducible apply kept_foldl
    | dsimp +zetaDelta only

theorem State.giveUp_keeps (hw : Frees z 0x100000) (s : State) (c : ℕ) (psn : ℕ) (cause : ℕ)  (hk : Kept z s) :
    Kept z (State.giveUp s c psn cause) := by
  have w0 : Frees z 0x100000 := hw.sub rfl
  unfold State.giveUp
  repeat' first
    | with_reducible assumption
    | extract_lets
    | intro _
    | split
    | with_reducible apply State.modConn_keeps w0
    | with_reducible apply State.resend_keeps w0
    | with_reducible apply State.failLater_keeps w0
    | with_reducible apply kept_if
    | with_reducible apply kept_foldl

theorem State.failAll_keeps (hw : Frees z 0x100000) (s : State) (c : ℕ) (cause : ℕ)  (hk : Kept z s) :
    Kept z (State.failAll s c cause) := by
  have w0 : Frees z 0x100000 := hw.sub rfl
  unfold State.failAll
  repeat' first
    | with_reducible assumption
    | extract_lets
    | intro _
    | split
    | with_reducible apply State.modConn_keeps w0
    | with_reducible apply State.unqueue_keeps w0
    | with_reducible apply State.failLater_keeps w0
    | with_reducible apply kept_if
    | with_reducible apply kept_foldl

theorem State.killConn_keeps (hw : Frees z 0x1800c084002440000023c840eb9b0730000420d9d9df7f1) (s : State) (c : ℕ) (cause : ℕ)  (hk : Kept z s) :
    Kept z (State.killConn s c cause) := by
  have w0 : Frees z 0x100000 := hw.sub rfl
  have w1 : Frees z 0x1800c084002440000023c840eb9b0730000420d9d9df7f1 := hw.sub rfl
  have w2 : Frees z 0x400000000000000000500100030 := hw.sub rfl
  have w3 : Frees z 0x400000000000000000000100000 := hw.sub rfl
  unfold State.killConn
  repeat' first
    | with_reducible assumption
    | extract_lets
    | intro _
    | split
    | with_reducible apply State.modConn_keeps w0
    | with_reducible apply State.failAll_keeps w0
    | with_reducible apply State.tellFailures_keeps w1
    | with_reducible apply State.finish_keeps w2
    | with_reducible apply State.dropConn_keeps w3
    | with_reducible apply kept_if
    | with_reducible apply kept_foldl

theorem State.openFails_keeps (hw : Frees z 0x1800c084002440000023c840eb9b0730000420d9d9df7f1) (s : State) (c : ℕ) (status : ℕ) (detail : ℕ)  (hk : Kept z s) :
    Kept z (State.openFails s c status detail) := by
  have w0 : Frees z 0x400000000000000000000100000 := hw.sub rfl
  have w1 : Frees z 0x1800c084002440000023c840eb9b0730000420d9d9df7f1 := hw.sub rfl
  have w2 : Frees z 0x100000 := hw.sub rfl
  have w3 : Frees z 0x400000000000000000500100030 := hw.sub rfl
  unfold State.openFails
  repeat' first
    | with_reducible assumption
    | extract_lets
    | intro _
    | split
    | with_reducible apply State.dropConn_keeps w0
    | with_reducible apply State.tellFailures_keeps w1
    | with_reducible apply State.failAll_keeps w2
    | with_reducible apply State.finish_keeps w3
    | with_reducible apply kept_if
    | with_reducible apply kept_foldl

theorem State.nakRnr_keeps (hw : Frees z 0x100000) (s : State) (c : ℕ) (psn : ℕ) (k : Conn)  (hk : Kept z s) :
    Kept z (State.nakRnr s c psn k) := by
  have w0 : Frees z 0x100000 := hw.sub rfl
  unfold State.nakRnr
  repeat' first
    | with_reducible assumption
    | extract_lets
    | intro _
    | split
    | with_reducible apply State.giveUp_keeps w0
    | with_reducible apply State.modConn_keeps w0
    | with_reducible apply State.unqueue_keeps w0
    | with_reducible apply kept_if
    | with_reducible apply kept_foldl

theorem State.nakRetry_keeps (hw : Frees z 0x100000) (s : State) (c : ℕ) (psn : ℕ) (us : ℕ) (k : Conn)  (hk : Kept z s) :
    Kept z (State.nakRetry s c psn us k) := by
  have w0 : Frees z 0x100000 := hw.sub rfl
  unfold State.nakRetry
  repeat' first
    | with_reducible assumption
    | extract_lets
    | intro _
    | split
    | with_reducible apply State.giveUp_keeps w0
    | with_reducible apply State.modConn_keeps w0
    | with_reducible apply State.unqueue_keeps w0
    | with_reducible apply kept_if
    | with_reducible apply kept_foldl

theorem State.moveResolves_keeps (hw : Frees z 0x80) (s : State) (p : Purpose)  (hk : Kept z s) :
    Kept z (State.moveResolves s p) := by
  have w0 : Frees z 0x80 := hw.sub rfl
  unfold State.moveResolves
  repeat' first
    | with_reducible refine keptOpt_map ?_
    | with_reducible assumption
    | extract_lets
    | intro _
    | split
    | with_reducible apply State.modSeq_keeps w0
    | with_reducible apply kept_if
    | with_reducible apply kept_foldl

theorem State.nakStale_keeps (hw : Frees z 0x1800c084002440000023c840eb9b0730000420d9d9df7f1) (s : State) (c : ℕ) (psn : ℕ) (k : Conn)  (hk : Kept z s) :
    Kept z (State.nakStale s c psn k) := by
  have w0 : Frees z 0x1800c084002440000023c840eb9b0730000420d9d9df7f1 := hw.sub rfl
  have w1 : Frees z 0x100000 := hw.sub rfl
  have w2 : Frees z 0x80 := hw.sub rfl
  unfold State.nakStale
  repeat' first
    | with_reducible refine keptOpt_bind ?_
    | with_reducible refine keptOpt_map ?_
    | with_reducible assumption
    | extract_lets
    | intro _
    | split
    | with_reducible apply State.killConn_keeps w0
    | with_reducible apply State.giveUp_keeps w1
    | with_reducible apply State.modConn_keeps w1
    | with_reducible apply State.resend_keeps w1
    | with_reducible apply State.moveResolves_keeps w2
    | with_reducible apply kept_if
    | with_reducible apply kept_foldl

theorem State.nakOpen_keeps (hw : Frees z 0x1800c084002440000023c840eb9b0730000420d9d9df7f1) (s : State) (c : ℕ) (rx : Rx) (k : Conn)  (hk : Kept z s) :
    Kept z (State.nakOpen s c rx k) := by
  have w0 : Frees z 0x1800c084002440000023c840eb9b0730000420d9d9df7f1 := hw.sub rfl
  have w1 : Frees z 0x100000 := hw.sub rfl
  have w2 : Frees z 0x80 := hw.sub rfl
  unfold State.nakOpen
  repeat' first
    | with_reducible refine keptOpt_bind ?_
    | with_reducible assumption
    | extract_lets
    | intro _
    | split
    | with_reducible apply State.openFails_keeps w0
    | with_reducible apply State.modConn_keeps w1
    | with_reducible apply State.sendConnect_keeps w1
    | with_reducible apply State.moveResolves_keeps w2
    | with_reducible apply kept_if
    | with_reducible apply kept_foldl

theorem State.nakRequest_keeps (hw : Frees z 0x1800c084002440000023c840eb9b0730004422d9d9df7f1) (s : State) (c : ℕ) (rx : Rx)  (hk : Kept z s) :
    Kept z (State.nakRequest s c rx) := by
  have w0 : Frees z 0x840000000000004040eb980000000020d019073f0 := hw.sub rfl
  have w1 : Frees z 0x100000 := hw.sub rfl
  have w2 : Frees z 0x1800c080002400000022c840eb830730004422d9d9df5f1 := hw.sub rfl
  have w3 : Frees z 0x1800c084002440000023c840eb9b0730000420d9d9df7f1 := hw.sub rfl
  have w4 : Frees z (Field.bit asfRxDrop_badOp) := hw.sub rfl
  unfold State.nakRequest
  repeat' first
    | with_reducible assumption
    | extract_lets
    | intro _
    | split
    | with_reducible apply State.takeAck_keeps w0
    | with_reducible apply State.modConn_keeps w1
    | with_reducible apply State.nakRnr_keeps w1
    | with_reducible apply State.nakRetry_keeps w1
    | with_reducible apply State.refused_keeps w2
    | with_reducible apply State.nakStale_keeps w3
    | with_reducible apply State.resend_keeps w1
    | with_reducible apply State.halveWindow_keeps w1
    | with_reducible apply State.killConn_keeps w3
    | with_reducible apply State.bump_keeps (hw := w4)
    | with_reducible apply kept_if
    | with_reducible apply kept_foldl

theorem State.takeRequest_keeps (hw : Frees z 0x1800c080002400000022c800eb830730000620d9d9df1f1) (s : State) (rx : Rx) (use : WriteUse)  (hk : Kept z s) :
    Kept z (State.takeRequest s rx use) := by
  have w0 : Frees z 0x80000000000000000000000000000200001040000 := hw.sub rfl
  have w1 : Frees z 0x204000e9800000000020d00101030 := hw.sub rfl
  have w2 : Frees z 0x1800c080002400000002c800eb830730000420d9d9df1f1 := hw.sub rfl
  simp (maxDischargeDepth := 30) only [State.takeRequest, State.sequenceHeld_keeps w0, State.settleRegions_keeps w1, State.arrive_keeps w2, and_self, hk]

theorem execReadReq_keeps (hw : Frees z 0x1800c080002400000022c800eb830730000620d9d9df1f1) (rx : Rx) (s : State)  (hk : Kept z s) :
    KeptOut z (execReadReq rx s) := by
  have w0 : Frees z 0x80000000000002000000000000000000001000000 := hw.sub rfl
  have w1 : Frees z 0x1800c080002400000022c800eb830730000620d9d9df1f1 := hw.sub rfl
  simp (maxDischargeDepth := 30) +contextual only [execReadReq, keptOut_next, State.atPort_keeps w0, State.takeRequest_keeps w1, and_self, kept_foldl, kept_ite, implies_true, hk]

theorem execWrite_keeps (hw : Frees z 0x1800c080002400000022c800eb830730000620d9d9df1f1) (rx : Rx) (use : WriteUse) (s : State)  (hk : Kept z s) :
    KeptOut z (execWrite rx use s) := by
  have w0 : Frees z 0x80000000000002000000000000000000001000000 := hw.sub rfl
  have w1 : Frees z 0x1800c080002400000022c800eb830730000620d9d9df1f1 := hw.sub rfl
  simp (maxDischargeDepth := 30) +contextual only [execWrite, keptOut_next, State.atPort_keeps w0, State.takeRequest_keeps w1, and_self, kept_foldl, kept_ite, implies_true, hk]

theorem execWriteImm_keeps (hw : Frees z 0x1800c080002400000022c800eb830730000620d9d9df1f1) (rx : Rx) (s : State)  (hk : Kept z s) :
    KeptOut z (execWriteImm rx s) := by
  have w0 : Frees z 0x80000000000002000000000000000000001000000 := hw.sub rfl
  have w1 : Frees z 0x1800c080002400000022c800eb830730000620d9d9df1f1 := hw.sub rfl
  simp (maxDischargeDepth := 30) +contextual only [execWriteImm, keptOut_next, State.atPort_keeps w0, State.takeRequest_keeps w1, and_self, kept_foldl, kept_ite, implies_true, hk]

theorem execFetchAdd_keeps (hw : Frees z 0x1800c080002400000022c800eb830730000620d9d9df1f1) (rx : Rx) (s : State)  (hk : Kept z s) :
    KeptOut z (execFetchAdd rx s) := by
  have w0 : Frees z 0x80000000000002000000000000000000001000000 := hw.sub rfl
  have w1 : Frees z 0x1800c080002400000022c800eb830730000620d9d9df1f1 := hw.sub rfl
  simp (maxDischargeDepth := 30) +contextual only [execFetchAdd, keptOut_next, State.atPort_keeps w0, State.takeRequest_keeps w1, and_self, kept_foldl, kept_ite, implies_true, hk]

theorem execSwap_keeps (hw : Frees z 0x1800c080002400000022c800eb830730000620d9d9df1f1) (rx : Rx) (s : State)  (hk : Kept z s) :
    KeptOut z (execSwap rx s) := by
  have w0 : Frees z 0x80000000000002000000000000000000001000000 := hw.sub rfl
  have w1 : Frees z 0x1800c080002400000022c800eb830730000620d9d9df1f1 := hw.sub rfl
  simp (maxDischargeDepth := 30) +contextual only [execSwap, keptOut_next, State.atPort_keeps w0, State.takeRequest_keeps w1, and_self, kept_foldl, kept_ite, implies_true, hk]

theorem execCas_keeps (hw : Frees z 0x1800c080002400000022c800eb830730000620d9d9df1f1) (rx : Rx) (s : State)  (hk : Kept z s) :
    KeptOut z (execCas rx s) := by
  have w0 : Frees z 0x80000000000002000000000000000000001000000 := hw.sub rfl
  have w1 : Frees z 0x1800c080002400000022c800eb830730000620d9d9df1f1 := hw.sub rfl
  simp (maxDischargeDepth := 30) +contextual only [execCas, keptOut_next, State.atPort_keeps w0, State.takeRequest_keeps w1, and_self, kept_foldl, kept_ite, implies_true, hk]

theorem execReadResp_keeps (hw : Frees z 0x1800c084002440000023c840eb9b0730004422d9d9df7f1) (rx : Rx) (s : State)  (hk : Kept z s) :
    KeptOut z (execReadResp rx s) := by
  have w0 : Frees z 0x1800c084002440000023c840eb9b0730000420d9d9df7f1 := hw.sub rfl
  have w1 : Frees z 0x100000 := hw.sub rfl
  have w2 : Frees z 0x840000000000004040eb980000000020d019073f0 := hw.sub rfl
  have w3 : Frees z 0x1800c080002400000022c840eb830730004422d9d9df5f1 := hw.sub rfl
  unfold execReadResp
  repeat' first
    | with_reducible refine keptOpt_map ?_
    | with_reducible assumption
    | extract_lets
    | intro _
    | split
    | with_reducible apply State.fromPeer_keeps w0
    | with_reducible apply State.modConn_keeps w1
    | with_reducible apply State.takeAck_keeps w2
    | with_reducible apply State.refused_keeps w3
    | with_reducible apply State.sampleRtt_keeps w1
    | with_reducible apply State.deliver_keeps w3
    | with_reducible apply kept_if
    | with_reducible apply kept_foldl
    | with_reducible apply keptOut_of

theorem execAtomicResp_keeps (hw : Frees z 0x1800c084002440000023c840eb9b0730004422d9d9df7f1) (rx : Rx) (s : State)  (hk : Kept z s) :
    KeptOut z (execAtomicResp rx s) := by
  have w0 : Frees z 0x1800c084002440000023c840eb9b0730000420d9d9df7f1 := hw.sub rfl
  have w1 : Frees z 0x100000 := hw.sub rfl
  have w2 : Frees z 0x840000000000004040eb980000000020d019073f0 := hw.sub rfl
  have w3 : Frees z 0x1800c080002400000022c840eb830730004422d9d9df5f1 := hw.sub rfl
  unfold execAtomicResp
  repeat' first
    | with_reducible refine keptOpt_map ?_
    | with_reducible assumption
    | extract_lets
    | intro _
    | split
    | with_reducible apply State.fromPeer_keeps w0
    | with_reducible apply State.modConn_keeps w1
    | with_reducible apply State.sampleRtt_keeps w1
    | with_reducible apply State.takeAck_keeps w2
    | with_reducible apply State.deliver_keeps w3
    | with_reducible apply kept_if
    | with_reducible apply kept_foldl
    | with_reducible apply keptOut_of

theorem execAck_keeps (hw : Frees z 0x1800c084002440000023c840eb9b0730000420d9d9df7f1) (rx : Rx) (s : State)  (hk : Kept z s) :
    KeptOut z (execAck rx s) := by
  have w0 : Frees z 0x1800c084002440000023c840eb9b0730000420d9d9df7f1 := hw.sub rfl
  have w1 : Frees z 0x100000 := hw.sub rfl
  have w2 : Frees z 0x840000000000004040eb980000000020d019073f0 := hw.sub rfl
  simp (maxDischargeDepth := 30) +contextual only [execAck, keptOut_next, State.fromPeer_keeps w0, State.modConn_keeps w1, State.takeAck_keeps w2, State.sampleRtt_keeps w1, and_self, kept_foldl, kept_ite, implies_true, hk]

theorem execNak_keeps (hw : Frees z 0x1800c084002440000023c840eb9b0730004422d9d9df7f1) (rx : Rx) (s : State)  (hk : Kept z s) :
    KeptOut z (execNak rx s) := by
  have w0 : Frees z 0x80000000000002000000000000000000001000000 := hw.sub rfl
  have w1 : Frees z 0x1800c084002440000023c840eb9b0730000420d9d9df7f1 := hw.sub rfl
  have w2 : Frees z 0x800000000000000000000000000 := hw.sub rfl
  have w3 : Frees z 0x400000000000000000500100030 := hw.sub rfl
  have w4 : Frees z 0x1800c084002440000023c840eb9b0730004422d9d9df7f1 := hw.sub rfl
  have w5 : Frees z 0x100000 := hw.sub rfl
  unfold execNak
  repeat' first
    | with_reducible assumption
    | extract_lets
    | intro _
    | split
    | with_reducible apply State.atPort_keeps w0
    | with_reducible apply State.nakOpen_keeps w1
    | with_reducible apply State.noteEpoch_keeps w2
    | with_reducible apply State.tellFailures_keeps w1
    | with_reducible apply State.settleClose_keeps w3
    | with_reducible apply State.nakRequest_keeps w4
    | with_reducible apply State.alive_keeps w5
    | with_reducible apply kept_if
    | with_reducible apply kept_foldl
    | with_reducible apply keptOut_of

end Sys2Proof.Machine
end

