-- ==== Sys2Proof/Laws/KeepsAsithConn.lean ====
section
/-! SUPPORT. Every operation of Machine/AsithConn.lean keeps the queue, the canonical forms and every piece that it does not touch. -/

set_option Elab.async false
set_option linter.unusedSimpArgs false
set_option linter.unusedTactic false
set_option linter.unreachableTactic false

namespace Sys2Proof.Machine

variable {z : Ref}

theorem State.trimCache_keeps (hw : Frees z 0x400000000000000000000100014) (s : State)  (hk : Kept z s) :
    Kept z (State.trimCache s) := by
  have w0 : Frees z 0x10 := hw.sub rfl
  have w1 : Frees z 0x400000000000000000000000000 := hw.sub rfl
  have w2 : Frees z 0x100000 := hw.sub rfl
  have w3 : Frees z 0x4 := hw.sub rfl
  unfold State.trimCache
  repeat' first
    | with_reducible assumption
    | extract_lets
    | intro _
    | split
    | with_reducible apply State.emit_keeps w0
    | with_reducible apply State.noteCtx_keeps w1
    | with_reducible apply State.modConn_keeps w2
    | with_reducible apply kept_if
    | with_reducible apply kept_foldl
    | with_reducible refine upd_freeCtr w3 ?_

theorem State.ackConnect_keeps (hw : Frees z 0x100000) (s : State) (rx : Rx) (c : ℕ)  (hk : Kept z s) :
    Kept z (State.ackConnect s rx c) := by
  have w0 : Frees z 0x100000 := hw.sub rfl
  simp (maxDischargeDepth := 30) only [State.ackConnect, State.respond_keeps w0, and_self, hk]

theorem State.connected_keeps (hw : Frees z 0x400000000000000000000100014) (s : State) (rx : Rx)  (hk : Kept z s) :
    Kept z (State.connected s rx) := by
  have w0 : Frees z 0x100000 := hw.sub rfl
  have w1 : Frees z 0x400000000000000000000100014 := hw.sub rfl
  have w2 : Frees z 0x400000000000000000000100000 := hw.sub rfl
  unfold State.connected
  repeat' first
    | with_reducible refine keptOpt_bind ?_
    | with_reducible assumption
    | extract_lets
    | intro _
    | split
    | with_reducible apply State.ackConnect_keeps w0
    | with_reducible apply State.respond_keeps w0
    | with_reducible apply State.trimCache_keeps w1
    | with_reducible apply State.setConn_keeps w2
    | with_reducible apply kept_if
    | with_reducible apply kept_foldl

theorem execConnect_keeps (hw : Frees z 0x80000000000002c00000000000000000001100014) (rx : Rx) (s : State)  (hk : Kept z s) :
    KeptOut z (execConnect rx s) := by
  have w0 : Frees z 0x80000000000002000000000000000000001000000 := hw.sub rfl
  have w1 : Frees z 0x400000000000000000000100014 := hw.sub rfl
  have w2 : Frees z 0x100000 := hw.sub rfl
  have w3 : Frees z (Field.bit asfEpoch_staleSent) := hw.sub rfl
  unfold execConnect
  repeat' first
    | with_reducible assumption
    | extract_lets
    | intro _
    | split
    | with_reducible apply State.atPort_keeps w0
    | with_reducible apply State.connected_keeps w1
    | with_reducible apply State.respond_keeps w2
    | with_reducible apply State.bump_keeps (hw := w3)
    | with_reducible apply kept_if
    | with_reducible apply kept_foldl
    | with_reducible apply keptOut_of

theorem execConnectAck_keeps (hw : Frees z 0x80000000000002400000000000000000501100034) (rx : Rx) (s : State)  (hk : Kept z s) :
    KeptOut z (execConnectAck rx s) := by
  have w0 : Frees z 0x80000000000002000000000000000000001000000 := hw.sub rfl
  have w1 : Frees z 0x100000 := hw.sub rfl
  have w2 : Frees z 0x400000000000000000000100014 := hw.sub rfl
  have w3 : Frees z 0x400000000000000000500100030 := hw.sub rfl
  unfold execConnectAck
  repeat' first
    | with_reducible refine keptOpt_map ?_
    | with_reducible assumption
    | extract_lets
    | intro _
    | split
    | with_reducible apply State.atPort_keeps w0
    | with_reducible apply State.modConn_keeps w1
    | with_reducible apply State.trimCache_keeps w2
    | with_reducible apply State.resend_keeps w1
    | with_reducible apply State.finish_keeps w3
    | with_reducible apply kept_if
    | with_reducible apply kept_foldl
    | with_reducible apply keptOut_of

theorem State.takeWaiting_keeps (hw : Frees z 0x100000) (s : State) (c : ℕ)  (hk : Kept z s) :
    Kept z (State.takeWaiting s c).1 := by
  have w0 : Frees z 0x100000 := hw.sub rfl
  unfold State.takeWaiting
  repeat' first
    | with_reducible refine keptOpt_map ?_
    | with_reducible assumption
    | extract_lets
    | intro _
    | split
    | with_reducible apply State.modConn_keeps w0
    | with_reducible apply kept_if
    | with_reducible apply kept_foldl
    | with_reducible refine upd_asf w0 ?_
theorem State.takeWaiting_gives (hw : Frees z 0x100000) {t : State} {y0} {s : State} {c : ℕ} (he : State.takeWaiting s c = (t, y0)) (hk : Kept z s) : Kept z t :=
  by have k := State.takeWaiting_keeps hw s c hk; rw [he] at k; exact k

theorem execDisconnect_keeps (hw : Frees z 0x1800c084002440000023c840eb9b0730000420d9d9df7f1) (rx : Rx) (s : State)  (hk : Kept z s) :
    KeptOut z (execDisconnect rx s) := by
  have w0 : Frees z 0x80000000000002000000000000000000001000000 := hw.sub rfl
  have w1 : Frees z 0x100000 := hw.sub rfl
  have w2 : Frees z 0x1800c084002440000023c840eb9b0730000420d9d9df7f1 := hw.sub rfl
  have w3 : Frees z 0x204000e9800000000020d00101030 := hw.sub rfl
  have w4 : Frees z 0x400000000000000000000100000 := hw.sub rfl
  unfold execDisconnect
  repeat' first
    | with_reducible assumption
    | extract_lets
    | intro _
    | split
    | with_reducible apply State.atPort_keeps w0
    | with_reducible apply State.respond_keeps w1
    | with_reducible apply State.takeWaiting_keeps w1
    | with_reducible refine State.takeWaiting_gives w1 (by with_reducible assumption) ?_
    | with_reducible apply State.killConn_keeps w2
    | with_reducible apply State.settleRegions_keeps w3
    | with_reducible apply State.dropConn_keeps w4
    | with_reducible apply kept_if
    | with_reducible apply kept_foldl
    | with_reducible apply keptOut_of

theorem execDisconnectAck_keeps (hw : Frees z 0x80000000000002400000000000000000001100000) (rx : Rx) (s : State)  (hk : Kept z s) :
    KeptOut z (execDisconnectAck rx s) := by
  have w0 : Frees z 0x80000000000002000000000000000000001000000 := hw.sub rfl
  have w1 : Frees z 0x400000000000000000000100000 := hw.sub rfl
  unfold execDisconnectAck
  repeat' first
    | with_reducible assumption
    | extract_lets
    | intro _
    | split
    | with_reducible apply State.atPort_keeps w0
    | with_reducible apply State.dropConn_keeps w1
    | with_reducible apply kept_if
    | with_reducible apply kept_foldl
    | with_reducible apply keptOut_of

theorem execReservedOpFrame_keeps (hw : Frees z 0x80000000000002000000000000000000001000000) (rx : Rx) (s : State)  (hk : Kept z s) :
    KeptOut z (execReservedOpFrame rx s) := by
  have w0 : Frees z 0x80000000000002000000000000000000001000000 := hw.sub rfl
  have w1 : Frees z (Field.bit asfRxDrop_badOp) := hw.sub rfl
  simp (maxDischargeDepth := 30) +contextual only [execReservedOpFrame, keptOut_next, State.atPort_keeps w0, (State.bump_keeps (hw := w1)), and_self, kept_foldl, kept_ite, implies_true, hk]

theorem execAckTimer_keeps (hw : Frees z 0x100000) (conn : BitVec 16) (s : State)  (hk : Kept z s) :
    KeptOut z (execAckTimer conn s) := by
  have w0 : Frees z 0x0 := hw.sub rfl
  have w1 : Frees z 0x100000 := hw.sub rfl
  unfold execAckTimer
  repeat' first
    | with_reducible assumption
    | extract_lets
    | intro _
    | split
    | with_reducible apply State.whenLive_keeps w0
    | with_reducible apply State.queueFrame_keeps w1
    | with_reducible apply State.modConn_keeps w1
    | with_reducible apply kept_if
    | with_reducible apply kept_foldl
    | with_reducible apply keptOut_of

theorem execRetransmissionTimeout_keeps (hw : Frees z 0x800000000000000000000100000) (conn : BitVec 16) (s : State)  (hk : Kept z s) :
    KeptOut z (execRetransmissionTimeout conn s) := by
  have w0 : Frees z 0x0 := hw.sub rfl
  have w1 : Frees z 0x800000000000000000000000000 := hw.sub rfl
  have w2 : Frees z 0x100000 := hw.sub rfl
  unfold execRetransmissionTimeout
  repeat' first
    | with_reducible assumption
    | extract_lets
    | intro _
    | split
    | with_reducible apply State.whenLive_keeps w0
    | with_reducible apply State.noteEpoch_keeps w1
    | with_reducible apply State.resend_keeps w2
    | with_reducible apply State.halveWindow_keeps w2
    | with_reducible apply kept_if
    | with_reducible apply kept_foldl
    | with_reducible apply keptOut_of

theorem State.goOn_keeps (hw : Frees z 0x800000000000000000000100000) (s : State) (c : ℕ) (k : Conn)  (hk : Kept z s) :
    Kept z (State.goOn s c k) := by
  have w0 : Frees z 0x100000 := hw.sub rfl
  have w1 : Frees z 0x800000000000000000000000000 := hw.sub rfl
  unfold State.goOn
  repeat' first
    | with_reducible assumption
    | extract_lets
    | intro _
    | split
    | with_reducible apply State.modConn_keeps w0
    | with_reducible apply State.noteEpoch_keeps w1
    | with_reducible apply State.sendConnect_keeps w0
    | with_reducible apply State.resend_keeps w0
    | with_reducible apply kept_if
    | with_reducible apply kept_foldl

theorem execRnrWaitExpiry_keeps (hw : Frees z 0x800000000000000000000100000) (conn : BitVec 16) (s : State)  (hk : Kept z s) :
    KeptOut z (execRnrWaitExpiry conn s) := by
  have w0 : Frees z 0x0 := hw.sub rfl
  have w1 : Frees z 0x800000000000000000000100000 := hw.sub rfl
  unfold execRnrWaitExpiry
  repeat' first
    | with_reducible assumption
    | extract_lets
    | intro _
    | split
    | with_reducible apply State.whenLive_keeps w0
    | with_reducible apply State.goOn_keeps w1
    | with_reducible apply kept_if
    | with_reducible apply kept_foldl
    | with_reducible apply keptOut_of

theorem execRetryAfterExpiry_keeps (hw : Frees z 0x800000000000000000000100000) (conn : BitVec 16) (s : State)  (hk : Kept z s) :
    KeptOut z (execRetryAfterExpiry conn s) := by
  have w0 : Frees z 0x0 := hw.sub rfl
  have w1 : Frees z 0x800000000000000000000100000 := hw.sub rfl
  unfold execRetryAfterExpiry
  repeat' first
    | with_reducible assumption
    | extract_lets
    | intro _
    | split
    | with_reducible apply State.whenLive_keeps w0
    | with_reducible apply State.goOn_keeps w1
    | with_reducible apply kept_if
    | with_reducible apply kept_foldl
    | with_reducible apply keptOut_of

theorem State.contextFetched_keeps (hw : Frees z 0x1800c084002440000023c840eb9b0730000620d9d9df7f5) (s : State) (c : ℕ) (ok : Bool)  (hk : Kept z s) :
    Kept z (State.contextFetched s c ok) := by
  have w0 : Frees z 0x400000000000000000000100014 := hw.sub rfl
  have w1 : Frees z 0x400000000000000000000000000 := hw.sub rfl
  have w2 : Frees z 0x100000 := hw.sub rfl
  have w3 : Frees z 0x800000000000000000000000000 := hw.sub rfl
  have w4 : Frees z 0x80000000000000000000000000000200001040000 := hw.sub rfl
  have w5 : Frees z 0x204000e9800000000020d00101030 := hw.sub rfl
  have w6 : Frees z 0x1800c080002400000002c800eb830730000420d9d9df1f1 := hw.sub rfl
  have w7 : Frees z 0x1800c084002440000023c840eb9b0730000420d9d9df7f1 := hw.sub rfl
  have w8 : Frees z 0x1800c00000240000000100000002010000000000c9c11b1 := hw.sub rfl
  unfold State.contextFetched
  repeat' first
    | with_reducible assumption
    | extract_lets
    | intro _
    | split
    | with_reducible apply State.trimCache_keeps w0
    | with_reducible apply State.noteCtx_keeps w1
    | with_reducible apply State.modConn_keeps w2
    | with_reducible apply State.noteEpoch_keeps w3
    | with_reducible apply State.sequenceHeld_keeps w4
    | with_reducible apply State.settleRegions_keeps w5
    | with_reducible apply State.pump_keeps w6
    | with_reducible apply State.resend_keeps w2
    | with_reducible apply State.takeWaiting_keeps w2
    | with_reducible refine State.takeWaiting_gives w2 (by with_reducible assumption) ?_
    | with_reducible apply State.killConn_keeps w7
    | with_reducible apply State.noteFailure_keeps w8
    | with_reducible apply State.respond_keeps w2
    | with_reducible apply kept_if
    | with_reducible apply kept_foldl

theorem execContextFetchComplete_keeps (hw : Frees z 0x1800c084002440000023c840eb9b0730000620d9d9df7f5) (conn : BitVec 16) (tagOk : Bool) (s : State)  (hk : Kept z s) :
    KeptOut z (execContextFetchComplete conn tagOk s) := by
  have w0 : Frees z 0x0 := hw.sub rfl
  have w1 : Frees z 0x1800c084002440000023c840eb9b0730000620d9d9df7f5 := hw.sub rfl
  simp (maxDischargeDepth := 30) +contextual only [execContextFetchComplete, keptOut_next, State.whenLive_keeps w0, State.contextFetched_keeps w1, and_self, kept_foldl, kept_ite, implies_true, hk]

theorem execPagingStallLimit_keeps (hw : Frees z 0x1800c080002400000022c800eb830730000620d9d9df1f1) (conn : BitVec 16) (s : State)  (hk : Kept z s) :
    KeptOut z (execPagingStallLimit conn s) := by
  have w0 : Frees z 0x0 := hw.sub rfl
  have w1 : Frees z 0x80000000000000000000100000 := hw.sub rfl
  have w2 : Frees z 0x100000 := hw.sub rfl
  have w3 : Frees z 0x800000000000000000000000000 := hw.sub rfl
  have w4 : Frees z 0x80000000000000000000000000000200001040000 := hw.sub rfl
  have w5 : Frees z 0x204000e9800000000020d00101030 := hw.sub rfl
  have w6 : Frees z 0x1800c080002400000002c800eb830730000420d9d9df1f1 := hw.sub rfl
  unfold execPagingStallLimit
  repeat' first
    | with_reducible assumption
    | extract_lets
    | intro _
    | split
    | with_reducible apply State.whenLive_keeps w0
    | with_reducible apply State.retryAfter_keeps w1
    | with_reducible apply State.modConn_keeps w2
    | with_reducible apply State.noteEpoch_keeps w3
    | with_reducible apply State.sequenceHeld_keeps w4
    | with_reducible apply State.settleRegions_keeps w5
    | with_reducible apply State.pump_keeps w6
    | with_reducible apply kept_if
    | with_reducible apply kept_foldl
    | with_reducible apply keptOut_of

theorem execDeadTargetTimeout_keeps (hw : Frees z 0x1800c084002440000023c840eb9b0730000420d9d9df7f1) (conn : BitVec 16) (s : State)  (hk : Kept z s) :
    KeptOut z (execDeadTargetTimeout conn s) := by
  have w0 : Frees z 0x0 := hw.sub rfl
  have w1 : Frees z 0x800000000000000000000000000 := hw.sub rfl
  have w2 : Frees z 0x1800c084002440000023c840eb9b0730000420d9d9df7f1 := hw.sub rfl
  unfold execDeadTargetTimeout
  repeat' first
    | with_reducible assumption
    | extract_lets
    | intro _
    | split
    | with_reducible apply State.whenLive_keeps w0
    | with_reducible apply State.noteEpoch_keeps w1
    | with_reducible apply State.openFails_keeps w2
    | with_reducible apply State.killConn_keeps w2
    | with_reducible apply kept_if
    | with_reducible apply kept_foldl
    | with_reducible apply keptOut_of

theorem State.rebind_keeps (hw : Frees z 0x100000) (s : State)  (hk : Kept z s) :
    Kept z (State.rebind s) := by
  have w0 : Frees z 0x100000 := hw.sub rfl
  unfold State.rebind
  repeat' first
    | with_reducible refine keptOpt_bind ?_
    | with_reducible assumption
    | extract_lets
    | intro _
    | split
    | with_reducible apply State.modConn_keeps w0
    | with_reducible apply State.sendConnect_keeps w0
    | with_reducible apply State.resend_keeps w0
    | with_reducible apply kept_if
    | with_reducible apply kept_foldl

theorem State.moveFrame_keeps (hw : Frees z 0x100000) (s : State) (cls : ℕ) (x : ℕ × Frame)  (hk : Kept z s) :
    Kept z (State.moveFrame s cls x) := by
  have w0 : Frees z 0x100000 := hw.sub rfl
  unfold State.moveFrame
  repeat' first
    | with_reducible assumption
    | extract_lets
    | intro _
    | split
    | with_reducible apply State.enqueue_keeps w0
    | with_reducible apply kept_if
    | with_reducible apply kept_foldl
    | dsimp +zetaDelta only

theorem State.portDown_keeps (hw : Frees z 0x80000000000000000000000000000000001100000) (s : State) (q : ℕ)  (hk : Kept z s) :
    Kept z (State.portDown s q) := by
  have w0 : Frees z 0x80000000000000000000000000000000001000000 := hw.sub rfl
  have w1 : Frees z 0x100000 := hw.sub rfl
  unfold State.portDown
  repeat' first
    | with_reducible refine keptOpt_map ?_
    | with_reducible assumption
    | extract_lets
    | intro _
    | split
    | with_reducible apply State.worked_keeps w0
    | with_reducible apply State.rebind_keeps w1
    | with_reducible apply State.moveFrame_keeps w1
    | with_reducible apply kept_if
    | with_reducible apply kept_foldl
    | with_reducible refine upd_asf w1 ?_

theorem execPortLinkDown_keeps (hw : Frees z 0x80000000000000000000000000000000001100000) (port : Fin 8) (s : State)  (hk : Kept z s) :
    KeptOut z (execPortLinkDown port s) := by
  have w0 : Frees z 0x0 := hw.sub rfl
  have w1 : Frees z 0x80000000000000000000000000000000001100000 := hw.sub rfl
  simp (maxDischargeDepth := 30) +contextual only [execPortLinkDown, keptOut_next, State.whenLive_keeps w0, State.portDown_keeps w1, and_self, kept_foldl, kept_ite, implies_true, hk]

theorem execPortLinkUp_keeps (hw : Frees z 0x80000000000000000000000000000000001100000) (port : Fin 8) (s : State)  (hk : Kept z s) :
    KeptOut z (execPortLinkUp port s) := by
  have w0 : Frees z 0x0 := hw.sub rfl
  have w1 : Frees z 0x80000000000000000000000000000000001000000 := hw.sub rfl
  have w2 : Frees z 0x100000 := hw.sub rfl
  unfold execPortLinkUp
  repeat' first
    | with_reducible assumption
    | extract_lets
    | intro _
    | split
    | with_reducible apply State.whenLive_keeps w0
    | with_reducible apply State.comeUp_keeps w1
    | with_reducible apply State.rebind_keeps w2
    | with_reducible apply kept_if
    | with_reducible apply kept_foldl
    | with_reducible refine upd_asf w2 ?_
    | with_reducible apply keptOut_of

end Sys2Proof.Machine
end

