-- ==== Sys2Proof/Laws/KeepsAsithCmd.lean ====
section
/-! SUPPORT. Every operation of Machine/AsithCmd.lean keeps the queue, the canonical forms and every piece that it does not touch. -/

set_option Elab.async false
set_option linter.unusedSimpArgs false
set_option linter.unusedTactic false
set_option linter.unreachableTactic false

namespace Sys2Proof.Machine

variable {z : Ref}

theorem State.clearFrame_keeps (hw : Frees z 0xeb800000000020800005000) (s : State) (i : ℕ) (k : ℕ)  (hk : Kept z s) :
    KeptOpt z (State.clearFrame s i k) := by
  have w0 : Frees z 0xeb800000000020800005000 := hw.sub rfl
  have w1 : Frees z 0x1000 := hw.sub rfl
  unfold State.clearFrame
  repeat' first
    | with_reducible assumption
    | extract_lets
    | intro _
    | split
    | with_reducible apply State.abandonMove_keeps w0
    | with_reducible apply kept_if
    | with_reducible apply kept_foldl
    | with_reducible refine upd_tiers w1 rfl ?_
    | with_reducible apply keptOpt_none
    | with_reducible apply keptOpt_of
    | with_reducible refine KeptOpt.getD ?_ ?_
theorem State.clearFrame_gives (hw : Frees z 0xeb800000000020800005000) {t : State} {s : State} {i : ℕ} {k : ℕ} (he : State.clearFrame s i k = some t) (hk : Kept z s) : Kept z t :=
  (State.clearFrame_keeps hw s i k hk).get he

theorem State.clearFrames_keeps (hw : Frees z 0xeb800000000020800005000) (s : State) (i : ℕ) (x2 : List ℕ)  (hk : Kept z s) :
    KeptOpt z (State.clearFrames s i x2) := by
  have w0 : Frees z 0xeb800000000020800005000 := hw.sub rfl
  induction x2 generalizing s i with
  | nil =>
    unfold State.clearFrames
    repeat' first
      | with_reducible assumption
      | extract_lets
      | intro _
      | split
      | with_reducible apply State.clearFrame_keeps w0
      | with_reducible refine State.clearFrame_gives w0 (by with_reducible assumption) ?_
      | with_reducible apply kept_if
      | with_reducible apply kept_foldl
      | with_reducible apply keptOpt_none
      | with_reducible apply keptOpt_of
      | with_reducible refine KeptOpt.getD ?_ ?_
  | cons y ys ih =>
    unfold State.clearFrames
    repeat' first
      | with_reducible assumption
      | extract_lets
      | intro _
      | split
      | with_reducible apply ih
      | with_reducible refine KeptOpt.get ?_ (by with_reducible assumption)
      | with_reducible apply State.clearFrame_keeps w0
      | with_reducible refine State.clearFrame_gives w0 (by with_reducible assumption) ?_
      | with_reducible apply kept_if
      | with_reducible apply kept_foldl
      | with_reducible apply keptOpt_none
      | with_reducible apply keptOpt_of
      | with_reducible refine KeptOpt.getD ?_ ?_
theorem State.clearFrames_gives (hw : Frees z 0xeb800000000020800005000) {t : State} {s : State} {i : ℕ} {x2 : List ℕ} (he : State.clearFrames s i x2 = some t) (hk : Kept z s) : Kept z t :=
  (State.clearFrames_keeps hw s i x2 hk).get he

theorem State.addRegion_keeps (hw : Frees z 0xeb800000000020800105000) (s : State) (r : Region)  (hk : Kept z s) :
    Kept z (State.addRegion s r).1 := by
  have w0 : Frees z 0xeb800000000020800005000 := hw.sub rfl
  have w1 : Frees z 0xe9800000000020800000000 := hw.sub rfl
  have w2 : Frees z 0x1000 := hw.sub rfl
  have w3 : Frees z 0x100000 := hw.sub rfl
  unfold State.addRegion
  repeat' first
    | with_reducible assumption
    | extract_lets
    | intro _
    | split
    | with_reducible apply State.clearFrames_keeps w0
    | with_reducible refine State.clearFrames_gives w0 (by with_reducible assumption) ?_
    | with_reducible apply State.notePool_keeps w1
    | with_reducible apply kept_if
    | with_reducible apply kept_foldl
    | with_reducible refine upd_tiers w2 rfl ?_
    | with_reducible refine upd_asf w3 ?_
theorem State.addRegion_gives (hw : Frees z 0xeb800000000020800105000) {t : State} {y0 y1} {s : State} {r : Region} (he : State.addRegion s r = (t, y0, y1)) (hk : Kept z s) : Kept z t :=
  by have k := State.addRegion_keeps hw s r hk; rw [he] at k; exact k

theorem effRegionRegister_keeps (hw : Frees z 0x4000eb800000000020d00105030) (d : Pend) (s : State)  (hk : Kept z s) :
    Kept z (effRegionRegister d s) := by
  have w0 : Frees z 0xeb800000000020800105000 := hw.sub rfl
  have w1 : Frees z 0x400000000000000000500100030 := hw.sub rfl
  simp (maxDischargeDepth := 30) only [effRegionRegister, State.addRegion_keeps w0, State.finish_keeps w1, and_self, hk]

theorem execRegionRegister_keeps (hw : Frees z 0x800000000000004000eb800000000020d01105030) (c : Cmd) (s : State)  (hk : Kept z s) :
    KeptOut z (execRegionRegister c s) := by
  have w0 : Frees z 0x80000000000000400000000000000000501100030 := hw.sub rfl
  have w1 : Frees z 0x4000eb800000000020d00105030 := hw.sub rfl
  unfold execRegionRegister
  repeat' first
    | with_reducible assumption
    | extract_lets
    | intro _
    | split
    | with_reducible apply State.plain_keeps w0
    | with_reducible apply effRegionRegister_keeps w1
    | with_reducible apply kept_if
    | with_reducible apply kept_foldl
    | with_reducible apply keptOut_of

theorem effRegionRevoke_keeps (hw : Frees z 0x204000e9800000000020d00101030) (d : Pend) (s : State)  (hk : Kept z s) :
    Kept z (effRegionRevoke d s) := by
  have w0 : Frees z 0x400000000000000000500100030 := hw.sub rfl
  have w1 : Frees z 0x204000e9800000000020d00101030 := hw.sub rfl
  have w2 : Frees z 0x20 := hw.sub rfl
  have w3 : Frees z 0x100000 := hw.sub rfl
  unfold effRegionRevoke
  repeat' first
    | with_reducible assumption
    | extract_lets
    | intro _
    | split
    | with_reducible apply State.finish_keeps w0
    | with_reducible apply State.settleRegions_keeps w1
    | with_reducible apply State.await_keeps w2
    | with_reducible apply kept_if
    | with_reducible apply kept_foldl
    | with_reducible refine upd_asf w3 ?_

theorem execRegionRevoke_keeps (hw : Frees z 0x800000000000204000e9800000000020d01101030) (c : Cmd) (s : State)  (hk : Kept z s) :
    KeptOut z (execRegionRevoke c s) := by
  have w0 : Frees z 0x80000000000000400000000000000000501100030 := hw.sub rfl
  have w1 : Frees z 0x204000e9800000000020d00101030 := hw.sub rfl
  unfold execRegionRevoke
  repeat' first
    | with_reducible assumption
    | extract_lets
    | intro _
    | split
    | with_reducible apply State.plain_keeps w0
    | with_reducible apply effRegionRevoke_keeps w1
    | with_reducible apply kept_if
    | with_reducible apply kept_foldl
    | with_reducible apply keptOut_of

theorem effConnOpen_keeps (hw : Frees z 0x400000000000000000500100034) (d : Pend) (s : State)  (hk : Kept z s) :
    Kept z (effConnOpen d s) := by
  have w0 : Frees z 0x400000000000000000500100030 := hw.sub rfl
  have w1 : Frees z 0x100000 := hw.sub rfl
  have w2 : Frees z 0x20 := hw.sub rfl
  have w3 : Frees z 0x400000000000000000000100014 := hw.sub rfl
  have w4 : Frees z 0x400000000000000000000100000 := hw.sub rfl
  unfold effConnOpen
  repeat' first
    | with_reducible refine keptOpt_bind ?_
    | with_reducible refine kept_elim ?_ ?_
    | with_reducible assumption
    | extract_lets
    | intro _
    | split
    | with_reducible apply State.finish_keeps w0
    | with_reducible apply State.sendConnect_keeps w1
    | with_reducible apply State.await_keeps w2
    | with_reducible apply State.trimCache_keeps w3
    | with_reducible apply State.setConn_keeps w4
    | with_reducible apply kept_if
    | with_reducible apply kept_foldl

theorem execConnOpen_keeps (hw : Frees z 0x80000000000000400000000000000000501100034) (c : Cmd) (s : State)  (hk : Kept z s) :
    KeptOut z (execConnOpen c s) := by
  have w0 : Frees z 0x80000000000000400000000000000000501100030 := hw.sub rfl
  have w1 : Frees z 0x400000000000000000500100034 := hw.sub rfl
  unfold execConnOpen
  repeat' first
    | with_reducible assumption
    | extract_lets
    | intro _
    | split
    | with_reducible apply State.plain_keeps w0
    | with_reducible apply effConnOpen_keeps w1
    | with_reducible apply kept_if
    | with_reducible apply kept_foldl
    | with_reducible apply keptOut_of

theorem State.closeConn_keeps (hw : Frees z 0x400000000000000000500100030) (s : State) (c : ℕ) (k : Conn) (cmd : Option ℕ)  (hk : Kept z s) :
    Kept z (State.closeConn s c k cmd) := by
  have w0 : Frees z 0x400000000000000000500100030 := hw.sub rfl
  have w1 : Frees z 0x400000000000000000000100000 := hw.sub rfl
  have w2 : Frees z 0x20 := hw.sub rfl
  have w3 : Frees z 0x100000 := hw.sub rfl
  unfold State.closeConn
  repeat' first
    | with_reducible assumption
    | extract_lets
    | intro _
    | split
    | with_reducible apply State.finish_keeps w0
    | with_reducible apply State.dropConn_keeps w1
    | with_reducible apply State.settleClose_keeps w0
    | with_reducible apply State.await_keeps w2
    | with_reducible apply State.modConn_keeps w3
    | with_reducible apply kept_if
    | with_reducible apply kept_foldl

theorem effConnClose_keeps (hw : Frees z 0x400000000000000000500100030) (d : Pend) (s : State)  (hk : Kept z s) :
    Kept z (effConnClose d s) := by
  have w0 : Frees z 0x400000000000000000500100030 := hw.sub rfl
  unfold effConnClose
  repeat' first
    | with_reducible assumption
    | extract_lets
    | intro _
    | split
    | with_reducible apply State.finish_keeps w0
    | with_reducible apply State.closeConn_keeps w0
    | with_reducible apply kept_if
    | with_reducible apply kept_foldl

theorem execConnClose_keeps (hw : Frees z 0x80000000000000400000000000000000501100030) (c : Cmd) (s : State)  (hk : Kept z s) :
    KeptOut z (execConnClose c s) := by
  have w0 : Frees z 0x80000000000000400000000000000000501100030 := hw.sub rfl
  have w1 : Frees z 0x400000000000000000500100030 := hw.sub rfl
  unfold execConnClose
  repeat' first
    | with_reducible assumption
    | extract_lets
    | intro _
    | split
    | with_reducible apply State.plain_keeps w0
    | with_reducible apply effConnClose_keeps w1
    | with_reducible apply kept_if
    | with_reducible apply kept_foldl
    | with_reducible apply keptOut_of

theorem State.installMap_keeps (hw : Frees z 0x1800c084002440000023c840eb9b0730000420d9d9df7f1) (s : State) (e : ℕ) (map : AMap MapEntry)  (hk : Kept z s) :
    Kept z (State.installMap s e map) := by
  have w0 : Frees z (Field.bit asfEpoch_prevLive) := hw.sub rfl
  have w1 : Frees z (Field.bit asfEpoch_installed) := hw.sub rfl
  have w2 : Frees z (Field.bit resStat_fenced) := hw.sub rfl
  have w3 : Frees z (Field.bit asfEpoch_previous) := hw.sub rfl
  have w4 : Frees z (Field.bit asfEpoch_current) := hw.sub rfl
  have w5 : Frees z 0x1800c084002440000023c840eb9b0730000420d9d9df7f1 := hw.sub rfl
  have w6 : Frees z 0x800000000000000000000000000 := hw.sub rfl
  have w7 : Frees z 0x100000 := hw.sub rfl
  unfold State.installMap
  repeat' first
    | with_reducible refine keptOpt_map ?_
    | with_reducible assumption
    | extract_lets
    | intro _
    | split
    | with_reducible apply State.setFlag_keeps (hw := w0)
    | with_reducible apply State.setFlag_keeps (hw := w1)
    | with_reducible apply State.setFlag_keeps (hw := w2)
    | with_reducible apply State.setFld_keeps (hw := w3)
    | with_reducible apply State.setFld_keeps (hw := w4)
    | with_reducible apply State.openFails_keeps w5
    | with_reducible apply State.killConn_keeps w5
    | with_reducible apply State.noteEpoch_keeps w6
    | with_reducible apply State.rebind_keeps w7
    | with_reducible apply kept_if
    | with_reducible apply kept_foldl
    | with_reducible refine upd_asf w7 ?_

theorem State.supersede_keeps (hw : Frees z 0x900000) (s : State)  (hk : Kept z s) :
    Kept z (State.supersede s) := by
  have w0 : Frees z 0x900000 := hw.sub rfl
  simp (maxDischargeDepth := 30) only [State.supersede, upd_asf_res w0, and_self, hk]

theorem effEpochSet_keeps (hw : Frees z 0x1800c084002440000023c840eb9b0730000420d9d9df7f1) (map : List (BitVec 256)) (d : Pend) (s : State)  (hk : Kept z s) :
    Kept z (effEpochSet map d s) := by
  have w0 : Frees z 0x400000000000000000500100030 := hw.sub rfl
  have w1 : Frees z 0x10 := hw.sub rfl
  have w2 : Frees z 0x900000 := hw.sub rfl
  have w3 : Frees z 0x1800c084002440000023c840eb9b0730000420d9d9df7f1 := hw.sub rfl
  unfold effEpochSet
  repeat' first
    | with_reducible refine keptOpt_map ?_
    | with_reducible assumption
    | extract_lets
    | intro _
    | split
    | with_reducible apply State.finish_keeps w0
    | with_reducible apply State.askSlices_keeps w1
    | with_reducible apply State.supersede_keeps w2
    | with_reducible apply State.installMap_keeps w3
    | with_reducible apply kept_if
    | with_reducible apply kept_foldl

theorem execEpochSet_keeps (hw : Frees z 0x1800c084002440000023c840eb9b0730000420d9d9df7f1) (c : Cmd) (map : List (BitVec 256)) (s : State)  (hk : Kept z s) :
    KeptOut z (execEpochSet c map s) := by
  have w0 : Frees z 0x80000000000000400000000000000000501100030 := hw.sub rfl
  have w1 : Frees z 0x1800c084002440000023c840eb9b0730000420d9d9df7f1 := hw.sub rfl
  unfold execEpochSet
  repeat' first
    | with_reducible assumption
    | extract_lets
    | intro _
    | split
    | with_reducible apply State.command_keeps w0
    | with_reducible apply effEpochSet_keeps w1
    | with_reducible apply kept_if
    | with_reducible apply kept_foldl
    | with_reducible apply keptOut_of

theorem State.deriveMap_keeps (hw : Frees z 0x1800c084002440000023c840eb9b0730000420d9d9df7f1) (s : State) (n : ℕ) (e : ℕ)  (hk : Kept z s) :
    Kept z (State.deriveMap s n e) := by
  have w0 : Frees z 0x1800c084002440000023c840eb9b0730000420d9d9df7f1 := hw.sub rfl
  have w1 : Frees z 0x800000 := hw.sub rfl
  unfold State.deriveMap
  repeat' first
    | with_reducible refine keptOpt_map ?_
    | with_reducible assumption
    | extract_lets
    | intro _
    | split
    | with_reducible apply State.installMap_keeps w0
    | with_reducible apply kept_if
    | with_reducible apply kept_foldl
    | with_reducible refine upd_res w1 ?_

theorem State.derivePending_keeps (hw : Frees z 0x1800c084002440000023c840eb9b0730000420d9d9df7f1) (s : State)  (hk : Kept z s) :
    Kept z (State.derivePending s) := by
  have w0 : Frees z 0x1800c084002440000023c840eb9b0730000420d9d9df7f1 := hw.sub rfl
  have w1 : Frees z 0x800000 := hw.sub rfl
  unfold State.derivePending
  repeat' first
    | with_reducible assumption
    | extract_lets
    | intro _
    | split
    | with_reducible apply State.deriveMap_keeps w0
    | with_reducible apply kept_if
    | with_reducible apply kept_foldl
    | with_reducible refine upd_res w1 ?_

theorem execOldEpochExpire_keeps (hw : Frees z 0x1800c084002440000023c840eb9b0730000420d9d9df7f1) (s : State)  (hk : Kept z s) :
    KeptOut z (execOldEpochExpire s) := by
  have w0 : Frees z 0x0 := hw.sub rfl
  have w1 : Frees z 0x1800c084002440000023c840eb9b0730000420d9d9df7f1 := hw.sub rfl
  have w2 : Frees z 0x800000000000000000000000000 := hw.sub rfl
  have w3 : Frees z (Field.bit asfEpoch_prevLive) := hw.sub rfl
  have w4 : Frees z 0x100000 := hw.sub rfl
  unfold execOldEpochExpire
  repeat' first
    | with_reducible assumption
    | extract_lets
    | intro _
    | split
    | with_reducible apply State.whenLive_keeps w0
    | with_reducible apply State.derivePending_keeps w1
    | with_reducible apply State.noteEpoch_keeps w2
    | with_reducible apply State.setFlag_keeps (hw := w3)
    | with_reducible apply kept_if
    | with_reducible apply kept_foldl
    | with_reducible refine upd_asf w4 ?_
    | with_reducible apply keptOut_of

end Sys2Proof.Machine
end

