-- ==== Sys2Proof/Laws/KeepsSlices.lean ====
section
/-! SUPPORT. Every operation of Machine/Slices.lean keeps the queue, the canonical forms and every piece that it does not touch. -/

set_option Elab.async false
set_option linter.unusedSimpArgs false
set_option linter.unusedTactic false
set_option linter.unreachableTactic false

namespace Sys2Proof.Machine

variable {z : Ref}

theorem State.clearDram_keeps (hw : Frees z 0x8000) (s : State) (base : ℕ) (len : ℕ)  (hk : Kept z s) :
    Kept z (State.clearDram s base len) := by
  have w0 : Frees z 0x8000 := hw.sub rfl
  unfold State.clearDram
  repeat' first
    | with_reducible assumption
    | with_reducible exact kept_dram (by with_reducible assumption)
    | with_reducible exact kept_bytes (by with_reducible assumption)
    | with_reducible exact kept_staging (by with_reducible assumption)
    | with_reducible exact keepCells_nil
    | with_reducible apply keepRegs_filter
    | with_reducible apply keepCells_filter
    | extract_lets
    | intro _
    | split
    | with_reducible apply kept_if
    | with_reducible apply kept_foldl
    | with_reducible refine upd_dram w0 ?_ ?_

theorem State.regionBase_keeps (hw : Frees z 0x4) (s : State) (len : ℕ)  (hk : Kept z s) :
    Kept z (State.regionBase s len).2 := by
  have w0 : Frees z 0x4 := hw.sub rfl
  simp (maxDischargeDepth := 30) only [State.regionBase, upd_freeCtr w0, and_self, hk]
theorem State.regionBase_gives (hw : Frees z 0x4) {t : State} {y0} {s : State} {len : ℕ} (he : State.regionBase s len = (y0, t)) (hk : Kept z s) : Kept z t :=
  by have k := State.regionBase_keeps hw s len hk; rw [he] at k; exact k

theorem State.tellSlice_keeps (hw : Frees z 0x10) (s : State) (home : ℕ) (x : Slice)  (hk : Kept z s) :
    Kept z (State.tellSlice s home x) := by
  have w0 : Frees z 0x10 := hw.sub rfl
  simp (maxDischargeDepth := 30) only [State.tellSlice, State.send_keeps w0, and_self, hk]

theorem State.grantSlice_keeps (hw : Frees z 0x800000000000eb80000000002080091f014) (s : State) (home : ℕ)  (hk : Kept z s) :
    Kept z (State.grantSlice s home) := by
  have w0 : Frees z 0x10 := hw.sub rfl
  have w1 : Frees z 0x4 := hw.sub rfl
  have w2 : Frees z 0xeb800000000020800105000 := hw.sub rfl
  have w3 : Frees z 0x1b000 := hw.sub rfl
  have w4 : Frees z 0x8000 := hw.sub rfl
  have w5 : Frees z (Field.bit resMirrorCfg_slicesUsed) := hw.sub rfl
  have w6 : Frees z 0x800000 := hw.sub rfl
  unfold State.grantSlice
  repeat' first
    | with_reducible assumption
    | extract_lets
    | intro _
    | split
    | with_reducible apply State.tellSlice_keeps w0
    | with_reducible apply State.regionBase_keeps w1
    | with_reducible refine State.regionBase_gives w1 (by with_reducible assumption) ?_
    | with_reducible apply State.addRegion_keeps w2
    | with_reducible refine State.addRegion_gives w2 (by with_reducible assumption) ?_
    | with_reducible apply State.writeDram_keeps w3
    | with_reducible apply State.clearDram_keeps w4
    | with_reducible apply State.setFld_keeps (hw := w5)
    | with_reducible apply kept_if
    | with_reducible apply kept_foldl
    | with_reducible refine upd_res w6 ?_

theorem execSliceRequest_keeps (hw : Frees z 0x800000000000eb80000000002080091f014) (home : BitVec 16) (s : State)  (hk : Kept z s) :
    KeptOut z (execSliceRequest home s) := by
  have w0 : Frees z 0x0 := hw.sub rfl
  have w1 : Frees z 0x800000000000eb80000000002080091f014 := hw.sub rfl
  unfold execSliceRequest
  repeat' first
    | with_reducible assumption
    | extract_lets
    | intro _
    | split
    | with_reducible apply State.whenLive_keeps w0
    | with_reducible apply State.grantSlice_keeps w1
    | with_reducible apply kept_if
    | with_reducible apply kept_foldl
    | with_reducible apply keptOut_of

theorem State.revokeSlice_keeps (hw : Frees z 0x101000) (s : State) (home : ℕ) (x : Slice)  (hk : Kept z s) :
    Kept z (State.revokeSlice s home x) := by
  have w0 : Frees z 0x101000 := hw.sub rfl
  unfold State.revokeSlice
  repeat' first
    | with_reducible assumption
    | extract_lets
    | intro _
    | split
    | with_reducible apply kept_if
    | with_reducible apply kept_foldl
    | with_reducible refine upd_tiers_asf w0 rfl ?_

theorem State.shipPromoted_keeps (hw : Frees z 0x400000000000000000400900030) (s : State) (home : ℕ) (h : ℕ) (q : Seq)  (hk : Kept z s) :
    Kept z (State.shipPromoted s home h q) := by
  have w0 : Frees z 0x400000000000000000400900030 := hw.sub rfl
  unfold State.shipPromoted
  repeat' first
    | with_reducible assumption
    | extract_lets
    | intro _
    | split
    | with_reducible apply State.keepJournal_keeps w0
    | with_reducible apply State.shipRecordIn_keeps w0
    | with_reducible apply kept_if
    | with_reducible apply kept_foldl

theorem State.takePromoted_keeps (hw : Frees z 0x4000000000000000004009000f0) (s : State) (home : ℕ) (h : ℕ) (q : Seq)  (hk : Kept z s) :
    Kept z (State.takePromoted s home h q) := by
  have w0 : Frees z 0x400000000000000000400900030 := hw.sub rfl
  have w1 : Frees z 0x40 := hw.sub rfl
  have w2 : Frees z 0x80 := hw.sub rfl
  have w3 : Frees z 0x800000 := hw.sub rfl
  unfold State.takePromoted
  repeat' first
    | with_reducible assumption
    | extract_lets
    | intro _
    | split
    | with_reducible apply State.shipPromoted_keeps w0
    | with_reducible apply State.takeHandle_keeps w1
    | with_reducible refine State.takeHandle_gives w1 (by with_reducible assumption) ?_
    | with_reducible apply State.openSeq_keeps w2
    | with_reducible apply kept_if
    | with_reducible apply kept_foldl
    | with_reducible refine upd_res w3 ?_

theorem State.sendMember_keeps (hw : Frees z 0x10) (s : State) (spare : ℕ) (x : Slice)  (hk : Kept z s) :
    Kept z (State.sendMember s spare x) := by
  have w0 : Frees z 0x10 := hw.sub rfl
  unfold State.sendMember
  repeat' first
    | with_reducible assumption
    | extract_lets
    | intro _
    | split
    | with_reducible apply State.send_keeps w0
    | with_reducible apply kept_if
    | with_reducible apply kept_foldl

theorem State.claimSlice_keeps (hw : Frees z 0x40000000000000000040091b0f0) (s : State) (home : ℕ) (x : Slice)  (hk : Kept z s) :
    Kept z (State.claimSlice s home x) := by
  have w0 : Frees z 0x1b000 := hw.sub rfl
  have w1 : Frees z 0x101000 := hw.sub rfl
  have w2 : Frees z 0x4000000000000000004009000f0 := hw.sub rfl
  have w3 : Frees z 0x800000 := hw.sub rfl
  unfold State.claimSlice
  repeat' first
    | with_reducible assumption
    | extract_lets
    | intro _
    | split
    | with_reducible apply State.writeDram_keeps w0
    | with_reducible apply State.revokeSlice_keeps w1
    | with_reducible apply State.takePromoted_keeps w2
    | with_reducible apply kept_if
    | with_reducible apply kept_foldl
    | with_reducible refine upd_res w3 ?_

theorem State.tellManager_keeps (hw : Frees z 0x10) (s : State) (home : ℕ) (x : Slice)  (hk : Kept z s) :
    Kept z (State.tellManager s home x) := by
  have w0 : Frees z 0x10 := hw.sub rfl
  unfold State.tellManager
  repeat' first
    | with_reducible assumption
    | extract_lets
    | intro _
    | split
    | with_reducible apply State.send_keeps w0
    | with_reducible apply kept_if
    | with_reducible apply kept_foldl

theorem State.promote_keeps (hw : Frees z 0x40000000000000000040091b0f0) (s : State) (home : ℕ)  (hk : Kept z s) :
    Kept z (State.promote s home) := by
  have w0 : Frees z 0x10 := hw.sub rfl
  have w1 : Frees z 0x40000000000000000040091b0f0 := hw.sub rfl
  unfold State.promote
  repeat' first
    | with_reducible assumption
    | extract_lets
    | intro _
    | split
    | with_reducible apply State.tellManager_keeps w0
    | with_reducible apply State.claimSlice_keeps w1
    | with_reducible apply kept_if
    | with_reducible apply kept_foldl

theorem State.modPromoted_keeps (hw : Frees z 0x800080) (s : State) (h : ℕ) (f : Seq → Seq)  (hk : Kept z s) :
    Kept z (State.modPromoted s h f) := by
  have w0 : Frees z 0x80 := hw.sub rfl
  have w1 : Frees z 0x800000 := hw.sub rfl
  unfold State.modPromoted
  repeat' first
    | with_reducible assumption
    | extract_lets
    | intro _
    | split
    | with_reducible apply State.modSeq_keeps w0
    | with_reducible apply kept_if
    | with_reducible apply kept_foldl
    | with_reducible refine upd_res w1 ?_

theorem State.recastOffer_keeps (hw : Frees z 0x400000000000000000000900090) (s : State) (h : ℕ) (spare : ℕ) (q : Seq)  (hk : Kept z s) :
    Kept z (State.recastOffer s h spare q) := by
  have w0 : Frees z 0x800080 := hw.sub rfl
  have w1 : Frees z 0x400000000000000000000100010 := hw.sub rfl
  unfold State.recastOffer
  repeat' first
    | with_reducible assumption
    | extract_lets
    | intro _
    | split
    | with_reducible apply State.modPromoted_keeps w0
    | with_reducible apply State.writeBulk_keeps w1
    | with_reducible apply kept_if
    | with_reducible apply kept_foldl

theorem State.recastPage_keeps (hw : Frees z 0x400000000000000000000900090) (s : State) (h : ℕ) (q : Seq) (m : Move)  (hk : Kept z s) :
    Kept z (State.recastPage s h q m) := by
  have w0 : Frees z 0x800080 := hw.sub rfl
  have w1 : Frees z 0x400000000000000000000100010 := hw.sub rfl
  unfold State.recastPage
  repeat' first
    | with_reducible assumption
    | extract_lets
    | intro _
    | split
    | with_reducible apply State.modPromoted_keeps w0
    | with_reducible apply State.writeBulk_keeps w1
    | with_reducible apply kept_if
    | with_reducible apply kept_foldl

theorem State.recastStep_keeps (hw : Frees z 0x400000000000000000000900090) (s : State) (h : ℕ)  (hk : Kept z s) :
    Kept z (State.recastStep s h) := by
  have w0 : Frees z 0x400000000000000000000900090 := hw.sub rfl
  unfold State.recastStep
  repeat' first
    | with_reducible assumption
    | extract_lets
    | intro _
    | split
    | with_reducible apply State.recastOffer_keeps w0
    | with_reducible apply State.recastPage_keeps w0
    | with_reducible apply kept_if
    | with_reducible apply kept_foldl

theorem State.noteRecast_keeps (hw : Frees z 0x1c00000000000e9800000000020800801000) (s : State) (home : ℕ)  (hk : Kept z s) :
    Kept z (State.noteRecast s home) := by
  have w0 : Frees z (Field.bit resRecast_seqLeft) := hw.sub rfl
  have w1 : Frees z (Field.bit resMirrorCfg_slicesUsed) := hw.sub rfl
  have w2 : Frees z 0x1000 := hw.sub rfl
  have w3 : Frees z 0xe9800000000020800000000 := hw.sub rfl
  have w4 : Frees z (Field.bit resStat_recastSource) := hw.sub rfl
  have w5 : Frees z 0x801000 := hw.sub rfl
  unfold State.noteRecast
  repeat' first
    | with_reducible assumption
    | extract_lets
    | intro _
    | split
    | with_reducible apply State.setFld_keeps (hw := w0)
    | with_reducible apply State.setFld_keeps (hw := w1)
    | with_reducible apply State.markFrames_keeps w2
    | with_reducible apply State.notePool_keeps w3
    | with_reducible apply State.setFlag_keeps (hw := w4)
    | with_reducible apply kept_if
    | with_reducible apply kept_foldl
    | with_reducible refine upd_tiers_res w5 rfl ?_

theorem State.moveSlots_keeps (hw : Frees z 0x1b000) (s : State) (from_ : Slice) (to_ : Slice) (newH : ℕ) (q : Seq)  (hk : Kept z s) :
    Kept z (State.moveSlots s from_ to_ newH q) := by
  have w0 : Frees z 0x1b000 := hw.sub rfl
  unfold State.moveSlots
  repeat' first
    | with_reducible refine keptOpt_map ?_
    | with_reducible assumption
    | extract_lets
    | intro _
    | split
    | with_reducible apply State.writeDram_keeps w0
    | with_reducible apply kept_if
    | with_reducible apply kept_foldl

theorem State.mirrorFor_keeps (hw : Frees z 0x800000000000eb80000000002080091f014) (s : State) (spare : ℕ) (newH : ℕ) (q : Seq)  (hk : Kept z s) :
    Kept z (State.mirrorFor s spare newH q) := by
  have w0 : Frees z 0x800000000000eb80000000002080091f014 := hw.sub rfl
  have w1 : Frees z 0x1b000 := hw.sub rfl
  have w2 : Frees z 0x800000 := hw.sub rfl
  unfold State.mirrorFor
  repeat' first
    | with_reducible assumption
    | extract_lets
    | intro _
    | split
    | with_reducible apply State.grantSlice_keeps w0
    | with_reducible apply State.moveSlots_keeps w1
    | with_reducible apply State.writeDram_keeps w1
    | with_reducible apply kept_if
    | with_reducible apply kept_foldl
    | with_reducible refine upd_res w2 ?_

theorem State.dropPromoted_keeps (hw : Frees z 0x4000e9800000000020d009071f0) (s : State) (h : ℕ) (q : Seq) (m : Move) (newH : ℕ)  (hk : Kept z s) :
    Kept z (State.dropPromoted s h q m newH) := by
  have w0 : Frees z 0x4000e9800000000020d009071f0 := hw.sub rfl
  have w1 : Frees z 0x800000 := hw.sub rfl
  unfold State.dropPromoted
  repeat' first
    | with_reducible assumption
    | extract_lets
    | intro _
    | split
    | with_reducible apply State.moveDone_keeps w0
    | with_reducible apply kept_if
    | with_reducible apply kept_foldl
    | with_reducible refine upd_res w1 ?_

end Sys2Proof.Machine
end

