-- ==== Sys2Proof/Laws/KeepsFabric.lean ====
section
/-! SUPPORT. Every operation of Machine/Fabric.lean keeps the queue, the canonical forms and every piece that it does not touch. -/

set_option Elab.async false
set_option linter.unusedSimpArgs false
set_option linter.unusedTactic false
set_option linter.unreachableTactic false

namespace Sys2Proof.Machine

variable {z : Ref}

theorem State.payBuckets_keeps (hw : Frees z 0x400000) (s : State) (port : ℕ) (cls : ℕ) (group : ℕ) (bytes : ℕ)  (hk : Kept z s) :
    Kept z (State.payBuckets s port cls group bytes) := by
  have w0 : Frees z 0x400000 := hw.sub rfl
  unfold State.payBuckets
  repeat' first
    | with_reducible assumption
    | extract_lets
    | intro _
    | split
    | with_reducible apply kept_if
    | with_reducible apply kept_foldl
    | with_reducible refine upd_shp w0 ?_

theorem State.noteHeld_keeps (hw : Frees z 0x1000000000000000000000000000400000) (s : State) (port : ℕ) (cls : ℕ)  (hk : Kept z s) :
    Kept z (State.noteHeld s port cls) := by
  have w0 : Frees z (Field.bit shpGateStat_heldFit) := hw.sub rfl
  have w1 : Frees z 0x400000 := hw.sub rfl
  unfold State.noteHeld
  repeat' first
    | with_reducible assumption
    | extract_lets
    | intro _
    | split
    | with_reducible apply State.bump_keeps (hw := w0)
    | with_reducible apply kept_if
    | with_reducible apply kept_foldl
    | with_reducible refine upd_shp w1 ?_

theorem State.begin_keeps (hw : Frees z 0x300000) (s : State) (port : ℕ) (f : Frame)  (hk : Kept z s) :
    Kept z (State.begin s port f) := by
  have w0 : Frees z 0x100000 := hw.sub rfl
  have w1 : Frees z 0x200000 := hw.sub rfl
  unfold State.begin
  repeat' first
    | with_reducible refine keptOpt_map ?_
    | with_reducible assumption
    | extract_lets
    | intro _
    | split
    | with_reducible apply State.modConn_keeps w0
    | with_reducible apply kept_if
    | with_reducible apply kept_foldl
    | with_reducible refine upd_tmb w1 ?_

theorem State.startFrame_keeps (hw : Frees z 0x80000000000000800000000000000000001700010) (s : State) (port : ℕ) (cls : ℕ) (x : ℕ × Frame)  (hk : Kept z s) :
    Kept z (State.startFrame s port cls x) := by
  have w0 : Frees z 0x80000000000000000000000000000000001000000 := hw.sub rfl
  have w1 : Frees z 0x400000 := hw.sub rfl
  have w2 : Frees z 0x1000000 := hw.sub rfl
  have w3 : Frees z 0x800000000000000000000000000 := hw.sub rfl
  have w4 : Frees z 0x10 := hw.sub rfl
  have w5 : Frees z 0x300000 := hw.sub rfl
  have w6 : Frees z 0x500000 := hw.sub rfl
  unfold State.startFrame
  repeat' first
    | with_reducible assumption
    | extract_lets
    | intro _
    | split
    | with_reducible apply State.rouse_keeps w0
    | with_reducible apply State.payBuckets_keeps w1
    | with_reducible apply State.workedUntil_keeps w2
    | with_reducible apply State.noteEpoch_keeps w3
    | with_reducible apply State.emit_keeps w4
    | with_reducible apply State.begin_keeps w5
    | with_reducible apply kept_if
    | with_reducible apply kept_foldl
    | with_reducible refine upd_asf_shp w6 ?_

theorem State.chooseFrame_keeps (hw : Frees z 0x80000001000000800000000000000000001700010) (s : State) (port : ℕ) (x2 : List ℕ)  (hk : Kept z s) :
    Kept z (State.chooseFrame s port x2) := by
  have w0 : Frees z 0x1000000000000000000000000000400000 := hw.sub rfl
  have w1 : Frees z 0x80000000000000800000000000000000001700010 := hw.sub rfl
  induction x2 generalizing s port with
  | nil =>
    unfold State.chooseFrame
    repeat' first
      | with_reducible assumption
      | extract_lets
      | intro _
      | split
      | with_reducible apply State.noteHeld_keeps w0
      | with_reducible apply State.startFrame_keeps w1
      | with_reducible apply kept_if
      | with_reducible apply kept_foldl
  | cons y ys ih =>
    unfold State.chooseFrame
    repeat' first
      | with_reducible assumption
      | extract_lets
      | intro _
      | split
      | with_reducible apply ih
      | with_reducible refine KeptOpt.get ?_ (by with_reducible assumption)
      | with_reducible apply State.noteHeld_keeps w0
      | with_reducible apply State.startFrame_keeps w1
      | with_reducible apply kept_if
      | with_reducible apply kept_foldl

theorem execFrameTxStart_keeps (hw : Frees z 0x80000001000000800000000000000000001700010) (port : Fin 8) (s : State)  (hk : Kept z s) :
    KeptOut z (execFrameTxStart port s) := by
  have w0 : Frees z 0x0 := hw.sub rfl
  have w1 : Frees z 0x80000001000000800000000000000000001700010 := hw.sub rfl
  unfold execFrameTxStart
  repeat' first
    | with_reducible assumption
    | extract_lets
    | intro _
    | split
    | with_reducible apply State.whenLive_keeps w0
    | with_reducible apply State.chooseFrame_keeps w1
    | with_reducible apply kept_if
    | with_reducible apply kept_foldl
    | with_reducible apply keptOut_of

theorem State.windowIssue_keeps (hw : Frees z 0x1800c084002440000023c840eb9b0730000420d9d9df7f1) (s : State) (fn : ℕ) (i : ℕ) (p : Purpose) (f : ℕ → State → State)  (hk : Kept z s) (hk_f : ∀ y0 y1, Kept z y1 → Kept z (f y0 y1)) :
    Kept z (State.windowIssue s fn i p f) := by
  have w0 : Frees z 0x1800c084002440000023c840eb9b0730000420d9d9df7f1 := hw.sub rfl
  have w1 : Frees z 0x100000 := hw.sub rfl
  unfold State.windowIssue
  repeat' first
    | with_reducible assumption
    | extract_lets
    | intro _
    | split
    | with_reducible apply State.tellFailures_keeps w0
    | with_reducible apply State.failLater_keeps w1
    | with_reducible apply hk_f
    | with_reducible apply kept_if
    | with_reducible apply kept_foldl

theorem State.windowWrite_keeps (hw : Frees z 0x1800c084002440000023c840eb9b0730000420d9d9df7f1) (s : State) (fn : ℕ) (w : ℕ) (off : ℕ) (data : List (BitVec 8))  (hk : Kept z s) :
    Kept z (State.windowWrite s fn w off data) := by
  have w0 : Frees z 0x1800c084002440000023c840eb9b0730000420d9d9df7f1 := hw.sub rfl
  have w1 : Frees z 0x400000000000000000000100010 := hw.sub rfl
  unfold State.windowWrite
  repeat' first
    | with_reducible assumption
    | extract_lets
    | intro _
    | split
    | with_reducible apply State.windowIssue_keeps w0
    | with_reducible apply State.issueWrite_keeps w1
    | with_reducible apply kept_if
    | with_reducible apply kept_foldl

theorem execHostWindowWrite_keeps (hw : Frees z 0x1800c084002440000023c840eb9b0730000420d9d9df7f1) (fn : Fn) (w : Fin 16) (off : BitVec 26) (data : List (BitVec 8)) (s : State)  (hk : Kept z s) :
    KeptOut z (execHostWindowWrite fn w off data s) := by
  have w0 : Frees z 0x0 := hw.sub rfl
  have w1 : Frees z 0x1800c084002440000023c840eb9b0730000420d9d9df7f1 := hw.sub rfl
  unfold execHostWindowWrite
  repeat' first
    | with_reducible assumption
    | extract_lets
    | intro _
    | split
    | with_reducible apply State.whenLive_keeps w0
    | with_reducible apply State.windowWrite_keeps w1
    | with_reducible apply kept_if
    | with_reducible apply kept_foldl
    | with_reducible apply keptOut_of

theorem State.windowRead_keeps (hw : Frees z 0x1800c084002440000023c840eb9b0730000420d9d9df7f1) (s : State) (fn : ℕ) (w : ℕ) (off : ℕ) (len : ℕ)  (hk : Kept z s) :
    Kept z (State.windowRead s fn w off len) := by
  have w0 : Frees z 0x10 := hw.sub rfl
  have w1 : Frees z 0x1800c084002440000023c840eb9b0730000420d9d9df7f1 := hw.sub rfl
  have w2 : Frees z 0x400000000000000000000100010 := hw.sub rfl
  unfold State.windowRead
  repeat' first
    | with_reducible assumption
    | extract_lets
    | intro _
    | split
    | with_reducible apply State.emit_keeps w0
    | with_reducible apply State.windowIssue_keeps w1
    | with_reducible apply State.issueRead_keeps w2
    | with_reducible apply kept_if
    | with_reducible apply kept_foldl

theorem execHostWindowRead_keeps (hw : Frees z 0x1800c084002440000023c840eb9b0730000420d9d9df7f1) (fn : Fn) (w : Fin 16) (off : BitVec 26) (len : ℕ) (s : State)  (hk : Kept z s) :
    KeptOut z (execHostWindowRead fn w off len s) := by
  have w0 : Frees z 0x0 := hw.sub rfl
  have w1 : Frees z 0x1800c084002440000023c840eb9b0730000420d9d9df7f1 := hw.sub rfl
  unfold execHostWindowRead
  repeat' first
    | with_reducible assumption
    | extract_lets
    | intro _
    | split
    | with_reducible apply State.whenLive_keeps w0
    | with_reducible apply State.windowRead_keeps w1
    | with_reducible apply kept_if
    | with_reducible apply kept_foldl
    | with_reducible apply keptOut_of

theorem State.windowAtomic_keeps (hw : Frees z 0x1800c084002440000023c840eb9b0730000420d9d9df7f1) (s : State) (fn : ℕ) (w : ℕ) (off : ℕ) (op : AtomicOp)  (hk : Kept z s) :
    Kept z (State.windowAtomic s fn w off op) := by
  have w0 : Frees z 0x10 := hw.sub rfl
  have w1 : Frees z 0x1800c084002440000023c840eb9b0730000420d9d9df7f1 := hw.sub rfl
  have w2 : Frees z 0x400000000000000000000100010 := hw.sub rfl
  unfold State.windowAtomic
  repeat' first
    | with_reducible assumption
    | extract_lets
    | intro _
    | split
    | with_reducible apply State.emit_keeps w0
    | with_reducible apply State.windowIssue_keeps w1
    | with_reducible apply State.issue_keeps w2
    | with_reducible apply kept_if
    | with_reducible apply kept_foldl

theorem execHostWindowAtomic_keeps (hw : Frees z 0x1800c084002440000023c840eb9b0730000420d9d9df7f1) (fn : Fn) (w : Fin 16) (off : BitVec 26) (op : AtomicOp) (s : State)  (hk : Kept z s) :
    KeptOut z (execHostWindowAtomic fn w off op s) := by
  have w0 : Frees z 0x0 := hw.sub rfl
  have w1 : Frees z 0x1800c084002440000023c840eb9b0730000420d9d9df7f1 := hw.sub rfl
  unfold execHostWindowAtomic
  repeat' first
    | with_reducible assumption
    | extract_lets
    | intro _
    | split
    | with_reducible apply State.whenLive_keeps w0
    | with_reducible apply State.windowAtomic_keeps w1
    | with_reducible apply kept_if
    | with_reducible apply kept_foldl
    | with_reducible apply keptOut_of

theorem State.windowImm_keeps (hw : Frees z 0x1800c084002440000023c840eb9b0730000420d9d9df7f1) (s : State) (fn : ℕ) (w : ℕ) (lane : Lane) (v : BitVec 64)  (hk : Kept z s) :
    Kept z (State.windowImm s fn w lane v) := by
  have w0 : Frees z 0x1800c084002440000023c840eb9b0730000420d9d9df7f1 := hw.sub rfl
  have w1 : Frees z 0x400000000000000000000100010 := hw.sub rfl
  unfold State.windowImm
  repeat' first
    | with_reducible assumption
    | extract_lets
    | intro _
    | split
    | with_reducible apply State.windowIssue_keeps w0
    | with_reducible apply State.issue_keeps w1
    | with_reducible apply kept_if
    | with_reducible apply kept_foldl

theorem execAsfRwinImm_keeps (hw : Frees z 0x1800c084002440000023c840eb9b0730000420d9d9df7f1) (fn : Fn) (w : Fin 16) (lane : Lane) (v : BitVec 64) (s : State)  (hk : Kept z s) :
    KeptOut z (execAsfRwinImm fn w lane v s) := by
  have w0 : Frees z 0x0 := hw.sub rfl
  have w1 : Frees z 0x1800c084002440000023c840eb9b0730000420d9d9df7f1 := hw.sub rfl
  unfold execAsfRwinImm
  repeat' first
    | with_reducible assumption
    | extract_lets
    | intro _
    | split
    | with_reducible apply State.whenLive_keeps w0
    | with_reducible apply State.windowImm_keeps w1
    | with_reducible apply kept_if
    | with_reducible apply kept_foldl
    | with_reducible apply keptOut_of

theorem State.moveOwner_keeps (hw : Frees z 0x204000e9800000000020d00101030) (s : State) (fn : ℕ) (key : ℕ) (new : ℕ)  (hk : Kept z s) :
    Kept z (State.moveOwner s fn key new) := by
  have w0 : Frees z (Field.bit asfOwnStat_refused) := hw.sub rfl
  have w1 : Frees z (Field.bit asfOwnStat_busy) := hw.sub rfl
  have w2 : Frees z (Field.bit asfOwnStat_owner) := hw.sub rfl
  have w3 : Frees z 0x204000e9800000000020d00101030 := hw.sub rfl
  have w4 : Frees z 0x100000 := hw.sub rfl
  unfold State.moveOwner
  repeat' first
    | with_reducible assumption
    | extract_lets
    | intro _
    | split
    | with_reducible apply State.setFlag_keeps (hw := w0)
    | with_reducible apply State.setFlag_keeps (hw := w1)
    | with_reducible apply State.setFld_keeps (hw := w2)
    | with_reducible apply State.settleRegions_keeps w3
    | with_reducible apply kept_if
    | with_reducible apply kept_foldl
    | with_reducible refine upd_asf w4 ?_

theorem execAsfOwnCmd_keeps (hw : Frees z 0x204000e9800000000020d00101030) (fn : Fn) (lane : Lane) (v : BitVec 64) (s : State)  (hk : Kept z s) :
    KeptOut z (execAsfOwnCmd fn lane v s) := by
  have w0 : Frees z 0x0 := hw.sub rfl
  have w1 : Frees z 0x204000e9800000000020d00101030 := hw.sub rfl
  unfold execAsfOwnCmd
  repeat' first
    | with_reducible assumption
    | extract_lets
    | intro _
    | split
    | with_reducible apply State.whenLive_keeps w0
    | with_reducible apply State.moveOwner_keeps w1
    | with_reducible apply kept_if
    | with_reducible apply kept_foldl
    | with_reducible apply keptOut_of

end Sys2Proof.Machine
end

