-- ==== Sys2Proof/Laws/KeepsShaping.lean ====
section
/-! SUPPORT. Every operation of Machine/Shaping.lean keeps the queue, the canonical forms and every piece that it does not touch. -/

set_option Elab.async false
set_option linter.unusedSimpArgs false
set_option linter.unusedTactic false
set_option linter.unreachableTactic false

namespace Sys2Proof.Machine

variable {z : Ref}

theorem bucketReg_frees (hw : Frees z 0x2200000000000000000000000000000000) (b : BucketId) : Frees z (bucketReg b).1.bit := by
  cases b
  · exact (hw.sub rfl : Frees z (Reg.bit .shpBucket))
  · exact (hw.sub rfl : Frees z (Reg.bit .shpGrpBucket))

theorem execGateEntryAdvance_keeps (hw : Frees z 0x1000000000000000000000000000400000) (port : Fin 8) (s : State)  (hk : Kept z s) :
    KeptOut z (execGateEntryAdvance port s) := by
  have w0 : Frees z 0x0 := hw.sub rfl
  have w1 : Frees z 0x1000000000000000000000000000400000 := hw.sub rfl
  unfold execGateEntryAdvance
  repeat' first
    | with_reducible assumption
    | extract_lets
    | intro _
    | split
    | with_reducible apply State.whenLive_keeps w0
    | with_reducible apply State.nextGate_keeps w1
    | with_reducible apply kept_if
    | with_reducible apply kept_foldl
    | with_reducible apply keptOut_of

theorem State.armGate_keeps (hw : Frees z 0x1400000000000000000000000000000000) (s : State) (q : ℕ)  (hk : Kept z s) :
    Kept z (State.armGate s q) := by
  have w0 : Frees z (Field.bit shpGateStat_refused) := hw.sub rfl
  have w1 : Frees z (Field.bit shpGateCtrl_armed) := hw.sub rfl
  unfold State.armGate
  repeat' first
    | with_reducible assumption
    | extract_lets
    | intro _
    | split
    | with_reducible apply State.bump_keeps (hw := w0)
    | with_reducible apply State.setFlag_keeps (hw := w1)
    | with_reducible apply kept_if
    | with_reducible apply kept_foldl

theorem State.writeGateCtrl_keeps (hw : Frees z 0x1400000000000000000000000000000000) (s : State) (fn : ℕ) (q : ℕ) (l : Lane) (v : BitVec 64)  (hk : Kept z s) :
    Kept z (State.writeGateCtrl s fn q l v) := by
  have w0 : Frees z (Reg.bit .shpGateCtrl) := hw.sub rfl
  have w1 : Frees z (Field.bit shpGateCtrl_armed) := hw.sub rfl
  have w2 : Frees z 0x1400000000000000000000000000000000 := hw.sub rfl
  unfold State.writeGateCtrl
  repeat' first
    | with_reducible assumption
    | extract_lets
    | intro _
    | split
    | with_reducible apply State.writeFields_keeps (hw := w0)
    | with_reducible apply State.setFlag_keeps (hw := w1)
    | with_reducible apply State.armGate_keeps w2
    | with_reducible apply kept_if
    | with_reducible apply kept_foldl

theorem execGateArm_keeps (hw : Frees z 0x1400000000000000000000000000000000) (fn : Fn) (port : Fin 8) (lane : Lane) (v : BitVec 64) (s : State)  (hk : Kept z s) :
    KeptOut z (execGateArm fn port lane v s) := by
  have w0 : Frees z 0x0 := hw.sub rfl
  have w1 : Frees z 0x1400000000000000000000000000000000 := hw.sub rfl
  unfold execGateArm
  repeat' first
    | with_reducible assumption
    | extract_lets
    | intro _
    | split
    | with_reducible apply State.whenKept_keeps w0
    | with_reducible apply State.writeGateCtrl_keeps w1
    | with_reducible apply kept_if
    | with_reducible apply kept_foldl
    | with_reducible apply keptOut_of

theorem execGateCancel_keeps (hw : Frees z 0x1400000000000000000000000000000000) (fn : Fn) (port : Fin 8) (lane : Lane) (v : BitVec 64) (s : State)  (hk : Kept z s) :
    KeptOut z (execGateCancel fn port lane v s) := by
  have w0 : Frees z 0x0 := hw.sub rfl
  have w1 : Frees z 0x1400000000000000000000000000000000 := hw.sub rfl
  unfold execGateCancel
  repeat' first
    | with_reducible assumption
    | extract_lets
    | intro _
    | split
    | with_reducible apply State.whenKept_keeps w0
    | with_reducible apply State.writeGateCtrl_keeps w1
    | with_reducible apply kept_if
    | with_reducible apply kept_foldl
    | with_reducible apply keptOut_of

theorem execGateTakeover_keeps (hw : Frees z 0x1400000000000000000000000000400000) (port : Fin 8) (s : State)  (hk : Kept z s) :
    KeptOut z (execGateTakeover port s) := by
  have w0 : Frees z 0x0 := hw.sub rfl
  have w1 : Frees z 0x1000000000000000000000000000400000 := hw.sub rfl
  have w2 : Frees z (Field.bit shpGateStat_swaps) := hw.sub rfl
  have w3 : Frees z (Field.bit shpGateCtrl_active) := hw.sub rfl
  have w4 : Frees z (Field.bit shpGateCtrl_armed) := hw.sub rfl
  unfold execGateTakeover
  repeat' first
    | with_reducible assumption
    | extract_lets
    | intro _
    | split
    | with_reducible apply State.whenLive_keeps w0
    | with_reducible apply State.restartGate_keeps w1
    | with_reducible apply State.bump_keeps (hw := w2)
    | with_reducible apply State.setFlag_keeps (hw := w3)
    | with_reducible apply State.setFlag_keeps (hw := w4)
    | with_reducible apply kept_if
    | with_reducible apply kept_foldl
    | with_reducible apply keptOut_of

theorem State.refillOne_keeps (hw : Frees z 0x400000) (s : State) (k : ℕ) (on : Bool) (rate : ℕ) (burst : ℕ)  (hk : Kept z s) :
    Kept z (State.refillOne s k on rate burst) := by
  have w0 : Frees z 0x400000 := hw.sub rfl
  unfold State.refillOne
  repeat' first
    | with_reducible assumption
    | extract_lets
    | intro _
    | split
    | with_reducible apply kept_if
    | with_reducible apply kept_foldl
    | with_reducible refine upd_shp w0 ?_

theorem State.refillAll_keeps (hw : Frees z 0x400000) (s : State) (periods : ℕ)  (hk : Kept z s) :
    Kept z (State.refillAll s periods) := by
  have w0 : Frees z 0x400000 := hw.sub rfl
  unfold State.refillAll
  repeat' first
    | with_reducible assumption
    | extract_lets
    | intro _
    | split
    | with_reducible apply State.refillOne_keeps w0
    | with_reducible apply kept_if
    | with_reducible apply kept_foldl

theorem execBucketRefill_keeps (hw : Frees z 0x400000) (s : State)  (hk : Kept z s) :
    KeptOut z (execBucketRefill s) := by
  have w0 : Frees z 0x0 := hw.sub rfl
  have w1 : Frees z 0x400000 := hw.sub rfl
  unfold execBucketRefill
  repeat' first
    | with_reducible assumption
    | extract_lets
    | intro _
    | split
    | with_reducible apply State.whenLive_keeps w0
    | with_reducible apply State.refillAll_keeps w1
    | with_reducible apply kept_if
    | with_reducible apply kept_foldl
    | with_reducible refine upd_shp w1 ?_
    | with_reducible apply keptOut_of

theorem State.writeBucket_keeps (hw : Frees z 0x2200000000000000000000000000400000) (s : State) (fn : ℕ) (b : BucketId) (l : Lane) (v : BitVec 64)  (hk : Kept z s) :
    Kept z (State.writeBucket s fn b l v) := by
  have wb := bucketReg_frees (z := z) (hw.sub rfl) b
  have w : Frees z 0x400000 := hw.sub rfl
  unfold State.writeBucket
  have ht : Kept z (s.writeFields fn l (bucketReg b).1 (bucketReg b).2.1 v) := State.writeFields_keeps _ _ _ _ _ wb hk
  generalize s.writeFields fn l (bucketReg b).1 (bucketReg b).2.1 v = t at ht
  exact kept_if (fun _ => upd_shp w ht) fun _ => ht

theorem execShpBucketWrite_keeps (hw : Frees z 0x2200000000000000000000000000400000) (fn : Fn) (b : BucketId) (lane : Lane) (v : BitVec 64) (s : State)  (hk : Kept z s) :
    KeptOut z (execShpBucketWrite fn b lane v s) := by
  have w0 : Frees z 0x0 := hw.sub rfl
  have w1 : Frees z 0x2200000000000000000000000000400000 := hw.sub rfl
  simp (maxDischargeDepth := 30) +contextual only [execShpBucketWrite, keptOut_next, State.whenKept_keeps w0, State.writeBucket_keeps w1, and_self, kept_foldl, kept_ite, implies_true, hk]

theorem State.samplePort_keeps (hw : Frees z 0x400010) (s : State) (q : ℕ)  (hk : Kept z s) :
    Kept z (State.samplePort s q) := by
  have w0 : Frees z 0x10 := hw.sub rfl
  have w1 : Frees z 0x400000 := hw.sub rfl
  unfold State.samplePort
  repeat' first
    | with_reducible assumption
    | extract_lets
    | intro _
    | split
    | with_reducible apply State.emit_keeps w0
    | with_reducible apply kept_if
    | with_reducible apply kept_foldl
    | with_reducible refine upd_shp w1 ?_

theorem execQueueSample_keeps (hw : Frees z 0x400010) (s : State)  (hk : Kept z s) :
    KeptOut z (execQueueSample s) := by
  have w0 : Frees z 0x0 := hw.sub rfl
  have w1 : Frees z 0x400010 := hw.sub rfl
  have w2 : Frees z 0x400000 := hw.sub rfl
  unfold execQueueSample
  repeat' first
    | with_reducible assumption
    | extract_lets
    | intro _
    | split
    | with_reducible apply State.whenLive_keeps w0
    | with_reducible apply State.samplePort_keeps w1
    | with_reducible apply kept_if
    | with_reducible apply kept_foldl
    | with_reducible refine upd_shp w2 ?_
    | with_reducible apply keptOut_of

end Sys2Proof.Machine
end

