-- ==== Sys2Proof/Laws/KeepsTiers.lean ====
section
/-! SUPPORT. Every operation of Machine/Tiers.lean keeps the queue, the canonical forms and every piece that it does not touch. -/

set_option Elab.async false
set_option linter.unusedSimpArgs false
set_option linter.unusedTactic false
set_option linter.unreachableTactic false

namespace Sys2Proof.Machine

variable {z : Ref}

theorem State.notePressure_keeps (hw : Frees z 0x1000) (s : State)  (hk : Kept z s) :
    Kept z (State.notePressure s) := by
  have w0 : Frees z 0x1000 := hw.sub rfl
  unfold State.notePressure
  repeat' first
    | with_reducible assumption
    | extract_lets
    | intro _
    | split
    | with_reducible apply kept_if
    | with_reducible apply kept_foldl
    | with_reducible refine upd_tiers w0 rfl ?_

theorem State.evictPage_keeps (hw : Frees z 0x80000000000000400000000000000000001105010) (s : State) (key : ℕ)  (hk : Kept z s) :
    Kept z (State.evictPage s key) := by
  have w0 : Frees z 0x400000000000000000000101010 := hw.sub rfl
  have w1 : Frees z 0x80000000000000000000000000000000001005000 := hw.sub rfl
  unfold State.evictPage
  repeat' first
    | with_reducible assumption
    | extract_lets
    | intro _
    | split
    | with_reducible apply State.moveToLodging_keeps w0
    | with_reducible refine State.moveToLodging_gives w0 (by with_reducible assumption) ?_
    | with_reducible apply State.moveToFlash_keeps w1
    | with_reducible refine State.moveToFlash_gives w1 (by with_reducible assumption) ?_
    | with_reducible refine KeptOpt.getD ?_ ?_
    | with_reducible apply kept_if
    | with_reducible apply kept_foldl

theorem State.evict_keeps (hw : Frees z 0x80000000000000400000000000000000001105010) (s : State) (key : ℕ)  (hk : Kept z s) :
    Kept z (State.evict s key) := by
  have w0 : Frees z 0x80000000000000400000000000000000001105010 := hw.sub rfl
  induction key generalizing s with
  | zero =>
    unfold State.evict
    repeat' first
      | with_reducible refine keptOpt_map ?_
      | with_reducible assumption
      | extract_lets
      | intro _
      | split
      | with_reducible apply State.evictPage_keeps w0
      | with_reducible apply kept_if
      | with_reducible apply kept_foldl
  | succ n ih =>
    unfold State.evict
    repeat' first
      | with_reducible refine keptOpt_map ?_
      | with_reducible assumption
      | extract_lets
      | intro _
      | split
      | with_reducible apply ih
      | with_reducible refine KeptOpt.get ?_ (by with_reducible assumption)
      | with_reducible apply State.evictPage_keeps w0
      | with_reducible apply kept_if
      | with_reducible apply kept_foldl

theorem State.evictStep_keeps (hw : Frees z 0x80000000000000400000000000000000001105010) (s : State) (key : ℕ)  (hk : Kept z s) :
    Kept z (State.evictStep s key) := by
  have w0 : Frees z 0x1000 := hw.sub rfl
  have w1 : Frees z 0x80000000000000400000000000000000001105010 := hw.sub rfl
  have w2 : Frees z 0x80000000000000000000000000000000001005000 := hw.sub rfl
  unfold State.evictStep
  repeat' first
    | with_reducible assumption
    | extract_lets
    | intro _
    | split
    | with_reducible apply State.notePressure_keeps w0
    | with_reducible apply State.moveToFrame_keeps w0
    | with_reducible refine State.moveToFrame_gives w0 (by with_reducible assumption) ?_
    | with_reducible apply State.evict_keeps w1
    | with_reducible apply State.moveToFlash_keeps w2
    | with_reducible refine State.moveToFlash_gives w2 (by with_reducible assumption) ?_
    | with_reducible refine KeptOpt.getD ?_ ?_
    | with_reducible apply kept_if
    | with_reducible apply kept_foldl

theorem State.fetchStep_keeps (hw : Frees z 0x800000000000004000eb800000000020d01105030) (s : State) (key : ℕ) (tier : ℕ)  (hk : Kept z s) :
    Kept z (State.fetchStep s key tier) := by
  have w0 : Frees z 0x80000000000000400000000000000000001105010 := hw.sub rfl
  have w1 : Frees z 0x400000000000000000000101010 := hw.sub rfl
  have w2 : Frees z 0x80000000000000000000000000000000001005000 := hw.sub rfl
  have w3 : Frees z 0x4000eb800000000020d00105030 := hw.sub rfl
  unfold State.fetchStep
  split
  · exact hk
  · refine kept_if (fun _ => hk) fun _ => ?_
    extract_lets r
    have hr : KeptOpt z r := by
      unfold r
      split
      · split
        · exact State.moveUp_keeps w0 _ _ _ hk
        · exact keptOpt_none
      · exact keptOpt_bind fun i => State.moveToLodging_keeps w1 _ _ _ _ hk
      · exact State.moveToFlash_keeps w2 _ _ _ hk
    clear_value r
    split
    · exact hr.get rfl
    · exact State.failFetch_keeps w3 _ _ _ _ hk

theorem State.drainStep_keeps (hw : Frees z 0x80000000000000400000000000000000001105010) (s : State) (i : ℕ)  (hk : Kept z s) :
    Kept z (State.drainStep s i) := by
  have w0 : Frees z 0x80000000000000400000000000000000001105010 := hw.sub rfl
  have w1 : Frees z 0x80000000000000000000000000000000001005000 := hw.sub rfl
  unfold State.drainStep
  repeat' first
    | with_reducible assumption
    | extract_lets
    | intro _
    | split
    | with_reducible apply State.moveUp_keeps w0
    | with_reducible refine State.moveUp_gives w0 (by with_reducible assumption) ?_
    | with_reducible apply State.moveToFlash_keeps w1
    | with_reducible refine State.moveToFlash_gives w1 (by with_reducible assumption) ?_
    | with_reducible refine KeptOpt.getD ?_ ?_
    | with_reducible apply kept_if
    | with_reducible apply kept_foldl

theorem State.copyAt_keeps (hw : Frees z 0x400000000000000000000100010) (s : State) (h : ℕ) (node : ℕ) (off : ℕ) (bs : List (BitVec 8))  (hk : Kept z s) :
    Kept z (State.copyAt s h node off bs) := by
  have w0 : Frees z 0x400000000000000000000100010 := hw.sub rfl
  unfold State.copyAt
  repeat' first
    | with_reducible assumption
    | extract_lets
    | intro _
    | split
    | with_reducible apply State.writeBulk_keeps w0
    | with_reducible apply kept_if
    | with_reducible apply kept_foldl

theorem State.copyStep_keeps (hw : Frees z 0x400000000000000000000901090) (s : State) (h : ℕ)  (hk : Kept z s) :
    Kept z (State.copyStep s h) := by
  have w0 : Frees z 0x80 := hw.sub rfl
  have w1 : Frees z 0x400000000000000000000900090 := hw.sub rfl
  have w2 : Frees z 0x400000000000000000000100010 := hw.sub rfl
  have w3 : Frees z 0x1000 := hw.sub rfl
  unfold State.copyStep
  repeat' first
    | with_reducible refine keptOpt_map ?_
    | with_reducible assumption
    | extract_lets
    | intro _
    | split
    | with_reducible apply State.modSeq_keeps w0
    | with_reducible apply State.shipTokens_keeps w1
    | with_reducible apply State.copyAt_keeps w2
    | with_reducible apply State.shipSlots_keeps w2
    | with_reducible apply State.touchPages_keeps w3
    | with_reducible refine KeptOpt.getD ?_ ?_
    | with_reducible apply kept_if
    | with_reducible apply kept_foldl

theorem State.prefetchStep_keeps (hw : Frees z 0x800000000000004000eb800000000020801105010) (s : State) (p : ℕ) (key : ℕ)  (hk : Kept z s) :
    Kept z (State.prefetchStep s p key) := by
  have w0 : Frees z 0x800000000000004000eb800000000020801105010 := hw.sub rfl
  unfold State.prefetchStep
  repeat' first
    | with_reducible assumption
    | extract_lets
    | intro _
    | split
    | with_reducible apply State.fetchPage_keeps w0
    | with_reducible apply kept_if
    | with_reducible apply kept_foldl

theorem State.bulkStep_keeps (hw : Frees z 0x800000000000004000eb80000c000020d01905cb0) (s : State) (j : PageJob)  (hk : Kept z s) :
    Kept z (State.bulkStep s j) := by
  have w0 : Frees z 0x800000000000004000eb800000000020801105010 := hw.sub rfl
  have w1 : Frees z 0x80000000000000400000000000000000001105010 := hw.sub rfl
  have w2 : Frees z 0x800000000000004000eb800000000020d01105030 := hw.sub rfl
  have w3 : Frees z 0x800000000000004000e9800000000020801105010 := hw.sub rfl
  have w4 : Frees z 0x400000000000000000000101090 := hw.sub rfl
  have w5 : Frees z 0x400000000000000000000900090 := hw.sub rfl
  have w6 : Frees z 0x400000000000000000000901090 := hw.sub rfl
  have w7 : Frees z 0x40000000000c000000500100c30 := hw.sub rfl
  unfold State.bulkStep
  repeat' first
    | with_reducible assumption
    | extract_lets
    | intro _
    | split
    | with_reducible apply State.prefetchStep_keeps w0
    | with_reducible apply State.evictStep_keeps w1
    | with_reducible apply State.fetchStep_keeps w2
    | with_reducible apply State.streamPage_keeps w3
    | with_reducible apply State.sendPage_keeps w4
    | with_reducible apply State.recastStep_keeps w5
    | with_reducible apply State.copyStep_keeps w6
    | with_reducible apply State.drainStep_keeps w1
    | with_reducible apply State.churnStep_keeps w7
    | with_reducible apply kept_if
    | with_reducible apply kept_foldl

theorem execPageStep_keeps (hw : Frees z 0x800000000000004000eb80000c000020d01905cb0) (job : PageJob) (s : State)  (hk : Kept z s) :
    KeptOut z (execPageStep job s) := by
  have w0 : Frees z 0x80000000000000000000000000000000001000000 := hw.sub rfl
  have w1 : Frees z 0xe9800000000020800000000 := hw.sub rfl
  have w2 : Frees z 0x1000 := hw.sub rfl
  have w3 : Frees z 0x800000000000004000eb80000c000020d01905cb0 := hw.sub rfl
  unfold execPageStep
  repeat' first
    | with_reducible assumption
    | extract_lets
    | intro _
    | split
    | with_reducible apply State.worked_keeps w0
    | with_reducible apply State.noteTiers_keeps w1
    | with_reducible apply State.notePressure_keeps w2
    | with_reducible apply State.bulkStep_keeps w3
    | with_reducible apply kept_if
    | with_reducible apply kept_foldl
    | with_reducible apply keptOut_of

theorem execMigrationFlip_keeps (hw : Frees z 0x1800c080002400000022c800eb830730000629d9d9df1f1) (p : Fin 16) (page : BitVec 32) (s : State)  (hk : Kept z s) :
    KeptOut z (execMigrationFlip p page s) := by
  have w0 : Frees z 0x0 := hw.sub rfl
  have w1 : Frees z 0x80000000000000000000000000000200001040000 := hw.sub rfl
  have w2 : Frees z 0x1800c080002400000022c800eb830730000420d9d9df1f1 := hw.sub rfl
  have w3 : Frees z 0x1800c0800024000000004000eb82010000002980d9c71b1 := hw.sub rfl
  have w4 : Frees z 0x4000eb800000000020d00105030 := hw.sub rfl
  unfold execMigrationFlip
  repeat' first
    | with_reducible assumption
    | extract_lets
    | intro _
    | split
    | with_reducible apply State.whenLive_keeps w0
    | with_reducible apply State.sequenceHeld_keeps w1
    | with_reducible apply State.wakeAll_keeps w2
    | with_reducible apply State.flushRows_keeps w3
    | with_reducible apply State.completeMove_keeps w4
    | with_reducible apply kept_if
    | with_reducible apply kept_foldl
    | with_reducible apply keptOut_of

theorem execClockHandVisit_keeps (hw : Frees z 0x800000000000004000e9800000000020801105010) (s : State)  (hk : Kept z s) :
    KeptOut z (execClockHandVisit s) := by
  have w0 : Frees z 0x0 := hw.sub rfl
  have w1 : Frees z 0x1000 := hw.sub rfl
  have w2 : Frees z 0xe9800000000020800000000 := hw.sub rfl
  have w3 : Frees z 0x80000000000000400000000000000000001105010 := hw.sub rfl
  unfold execClockHandVisit
  repeat' first
    | with_reducible assumption
    | extract_lets
    | intro _
    | split
    | with_reducible apply State.whenLive_keeps w0
    | with_reducible apply State.notePressure_keeps w1
    | with_reducible apply State.noteTiers_keeps w2
    | with_reducible apply State.evict_keeps w3
    | with_reducible apply kept_if
    | with_reducible apply kept_foldl
    | with_reducible refine upd_tiers w1 rfl ?_
    | with_reducible apply keptOut_of

theorem execT2AgeTick_keeps (hw : Frees z 0x1000) (s : State)  (hk : Kept z s) :
    KeptOut z (execT2AgeTick s) := by
  have w0 : Frees z 0x1000 := hw.sub rfl
  unfold execT2AgeTick
  repeat' first
    | with_reducible assumption
    | extract_lets
    | intro _
    | split
    | with_reducible apply kept_if
    | with_reducible apply kept_foldl
    | with_reducible refine upd_tiers w0 rfl ?_
    | with_reducible apply keptOut_of

theorem State.dropStalled_keeps (hw : Frees z 0x4000000000000000000180) (s : State) (p : ℕ) (e : Entry) (h : ℕ)  (hk : Kept z s) :
    Kept z (State.dropStalled s p e h) := by
  have w0 : Frees z (Field.bit tirStall_drops) := hw.sub rfl
  have w1 : Frees z 0x80 := hw.sub rfl
  have w2 : Frees z 0x100 := hw.sub rfl
  unfold State.dropStalled
  repeat' first
    | with_reducible assumption
    | extract_lets
    | intro _
    | split
    | with_reducible apply State.bump_keeps (hw := w0)
    | with_reducible apply State.modSeq_keeps w1
    | with_reducible apply State.leavePass_keeps w2
    | with_reducible apply State.modPart_keeps w2
    | with_reducible apply kept_if
    | with_reducible apply kept_foldl

theorem execStallMaxExpiry_keeps (hw : Frees z 0x80000000000000000004000000000000001081180) (p : Fin 16) (entry : ℕ) (s : State)  (hk : Kept z s) :
    KeptOut z (execStallMaxExpiry p entry s) := by
  have w0 : Frees z 0x0 := hw.sub rfl
  have w1 : Frees z 0x80000000000000000004000000000000001081100 := hw.sub rfl
  have w2 : Frees z 0x4000000000000000000180 := hw.sub rfl
  unfold execStallMaxExpiry
  repeat' first
    | with_reducible assumption
    | extract_lets
    | intro _
    | split
    | with_reducible apply State.whenLive_keeps w0
    | with_reducible apply State.startEntry_keeps w1
    | with_reducible apply State.dropStalled_keeps w2
    | with_reducible apply kept_if
    | with_reducible apply kept_foldl
    | with_reducible apply keptOut_of

theorem execTirPeerCtrlWrite_keeps (hw : Frees z 0x8000000000000000000000) (fn : Fn) (i : Fin 16) (lane : Lane) (v : BitVec 64) (s : State)  (hk : Kept z s) :
    KeptOut z (execTirPeerCtrlWrite fn i lane v s) := by
  have w0 : Frees z 0x0 := hw.sub rfl
  have w1 : Frees z (Reg.bit .tirPeerCtrl) := hw.sub rfl
  unfold execTirPeerCtrlWrite
  repeat' first
    | with_reducible assumption
    | extract_lets
    | intro _
    | split
    | with_reducible apply State.whenKept_keeps w0
    | with_reducible apply State.writeFields_keeps (hw := w1)
    | with_reducible apply kept_if
    | with_reducible apply kept_foldl
    | with_reducible apply keptOut_of

end Sys2Proof.Machine
end

