-- ==== Sys2Proof/Laws/KeepsTime.lean ====
section
/-! SUPPORT. Every operation of Machine/Time.lean keeps the queue, the canonical forms and every piece that it does not touch. -/

set_option Elab.async false
set_option linter.unusedSimpArgs false
set_option linter.unusedTactic false
set_option linter.unreachableTactic false

namespace Sys2Proof.Machine

variable {z : Ref}

theorem execCopyCompare_keeps (hw : Frees z 0x1800c00000240000080000000002010000000000cbc11b1) (copies : List (ℕ × ℤ)) (s : State)  (hk : Kept z s) :
    KeptOut z (execCopyCompare copies s) := by
  have w0 : Frees z 0x0 := hw.sub rfl
  have w1 : Frees z 0x1800c00000240000000000000002010000000000c9c11b1 := hw.sub rfl
  have w2 : Frees z (Field.bit tmbStat_relocks) := hw.sub rfl
  have w3 : Frees z 0x200000 := hw.sub rfl
  unfold execCopyCompare
  repeat' first
    | with_reducible assumption
    | extract_lets
    | intro _
    | split
    | with_reducible apply State.whenLive_keeps w0
    | with_reducible apply State.raise_keeps w1
    | with_reducible apply State.bump_keeps (hw := w2)
    | with_reducible apply kept_if
    | with_reducible apply kept_foldl
    | with_reducible refine upd_tmb w3 ?_
    | with_reducible apply keptOut_of

theorem State.stepCount_keeps (hw : Frees z 0x800000000000000000000000200002) (s : State) (x : ℤ)  (hk : Kept z s) :
    Kept z (State.stepCount s x) := by
  have w0 : Frees z (Field.bit tmbStat_stepped) := hw.sub rfl
  have w1 : Frees z 0x200002 := hw.sub rfl
  unfold State.stepCount
  repeat' first
    | with_reducible assumption
    | extract_lets
    | intro _
    | split
    | with_reducible apply State.setFlag_keeps (hw := w0)
    | with_reducible apply kept_if
    | with_reducible apply kept_foldl
    | with_reducible refine upd_now_tmb w1 ?_

theorem State.loseAlignment_keeps (hw : Frees z 0x1800c00000240000080000000002010000000000c9c11b1) (s : State)  (hk : Kept z s) :
    Kept z (State.loseAlignment s) := by
  have w0 : Frees z 0x1800c00000240000000000000002010000000000c9c11b1 := hw.sub rfl
  have w1 : Frees z (Field.bit tmbStat_locked) := hw.sub rfl
  have w2 : Frees z (Field.bit tmbStat_alignLost) := hw.sub rfl
  unfold State.loseAlignment
  repeat' first
    | with_reducible assumption
    | extract_lets
    | intro _
    | split
    | with_reducible apply State.raise_keeps w0
    | with_reducible apply State.setFlag_keeps (hw := w1)
    | with_reducible apply State.setFlag_keeps (hw := w2)
    | with_reducible apply kept_if
    | with_reducible apply kept_foldl

theorem State.judge_keeps (hw : Frees z 0x1800c00000240000080000000002010000000000cbc11b1) (s : State) (offset : ℚ)  (hk : Kept z s) :
    Kept z (State.judge s offset) := by
  have w0 : Frees z (Field.bit tmbStat_locked) := hw.sub rfl
  have w1 : Frees z (Field.bit tmbStat_alignLost) := hw.sub rfl
  have w2 : Frees z 0x1800c00000240000080000000002010000000000c9c11b1 := hw.sub rfl
  have w3 : Frees z 0x200000 := hw.sub rfl
  unfold State.judge
  repeat' first
    | with_reducible assumption
    | extract_lets
    | intro _
    | split
    | with_reducible apply State.setFlag_keeps (hw := w0)
    | with_reducible apply State.setFlag_keeps (hw := w1)
    | with_reducible apply State.loseAlignment_keeps w2
    | with_reducible apply kept_if
    | with_reducible apply kept_foldl
    | with_reducible refine upd_tmb w3 ?_

theorem State.correct_keeps (hw : Frees z 0x1800c00000240000180000000002010000000000cbc11b3) (s : State) (offset : ℚ) (interval : ℚ)  (hk : Kept z s) :
    Kept z (State.correct s offset interval) := by
  have w0 : Frees z (Field.bit tmbStat_holdover) := hw.sub rfl
  have w1 : Frees z (Field.bit tmbOffset_offset) := hw.sub rfl
  have w2 : Frees z 0x1800c00000240000080000000002010000000000cbc11b1 := hw.sub rfl
  have w3 : Frees z 0x800000000000000000000000200002 := hw.sub rfl
  have w4 : Frees z 0x200000 := hw.sub rfl
  unfold State.correct
  repeat' first
    | with_reducible assumption
    | extract_lets
    | intro _
    | split
    | with_reducible apply State.setFlag_keeps (hw := w0)
    | with_reducible apply State.setFldInt_keeps (hw := w1)
    | with_reducible apply State.judge_keeps w2
    | with_reducible apply State.stepCount_keeps w3
    | with_reducible apply kept_if
    | with_reducible apply kept_foldl
    | with_reducible refine upd_tmb w4 ?_

theorem State.holdOver_keeps (hw : Frees z 0x800000000000000000000000200000) (s : State)  (hk : Kept z s) :
    Kept z (State.holdOver s) := by
  have w0 : Frees z (Field.bit tmbStat_holdover) := hw.sub rfl
  have w1 : Frees z 0x200000 := hw.sub rfl
  simp (maxDischargeDepth := 30) only [State.holdOver, upd_tmb w1, (State.setFlag_keeps (hw := w0)), and_self, hk]

theorem State.endInterval_keeps (hw : Frees z 0x1800c00000240000080000000002010000000000cbc11b1) (s : State)  (hk : Kept z s) :
    Kept z (State.endInterval s) := by
  have w0 : Frees z 0x800000000000000000000000200000 := hw.sub rfl
  have w1 : Frees z 0x1800c00000240000080000000002010000000000c9c11b1 := hw.sub rfl
  have w2 : Frees z 0x200000 := hw.sub rfl
  unfold State.endInterval
  repeat' first
    | with_reducible assumption
    | extract_lets
    | intro _
    | split
    | with_reducible apply State.holdOver_keeps w0
    | with_reducible apply State.loseAlignment_keeps w1
    | with_reducible apply kept_if
    | with_reducible apply kept_foldl
    | with_reducible refine upd_tmb w2 ?_

theorem State.exchange_keeps (hw : Frees z 0x1800c00000240000180000000002010000000000cbc11b3) (s : State) (port : ℕ) (t1 : ℕ) (t2 : ℕ) (t3 : ℕ) (t4 : ℕ)  (hk : Kept z s) :
    Kept z (State.exchange s port t1 t2 t3 t4) := by
  have w0 : Frees z 0x1800c00000240000180000000002010000000000cbc11b3 := hw.sub rfl
  have w1 : Frees z 0x200000 := hw.sub rfl
  unfold State.exchange
  repeat' first
    | with_reducible assumption
    | extract_lets
    | intro _
    | split
    | with_reducible apply State.correct_keeps w0
    | with_reducible apply kept_if
    | with_reducible apply kept_foldl
    | with_reducible refine upd_tmb w1 ?_

theorem execTimeReqTimer_keeps (hw : Frees z 0x1800c00000240000080000000002010000000000cbc11b1) (s : State)  (hk : Kept z s) :
    KeptOut z (execTimeReqTimer s) := by
  have w0 : Frees z 0x0 := hw.sub rfl
  have w1 : Frees z 0x100000 := hw.sub rfl
  have w2 : Frees z 0x1800c00000240000080000000002010000000000cbc11b1 := hw.sub rfl
  unfold execTimeReqTimer
  repeat' first
    | with_reducible assumption
    | extract_lets
    | intro _
    | split
    | with_reducible apply State.whenLive_keeps w0
    | with_reducible apply State.sendGroup_keeps w1
    | with_reducible apply State.endInterval_keeps w2
    | with_reducible apply kept_if
    | with_reducible apply kept_foldl
    | with_reducible apply keptOut_of

theorem execTimeReq_keeps (hw : Frees z 0x80000000000000000000000000000000001100000) (node : BitVec 16) (port : Fin 8) (t1 : BitVec 64) (s : State)  (hk : Kept z s) :
    KeptOut z (execTimeReq node port t1 s) := by
  have w0 : Frees z 0x0 := hw.sub rfl
  have w1 : Frees z 0x100000 := hw.sub rfl
  have w2 : Frees z 0x80000000000000000000000000000000001000000 := hw.sub rfl
  unfold execTimeReq
  repeat' first
    | with_reducible assumption
    | extract_lets
    | intro _
    | split
    | with_reducible apply State.whenLive_keeps w0
    | with_reducible apply State.sendGroup_keeps w1
    | with_reducible apply State.rxWork_keeps w2
    | with_reducible apply kept_if
    | with_reducible apply kept_foldl
    | with_reducible apply keptOut_of

theorem execTimeResp_keeps (hw : Frees z 0x1800c08000240000180000000002010000000000dbc11b3) (port : Fin 8) (t1 : BitVec 64) (t2 : BitVec 64) (t3 : BitVec 64) (s : State)  (hk : Kept z s) :
    KeptOut z (execTimeResp port t1 t2 t3 s) := by
  have w0 : Frees z 0x0 := hw.sub rfl
  have w1 : Frees z 0x1800c00000240000180000000002010000000000cbc11b3 := hw.sub rfl
  have w2 : Frees z 0x80000000000000000000000000000000001000000 := hw.sub rfl
  unfold execTimeResp
  repeat' first
    | with_reducible assumption
    | extract_lets
    | intro _
    | split
    | with_reducible apply State.whenLive_keeps w0
    | with_reducible apply State.exchange_keeps w1
    | with_reducible apply State.rxWork_keeps w2
    | with_reducible apply kept_if
    | with_reducible apply kept_foldl
    | with_reducible apply keptOut_of

theorem execTimeClkInLoss_keeps (hw : Frees z 0x1800c00000240000080000000002010000000000cbc11b1) (s : State)  (hk : Kept z s) :
    KeptOut z (execTimeClkInLoss s) := by
  have w0 : Frees z 0x0 := hw.sub rfl
  have w1 : Frees z 0x1800c00000240000000000000002010000000000c9c11b1 := hw.sub rfl
  have w2 : Frees z (Field.bit tmbStat_freqLost) := hw.sub rfl
  have w3 : Frees z 0x200000 := hw.sub rfl
  unfold execTimeClkInLoss
  repeat' first
    | with_reducible assumption
    | extract_lets
    | intro _
    | split
    | with_reducible apply State.whenLive_keeps w0
    | with_reducible apply State.raise_keeps w1
    | with_reducible apply State.setFlag_keeps (hw := w2)
    | with_reducible apply kept_if
    | with_reducible apply kept_foldl
    | with_reducible refine upd_tmb w3 ?_
    | with_reducible apply keptOut_of

theorem execTimeClkInReturn_keeps (hw : Frees z 0x800000000000000000000000200000) (s : State)  (hk : Kept z s) :
    KeptOut z (execTimeClkInReturn s) := by
  have w0 : Frees z 0x0 := hw.sub rfl
  have w1 : Frees z (Field.bit tmbStat_freqLost) := hw.sub rfl
  have w2 : Frees z 0x200000 := hw.sub rfl
  unfold execTimeClkInReturn
  repeat' first
    | with_reducible assumption
    | extract_lets
    | intro _
    | split
    | with_reducible apply State.whenLive_keeps w0
    | with_reducible apply State.setFlag_keeps (hw := w1)
    | with_reducible apply kept_if
    | with_reducible apply kept_foldl
    | with_reducible refine upd_tmb w2 ?_
    | with_reducible apply keptOut_of

theorem execPtpMessage_keeps (hw : Frees z 0x1800c00000240000180000000002010000000000cbc11b3) (port : Fin 8) (m : PtpMsg) (s : State)  (hk : Kept z s) :
    KeptOut z (execPtpMessage port m s) := by
  have w0 : Frees z 0x0 := hw.sub rfl
  have w1 : Frees z 0x1800c00000240000180000000002010000000000cbc11b3 := hw.sub rfl
  have w2 : Frees z 0x200000 := hw.sub rfl
  unfold execPtpMessage
  repeat' first
    | with_reducible assumption
    | extract_lets
    | intro _
    | split
    | with_reducible apply State.whenLive_keeps w0
    | with_reducible apply State.exchange_keeps w1
    | with_reducible apply kept_if
    | with_reducible apply kept_foldl
    | with_reducible refine upd_tmb w2 ?_
    | with_reducible apply keptOut_of

theorem State.ppsEvent_keeps (hw : Frees z 0x80000000000000000000000000000000000008000000) (s : State)  (hk : Kept z s) :
    Kept z (State.ppsEvent s) := by
  have w0 : Frees z (Field.bit pinInput_merged) := hw.sub rfl
  have w1 : Frees z (Field.bit pinInput_events) := hw.sub rfl
  have w2 : Frees z 0x8000000 := hw.sub rfl
  unfold State.ppsEvent
  repeat' first
    | with_reducible assumption
    | extract_lets
    | intro _
    | split
    | with_reducible apply State.bump_keeps (hw := w0)
    | with_reducible apply State.bump_keeps (hw := w1)
    | with_reducible apply kept_if
    | with_reducible apply kept_foldl
    | with_reducible refine upd_pln w2 (.inl rfl) ?_
    | with_reducible refine upd_pln w2 (.inr rfl) ?_

theorem execSyncPpsIn_keeps (hw : Frees z 0x1808c00000240000980000000002010000000000cbc11b3) (s : State)  (hk : Kept z s) :
    KeptOut z (execSyncPpsIn s) := by
  have w0 : Frees z 0x0 := hw.sub rfl
  have w1 : Frees z 0x80000000000000000000000000000000000008000000 := hw.sub rfl
  have w2 : Frees z (Field.bit tmbStat_ppsIgnored) := hw.sub rfl
  have w3 : Frees z (Field.bit tmbStat_ppsLost) := hw.sub rfl
  have w4 : Frees z (Field.bit tmbPpsInTs_tick) := hw.sub rfl
  have w5 : Frees z 0x1800c00000240000180000000002010000000000cbc11b3 := hw.sub rfl
  have w6 : Frees z 0x200000 := hw.sub rfl
  unfold execSyncPpsIn
  repeat' first
    | with_reducible assumption
    | extract_lets
    | intro _
    | split
    | with_reducible apply State.whenLive_keeps w0
    | with_reducible apply State.ppsEvent_keeps w1
    | with_reducible apply State.bump_keeps (hw := w2)
    | with_reducible apply State.setFlag_keeps (hw := w3)
    | with_reducible apply State.setFld_keeps (hw := w4)
    | with_reducible apply State.correct_keeps w5
    | with_reducible apply kept_if
    | with_reducible apply kept_foldl
    | with_reducible refine upd_tmb w6 ?_
    | with_reducible apply keptOut_of

theorem execPpsLost_keeps (hw : Frees z 0x800000000000000000000000200000) (s : State)  (hk : Kept z s) :
    KeptOut z (execPpsLost s) := by
  have w0 : Frees z 0x0 := hw.sub rfl
  have w1 : Frees z (Field.bit tmbStat_ppsLost) := hw.sub rfl
  have w2 : Frees z 0x800000000000000000000000200000 := hw.sub rfl
  unfold execPpsLost
  repeat' first
    | with_reducible assumption
    | extract_lets
    | intro _
    | split
    | with_reducible apply State.whenLive_keeps w0
    | with_reducible apply State.setFlag_keeps (hw := w1)
    | with_reducible apply State.holdOver_keeps w2
    | with_reducible refine KeptOpt.getD ?_ ?_
    | with_reducible apply kept_if
    | with_reducible apply kept_foldl
    | with_reducible apply keptOut_of

theorem State.drivePps_keeps (hw : Frees z 0x200010) (s : State) (level : Bool)  (hk : Kept z s) :
    Kept z (State.drivePps s level) := by
  have w0 : Frees z 0x10 := hw.sub rfl
  have w1 : Frees z 0x200000 := hw.sub rfl
  unfold State.drivePps
  repeat' first
    | with_reducible assumption
    | extract_lets
    | intro _
    | split
    | with_reducible apply State.emit_keeps w0
    | with_reducible apply kept_if
    | with_reducible apply kept_foldl
    | with_reducible refine upd_tmb w1 ?_

theorem execSyncPpsOut_keeps (hw : Frees z 0x200010) (s : State)  (hk : Kept z s) :
    KeptOut z (execSyncPpsOut s) := by
  have w0 : Frees z 0x0 := hw.sub rfl
  have w1 : Frees z 0x200010 := hw.sub rfl
  unfold execSyncPpsOut
  repeat' first
    | with_reducible assumption
    | extract_lets
    | intro _
    | split
    | with_reducible apply State.whenLive_keeps w0
    | with_reducible apply State.drivePps_keeps w1
    | with_reducible apply kept_if
    | with_reducible apply kept_foldl
    | with_reducible apply keptOut_of

theorem execTmbAdj_keeps (hw : Frees z 0x800000000000000000000000200002) (fn : Fn) (lane : Lane) (v : BitVec 64) (s : State)  (hk : Kept z s) :
    KeptOut z (execTmbAdj fn lane v s) := by
  have w0 : Frees z 0x0 := hw.sub rfl
  have w1 : Frees z 0x800000000000000000000000200002 := hw.sub rfl
  have w2 : Frees z (Field.bit tmbStat_stepRefused) := hw.sub rfl
  unfold execTmbAdj
  repeat' first
    | with_reducible assumption
    | extract_lets
    | intro _
    | split
    | with_reducible apply State.whenKept_keeps w0
    | with_reducible apply State.stepCount_keeps w1
    | with_reducible apply State.bump_keeps (hw := w2)
    | with_reducible apply kept_if
    | with_reducible apply kept_foldl
    | with_reducible apply keptOut_of

end Sys2Proof.Machine
end

