-- ==== Sys2Proof/Laws/KeepsErrors.lean ====
section
/-! SUPPORT. Every operation of Machine/Errors.lean keeps the queue, the canonical forms and every piece that it does not touch. -/

set_option Elab.async false
set_option linter.unusedSimpArgs false
set_option linter.unusedTactic false
set_option linter.unreachableTactic false

namespace Sys2Proof.Machine

variable {z : Ref}

theorem execErrorRaised_keeps (hw : Frees z 0x1800c00000240000000000000002010000000000c9c11b1) (e : ErrorReport) (s : State)  (hk : Kept z s) :
    KeptOut z (execErrorRaised e s) := by
  have w0 : Frees z 0x1800c00000240000000000000002010000000000c9c11b1 := hw.sub rfl
  unfold execErrorRaised
  repeat' first
    | with_reducible assumption
    | extract_lets
    | intro _
    | split
    | with_reducible apply State.raise_keeps w0
    | with_reducible apply kept_if
    | with_reducible apply kept_foldl
    | with_reducible apply keptOut_of

theorem execCeMergeWindowEnd_keeps (hw : Frees z 0x1800c00000240000000000000002010000000000c9c11b1) (u : BitVec 8) (code : BitVec 16) (location : BitVec 64) (s : State)  (hk : Kept z s) :
    KeptOut z (execCeMergeWindowEnd u code location s) := by
  have w0 : Frees z 0x1800c00000240000000000000002010000000000c9c11b1 := hw.sub rfl
  have w1 : Frees z 0x800000 := hw.sub rfl
  unfold execCeMergeWindowEnd
  repeat' first
    | with_reducible assumption
    | extract_lets
    | intro _
    | split
    | with_reducible apply State.handle_keeps w0
    | with_reducible apply kept_if
    | with_reducible apply kept_foldl
    | with_reducible refine upd_res w1 ?_
    | with_reducible apply keptOut_of

theorem execCeThresholdWindowEnd_keeps (hw : Frees z 0x800000) (s : State)  (hk : Kept z s) :
    KeptOut z (execCeThresholdWindowEnd s) := by
  have w0 : Frees z 0x800000 := hw.sub rfl
  unfold execCeThresholdWindowEnd
  repeat' first
    | with_reducible assumption
    | extract_lets
    | intro _
    | split
    | with_reducible apply State.rollWindow_keeps w0
    | with_reducible apply kept_if
    | with_reducible apply kept_foldl
    | with_reducible apply keptOut_of

theorem State.flushHeld_keeps (hw : Frees z 0x8000000000400000000000000000000000000000800010) (s : State)  (hk : Kept z s) :
    Kept z (State.flushHeld s) := by
  have w0 : Frees z 0x8000000000400000000000000000000000000000800010 := hw.sub rfl
  have w1 : Frees z 0x800000 := hw.sub rfl
  unfold State.flushHeld
  repeat' first
    | with_reducible assumption
    | extract_lets
    | intro _
    | split
    | with_reducible apply State.logRecord_keeps w0
    | with_reducible apply kept_if
    | with_reducible apply kept_foldl
    | with_reducible refine upd_res w1 ?_

theorem State.noteLogFull_keeps (hw : Frees z 0x8000000000000000000000000000000000000000000000) (s : State)  (hk : Kept z s) :
    Kept z (State.noteLogFull s) := by
  have w0 : Frees z (Field.bit glbErrlogCtrl_full) := hw.sub rfl
  unfold State.noteLogFull
  repeat' first
    | with_reducible assumption
    | extract_lets
    | intro _
    | split
    | with_reducible apply State.setFlag_keeps (hw := w0)
    | with_reducible apply kept_if
    | with_reducible apply kept_foldl

theorem State.writeErrlogCtrl_keeps (hw : Frees z 0x8000000000400000000000000000000000000000800010) (s : State) (fn : ℕ) (l : Lane) (v : BitVec 64)  (hk : Kept z s) :
    Kept z (State.writeErrlogCtrl s fn l v) := by
  have w0 : Frees z (Reg.bit .glbErrlogCtrl) := hw.sub rfl
  have w1 : Frees z 0x8000000000400000000000000000000000000000800010 := hw.sub rfl
  have w2 : Frees z 0x8000000000000000000000000000000000000000000000 := hw.sub rfl
  have w3 : Frees z (Field.bit glbErrlogCtrl_tail) := hw.sub rfl
  have w4 : Frees z 0x800000 := hw.sub rfl
  unfold State.writeErrlogCtrl
  repeat' first
    | with_reducible assumption
    | extract_lets
    | intro _
    | split
    | with_reducible apply State.writeFields_keeps (hw := w0)
    | with_reducible apply State.flushHeld_keeps w1
    | with_reducible apply State.noteLogFull_keeps w2
    | with_reducible apply State.setFld_keeps (hw := w3)
    | with_reducible apply kept_if
    | with_reducible apply kept_foldl
    | with_reducible refine upd_res w4 ?_

theorem execGlbErrlogCtrlWrite_keeps (hw : Frees z 0x8000000000400000000000000000000000000000800010) (fn : Fn) (lane : Lane) (v : BitVec 64) (s : State)  (hk : Kept z s) :
    KeptOut z (execGlbErrlogCtrlWrite fn lane v s) := by
  have w0 : Frees z 0x0 := hw.sub rfl
  have w1 : Frees z 0x8000000000400000000000000000000000000000800010 := hw.sub rfl
  unfold execGlbErrlogCtrlWrite
  repeat' first
    | with_reducible assumption
    | extract_lets
    | intro _
    | split
    | with_reducible apply State.whenKept_keeps w0
    | with_reducible apply State.writeErrlogCtrl_keeps w1
    | with_reducible apply kept_if
    | with_reducible apply kept_foldl
    | with_reducible apply keptOut_of

end Sys2Proof.Machine
end

