-- ==== Sys2Proof/Laws/KeepsResilience.lean ====
section
/-! SUPPORT. Every operation of Machine/Resilience.lean keeps the queue, the canonical forms and every piece that it does not touch. -/

set_option Elab.async false
set_option linter.unusedSimpArgs false
set_option linter.unusedTactic false
set_option linter.unreachableTactic false

namespace Sys2Proof.Machine

variable {z : Ref}

theorem execHeartbeatTimer_keeps (hw : Frees z 0x900000) (s : State)  (hk : Kept z s) :
    KeptOut z (execHeartbeatTimer s) := by
  have w0 : Frees z 0x0 := hw.sub rfl
  have w1 : Frees z 0x100000 := hw.sub rfl
  have w2 : Frees z 0x800000 := hw.sub rfl
  unfold execHeartbeatTimer
  repeat' first
    | with_reducible assumption
    | extract_lets
    | intro _
    | split
    | with_reducible apply State.whenLive_keeps w0
    | with_reducible apply State.sendGroup_keeps w1
    | with_reducible apply kept_if
    | with_reducible apply kept_foldl
    | with_reducible refine upd_res w2 ?_
    | with_reducible apply keptOut_of

theorem State.groupAt_keeps (hw : Frees z 0x80000000000002000000000000000000001000000) (s : State) (rx : Rx) (op : ℕ) (ok : Frame → Bool) (f : Frame → State → State)  (hk : Kept z s) (hk_f : ∀ y0 y1, Kept z y1 → Kept z (f y0 y1)) :
    Kept z (State.groupAt s rx op ok f) := by
  have w0 : Frees z 0x80000000000002000000000000000000001000000 := hw.sub rfl
  have w1 : Frees z (Field.bit asfRxDrop_badOp) := hw.sub rfl
  unfold State.groupAt
  repeat' first
    | with_reducible assumption
    | extract_lets
    | intro _
    | split
    | with_reducible apply State.atPort_keeps w0
    | with_reducible apply State.bump_keeps (hw := w1)
    | with_reducible apply hk_f
    | with_reducible apply kept_if
    | with_reducible apply kept_foldl

theorem State.seeTerm_keeps (hw : Frees z 0x10000000000000000000000000000000000) (s : State) (t : ℕ)  (hk : Kept z s) :
    Kept z (State.seeTerm s t) := by
  have w0 : Frees z (Field.bit resMgr_term) := hw.sub rfl
  simp (maxDischargeDepth := 30) only [State.seeTerm, (State.setFld_keeps (hw := w0)), and_self, hk]

theorem State.managerReplies_keeps (hw : Frees z 0x400000000000000000400900034) (s : State) (lost : ℕ)  (hk : Kept z s) :
    Kept z (State.managerReplies s lost) := by
  have w0 : Frees z 0x400000000000000000400100030 := hw.sub rfl
  have w1 : Frees z 0x800004 := hw.sub rfl
  unfold State.managerReplies
  repeat' first
    | with_reducible refine keptOpt_map ?_
    | with_reducible assumption
    | extract_lets
    | intro _
    | split
    | with_reducible apply State.replyTo_keeps w0
    | with_reducible apply kept_if
    | with_reducible apply kept_foldl
    | with_reducible refine upd_freeCtr_res w1 ?_

theorem State.noticeAll_keeps (hw : Frees z 0x400000000000000000400100030) (s : State) (lost : ℕ) (r : Reply)  (hk : Kept z s) :
    Kept z (State.noticeAll s lost r) := by
  have w0 : Frees z 0x400000000000000000400100030 := hw.sub rfl
  unfold State.noticeAll
  repeat' first
    | with_reducible assumption
    | extract_lets
    | intro _
    | split
    | with_reducible apply State.replyTo_keeps w0
    | with_reducible apply kept_if
    | with_reducible apply kept_foldl

theorem State.deferredMoves_keeps (hw : Frees z 0x800000) (s : State) (lost : ℕ) (old : ℕ) (node : ℕ) (handle : ℕ)  (hk : Kept z s) :
    Kept z (State.deferredMoves s lost old node handle) := by
  have w0 : Frees z 0x800000 := hw.sub rfl
  simp (maxDischargeDepth := 30) only [State.deferredMoves, upd_res w0, and_self, hk]

theorem State.recastNotices_keeps (hw : Frees z 0x400000000000000000400900034) (s : State) (n : ℕ)  (hk : Kept z s) :
    Kept z (State.recastNotices s n) := by
  have w0 : Frees z 0x400000000000000000400100030 := hw.sub rfl
  have w1 : Frees z 0x800000 := hw.sub rfl
  have w2 : Frees z 0x4 := hw.sub rfl
  unfold State.recastNotices
  repeat' first
    | with_reducible assumption
    | extract_lets
    | intro _
    | split
    | with_reducible apply State.noticeAll_keeps w0
    | with_reducible apply State.deferredMoves_keeps w1
    | with_reducible apply kept_if
    | with_reducible apply kept_foldl
    | with_reducible refine upd_freeCtr w2 ?_

theorem State.mirrorWaitsEnd_keeps (hw : Frees z 0x400000000000000000500100030) (s : State) (q : Seq) (h : ℕ)  (hk : Kept z s) :
    Kept z (State.mirrorWaitsEnd s q h).1 := by
  have w0 : Frees z 0x400000000000000000500100030 := hw.sub rfl
  unfold State.mirrorWaitsEnd
  refine kept_foldl_pair _ hk fun t d ht => ?_
  split
  · exact State.finish_keeps w0 _ _ _ _ _ ht
  · split
    · exact ht
    · exact State.finish_keeps w0 _ _ _ _ _ ht
theorem State.mirrorWaitsEnd_gives (hw : Frees z 0x400000000000000000500100030) {t : State} {y0} {s : State} {q : Seq} {h : ℕ} (he : State.mirrorWaitsEnd s q h = (t, y0)) (hk : Kept z s) : Kept z t :=
  by have k := State.mirrorWaitsEnd_keeps hw s q h hk; rw [he] at k; exact k

theorem State.partnerGone_keeps (hw : Frees z 0x4000000000000000005009010b0) (s : State) (h : ℕ) (q : Seq)  (hk : Kept z s) :
    Kept z (State.partnerGone s h q) := by
  have w0 : Frees z 0x400000000000000000500100030 := hw.sub rfl
  have w1 : Frees z 0x400000000000000000000900010 := hw.sub rfl
  have w2 : Frees z 0x1000 := hw.sub rfl
  have w3 : Frees z 0x80 := hw.sub rfl
  have w4 : Frees z 0x800080 := hw.sub rfl
  unfold State.partnerGone
  repeat' first
    | with_reducible refine keptOpt_map ?_
    | with_reducible assumption
    | extract_lets
    | intro _
    | split
    | with_reducible apply State.mirrorWaitsEnd_keeps w0
    | with_reducible refine State.mirrorWaitsEnd_gives w0 (by with_reducible assumption) ?_
    | with_reducible apply State.leavePartner_keeps w1
    | with_reducible apply State.notePins_keeps w2
    | with_reducible apply State.modSeq_keeps w3
    | with_reducible apply State.changePartner_keeps w4
    | with_reducible apply kept_if
    | with_reducible apply kept_foldl
    | dsimp +zetaDelta only

theorem State.partnerLost_keeps (hw : Frees z 0x1800c00000240000000040000002010000000050c9c11b1) (s : State) (n : ℕ)  (hk : Kept z s) :
    Kept z (State.partnerLost s n) := by
  have w0 : Frees z 0x1800c00000240000000000000002010000000000c9c11b1 := hw.sub rfl
  have w1 : Frees z 0x4000000000000000005009010b0 := hw.sub rfl
  have w2 : Frees z 0x800180 := hw.sub rfl
  unfold State.partnerLost
  repeat' first
    | with_reducible refine keptOpt_map ?_
    | with_reducible assumption
    | extract_lets
    | intro _
    | split
    | with_reducible apply State.raise_keeps w0
    | with_reducible apply State.partnerGone_keeps w1
    | with_reducible apply kept_if
    | with_reducible apply kept_foldl
    | with_reducible refine upd_seqs_parts_res w2 ?_

theorem State.copyDone_keeps (hw : Frees z 0x4000e9800000000020d009071f0) (s : State) (h : ℕ) (q : Seq)  (hk : Kept z s) :
    Kept z (State.copyDone s h q) := by
  have w0 : Frees z 0x400000000000000000000900010 := hw.sub rfl
  have w1 : Frees z 0x80 := hw.sub rfl
  have w2 : Frees z 0x4000e9800000000020d009071f0 := hw.sub rfl
  have w3 : Frees z 0x400000000000000000500100030 := hw.sub rfl
  unfold State.copyDone
  repeat' first
    | with_reducible assumption
    | extract_lets
    | intro _
    | split
    | with_reducible apply State.leavePartner_keeps w0
    | with_reducible apply State.modSeq_keeps w1
    | with_reducible apply State.release_keeps w2
    | with_reducible apply State.finish_keeps w3
    | with_reducible apply kept_if
    | with_reducible apply kept_foldl
    | dsimp +zetaDelta only

theorem execMirrorCopyComplete_keeps (hw : Frees z 0x4000e9800000000020d009071f0) (handle : BitVec 18) (ok : Bool) (s : State)  (hk : Kept z s) :
    KeptOut z (execMirrorCopyComplete handle ok s) := by
  have w0 : Frees z 0x0 := hw.sub rfl
  have w1 : Frees z 0x4000000000000000005009010b0 := hw.sub rfl
  have w2 : Frees z 0x4000e9800000000020d009071f0 := hw.sub rfl
  unfold execMirrorCopyComplete
  repeat' first
    | with_reducible assumption
    | extract_lets
    | intro _
    | split
    | with_reducible apply State.whenLive_keeps w0
    | with_reducible apply State.partnerGone_keeps w1
    | with_reducible apply State.copyDone_keeps w2
    | with_reducible apply kept_if
    | with_reducible apply kept_foldl
    | with_reducible apply keptOut_of

theorem State.killNode_keeps (hw : Frees z 0x1800c084002440000023c840eb9b0730000420d9d9df7f1) (s : State) (n : ℕ)  (hk : Kept z s) :
    Kept z (State.killNode s n) := by
  have w0 : Frees z 0x1800c084002440000023c840eb9b0730000420d9d9df7f1 := hw.sub rfl
  unfold State.killNode
  repeat' first
    | with_reducible assumption
    | extract_lets
    | intro _
    | split
    | with_reducible apply State.openFails_keeps w0
    | with_reducible apply State.killConn_keeps w0
    | with_reducible apply kept_if
    | with_reducible apply kept_foldl

theorem State.completeByRebuild_keeps (hw : Frees z 0x4000000000000000000009071b0) (s : State) (h : ℕ) (q : Seq) (m : Move)  (hk : Kept z s) :
    Kept z (State.completeByRebuild s h q m) := by
  have w0 : Frees z 0x80 := hw.sub rfl
  have w1 : Frees z 0x4000000000000000000009071b0 := hw.sub rfl
  have w2 : Frees z 0x1080 := hw.sub rfl
  have w3 : Frees z 0x1000 := hw.sub rfl
  unfold State.completeByRebuild
  repeat' first
    | with_reducible refine keptOpt_map ?_
    | with_reducible assumption
    | extract_lets
    | intro _
    | split
    | with_reducible apply State.modSeq_keeps w0
    | with_reducible apply State.toRebuild_keeps w1
    | with_reducible apply State.become_keeps w2
    | with_reducible apply kept_if
    | with_reducible apply kept_foldl
    | with_reducible refine upd_tiers w3 rfl ?_

theorem State.pullOwn_keeps (hw : Frees z 0x3080) (s : State) (h : ℕ) (q : Seq) (m : Move) (x : Slice) (i : ℕ)  (hk : Kept z s) :
    Kept z (State.pullOwn s h q m x i) := by
  have w0 : Frees z 0x3000 := hw.sub rfl
  have w1 : Frees z 0x80 := hw.sub rfl
  unfold State.pullOwn
  repeat' first
    | with_reducible refine keptOpt_map ?_
    | with_reducible assumption
    | extract_lets
    | intro _
    | split
    | with_reducible apply State.setPageBytes_keeps w0
    | with_reducible apply State.modSeq_keeps w1
    | with_reducible apply kept_if
    | with_reducible apply kept_foldl

theorem State.pullMove_keeps (hw : Frees z 0x3090) (s : State) (h : ℕ) (n : ℕ) (q : Seq) (m : Move)  (hk : Kept z s) :
    Kept z (State.pullMove s h n q m) := by
  have w0 : Frees z 0x80 := hw.sub rfl
  have w1 : Frees z 0x3080 := hw.sub rfl
  have w2 : Frees z 0x10 := hw.sub rfl
  unfold State.pullMove
  repeat' first
    | with_reducible assumption
    | extract_lets
    | intro _
    | split
    | with_reducible apply State.modSeq_keeps w0
    | with_reducible apply State.pullOwn_keeps w1
    | with_reducible apply State.send_keeps w2
    | with_reducible apply kept_if
    | with_reducible apply kept_foldl

theorem State.moveLoses_keeps (hw : Frees z 0x400000004000e9800000000020d009071f4) (s : State) (n : ℕ) (x : ℕ × Seq)  (hk : Kept z s) :
    Kept z (State.moveLoses s n x) := by
  have w0 : Frees z 0x80 := hw.sub rfl
  have w1 : Frees z 0x4000e9800000000020d009071f4 := hw.sub rfl
  have w2 : Frees z 0x400000004000000000000000004009071b0 := hw.sub rfl
  have w3 : Frees z 0x4000000000000000000009071b0 := hw.sub rfl
  have w4 : Frees z 0x3090 := hw.sub rfl
  have w5 : Frees z 0x4000e98000000000208009071d0 := hw.sub rfl
  unfold State.moveLoses
  repeat' first
    | with_reducible assumption
    | extract_lets
    | intro _
    | split
    | with_reducible apply State.recastEnds_keeps w0
    | with_reducible apply State.destinationLost_keeps w1
    | with_reducible apply State.stampFlip_keeps w2
    | with_reducible apply State.completeByRebuild_keeps w3
    | with_reducible apply State.pullMove_keeps w4
    | with_reducible apply State.freeSeq_keeps w5
    | with_reducible apply kept_if
    | with_reducible apply kept_foldl

theorem State.spareLost_keeps (hw : Frees z 0x40000000000000000000000000000800000) (s : State) (n : ℕ)  (hk : Kept z s) :
    Kept z (State.spareLost s n) := by
  have w0 : Frees z (Field.bit resStat_recastSource) := hw.sub rfl
  have w1 : Frees z 0x800000 := hw.sub rfl
  unfold State.spareLost
  repeat' first
    | with_reducible refine keptOpt_map ?_
    | with_reducible assumption
    | extract_lets
    | intro _
    | split
    | with_reducible apply State.setFlag_keeps (hw := w0)
    | with_reducible apply kept_if
    | with_reducible apply kept_foldl
    | with_reducible refine upd_res w1 ?_

theorem State.reactLost_keeps (hw : Frees z 0x1800c084002440000023c840eb9b0730000420d9d9df7f5) (s : State) (n : ℕ) (e : ℕ)  (hk : Kept z s) :
    Kept z (State.reactLost s n e) := by
  have w0 : Frees z (Field.bit resStat_lastLost) := hw.sub rfl
  have w1 : Frees z 0x1800c084002440000023c840eb9b0730000420d9d9df7f1 := hw.sub rfl
  have w2 : Frees z 0x400000004000e9800000000020d009071f4 := hw.sub rfl
  have w3 : Frees z 0x1800c00000240000000040000002010000000050c9c11b1 := hw.sub rfl
  have w4 : Frees z 0x40000000000000000040091b0f0 := hw.sub rfl
  have w5 : Frees z 0xe9800000000020800000000 := hw.sub rfl
  have w6 : Frees z 0x40000000000000000000000000000800000 := hw.sub rfl
  have w7 : Frees z 0x100000 := hw.sub rfl
  unfold State.reactLost
  repeat' first
    | with_reducible assumption
    | extract_lets
    | intro _
    | split
    | with_reducible apply State.setFld_keeps (hw := w0)
    | with_reducible apply State.deriveMap_keeps w1
    | with_reducible apply State.killNode_keeps w1
    | with_reducible apply State.moveLoses_keeps w2
    | with_reducible apply State.partnerLost_keeps w3
    | with_reducible apply State.promote_keeps w4
    | with_reducible apply State.noteTiers_keeps w5
    | with_reducible apply State.spareLost_keeps w6
    | with_reducible apply kept_if
    | with_reducible apply kept_foldl
    | with_reducible refine upd_asf w7 ?_

theorem State.reactSpare_keeps (hw : Frees z 0x1c00000000000e9800000000020800801010) (s : State) (lost : ℕ) (spare : ℕ)  (hk : Kept z s) :
    Kept z (State.reactSpare s lost spare) := by
  have w0 : Frees z (Field.bit resRecast_spare) := hw.sub rfl
  have w1 : Frees z (Field.bit resRecast_source) := hw.sub rfl
  have w2 : Frees z (Field.bit resStat_recastDest) := hw.sub rfl
  have w3 : Frees z (Field.bit resStat_recastSource) := hw.sub rfl
  have w4 : Frees z 0x10 := hw.sub rfl
  have w5 : Frees z 0x1c00000000000e9800000000020800801000 := hw.sub rfl
  unfold State.reactSpare
  repeat' first
    | with_reducible assumption
    | extract_lets
    | intro _
    | split
    | with_reducible apply State.setFld_keeps (hw := w0)
    | with_reducible apply State.setFld_keeps (hw := w1)
    | with_reducible apply State.setFlag_keeps (hw := w2)
    | with_reducible apply State.setFlag_keeps (hw := w3)
    | with_reducible apply State.sendMember_keeps w4
    | with_reducible apply State.noteRecast_keeps w5
    | with_reducible apply kept_if
    | with_reducible apply kept_foldl

theorem State.assignSpare_keeps (hw : Frees z 0x1c00000000000e9800000000020800901010) (s : State) (lost : ℕ)  (hk : Kept z s) :
    Kept z (State.assignSpare s lost) := by
  have w0 : Frees z 0x1c00000000000e9800000000020800801010 := hw.sub rfl
  have w1 : Frees z 0x100000 := hw.sub rfl
  have w2 : Frees z 0x800000 := hw.sub rfl
  unfold State.assignSpare
  repeat' first
    | with_reducible assumption
    | extract_lets
    | intro _
    | split
    | with_reducible apply State.reactSpare_keeps w0
    | with_reducible apply State.sendGroup_keeps w1
    | with_reducible apply kept_if
    | with_reducible apply kept_foldl
    | with_reducible refine upd_res w2 ?_

theorem State.assignSpares_keeps (hw : Frees z 0x1c00000000000e9800000000020800901010) (s : State)  (hk : Kept z s) :
    Kept z (State.assignSpares s) := by
  have w0 : Frees z 0x1c00000000000e9800000000020800901010 := hw.sub rfl
  have w1 : Frees z 0x800000 := hw.sub rfl
  unfold State.assignSpares
  repeat' first
    | with_reducible assumption
    | extract_lets
    | intro _
    | split
    | with_reducible apply State.assignSpare_keeps w0
    | with_reducible apply kept_if
    | with_reducible apply kept_foldl
    | with_reducible refine upd_res w1 ?_

theorem execSpareRetryTimer_keeps (hw : Frees z 0x1c00000000000e9800000000020800901010) (s : State)  (hk : Kept z s) :
    KeptOut z (execSpareRetryTimer s) := by
  have w0 : Frees z 0x0 := hw.sub rfl
  have w1 : Frees z 0x1c00000000000e9800000000020800901010 := hw.sub rfl
  unfold execSpareRetryTimer
  repeat' first
    | with_reducible assumption
    | extract_lets
    | intro _
    | split
    | with_reducible apply State.whenLive_keeps w0
    | with_reducible apply State.assignSpares_keeps w1
    | with_reducible apply kept_if
    | with_reducible apply kept_foldl
    | with_reducible apply keptOut_of

theorem State.declareLost_keeps (hw : Frees z 0x1800c0840025c0000023c840eb9b0730000420d9d9df7f5) (s : State) (n : ℕ)  (hk : Kept z s) :
    Kept z (State.declareLost s n) := by
  have w0 : Frees z 0x100000 := hw.sub rfl
  have w1 : Frees z 0x1800c00000240000000000000002010000000000c9c11b1 := hw.sub rfl
  have w2 : Frees z 0x1c00000000000e9800000000020800901010 := hw.sub rfl
  have w3 : Frees z 0x400000000000000000400900034 := hw.sub rfl
  have w4 : Frees z 0x1800c084002440000023c840eb9b0730000420d9d9df7f5 := hw.sub rfl
  have w5 : Frees z 0x800000 := hw.sub rfl
  unfold State.declareLost
  repeat' first
    | with_reducible assumption
    | extract_lets
    | intro _
    | split
    | with_reducible apply State.sendGroup_keeps w0
    | with_reducible apply State.raise_keeps w1
    | with_reducible apply State.assignSpares_keeps w2
    | with_reducible apply State.recastNotices_keeps w3
    | with_reducible apply State.managerReplies_keeps w3
    | with_reducible apply State.reactLost_keeps w4
    | with_reducible apply kept_if
    | with_reducible apply kept_foldl
    | with_reducible refine upd_res w5 ?_

theorem State.resendDecision_keeps (hw : Frees z 0x900000) (s : State) (d : Decision)  (hk : Kept z s) :
    Kept z (State.resendDecision s d) := by
  have w0 : Frees z 0x100000 := hw.sub rfl
  have w1 : Frees z 0x800000 := hw.sub rfl
  unfold State.resendDecision
  repeat' first
    | with_reducible refine keptOpt_map ?_
    | with_reducible assumption
    | extract_lets
    | intro _
    | split
    | with_reducible apply State.sendGroup_keeps w0
    | with_reducible apply kept_if
    | with_reducible apply kept_foldl
    | with_reducible refine upd_res w1 ?_

theorem execDecisionResend_keeps (hw : Frees z 0x900000) (s : State)  (hk : Kept z s) :
    KeptOut z (execDecisionResend s) := by
  have w0 : Frees z 0x0 := hw.sub rfl
  have w1 : Frees z 0x900000 := hw.sub rfl
  unfold execDecisionResend
  repeat' first
    | with_reducible assumption
    | extract_lets
    | intro _
    | split
    | with_reducible apply State.whenLive_keeps w0
    | with_reducible apply State.resendDecision_keeps w1
    | with_reducible apply kept_if
    | with_reducible apply kept_foldl
    | with_reducible apply keptOut_of

theorem State.grantJournal_keeps (hw : Frees z 0xeb800000000020800105014) (s : State) (node : ℕ)  (hk : Kept z s) :
    Kept z (State.grantJournal s node) := by
  have w0 : Frees z 0x4 := hw.sub rfl
  have w1 : Frees z 0xeb800000000020800105000 := hw.sub rfl
  have w2 : Frees z 0x10 := hw.sub rfl
  unfold State.grantJournal
  repeat' first
    | with_reducible assumption
    | extract_lets
    | intro _
    | split
    | with_reducible apply State.regionBase_keeps w0
    | with_reducible refine State.regionBase_gives w0 (by with_reducible assumption) ?_
    | with_reducible apply State.addRegion_keeps w1
    | with_reducible refine State.addRegion_gives w1 (by with_reducible assumption) ?_
    | with_reducible apply State.send_keeps w2
    | with_reducible apply kept_if
    | with_reducible apply kept_foldl

theorem State.beat_keeps (hw : Frees z 0x1800c0840025d0000023c840eb9b0730000420d9d9df7f5) (f : Frame) (s : State)  (hk : Kept z s) :
    Kept z (State.beat f s) := by
  have w0 : Frees z 0x10000000000000000000000000000000000 := hw.sub rfl
  have w1 : Frees z (Field.bit resMgr_acting) := hw.sub rfl
  have w2 : Frees z 0x1800c0840025c0000023c840eb9b0730000420d9d9df7f5 := hw.sub rfl
  have w3 : Frees z 0xeb800000000020800105014 := hw.sub rfl
  have w4 : Frees z 0x800000 := hw.sub rfl
  unfold State.beat
  repeat' first
    | with_reducible assumption
    | extract_lets
    | intro _
    | split
    | with_reducible apply State.seeTerm_keeps w0
    | with_reducible apply State.setFld_keeps (hw := w1)
    | with_reducible apply State.declareLost_keeps w2
    | with_reducible apply State.grantJournal_keeps w3
    | with_reducible apply kept_if
    | with_reducible apply kept_foldl
    | with_reducible refine upd_res w4 ?_

theorem execHeartbeat_keeps (hw : Frees z 0x1800c0840025d0000023c840eb9b0730000420d9d9df7f5) (rx : Rx) (s : State)  (hk : Kept z s) :
    KeptOut z (execHeartbeat rx s) := by
  have w0 : Frees z 0x80000000000002000000000000000000001000000 := hw.sub rfl
  have w1 : Frees z 0x1800c0840025d0000023c840eb9b0730000420d9d9df7f5 := hw.sub rfl
  unfold execHeartbeat
  repeat' first
    | with_reducible assumption
    | extract_lets
    | intro _
    | split
    | with_reducible apply State.groupAt_keeps w0
    | with_reducible apply State.beat_keeps w1
    | with_reducible apply kept_if
    | with_reducible apply kept_foldl
    | with_reducible apply keptOut_of

theorem State.suspect_keeps (hw : Frees z 0x900000) (s : State) (n : ℕ)  (hk : Kept z s) :
    Kept z (State.suspect s n) := by
  have w0 : Frees z 0x100000 := hw.sub rfl
  have w1 : Frees z 0x800000 := hw.sub rfl
  unfold State.suspect
  repeat' first
    | with_reducible assumption
    | extract_lets
    | intro _
    | split
    | with_reducible apply State.sendProbes_keeps w0
    | with_reducible apply kept_if
    | with_reducible apply kept_foldl
    | with_reducible refine upd_res w1 ?_

theorem execSuspicionTimer_keeps (hw : Frees z 0x900000) (node : BitVec 16) (s : State)  (hk : Kept z s) :
    KeptOut z (execSuspicionTimer node s) := by
  have w0 : Frees z 0x0 := hw.sub rfl
  have w1 : Frees z 0x900000 := hw.sub rfl
  unfold execSuspicionTimer
  repeat' first
    | with_reducible assumption
    | extract_lets
    | intro _
    | split
    | with_reducible apply State.whenLive_keeps w0
    | with_reducible apply State.suspect_keeps w1
    | with_reducible apply kept_if
    | with_reducible apply kept_foldl
    | with_reducible apply keptOut_of

theorem execLossTimer_keeps (hw : Frees z 0x1800c0840025c0000023c840eb9b0730000420d9d9df7f5) (node : BitVec 16) (s : State)  (hk : Kept z s) :
    KeptOut z (execLossTimer node s) := by
  have w0 : Frees z 0x0 := hw.sub rfl
  have w1 : Frees z 0x1800c0840025c0000023c840eb9b0730000420d9d9df7f5 := hw.sub rfl
  unfold execLossTimer
  repeat' first
    | with_reducible assumption
    | extract_lets
    | intro _
    | split
    | with_reducible apply State.whenLive_keeps w0
    | with_reducible apply State.declareLost_keeps w1
    | with_reducible apply kept_if
    | with_reducible apply kept_foldl
    | with_reducible apply keptOut_of

theorem State.probed_keeps (hw : Frees z 0x900000) (f : Frame) (s : State)  (hk : Kept z s) :
    Kept z (State.probed f s) := by
  have w0 : Frees z 0x100000 := hw.sub rfl
  have w1 : Frees z 0x800000 := hw.sub rfl
  unfold State.probed
  repeat' first
    | with_reducible assumption
    | extract_lets
    | intro _
    | split
    | with_reducible apply State.sendGroup_keeps w0
    | with_reducible apply kept_if
    | with_reducible apply kept_foldl
    | with_reducible refine upd_res w1 ?_

theorem execProbe_keeps (hw : Frees z 0x80000000000002000000000000000000001900000) (rx : Rx) (s : State)  (hk : Kept z s) :
    KeptOut z (execProbe rx s) := by
  have w0 : Frees z 0x80000000000002000000000000000000001000000 := hw.sub rfl
  have w1 : Frees z 0x900000 := hw.sub rfl
  unfold execProbe
  repeat' first
    | with_reducible assumption
    | extract_lets
    | intro _
    | split
    | with_reducible apply State.groupAt_keeps w0
    | with_reducible apply State.probed_keeps w1
    | with_reducible apply kept_if
    | with_reducible apply kept_foldl
    | with_reducible apply keptOut_of

theorem State.decided_keeps (hw : Frees z 0x1800c0840025d0000023c840eb9b0730000420d9d9df7f5) (f : Frame) (s : State)  (hk : Kept z s) :
    Kept z (State.decided f s) := by
  have w0 : Frees z 0x1800c00000244000000000000002010000000000c9c11b1 := hw.sub rfl
  have w1 : Frees z 0x10000000000000000000000000000000000 := hw.sub rfl
  have w2 : Frees z 0x1c00000000000e9800000000020800801010 := hw.sub rfl
  have w3 : Frees z (Field.bit resStat_lastLost) := hw.sub rfl
  have w4 : Frees z (Field.bit resStat_losses) := hw.sub rfl
  have w5 : Frees z 0x1800c084002440000023c840eb9b0730000420d9d9df7f5 := hw.sub rfl
  unfold State.decided
  repeat' first
    | with_reducible assumption
    | extract_lets
    | intro _
    | split
    | with_reducible apply State.fence_keeps w0
    | with_reducible apply State.seeTerm_keeps w1
    | with_reducible apply State.reactSpare_keeps w2
    | with_reducible apply State.setFld_keeps (hw := w3)
    | with_reducible apply State.bump_keeps (hw := w4)
    | with_reducible apply State.reactLost_keeps w5
    | with_reducible apply kept_if
    | with_reducible apply kept_foldl

theorem execDecision_keeps (hw : Frees z 0x1800c0840025d0000023c840eb9b0730000420d9d9df7f5) (rx : Rx) (s : State)  (hk : Kept z s) :
    KeptOut z (execDecision rx s) := by
  have w0 : Frees z 0x80000000000002000000000000000000001000000 := hw.sub rfl
  have w1 : Frees z 0x1800c0840025d0000023c840eb9b0730000420d9d9df7f5 := hw.sub rfl
  unfold execDecision
  repeat' first
    | with_reducible assumption
    | extract_lets
    | intro _
    | split
    | with_reducible apply State.groupAt_keeps w0
    | with_reducible apply State.decided_keeps w1
    | with_reducible apply kept_if
    | with_reducible apply kept_foldl
    | with_reducible apply keptOut_of

theorem State.follow_keeps (hw : Frees z 0x50000000000000000000000000000800000) (s : State) (m : ℕ)  (hk : Kept z s) :
    Kept z (State.follow s m) := by
  have w0 : Frees z (Field.bit resStat_managing) := hw.sub rfl
  have w1 : Frees z (Field.bit resMgr_acting) := hw.sub rfl
  have w2 : Frees z 0x800000 := hw.sub rfl
  unfold State.follow
  repeat' first
    | with_reducible assumption
    | extract_lets
    | intro _
    | split
    | with_reducible apply State.setFlag_keeps (hw := w0)
    | with_reducible apply State.setFld_keeps (hw := w1)
    | with_reducible apply kept_if
    | with_reducible apply kept_foldl
    | with_reducible refine upd_res w2 ?_

theorem State.deputyTakes_keeps (hw : Frees z 0x1800c0840025d0000023c840eb9b0730000420d9d9df7f5) (s : State) (old : ℕ)  (hk : Kept z s) :
    Kept z (State.deputyTakes s old) := by
  have w0 : Frees z (Field.bit resMgr_term) := hw.sub rfl
  have w1 : Frees z 0x100000 := hw.sub rfl
  have w2 : Frees z 0x1800c0840025c0000023c840eb9b0730000420d9d9df7f5 := hw.sub rfl
  have w3 : Frees z 0x50000000000000000000000000000800000 := hw.sub rfl
  unfold State.deputyTakes
  repeat' first
    | with_reducible assumption
    | extract_lets
    | intro _
    | split
    | with_reducible apply State.setFld_keeps (hw := w0)
    | with_reducible apply State.sendGroup_keeps w1
    | with_reducible apply State.declareLost_keeps w2
    | with_reducible apply State.follow_keeps w3
    | with_reducible apply kept_if
    | with_reducible apply kept_foldl

theorem execDeputyTakeoverTimer_keeps (hw : Frees z 0x1800c0840025d0000023c840eb9b0730000420d9d9df7f5) (s : State)  (hk : Kept z s) :
    KeptOut z (execDeputyTakeoverTimer s) := by
  have w0 : Frees z 0x0 := hw.sub rfl
  have w1 : Frees z 0x900000 := hw.sub rfl
  have w2 : Frees z 0x1800c0840025d0000023c840eb9b0730000420d9d9df7f5 := hw.sub rfl
  unfold execDeputyTakeoverTimer
  repeat' first
    | with_reducible assumption
    | extract_lets
    | intro _
    | split
    | with_reducible apply State.whenLive_keeps w0
    | with_reducible apply State.suspect_keeps w1
    | with_reducible apply State.deputyTakes_keeps w2
    | with_reducible apply kept_if
    | with_reducible apply kept_foldl
    | with_reducible apply keptOut_of

theorem State.takenOver_keeps (hw : Frees z 0x1800c00000245000000000000002010000000000c9c11b1) (f : Frame) (s : State)  (hk : Kept z s) :
    Kept z (State.takenOver f s) := by
  have w0 : Frees z 0x1800c00000244000000000000002010000000000c9c11b1 := hw.sub rfl
  have w1 : Frees z 0x10000000000000000000000000000000000 := hw.sub rfl
  have w2 : Frees z 0x50000000000000000000000000000800000 := hw.sub rfl
  unfold State.takenOver
  repeat' first
    | with_reducible assumption
    | extract_lets
    | intro _
    | split
    | with_reducible apply State.fence_keeps w0
    | with_reducible apply State.seeTerm_keeps w1
    | with_reducible apply State.follow_keeps w2
    | with_reducible apply kept_if
    | with_reducible apply kept_foldl

theorem execTakeover_keeps (hw : Frees z 0x1800c08000245000000200000002010000000000d9c11b1) (rx : Rx) (s : State)  (hk : Kept z s) :
    KeptOut z (execTakeover rx s) := by
  have w0 : Frees z 0x80000000000002000000000000000000001000000 := hw.sub rfl
  have w1 : Frees z 0x1800c00000245000000000000002010000000000c9c11b1 := hw.sub rfl
  unfold execTakeover
  repeat' first
    | with_reducible assumption
    | extract_lets
    | intro _
    | split
    | with_reducible apply State.groupAt_keeps w0
    | with_reducible apply State.takenOver_keeps w1
    | with_reducible apply kept_if
    | with_reducible apply kept_foldl
    | with_reducible apply keptOut_of

theorem State.recastFlipped_keeps (hw : Frees z 0x1c00000004000eb800000000020d0091f1f4) (s : State) (h : ℕ) (newH : ℕ) (q : Seq) (m : Move)  (hk : Kept z s) :
    Kept z (State.recastFlipped s h newH q m) := by
  have w0 : Frees z 0x800000000000eb80000000002080091f014 := hw.sub rfl
  have w1 : Frees z 0x1c00000000000e9800000000020800801000 := hw.sub rfl
  have w2 : Frees z 0x4000e9800000000020d009071f0 := hw.sub rfl
  have w3 : Frees z 0x400000000000000000400100030 := hw.sub rfl
  have w4 : Frees z 0x800000 := hw.sub rfl
  unfold State.recastFlipped
  repeat' first
    | with_reducible assumption
    | extract_lets
    | intro _
    | split
    | with_reducible apply State.mirrorFor_keeps w0
    | with_reducible apply State.noteRecast_keeps w1
    | with_reducible apply State.dropPromoted_keeps w2
    | with_reducible apply State.noticeAll_keeps w3
    | with_reducible apply State.deferredMoves_keeps w4
    | with_reducible refine KeptOpt.getD ?_ ?_
    | with_reducible apply kept_if
    | with_reducible apply kept_foldl

theorem execRecastFlip_keeps (hw : Frees z 0x1c00000004000eb800000000020d0091f1f4) (handle : BitVec 18) (newHandle : BitVec 18) (s : State)  (hk : Kept z s) :
    KeptOut z (execRecastFlip handle newHandle s) := by
  have w0 : Frees z 0x0 := hw.sub rfl
  have w1 : Frees z 0x1c00000004000eb800000000020d0091f1f4 := hw.sub rfl
  unfold execRecastFlip
  repeat' first
    | with_reducible assumption
    | extract_lets
    | intro _
    | split
    | with_reducible apply State.whenLive_keeps w0
    | with_reducible apply State.recastFlipped_keeps w1
    | with_reducible apply kept_if
    | with_reducible apply kept_foldl
    | with_reducible apply keptOut_of

end Sys2Proof.Machine
end

