-- ==== Sys2Proof/Laws/KeepsDomains.lean ====
section
/-! SUPPORT. Every operation of Machine/Domains.lean keeps the queue, the canonical forms and every piece that it does not touch. -/

set_option Elab.async false
set_option linter.unusedSimpArgs false
set_option linter.unusedTactic false
set_option linter.unreachableTactic false

namespace Sys2Proof.Machine

variable {z : Ref}

theorem State.refuseState_keeps (hw : Frees z 0x8000000000000000000000000000000000000000) (s : State) (r : ℕ) (d : ℕ) (refuser : ℕ)  (hk : Kept z s) :
    Kept z (State.refuseState s r d refuser) := by
  have w0 : Frees z (Field.bit pwrRefuse_refuser) := hw.sub rfl
  have w1 : Frees z (Field.bit pwrRefuse_domain) := hw.sub rfl
  have w2 : Frees z (Field.bit pwrRefuse_count) := hw.sub rfl
  simp (maxDischargeDepth := 30) only [State.refuseState, (State.setFld_keeps (hw := w0)), (State.setFld_keeps (hw := w1)), (State.bump_keeps (hw := w2)), and_self, hk]

theorem State.loseFlops_keeps (hw : Frees z 0x80000) (s : State) (d : ℕ)  (hk : Kept z s) :
    Kept z (State.loseFlops s d) := by
  have w0 : Frees z 0x80000 := hw.sub rfl
  unfold State.loseFlops
  repeat' first
    | with_reducible assumption
    | extract_lets
    | intro _
    | split
    | with_reducible apply State.emptyTiles_keeps w0
    | with_reducible apply kept_if
    | with_reducible apply kept_foldl

theorem State.loseAll_keeps (hw : Frees z 0x14000000c0000) (s : State) (d : ℕ)  (hk : Kept z s) :
    Kept z (State.loseAll s d) := by
  have w0 : Frees z 0x80000 := hw.sub rfl
  have w1 : Frees z (Reg.bit .genChEcc) := hw.sub rfl
  have w2 : Frees z (Reg.bit .genChWait) := hw.sub rfl
  have w3 : Frees z 0x40000 := hw.sub rfl
  unfold State.loseAll
  repeat' first
    | with_reducible assumption
    | extract_lets
    | intro _
    | split
    | with_reducible apply State.loseFlops_keeps w0
    | with_reducible apply State.setReg_keeps (hw := w1)
    | with_reducible apply State.setReg_keeps (hw := w2)
    | with_reducible apply kept_if
    | with_reducible apply kept_foldl
    | with_reducible refine upd_gen w3 ?_

theorem State.enterState_keeps (hw : Frees z 0x800000000000000000000000000014000010c0000) (s : State) (d : ℕ) (st : ℕ)  (hk : Kept z s) :
    Kept z (State.enterState s d st) := by
  have w0 : Frees z 0x80000000000000000000000000000000001000000 := hw.sub rfl
  have w1 : Frees z (Field.bit pwrDomStat_state) := hw.sub rfl
  have w2 : Frees z 0x80000 := hw.sub rfl
  have w3 : Frees z 0x14000000c0000 := hw.sub rfl
  unfold State.enterState
  repeat' first
    | with_reducible assumption
    | extract_lets
    | intro _
    | split
    | with_reducible apply State.clampIn_keeps w0
    | with_reducible apply State.setFld_keeps (hw := w1)
    | with_reducible apply State.loseFlops_keeps w2
    | with_reducible apply State.loseAll_keeps w3
    | with_reducible apply kept_if
    | with_reducible apply kept_foldl

theorem State.domainIdles_keeps (hw : Frees z 0x880000000000000000000000000014000010c0000) (s : State) (d : ℕ)  (hk : Kept z s) :
    Kept z (State.domainIdles s d) := by
  have w0 : Frees z 0x8000000000000000000000000000000000000000 := hw.sub rfl
  have w1 : Frees z 0x800000000000000000000000000014000010c0000 := hw.sub rfl
  unfold State.domainIdles
  repeat' first
    | with_reducible assumption
    | extract_lets
    | intro _
    | split
    | with_reducible apply State.refuseState_keeps w0
    | with_reducible apply State.enterState_keeps w1
    | with_reducible apply kept_if
    | with_reducible apply kept_foldl

theorem execDomainIdleTimer_keeps (hw : Frees z 0x880000000000000000000000000014000010c0000) (d : Fin 102) (s : State)  (hk : Kept z s) :
    KeptOut z (execDomainIdleTimer d s) := by
  have w0 : Frees z 0x880000000000000000000000000014000010c0000 := hw.sub rfl
  unfold execDomainIdleTimer
  repeat' first
    | with_reducible assumption
    | extract_lets
    | intro _
    | split
    | with_reducible apply State.domainIdles_keeps w0
    | with_reducible apply kept_if
    | with_reducible apply kept_foldl
    | with_reducible apply keptOut_of

theorem execRindWake_keeps (hw : Frees z 0x80000000000000000000000000000000001000000) (d : Fin 102) (source : BitVec 4) (s : State)  (hk : Kept z s) :
    KeptOut z (execRindWake d source s) := by
  have w0 : Frees z 0x0 := hw.sub rfl
  have w1 : Frees z 0x80000000000000000000000000000000001000000 := hw.sub rfl
  unfold execRindWake
  repeat' first
    | with_reducible assumption
    | extract_lets
    | intro _
    | split
    | with_reducible apply State.whenLive_keeps w0
    | with_reducible apply State.beginWake_keeps w1
    | with_reducible apply kept_if
    | with_reducible apply kept_foldl
    | with_reducible apply keptOut_of

theorem execScheduledWake_keeps (hw : Frees z 0x80000000000000000000000000000000001000000) (d : Fin 102) (s : State)  (hk : Kept z s) :
    KeptOut z (execScheduledWake d s) := by
  have w0 : Frees z 0x0 := hw.sub rfl
  have w1 : Frees z 0x80000000000000000000000000000000001000000 := hw.sub rfl
  unfold execScheduledWake
  repeat' first
    | with_reducible assumption
    | extract_lets
    | intro _
    | split
    | with_reducible apply State.whenLive_keeps w0
    | with_reducible apply State.beginWake_keeps w1
    | with_reducible apply kept_if
    | with_reducible apply kept_foldl
    | with_reducible apply keptOut_of

theorem State.saveAreaError_keeps (hw : Frees z 0x1800c00000240000000000000002010000000000c9c11b1) (s : State) (d : ℕ)  (hk : Kept z s) :
    Kept z (State.saveAreaError s d) := by
  have w0 : Frees z 0x1800c00000240000000000000002010000000000c9c11b1 := hw.sub rfl
  unfold State.saveAreaError
  extract_lets owners
  clear_value owners
  split
  · exact State.raise_keeps w0 _ _ hk
  · exact State.raise_keeps w0 _ _ hk

theorem State.endWake_keeps (hw : Frees z 0x1800c080002400000022c800eb830730001620d9d9df1f1) (s : State) (d : ℕ) (w : ℕ × Tick) (restoreOk : Bool)  (hk : Kept z s) :
    Kept z (State.endWake s d w restoreOk) := by
  have w0 : Frees z 0x1800c00000240000000000000002010000000000c9c11b1 := hw.sub rfl
  have w1 : Frees z 0x800000000000000000000000000014000010c0000 := hw.sub rfl
  have w2 : Frees z 0x80000000000000000000000000000000001000000 := hw.sub rfl
  have w3 : Frees z 0x1800c080002400000022c800eb830730001620d9d9df1f1 := hw.sub rfl
  have w4 : Frees z 0x1000000 := hw.sub rfl
  unfold State.endWake
  repeat' first
    | with_reducible assumption
    | extract_lets
    | intro _
    | split
    | with_reducible apply State.saveAreaError_keeps w0
    | with_reducible apply State.enterState_keeps w1
    | with_reducible apply State.worked_keeps w2
    | with_reducible apply State.comeUp_keeps w2
    | with_reducible apply State.channelWoke_keeps w3
    | with_reducible apply kept_if
    | with_reducible apply kept_foldl
    | with_reducible refine upd_pwr w4 ?_

theorem execDomainWakeComplete_keeps (hw : Frees z 0x1800c080002400000022c800eb830730001620d9d9df1f1) (d : Fin 102) (restoreOk : Bool) (s : State)  (hk : Kept z s) :
    KeptOut z (execDomainWakeComplete d restoreOk s) := by
  have w0 : Frees z 0x0 := hw.sub rfl
  have w1 : Frees z 0x1800c080002400000022c800eb830730001620d9d9df1f1 := hw.sub rfl
  unfold execDomainWakeComplete
  repeat' first
    | with_reducible assumption
    | extract_lets
    | intro _
    | split
    | with_reducible apply State.whenLive_keeps w0
    | with_reducible apply State.endWake_keeps w1
    | with_reducible apply kept_if
    | with_reducible apply kept_foldl
    | with_reducible apply keptOut_of

theorem State.enterC3_keeps (hw : Frees z 0x800080000000000000000000000014000010c0010) (s : State)  (hk : Kept z s) :
    Kept z (State.enterC3 s) := by
  have w0 : Frees z (Field.bit pwrDevStat_c3Entries) := hw.sub rfl
  have w1 : Frees z (Field.bit pwrDevStat_state) := hw.sub rfl
  have w2 : Frees z (Field.bit pwrDomStat_state) := hw.sub rfl
  have w3 : Frees z 0x800000000000000000000000000014000010c0000 := hw.sub rfl
  have w4 : Frees z 0x80000000000000000000000000000000000000000 := hw.sub rfl
  have w5 : Frees z 0x1000010 := hw.sub rfl
  have w6 : Frees z 0x1000000 := hw.sub rfl
  unfold State.enterC3
  repeat' first
    | with_reducible assumption
    | extract_lets
    | intro _
    | split
    | with_reducible apply State.bump_keeps (hw := w0)
    | with_reducible apply State.setFld_keeps (hw := w1)
    | with_reducible apply State.setFld_keeps (hw := w2)
    | with_reducible apply State.enterState_keeps w3
    | with_reducible apply State.notePoints_keeps w4
    | with_reducible apply State.setMem_keeps w5
    | with_reducible apply kept_if
    | with_reducible apply kept_foldl
    | with_reducible refine upd_pwr w6 ?_

theorem execC3Entry_keeps (hw : Frees z 0x880080000000000000000000000014000010c0010) (s : State)  (hk : Kept z s) :
    KeptOut z (execC3Entry s) := by
  have w0 : Frees z 0x0 := hw.sub rfl
  have w1 : Frees z 0x8000000000000000000000000000000000000000 := hw.sub rfl
  have w2 : Frees z 0x800080000000000000000000000014000010c0010 := hw.sub rfl
  unfold execC3Entry
  repeat' first
    | with_reducible assumption
    | extract_lets
    | intro _
    | split
    | with_reducible apply State.whenLive_keeps w0
    | with_reducible apply State.refuseState_keeps w1
    | with_reducible apply State.enterC3_keeps w2
    | with_reducible apply kept_if
    | with_reducible apply kept_foldl
    | with_reducible apply keptOut_of

theorem State.wakeRails_keeps (hw : Frees z 0x80000000000000000000000000000000001000010) (s : State)  (hk : Kept z s) :
    Kept z (State.wakeRails s) := by
  have w0 : Frees z 0x80000000000000000000000000000000000000000 := hw.sub rfl
  have w1 : Frees z 0x10 := hw.sub rfl
  have w2 : Frees z 0x1000000 := hw.sub rfl
  unfold State.wakeRails
  repeat' first
    | with_reducible assumption
    | extract_lets
    | intro _
    | split
    | with_reducible apply State.notePoints_keeps w0
    | with_reducible apply State.emit_keeps w1
    | with_reducible apply kept_if
    | with_reducible apply kept_foldl
    | with_reducible refine upd_pwr w2 ?_

theorem State.wakeDomains_keeps (hw : Frees z 0x80000000000000000000000000000000001000000) (s : State) (source : ℕ)  (hk : Kept z s) :
    Kept z (State.wakeDomains s source) := by
  have w0 : Frees z 0x80000000000000000000000000000000000000000 := hw.sub rfl
  have w1 : Frees z 0x80000000000000000000000000000000001000000 := hw.sub rfl
  unfold State.wakeDomains
  repeat' first
    | with_reducible assumption
    | extract_lets
    | intro _
    | split
    | with_reducible apply State.countWake_keeps w0
    | with_reducible apply State.comeUp_keeps w1
    | with_reducible apply kept_if
    | with_reducible apply kept_foldl

theorem State.toC0_keeps (hw : Frees z 0x80008000000000000000000000000000001000010) (s : State) (source : ℕ)  (hk : Kept z s) :
    Kept z (State.toC0 s source) := by
  have w0 : Frees z 0x80000000000000000000000000000000001000000 := hw.sub rfl
  have w1 : Frees z 0x80000000000000000000000000000000001000010 := hw.sub rfl
  have w2 : Frees z (Field.bit pwrDevStat_lastWake) := hw.sub rfl
  have w3 : Frees z (Field.bit pwrDevStat_state) := hw.sub rfl
  simp (maxDischargeDepth := 30) only [State.toC0, State.worked_keeps w0, State.wakeDomains_keeps w0, State.wakeRails_keeps w1, (State.setFld_keeps (hw := w2)), (State.setFld_keeps (hw := w3)), and_self, hk]

theorem execC3Exit_keeps (hw : Frees z 0x80008000000000000000000000000000001000010) (source : BitVec 4) (s : State)  (hk : Kept z s) :
    KeptOut z (execC3Exit source s) := by
  have w0 : Frees z 0x0 := hw.sub rfl
  have w1 : Frees z 0x80008000000000000000000000000000001000010 := hw.sub rfl
  unfold execC3Exit
  repeat' first
    | with_reducible assumption
    | extract_lets
    | intro _
    | split
    | with_reducible apply State.whenLive_keeps w0
    | with_reducible apply State.toC0_keeps w1
    | with_reducible apply kept_if
    | with_reducible apply kept_foldl
    | with_reducible apply keptOut_of

theorem State.sealIdentity_keeps (hw : Frees z 0x2000004) (s : State)  (hk : Kept z s) :
    Kept z (State.sealIdentity s) := by
  have w0 : Frees z 0x2000004 := hw.sub rfl
  simp (maxDischargeDepth := 30) only [State.sealIdentity, upd_freeCtr_sec w0, and_self, hk]

theorem State.unsealIdentity_keeps (hw : Frees z 0x2000000) (s : State)  (hk : Kept z s) :
    Kept z (State.unsealIdentity s) := by
  have w0 : Frees z 0x2000000 := hw.sub rfl
  simp (maxDischargeDepth := 30) only [State.unsealIdentity, upd_sec w0, and_self, hk]

theorem State.enterC5_keeps (hw : Frees z 0x8144800080000000004000000000000014005071c0134) (s : State)  (hk : Kept z s) :
    Kept z (State.enterC5 s) := by
  have w0 : Frees z (Field.bit pwrDevStat_state) := hw.sub rfl
  have w1 : Frees z 0x2000004 := hw.sub rfl
  have w2 : Frees z 0x800000000000000000000000000014000010c0000 := hw.sub rfl
  have w3 : Frees z 0x810400000000000000400000000000000000504100130 := hw.sub rfl
  have w4 : Frees z 0x4080000000000000000000000000000000005000000 := hw.sub rfl
  have w5 : Frees z 0x2000000 := hw.sub rfl
  unfold State.enterC5
  repeat' first
    | with_reducible refine keptOpt_map ?_
    | with_reducible assumption
    | extract_lets
    | intro _
    | split
    | with_reducible apply State.setFld_keeps (hw := w0)
    | with_reducible apply State.sealIdentity_keeps w1
    | with_reducible apply State.enterState_keeps w2
    | with_reducible apply State.endFieldDebug_keeps w3
    | with_reducible apply State.stopTrace_keeps w4
    | with_reducible apply kept_if
    | with_reducible apply kept_foldl
    | with_reducible refine upd_sec w5 ?_

theorem execC5Entry_keeps (hw : Frees z 0x8144880080000000004000000000000014005071c0134) (s : State)  (hk : Kept z s) :
    KeptOut z (execC5Entry s) := by
  have w0 : Frees z 0x0 := hw.sub rfl
  have w1 : Frees z 0x8000000000000000000000000000000000000000 := hw.sub rfl
  have w2 : Frees z 0x8144800080000000004000000000000014005071c0134 := hw.sub rfl
  unfold execC5Entry
  repeat' first
    | with_reducible assumption
    | extract_lets
    | intro _
    | split
    | with_reducible apply State.whenLive_keeps w0
    | with_reducible apply State.refuseState_keeps w1
    | with_reducible apply State.enterC5_keeps w2
    | with_reducible apply kept_if
    | with_reducible apply kept_foldl
    | with_reducible apply keptOut_of

theorem State.wakeAllDomains_keeps (hw : Frees z 0x80000000000000000000000000000000001000000) (s : State) (source : ℕ)  (hk : Kept z s) :
    Kept z (State.wakeAllDomains s source) := by
  have w0 : Frees z 0x80000000000000000000000000000000000000000 := hw.sub rfl
  have w1 : Frees z 0x80000000000000000000000000000000001000000 := hw.sub rfl
  unfold State.wakeAllDomains
  repeat' first
    | with_reducible assumption
    | extract_lets
    | intro _
    | split
    | with_reducible apply State.countWake_keeps w0
    | with_reducible apply State.comeUp_keeps w1
    | with_reducible apply kept_if
    | with_reducible apply kept_foldl

theorem State.leaveC5_keeps (hw : Frees z 0x1802d88000a40000080000000002010000000000f9c11b5) (s : State) (source : ℕ)  (hk : Kept z s) :
    Kept z (State.leaveC5 s source) := by
  have w0 : Frees z 0x80000000000000000000000000000000001000000 := hw.sub rfl
  have w1 : Frees z 0x80000000000000000000000000000000001000010 := hw.sub rfl
  have w2 : Frees z (Field.bit pwrDevStat_lastWake) := hw.sub rfl
  have w3 : Frees z (Field.bit pwrDevStat_state) := hw.sub rfl
  have w4 : Frees z 0x1800000000000000000000000000000000000000004 := hw.sub rfl
  have w5 : Frees z (Field.bit tmbStat_locked) := hw.sub rfl
  have w6 : Frees z 0x1800c00000240000080000000002010000000000c9c11b1 := hw.sub rfl
  have w7 : Frees z 0x2000000 := hw.sub rfl
  have w8 : Frees z 0x8000000 := hw.sub rfl
  have w9 : Frees z (Field.bit plnBoot_readyMs) := hw.sub rfl
  have w10 : Frees z (Field.bit plnBoot_lastReset) := hw.sub rfl
  unfold State.leaveC5
  extract_lets s1 s2 src s3
  have h1 : Kept z s1 := State.wakeAllDomains_keeps w0 _ _ (State.wakeRails_keeps w1 _
    (State.setFld_keeps (hw := w2) _ _ _ (State.setFld_keeps (hw := w3) _ _ _ hk)))
  clear_value s1
  have h2 : Kept z s2 := State.drawNonce_keeps w4 _ (State.setFlag_keeps (hw := w5) _ _ _ (State.loseAlignment_keeps w6 _ (State.unsealIdentity_keeps w7 _ h1)))
  clear_value s2
  have k : ∀ u : State, Kept z u → Kept z { u with pln := { u.pln with resetAt := u.now } } :=
    fun u hu => upd_pln w8 (.inr rfl) hu
  have h3 : Kept z s3 := k _ h2
  clear_value s3
  exact State.worked_keeps w0 _ _ (State.setFld_keeps (hw := w9) _ _ _ (State.setFld_keeps (hw := w10) _ _ _ h3))

theorem execC5Exit_keeps (hw : Frees z 0x1802d88000a40000080000000002010000000000f9c11b5) (source : BitVec 4) (imageOk : Bool) (s : State)  (hk : Kept z s) :
    KeptOut z (execC5Exit source imageOk s) := by
  have w0 : Frees z 0x1802d88000a40000080000000002010000000000f9c11b5 := hw.sub rfl
  have w1 : Frees z 0x1 := hw.sub rfl
  unfold execC5Exit
  (repeat' split) <;> simp (maxDischargeDepth := 30) only [keptOut_next, State.leaveC5_keeps w0, State.reboot_keeps w1, and_self, *]

end Sys2Proof.Machine
end

