-- ==== Sys2Proof/Laws/KeepsPower.lean ====
section
/-! SUPPORT. Every operation of Machine/Power.lean keeps the queue, the canonical forms and every piece that it does not touch. -/

set_option Elab.async false
set_option linter.unusedSimpArgs false
set_option linter.unusedTactic false
set_option linter.unreachableTactic false

namespace Sys2Proof.Machine

variable {z : Ref}

theorem State.railsOff_keeps (hw : Frees z 0x10) (s : State)  (hk : Kept z s) :
    Kept z (State.railsOff s) := by
  have w0 : Frees z 0x10 := hw.sub rfl
  unfold State.railsOff
  repeat' first
    | with_reducible assumption
    | extract_lets
    | intro _
    | split
    | with_reducible apply State.emit_keeps w0
    | with_reducible apply kept_if
    | with_reducible apply kept_foldl

theorem State.toC6_keeps (hw : Frees z 0x8000011) (s : State) (stage : ℕ)  (hk : Kept z s) :
    Kept z (State.toC6 s stage) := by
  have w0 : Frees z 0x1 := hw.sub rfl
  have w1 : Frees z 0x10 := hw.sub rfl
  have w2 : Frees z 0x8000000 := hw.sub rfl
  unfold State.toC6
  repeat' first
    | with_reducible assumption
    | extract_lets
    | intro _
    | split
    | with_reducible apply State.reboot_keeps w0
    | with_reducible apply State.railsOff_keeps w1
    | with_reducible apply kept_if
    | with_reducible apply kept_foldl
    | with_reducible refine upd_pln w2 (.inl rfl) ?_
    | with_reducible refine upd_pln w2 (.inr rfl) ?_

theorem State.writeRaise_keeps (hw : Frees z 0x10) (s : State) (r : Raise)  (hk : Kept z s) :
    Kept z (State.writeRaise s r) := by
  have w0 : Frees z 0x10 := hw.sub rfl
  unfold State.writeRaise
  repeat' first
    | with_reducible assumption
    | extract_lets
    | intro _
    | split
    | with_reducible apply State.emit_keeps w0
    | with_reducible apply kept_if
    | with_reducible apply kept_foldl

theorem State.setRaise_keeps (hw : Frees z 0x1000000) (s : State) (r : Option Raise)  (hk : Kept z s) :
    Kept z (State.setRaise s r) := by
  have w0 : Frees z 0x1000000 := hw.sub rfl
  simp (maxDischargeDepth := 30) only [State.setRaise, upd_pwr w0, and_self, hk]

theorem State.raiseFails_keeps (hw : Frees z 0x1800c00008240000000000000002010000000000d9c11b1) (s : State) (r : Raise) (cause : ℕ)  (hk : Kept z s) :
    Kept z (State.raiseFails s r cause) := by
  have w0 : Frees z (Field.bit pwrAvsStat_lastMaster) := hw.sub rfl
  have w1 : Frees z (Field.bit pwrAvsStat_lastCause) := hw.sub rfl
  have w2 : Frees z (Field.bit pwrAvsStat_lastRail) := hw.sub rfl
  have w3 : Frees z (Field.bit pwrAvsStat_held) := hw.sub rfl
  have w4 : Frees z (Field.bit pwrAvsStat_failures) := hw.sub rfl
  have w5 : Frees z 0x1800c00000240000000000000002010000000000c9c11b1 := hw.sub rfl
  have w6 : Frees z 0x1000000 := hw.sub rfl
  unfold State.raiseFails
  repeat' first
    | with_reducible assumption
    | extract_lets
    | intro _
    | split
    | with_reducible apply State.setFld_keeps (hw := w0)
    | with_reducible apply State.setFld_keeps (hw := w1)
    | with_reducible apply State.setFld_keeps (hw := w2)
    | with_reducible apply State.setFld_keeps (hw := w3)
    | with_reducible apply State.bump_keeps (hw := w4)
    | with_reducible apply State.raise_keeps w5
    | with_reducible apply kept_if
    | with_reducible apply kept_foldl
    | with_reducible refine upd_pwr w6 ?_

theorem State.raiseDone_keeps (hw : Frees z 0x80000000000000000000000000000000001000000) (s : State) (r : Raise)  (hk : Kept z s) :
    Kept z (State.raiseDone s r) := by
  have w0 : Frees z 0x80000000000000000000000000000000000000000 := hw.sub rfl
  have w1 : Frees z 0x1000000 := hw.sub rfl
  unfold State.raiseDone
  repeat' first
    | with_reducible assumption
    | extract_lets
    | intro _
    | split
    | with_reducible apply State.notePoints_keeps w0
    | with_reducible refine KeptOpt.getD ?_ ?_
    | with_reducible apply kept_if
    | with_reducible apply kept_foldl
    | with_reducible refine upd_pwr w1 ?_

theorem execAvsRaise_keeps (hw : Frees z 0x1000010) (point : Fin 8) (s : State)  (hk : Kept z s) :
    KeptOut z (execAvsRaise point s) := by
  have w0 : Frees z 0x0 := hw.sub rfl
  have w1 : Frees z 0x1000000 := hw.sub rfl
  have w2 : Frees z 0x10 := hw.sub rfl
  unfold execAvsRaise
  repeat' first
    | with_reducible assumption
    | extract_lets
    | intro _
    | split
    | with_reducible apply State.whenLive_keeps w0
    | with_reducible apply State.setRaise_keeps w1
    | with_reducible apply State.writeRaise_keeps w2
    | with_reducible apply kept_if
    | with_reducible apply kept_foldl
    | with_reducible apply keptOut_of

theorem execVdonePoll_keeps (hw : Frees z 0x80000000000000000000000000000000001000010) (core : Bool) (sram : Bool) (mem : Bool) (s : State)  (hk : Kept z s) :
    KeptOut z (execVdonePoll core sram mem s) := by
  have w0 : Frees z 0x0 := hw.sub rfl
  have w1 : Frees z 0x10 := hw.sub rfl
  have w2 : Frees z 0x80000000000000000000000000000000001000000 := hw.sub rfl
  have w3 : Frees z 0x1000000 := hw.sub rfl
  unfold execVdonePoll
  repeat' first
    | with_reducible assumption
    | extract_lets
    | intro _
    | split
    | with_reducible apply State.whenLive_keeps w0
    | with_reducible apply State.emit_keeps w1
    | with_reducible apply State.raiseDone_keeps w2
    | with_reducible apply State.setRaise_keeps w3
    | with_reducible apply kept_if
    | with_reducible apply kept_foldl
    | with_reducible apply keptOut_of

theorem execVdoneTimeout_keeps (hw : Frees z 0x1800c00008240000000000000002010000000000d9c11b1) (s : State)  (hk : Kept z s) :
    KeptOut z (execVdoneTimeout s) := by
  have w0 : Frees z 0x0 := hw.sub rfl
  have w1 : Frees z 0x1800c00008240000000000000002010000000000d9c11b1 := hw.sub rfl
  unfold execVdoneTimeout
  repeat' first
    | with_reducible assumption
    | extract_lets
    | intro _
    | split
    | with_reducible apply State.whenLive_keeps w0
    | with_reducible apply State.raiseFails_keeps w1
    | with_reducible apply kept_if
    | with_reducible apply kept_foldl
    | with_reducible apply keptOut_of

theorem execAvsBusyRetry_keeps (hw : Frees z 0x1800c00008240000000000000002010000000000d9c11b1) (ackc : BitVec 2) (s : State)  (hk : Kept z s) :
    KeptOut z (execAvsBusyRetry ackc s) := by
  have w0 : Frees z 0x0 := hw.sub rfl
  have w1 : Frees z 0x1000000 := hw.sub rfl
  have w2 : Frees z 0x10 := hw.sub rfl
  have w3 : Frees z (Field.bit pwrAvsStat_busyRetries) := hw.sub rfl
  have w4 : Frees z (Field.bit pwrAvsStat_crcResends) := hw.sub rfl
  have w5 : Frees z 0x1800c00008240000000000000002010000000000d9c11b1 := hw.sub rfl
  unfold execAvsBusyRetry
  repeat' first
    | with_reducible assumption
    | extract_lets
    | intro _
    | split
    | with_reducible apply State.whenLive_keeps w0
    | with_reducible apply State.setRaise_keeps w1
    | with_reducible apply State.writeRaise_keeps w2
    | with_reducible apply State.bump_keeps (hw := w3)
    | with_reducible apply State.bump_keeps (hw := w4)
    | with_reducible apply State.raiseFails_keeps w5
    | with_reducible apply kept_if
    | with_reducible apply kept_foldl
    | with_reducible apply keptOut_of

theorem State.learn_keeps (hw : Frees z 0x20000000000000000000000000000000001000000) (s : State) (x : PowerSample) (m : ℚ) (e : ℚ)  (hk : Kept z s) :
    Kept z (State.learn s x m e) := by
  have w0 : Frees z (Field.bit pwrNeed_need) := hw.sub rfl
  have w1 : Frees z 0x1000000 := hw.sub rfl
  unfold State.learn
  repeat' first
    | with_reducible assumption
    | extract_lets
    | intro _
    | split
    | with_reducible apply State.setFld_keeps (hw := w0)
    | with_reducible refine KeptOpt.getD ?_ ?_
    | with_reducible apply kept_if
    | with_reducible apply kept_foldl
    | with_reducible refine upd_pwr w1 ?_

theorem State.noteTelemetry_keeps (hw : Frees z 0x20000000000000000000000000000000000000) (s : State) (x : PowerSample) (m : ℚ) (e : ℚ)  (hk : Kept z s) :
    Kept z (State.noteTelemetry s x m e) := by
  have w0 : Frees z (Field.bit pwrCtrlStat_railFlag) := hw.sub rfl
  have w1 : Frees z (Field.bit pwrCtrlStat_telemetryFault) := hw.sub rfl
  unfold State.noteTelemetry
  repeat' first
    | with_reducible assumption
    | extract_lets
    | intro _
    | split
    | with_reducible apply State.setFld_keeps (hw := w0)
    | with_reducible apply State.setFlag_keeps (hw := w1)
    | with_reducible apply kept_if
    | with_reducible apply kept_foldl

theorem State.disagreed_keeps (hw : Frees z 0x1800c00002240000000000000002010000000000c9c11b1) (s : State) (x : PowerSample) (m : ℚ) (e : ℚ)  (hk : Kept z s) :
    Kept z (State.disagreed s x m e) := by
  have w0 : Frees z (Field.bit pwrCtrlStat_direction) := hw.sub rfl
  have w1 : Frees z (Field.bit pwrCtrlStat_fallback) := hw.sub rfl
  have w2 : Frees z (Field.bit pwrCtrlStat_frozen) := hw.sub rfl
  have w3 : Frees z (Field.bit pwrCtrlStat_agree) := hw.sub rfl
  have w4 : Frees z (Field.bit pwrCtrlStat_disagree) := hw.sub rfl
  have w5 : Frees z 0x20000000000000000000000000000000000000 := hw.sub rfl
  have w6 : Frees z 0x1800c00000240000000000000002010000000000c9c11b1 := hw.sub rfl
  unfold State.disagreed
  repeat' first
    | with_reducible assumption
    | extract_lets
    | intro _
    | split
    | with_reducible apply State.setFlag_keeps (hw := w0)
    | with_reducible apply State.setFlag_keeps (hw := w1)
    | with_reducible apply State.setFlag_keeps (hw := w2)
    | with_reducible apply State.setFld_keeps (hw := w3)
    | with_reducible apply State.setFld_keeps (hw := w4)
    | with_reducible apply State.noteTelemetry_keeps w5
    | with_reducible apply State.raise_keeps w6
    | with_reducible apply kept_if
    | with_reducible apply kept_foldl

theorem State.agreed_keeps (hw : Frees z 0x20000000000000000000000000000001000000) (s : State) (x : PowerSample)  (hk : Kept z s) :
    Kept z (State.agreed s x) := by
  have w0 : Frees z (Field.bit pwrCtrlStat_disagree) := hw.sub rfl
  have w1 : Frees z (Field.bit pwrCtrlStat_agree) := hw.sub rfl
  have w2 : Frees z (Field.bit pwrCtrlStat_railFlag) := hw.sub rfl
  have w3 : Frees z (Field.bit pwrCtrlStat_fallback) := hw.sub rfl
  have w4 : Frees z (Field.bit pwrCtrlStat_frozen) := hw.sub rfl
  have w5 : Frees z (Field.bit pwrCtrlStat_telemetryFault) := hw.sub rfl
  have w6 : Frees z 0x1000000 := hw.sub rfl
  unfold State.agreed
  repeat' first
    | with_reducible assumption
    | extract_lets
    | intro _
    | split
    | with_reducible apply State.setFld_keeps (hw := w0)
    | with_reducible apply State.setFld_keeps (hw := w1)
    | with_reducible apply State.setFld_keeps (hw := w2)
    | with_reducible apply State.setFlag_keeps (hw := w3)
    | with_reducible apply State.setFlag_keeps (hw := w4)
    | with_reducible apply State.setFlag_keeps (hw := w5)
    | with_reducible apply kept_if
    | with_reducible apply kept_foldl
    | with_reducible refine upd_pwr w6 ?_

theorem State.chargeJob_keeps (hw : Frees z 0x2000000000000000000000000000000001000000) (s : State) (p : ℕ) (job : ℕ) (uj : ℕ)  (hk : Kept z s) :
    Kept z (State.chargeJob s p job uj) := by
  have w0 : Frees z (Field.bit pwrJobStat_entries) := hw.sub rfl
  have w1 : Frees z (Field.bit pwrJobStat_full) := hw.sub rfl
  have w2 : Frees z 0x1000000 := hw.sub rfl
  unfold State.chargeJob
  repeat' first
    | with_reducible assumption
    | extract_lets
    | intro _
    | split
    | with_reducible apply State.setFld_keeps (hw := w0)
    | with_reducible apply State.bump_keeps (hw := w1)
    | with_reducible apply kept_if
    | with_reducible apply kept_foldl
    | with_reducible refine upd_pwr w2 ?_

theorem State.chargeEnergy_keeps (hw : Frees z 0x3800000000000000000000000000000001000000) (s : State) (x : PowerSample) (uj : ℕ)  (hk : Kept z s) :
    Kept z (State.chargeEnergy s x uj) := by
  have w0 : Frees z 0x2000000000000000000000000000000001000000 := hw.sub rfl
  have w1 : Frees z (Field.bit pwrEnergyUnattr_mj) := hw.sub rfl
  have w2 : Frees z (Field.bit pwrEnergyTotal_mj) := hw.sub rfl
  have w3 : Frees z 0x1000000 := hw.sub rfl
  unfold State.chargeEnergy
  repeat' first
    | with_reducible refine keptOpt_map ?_
    | with_reducible assumption
    | extract_lets
    | intro _
    | split
    | with_reducible apply State.chargeJob_keeps w0
    | with_reducible apply State.setFld_keeps (hw := w1)
    | with_reducible apply State.setFld_keeps (hw := w2)
    | with_reducible apply kept_if
    | with_reducible apply kept_foldl
    | with_reducible refine upd_pwr w3 ?_

theorem State.noteCap_keeps (hw : Frees z 0x10000000000000000000000000000000000000) (s : State)  (hk : Kept z s) :
    Kept z (State.noteCap s) := by
  have w0 : Frees z (Field.bit pwrCap_effective) := hw.sub rfl
  unfold State.noteCap
  repeat' first
    | with_reducible assumption
    | extract_lets
    | intro _
    | split
    | with_reducible apply State.setFld_keeps (hw := w0)
    | with_reducible apply kept_if
    | with_reducible apply kept_foldl

theorem State.lowerFurther_keeps (hw : Frees z 0x1000000) (s : State)  (hk : Kept z s) :
    Kept z (State.lowerFurther s) := by
  have w0 : Frees z 0x1000000 := hw.sub rfl
  unfold State.lowerFurther
  repeat' first
    | with_reducible assumption
    | extract_lets
    | intro _
    | split
    | with_reducible apply kept_if
    | with_reducible apply kept_foldl
    | with_reducible refine upd_pwr w0 ?_

theorem State.countWindows_keeps (hw : Frees z 0x1000000) (s : State) (figure : ℚ)  (hk : Kept z s) :
    Kept z (State.countWindows s figure) := by
  have w0 : Frees z 0x1000000 := hw.sub rfl
  unfold State.countWindows
  repeat' first
    | with_reducible assumption
    | extract_lets
    | intro _
    | split
    | with_reducible apply State.lowerFurther_keeps w0
    | with_reducible apply kept_if
    | with_reducible apply kept_foldl
    | with_reducible refine upd_pwr w0 ?_

theorem State.relaxFloor_keeps (hw : Frees z 0x1000000) (s : State)  (hk : Kept z s) :
    Kept z (State.relaxFloor s) := by
  have w0 : Frees z 0x1000000 := hw.sub rfl
  unfold State.relaxFloor
  repeat' first
    | with_reducible assumption
    | extract_lets
    | intro _
    | split
    | with_reducible apply kept_if
    | with_reducible apply kept_foldl
    | with_reducible refine upd_pwr w0 ?_

theorem State.senseRails_keeps (hw : Frees z 0x10) (s : State)  (hk : Kept z s) :
    Kept z (State.senseRails s) := by
  have w0 : Frees z 0x10 := hw.sub rfl
  simp (maxDischargeDepth := 30) only [State.senseRails, State.emit_keeps w0, and_self, hk]

theorem State.window_keeps (hw : Frees z 0x1800c0a383240000000000000002010000000000d9c11b1) (s : State) (x : PowerSample)  (hk : Kept z s) :
    Kept z (State.window s x) := by
  have w0 : Frees z 0x10 := hw.sub rfl
  have w1 : Frees z (Field.bit pwrCtrlStat_estimateW) := hw.sub rfl
  have w2 : Frees z (Field.bit pwrCtrlStat_measuredW) := hw.sub rfl
  have w3 : Frees z 0x20000000000000000000000000000000001000000 := hw.sub rfl
  have w4 : Frees z 0x1800c00002240000000000000002010000000000c9c11b1 := hw.sub rfl
  have w5 : Frees z 0x20000000000000000000000000000001000000 := hw.sub rfl
  have w6 : Frees z 0x1000000 := hw.sub rfl
  have w7 : Frees z 0x3800000000000000000000000000000001000000 := hw.sub rfl
  have w8 : Frees z 0x80000000000000000000000000000000001000010 := hw.sub rfl
  have w9 : Frees z 0x10000000000000000000000000000000000000 := hw.sub rfl
  unfold State.window
  repeat' first
    | with_reducible assumption
    | extract_lets
    | intro _
    | split
    | with_reducible apply State.senseRails_keeps w0
    | with_reducible apply State.setFld_keeps (hw := w1)
    | with_reducible apply State.setFld_keeps (hw := w2)
    | with_reducible apply State.learn_keeps w3
    | with_reducible apply State.disagreed_keeps w4
    | with_reducible apply State.agreed_keeps w5
    | with_reducible apply State.countWindows_keeps w6
    | with_reducible apply State.chargeEnergy_keeps w7
    | with_reducible apply State.planPoints_keeps w8
    | with_reducible apply State.noteCap_keeps w9
    | with_reducible apply State.relaxFloor_keeps w6
    | with_reducible apply kept_if
    | with_reducible apply kept_foldl
    | with_reducible refine upd_pwr w6 ?_

theorem execCappingWindow_keeps (hw : Frees z 0x1800c0a383240000000000000002010000000000d9c11b1) (sample : PowerSample) (s : State)  (hk : Kept z s) :
    KeptOut z (execCappingWindow sample s) := by
  have w0 : Frees z 0x0 := hw.sub rfl
  have w1 : Frees z 0x1800c0a383240000000000000002010000000000d9c11b1 := hw.sub rfl
  unfold execCappingWindow
  repeat' first
    | with_reducible assumption
    | extract_lets
    | intro _
    | split
    | with_reducible apply State.whenLive_keeps w0
    | with_reducible apply State.window_keeps w1
    | with_reducible apply kept_if
    | with_reducible apply kept_foldl
    | with_reducible apply keptOut_of

theorem execDroop_keeps (hw : Frees z 0x1800c08000240000000000000002010000000000d9c11b1) (d : Fin 102) (s : State)  (hk : Kept z s) :
    KeptOut z (execDroop d s) := by
  have w0 : Frees z 0x0 := hw.sub rfl
  have w1 : Frees z (Field.bit pwrDomStat_droops) := hw.sub rfl
  have w2 : Frees z 0x1800c00000240000000000000002010000000000c9c11b1 := hw.sub rfl
  have w3 : Frees z 0x1000000 := hw.sub rfl
  unfold execDroop
  repeat' first
    | with_reducible assumption
    | extract_lets
    | intro _
    | split
    | with_reducible apply State.whenLive_keeps w0
    | with_reducible apply State.bump_keeps (hw := w1)
    | with_reducible apply State.raise_keeps w2
    | with_reducible apply kept_if
    | with_reducible apply kept_foldl
    | with_reducible refine upd_pwr w3 ?_
    | with_reducible apply keptOut_of

theorem State.powerLimit_keeps (hw : Frees z 0x80100000000000000000000000000000001000010) (s : State) (asserted : Bool)  (hk : Kept z s) :
    Kept z (State.powerLimit s asserted) := by
  have w0 : Frees z (Field.bit pwrLimitCfg_active) := hw.sub rfl
  have w1 : Frees z (Field.bit pwrLimitCfg_assertions) := hw.sub rfl
  have w2 : Frees z 0x80000000000000000000000000000000001000010 := hw.sub rfl
  have w3 : Frees z 0x1000000 := hw.sub rfl
  unfold State.powerLimit
  repeat' first
    | with_reducible assumption
    | extract_lets
    | intro _
    | split
    | with_reducible apply State.setFlag_keeps (hw := w0)
    | with_reducible apply State.bump_keeps (hw := w1)
    | with_reducible apply State.planPoints_keeps w2
    | with_reducible apply kept_if
    | with_reducible apply kept_foldl
    | with_reducible refine upd_pwr w3 ?_

theorem execPowerLimitHoldExpiry_keeps (hw : Frees z 0x100000000000000000000000000000001000000) (s : State)  (hk : Kept z s) :
    KeptOut z (execPowerLimitHoldExpiry s) := by
  have w0 : Frees z 0x0 := hw.sub rfl
  have w1 : Frees z (Field.bit pwrLimitCfg_active) := hw.sub rfl
  have w2 : Frees z 0x1000000 := hw.sub rfl
  unfold execPowerLimitHoldExpiry
  repeat' first
    | with_reducible assumption
    | extract_lets
    | intro _
    | split
    | with_reducible apply State.whenLive_keeps w0
    | with_reducible apply State.setFlag_keeps (hw := w1)
    | with_reducible apply kept_if
    | with_reducible apply kept_foldl
    | with_reducible refine upd_pwr w2 ?_
    | with_reducible apply keptOut_of

theorem State.throttleTo_keeps (hw : Frees z 0x1000000) (s : State) (d : ℕ) (n : ℕ)  (hk : Kept z s) :
    Kept z (State.throttleTo s d n) := by
  have w0 : Frees z 0x1000000 := hw.sub rfl
  simp (maxDischargeDepth := 30) only [State.throttleTo, upd_pwr w0, and_self, hk]

theorem execThrottleStepTimer_keeps (hw : Frees z 0x80200000000000000000000000000000001000000) (d : Fin 102) (s : State)  (hk : Kept z s) :
    KeptOut z (execThrottleStepTimer d s) := by
  have w0 : Frees z 0x0 := hw.sub rfl
  have w1 : Frees z 0x80000000000000000000000000000000000000000 := hw.sub rfl
  have w2 : Frees z (Field.bit pwrTherm_throttles) := hw.sub rfl
  have w3 : Frees z 0x1000000 := hw.sub rfl
  unfold execThrottleStepTimer
  repeat' first
    | with_reducible assumption
    | extract_lets
    | intro _
    | split
    | with_reducible apply State.whenLive_keeps w0
    | with_reducible apply State.notePoints_keeps w1
    | with_reducible apply State.bump_keeps (hw := w2)
    | with_reducible apply State.throttleTo_keeps w3
    | with_reducible apply kept_if
    | with_reducible apply kept_foldl
    | with_reducible apply keptOut_of

theorem State.logicReading_keeps (hw : Frees z 0x1800c00020240000000000000002010000000000d9c11b1) (s : State) (x : BitVec 8 × ℕ)  (hk : Kept z s) :
    Kept z (State.logicReading s x) := by
  have w0 : Frees z (Field.bit pwrTherm_throttles) := hw.sub rfl
  have w1 : Frees z 0x1000000 := hw.sub rfl
  have w2 : Frees z 0x1800c00000240000000000000002010000000000c9c11b1 := hw.sub rfl
  unfold State.logicReading
  repeat' first
    | with_reducible assumption
    | extract_lets
    | intro _
    | split
    | with_reducible apply State.bump_keeps (hw := w0)
    | with_reducible apply State.throttleTo_keeps w1
    | with_reducible apply State.raise_keeps w2
    | with_reducible apply kept_if
    | with_reducible apply kept_foldl
    | with_reducible refine upd_pwr w1 ?_

theorem State.dramReading_keeps (hw : Frees z 0x1800c00020240000000000000002010000000000d9c11b1) (s : State) (x : BitVec 8 × ℕ)  (hk : Kept z s) :
    Kept z (State.dramReading s x) := by
  have w0 : Frees z 0x40000 := hw.sub rfl
  have w1 : Frees z 0x1800c00000240000000000000002010000000000c9c11b1 := hw.sub rfl
  have w2 : Frees z (Field.bit pwrTherm_dramHolds) := hw.sub rfl
  have w3 : Frees z 0x1000000 := hw.sub rfl
  unfold State.dramReading
  repeat' first
    | with_reducible assumption
    | extract_lets
    | intro _
    | split
    | with_reducible apply State.modChan_keeps w0
    | with_reducible apply State.raise_keeps w1
    | with_reducible apply State.bump_keeps (hw := w2)
    | with_reducible apply kept_if
    | with_reducible apply kept_foldl
    | with_reducible refine upd_pwr w3 ?_

theorem State.thermalTrip_keeps (hw : Frees z 0x1800400000240000000000000000000000000000c800011) (s : State) (sensor : ℕ)  (hk : Kept z s) :
    Kept z (State.thermalTrip s sensor) := by
  have w0 : Frees z 0x1800400000240000000000000000000000000000c800010 := hw.sub rfl
  have w1 : Frees z 0x8000011 := hw.sub rfl
  have w2 : Frees z 0x8000010 := hw.sub rfl
  have w3 : Frees z 0x10 := hw.sub rfl
  have w4 : Frees z 0x8000000 := hw.sub rfl
  unfold State.thermalTrip
  repeat' first
    | with_reducible assumption
    | extract_lets
    | intro _
    | split
    | with_reducible apply State.writeRecord_keeps w0
    | with_reducible apply State.toC6_keeps w1
    | with_reducible apply State.raiseAlert_keeps w2
    | with_reducible apply State.emit_keeps w3
    | with_reducible apply kept_if
    | with_reducible apply kept_foldl
    | with_reducible refine upd_pln w4 (.inl rfl) ?_
    | with_reducible refine upd_pln w4 (.inr rfl) ?_

theorem State.readSensors_keeps (hw : Frees z 0x1800c08020240000000000000002010000000000d9c11b1) (s : State) (logic : List (BitVec 8)) (dram : List (BitVec 8))  (hk : Kept z s) :
    Kept z (State.readSensors s logic dram) := by
  have w0 : Frees z (Field.bit pwrTherm_hotSensor) := hw.sub rfl
  have w1 : Frees z (Field.bit pwrTherm_logicMax) := hw.sub rfl
  have w2 : Frees z (Field.bit pwrTherm_dramMax) := hw.sub rfl
  have w3 : Frees z 0x1800400000240000000000000000000000000000c800011 := hw.sub rfl
  have w4 : Frees z 0x1800c00020240000000000000002010000000000d9c11b1 := hw.sub rfl
  have w5 : Frees z 0x1000010 := hw.sub rfl
  have w6 : Frees z 0x80000000000000000000000000000000000000000 := hw.sub rfl
  unfold State.readSensors
  repeat' first
    | with_reducible assumption
    | extract_lets
    | intro _
    | split
    | with_reducible apply State.setFld_keeps (hw := w0)
    | with_reducible apply State.setFld_keeps (hw := w1)
    | with_reducible apply State.setFld_keeps (hw := w2)
    | with_reducible apply State.thermalTrip_keeps w3
    | with_reducible apply State.logicReading_keeps w4
    | with_reducible apply State.dramReading_keeps w4
    | with_reducible apply State.setMem_keeps w5
    | with_reducible apply State.notePoints_keeps w6
    | with_reducible apply kept_if
    | with_reducible apply kept_foldl

theorem execThermalSample_keeps (hw : Frees z 0x1800c08020240000000000000002010000000000d9c11b1) (logic : List (BitVec 8)) (dram : List (BitVec 8)) (s : State)  (hk : Kept z s) :
    KeptOut z (execThermalSample logic dram s) := by
  have w0 : Frees z 0x0 := hw.sub rfl
  have w1 : Frees z 0x1800c08020240000000000000002010000000000d9c11b1 := hw.sub rfl
  unfold execThermalSample
  repeat' first
    | with_reducible assumption
    | extract_lets
    | intro _
    | split
    | with_reducible apply State.whenLive_keeps w0
    | with_reducible apply State.readSensors_keeps w1
    | with_reducible apply kept_if
    | with_reducible apply kept_foldl
    | with_reducible apply keptOut_of

theorem State.demandRegion_keeps (hw : Frees z 0xeb800000000020801105004) (s : State)  (hk : Kept z s) :
    Kept z (State.demandRegion s) := by
  have w0 : Frees z 0x4 := hw.sub rfl
  have w1 : Frees z 0xeb800000000020800105000 := hw.sub rfl
  have w2 : Frees z 0x1000000 := hw.sub rfl
  unfold State.demandRegion
  repeat' first
    | with_reducible assumption
    | extract_lets
    | intro _
    | split
    | with_reducible apply State.regionBase_keeps w0
    | with_reducible refine State.regionBase_gives w0 (by with_reducible assumption) ?_
    | with_reducible apply State.addRegion_keeps w1
    | with_reducible refine State.addRegion_gives w1 (by with_reducible assumption) ?_
    | with_reducible apply kept_if
    | with_reducible apply kept_foldl
    | with_reducible refine upd_pwr w2 ?_

theorem State.takeShare_keeps (hw : Frees z 0x10000000000000000000000000000001000000) (s : State) (w : ℕ)  (hk : Kept z s) :
    Kept z (State.takeShare s w) := by
  have w0 : Frees z (Field.bit pwrCap_share) := hw.sub rfl
  have w1 : Frees z 0x1000000 := hw.sub rfl
  simp (maxDischargeDepth := 30) only [State.takeShare, upd_pwr w1, (State.setFld_keeps (hw := w0)), and_self, hk]

theorem State.giveShare_keeps (hw : Frees z 0x10000000000000000000000000000001000010) (s : State) (x : ℕ × ℕ)  (hk : Kept z s) :
    Kept z (State.giveShare s x) := by
  have w0 : Frees z 0x10000000000000000000000000000001000000 := hw.sub rfl
  have w1 : Frees z 0x10 := hw.sub rfl
  unfold State.giveShare
  repeat' first
    | with_reducible assumption
    | extract_lets
    | intro _
    | split
    | with_reducible apply State.takeShare_keeps w0
    | with_reducible apply State.send_keeps w1
    | with_reducible apply kept_if
    | with_reducible apply kept_foldl

theorem execRackSharePeriod_keeps (hw : Frees z 0x4100000000000000eb800000000020801105014) (s : State)  (hk : Kept z s) :
    KeptOut z (execRackSharePeriod s) := by
  have w0 : Frees z 0x0 := hw.sub rfl
  have w1 : Frees z 0xeb800000000020801105004 := hw.sub rfl
  have w2 : Frees z (Field.bit pwrRack_reporting) := hw.sub rfl
  have w3 : Frees z 0x10000000000000000000000000000001000010 := hw.sub rfl
  have w4 : Frees z 0x1000000 := hw.sub rfl
  unfold execRackSharePeriod
  repeat' first
    | with_reducible refine keptOpt_map ?_
    | with_reducible assumption
    | extract_lets
    | intro _
    | split
    | with_reducible apply State.whenLive_keeps w0
    | with_reducible apply State.demandRegion_keeps w1
    | with_reducible apply State.setFld_keeps (hw := w2)
    | with_reducible apply State.giveShare_keeps w3
    | with_reducible apply kept_if
    | with_reducible apply kept_foldl
    | with_reducible refine upd_pwr w4 ?_
    | dsimp +zetaDelta only
    | with_reducible apply keptOut_of

theorem execDemandRecord_keeps (hw : Frees z 0x1000010) (s : State)  (hk : Kept z s) :
    KeptOut z (execDemandRecord s) := by
  have w0 : Frees z 0x0 := hw.sub rfl
  have w1 : Frees z 0x10 := hw.sub rfl
  have w2 : Frees z 0x1000000 := hw.sub rfl
  unfold execDemandRecord
  repeat' first
    | with_reducible assumption
    | extract_lets
    | intro _
    | split
    | with_reducible apply State.whenLive_keeps w0
    | with_reducible apply State.send_keeps w1
    | with_reducible apply kept_if
    | with_reducible apply kept_foldl
    | with_reducible refine upd_pwr w2 ?_
    | with_reducible apply keptOut_of

theorem execShareRecord_keeps (hw : Frees z 0x10000000000000000000000000000001000000) (r : BitVec 128) (s : State)  (hk : Kept z s) :
    KeptOut z (execShareRecord r s) := by
  have w0 : Frees z 0x0 := hw.sub rfl
  have w1 : Frees z 0x10000000000000000000000000000001000000 := hw.sub rfl
  unfold execShareRecord
  repeat' first
    | with_reducible assumption
    | extract_lets
    | intro _
    | split
    | with_reducible apply State.whenLive_keeps w0
    | with_reducible apply State.takeShare_keeps w1
    | with_reducible apply kept_if
    | with_reducible apply kept_foldl
    | with_reducible apply keptOut_of

theorem execShareFailsafe_keeps (hw : Frees z 0x1800c00001240000000000000002010000000000d9c11b1) (s : State)  (hk : Kept z s) :
    KeptOut z (execShareFailsafe s) := by
  have w0 : Frees z 0x0 := hw.sub rfl
  have w1 : Frees z (Field.bit pwrCap_share) := hw.sub rfl
  have w2 : Frees z 0x1800c00000240000000000000002010000000000c9c11b1 := hw.sub rfl
  have w3 : Frees z 0x1000000 := hw.sub rfl
  unfold execShareFailsafe
  repeat' first
    | with_reducible assumption
    | extract_lets
    | intro _
    | split
    | with_reducible apply State.whenLive_keeps w0
    | with_reducible apply State.setFld_keeps (hw := w1)
    | with_reducible apply State.raise_keeps w2
    | with_reducible apply kept_if
    | with_reducible apply kept_foldl
    | with_reducible refine upd_pwr w3 ?_
    | with_reducible apply keptOut_of

end Sys2Proof.Machine
end

