-- ==== Sys2Proof/Laws/KeepsLockstep.lean ====
section
/-! SUPPORT. Every operation of Machine/Lockstep.lean keeps the queue, the canonical forms and every piece that it does not touch. -/

set_option Elab.async false
set_option linter.unusedSimpArgs false
set_option linter.unusedTactic false
set_option linter.unreachableTactic false

namespace Sys2Proof.Machine

variable {z : Ref}

theorem State.sendSync_keeps (hw : Frees z 0x100000) (s : State) (p : ℕ) (node : ℕ) (m : SyncMember)  (hk : Kept z s) :
    Kept z (State.sendSync s p node m) := by
  have w0 : Frees z 0x100000 := hw.sub rfl
  simp (maxDischargeDepth := 30) only [State.sendSync, State.sendGroup_keeps w0, and_self, hk]

theorem State.sendSyncs_keeps (hw : Frees z 0x100000) (s : State) (p : ℕ) (m : SyncMember)  (hk : Kept z s) :
    Kept z (State.sendSyncs s p m) := by
  have w0 : Frees z 0x100000 := hw.sub rfl
  unfold State.sendSyncs
  repeat' first
    | with_reducible assumption
    | extract_lets
    | intro _
    | split
    | with_reducible apply State.sendSync_keeps w0
    | with_reducible apply kept_if
    | with_reducible apply kept_foldl

theorem State.reach_keeps (hw : Frees z 0x1907180) (s : State) (p : ℕ) (k : ℕ)  (hk : Kept z s) :
    Kept z (State.reach s p k) := by
  have w0 : Frees z 0x100 := hw.sub rfl
  have w1 : Frees z 0x100000 := hw.sub rfl
  have w2 : Frees z 0x1000000 := hw.sub rfl
  unfold State.reach
  repeat' first
    | with_reducible assumption
    | extract_lets
    | intro _
    | split
    | with_reducible apply State.modPart_keeps w0
    | with_reducible apply State.sendSyncs_keeps w1
    | with_reducible apply kept_if
    | with_reducible apply kept_foldl
    | with_reducible refine upd_pwr w2 ?_

theorem execSyncPointReach_keeps (hw : Frees z 0x1907180) (p : Fin 16) (point : Fin 64) (s : State)  (hk : Kept z s) :
    KeptOut z (execSyncPointReach p point s) := by
  have w0 : Frees z 0x0 := hw.sub rfl
  have w1 : Frees z 0x1907180 := hw.sub rfl
  unfold execSyncPointReach
  repeat' first
    | with_reducible assumption
    | extract_lets
    | intro _
    | split
    | with_reducible apply State.whenLive_keeps w0
    | with_reducible apply State.reach_keeps w1
    | with_reducible apply kept_if
    | with_reducible apply kept_foldl
    | with_reducible apply keptOut_of

theorem State.keepSync_keeps (hw : Frees z 0x100) (s : State) (p : ℕ) (m : SyncMember)  (hk : Kept z s) :
    Kept z (State.keepSync s p m) := by
  have w0 : Frees z 0x100 := hw.sub rfl
  unfold State.keepSync
  repeat' first
    | with_reducible assumption
    | extract_lets
    | intro _
    | split
    | with_reducible apply State.modPart_keeps w0
    | with_reducible apply kept_if
    | with_reducible apply kept_foldl

theorem State.answerSync_keeps (hw : Frees z 0x100000) (s : State) (p : ℕ) (m : SyncMember)  (hk : Kept z s) :
    Kept z (State.answerSync s p m) := by
  have w0 : Frees z 0x100000 := hw.sub rfl
  unfold State.answerSync
  repeat' first
    | with_reducible assumption
    | extract_lets
    | intro _
    | split
    | with_reducible apply State.sendSync_keeps w0
    | with_reducible apply kept_if
    | with_reducible apply kept_foldl

theorem State.heedManager_keeps (hw : Frees z 0x1800c00000240000000000000002010000000000c9c11b1) (s : State) (p : ℕ) (m : SyncMember)  (hk : Kept z s) :
    Kept z (State.heedManager s p m) := by
  have w0 : Frees z 0x1800c00000240000000000000002010000000000c9c11b1 := hw.sub rfl
  have w1 : Frees z 0x100 := hw.sub rfl
  unfold State.heedManager
  repeat' first
    | with_reducible assumption
    | extract_lets
    | intro _
    | split
    | with_reducible apply State.raise_keeps w0
    | with_reducible apply State.modPart_keeps w1
    | with_reducible apply kept_if
    | with_reducible apply kept_foldl

theorem State.heedMismatch_keeps (hw : Frees z 0x1800c0840025c0000023c840eb9b0730000420d9d9df7f5) (s : State) (p : ℕ) (m : SyncMember)  (hk : Kept z s) :
    Kept z (State.heedMismatch s p m) := by
  have w0 : Frees z 0x100 := hw.sub rfl
  have w1 : Frees z 0x1800c0840025c0000023c840eb9b0730000420d9d9df7f5 := hw.sub rfl
  unfold State.heedMismatch
  repeat' first
    | with_reducible assumption
    | extract_lets
    | intro _
    | split
    | with_reducible apply State.modPart_keeps w0
    | with_reducible apply State.declareLost_keeps w1
    | with_reducible apply kept_if
    | with_reducible apply kept_foldl

theorem State.standIn_keeps (hw : Frees z 0x100) (s : State) (p : ℕ) (m : SyncMember)  (hk : Kept z s) :
    Kept z (State.standIn s p m) := by
  have w0 : Frees z 0x100 := hw.sub rfl
  unfold State.standIn
  repeat' first
    | with_reducible assumption
    | extract_lets
    | intro _
    | split
    | with_reducible apply State.modPart_keeps w0
    | with_reducible apply kept_if
    | with_reducible apply kept_foldl

theorem State.takeSync_keeps (hw : Frees z 0x1800c0840025c0000023c840eb9b0730000420d9d9df7f5) (s : State) (p : ℕ) (m : SyncMember)  (hk : Kept z s) :
    Kept z (State.takeSync s p m) := by
  have w0 : Frees z 0x100000 := hw.sub rfl
  have w1 : Frees z 0x100 := hw.sub rfl
  have w2 : Frees z 0x1800c0840025c0000023c840eb9b0730000420d9d9df7f5 := hw.sub rfl
  have w3 : Frees z 0x1800c00000240000000000000002010000000000c9c11b1 := hw.sub rfl
  unfold State.takeSync
  repeat' first
    | with_reducible assumption
    | extract_lets
    | intro _
    | split
    | with_reducible apply State.answerSync_keeps w0
    | with_reducible apply State.standIn_keeps w1
    | with_reducible apply State.heedMismatch_keeps w2
    | with_reducible apply State.heedManager_keeps w3
    | with_reducible apply State.keepSync_keeps w1
    | with_reducible apply kept_if
    | with_reducible apply kept_foldl

theorem execSync_keeps (hw : Frees z 0x1800c0840025c0000023c840eb9b0730000420d9d9df7f5) (p : Fin 16) (src : BitVec 16) (m : SyncMsg) (s : State)  (hk : Kept z s) :
    KeptOut z (execSync p src m s) := by
  have w0 : Frees z 0x0 := hw.sub rfl
  have w1 : Frees z 0x1800c0840025c0000023c840eb9b0730000420d9d9df7f5 := hw.sub rfl
  unfold execSync
  repeat' first
    | with_reducible assumption
    | extract_lets
    | intro _
    | split
    | with_reducible apply State.whenLive_keeps w0
    | with_reducible apply State.takeSync_keeps w1
    | with_reducible apply kept_if
    | with_reducible apply kept_foldl
    | with_reducible apply keptOut_of

theorem State.ungate_keeps (hw : Frees z 0x80000000000000000000000000000000001000000) (s : State) (p : ℕ)  (hk : Kept z s) :
    Kept z (State.ungate s p) := by
  have w0 : Frees z 0x80000000000000000000000000000000001000000 := hw.sub rfl
  have w1 : Frees z (Field.bit pwrDomStat_state) := hw.sub rfl
  unfold State.ungate
  repeat' first
    | with_reducible assumption
    | extract_lets
    | intro _
    | split
    | with_reducible apply State.worked_keeps w0
    | with_reducible apply State.setFld_keeps (hw := w1)
    | with_reducible apply kept_if
    | with_reducible apply kept_foldl

theorem State.pass_keeps (hw : Frees z 0x80000000000000000000040000000000001000100) (s : State) (p : ℕ) (k : ℕ) (t : ℤ)  (hk : Kept z s) :
    Kept z (State.pass s p k t) := by
  have w0 : Frees z (Field.bit schSync_lagMisses) := hw.sub rfl
  have w1 : Frees z 0x80000000000000000000000000000000001000000 := hw.sub rfl
  have w2 : Frees z 0x100 := hw.sub rfl
  unfold State.pass
  repeat' first
    | with_reducible assumption
    | extract_lets
    | intro _
    | split
    | with_reducible apply State.bump_keeps (hw := w0)
    | with_reducible apply State.ungate_keeps w1
    | with_reducible apply State.modPart_keeps w2
    | with_reducible apply kept_if
    | with_reducible apply kept_foldl

theorem execSyncRelease_keeps (hw : Frees z 0x80000000000000000000040000000000001000100) (p : Fin 16) (point : Fin 64) (s : State)  (hk : Kept z s) :
    KeptOut z (execSyncRelease p point s) := by
  have w0 : Frees z 0x0 := hw.sub rfl
  have w1 : Frees z 0x80000000000000000000040000000000001000100 := hw.sub rfl
  unfold execSyncRelease
  repeat' first
    | with_reducible assumption
    | extract_lets
    | intro _
    | split
    | with_reducible apply State.whenLive_keeps w0
    | with_reducible apply State.pass_keeps w1
    | with_reducible apply kept_if
    | with_reducible apply kept_foldl
    | with_reducible apply keptOut_of

theorem execSyncResendTimer_keeps (hw : Frees z 0x100100) (p : Fin 16) (s : State)  (hk : Kept z s) :
    KeptOut z (execSyncResendTimer p s) := by
  have w0 : Frees z 0x0 := hw.sub rfl
  have w1 : Frees z 0x100000 := hw.sub rfl
  have w2 : Frees z 0x100 := hw.sub rfl
  unfold execSyncResendTimer
  repeat' first
    | with_reducible assumption
    | extract_lets
    | intro _
    | split
    | with_reducible apply State.whenLive_keeps w0
    | with_reducible apply State.sendSyncs_keeps w1
    | with_reducible apply State.modPart_keeps w2
    | with_reducible apply kept_if
    | with_reducible apply kept_foldl
    | with_reducible apply keptOut_of

theorem execSyncSlackExpiry_keeps (hw : Frees z 0x80000000000000000000000000000000000000100) (p : Fin 16) (s : State)  (hk : Kept z s) :
    KeptOut z (execSyncSlackExpiry p s) := by
  have w0 : Frees z 0x0 := hw.sub rfl
  have w1 : Frees z (Field.bit pwrDomStat_state) := hw.sub rfl
  have w2 : Frees z 0x80000000000000000000000000000000000000000 := hw.sub rfl
  have w3 : Frees z 0x100 := hw.sub rfl
  unfold execSyncSlackExpiry
  repeat' first
    | with_reducible assumption
    | extract_lets
    | intro _
    | split
    | with_reducible apply State.whenLive_keeps w0
    | with_reducible apply State.setFld_keeps (hw := w1)
    | with_reducible apply State.notePoints_keeps w2
    | with_reducible apply State.modPart_keeps w3
    | with_reducible apply kept_if
    | with_reducible apply kept_foldl
    | with_reducible apply keptOut_of

end Sys2Proof.Machine
end

