-- ==== Sys2Proof/Laws/KeepsSecurity.lean ====
section
/-! SUPPORT. Every operation of Machine/Security.lean keeps the queue, the canonical forms and every piece that it does not touch. -/

set_option Elab.async false
set_option linter.unusedSimpArgs false
set_option linter.unusedTactic false
set_option linter.unreachableTactic false

namespace Sys2Proof.Machine

variable {z : Ref}

theorem State.imageFails_keeps (hw : Frees z 0x1800c10000240000000000000002010000000000c9c11b1) (s : State) (step : ℕ)  (hk : Kept z s) :
    Kept z (State.imageFails s step) := by
  have w0 : Frees z 0x1800c00000240000000000000002010000000000c9c11b1 := hw.sub rfl
  have w1 : Frees z (Field.bit secBoot_result) := hw.sub rfl
  have w2 : Frees z 0x2000000000000000000000000000000800000 := hw.sub rfl
  unfold State.imageFails
  repeat' first
    | with_reducible assumption
    | extract_lets
    | intro _
    | split
    | with_reducible apply State.raise_keeps w0
    | with_reducible apply State.setFld_keeps (hw := w1)
    | with_reducible apply State.plinthPush_keeps w2
    | with_reducible apply kept_if
    | with_reducible apply kept_foldl

theorem State.imageRuns_keeps (hw : Frees z 0x20300000000000000000000000000000000002000000) (s : State) (b : List (BitVec 8)) (streamed : Bool)  (hk : Kept z s) :
    Kept z (State.imageRuns s b streamed) := by
  have w0 : Frees z (Field.bit secBoot_streamed) := hw.sub rfl
  have w1 : Frees z (Field.bit secRecovery_ready) := hw.sub rfl
  have w2 : Frees z (Field.bit secBoot_svn) := hw.sub rfl
  have w3 : Frees z (Field.bit secBoot_svnFloor) := hw.sub rfl
  have w4 : Frees z (Field.bit plnBoot_stage) := hw.sub rfl
  have w5 : Frees z 0x2000000 := hw.sub rfl
  unfold State.imageRuns
  repeat' first
    | with_reducible assumption
    | extract_lets
    | intro _
    | split
    | with_reducible apply State.setFlag_keeps (hw := w0)
    | with_reducible apply State.setFlag_keeps (hw := w1)
    | with_reducible apply State.setFld_keeps (hw := w2)
    | with_reducible apply State.setFld_keeps (hw := w3)
    | with_reducible apply State.setFld_keeps (hw := w4)
    | with_reducible apply kept_if
    | with_reducible apply kept_foldl
    | with_reducible refine upd_sec w5 ?_

theorem State.toRecovery_keeps (hw : Frees z 0x20200000000000000000000000000000000000000000) (s : State)  (hk : Kept z s) :
    Kept z (State.toRecovery s) := by
  have w0 : Frees z (Field.bit secRecovery_ready) := hw.sub rfl
  have w1 : Frees z (Field.bit plnBoot_stage) := hw.sub rfl
  simp (maxDischargeDepth := 30) only [State.toRecovery, (State.setFlag_keeps (hw := w0)), (State.setFld_keeps (hw := w1)), and_self, hk]

theorem State.streamedImage_keeps (hw : Frees z 0x1802c30000240000000000000002010000000000e9e11b1) (s : State)  (hk : Kept z s) :
    Kept z (State.streamedImage s) := by
  have w0 : Frees z 0x20300000000000000000000000000000000002000000 := hw.sub rfl
  have w1 : Frees z 0x2000000 := hw.sub rfl
  have w2 : Frees z 0x1800c10000240000000000000002010000000000c9c11b1 := hw.sub rfl
  have w3 : Frees z 0x20200000000000000000000000000000000000000000 := hw.sub rfl
  have w4 : Frees z 0x20000 := hw.sub rfl
  unfold State.streamedImage
  extract_lets b cert
  cases s.sec.imageResult b false with
  | zero => exact State.imageRuns_keeps w0 _ _ _ (upd_sec w1 hk)
  | succ r =>
    have h := State.imageFails_keeps w2 s (r + 1) hk
    exact State.toRecovery_keeps w3 _ (upd_staging w4 keepCells_nil h)

theorem execSecRecoveryGo_keeps (hw : Frees z 0x1802c30000240000000000000002010000000000e9e11b1) (fn : Fn) (lane : Lane) (v : BitVec 64) (s : State)  (hk : Kept z s) :
    KeptOut z (execSecRecoveryGo fn lane v s) := by
  have w0 : Frees z 0x0 := hw.sub rfl
  have w1 : Frees z (Reg.bit .secRecovery) := hw.sub rfl
  have w2 : Frees z 0x1802c30000240000000000000002010000000000e9e11b1 := hw.sub rfl
  unfold execSecRecoveryGo
  repeat' first
    | with_reducible assumption
    | extract_lets
    | intro _
    | split
    | with_reducible apply State.whenKept_keeps w0
    | with_reducible apply State.writeFields_keeps (hw := w1)
    | with_reducible apply State.streamedImage_keeps w2
    | with_reducible apply kept_if
    | with_reducible apply kept_foldl
    | with_reducible apply keptOut_of

theorem State.programmingEnds_keeps (hw : Frees z 0x400000000000000000502100030) (s : State)  (hk : Kept z s) :
    Kept z (State.programmingEnds s) := by
  have w0 : Frees z 0x400000000000000000500100030 := hw.sub rfl
  have w1 : Frees z 0x2000000 := hw.sub rfl
  unfold State.programmingEnds
  repeat' first
    | with_reducible assumption
    | extract_lets
    | intro _
    | split
    | with_reducible apply State.finish_keeps w0
    | with_reducible apply kept_if
    | with_reducible apply kept_foldl
    | with_reducible refine upd_sec w1 ?_

theorem State.programmingStops_keeps (hw : Frees z 0x400000000000000000502100030) (s : State)  (hk : Kept z s) :
    Kept z (State.programmingStops s) := by
  have w0 : Frees z 0x400000000000000000500100030 := hw.sub rfl
  have w1 : Frees z 0x2000000 := hw.sub rfl
  unfold State.programmingStops
  repeat' first
    | with_reducible assumption
    | extract_lets
    | intro _
    | split
    | with_reducible apply State.finish_keeps w0
    | with_reducible apply kept_if
    | with_reducible apply kept_foldl
    | with_reducible refine upd_sec w1 ?_

theorem effFwImage_keeps (hw : Frees z 0x404000000000000000502100030) (image : List (BitVec 8)) (d : Pend) (s : State)  (hk : Kept z s) :
    Kept z (effFwImage image d s) := by
  have w0 : Frees z 0x4000000000000000000000000 := hw.sub rfl
  have w1 : Frees z 0x400000000000000000502100030 := hw.sub rfl
  have w2 : Frees z 0x400000000000000000500100030 := hw.sub rfl
  have w3 : Frees z 0x20 := hw.sub rfl
  have w4 : Frees z 0x2000000 := hw.sub rfl
  unfold effFwImage
  extract_lets b check s1 s2
  have h1 : Kept z s1 := by
    show Kept z (if s.fld ftlHoldupCfg_cap 0 = 0 then (true, s) else s.holdupCheck d.code b.length).2
    split
    · exact hk
    · exact State.holdupCheck_keeps w0 _ _ _ hk
  clear_value check s1
  have h2 : Kept z s2 := State.programmingEnds_keeps w1 _ h1
  clear_value s2 b
  refine kept_if (fun _ => State.finish_keeps w2 _ _ _ _ _ hk) fun _ => ?_
  refine kept_if (fun _ => State.finish_keeps w2 _ _ _ _ _ h1) fun _ => ?_
  exact State.await_keeps w3 _ _ _ (upd_sec w4 h2)

theorem execFwImage_keeps (hw : Frees z 0x80000000000000404000000000000000503100030) (c : Cmd) (image : List (BitVec 8)) (code : BitVec 12) (s : State)  (hk : Kept z s) :
    KeptOut z (execFwImage c image code s) := by
  have w0 : Frees z 0x80000000000000400000000000000000501100030 := hw.sub rfl
  have w1 : Frees z 0x404000000000000000502100030 := hw.sub rfl
  unfold execFwImage
  repeat' first
    | with_reducible assumption
    | extract_lets
    | intro _
    | split
    | with_reducible apply State.command_keeps w0
    | with_reducible apply effFwImage_keeps w1
    | with_reducible apply kept_if
    | with_reducible apply kept_foldl
    | with_reducible apply keptOut_of

theorem effDebugToken_keeps (hw : Frees z 0x1880dc0000240000000040000002010000000050c9c11b5) (token : List (BitVec 8)) (d : Pend) (s : State)  (hk : Kept z s) :
    Kept z (effDebugToken token d s) := by
  have w0 : Frees z 0x400000000000000000500100030 := hw.sub rfl
  have w1 : Frees z 0x1800c00000240000000000000002010000000000c9c11b1 := hw.sub rfl
  have w2 : Frees z (Field.bit secDebug_active) := hw.sub rfl
  have w3 : Frees z (Field.bit glbLifecycle_state) := hw.sub rfl
  have w4 : Frees z (Field.bit secDebug_features) := hw.sub rfl
  have w5 : Frees z (Field.bit secDebug_partition) := hw.sub rfl
  have w6 : Frees z 0x1800000000000000000000000000000000000000004 := hw.sub rfl
  unfold effDebugToken
  repeat' first
    | with_reducible assumption
    | extract_lets
    | intro _
    | split
    | with_reducible apply State.finish_keeps w0
    | with_reducible apply State.raise_keeps w1
    | with_reducible apply State.setFlag_keeps (hw := w2)
    | with_reducible apply State.setFld_keeps (hw := w3)
    | with_reducible apply State.setFld_keeps (hw := w4)
    | with_reducible apply State.setFld_keeps (hw := w5)
    | with_reducible apply State.drawNonce_keeps w6
    | with_reducible apply kept_if
    | with_reducible apply kept_foldl

theorem execDebugToken_keeps (hw : Frees z 0x1880dc8000240000000040000002010000000050d9c11b5) (c : Cmd) (token : List (BitVec 8)) (s : State)  (hk : Kept z s) :
    KeptOut z (execDebugToken c token s) := by
  have w0 : Frees z 0x80000000000000400000000000000000501100030 := hw.sub rfl
  have w1 : Frees z 0x1880dc0000240000000040000002010000000050c9c11b5 := hw.sub rfl
  unfold execDebugToken
  repeat' first
    | with_reducible assumption
    | extract_lets
    | intro _
    | split
    | with_reducible apply State.command_keeps w0
    | with_reducible apply effDebugToken_keeps w1
    | with_reducible apply kept_if
    | with_reducible apply kept_foldl
    | with_reducible apply keptOut_of

theorem State.zeroise_keeps (hw : Frees z 0x2100000) (s : State)  (hk : Kept z s) :
    Kept z (State.zeroise s) := by
  have w0 : Frees z 0x2100000 := hw.sub rfl
  simp (maxDischargeDepth := 30) only [State.zeroise, upd_asf_sec w0, and_self, hk]

theorem State.setFused_keeps (hw : Frees z 0x800000000000000000000000000000000000002000000) (s : State) (x : ℕ)  (hk : Kept z s) :
    Kept z (State.setFused s x) := by
  have w0 : Frees z (Field.bit glbLifecycle_state) := hw.sub rfl
  have w1 : Frees z 0x2000000 := hw.sub rfl
  unfold State.setFused
  repeat' first
    | with_reducible assumption
    | extract_lets
    | intro _
    | split
    | with_reducible apply State.setFld_keeps (hw := w0)
    | with_reducible apply kept_if
    | with_reducible apply kept_foldl
    | with_reducible refine upd_sec w1 ?_

theorem State.retire__keeps (hw : Frees z 0x840000000000000000000000000000000000002104001) (s : State)  (hk : Kept z s) :
    Kept z (State.retire_ s) := by
  have w0 : Frees z (Field.bit plnQstate_flashValid) := hw.sub rfl
  have w1 : Frees z 0x800000000000000000000000000000000000002000000 := hw.sub rfl
  have w2 : Frees z 0x2100000 := hw.sub rfl
  have w3 : Frees z 0x1 := hw.sub rfl
  have w4 : Frees z 0x2004000 := hw.sub rfl
  unfold State.retire_
  repeat' first
    | with_reducible assumption
    | extract_lets
    | intro _
    | split
    | with_reducible apply State.setFlag_keeps (hw := w0)
    | with_reducible apply State.setFused_keeps w1
    | with_reducible apply State.zeroise_keeps w2
    | with_reducible apply State.reboot_keeps w3
    | with_reducible apply kept_if
    | with_reducible apply kept_foldl
    | with_reducible refine upd_ftl_sec w4 ?_

theorem State.lockField_keeps (hw : Frees z 0x800000000000000000000000000000000000002000000) (s : State)  (hk : Kept z s) :
    Kept z (State.lockField s) := by
  have w0 : Frees z (Field.bit glbLifecycle_fieldLock) := hw.sub rfl
  have w1 : Frees z 0x2000000 := hw.sub rfl
  unfold State.lockField
  repeat' first
    | with_reducible assumption
    | extract_lets
    | intro _
    | split
    | with_reducible apply State.setFlag_keeps (hw := w0)
    | with_reducible apply kept_if
    | with_reducible apply kept_foldl
    | with_reducible refine upd_sec w1 ?_

theorem effLifecycleSet_keeps (hw : Frees z 0x850400000000000000400000000000000000506104135) (d : Pend) (s : State)  (hk : Kept z s) :
    Kept z (effLifecycleSet d s) := by
  have w0 : Frees z 0x400000000000000000500100030 := hw.sub rfl
  have w1 : Frees z 0x800000000000000000000000000000000000002000000 := hw.sub rfl
  have w2 : Frees z 0x810400000000000000400000000000000000504100130 := hw.sub rfl
  have w3 : Frees z 0x840000000000000000000000000000000000002104001 := hw.sub rfl
  have w4 : Frees z 0x2000004 := hw.sub rfl
  unfold effLifecycleSet
  repeat' first
    | with_reducible assumption
    | extract_lets
    | intro _
    | split
    | with_reducible apply State.finish_keeps w0
    | with_reducible apply State.setFused_keeps w1
    | with_reducible apply State.endFieldDebug_keeps w2
    | with_reducible apply State.retire__keeps w3
    | with_reducible apply State.lockField_keeps w1
    | with_reducible apply kept_if
    | with_reducible apply kept_foldl
    | with_reducible refine upd_freeCtr_sec w4 ?_

theorem execLifecycleSet_keeps (hw : Frees z 0x850480000000000000400000000000000000507104135) (c : Cmd) (s : State)  (hk : Kept z s) :
    KeptOut z (execLifecycleSet c s) := by
  have w0 : Frees z 0x80000000000000400000000000000000501100030 := hw.sub rfl
  have w1 : Frees z 0x850400000000000000400000000000000000506104135 := hw.sub rfl
  unfold execLifecycleSet
  repeat' first
    | with_reducible assumption
    | extract_lets
    | intro _
    | split
    | with_reducible apply State.plain_keeps w0
    | with_reducible apply effLifecycleSet_keeps w1
    | with_reducible apply kept_if
    | with_reducible apply kept_foldl
    | with_reducible apply keptOut_of

theorem execSecFuseProgWrite_keeps (hw : Frees z 0x2000000) (fn : Fn) (i : Fin 16) (lane : Lane) (v : BitVec 64) (s : State)  (hk : Kept z s) :
    KeptOut z (execSecFuseProgWrite fn i lane v s) := by
  have w0 : Frees z 0x0 := hw.sub rfl
  have w1 : Frees z 0x2000000 := hw.sub rfl
  unfold execSecFuseProgWrite
  repeat' first
    | with_reducible assumption
    | extract_lets
    | intro _
    | split
    | with_reducible apply State.whenKept_keeps w0
    | with_reducible apply kept_if
    | with_reducible apply kept_foldl
    | with_reducible refine upd_sec w1 ?_
    | with_reducible apply keptOut_of

end Sys2Proof.Machine
end

