-- ==== Sys2Proof/Laws/KeepsStartup.lean ====
section
/-! SUPPORT. Every operation of Machine/Startup.lean keeps the queue, the canonical forms and every piece that it does not touch. -/

set_option Elab.async false
set_option linter.unusedSimpArgs false
set_option linter.unusedTactic false
set_option linter.unreachableTactic false

namespace Sys2Proof.Machine

variable {z : Ref}

theorem State.showFuses_keeps (hw : Frees z 0x800000000000000000000000000000000000000000000) (s : State)  (hk : Kept z s) :
    Kept z (State.showFuses s) := by
  have w0 : Frees z (Field.bit glbLifecycle_bootSource) := hw.sub rfl
  have w1 : Frees z (Field.bit glbLifecycle_secondKey) := hw.sub rfl
  have w2 : Frees z (Field.bit glbLifecycle_ownerKey) := hw.sub rfl
  have w3 : Frees z (Field.bit glbLifecycle_fieldLock) := hw.sub rfl
  have w4 : Frees z (Field.bit glbLifecycle_revoked) := hw.sub rfl
  have w5 : Frees z (Field.bit glbLifecycle_state) := hw.sub rfl
  unfold State.showFuses
  repeat' first
    | with_reducible assumption
    | extract_lets
    | intro _
    | split
    | with_reducible apply State.setFlag_keeps (hw := w0)
    | with_reducible apply State.setFlag_keeps (hw := w1)
    | with_reducible apply State.setFlag_keeps (hw := w2)
    | with_reducible apply State.setFlag_keeps (hw := w3)
    | with_reducible apply State.setFld_keeps (hw := w4)
    | with_reducible apply State.setFld_keeps (hw := w5)
    | with_reducible apply kept_if
    | with_reducible apply kept_foldl

theorem State.loadQuarantine_keeps (hw : Frees z 0x1ffffffffffffffffffffffffffffffffffffffffffffff) (n : State) (old : State) (c : ColdStart)  (hk : Kept z n) (hk_old : Kept z old) :
    Kept z (State.loadQuarantine n old c) := by
  have w0 : Frees z (Field.bit plnQstate_generation) := hw.sub rfl
  have w1 : Frees z (Field.bit plnQstate_copy) := hw.sub rfl
  have w2 : Frees z (Field.bit plnQstate_flashValid) := hw.sub rfl
  have w3 : Frees z 0x800000000000 := hw.sub rfl
  have w4 : Frees z (Field.bit genChUnits_quarantine) := hw.sub rfl
  have w5 : Frees z 0x1800c00000240000000000000002010000000000c9c11b1 := hw.sub rfl
  have w6 : Frees z (Field.bit plnBoot_qstateLost) := hw.sub rfl
  unfold State.loadQuarantine
  split
  · extract_lets p n1 n2
    have h1 : Kept z n1 := hk.next rfl (fun f => ⟨keepRegs_filter (kept_regs hk_old) _, f.2⟩) (.inr rfl) (.inl rfl)
      fun p => .inl (hw.all p)
    clear_value n1
    have h2 : Kept z n2 := State.setFld_keeps (hw := w0) _ _ _ (State.setFld_keeps (hw := w1) _ _ _
      (State.setFlag_keeps (hw := w2) _ _ _ h1))
    clear_value n2
    exact kept_foldl _ h2 fun t k ht => State.noteMemOnly_keeps w3 _ _ (State.setFld_keeps (hw := w4) _ _ _ ht)
  · split
    · extract_lets p n1 n2
      have h1 : Kept z n1 := hk.next rfl id (.inr rfl) (.inl rfl) fun p => .inl (hw.all p)
      clear_value n1
      have h2 : Kept z n2 := State.setFld_keeps (hw := w0) _ _ _ (State.setFld_keeps (hw := w1) _ _ _
        (State.setFlag_keeps (hw := w2) _ _ _ h1))
      clear_value n2
      exact kept_foldl _ h2 fun t k ht => State.noteMemOnly_keeps w3 _ _ (State.setFld_keeps (hw := w4) _ _ _ ht)
    · exact State.raise_keeps w5 _ _ (State.setFlag_keeps (hw := w6) _ _ _ hk)

theorem State.coldStart_keeps (hw : Frees z 0x1ffffffffffffffffffffffffffffffffffffffffffffff) (s : State) (c : ColdStart)  (hk : Kept z s) :
    Kept z (State.coldStart s c) := by
  have w0 : Frees z 0x1800000000000000000000000000000000000000004 := hw.sub rfl
  have w1 : Frees z 0x800000000000000000000000000000000000000000000 := hw.sub rfl
  have w2 : Frees z 0xe08000000080000 := hw.sub rfl
  have w3 : Frees z 0x1ffffffffffffffffffffffffffffffffffffffffffffff := hw.sub rfl
  have w4 : Frees z (Field.bit plnBoot_stage) := hw.sub rfl
  unfold State.coldStart
  extract_lets n0 n00 n1 n2
  have h0 : Kept z n1 := ⟨hk.1, ⟨keepRegs_nil, keepCells_nil, keepCells_nil, keepCells_nil⟩, .inl (hw.opens rfl),
    .inr fun p => .inl (hw.all p)⟩
  clear_value n1
  have h2 : Kept z n2 :=
    State.drawNonce_keeps w0 _ (State.showFuses_keeps w1 _ (State.loadTileMap_keeps w2 _ (State.loadQuarantine_keeps w3 _ _ _ h0 hk)))
  clear_value n2
  exact kept_if (fun _ => State.setFld_keeps (hw := w4) _ _ _ h2) fun _ => h2

theorem execColdStart_keeps (hw : Frees z 0x1ffffffffffffffffffffffffffffffffffffffffffffff) (inp : ColdStart) (s : State)  (hk : Kept z s) :
    KeptOut z (execColdStart inp s) := by
  have w0 : Frees z 0x1ffffffffffffffffffffffffffffffffffffffffffffff := hw.sub rfl
  unfold execColdStart
  repeat' first
    | with_reducible assumption
    | extract_lets
    | intro _
    | split
    | with_reducible apply State.coldStart_keeps w0
    | with_reducible apply kept_if
    | with_reducible apply kept_foldl
    | with_reducible apply keptOut_of

theorem State.beginRails_keeps (hw : Frees z 0x20000000000000000000000000000000000008000010) (s : State)  (hk : Kept z s) :
    Kept z (State.beginRails s) := by
  have w0 : Frees z 0x10 := hw.sub rfl
  have w1 : Frees z (Field.bit plnBoot_stage) := hw.sub rfl
  have w2 : Frees z 0x8000000 := hw.sub rfl
  unfold State.beginRails
  repeat' first
    | with_reducible assumption
    | extract_lets
    | intro _
    | split
    | with_reducible apply State.emit_keeps w0
    | with_reducible apply State.setFld_keeps (hw := w1)
    | with_reducible apply kept_if
    | with_reducible apply kept_foldl
    | with_reducible refine upd_pln w2 (.inl rfl) ?_
    | with_reducible refine upd_pln w2 (.inr rfl) ?_

theorem execRailSequenceStart_keeps (hw : Frees z 0x20000000000000000000000000000000000008000010) (s : State)  (hk : Kept z s) :
    KeptOut z (execRailSequenceStart s) := by
  have w0 : Frees z 0x20000000000000000000000000000000000008000010 := hw.sub rfl
  unfold execRailSequenceStart
  repeat' first
    | with_reducible assumption
    | extract_lets
    | intro _
    | split
    | with_reducible apply State.beginRails_keeps w0
    | with_reducible apply kept_if
    | with_reducible apply kept_foldl
    | with_reducible apply keptOut_of

theorem execRailInRange_keeps (hw : Frees z 0x8000010) (s : State)  (hk : Kept z s) :
    KeptOut z (execRailInRange s) := by
  have w0 : Frees z 0x10 := hw.sub rfl
  have w1 : Frees z 0x8000000 := hw.sub rfl
  unfold execRailInRange
  repeat' first
    | with_reducible assumption
    | extract_lets
    | intro _
    | split
    | with_reducible apply State.emit_keeps w0
    | with_reducible apply kept_if
    | with_reducible apply kept_foldl
    | with_reducible refine upd_pln w1 (.inl rfl) ?_
    | with_reducible refine upd_pln w1 (.inr rfl) ?_
    | with_reducible apply keptOut_of

theorem execRailFault_keeps (hw : Frees z 0x1800400000240000000000000000000000000000c800011) (s : State)  (hk : Kept z s) :
    KeptOut z (execRailFault s) := by
  have w0 : Frees z 0x8000000 := hw.sub rfl
  have w1 : Frees z 0x1800400000240000000000000000000000000000c800010 := hw.sub rfl
  have w2 : Frees z 0x8000011 := hw.sub rfl
  have w3 : Frees z 0x8000010 := hw.sub rfl
  have k : ∀ u : State, Kept z u → Kept z { u with pln := { u.pln with railFault := true } } :=
    fun u hu => upd_pln w0 (.inl rfl) hu
  unfold execRailFault
  refine keptOut_of ?_
  refine kept_if (fun _ => ?_) fun _ => hk
  extract_lets s1 s2 src
  have h1 : Kept z s1 := State.writeRecord_keeps w1 _ _ hk
  clear_value s1
  have h2 : Kept z s2 := State.toC6_keeps w2 _ _ h1
  clear_value s2
  exact State.raiseAlert_keeps w3 _ (k _ h2)

theorem State.hubReleased_keeps (hw : Frees z 0x2c08010000000000000000000000000000000d000010) (s : State)  (hk : Kept z s) :
    Kept z (State.hubReleased s) := by
  have w0 : Frees z 0x80100000000000000000000000000000001000010 := hw.sub rfl
  have w1 : Frees z 0xc00000000000000000000000000000000000c000010 := hw.sub rfl
  have w2 : Frees z (Field.bit plnBoot_stage) := hw.sub rfl
  unfold State.hubReleased
  repeat' first
    | with_reducible assumption
    | extract_lets
    | intro _
    | split
    | with_reducible apply State.powerLimit_keeps w0
    | with_reducible apply State.globalStop_keeps w1
    | with_reducible apply State.setFld_keeps (hw := w2)
    | with_reducible apply kept_if
    | with_reducible apply kept_foldl

theorem execClocksLocked_keeps (hw : Frees z 0x2c08010000000000000000000000000000000d000010) (s : State)  (hk : Kept z s) :
    KeptOut z (execClocksLocked s) := by
  have w0 : Frees z 0x2c08010000000000000000000000000000000d000010 := hw.sub rfl
  have w1 : Frees z 0x1000000 := hw.sub rfl
  have w2 : Frees z (Field.bit plnBoot_stage) := hw.sub rfl
  unfold execClocksLocked
  repeat' first
    | with_reducible assumption
    | extract_lets
    | intro _
    | split
    | with_reducible apply State.hubReleased_keeps w0
    | with_reducible apply State.startLoops_keeps w1
    | with_reducible apply State.setFld_keeps (hw := w2)
    | with_reducible apply kept_if
    | with_reducible apply kept_foldl
    | with_reducible apply keptOut_of

theorem execRefAbsent_keeps (hw : Frees z 0x1802400000240000000000000000000000000000c800010) (s : State)  (hk : Kept z s) :
    KeptOut z (execRefAbsent s) := by
  have w0 : Frees z (Field.bit plnBoot_stage) := hw.sub rfl
  have w1 : Frees z 0x1800400000240000000000000000000000000000c800010 := hw.sub rfl
  unfold execRefAbsent
  repeat' first
    | with_reducible assumption
    | extract_lets
    | intro _
    | split
    | with_reducible apply State.setFld_keeps (hw := w0)
    | with_reducible apply State.writeRecord_keeps w1
    | with_reducible apply kept_if
    | with_reducible apply kept_foldl
    | with_reducible apply keptOut_of

theorem execXtalAbsent_keeps (hw : Frees z 0x1802c00000640000000000000002010000000000c9c11b1) (s : State)  (hk : Kept z s) :
    KeptOut z (execXtalAbsent s) := by
  have w0 : Frees z 0x1800c00000240000000000000002010000000000c9c11b1 := hw.sub rfl
  have w1 : Frees z (Field.bit pwrDevCfg_c5En) := hw.sub rfl
  have w2 : Frees z (Field.bit plnBoot_xtalFault) := hw.sub rfl
  unfold execXtalAbsent
  repeat' first
    | with_reducible assumption
    | extract_lets
    | intro _
    | split
    | with_reducible apply State.raise_keeps w0
    | with_reducible apply State.setFlag_keeps (hw := w1)
    | with_reducible apply State.setFlag_keeps (hw := w2)
    | with_reducible apply kept_if
    | with_reducible apply kept_foldl
    | with_reducible apply keptOut_of

theorem execPortRefAbsent_keeps (hw : Frees z 0x1800c08000240000000000000002010000000000d9c11b1) (refB : Bool) (s : State)  (hk : Kept z s) :
    KeptOut z (execPortRefAbsent refB s) := by
  have w0 : Frees z 0x1800c00000240000000000000002010000000000c9c11b1 := hw.sub rfl
  have w1 : Frees z 0x80000000000000000000000000000000001100000 := hw.sub rfl
  have w2 : Frees z 0x8000000 := hw.sub rfl
  unfold execPortRefAbsent
  repeat' first
    | with_reducible assumption
    | extract_lets
    | intro _
    | split
    | with_reducible apply State.raise_keeps w0
    | with_reducible apply State.portDown_keeps w1
    | with_reducible apply kept_if
    | with_reducible apply kept_foldl
    | with_reducible refine upd_pln w2 (.inl rfl) ?_
    | with_reducible refine upd_pln w2 (.inr rfl) ?_
    | with_reducible apply keptOut_of

theorem execDramInitComplete_keeps (hw : Frees z 0x18000) (s : State)  (hk : Kept z s) :
    KeptOut z (execDramInitComplete s) := by
  have w0 : Frees z 0x18000 := hw.sub rfl
  unfold execDramInitComplete
  exact keptOut_of (kept_if (fun _ => upd_dram_poison w0 keepCells_nil hk) fun _ => hk)

theorem State.romVerify_keeps (hw : Frees z 0x1842c30000240000000000000002010000000000e9c11b1) (s : State) (answers : Bool) (image : List (BitVec 8))  (hk : Kept z s) :
    Kept z (State.romVerify s answers image) := by
  have w0 : Frees z (Field.bit glbCap1_bootFlash) := hw.sub rfl
  have w1 : Frees z (Field.bit plnBoot_recoveryArmed) := hw.sub rfl
  have w2 : Frees z (Field.bit plnBoot_stage) := hw.sub rfl
  have w3 : Frees z (Field.bit secBoot_svnFloor) := hw.sub rfl
  have w4 : Frees z (Field.bit secBoot_result) := hw.sub rfl
  have w5 : Frees z 0x20200000000000000000000000000000000000000000 := hw.sub rfl
  have w6 : Frees z 0x20300000000000000000000000000000000002000000 := hw.sub rfl
  have w7 : Frees z 0x1800c10000240000000000000002010000000000c9c11b1 := hw.sub rfl
  have w8 : Frees z 0x2000000 := hw.sub rfl
  unfold State.romVerify
  repeat' first
    | with_reducible assumption
    | extract_lets
    | intro _
    | split
    | with_reducible apply State.setFlag_keeps (hw := w0)
    | with_reducible apply State.setFlag_keeps (hw := w1)
    | with_reducible apply State.setFld_keeps (hw := w2)
    | with_reducible apply State.setFld_keeps (hw := w3)
    | with_reducible apply State.setFld_keeps (hw := w4)
    | with_reducible apply State.toRecovery_keeps w5
    | with_reducible apply State.imageRuns_keeps w6
    | with_reducible apply State.imageFails_keeps w7
    | with_reducible apply kept_if
    | with_reducible apply kept_foldl
    | with_reducible refine upd_sec w8 ?_

theorem execBootVerify_keeps (hw : Frees z 0x1842c30000240000000000000002010000000000e9c11b1) (flashAnswers : Bool) (image : List (BitVec 8)) (s : State)  (hk : Kept z s) :
    KeptOut z (execBootVerify flashAnswers image s) := by
  have w0 : Frees z 0x1842c30000240000000000000002010000000000e9c11b1 := hw.sub rfl
  unfold execBootVerify
  repeat' first
    | with_reducible assumption
    | extract_lets
    | intro _
    | split
    | with_reducible apply State.romVerify_keeps w0
    | with_reducible apply kept_if
    | with_reducible apply kept_foldl
    | with_reducible apply keptOut_of

theorem State.deriveIdentity_keeps (hw : Frees z 0x2000004) (s : State) (matched : Bool)  (hk : Kept z s) :
    Kept z (State.deriveIdentity s matched) := by
  have w0 : Frees z 0x2000004 := hw.sub rfl
  unfold State.deriveIdentity
  repeat' first
    | with_reducible assumption
    | extract_lets
    | intro _
    | split
    | with_reducible apply kept_if
    | with_reducible apply kept_foldl
    | with_reducible refine upd_freeCtr_sec w0 ?_
    | dsimp +zetaDelta only

theorem execDiceDerivationComplete_keeps (hw : Frees z 0x1802c00000240000000000000002010000000000e9c11b5) (certMatches : Bool) (s : State)  (hk : Kept z s) :
    KeptOut z (execDiceDerivationComplete certMatches s) := by
  have w0 : Frees z (Field.bit plnBoot_stage) := hw.sub rfl
  have w1 : Frees z 0x2000004 := hw.sub rfl
  have w2 : Frees z 0x1800c00000240000000000000002010000000000c9c11b1 := hw.sub rfl
  unfold execDiceDerivationComplete
  repeat' first
    | with_reducible assumption
    | extract_lets
    | intro _
    | split
    | with_reducible apply State.setFld_keeps (hw := w0)
    | with_reducible apply State.deriveIdentity_keeps w1
    | with_reducible apply State.raise_keeps w2
    | with_reducible apply kept_if
    | with_reducible apply kept_foldl
    | with_reducible apply keptOut_of

theorem State.startupFailure_keeps (hw : Frees z 0x1804c000002400000000000000020103e4880000c9c11b5) (s : State) (tile : Option ℕ) (unit : ℕ × ℕ)  (hk : Kept z s) :
    Kept z (State.startupFailure s tile unit) := by
  have w0 : Frees z 0x4 := hw.sub rfl
  have w1 : Frees z 0x1804c000002400000000000000020103e4800000c9c11b1 := hw.sub rfl
  have w2 : Frees z (Field.bit prmSelftest_fails) := hw.sub rfl
  have w3 : Frees z 0x1804c00000240000000000000002010300880000c9c11b1 := hw.sub rfl
  unfold State.startupFailure
  repeat' first
    | with_reducible assumption
    | extract_lets
    | intro _
    | split
    | with_reducible apply State.free_keeps w0
    | with_reducible refine State.free_gives w0 (by with_reducible assumption) ?_
    | with_reducible apply State.quarantineTile_keeps w1
    | with_reducible apply State.bump_keeps (hw := w2)
    | with_reducible apply State.quarantineUnit_keeps w3
    | with_reducible apply kept_if
    | with_reducible apply kept_foldl

theorem State.becomeReady_keeps (hw : Frees z 0x1807c080002400000000000000020103e4880000d9c11b5) (s : State) (inp : FirmwareInit)  (hk : Kept z s) :
    Kept z (State.becomeReady s inp) := by
  have w0 : Frees z 0x1804c000002400000000000000020103e4880000c9c11b5 := hw.sub rfl
  have w1 : Frees z (Field.bit dbgHalt_cores) := hw.sub rfl
  have w2 : Frees z (Field.bit plnBoot_readyMs) := hw.sub rfl
  have w3 : Frees z (Field.bit plnBoot_stage) := hw.sub rfl
  have w4 : Frees z 0x8000000000400000000000000000000000000000800010 := hw.sub rfl
  have w5 : Frees z 0x80000000000000000000000000000000001000010 := hw.sub rfl
  have w6 : Frees z 0x100000 := hw.sub rfl
  unfold State.becomeReady
  repeat' first
    | with_reducible refine keptOpt_map ?_
    | with_reducible assumption
    | extract_lets
    | intro _
    | split
    | with_reducible apply State.startupFailure_keeps w0
    | with_reducible apply State.setFld_keeps (hw := w1)
    | with_reducible apply State.setFld_keeps (hw := w2)
    | with_reducible apply State.setFld_keeps (hw := w3)
    | with_reducible apply State.flushHeld_keeps w4
    | with_reducible apply State.planPoints_keeps w5
    | with_reducible apply kept_if
    | with_reducible apply kept_foldl
    | with_reducible refine upd_asf w6 ?_

theorem execFirmwareInitComplete_keeps (hw : Frees z 0x1807c080002400000000000000020103e4880000d9c11b5) (inp : FirmwareInit) (s : State)  (hk : Kept z s) :
    KeptOut z (execFirmwareInitComplete inp s) := by
  have w0 : Frees z 0x1807c080002400000000000000020103e4880000d9c11b5 := hw.sub rfl
  unfold execFirmwareInitComplete
  repeat' first
    | with_reducible assumption
    | extract_lets
    | intro _
    | split
    | with_reducible apply State.becomeReady_keeps w0
    | with_reducible apply kept_if
    | with_reducible apply kept_foldl
    | with_reducible apply keptOut_of

theorem State.ftlStarts_keeps (hw : Frees z 0x1840c0000024000000000004e982010000002080c9c51b1) (s : State) (targets : List FlashTarget)  (hk : Kept z s) :
    Kept z (State.ftlStarts s targets) := by
  have w0 : Frees z (Field.bit ftlHealth_targetsRefused) := hw.sub rfl
  have w1 : Frees z (Field.bit ftlHealth_mode) := hw.sub rfl
  have w2 : Frees z (Field.bit glbCap1_flashFitted) := hw.sub rfl
  have w3 : Frees z 0x1800c00000240000000000040002010000000000c9c11b1 := hw.sub rfl
  have w4 : Frees z 0x400000000000000000000000 := hw.sub rfl
  have w5 : Frees z 0xe9800000000020800001000 := hw.sub rfl
  have w6 : Frees z 0x4000 := hw.sub rfl
  unfold State.ftlStarts
  repeat' first
    | with_reducible assumption
    | extract_lets
    | intro _
    | split
    | with_reducible apply State.setFld_keeps (hw := w0)
    | with_reducible apply State.setFld_keeps (hw := w1)
    | with_reducible apply State.setFlag_keeps (hw := w2)
    | with_reducible apply State.checkReserve_keeps w3
    | with_reducible apply State.noteErases_keeps w4
    | with_reducible apply State.relayTier1_keeps w5
    | with_reducible apply kept_if
    | with_reducible apply kept_foldl
    | with_reducible refine upd_ftl w6 ?_

theorem execFtlInService_keeps (hw : Frees z 0x1840c0000024000000000004e982010000002080c9c51b1) (targets : List FlashTarget) (s : State)  (hk : Kept z s) :
    KeptOut z (execFtlInService targets s) := by
  have w0 : Frees z 0x0 := hw.sub rfl
  have w1 : Frees z 0x1840c0000024000000000004e982010000002080c9c51b1 := hw.sub rfl
  simp (maxDischargeDepth := 30) +contextual only [execFtlInService, keptOut_next, State.whenLive_keeps w0, State.ftlStarts_keeps w1, and_self, kept_foldl, kept_ite, implies_true, hk]

theorem State.fundamentalReset_keeps (hw : Frees z 0x2c08010000000000000000000000000000000d000011) (s : State)  (hk : Kept z s) :
    Kept z (State.fundamentalReset s) := by
  have w0 : Frees z 0x2c08010000000000000000000000000000000d000010 := hw.sub rfl
  have w1 : Frees z 0x1 := hw.sub rfl
  simp (maxDischargeDepth := 30) only [State.fundamentalReset, State.hubReleased_keeps w0, State.reboot_keeps w1, and_self, hk]

theorem execPcieHotReset_keeps (hw : Frees z 0x2c08010000000000000000000000000000000d000011) (s : State)  (hk : Kept z s) :
    KeptOut z (execPcieHotReset s) := by
  have w0 : Frees z 0x2c08010000000000000000000000000000000d000011 := hw.sub rfl
  unfold execPcieHotReset
  repeat' first
    | with_reducible assumption
    | extract_lets
    | intro _
    | split
    | with_reducible apply State.fundamentalReset_keeps w0
    | with_reducible apply kept_if
    | with_reducible apply kept_foldl
    | with_reducible apply keptOut_of

theorem execPcieLinkUp_keeps (hw : Frees z 0x8000000000400000000000000000000000000008800010) (s : State)  (hk : Kept z s) :
    KeptOut z (execPcieLinkUp s) := by
  have w0 : Frees z 0x8000000000400000000000000000000000000000800010 := hw.sub rfl
  have w1 : Frees z 0x8000000 := hw.sub rfl
  unfold execPcieLinkUp
  repeat' first
    | with_reducible assumption
    | extract_lets
    | intro _
    | split
    | with_reducible apply State.flushHeld_keeps w0
    | with_reducible apply kept_if
    | with_reducible apply kept_foldl
    | with_reducible refine upd_pln w1 (.inl rfl) ?_
    | with_reducible refine upd_pln w1 (.inr rfl) ?_
    | with_reducible apply keptOut_of

theorem execPcieLinkDown_keeps (hw : Frees z 0x1800c00000240000000000000002010000000000e9c11b1) (s : State)  (hk : Kept z s) :
    KeptOut z (execPcieLinkDown s) := by
  have w0 : Frees z 0x1800c00000240000000000000002010000000000c9c11b1 := hw.sub rfl
  have w1 : Frees z 0xa000000 := hw.sub rfl
  unfold execPcieLinkDown
  repeat' first
    | with_reducible assumption
    | extract_lets
    | intro _
    | split
    | with_reducible apply State.raise_keeps w0
    | with_reducible apply kept_if
    | with_reducible apply kept_foldl
    | with_reducible refine upd_sec_pln w1 (.inl rfl) ?_
    | with_reducible refine upd_sec_pln w1 (.inr rfl) ?_
    | with_reducible apply keptOut_of

theorem execSuppliesRemoved_keeps (hw : Frees z 0x8000011) (aonToo : Bool) (s : State)  (hk : Kept z s) :
    KeptOut z (execSuppliesRemoved aonToo s) := by
  have w0 : Frees z 0x8000011 := hw.sub rfl
  have w1 : Frees z 0x8000000 := hw.sub rfl
  unfold execSuppliesRemoved
  repeat' first
    | with_reducible assumption
    | extract_lets
    | intro _
    | split
    | with_reducible apply State.toC6_keeps w0
    | with_reducible apply kept_if
    | with_reducible apply kept_foldl
    | with_reducible refine upd_pln w1 (.inl rfl) ?_
    | with_reducible refine upd_pln w1 (.inr rfl) ?_
    | with_reducible apply keptOut_of

end Sys2Proof.Machine
end

