-- ==== Sys2Proof/Laws/KeepsPins.lean ====
section
/-! SUPPORT. Every operation of Machine/Pins.lean keeps the queue, the canonical forms and every piece that it does not touch. -/

set_option Elab.async false
set_option linter.unusedSimpArgs false
set_option linter.unusedTactic false
set_option linter.unreachableTactic false

namespace Sys2Proof.Machine

variable {z : Ref}

theorem State.setInput_keeps (hw : Frees z 0x8000000) (s : State) (i : ℕ) (x : Input)  (hk : Kept z s) :
    Kept z (State.setInput s i x) := by
  have w0 : Frees z 0x8000000 := hw.sub rfl
  unfold State.setInput
  repeat' first
    | with_reducible assumption
    | extract_lets
    | intro _
    | split
    | with_reducible apply kept_if
    | with_reducible apply kept_foldl
    | with_reducible refine upd_pln w0 (.inl rfl) ?_
    | with_reducible refine upd_pln w0 (.inr rfl) ?_

theorem State.inputEvent_keeps (hw : Frees z 0x80000000000000000000000000000000000008000000) (s : State) (i : ℕ) (act : Bool → State → State)  (hk : Kept z s) (hk_act : ∀ y0 y1, Kept z y1 → Kept z (act y0 y1)) :
    Kept z (State.inputEvent s i act) := by
  have w0 : Frees z (Field.bit pinInput_events) := hw.sub rfl
  have w1 : Frees z 0x8000000 := hw.sub rfl
  unfold State.inputEvent
  repeat' first
    | with_reducible assumption
    | extract_lets
    | intro _
    | split
    | with_reducible apply State.bump_keeps (hw := w0)
    | with_reducible apply State.setInput_keeps w1
    | with_reducible apply hk_act
    | with_reducible apply kept_if
    | with_reducible apply kept_foldl

theorem State.takeLevel_keeps (hw : Frees z 0x80000000000000000000000000000000000008000000) (s : State) (i : ℕ) (asserted : Bool)  (hk : Kept z s) :
    Kept z (State.takeLevel s i asserted) := by
  have w0 : Frees z (Field.bit pinInput_level) := hw.sub rfl
  have w1 : Frees z (Field.bit pinInput_masked) := hw.sub rfl
  have w2 : Frees z (Field.bit pinInput_stuck) := hw.sub rfl
  have w3 : Frees z 0x8000000 := hw.sub rfl
  unfold State.takeLevel
  repeat' first
    | with_reducible assumption
    | extract_lets
    | intro _
    | split
    | with_reducible apply State.setFlag_keeps (hw := w0)
    | with_reducible apply State.setFlag_keeps (hw := w1)
    | with_reducible apply State.setFlag_keeps (hw := w2)
    | with_reducible apply State.setInput_keeps w3
    | with_reducible apply kept_if
    | with_reducible apply kept_foldl
    | with_reducible refine upd_pln w3 (.inl rfl) ?_
    | with_reducible refine upd_pln w3 (.inr rfl) ?_

theorem State.edge_keeps (hw : Frees z 0x80000000000000000000000000000000000008000000) (s : State) (i : ℕ) (asserted : Bool) (act : Bool → State → State)  (hk : Kept z s) (hk_act : ∀ y0 y1, Kept z y1 → Kept z (act y0 y1)) :
    Kept z (State.edge s i asserted act) := by
  have w0 : Frees z (Field.bit pinInput_merged) := hw.sub rfl
  have w1 : Frees z 0x80000000000000000000000000000000000008000000 := hw.sub rfl
  unfold State.edge
  repeat' first
    | with_reducible assumption
    | extract_lets
    | intro _
    | split
    | with_reducible apply State.bump_keeps (hw := w0)
    | with_reducible apply State.takeLevel_keeps w1
    | with_reducible apply State.inputEvent_keeps w1
    | with_reducible apply hk_act
    | with_reducible apply kept_if
    | with_reducible apply kept_foldl

theorem actGstop_keeps (hw : Frees z 0xc00000000000000000000000000000000000c000010) (asserted : Bool) (s : State)  (hk : Kept z s) :
    Kept z (actGstop asserted s) := by
  have w0 : Frees z 0xc00000000000000000000000000000000000c000010 := hw.sub rfl
  unfold actGstop
  repeat' first
    | with_reducible assumption
    | extract_lets
    | intro _
    | split
    | with_reducible apply State.globalStop_keeps w0
    | with_reducible apply kept_if
    | with_reducible apply kept_foldl

theorem actPwrLimit_keeps (hw : Frees z 0x80100000000000000000000000000000001000010) (asserted : Bool) (s : State)  (hk : Kept z s) :
    Kept z (actPwrLimit asserted s) := by
  have w0 : Frees z 0x80100000000000000000000000000000001000010 := hw.sub rfl
  have w1 : Frees z 0x1000000 := hw.sub rfl
  unfold actPwrLimit
  repeat' first
    | with_reducible assumption
    | extract_lets
    | intro _
    | split
    | with_reducible apply State.powerLimit_keeps w0
    | with_reducible apply kept_if
    | with_reducible apply kept_foldl
    | with_reducible refine upd_pwr w1 ?_

theorem actPfail_keeps (hw : Frees z 0x40000000000000000050a100030) (asserted : Bool) (s : State)  (hk : Kept z s) :
    Kept z (actPfail asserted s) := by
  have w0 : Frees z 0x400000000000000000502100030 := hw.sub rfl
  have w1 : Frees z 0x8000000 := hw.sub rfl
  unfold actPfail
  repeat' first
    | with_reducible assumption
    | extract_lets
    | intro _
    | split
    | with_reducible apply State.programmingStops_keeps w0
    | with_reducible apply kept_if
    | with_reducible apply kept_foldl
    | with_reducible refine upd_pln w1 (.inl rfl) ?_
    | with_reducible refine upd_pln w1 (.inr rfl) ?_

theorem State.exitC5_keeps (hw : Frees z 0x1802d88000a40000080000000002010000000000f9c11b5) (s : State) (source : ℕ)  (hk : Kept z s) :
    Kept z (State.exitC5 s source) := by
  have w0 : Frees z 0x1802d88000a40000080000000002010000000000f9c11b5 := hw.sub rfl
  have w1 : Frees z 0x1 := hw.sub rfl
  unfold State.exitC5
  repeat' first
    | with_reducible refine keptOpt_map ?_
    | with_reducible assumption
    | extract_lets
    | intro _
    | split
    | with_reducible apply State.leaveC5_keeps w0
    | with_reducible apply State.reboot_keeps w1
    | with_reducible apply kept_if
    | with_reducible apply kept_foldl

theorem actWake_keeps (hw : Frees z 0x1802d88000a40000080000000002010000000000f9c11b5) (asserted : Bool) (s : State)  (hk : Kept z s) :
    Kept z (actWake asserted s) := by
  have w0 : Frees z 0x80008000000000000000000000000000001000010 := hw.sub rfl
  have w1 : Frees z 0x1802d88000a40000080000000002010000000000f9c11b5 := hw.sub rfl
  unfold actWake
  repeat' first
    | with_reducible assumption
    | extract_lets
    | intro _
    | split
    | with_reducible apply State.toC0_keeps w0
    | with_reducible apply State.exitC5_keeps w1
    | with_reducible apply kept_if
    | with_reducible apply kept_foldl

theorem actAlert_keeps (hw : Frees z 0x10) (asserted : Bool) (s : State)  (hk : Kept z s) :
    Kept z (actAlert asserted s) := by
  have w0 : Frees z 0x10 := hw.sub rfl
  unfold actAlert
  repeat' first
    | with_reducible assumption
    | extract_lets
    | intro _
    | split
    | with_reducible apply State.emit_keeps w0
    | with_reducible apply kept_if
    | with_reducible apply kept_foldl

theorem actHoldup_keeps (hw : Frees z 0x0) (x_Sys2ProofMachinePins3530024059_hygCtx_hyg2 : Bool) (s : State)  (hk : Kept z s) :
    Kept z (actHoldup x_Sys2ProofMachinePins3530024059_hygCtx_hyg2 s) := by
  simp (maxDischargeDepth := 30) only [actHoldup, and_self, hk]

theorem actPerst_keeps (hw : Frees z 0x2c08010000000000000000000000000000000d000011) (asserted : Bool) (s : State)  (hk : Kept z s) :
    Kept z (actPerst asserted s) := by
  have w0 : Frees z 0x2c08010000000000000000000000000000000d000011 := hw.sub rfl
  have w1 : Frees z 0x8000000 := hw.sub rfl
  unfold actPerst
  repeat' first
    | with_reducible assumption
    | extract_lets
    | intro _
    | split
    | with_reducible apply State.fundamentalReset_keeps w0
    | with_reducible apply kept_if
    | with_reducible apply kept_foldl
    | with_reducible refine upd_pln w1 (.inl rfl) ?_
    | with_reducible refine upd_pln w1 (.inr rfl) ?_

theorem execGstopN_keeps (hw : Frees z 0x8c00000000000000000000000000000000000c000010) (asserted : Bool) (s : State)  (hk : Kept z s) :
    KeptOut z (execGstopN asserted s) := by
  have w0 : Frees z 0x80000000000000000000000000000000000008000000 := hw.sub rfl
  have w1 : Frees z 0xc00000000000000000000000000000000000c000010 := hw.sub rfl
  unfold execGstopN
  repeat' first
    | with_reducible assumption
    | extract_lets
    | intro _
    | split
    | with_reducible apply State.edge_keeps w0
    | with_reducible apply actGstop_keeps w1
    | with_reducible apply kept_if
    | with_reducible apply kept_foldl
    | with_reducible apply keptOut_of

theorem execPwrLimitN_keeps (hw : Frees z 0x80080100000000000000000000000000000009000010) (asserted : Bool) (s : State)  (hk : Kept z s) :
    KeptOut z (execPwrLimitN asserted s) := by
  have w0 : Frees z 0x80000000000000000000000000000000000008000000 := hw.sub rfl
  have w1 : Frees z 0x80100000000000000000000000000000001000010 := hw.sub rfl
  unfold execPwrLimitN
  repeat' first
    | with_reducible assumption
    | extract_lets
    | intro _
    | split
    | with_reducible apply State.edge_keeps w0
    | with_reducible apply actPwrLimit_keeps w1
    | with_reducible apply kept_if
    | with_reducible apply kept_foldl
    | with_reducible apply keptOut_of

theorem execPfailN_keeps (hw : Frees z 0x8000000000000000040000000000000000050a100030) (asserted : Bool) (s : State)  (hk : Kept z s) :
    KeptOut z (execPfailN asserted s) := by
  have w0 : Frees z 0x80000000000000000000000000000000000008000000 := hw.sub rfl
  have w1 : Frees z 0x40000000000000000050a100030 := hw.sub rfl
  unfold execPfailN
  repeat' first
    | with_reducible assumption
    | extract_lets
    | intro _
    | split
    | with_reducible apply State.edge_keeps w0
    | with_reducible apply actPfail_keeps w1
    | with_reducible apply kept_if
    | with_reducible apply kept_foldl
    | with_reducible apply keptOut_of

theorem execWakeN_keeps (hw : Frees z 0x180ad88000a40000080000000002010000000000f9c11b5) (asserted : Bool) (s : State)  (hk : Kept z s) :
    KeptOut z (execWakeN asserted s) := by
  have w0 : Frees z 0x80000000000000000000000000000000000008000000 := hw.sub rfl
  have w1 : Frees z 0x1802d88000a40000080000000002010000000000f9c11b5 := hw.sub rfl
  unfold execWakeN
  repeat' first
    | with_reducible assumption
    | extract_lets
    | intro _
    | split
    | with_reducible apply State.edge_keeps w0
    | with_reducible apply actWake_keeps w1
    | with_reducible apply kept_if
    | with_reducible apply kept_foldl
    | with_reducible apply keptOut_of

theorem execAlertN_keeps (hw : Frees z 0x80000000000000000000000000000000000008000010) (asserted : Bool) (s : State)  (hk : Kept z s) :
    KeptOut z (execAlertN asserted s) := by
  have w0 : Frees z 0x80000000000000000000000000000000000008000000 := hw.sub rfl
  have w1 : Frees z 0x10 := hw.sub rfl
  unfold execAlertN
  repeat' first
    | with_reducible assumption
    | extract_lets
    | intro _
    | split
    | with_reducible apply State.edge_keeps w0
    | with_reducible apply actAlert_keeps w1
    | with_reducible apply kept_if
    | with_reducible apply kept_foldl
    | with_reducible apply keptOut_of

theorem execHoldupOk_keeps (hw : Frees z 0x80000000000000000000000000000000000008000000) (asserted : Bool) (s : State)  (hk : Kept z s) :
    KeptOut z (execHoldupOk asserted s) := by
  have w0 : Frees z 0x80000000000000000000000000000000000008000000 := hw.sub rfl
  have w1 : Frees z 0x0 := hw.sub rfl
  unfold execHoldupOk
  repeat' first
    | with_reducible assumption
    | extract_lets
    | intro _
    | split
    | with_reducible apply State.edge_keeps w0
    | with_reducible apply actHoldup_keeps w1
    | with_reducible apply kept_if
    | with_reducible apply kept_foldl
    | with_reducible apply keptOut_of

theorem execPerstN_keeps (hw : Frees z 0xac08010000000000000000000000000000000d000011) (asserted : Bool) (s : State)  (hk : Kept z s) :
    KeptOut z (execPerstN asserted s) := by
  have w0 : Frees z 0x80000000000000000000000000000000000008000000 := hw.sub rfl
  have w1 : Frees z 0x2c08010000000000000000000000000000000d000011 := hw.sub rfl
  unfold execPerstN
  repeat' first
    | with_reducible assumption
    | extract_lets
    | intro _
    | split
    | with_reducible apply State.edge_keeps w0
    | with_reducible apply actPerst_keeps w1
    | with_reducible apply kept_if
    | with_reducible apply kept_foldl
    | with_reducible apply keptOut_of

theorem inputAct_keeps (hw : Frees z 0x1802d88010a40000080040000002010000000050f9c11b5) (i : ℕ) (x1 : Bool) (x2 : State)  (hk : Kept z x2) :
    Kept z (inputAct i x1 x2) := by
  have w0 : Frees z 0xc00000000000000000000000000000000000c000010 := hw.sub rfl
  have w1 : Frees z 0x80100000000000000000000000000000001000010 := hw.sub rfl
  have w2 : Frees z 0x40000000000000000050a100030 := hw.sub rfl
  have w3 : Frees z 0x1802d88000a40000080000000002010000000000f9c11b5 := hw.sub rfl
  have w4 : Frees z 0x10 := hw.sub rfl
  have w5 : Frees z 0x2c08010000000000000000000000000000000d000011 := hw.sub rfl
  have w6 : Frees z 0x0 := hw.sub rfl
  unfold inputAct
  repeat' first
    | with_reducible assumption
    | extract_lets
    | intro _
    | split
    | with_reducible apply actGstop_keeps w0
    | with_reducible apply actPwrLimit_keeps w1
    | with_reducible apply actPfail_keeps w2
    | with_reducible apply actWake_keeps w3
    | with_reducible apply actAlert_keeps w4
    | with_reducible apply actPerst_keeps w5
    | with_reducible apply actHoldup_keeps w6
    | with_reducible apply kept_if
    | with_reducible apply kept_foldl

theorem execInputEventWindowEnd_keeps (hw : Frees z 0x180ad88010a40000080040000002010000000050f9c11b5) (i : Fin 8) (s : State)  (hk : Kept z s) :
    KeptOut z (execInputEventWindowEnd i s) := by
  have w0 : Frees z 0x80000000000000000000000000000000000008000000 := hw.sub rfl
  have w1 : Frees z 0x1802d88010a40000080040000002010000000050f9c11b5 := hw.sub rfl
  unfold execInputEventWindowEnd
  repeat' first
    | with_reducible assumption
    | extract_lets
    | intro _
    | split
    | with_reducible apply State.inputEvent_keeps w0
    | with_reducible apply inputAct_keeps w1
    | with_reducible apply kept_if
    | with_reducible apply kept_foldl
    | with_reducible apply keptOut_of

theorem State.declareStuck_keeps (hw : Frees z 0x1808c00000240000000000000002010000000000c9c11b1) (s : State) (i : ℕ)  (hk : Kept z s) :
    Kept z (State.declareStuck s i) := by
  have w0 : Frees z (Field.bit pinInput_masked) := hw.sub rfl
  have w1 : Frees z (Field.bit pinInput_stuck) := hw.sub rfl
  have w2 : Frees z 0x8000010 := hw.sub rfl
  have w3 : Frees z 0x1800c00000240000000000000002010000000000c9c11b1 := hw.sub rfl
  have w4 : Frees z 0x8000000 := hw.sub rfl
  unfold State.declareStuck
  repeat' first
    | with_reducible assumption
    | extract_lets
    | intro _
    | split
    | with_reducible apply State.setFlag_keeps (hw := w0)
    | with_reducible apply State.setFlag_keeps (hw := w1)
    | with_reducible apply State.raiseAlert_keeps w2
    | with_reducible apply State.raise_keeps w3
    | with_reducible apply kept_if
    | with_reducible apply kept_foldl
    | with_reducible refine upd_pln w4 (.inl rfl) ?_
    | with_reducible refine upd_pln w4 (.inr rfl) ?_

theorem execInputStuck_keeps (hw : Frees z 0x1808c00000240000000000000002010000000000c9c11b1) (i : Fin 8) (s : State)  (hk : Kept z s) :
    KeptOut z (execInputStuck i s) := by
  have w0 : Frees z 0x1808c00000240000000000000002010000000000c9c11b1 := hw.sub rfl
  unfold execInputStuck
  repeat' first
    | with_reducible assumption
    | extract_lets
    | intro _
    | split
    | with_reducible apply State.declareStuck_keeps w0
    | with_reducible apply kept_if
    | with_reducible apply kept_foldl
    | with_reducible apply keptOut_of

theorem State.lastCommit_keeps (hw : Frees z 0x4000eb800000000020d08105030) (s : State)  (hk : Kept z s) :
    Kept z (State.lastCommit s) := by
  have w0 : Frees z 0x4000eb800000000020d00105030 := hw.sub rfl
  have w1 : Frees z 0xeb800000000020800005000 := hw.sub rfl
  have w2 : Frees z 0x8000000 := hw.sub rfl
  unfold State.lastCommit
  repeat' first
    | with_reducible assumption
    | extract_lets
    | intro _
    | split
    | with_reducible apply State.makeCommit_keeps w0
    | with_reducible apply State.failFetch_keeps w0
    | with_reducible apply State.abandonMove_keeps w1
    | with_reducible apply kept_if
    | with_reducible apply kept_foldl
    | with_reducible refine upd_pln w2 (.inl rfl) ?_
    | with_reducible refine upd_pln w2 (.inr rfl) ?_

end Sys2Proof.Machine
end

