-- ==== Sys2Proof/Laws/KeepsDebug.lean ====
section
/-! SUPPORT. Every operation of Machine/Debug.lean keeps the queue, the canonical forms and every piece that it does not touch. -/

set_option Elab.async false
set_option linter.unusedSimpArgs false
set_option linter.unusedTactic false
set_option linter.unreachableTactic false

namespace Sys2Proof.Machine

variable {z : Ref}

theorem effTraceConfig_keeps (hw : Frees z 0x4080000000000000400000000000000000505100030) (d : Pend) (s : State)  (hk : Kept z s) :
    Kept z (effTraceConfig d s) := by
  have w0 : Frees z 0x400000000000000000500100030 := hw.sub rfl
  have w1 : Frees z 0x4080000000000000000000000000000000005000000 := hw.sub rfl
  unfold effTraceConfig
  repeat' first
    | with_reducible assumption
    | extract_lets
    | intro _
    | split
    | with_reducible apply State.finish_keeps w0
    | with_reducible apply State.configTrace_keeps w1
    | with_reducible apply kept_if
    | with_reducible apply kept_foldl

theorem execTraceConfig_keeps (hw : Frees z 0x4080000000000000400000000000000000505100030) (c : Cmd) (s : State)  (hk : Kept z s) :
    KeptOut z (execTraceConfig c s) := by
  have w0 : Frees z 0x80000000000000400000000000000000501100030 := hw.sub rfl
  have w1 : Frees z 0x4080000000000000400000000000000000505100030 := hw.sub rfl
  unfold execTraceConfig
  repeat' first
    | with_reducible assumption
    | extract_lets
    | intro _
    | split
    | with_reducible apply State.plain_keeps w0
    | with_reducible apply effTraceConfig_keeps w1
    | with_reducible apply kept_if
    | with_reducible apply kept_foldl
    | with_reducible apply keptOut_of

theorem effTraceTrigger_keeps (hw : Frees z 0x4000000000000000400000000000000000504100030) (d : Pend) (s : State)  (hk : Kept z s) :
    Kept z (effTraceTrigger d s) := by
  have w0 : Frees z 0x400000000000000000500100030 := hw.sub rfl
  have w1 : Frees z 0x4000000000000000000000000000000000004000000 := hw.sub rfl
  unfold effTraceTrigger
  repeat' first
    | with_reducible assumption
    | extract_lets
    | intro _
    | split
    | with_reducible apply State.finish_keeps w0
    | with_reducible apply State.fireTrigger_keeps w1
    | with_reducible apply kept_if
    | with_reducible apply kept_foldl

theorem execTraceTrigger_keeps (hw : Frees z 0x4080000000000000400000000000000000505100030) (c : Cmd) (s : State)  (hk : Kept z s) :
    KeptOut z (execTraceTrigger c s) := by
  have w0 : Frees z 0x80000000000000400000000000000000501100030 := hw.sub rfl
  have w1 : Frees z 0x4000000000000000400000000000000000504100030 := hw.sub rfl
  unfold execTraceTrigger
  repeat' first
    | with_reducible assumption
    | extract_lets
    | intro _
    | split
    | with_reducible apply State.plain_keeps w0
    | with_reducible apply effTraceTrigger_keeps w1
    | with_reducible apply kept_if
    | with_reducible apply kept_foldl
    | with_reducible apply keptOut_of

theorem execTraceRecord_keeps (hw : Frees z 0x4000000000000000000000000000000000004000000) (r : TraceRec) (s : State)  (hk : Kept z s) :
    KeptOut z (execTraceRecord r s) := by
  have w0 : Frees z 0x0 := hw.sub rfl
  have w1 : Frees z 0x4000000000000000000000000000000000004000000 := hw.sub rfl
  unfold execTraceRecord
  repeat' first
    | with_reducible assumption
    | extract_lets
    | intro _
    | split
    | with_reducible apply State.whenLive_keeps w0
    | with_reducible apply State.traceEvent_keeps w1
    | with_reducible apply kept_if
    | with_reducible apply kept_foldl
    | with_reducible apply keptOut_of

theorem execTraceFrame_keeps (hw : Frees z 0x4000000000000000000000000000000000004000010) (s : State)  (hk : Kept z s) :
    KeptOut z (execTraceFrame s) := by
  have w0 : Frees z 0x0 := hw.sub rfl
  have w1 : Frees z 0x4000000000000000000000000000000000004000010 := hw.sub rfl
  unfold execTraceFrame
  repeat' first
    | with_reducible assumption
    | extract_lets
    | intro _
    | split
    | with_reducible apply State.whenLive_keeps w0
    | with_reducible apply State.sendTrace_keeps w1
    | with_reducible apply kept_if
    | with_reducible apply kept_foldl
    | with_reducible apply keptOut_of

theorem State.settleHalt_keeps (hw : Frees z 0x100000000000000004000000000000000005001001b0) (s : State) (p : ℕ)  (hk : Kept z s) :
    Kept z (State.settleHalt s p) := by
  have w0 : Frees z 0x100 := hw.sub rfl
  have w1 : Frees z (Field.bit dbgHalt_drained) := hw.sub rfl
  have w2 : Frees z 0x400000000000000000500100030 := hw.sub rfl
  have w3 : Frees z 0x80 := hw.sub rfl
  unfold State.settleHalt
  repeat' first
    | with_reducible assumption
    | extract_lets
    | intro _
    | split
    | with_reducible apply State.modPart_keeps w0
    | with_reducible apply State.setFlag_keeps (hw := w1)
    | with_reducible apply State.finish_keeps w2
    | with_reducible apply kept_if
    | with_reducible apply kept_foldl
    | with_reducible refine upd_seqs w3 ?_

theorem State.settleHalts_keeps (hw : Frees z 0x100000000000000004000000000000000005001001b0) (s : State)  (hk : Kept z s) :
    Kept z (State.settleHalts s) := by
  have w0 : Frees z 0x100000000000000004000000000000000005001001b0 := hw.sub rfl
  unfold State.settleHalts
  repeat' first
    | with_reducible assumption
    | extract_lets
    | intro _
    | split
    | with_reducible apply State.settleHalt_keeps w0
    | with_reducible apply kept_if
    | with_reducible apply kept_foldl

theorem State.haltPart_keeps (hw : Frees z 0x100000000000000004000000000000000005001001b0) (s : State) (p : ℕ)  (hk : Kept z s) :
    Kept z (State.haltPart s p) := by
  have w0 : Frees z 0x100000000000000004000000000000000005001001b0 := hw.sub rfl
  have w1 : Frees z (Field.bit dbgHalt_halted) := hw.sub rfl
  have w2 : Frees z 0x100 := hw.sub rfl
  simp (maxDischargeDepth := 30) only [State.haltPart, State.settleHalt_keeps w0, (State.setFlag_keeps (hw := w1)), State.modPart_keeps w2, and_self, hk]

theorem effDebugHalt_keeps (hw : Frees z 0x100000000000000004000000000000000005001001b0) (d : Pend) (s : State)  (hk : Kept z s) :
    Kept z (effDebugHalt d s) := by
  have w0 : Frees z 0x400000000000000000500100030 := hw.sub rfl
  have w1 : Frees z 0x100000000000000004000000000000000005001001b0 := hw.sub rfl
  have w2 : Frees z 0x20 := hw.sub rfl
  unfold effDebugHalt
  repeat' first
    | with_reducible assumption
    | extract_lets
    | intro _
    | split
    | with_reducible apply State.finish_keeps w0
    | with_reducible apply State.haltPart_keeps w1
    | with_reducible apply State.await_keeps w2
    | with_reducible apply kept_if
    | with_reducible apply kept_foldl

theorem execDebugHalt_keeps (hw : Frees z 0x100800000000000004000000000000000005011001b0) (c : Cmd) (s : State)  (hk : Kept z s) :
    KeptOut z (execDebugHalt c s) := by
  have w0 : Frees z 0x80000000000000400000000000000000501100030 := hw.sub rfl
  have w1 : Frees z 0x100000000000000004000000000000000005001001b0 := hw.sub rfl
  unfold execDebugHalt
  repeat' first
    | with_reducible assumption
    | extract_lets
    | intro _
    | split
    | with_reducible apply State.plain_keeps w0
    | with_reducible apply effDebugHalt_keeps w1
    | with_reducible apply kept_if
    | with_reducible apply kept_foldl
    | with_reducible apply keptOut_of

theorem execBreakpointHit_keeps (hw : Frees z 0x100000000000000004000000000000000005001001b0) (core : Fin 16) (s : State)  (hk : Kept z s) :
    KeptOut z (execBreakpointHit core s) := by
  have w0 : Frees z 0x0 := hw.sub rfl
  have w1 : Frees z 0x100000000000000004000000000000000005001001b0 := hw.sub rfl
  unfold execBreakpointHit
  repeat' first
    | with_reducible assumption
    | extract_lets
    | intro _
    | split
    | with_reducible apply State.whenLive_keeps w0
    | with_reducible apply State.haltPart_keeps w1
    | with_reducible apply kept_if
    | with_reducible apply kept_foldl
    | with_reducible apply keptOut_of

theorem execDbgHaltResume_keeps (hw : Frees z 0x10000000000000000400000000000000000500100130) (fn : Fn) (p : Fin 16) (lane : Lane) (v : BitVec 64) (s : State)  (hk : Kept z s) :
    KeptOut z (execDbgHaltResume fn p lane v s) := by
  have w0 : Frees z 0x0 := hw.sub rfl
  have w1 : Frees z 0x10000000000000000400000000000000000500100130 := hw.sub rfl
  unfold execDbgHaltResume
  repeat' first
    | with_reducible assumption
    | extract_lets
    | intro _
    | split
    | with_reducible apply State.whenKept_keeps w0
    | with_reducible apply State.resumeHalt_keeps w1
    | with_reducible apply kept_if
    | with_reducible apply kept_foldl
    | with_reducible apply keptOut_of

theorem State.debugWakes_keeps (hw : Frees z 0x80000000000000000000000000000000001000000) (s : State) (p : ℕ) (space : ℕ) (o : ℕ) (len : ℕ)  (hk : Kept z s) :
    Kept z (State.debugWakes s p space o len) := by
  have w0 : Frees z 0x80000000000000000000000000000000001000000 := hw.sub rfl
  unfold State.debugWakes
  repeat' first
    | with_reducible assumption
    | extract_lets
    | intro _
    | split
    | with_reducible apply State.arrivesAt_keeps w0
    | with_reducible apply kept_if
    | with_reducible apply kept_foldl

theorem effDebugMemRead_keeps (hw : Frees z 0x80000000000000400000000000000000501100030) (d : Pend) (s : State)  (hk : Kept z s) :
    Kept z (effDebugMemRead d s) := by
  have w0 : Frees z 0x400000000000000000500100030 := hw.sub rfl
  have w1 : Frees z 0x80000000000000000000000000000000001000000 := hw.sub rfl
  have w2 : Frees z 0x400000000000000000000100010 := hw.sub rfl
  unfold effDebugMemRead
  repeat' first
    | with_reducible refine keptOpt_map ?_
    | with_reducible assumption
    | extract_lets
    | intro _
    | split
    | with_reducible apply State.finish_keeps w0
    | with_reducible apply State.debugWakes_keeps w1
    | with_reducible apply State.putBuffer_keeps w2
    | with_reducible apply kept_if
    | with_reducible apply kept_foldl

theorem execDebugMemRead_keeps (hw : Frees z 0x80000000000000400000000000000000501100030) (c : Cmd) (s : State)  (hk : Kept z s) :
    KeptOut z (execDebugMemRead c s) := by
  have w0 : Frees z 0x80000000000000400000000000000000501100030 := hw.sub rfl
  unfold execDebugMemRead
  repeat' first
    | with_reducible assumption
    | extract_lets
    | intro _
    | split
    | with_reducible apply State.plain_keeps w0
    | with_reducible apply effDebugMemRead_keeps w0
    | with_reducible apply kept_if
    | with_reducible apply kept_foldl
    | with_reducible apply keptOut_of

theorem execDbgGstopAssert_keeps (hw : Frees z 0xc00000000000000000000000000000000000c000010) (fn : Fn) (lane : Lane) (v : BitVec 64) (s : State)  (hk : Kept z s) :
    KeptOut z (execDbgGstopAssert fn lane v s) := by
  have w0 : Frees z (Reg.bit .dbgGstop) := hw.sub rfl
  have w1 : Frees z 0x0 := hw.sub rfl
  have w2 : Frees z 0xc00000000000000000000000000000000000c000010 := hw.sub rfl
  unfold execDbgGstopAssert
  repeat' first
    | with_reducible assumption
    | extract_lets
    | intro _
    | split
    | with_reducible apply State.writeFields_keeps (hw := w0)
    | with_reducible apply State.whenKept_keeps w1
    | with_reducible apply State.globalStop_keeps w2
    | with_reducible apply kept_if
    | with_reducible apply kept_foldl
    | with_reducible apply keptOut_of

theorem execJtagGstop_keeps (hw : Frees z 0xc00000000000000000000000000000000000c000010) (s : State)  (hk : Kept z s) :
    KeptOut z (execJtagGstop s) := by
  have w0 : Frees z 0xc00000000000000000000000000000000000c000010 := hw.sub rfl
  unfold execJtagGstop
  repeat' first
    | with_reducible assumption
    | extract_lets
    | intro _
    | split
    | with_reducible apply State.globalStop_keeps w0
    | with_reducible apply kept_if
    | with_reducible apply kept_foldl
    | with_reducible apply keptOut_of

theorem State.scanDomain_keeps (hw : Frees z 0x10) (s : State) (chains : List (ℕ × BitVec 32 × BitVec 32)) (d : ℕ)  (hk : Kept z s) :
    Kept z (State.scanDomain s chains d) := by
  have w0 : Frees z 0x10 := hw.sub rfl
  unfold State.scanDomain
  repeat' first
    | with_reducible refine keptOpt_map ?_
    | with_reducible assumption
    | extract_lets
    | intro _
    | split
    | with_reducible apply State.emit_keeps w0
    | with_reducible refine KeptOpt.getD ?_ ?_
    | with_reducible apply kept_if
    | with_reducible apply kept_foldl

theorem State.plaster_keeps (hw : Frees z 0x1800c10000240000000000000002010000000000e9c11b1) (s : State) (chains : List (ℕ × BitVec 32 × BitVec 32))  (hk : Kept z s) :
    Kept z (State.plaster s chains) := by
  have w0 : Frees z 0x1800c00000240000000000000002010000000000c9c11b1 := hw.sub rfl
  have w1 : Frees z (Field.bit secBoot_keysLost) := hw.sub rfl
  have w2 : Frees z (Field.bit dbgGstop_suppressed) := hw.sub rfl
  have w3 : Frees z 0x2100000 := hw.sub rfl
  have w4 : Frees z 0x10 := hw.sub rfl
  unfold State.plaster
  repeat' first
    | with_reducible assumption
    | extract_lets
    | intro _
    | split
    | with_reducible apply State.raise_keeps w0
    | with_reducible apply State.setFlag_keeps (hw := w1)
    | with_reducible apply State.setFlag_keeps (hw := w2)
    | with_reducible apply State.zeroise_keeps w3
    | with_reducible apply State.scanDomain_keeps w4
    | with_reducible apply kept_if
    | with_reducible apply kept_foldl
    | dsimp +zetaDelta only

theorem execPlaster_keeps (hw : Frees z 0x1800c10000240000000000000002010000000000e9c11b1) (jtag : Bool) (chains : List (ℕ × BitVec 32 × BitVec 32)) (s : State)  (hk : Kept z s) :
    KeptOut z (execPlaster jtag chains s) := by
  have w0 : Frees z 0x1800c10000240000000000000002010000000000e9c11b1 := hw.sub rfl
  unfold execPlaster
  repeat' first
    | with_reducible assumption
    | extract_lets
    | intro _
    | split
    | with_reducible apply State.plaster_keeps w0
    | with_reducible apply kept_if
    | with_reducible apply kept_foldl
    | with_reducible apply keptOut_of

theorem execJtagBoundaryTakeover_keeps (hw : Frees z 0x1800c00000240000000000000002010000000000c9c11b1) (s : State)  (hk : Kept z s) :
    KeptOut z (execJtagBoundaryTakeover s) := by
  have w0 : Frees z 0x1800c00000240000000000000002010000000000c9c11b1 := hw.sub rfl
  have w1 : Frees z 0x8000000 := hw.sub rfl
  unfold execJtagBoundaryTakeover
  repeat' first
    | with_reducible assumption
    | extract_lets
    | intro _
    | split
    | with_reducible apply State.raise_keeps w0
    | with_reducible apply kept_if
    | with_reducible apply kept_foldl
    | with_reducible refine upd_pln w1 (.inl rfl) ?_
    | with_reducible refine upd_pln w1 (.inr rfl) ?_
    | with_reducible apply keptOut_of

theorem execJtagBoundaryRelease_keeps (hw : Frees z 0x8000001) (s : State)  (hk : Kept z s) :
    KeptOut z (execJtagBoundaryRelease s) := by
  have w0 : Frees z 0x1 := hw.sub rfl
  have w1 : Frees z 0x8000000 := hw.sub rfl
  unfold execJtagBoundaryRelease
  repeat' first
    | with_reducible assumption
    | extract_lets
    | intro _
    | split
    | with_reducible apply State.reboot_keeps w0
    | with_reducible apply kept_if
    | with_reducible apply kept_foldl
    | with_reducible refine upd_pln w1 (.inl rfl) ?_
    | with_reducible refine upd_pln w1 (.inr rfl) ?_
    | with_reducible apply keptOut_of

end Sys2Proof.Machine
end

