-- ==== Sys2Proof/Laws/KeepsSpdm.lean ====
section
/-! SUPPORT. Every operation of Machine/Spdm.lean keeps the queue, the canonical forms and every piece that it does not touch. -/

set_option Elab.async false
set_option linter.unusedSimpArgs false
set_option linter.unusedTactic false
set_option linter.unreachableTactic false

namespace Sys2Proof.Machine

variable {z : Ref}

theorem State.spdmError_keeps (hw : Frees z 0x10) (s : State) (e : ℕ)  (hk : Kept z s) :
    Kept z (State.spdmError s e) := by
  have w0 : Frees z 0x10 := hw.sub rfl
  simp (maxDischargeDepth := 30) only [State.spdmError, State.emit_keeps w0, and_self, hk]

theorem State.modSpdm_keeps (hw : Frees z 0x2000000) (s : State) (f : Spdm → Spdm)  (hk : Kept z s) :
    Kept z (State.modSpdm s f) := by
  have w0 : Frees z 0x2000000 := hw.sub rfl
  simp (maxDischargeDepth := 30) only [State.modSpdm, upd_sec w0, and_self, hk]

theorem State.spdmAnswer_keeps (hw : Frees z 0x2000010) (s : State) (code : ℕ) (content : List (BitVec 8))  (hk : Kept z s) :
    Kept z (State.spdmAnswer s code content) := by
  have w0 : Frees z 0x2000000 := hw.sub rfl
  have w1 : Frees z 0x10 := hw.sub rfl
  unfold State.spdmAnswer
  repeat' first
    | with_reducible assumption
    | extract_lets
    | intro _
    | split
    | with_reducible apply State.modSpdm_keeps w0
    | with_reducible apply State.spdmError_keeps w1
    | with_reducible apply State.emit_keeps w1
    | with_reducible apply kept_if
    | with_reducible apply kept_foldl

theorem State.spdmSigned_keeps (hw : Frees z 0x2000010) (s : State) (code : ℕ) (content : List (BitVec 8))  (hk : Kept z s) :
    Kept z (State.spdmSigned s code content) := by
  have w0 : Frees z 0x2000010 := hw.sub rfl
  have w1 : Frees z 0x10 := hw.sub rfl
  unfold State.spdmSigned
  repeat' first
    | with_reducible assumption
    | extract_lets
    | intro _
    | split
    | with_reducible apply State.spdmAnswer_keeps w0
    | with_reducible apply State.spdmError_keeps w1
    | with_reducible apply kept_if
    | with_reducible apply kept_foldl

theorem State.mailbox_keeps (hw : Frees z 0x0) (s : State) (f : State → State)  (hk : Kept z s) (hk_f : ∀ y0, Kept z y0 → Kept z (f y0)) :
    Kept z (State.mailbox s f) := by
  unfold State.mailbox
  (repeat' split) <;> simp (maxDischargeDepth := 30) only [and_self, *]

theorem State.afterNegotiate_keeps (hw : Frees z 0x10) (s : State) (phase : ℕ) (f : State → State)  (hk : Kept z s) (hk_f : ∀ y0, Kept z y0 → Kept z (f y0)) :
    Kept z (State.afterNegotiate s phase f) := by
  have w0 : Frees z 0x0 := hw.sub rfl
  have w1 : Frees z 0x10 := hw.sub rfl
  unfold State.afterNegotiate
  repeat' first
    | with_reducible assumption
    | extract_lets
    | intro _
    | split
    | with_reducible apply State.mailbox_keeps w0
    | with_reducible apply State.spdmError_keeps w1
    | with_reducible apply hk_f
    | with_reducible apply kept_if
    | with_reducible apply kept_foldl

theorem State.withAlias_keeps (hw : Frees z 0x10) (s : State) (f : State → State)  (hk : Kept z s) (hk_f : ∀ y0, Kept z y0 → Kept z (f y0)) :
    Kept z (State.withAlias s f) := by
  have w0 : Frees z 0x10 := hw.sub rfl
  unfold State.withAlias
  (repeat' split) <;> simp (maxDischargeDepth := 30) only [State.spdmError_keeps w0, and_self, *]

theorem execGetVersion_keeps (hw : Frees z 0x2000010) (s : State)  (hk : Kept z s) :
    KeptOut z (execGetVersion s) := by
  have w0 : Frees z 0x0 := hw.sub rfl
  have w1 : Frees z 0x2000010 := hw.sub rfl
  have w2 : Frees z 0x2000000 := hw.sub rfl
  unfold execGetVersion
  repeat' first
    | with_reducible assumption
    | extract_lets
    | intro _
    | split
    | with_reducible apply State.mailbox_keeps w0
    | with_reducible apply State.spdmAnswer_keeps w1
    | with_reducible apply State.modSpdm_keeps w2
    | with_reducible apply kept_if
    | with_reducible apply kept_foldl
    | with_reducible apply keptOut_of

theorem execGetCapabilities_keeps (hw : Frees z 0x2000010) (s : State)  (hk : Kept z s) :
    KeptOut z (execGetCapabilities s) := by
  have w0 : Frees z 0x0 := hw.sub rfl
  have w1 : Frees z 0x10 := hw.sub rfl
  have w2 : Frees z 0x2000010 := hw.sub rfl
  have w3 : Frees z 0x2000000 := hw.sub rfl
  unfold execGetCapabilities
  repeat' first
    | with_reducible assumption
    | extract_lets
    | intro _
    | split
    | with_reducible apply State.mailbox_keeps w0
    | with_reducible apply State.spdmError_keeps w1
    | with_reducible apply State.spdmAnswer_keeps w2
    | with_reducible apply State.modSpdm_keeps w3
    | with_reducible apply kept_if
    | with_reducible apply kept_foldl
    | with_reducible apply keptOut_of

theorem execNegotiateAlgorithms_keeps (hw : Frees z 0x2000010) (offer : SpdmOffer) (s : State)  (hk : Kept z s) :
    KeptOut z (execNegotiateAlgorithms offer s) := by
  have w0 : Frees z 0x0 := hw.sub rfl
  have w1 : Frees z 0x10 := hw.sub rfl
  have w2 : Frees z 0x2000010 := hw.sub rfl
  have w3 : Frees z 0x2000000 := hw.sub rfl
  unfold execNegotiateAlgorithms
  repeat' first
    | with_reducible assumption
    | extract_lets
    | intro _
    | split
    | with_reducible apply State.mailbox_keeps w0
    | with_reducible apply State.spdmError_keeps w1
    | with_reducible apply State.spdmAnswer_keeps w2
    | with_reducible apply State.modSpdm_keeps w3
    | with_reducible apply kept_if
    | with_reducible apply kept_foldl
    | with_reducible apply keptOut_of

theorem execGetDigests_keeps (hw : Frees z 0x2000010) (s : State)  (hk : Kept z s) :
    KeptOut z (execGetDigests s) := by
  have w0 : Frees z 0x10 := hw.sub rfl
  have w1 : Frees z 0x2000010 := hw.sub rfl
  unfold execGetDigests
  repeat' first
    | with_reducible assumption
    | extract_lets
    | intro _
    | split
    | with_reducible apply State.afterNegotiate_keeps w0
    | with_reducible apply State.spdmAnswer_keeps w1
    | with_reducible apply State.spdmError_keeps w0
    | with_reducible apply kept_if
    | with_reducible apply kept_foldl
    | with_reducible apply keptOut_of

theorem execGetCertificate_keeps (hw : Frees z 0x2000010) (slot : BitVec 8) (off : BitVec 16) (len : BitVec 16) (s : State)  (hk : Kept z s) :
    KeptOut z (execGetCertificate slot off len s) := by
  have w0 : Frees z 0x10 := hw.sub rfl
  have w1 : Frees z 0x2000010 := hw.sub rfl
  unfold execGetCertificate
  repeat' first
    | with_reducible assumption
    | extract_lets
    | intro _
    | split
    | with_reducible apply State.afterNegotiate_keeps w0
    | with_reducible apply State.spdmError_keeps w0
    | with_reducible apply State.spdmAnswer_keeps w1
    | with_reducible apply kept_if
    | with_reducible apply kept_foldl
    | with_reducible apply keptOut_of

theorem execChallenge_keeps (hw : Frees z 0x2000014) (nonce : BitVec 256) (s : State)  (hk : Kept z s) :
    KeptOut z (execChallenge nonce s) := by
  have w0 : Frees z 0x10 := hw.sub rfl
  have w1 : Frees z 0x2000010 := hw.sub rfl
  have w2 : Frees z 0x4 := hw.sub rfl
  unfold execChallenge
  repeat' first
    | with_reducible assumption
    | extract_lets
    | intro _
    | split
    | with_reducible apply State.afterNegotiate_keeps w0
    | with_reducible apply State.withAlias_keeps w0
    | with_reducible apply State.spdmSigned_keeps w1
    | with_reducible apply kept_if
    | with_reducible apply kept_foldl
    | with_reducible refine upd_freeCtr w2 ?_
    | dsimp +zetaDelta only
    | with_reducible apply keptOut_of

theorem execGetMeasurements_keeps (hw : Frees z 0x2000010) (index : BitVec 8) (signed : Bool) (s : State)  (hk : Kept z s) :
    KeptOut z (execGetMeasurements index signed s) := by
  have w0 : Frees z 0x10 := hw.sub rfl
  have w1 : Frees z 0x2000010 := hw.sub rfl
  unfold execGetMeasurements
  repeat' first
    | with_reducible assumption
    | extract_lets
    | intro _
    | split
    | with_reducible apply State.afterNegotiate_keeps w0
    | with_reducible apply State.spdmError_keeps w0
    | with_reducible apply State.withAlias_keeps w0
    | with_reducible apply State.spdmSigned_keeps w1
    | with_reducible apply State.spdmAnswer_keeps w1
    | with_reducible apply kept_if
    | with_reducible apply kept_foldl
    | with_reducible apply keptOut_of

theorem execKeyExchange_keeps (hw : Frees z 0x2000014) (key : List (BitVec 8)) (s : State)  (hk : Kept z s) :
    KeptOut z (execKeyExchange key s) := by
  have w0 : Frees z 0x10 := hw.sub rfl
  have w1 : Frees z 0x2000010 := hw.sub rfl
  have w2 : Frees z 0x2000000 := hw.sub rfl
  have w3 : Frees z 0x4 := hw.sub rfl
  unfold execKeyExchange
  repeat' first
    | with_reducible assumption
    | extract_lets
    | intro _
    | split
    | with_reducible apply State.afterNegotiate_keeps w0
    | with_reducible apply State.withAlias_keeps w0
    | with_reducible apply State.spdmSigned_keeps w1
    | with_reducible apply State.modSpdm_keeps w2
    | with_reducible apply kept_if
    | with_reducible apply kept_foldl
    | with_reducible refine upd_freeCtr w3 ?_
    | with_reducible apply keptOut_of

theorem execFinish_keeps (hw : Frees z 0x2000010) (verifyOk : Bool) (s : State)  (hk : Kept z s) :
    KeptOut z (execFinish verifyOk s) := by
  have w0 : Frees z 0x10 := hw.sub rfl
  have w1 : Frees z 0x2000010 := hw.sub rfl
  have w2 : Frees z 0x2000000 := hw.sub rfl
  unfold execFinish
  repeat' first
    | with_reducible assumption
    | extract_lets
    | intro _
    | split
    | with_reducible apply State.afterNegotiate_keeps w0
    | with_reducible apply State.spdmError_keeps w0
    | with_reducible apply State.spdmAnswer_keeps w1
    | with_reducible apply State.modSpdm_keeps w2
    | with_reducible apply kept_if
    | with_reducible apply kept_foldl
    | with_reducible apply keptOut_of

theorem execSpdmHeartbeat_keeps (hw : Frees z 0x2000010) (s : State)  (hk : Kept z s) :
    KeptOut z (execSpdmHeartbeat s) := by
  have w0 : Frees z 0x10 := hw.sub rfl
  have w1 : Frees z 0x2000010 := hw.sub rfl
  unfold execSpdmHeartbeat
  repeat' first
    | with_reducible assumption
    | extract_lets
    | intro _
    | split
    | with_reducible apply State.afterNegotiate_keeps w0
    | with_reducible apply State.spdmAnswer_keeps w1
    | with_reducible apply kept_if
    | with_reducible apply kept_foldl
    | with_reducible apply keptOut_of

theorem execKeyUpdate_keeps (hw : Frees z 0x2000010) (op : BitVec 8) (s : State)  (hk : Kept z s) :
    KeptOut z (execKeyUpdate op s) := by
  have w0 : Frees z 0x10 := hw.sub rfl
  have w1 : Frees z 0x2000010 := hw.sub rfl
  unfold execKeyUpdate
  repeat' first
    | with_reducible assumption
    | extract_lets
    | intro _
    | split
    | with_reducible apply State.afterNegotiate_keeps w0
    | with_reducible apply State.spdmAnswer_keeps w1
    | with_reducible apply State.spdmError_keeps w0
    | with_reducible apply kept_if
    | with_reducible apply kept_foldl
    | with_reducible apply keptOut_of

theorem execEndSession_keeps (hw : Frees z 0x2000010) (s : State)  (hk : Kept z s) :
    KeptOut z (execEndSession s) := by
  have w0 : Frees z 0x10 := hw.sub rfl
  have w1 : Frees z 0x2000000 := hw.sub rfl
  have w2 : Frees z 0x2000010 := hw.sub rfl
  unfold execEndSession
  repeat' first
    | with_reducible assumption
    | extract_lets
    | intro _
    | split
    | with_reducible apply State.afterNegotiate_keeps w0
    | with_reducible apply State.modSpdm_keeps w1
    | with_reducible apply State.spdmAnswer_keeps w2
    | with_reducible apply kept_if
    | with_reducible apply kept_foldl
    | with_reducible apply keptOut_of

theorem execChunkGet_keeps (hw : Frees z 0x2000010) (chunk : BitVec 16) (s : State)  (hk : Kept z s) :
    KeptOut z (execChunkGet chunk s) := by
  have w0 : Frees z 0x10 := hw.sub rfl
  have w1 : Frees z 0x2000000 := hw.sub rfl
  unfold execChunkGet
  repeat' first
    | with_reducible assumption
    | extract_lets
    | intro _
    | split
    | with_reducible apply State.afterNegotiate_keeps w0
    | with_reducible apply State.spdmError_keeps w0
    | with_reducible apply State.emit_keeps w0
    | with_reducible apply State.modSpdm_keeps w1
    | with_reducible apply kept_if
    | with_reducible apply kept_foldl
    | with_reducible apply keptOut_of

theorem execSpdmUnsupportedRequest_keeps (hw : Frees z 0x10) (code : BitVec 8) (s : State)  (hk : Kept z s) :
    KeptOut z (execSpdmUnsupportedRequest code s) := by
  have w0 : Frees z 0x0 := hw.sub rfl
  have w1 : Frees z 0x10 := hw.sub rfl
  unfold execSpdmUnsupportedRequest
  repeat' first
    | with_reducible assumption
    | extract_lets
    | intro _
    | split
    | with_reducible apply State.mailbox_keeps w0
    | with_reducible apply State.emit_keeps w1
    | with_reducible apply kept_if
    | with_reducible apply kept_foldl
    | with_reducible apply keptOut_of

theorem State.installKey_keeps (hw : Frees z 0x1800c084002440000023c840eb9b0730000420d9d9df7f1) (s : State) (node : ℕ) (g : ℕ) (key : BitVec 256)  (hk : Kept z s) :
    Kept z (State.installKey s node g key) := by
  have w0 : Frees z 0x1800c084002440000023c840eb9b0730000420d9d9df7f1 := hw.sub rfl
  have w1 : Frees z 0x100000 := hw.sub rfl
  unfold State.installKey
  repeat' first
    | with_reducible refine keptOpt_map ?_
    | with_reducible assumption
    | extract_lets
    | intro _
    | split
    | with_reducible apply State.killConn_keeps w0
    | with_reducible apply kept_if
    | with_reducible apply kept_foldl
    | with_reducible refine upd_asf w1 ?_

theorem execSetNodeKey_keeps (hw : Frees z 0x1800c084002440000023c840eb9b0730000420d9f9df7f1) (inSession : Bool) (opcode : BitVec 8) (node : BitVec 16) (gen : BitVec 8) (key : BitVec 256) (s : State)  (hk : Kept z s) :
    KeptOut z (execSetNodeKey inSession opcode node gen key s) := by
  have w0 : Frees z 0x0 := hw.sub rfl
  have w1 : Frees z 0x10 := hw.sub rfl
  have w2 : Frees z 0x1800c00000240000000000000002010000000000c9c11b1 := hw.sub rfl
  have w3 : Frees z 0x2000010 := hw.sub rfl
  have w4 : Frees z 0x1800c084002440000023c840eb9b0730000420d9d9df7f1 := hw.sub rfl
  unfold execSetNodeKey
  repeat' first
    | with_reducible assumption
    | extract_lets
    | intro _
    | split
    | with_reducible apply State.mailbox_keeps w0
    | with_reducible apply State.spdmError_keeps w1
    | with_reducible apply State.raise_keeps w2
    | with_reducible apply State.spdmAnswer_keeps w3
    | with_reducible apply State.installKey_keeps w4
    | with_reducible apply kept_if
    | with_reducible apply kept_foldl
    | with_reducible apply keptOut_of

theorem execIdeKmRequest_keeps (hw : Frees z 0x2000010) (inSession : Bool) (stream : Fin 9) (action : IdeAction) (s : State)  (hk : Kept z s) :
    KeptOut z (execIdeKmRequest inSession stream action s) := by
  have w0 : Frees z 0x0 := hw.sub rfl
  have w1 : Frees z 0x10 := hw.sub rfl
  have w2 : Frees z 0x2000010 := hw.sub rfl
  have w3 : Frees z 0x2000000 := hw.sub rfl
  unfold execIdeKmRequest
  repeat' first
    | with_reducible assumption
    | extract_lets
    | intro _
    | split
    | with_reducible apply State.mailbox_keeps w0
    | with_reducible apply State.spdmError_keeps w1
    | with_reducible apply State.spdmAnswer_keeps w2
    | with_reducible apply kept_if
    | with_reducible apply kept_foldl
    | with_reducible refine upd_sec w3 ?_
    | with_reducible apply keptOut_of

end Sys2Proof.Machine
end

