-- ==== Sys2Proof/Laws/KeepsSmbus.lean ====
section
/-! SUPPORT. Every operation of Machine/Smbus.lean keeps the queue, the canonical forms and every piece that it does not touch. -/

set_option Elab.async false
set_option linter.unusedSimpArgs false
set_option linter.unusedTactic false
set_option linter.unreachableTactic false

namespace Sys2Proof.Machine

variable {z : Ref}

theorem State.smbusTo_keeps (hw : Frees z 0x0) (s : State) (f : State → State)  (hk : Kept z s) (hk_f : ∀ y0, Kept z y0 → Kept z (f y0)) :
    Kept z (State.smbusTo s f) := by
  unfold State.smbusTo
  (repeat' split) <;> simp (maxDischargeDepth := 30) only [and_self, *]

theorem State.smbusWrite_keeps (hw : Frees z 0x10) (s : State) (ok : Bool) (f : State → State)  (hk : Kept z s) (hk_f : ∀ y0, Kept z y0 → Kept z (f y0)) :
    Kept z (State.smbusWrite s ok f) := by
  have w0 : Frees z 0x0 := hw.sub rfl
  have w1 : Frees z 0x10 := hw.sub rfl
  unfold State.smbusWrite
  repeat' first
    | with_reducible assumption
    | extract_lets
    | intro _
    | split
    | with_reducible apply State.smbusTo_keeps w0
    | with_reducible apply State.emit_keeps w1
    | with_reducible apply hk_f
    | with_reducible apply kept_if
    | with_reducible apply kept_foldl

theorem execStatus_keeps (hw : Frees z 0x8000010) (s : State)  (hk : Kept z s) :
    KeptOut z (execStatus s) := by
  have w0 : Frees z 0x0 := hw.sub rfl
  have w1 : Frees z 0x10 := hw.sub rfl
  have w2 : Frees z 0x8000000 := hw.sub rfl
  unfold execStatus
  repeat' first
    | with_reducible assumption
    | extract_lets
    | intro _
    | split
    | with_reducible apply State.smbusTo_keeps w0
    | with_reducible apply State.emit_keeps w1
    | with_reducible apply kept_if
    | with_reducible apply kept_foldl
    | with_reducible refine upd_pln w2 (.inl rfl) ?_
    | with_reducible refine upd_pln w2 (.inr rfl) ?_
    | with_reducible apply keptOut_of

theorem execTemps_keeps (hw : Frees z 0x10) (s : State)  (hk : Kept z s) :
    KeptOut z (execTemps s) := by
  have w0 : Frees z 0x0 := hw.sub rfl
  have w1 : Frees z 0x10 := hw.sub rfl
  unfold execTemps
  repeat' first
    | with_reducible assumption
    | extract_lets
    | intro _
    | split
    | with_reducible apply State.smbusTo_keeps w0
    | with_reducible apply State.emit_keeps w1
    | with_reducible apply kept_if
    | with_reducible apply kept_foldl
    | with_reducible apply keptOut_of

theorem execPower_keeps (hw : Frees z 0x10) (s : State)  (hk : Kept z s) :
    KeptOut z (execPower s) := by
  have w0 : Frees z 0x0 := hw.sub rfl
  have w1 : Frees z 0x10 := hw.sub rfl
  unfold execPower
  repeat' first
    | with_reducible assumption
    | extract_lets
    | intro _
    | split
    | with_reducible apply State.smbusTo_keeps w0
    | with_reducible apply State.emit_keeps w1
    | with_reducible apply kept_if
    | with_reducible apply kept_foldl
    | with_reducible apply keptOut_of

theorem execInputs_keeps (hw : Frees z 0x10) (s : State)  (hk : Kept z s) :
    KeptOut z (execInputs s) := by
  have w0 : Frees z 0x0 := hw.sub rfl
  have w1 : Frees z 0x10 := hw.sub rfl
  unfold execInputs
  repeat' first
    | with_reducible refine keptOpt_map ?_
    | with_reducible assumption
    | extract_lets
    | intro _
    | split
    | with_reducible apply State.smbusTo_keeps w0
    | with_reducible apply State.emit_keeps w1
    | with_reducible apply kept_if
    | with_reducible apply kept_foldl
    | with_reducible apply keptOut_of

theorem execRecord_keeps (hw : Frees z 0x800010) (s : State)  (hk : Kept z s) :
    KeptOut z (execRecord s) := by
  have w0 : Frees z 0x0 := hw.sub rfl
  have w1 : Frees z 0x10 := hw.sub rfl
  have w2 : Frees z 0x800000 := hw.sub rfl
  unfold execRecord
  repeat' first
    | with_reducible assumption
    | extract_lets
    | intro _
    | split
    | with_reducible apply State.smbusTo_keeps w0
    | with_reducible apply State.emit_keeps w1
    | with_reducible apply kept_if
    | with_reducible apply kept_foldl
    | with_reducible refine upd_res w2 ?_
    | with_reducible apply keptOut_of

theorem execBoardCap_keeps (hw : Frees z 0x10000000000000000000000000000000000010) (v : BitVec 16) (pecOk : Bool) (s : State)  (hk : Kept z s) :
    KeptOut z (execBoardCap v pecOk s) := by
  have w0 : Frees z 0x10 := hw.sub rfl
  have w1 : Frees z (Field.bit pwrCap_board) := hw.sub rfl
  have w2 : Frees z 0x10000000000000000000000000000000000000 := hw.sub rfl
  unfold execBoardCap
  repeat' first
    | with_reducible assumption
    | extract_lets
    | intro _
    | split
    | with_reducible apply State.smbusWrite_keeps w0
    | with_reducible apply State.setFld_keeps (hw := w1)
    | with_reducible apply State.noteCap_keeps w2
    | with_reducible apply kept_if
    | with_reducible apply kept_foldl
    | with_reducible apply keptOut_of

theorem execRackBudget_keeps (hw : Frees z 0x400000000000000000000000000000000000010) (v : BitVec 24) (pecOk : Bool) (s : State)  (hk : Kept z s) :
    KeptOut z (execRackBudget v pecOk s) := by
  have w0 : Frees z 0x10 := hw.sub rfl
  have w1 : Frees z (Field.bit pwrRack_budget) := hw.sub rfl
  unfold execRackBudget
  repeat' first
    | with_reducible assumption
    | extract_lets
    | intro _
    | split
    | with_reducible apply State.smbusWrite_keeps w0
    | with_reducible apply State.setFld_keeps (hw := w1)
    | with_reducible apply kept_if
    | with_reducible apply kept_foldl
    | with_reducible apply keptOut_of

theorem execRecovery_keeps (hw : Frees z 0x20000000000000000000000000000000000008000010) (v : BitVec 8) (pecOk : Bool) (s : State)  (hk : Kept z s) :
    KeptOut z (execRecovery v pecOk s) := by
  have w0 : Frees z 0x10 := hw.sub rfl
  have w1 : Frees z (Field.bit plnBoot_recoveryArmed) := hw.sub rfl
  have w2 : Frees z 0x8000010 := hw.sub rfl
  unfold execRecovery
  repeat' first
    | with_reducible assumption
    | extract_lets
    | intro _
    | split
    | with_reducible apply State.smbusWrite_keeps w0
    | with_reducible apply State.setFlag_keeps (hw := w1)
    | with_reducible apply State.raiseAlert_keeps w2
    | with_reducible apply kept_if
    | with_reducible apply kept_foldl
    | with_reducible apply keptOut_of

theorem execPowerOn_keeps (hw : Frees z 0x20000000000000000000000000000000000008000010) (v : BitVec 8) (pecOk : Bool) (s : State)  (hk : Kept z s) :
    KeptOut z (execPowerOn v pecOk s) := by
  have w0 : Frees z 0x10 := hw.sub rfl
  have w1 : Frees z (Field.bit plnBoot_lastReset) := hw.sub rfl
  have w2 : Frees z 0x20000000000000000000000000000000000008000010 := hw.sub rfl
  have w3 : Frees z 0x8000000 := hw.sub rfl
  unfold execPowerOn
  repeat' first
    | with_reducible assumption
    | extract_lets
    | intro _
    | split
    | with_reducible apply State.smbusWrite_keeps w0
    | with_reducible apply State.setFld_keeps (hw := w1)
    | with_reducible apply State.emit_keeps w0
    | with_reducible apply State.beginRails_keeps w2
    | with_reducible apply kept_if
    | with_reducible apply kept_foldl
    | with_reducible refine upd_pln w3 (.inl rfl) ?_
    | with_reducible refine upd_pln w3 (.inr rfl) ?_
    | with_reducible apply keptOut_of

theorem execPowerOff_keeps (hw : Frees z 0x8000131) (v : BitVec 8) (pecOk : Bool) (s : State)  (hk : Kept z s) :
    KeptOut z (execPowerOff v pecOk s) := by
  have w0 : Frees z 0x10 := hw.sub rfl
  have w1 : Frees z 0x8000011 := hw.sub rfl
  have w2 : Frees z 0x120 := hw.sub rfl
  unfold execPowerOff
  repeat' first
    | with_reducible assumption
    | extract_lets
    | intro _
    | split
    | with_reducible apply State.smbusWrite_keeps w0
    | with_reducible apply State.toC6_keeps w1
    | with_reducible apply State.stopPartitions_keeps w2
    | with_reducible apply kept_if
    | with_reducible apply kept_foldl
    | with_reducible apply keptOut_of

theorem execStayOff_keeps (hw : Frees z 0x20000000000000000000000000000000000008000010) (v : BitVec 8) (pecOk : Bool) (s : State)  (hk : Kept z s) :
    KeptOut z (execStayOff v pecOk s) := by
  have w0 : Frees z 0x10 := hw.sub rfl
  have w1 : Frees z (Field.bit plnBoot_stage) := hw.sub rfl
  have w2 : Frees z 0x8000000 := hw.sub rfl
  unfold execStayOff
  repeat' first
    | with_reducible assumption
    | extract_lets
    | intro _
    | split
    | with_reducible apply State.smbusWrite_keeps w0
    | with_reducible apply State.setFld_keeps (hw := w1)
    | with_reducible apply kept_if
    | with_reducible apply kept_foldl
    | with_reducible refine upd_pln w2 (.inl rfl) ?_
    | with_reducible refine upd_pln w2 (.inr rfl) ?_
    | with_reducible apply keptOut_of

theorem execSetAddr_keeps (hw : Frees z 0x8000010) (v : BitVec 8) (pecOk : Bool) (s : State)  (hk : Kept z s) :
    KeptOut z (execSetAddr v pecOk s) := by
  have w0 : Frees z 0x10 := hw.sub rfl
  have w1 : Frees z 0x8000000 := hw.sub rfl
  unfold execSetAddr
  repeat' first
    | with_reducible assumption
    | extract_lets
    | intro _
    | split
    | with_reducible apply State.smbusWrite_keeps w0
    | with_reducible apply kept_if
    | with_reducible apply kept_foldl
    | with_reducible refine upd_pln w1 (.inl rfl) ?_
    | with_reducible refine upd_pln w1 (.inr rfl) ?_
    | with_reducible apply keptOut_of

theorem execAlertResponseAddress_keeps (hw : Frees z 0x10) (s : State)  (hk : Kept z s) :
    KeptOut z (execAlertResponseAddress s) := by
  have w0 : Frees z 0x0 := hw.sub rfl
  have w1 : Frees z 0x10 := hw.sub rfl
  unfold execAlertResponseAddress
  repeat' first
    | with_reducible assumption
    | extract_lets
    | intro _
    | split
    | with_reducible apply State.smbusTo_keeps w0
    | with_reducible apply State.emit_keeps w1
    | with_reducible apply kept_if
    | with_reducible apply kept_foldl
    | with_reducible apply keptOut_of

end Sys2Proof.Machine
end

