-- ==== Sys2Proof/Laws/KeepsHostRead.lean ====
section
/-! SUPPORT. Every operation of Machine/HostRead.lean keeps the queue, the canonical forms and every piece that it does not touch. -/

set_option Elab.async false
set_option linter.unusedSimpArgs false
set_option linter.unusedTactic false
set_option linter.unreachableTactic false

namespace Sys2Proof.Machine

variable {z : Ref}

theorem State.hostData_keeps (hw : Frees z 0x1800c080002400000022c800eb830730000620d9d9df1f1) (s : State) (c : ℕ) (data : Option (List (BitVec 8)))  (hk : Kept z s) :
    Kept z (State.hostData s c data) := by
  have w0 : Frees z 0x100000 := hw.sub rfl
  have w1 : Frees z 0x800000000000000000000000000 := hw.sub rfl
  have w2 : Frees z 0x80000000000000000000000000000200001040000 := hw.sub rfl
  have w3 : Frees z 0x204000e9800000000020d00101030 := hw.sub rfl
  have w4 : Frees z 0x1800c080002400000002c800eb830730000420d9d9df1f1 := hw.sub rfl
  unfold State.hostData
  repeat' first
    | with_reducible assumption
    | extract_lets
    | intro _
    | split
    | with_reducible apply State.modConn_keeps w0
    | with_reducible apply State.answerRead_keeps w0
    | with_reducible apply State.consume_keeps w0
    | with_reducible apply State.endRequest_keeps w0
    | with_reducible apply State.noteEpoch_keeps w1
    | with_reducible apply State.sequenceHeld_keeps w2
    | with_reducible apply State.settleRegions_keeps w3
    | with_reducible apply State.pump_keeps w4
    | with_reducible apply kept_if
    | with_reducible apply kept_foldl
    | dsimp +zetaDelta only

theorem State.hostRead_keeps (hw : Frees z 0x1800c084002440000023c840eb9b0730000620d9d9df7f5) (s : State) (r : HostRead)  (hk : Kept z s) :
    Kept z (State.hostRead s r) := by
  have w0 : Frees z 0x20 := hw.sub rfl
  have w1 : Frees z 0x90000020 := hw.sub rfl
  have w2 : Frees z 0x1800c084002440000023c840eb9b0730000620d9d9df7f5 := hw.sub rfl
  have w3 : Frees z 0x1800c080002400000022c800eb830730000620d9d9df1f1 := hw.sub rfl
  unfold State.hostRead
  repeat' first
    | with_reducible assumption
    | extract_lets
    | intro _
    | split
    | with_reducible apply State.packetsArrive_keeps w0
    | with_reducible apply State.packetsFail_keeps w1
    | with_reducible apply State.contextFetched_keeps w2
    | with_reducible apply State.hostData_keeps w3
    | with_reducible apply kept_if
    | with_reducible apply kept_foldl

theorem execHostReadCompletion_keeps (hw : Frees z 0x1800c084002440000023c840eb9b0730000620d9d9df7f5) (r : HostRead) (s : State)  (hk : Kept z s) :
    KeptOut z (execHostReadCompletion r s) := by
  have w0 : Frees z 0x0 := hw.sub rfl
  have w1 : Frees z 0x1800c084002440000023c840eb9b0730000620d9d9df7f5 := hw.sub rfl
  unfold execHostReadCompletion
  repeat' first
    | with_reducible assumption
    | extract_lets
    | intro _
    | split
    | with_reducible apply State.whenLive_keeps w0
    | with_reducible apply State.hostRead_keeps w1
    | with_reducible apply kept_if
    | with_reducible apply kept_foldl
    | with_reducible apply keptOut_of

theorem State.flrClose_keeps (hw : Frees z 0x400000000000000000500100030) (s : State) (x : ℕ × Conn)  (hk : Kept z s) :
    Kept z (State.flrClose s x) := by
  have w0 : Frees z 0x400000000000000000500100030 := hw.sub rfl
  have w1 : Frees z 0x100000 := hw.sub rfl
  have w2 : Frees z 0x400000000000000000000100000 := hw.sub rfl
  have w3 : Frees z 0x20 := hw.sub rfl
  unfold State.flrClose
  repeat' first
    | with_reducible assumption
    | extract_lets
    | intro _
    | split
    | with_reducible apply State.settleClose_keeps w0
    | with_reducible apply State.modConn_keeps w1
    | with_reducible apply State.dropConn_keeps w2
    | with_reducible apply kept_if
    | with_reducible apply kept_foldl
    | with_reducible refine upd_buhorn w3 ?_

theorem State.functionReset_keeps (hw : Frees z 0x884000e9820700000020d109c71f8) (s : State) (p : ℕ)  (hk : Kept z s) :
    Kept z (State.functionReset s p) := by
  have w0 : Frees z 0x4000e9820700000020d009071f0 := hw.sub rfl
  have w1 : Frees z 0x201000000000000c1180 := hw.sub rfl
  have w2 : Frees z 0x100000020 := hw.sub rfl
  have w3 : Frees z (Field.bit cmdAdmqCtrl_enable) := hw.sub rfl
  have w4 : Frees z (Field.bit asfRwinCtrl_enable) := hw.sub rfl
  have w5 : Frees z (Field.bit asfNotifyCtrl_enable) := hw.sub rfl
  have w6 : Frees z 0x400000000000000000500100030 := hw.sub rfl
  have w7 : Frees z 0x8 := hw.sub rfl
  unfold State.functionReset
  repeat' first
    | with_reducible refine keptOpt_map ?_
    | with_reducible assumption
    | extract_lets
    | intro _
    | split
    | with_reducible apply State.endReset_keeps w0
    | with_reducible apply State.beginReset_keeps w1
    | with_reducible apply State.dropQueue_keeps w2
    | with_reducible apply State.setFlag_keeps (hw := w3)
    | with_reducible apply State.setFlag_keeps (hw := w4)
    | with_reducible apply State.setFlag_keeps (hw := w5)
    | with_reducible apply State.flrClose_keeps w6
    | with_reducible apply kept_if
    | with_reducible apply kept_foldl
    | with_reducible refine upd_msix w7 ?_

theorem execFunctionLevelReset_keeps (hw : Frees z 0x884000e9820700000020d109c71f8) (p : Fin 16) (s : State)  (hk : Kept z s) :
    KeptOut z (execFunctionLevelReset p s) := by
  have w0 : Frees z 0x884000e9820700000020d109c71f8 := hw.sub rfl
  simp (maxDischargeDepth := 30) +contextual only [execFunctionLevelReset, keptOut_next, State.functionReset_keeps w0, and_self, kept_foldl, kept_ite, implies_true, hk]

theorem execCoreWatchdog_keeps (hw : Frees z 0x1800c00000240000000000000002010000000000c9c11b1) (core : Fin 16) (s : State)  (hk : Kept z s) :
    KeptOut z (execCoreWatchdog core s) := by
  have w0 : Frees z 0x0 := hw.sub rfl
  have w1 : Frees z 0x1800c00000240000000000000002010000000000c9c11b1 := hw.sub rfl
  unfold execCoreWatchdog
  repeat' first
    | with_reducible assumption
    | extract_lets
    | intro _
    | split
    | with_reducible apply State.whenLive_keeps w0
    | with_reducible apply State.raise_keeps w1
    | with_reducible apply kept_if
    | with_reducible apply kept_foldl
    | with_reducible apply keptOut_of

end Sys2Proof.Machine
end

