-- ==== Sys2Proof/Laws/KeepsRegisterWrite.lean ====
section
/-! SUPPORT. Every operation of Machine/RegisterWrite.lean keeps the queue, the canonical forms and every piece that it does not touch. -/

set_option Elab.async false
set_option linter.unusedSimpArgs false
set_option linter.unusedTactic false
set_option linter.unreachableTactic false

namespace Sys2Proof.Machine

variable {z : Ref}

theorem State.via_keeps (hw : Frees z 0x0) (s : State) (f : State → Out)  (hk : Kept z s) (hk_f : ∀ y0, Kept z y0 → KeptOut z (f y0)) :
    Kept z (State.via s f) := by
  unfold State.via
  have h := hk_f s hk
  split
  · exact h.get (by with_reducible assumption)
  · exact hk

theorem State.writeXtsBit_keeps (hw : Frees z 0x48000000002000004) (s : State) (p : ℕ) (on : Bool)  (hk : Kept z s) :
    Kept z (State.writeXtsBit s p on) := by
  have w0 : Frees z (Field.bit cmpStat_xtsRefused) := hw.sub rfl
  have w1 : Frees z (Field.bit cmpDramXts_enable) := hw.sub rfl
  have w2 : Frees z 0x2000004 := hw.sub rfl
  have w3 : Frees z 0x2000000 := hw.sub rfl
  unfold State.writeXtsBit
  repeat' first
    | with_reducible assumption
    | extract_lets
    | intro _
    | split
    | with_reducible apply State.bump_keeps (hw := w0)
    | with_reducible apply State.setFld_keeps (hw := w1)
    | with_reducible apply kept_if
    | with_reducible apply kept_foldl
    | with_reducible refine upd_freeCtr_sec w2 ?_
    | with_reducible refine upd_sec w3 ?_

theorem State.writeXts_keeps (hw : Frees z 0x48000000002000004) (s : State) (fn : ℕ) (l : Lane) (v : BitVec 64)  (hk : Kept z s) :
    Kept z (State.writeXts s fn l v) := by
  have w0 : Frees z 0x48000000002000004 := hw.sub rfl
  unfold State.writeXts
  repeat' first
    | with_reducible assumption
    | extract_lets
    | intro _
    | split
    | with_reducible apply State.writeXtsBit_keeps w0
    | with_reducible apply kept_if
    | with_reducible apply kept_foldl

theorem execCmpDramXtsWrite_keeps (hw : Frees z 0x48000000002000004) (fn : Fn) (lane : Lane) (v : BitVec 64) (s : State)  (hk : Kept z s) :
    KeptOut z (execCmpDramXtsWrite fn lane v s) := by
  have w0 : Frees z 0x0 := hw.sub rfl
  have w1 : Frees z 0x48000000002000004 := hw.sub rfl
  unfold execCmpDramXtsWrite
  repeat' first
    | with_reducible assumption
    | extract_lets
    | intro _
    | split
    | with_reducible apply State.whenKept_keeps w0
    | with_reducible apply State.writeXts_keeps w1
    | with_reducible apply kept_if
    | with_reducible apply kept_foldl
    | with_reducible apply keptOut_of

theorem State.writeTenant_keeps (hw : Frees z 0x80000000000000000000) (s : State) (fn : ℕ) (t : ℕ) (l : Lane) (v : BitVec 64)  (hk : Kept z s) :
    Kept z (State.writeTenant s fn t l v) := by
  have w0 : Frees z (Reg.bit .schTenant) := hw.sub rfl
  unfold State.writeTenant
  repeat' first
    | with_reducible assumption
    | extract_lets
    | intro _
    | split
    | with_reducible apply State.writeFields_keeps (hw := w0)
    | with_reducible apply kept_if
    | with_reducible apply kept_foldl

theorem execSchTenantWrite_keeps (hw : Frees z 0x80000000000000000000) (fn : Fn) (t : BitVec 12) (lane : Lane) (v : BitVec 64) (s : State)  (hk : Kept z s) :
    KeptOut z (execSchTenantWrite fn t lane v s) := by
  have w0 : Frees z 0x0 := hw.sub rfl
  have w1 : Frees z 0x80000000000000000000 := hw.sub rfl
  unfold execSchTenantWrite
  repeat' first
    | with_reducible assumption
    | extract_lets
    | intro _
    | split
    | with_reducible apply State.whenKept_keeps w0
    | with_reducible apply State.writeTenant_keeps w1
    | with_reducible apply kept_if
    | with_reducible apply kept_foldl
    | with_reducible apply keptOut_of

theorem State.writePart_keeps (hw : Frees z 0x100000000000000000) (s : State) (fn : ℕ) (p : ℕ) (l : Lane) (v : BitVec 64)  (hk : Kept z s) :
    Kept z (State.writePart s fn p l v) := by
  have w0 : Frees z (Reg.bit .schPart) := hw.sub rfl
  have w1 : Frees z (Field.bit schPart_cap) := hw.sub rfl
  unfold State.writePart
  repeat' first
    | with_reducible assumption
    | extract_lets
    | intro _
    | split
    | with_reducible apply State.writeFields_keeps (hw := w0)
    | with_reducible apply State.setFld_keeps (hw := w1)
    | with_reducible apply kept_if
    | with_reducible apply kept_foldl

theorem execSchPartWrite_keeps (hw : Frees z 0x100000000000000000) (fn : Fn) (p : Fin 16) (lane : Lane) (v : BitVec 64) (s : State)  (hk : Kept z s) :
    KeptOut z (execSchPartWrite fn p lane v s) := by
  have w0 : Frees z 0x0 := hw.sub rfl
  have w1 : Frees z 0x100000000000000000 := hw.sub rfl
  unfold execSchPartWrite
  repeat' first
    | with_reducible assumption
    | extract_lets
    | intro _
    | split
    | with_reducible apply State.whenKept_keeps w0
    | with_reducible apply State.writePart_keeps w1
    | with_reducible apply kept_if
    | with_reducible apply kept_foldl
    | with_reducible apply keptOut_of

theorem execGlbBar4CfgWrite_keeps (hw : Frees z 0x2000000000000000000000000000000000000000000000) (fn : Fn) (lane : Lane) (v : BitVec 64) (s : State)  (hk : Kept z s) :
    KeptOut z (execGlbBar4CfgWrite fn lane v s) := by
  have w0 : Frees z 0x0 := hw.sub rfl
  have w1 : Frees z (Reg.bit .glbBar4Cfg) := hw.sub rfl
  unfold execGlbBar4CfgWrite
  repeat' first
    | with_reducible assumption
    | extract_lets
    | intro _
    | split
    | with_reducible apply State.whenKept_keeps w0
    | with_reducible apply State.writeFields_keeps (hw := w1)
    | with_reducible apply kept_if
    | with_reducible apply kept_foldl
    | with_reducible apply keptOut_of

theorem State.openRing_keeps (hw : Frees z 0x500000) (old : State) (s : State) (r : Reg) (i : ℕ)  (hk : Kept z old) (hk_s : Kept z s) :
    Kept z (State.openRing old s r i) := by
  have w0 : Frees z 0x100000 := hw.sub rfl
  have w1 : Frees z 0x400000 := hw.sub rfl
  unfold State.openRing
  repeat' first
    | with_reducible assumption
    | extract_lets
    | intro _
    | split
    | with_reducible apply kept_if
    | with_reducible apply kept_foldl
    | with_reducible refine upd_asf w0 ?_
    | with_reducible refine upd_shp w1 ?_

theorem State.afterWrite_keeps (hw : Frees z 0x800140500000000000e9800000200020801d01010) (old : State) (s : State) (r : Reg) (i : ℕ)  (hk : Kept z old) (hk_s : Kept z s) :
    Kept z (State.afterWrite old s r i) := by
  have w0 : Frees z (Field.bit prmPart_chunk) := hw.sub rfl
  have w1 : Frees z (Field.bit resMgr_acting) := hw.sub rfl
  have w2 : Frees z 0xe9800000000020800001000 := hw.sub rfl
  have w3 : Frees z 0xe9800000000020800000000 := hw.sub rfl
  have w4 : Frees z 0x10 := hw.sub rfl
  have w5 : Frees z (Field.bit resStat_managing) := hw.sub rfl
  have w6 : Frees z (Field.bit pwrDevCfg_c5En) := hw.sub rfl
  have w7 : Frees z 0x10000000000000000000000000000000000000 := hw.sub rfl
  have w8 : Frees z 0x80000000000000000000000000000000001000010 := hw.sub rfl
  have w9 : Frees z 0x500000 := hw.sub rfl
  have w10 : Frees z 0x800000 := hw.sub rfl
  unfold State.afterWrite
  repeat' first
    | with_reducible assumption
    | extract_lets
    | intro _
    | split
    | with_reducible apply State.setFld_keeps (hw := w0)
    | with_reducible apply State.setFld_keeps (hw := w1)
    | with_reducible apply State.relayTier1_keeps w2
    | with_reducible apply State.noteTiers_keeps w3
    | with_reducible apply State.askSlices_keeps w4
    | with_reducible apply State.setFlag_keeps (hw := w5)
    | with_reducible apply State.setFlag_keeps (hw := w6)
    | with_reducible apply State.noteCap_keeps w7
    | with_reducible apply State.planPoints_keeps w8
    | with_reducible apply State.openRing_keeps w9
    | with_reducible apply kept_if
    | with_reducible apply kept_foldl
    | with_reducible refine upd_res w10 ?_

theorem State.writeReg_keeps (hw : Frees z 0x1fffffffffffffffffffffffffffffffffffffffffff7f7) (s : State) (fn : Fn) (l : Lane) (r : Reg) (i : ℕ) (v : BitVec 64)  (hk : Kept z s) :
    Kept z (State.writeReg s fn l r i v) := by
  have w0 : Frees z 0x10000020 := hw.sub rfl
  have w1 : Frees z 0x0 := hw.sub rfl
  have w2 : Frees z 0x80000000000000000000000000000600001040000 := hw.sub rfl
  have w3 : Frees z 0xe98000000000a0800041000 := hw.sub rfl
  have w4 : Frees z 0x48000000002000004 := hw.sub rfl
  have w5 : Frees z 0x80000000000000000000 := hw.sub rfl
  have w6 : Frees z 0x100000000000000000 := hw.sub rfl
  have w7 : Frees z 0x1800c084002440000023c840eb9b0730000420d9d9df7f1 := hw.sub rfl
  have w8 : Frees z 0x204000e9800000000020d00101030 := hw.sub rfl
  have w9 : Frees z 0x800000000000000000000000200002 := hw.sub rfl
  have w10 : Frees z 0x1400000000000000000000000000000000 := hw.sub rfl
  have w11 : Frees z 0x2200000000000000000000000000400000 := hw.sub rfl
  have w12 : Frees z 0x8000000000400000000000000000000000000000800010 := hw.sub rfl
  have w13 : Frees z 0x1802c30000240000000000000002010000000000e9e11b1 := hw.sub rfl
  have w14 : Frees z 0x2000000 := hw.sub rfl
  have w15 : Frees z 0xc00000000000000000000000000000000000c000010 := hw.sub rfl
  have w16 : Frees z 0x10000000000000000400000000000000000500100130 := hw.sub rfl
  have w17 : Frees z 0x800140500000000000e9800000200020801d01010 := hw.sub rfl
  unfold State.writeReg
  repeat' first
    | with_reducible assumption
    | extract_lets
    | intro _
    | split
    | with_reducible apply State.writeAdmq_keeps w0
    | with_reducible apply State.via_keeps w1
    | with_reducible apply execGenChmodeWrite_keeps w2
    | with_reducible apply State.writeDraftCfg_keeps w3
    | with_reducible apply State.writeXts_keeps w4
    | with_reducible apply State.writeTenant_keeps w5
    | with_reducible apply State.writePart_keeps w6
    | with_reducible apply State.windowImm_keeps w7
    | with_reducible apply execAsfOwnCmd_keeps w8
    | with_reducible apply execTmbAdj_keeps w9
    | with_reducible apply State.writeGateCtrl_keeps w10
    | with_reducible apply State.writeBucket_keeps w11
    | with_reducible apply State.writeErrlogCtrl_keeps w12
    | with_reducible apply execSecRecoveryGo_keeps w13
    | with_reducible apply execSecFuseProgWrite_keeps w14
    | with_reducible apply execDbgGstopAssert_keeps w15
    | with_reducible apply execDbgHaltResume_keeps w16
    | with_reducible apply State.afterWrite_keeps w17
    | with_reducible apply State.writeFields_keeps (hw := hw.reg rfl _)
    | with_reducible apply kept_if
    | with_reducible apply kept_foldl

theorem State.writeMsix_keeps (hw : Frees z 0x8) (s : State) (fn : ℕ) (o : ℕ) (l : Lane) (v : BitVec 64)  (hk : Kept z s) :
    Kept z (State.writeMsix s fn o l v) := by
  have w0 : Frees z 0x8 := hw.sub rfl
  unfold State.writeMsix
  repeat' first
    | with_reducible assumption
    | extract_lets
    | intro _
    | split
    | with_reducible apply kept_if
    | with_reducible apply kept_foldl
    | with_reducible refine upd_msix w0 ?_

theorem execRegisterWrite_keeps (hw : Frees z 0x1fffffffffffffffffffffffffffffffffffffffffff7ff) (fn : Fn) (off : BitVec 25) (size : ℕ) (v : BitVec 64) (s : State)  (hk : Kept z s) :
    KeptOut z (execRegisterWrite fn off size v s) := by
  have w0 : Frees z 0x10000000000000000000000000000000000000000000000 := hw.sub rfl
  have w1 : Frees z 0x8 := hw.sub rfl
  have w2 : Frees z 0x1fffffffffffffffffffffffffffffffffffffffffff7f7 := hw.sub rfl
  have w3 : Frees z 0x0 := hw.sub rfl
  unfold execRegisterWrite
  repeat' first
    | with_reducible assumption
    | extract_lets
    | intro _
    | split
    | with_reducible apply State.badAccess_keeps w0
    | with_reducible apply State.writeMsix_keeps w1
    | with_reducible apply State.writeReg_keeps w2
    | with_reducible apply State.whenKept_keeps w3
    | with_reducible apply kept_if
    | with_reducible apply kept_foldl
    | with_reducible apply keptOut_of

end Sys2Proof.Machine
end

