-- ==== Sys2Proof/Laws/KeepsTick.lean ====
section
/-! SUPPORT. Every operation of Machine/Tick.lean keeps the queue, the canonical forms and every piece that it does not touch. -/

set_option Elab.async false
set_option linter.unusedSimpArgs false
set_option linter.unusedTactic false
set_option linter.unreachableTactic false

namespace Sys2Proof.Machine

variable {z : Ref}

theorem State.coalesceDue_keeps (hw : Frees z 0x30) (s : State)  (hk : Kept z s) :
    Kept z (State.coalesceDue s) := by
  have w0 : Frees z 0x10 := hw.sub rfl
  have w1 : Frees z 0x20 := hw.sub rfl
  unfold State.coalesceDue
  repeat' first
    | with_reducible assumption
    | extract_lets
    | intro _
    | split
    | with_reducible apply State.emit_keeps w0
    | with_reducible apply State.modQueue_keeps w1
    | with_reducible apply kept_if
    | with_reducible apply kept_foldl

theorem State.selfReset_keeps (hw : Frees z 0x1) (s : State)  (hk : Kept z s) :
    Kept z (State.selfReset s) := by
  have w0 : Frees z 0x1 := hw.sub rfl
  unfold State.selfReset
  repeat' first
    | with_reducible assumption
    | extract_lets
    | intro _
    | split
    | with_reducible apply State.reboot_keeps w0
    | with_reducible apply kept_if
    | with_reducible apply kept_foldl

theorem State.settleTick_keeps (hw : Frees z 0x1801c084002440000023c840eb9b0730000420d9f9df7f1) (s : State)  (hk : Kept z s) :
    Kept z (State.settleTick s) := by
  have w0 : Frees z 0x30 := hw.sub rfl
  have w1 : Frees z 0x400000000000000000502100030 := hw.sub rfl
  have w2 : Frees z 0x4000eb800000000020d08105030 := hw.sub rfl
  have w3 : Frees z 0x100000000000000004000000000000000005001001b0 := hw.sub rfl
  have w4 : Frees z 0x1800c084002440000023c840eb9b0730000420d9d9df7f1 := hw.sub rfl
  unfold State.settleTick
  repeat' first
    | with_reducible assumption
    | extract_lets
    | intro _
    | split
    | with_reducible apply State.coalesceDue_keeps w0
    | with_reducible apply State.programmingEnds_keeps w1
    | with_reducible apply State.lastCommit_keeps w2
    | with_reducible apply State.settleHalts_keeps w3
    | with_reducible apply State.tellFailures_keeps w4
    | with_reducible apply kept_if
    | with_reducible apply kept_foldl

theorem idle_keeps (hw : Frees z 0x1803c084102440000023c840eb9b0730000420d9f9df7f3) (s : State)  (hk : Kept z s) :
    Kept z (idle s) := by
  have w0 : Frees z 0x1 := hw.sub rfl
  have w1 : Frees z 0x400000000000000000000000000000800000 := hw.sub rfl
  have w2 : Frees z 0x2c08010000000000000000000000000000000d000010 := hw.sub rfl
  have w3 : Frees z 0x1801c084002440000023c840eb9b0730000420d9f9df7f1 := hw.sub rfl
  have w4 : Frees z 0x2 := hw.sub rfl
  unfold idle
  repeat' first
    | with_reducible assumption
    | extract_lets
    | intro _
    | split
    | with_reducible apply State.selfReset_keeps w0
    | with_reducible apply State.retireError_keeps w1
    | with_reducible apply State.hubReleased_keeps w2
    | with_reducible apply State.settleTick_keeps w3
    | with_reducible apply kept_if
    | with_reducible apply kept_foldl
    | with_reducible refine upd_now w4 ?_

end Sys2Proof.Machine
end

