-- ==== Sys2Proof/Laws/KeepsDispatch.lean ====
section
/-! SUPPORT. Every command keeps the queue, the canonical forms and every piece that it does not touch. -/

set_option Elab.async false
set_option linter.unusedSimpArgs false
set_option linter.unusedTactic false
set_option linter.unreachableTactic false

namespace Sys2Proof.Machine

variable {z : Ref}

theorem exec_keeps (i : Instr) (s : State) (hw : Frees z (maskOf (touches i))) (hk : Kept z s) : KeptOut z (exec i s) := by
  cases i with
  | cmdDbTail fn q index => exact execCmdDbTail_keeps (hw.of rfl) fn q index s hk
  | cmdDbHead fn q index => exact execCmdDbHead_keeps (hw.of rfl) fn q index s hk
  | commandFetch who writes => exact execCommandFetch_keeps (hw.of rfl) who writes s hk
  | cmdAdmqCtrlWrite fn lane v => exact execCmdAdmqCtrlWrite_keeps (hw.of rfl) fn lane v s hk
  | identify c => exact execIdentify_keeps (hw.of rfl) c s hk
  | queueCreate c => exact execQueueCreate_keeps (hw.of rfl) c s hk
  | queueDelete c => exact execQueueDelete_keeps (hw.of rfl) c s hk
  | roleSet c => exact execRoleSet_keeps (hw.of rfl) c s hk
  | partitionConfig c => exact execPartitionConfig_keeps (hw.of rfl) c s hk
  | partitionReset c => exact execPartitionReset_keeps (hw.of rfl) c s hk
  | partitionResetComplete p => exact execPartitionResetComplete_keeps (hw.of rfl) p s hk
  | schTableLoad c rows => exact execSchTableLoad_keeps (hw.of rfl) c rows s hk
  | schTableSwap c => exact execSchTableSwap_keeps (hw.of rfl) c s hk
  | weightLoad c record blocks => exact execWeightLoad_keeps (hw.of rfl) c record blocks s hk
  | churnPass c => exact execChurnPass_keeps (hw.of rfl) c s hk
  | regionRegister c => exact execRegionRegister_keeps (hw.of rfl) c s hk
  | regionRevoke c => exact execRegionRevoke_keeps (hw.of rfl) c s hk
  | connOpen c => exact execConnOpen_keeps (hw.of rfl) c s hk
  | connClose c => exact execConnClose_keeps (hw.of rfl) c s hk
  | epochSet c map => exact execEpochSet_keeps (hw.of rfl) c map s hk
  | pwrClassPoint c => exact execPwrClassPoint_keeps (hw.of rfl) c s hk
  | pwrCapSet c => exact execPwrCapSet_keeps (hw.of rfl) c s hk
  | jobEnergy c => exact execJobEnergy_keeps (hw.of rfl) c s hk
  | tenantSet c => exact execTenantSet_keeps (hw.of rfl) c s hk
  | tenantQuery c => exact execTenantQuery_keeps (hw.of rfl) c s hk
  | traceConfig c => exact execTraceConfig_keeps (hw.of rfl) c s hk
  | traceTrigger c => exact execTraceTrigger_keeps (hw.of rfl) c s hk
  | debugHalt c => exact execDebugHalt_keeps (hw.of rfl) c s hk
  | debugMemRead c => exact execDebugMemRead_keeps (hw.of rfl) c s hk
  | fwImage c image code => exact execFwImage_keeps (hw.of rfl) c image code s hk
  | debugToken c token => exact execDebugToken_keeps (hw.of rfl) c token s hk
  | lifecycleSet c => exact execLifecycleSet_keeps (hw.of rfl) c s hk
  | nop c => exact execNop_keeps (hw.of rfl) c s hk
  | seqOpen c stops => exact execSeqOpen_keeps (hw.of rfl) c stops s hk
  | seqPrompt c tokens => exact execSeqPrompt_keeps (hw.of rfl) c tokens s hk
  | seqStepEnable c => exact execSeqStepEnable_keeps (hw.of rfl) c s hk
  | seqPause c => exact execSeqPause_keeps (hw.of rfl) c s hk
  | seqResume c => exact execSeqResume_keeps (hw.of rfl) c s hk
  | seqCancel c => exact execSeqCancel_keeps (hw.of rfl) c s hk
  | seqClose c => exact execSeqClose_keeps (hw.of rfl) c s hk
  | seqQuery c => exact execSeqQuery_keeps (hw.of rfl) c s hk
  | stateMove c => exact execStateMove_keeps (hw.of rfl) c s hk
  | stateMirror c => exact execStateMirror_keeps (hw.of rfl) c s hk
  | stateFetch c code => exact execStateFetch_keeps (hw.of rfl) c code s hk
  | pageListSet c entries => exact execPageListSet_keeps (hw.of rfl) c entries s hk
  | badOpcodeCommand c => exact execBadOpcodeCommand_keeps (hw.of rfl) c s hk
  | stepBoundary p => exact execStepBoundary_keeps (hw.of rfl) p s hk
  | boundaryScheduledTick p => exact execBoundaryScheduledTick_keeps (hw.of rfl) p s hk
  | mirrorAck p node step => exact execMirrorAck_keeps (hw.of rfl) p node step s hk
  | journalAck p step => exact execJournalAck_keeps (hw.of rfl) p step s hk
  | commitRecordSend p node => exact execCommitRecordSend_keeps (hw.of rfl) p node s hk
  | armatureEntryStart p start => exact execArmatureEntryStart_keeps (hw.of rfl) p start s hk
  | kernelComplete p entry work => exact execKernelComplete_keeps (hw.of rfl) p entry work s hk
  | syncPointReach p point => exact execSyncPointReach_keeps (hw.of rfl) p point s hk
  | sync p src m => exact execSync_keeps (hw.of rfl) p src m s hk
  | syncRelease p point => exact execSyncRelease_keeps (hw.of rfl) p point s hk
  | syncResendTimer p => exact execSyncResendTimer_keeps (hw.of rfl) p s hk
  | syncSlackExpiry p => exact execSyncSlackExpiry_keeps (hw.of rfl) p s hk
  | moveFlip node handle => exact execMoveFlip_keeps (hw.of rfl) node handle s hk
  | moveFlipAck handle newHandle flipTick => exact execMoveFlipAck_keeps (hw.of rfl) handle newHandle flipTick s hk
  | moveAbandonRequest node handle => exact execMoveAbandonRequest_keeps (hw.of rfl) node handle s hk
  | moveRefused handle => exact execMoveRefused_keeps (hw.of rfl) handle s hk
  | nearBankDescriptorIssue ch p d => exact execNearBankDescriptorIssue_keeps (hw.of rfl) ch p d s hk
  | nearBankOpComplete ch inp => exact execNearBankOpComplete_keeps (hw.of rfl) ch inp s hk
  | nearBankWatchdog ch u fin => exact execNearBankWatchdog_keeps (hw.of rfl) ch u fin s hk
  | channelSwitchComplete ch => exact execChannelSwitchComplete_keeps (hw.of rfl) ch s hk
  | logicAccessHeld ch a => exact execLogicAccessHeld_keeps (hw.of rfl) ch a s hk
  | memoryModeWindowExpiry ch => exact execMemoryModeWindowExpiry_keeps (hw.of rfl) ch s hk
  | refreshDue ch => exact execRefreshDue_keeps (hw.of rfl) ch s hk
  | genChmodeWrite fn ch lane v => exact execGenChmodeWrite_keeps (hw.of rfl) fn ch lane v s hk
  | genDraftCfgWrite fn lane v => exact execGenDraftCfgWrite_keeps (hw.of rfl) fn lane v s hk
  | draftCfgApply => exact execDraftCfgApply_keeps (hw.of rfl) s hk
  | draftRingFillComplete fill => exact execDraftRingFillComplete_keeps (hw.of rfl) fill s hk
  | panelFillComplete p tile half panel => exact execPanelFillComplete_keeps (hw.of rfl) p tile half panel s hk
  | tileSramError p tile correctable accumulator temp => exact execTileSramError_keeps (hw.of rfl) p tile correctable accumulator temp s hk
  | replaySample p sample => exact execReplaySample_keeps (hw.of rfl) p sample s hk
  | replayCompare replay third temp => exact execReplayCompare_keeps (hw.of rfl) replay third temp s hk
  | selfTest unit pattern signatureOk temp => exact execSelfTest_keeps (hw.of rfl) unit pattern signatureOk temp s hk
  | pageStep job => exact execPageStep_keeps (hw.of rfl) job s hk
  | migrationFlip p page => exact execMigrationFlip_keeps (hw.of rfl) p page s hk
  | clockHandVisit => exact execClockHandVisit_keeps (hw.of rfl) s hk
  | t2AgeTick => exact execT2AgeTick_keeps (hw.of rfl) s hk
  | stallMaxExpiry p entry => exact execStallMaxExpiry_keeps (hw.of rfl) p entry s hk
  | tirPeerCtrlWrite fn k lane v => exact execTirPeerCtrlWrite_keeps (hw.of rfl) fn k lane v s hk
  | flashReadComplete granule levels => exact execFlashReadComplete_keeps (hw.of rfl) granule levels s hk
  | flashProgramComplete granule ok => exact execFlashProgramComplete_keeps (hw.of rfl) granule ok s hk
  | journalCommit code => exact execJournalCommit_keeps (hw.of rfl) code s hk
  | holdupRetry code => exact execHoldupRetry_keeps (hw.of rfl) code s hk
  | garbageCollection => exact execGarbageCollection_keeps (hw.of rfl) s hk
  | staticWearLevelling => exact execStaticWearLevelling_keeps (hw.of rfl) s hk
  | readDisturbRefresh block => exact execReadDisturbRefresh_keeps (hw.of rfl) block s hk
  | retentionScrub block weak correctedBits => exact execRetentionScrub_keeps (hw.of rfl) block weak correctedBits s hk
  | grownBadBlock block failed => exact execGrownBadBlock_keeps (hw.of rfl) block failed s hk
  | readReq rx => exact execReadReq_keeps (hw.of rfl) rx s hk
  | readResp rx => exact execReadResp_keeps (hw.of rfl) rx s hk
  | write rx use => exact execWrite_keeps (hw.of rfl) rx use s hk
  | writeImm rx => exact execWriteImm_keeps (hw.of rfl) rx s hk
  | fetchAdd rx => exact execFetchAdd_keeps (hw.of rfl) rx s hk
  | swap rx => exact execSwap_keeps (hw.of rfl) rx s hk
  | cas rx => exact execCas_keeps (hw.of rfl) rx s hk
  | atomicResp rx => exact execAtomicResp_keeps (hw.of rfl) rx s hk
  | ack rx => exact execAck_keeps (hw.of rfl) rx s hk
  | nak rx => exact execNak_keeps (hw.of rfl) rx s hk
  | connect rx => exact execConnect_keeps (hw.of rfl) rx s hk
  | connectAck rx => exact execConnectAck_keeps (hw.of rfl) rx s hk
  | disconnect rx => exact execDisconnect_keeps (hw.of rfl) rx s hk
  | disconnectAck rx => exact execDisconnectAck_keeps (hw.of rfl) rx s hk
  | reservedOpFrame rx => exact execReservedOpFrame_keeps (hw.of rfl) rx s hk
  | ackTimer conn => exact execAckTimer_keeps (hw.of rfl) conn s hk
  | retransmissionTimeout conn => exact execRetransmissionTimeout_keeps (hw.of rfl) conn s hk
  | rnrWaitExpiry conn => exact execRnrWaitExpiry_keeps (hw.of rfl) conn s hk
  | retryAfterExpiry conn => exact execRetryAfterExpiry_keeps (hw.of rfl) conn s hk
  | contextFetchComplete conn tagOk => exact execContextFetchComplete_keeps (hw.of rfl) conn tagOk s hk
  | pagingStallLimit conn => exact execPagingStallLimit_keeps (hw.of rfl) conn s hk
  | deadTargetTimeout conn => exact execDeadTargetTimeout_keeps (hw.of rfl) conn s hk
  | frameTxStart port => exact execFrameTxStart_keeps (hw.of rfl) port s hk
  | portLinkDown port => exact execPortLinkDown_keeps (hw.of rfl) port s hk
  | portLinkUp port => exact execPortLinkUp_keeps (hw.of rfl) port s hk
  | oldEpochExpire => exact execOldEpochExpire_keeps (hw.of rfl) s hk
  | hostWindowWrite fn w off data => exact execHostWindowWrite_keeps (hw.of rfl) fn w off data s hk
  | hostWindowRead fn w off len => exact execHostWindowRead_keeps (hw.of rfl) fn w off len s hk
  | hostWindowAtomic fn w off op => exact execHostWindowAtomic_keeps (hw.of rfl) fn w off op s hk
  | asfRwinImm fn w lane v => exact execAsfRwinImm_keeps (hw.of rfl) fn w lane v s hk
  | asfOwnCmd fn lane v => exact execAsfOwnCmd_keeps (hw.of rfl) fn lane v s hk
  | hostDramAccess off access => exact execHostDramAccess_keeps (hw.of rfl) off access s hk
  | glbBar4CfgWrite fn lane v => exact execGlbBar4CfgWrite_keeps (hw.of rfl) fn lane v s hk
  | copyCompare copies => exact execCopyCompare_keeps (hw.of rfl) copies s hk
  | timeReqTimer => exact execTimeReqTimer_keeps (hw.of rfl) s hk
  | timeReq node port t1 => exact execTimeReq_keeps (hw.of rfl) node port t1 s hk
  | timeResp port t1 t2 t3 => exact execTimeResp_keeps (hw.of rfl) port t1 t2 t3 s hk
  | timeClkInLoss => exact execTimeClkInLoss_keeps (hw.of rfl) s hk
  | timeClkInReturn => exact execTimeClkInReturn_keeps (hw.of rfl) s hk
  | ptpMessage port m => exact execPtpMessage_keeps (hw.of rfl) port m s hk
  | syncPpsIn => exact execSyncPpsIn_keeps (hw.of rfl) s hk
  | ppsLost => exact execPpsLost_keeps (hw.of rfl) s hk
  | syncPpsOut => exact execSyncPpsOut_keeps (hw.of rfl) s hk
  | tmbAdj fn lane v => exact execTmbAdj_keeps (hw.of rfl) fn lane v s hk
  | gateEntryAdvance port => exact execGateEntryAdvance_keeps (hw.of rfl) port s hk
  | gateArm fn port lane v => exact execGateArm_keeps (hw.of rfl) fn port lane v s hk
  | gateCancel fn port lane v => exact execGateCancel_keeps (hw.of rfl) fn port lane v s hk
  | gateTakeover port => exact execGateTakeover_keeps (hw.of rfl) port s hk
  | bucketRefill => exact execBucketRefill_keeps (hw.of rfl) s hk
  | shpBucketWrite fn b lane v => exact execShpBucketWrite_keeps (hw.of rfl) fn b lane v s hk
  | queueSample => exact execQueueSample_keeps (hw.of rfl) s hk
  | sliceRequest home => exact execSliceRequest_keeps (hw.of rfl) home s hk
  | mirrorCopyComplete handle ok => exact execMirrorCopyComplete_keeps (hw.of rfl) handle ok s hk
  | heartbeatTimer => exact execHeartbeatTimer_keeps (hw.of rfl) s hk
  | heartbeat rx => exact execHeartbeat_keeps (hw.of rfl) rx s hk
  | suspicionTimer node => exact execSuspicionTimer_keeps (hw.of rfl) node s hk
  | lossTimer node => exact execLossTimer_keeps (hw.of rfl) node s hk
  | probe rx => exact execProbe_keeps (hw.of rfl) rx s hk
  | decision rx => exact execDecision_keeps (hw.of rfl) rx s hk
  | decisionResend => exact execDecisionResend_keeps (hw.of rfl) s hk
  | deputyTakeoverTimer => exact execDeputyTakeoverTimer_keeps (hw.of rfl) s hk
  | takeover rx => exact execTakeover_keeps (hw.of rfl) rx s hk
  | spareRetryTimer => exact execSpareRetryTimer_keeps (hw.of rfl) s hk
  | recastFlip handle newHandle => exact execRecastFlip_keeps (hw.of rfl) handle newHandle s hk
  | errorRaised e => exact execErrorRaised_keeps (hw.of rfl) e s hk
  | ceMergeWindowEnd u code location => exact execCeMergeWindowEnd_keeps (hw.of rfl) u code location s hk
  | ceThresholdWindowEnd => exact execCeThresholdWindowEnd_keeps (hw.of rfl) s hk
  | glbErrlogCtrlWrite fn lane v => exact execGlbErrlogCtrlWrite_keeps (hw.of rfl) fn lane v s hk
  | domainIdleTimer d => exact execDomainIdleTimer_keeps (hw.of rfl) d s hk
  | rindWake d source => exact execRindWake_keeps (hw.of rfl) d source s hk
  | scheduledWake d => exact execScheduledWake_keeps (hw.of rfl) d s hk
  | domainWakeComplete d restoreOk => exact execDomainWakeComplete_keeps (hw.of rfl) d restoreOk s hk
  | c3Entry => exact execC3Entry_keeps (hw.of rfl) s hk
  | c3Exit source => exact execC3Exit_keeps (hw.of rfl) source s hk
  | c5Entry => exact execC5Entry_keeps (hw.of rfl) s hk
  | c5Exit source imageOk => exact execC5Exit_keeps (hw.of rfl) source imageOk s hk
  | cappingWindow sample => exact execCappingWindow_keeps (hw.of rfl) sample s hk
  | avsRaise point => exact execAvsRaise_keeps (hw.of rfl) point s hk
  | vdonePoll core sram mem => exact execVdonePoll_keeps (hw.of rfl) core sram mem s hk
  | vdoneTimeout => exact execVdoneTimeout_keeps (hw.of rfl) s hk
  | avsBusyRetry ackc => exact execAvsBusyRetry_keeps (hw.of rfl) ackc s hk
  | droop d => exact execDroop_keeps (hw.of rfl) d s hk
  | pwrLimitN asserted => exact execPwrLimitN_keeps (hw.of rfl) asserted s hk
  | powerLimitHoldExpiry => exact execPowerLimitHoldExpiry_keeps (hw.of rfl) s hk
  | thermalSample logic dram => exact execThermalSample_keeps (hw.of rfl) logic dram s hk
  | throttleStepTimer d => exact execThrottleStepTimer_keeps (hw.of rfl) d s hk
  | rackSharePeriod => exact execRackSharePeriod_keeps (hw.of rfl) s hk
  | demandRecord => exact execDemandRecord_keeps (hw.of rfl) s hk
  | shareRecord r => exact execShareRecord_keeps (hw.of rfl) r s hk
  | shareFailsafe => exact execShareFailsafe_keeps (hw.of rfl) s hk
  | cmpDramXtsWrite fn lane v => exact execCmpDramXtsWrite_keeps (hw.of rfl) fn lane v s hk
  | schTenantWrite fn t lane v => exact execSchTenantWrite_keeps (hw.of rfl) fn t lane v s hk
  | schPartWrite fn p lane v => exact execSchPartWrite_keeps (hw.of rfl) fn p lane v s hk
  | registerWrite fn off size v => exact execRegisterWrite_keeps (hw.of rfl) fn off size v s hk
  | secRecoveryGo fn lane v => exact execSecRecoveryGo_keeps (hw.of rfl) fn lane v s hk
  | dbgHaltResume fn p lane v => exact execDbgHaltResume_keeps (hw.of rfl) fn p lane v s hk
  | dbgGstopAssert fn lane v => exact execDbgGstopAssert_keeps (hw.of rfl) fn lane v s hk
  | plaster jtag chains => exact execPlaster_keeps (hw.of rfl) jtag chains s hk
  | jtagGstop => exact execJtagGstop_keeps (hw.of rfl) s hk
  | jtagBoundaryTakeover => exact execJtagBoundaryTakeover_keeps (hw.of rfl) s hk
  | breakpointHit core => exact execBreakpointHit_keeps (hw.of rfl) core s hk
  | traceFrame => exact execTraceFrame_keeps (hw.of rfl) s hk
  | traceRecord r => exact execTraceRecord_keeps (hw.of rfl) r s hk
  | getVersion => exact execGetVersion_keeps (hw.of rfl) s hk
  | getCapabilities => exact execGetCapabilities_keeps (hw.of rfl) s hk
  | negotiateAlgorithms offer => exact execNegotiateAlgorithms_keeps (hw.of rfl) offer s hk
  | getDigests => exact execGetDigests_keeps (hw.of rfl) s hk
  | getCertificate slot off len => exact execGetCertificate_keeps (hw.of rfl) slot off len s hk
  | challenge nonce => exact execChallenge_keeps (hw.of rfl) nonce s hk
  | getMeasurements index signed => exact execGetMeasurements_keeps (hw.of rfl) index signed s hk
  | keyExchange key => exact execKeyExchange_keeps (hw.of rfl) key s hk
  | finish verifyOk => exact execFinish_keeps (hw.of rfl) verifyOk s hk
  | spdmHeartbeat => exact execSpdmHeartbeat_keeps (hw.of rfl) s hk
  | keyUpdate op => exact execKeyUpdate_keeps (hw.of rfl) op s hk
  | endSession => exact execEndSession_keeps (hw.of rfl) s hk
  | chunkGet chunk => exact execChunkGet_keeps (hw.of rfl) chunk s hk
  | setNodeKey inSession opcode node gen key => exact execSetNodeKey_keeps (hw.of rfl) inSession opcode node gen key s hk
  | spdmUnsupportedRequest code => exact execSpdmUnsupportedRequest_keeps (hw.of rfl) code s hk
  | coldStart inp => exact execColdStart_keeps (hw.of rfl) inp s hk
  | railSequenceStart => exact execRailSequenceStart_keeps (hw.of rfl) s hk
  | railInRange => exact execRailInRange_keeps (hw.of rfl) s hk
  | railFault => exact execRailFault_keeps (hw.of rfl) s hk
  | clocksLocked => exact execClocksLocked_keeps (hw.of rfl) s hk
  | dramInitComplete => exact execDramInitComplete_keeps (hw.of rfl) s hk
  | bootVerify flashAnswers image => exact execBootVerify_keeps (hw.of rfl) flashAnswers image s hk
  | diceDerivationComplete certMatches => exact execDiceDerivationComplete_keeps (hw.of rfl) certMatches s hk
  | firmwareInitComplete inp => exact execFirmwareInitComplete_keeps (hw.of rfl) inp s hk
  | ftlInService targets => exact execFtlInService_keeps (hw.of rfl) targets s hk
  | xtalAbsent => exact execXtalAbsent_keeps (hw.of rfl) s hk
  | refAbsent => exact execRefAbsent_keeps (hw.of rfl) s hk
  | portRefAbsent refB => exact execPortRefAbsent_keeps (hw.of rfl) refB s hk
  | perstN asserted => exact execPerstN_keeps (hw.of rfl) asserted s hk
  | pcieHotReset => exact execPcieHotReset_keeps (hw.of rfl) s hk
  | pcieLinkDown => exact execPcieLinkDown_keeps (hw.of rfl) s hk
  | functionLevelReset p => exact execFunctionLevelReset_keeps (hw.of rfl) p s hk
  | gstopN asserted => exact execGstopN_keeps (hw.of rfl) asserted s hk
  | pfailN asserted => exact execPfailN_keeps (hw.of rfl) asserted s hk
  | wakeN asserted => exact execWakeN_keeps (hw.of rfl) asserted s hk
  | alertN asserted => exact execAlertN_keeps (hw.of rfl) asserted s hk
  | holdupOk asserted => exact execHoldupOk_keeps (hw.of rfl) asserted s hk
  | inputEventWindowEnd k => exact execInputEventWindowEnd_keeps (hw.of rfl) k s hk
  | inputStuck k => exact execInputStuck_keeps (hw.of rfl) k s hk
  | status => exact execStatus_keeps (hw.of rfl) s hk
  | temps => exact execTemps_keeps (hw.of rfl) s hk
  | power => exact execPower_keeps (hw.of rfl) s hk
  | inputs => exact execInputs_keeps (hw.of rfl) s hk
  | record => exact execRecord_keeps (hw.of rfl) s hk
  | boardCap v pecOk => exact execBoardCap_keeps (hw.of rfl) v pecOk s hk
  | rackBudget v pecOk => exact execRackBudget_keeps (hw.of rfl) v pecOk s hk
  | recovery v pecOk => exact execRecovery_keeps (hw.of rfl) v pecOk s hk
  | powerOn v pecOk => exact execPowerOn_keeps (hw.of rfl) v pecOk s hk
  | powerOff v pecOk => exact execPowerOff_keeps (hw.of rfl) v pecOk s hk
  | stayOff v pecOk => exact execStayOff_keeps (hw.of rfl) v pecOk s hk
  | setAddr v pecOk => exact execSetAddr_keeps (hw.of rfl) v pecOk s hk
  | alertResponseAddress => exact execAlertResponseAddress_keeps (hw.of rfl) s hk
  | abandonedAnswer handle => exact execAbandonedAnswer_keeps (hw.of rfl) handle s hk
  | jtagBoundaryRelease => exact execJtagBoundaryRelease_keeps (hw.of rfl) s hk
  | pcieLinkUp => exact execPcieLinkUp_keeps (hw.of rfl) s hk
  | secFuseProgWrite fn k lane v => exact execSecFuseProgWrite_keeps (hw.of rfl) fn k lane v s hk
  | ideKmRequest inSession stream action => exact execIdeKmRequest_keeps (hw.of rfl) inSession stream action s hk
  | coreWatchdog core => exact execCoreWatchdog_keeps (hw.of rfl) core s hk
  | flashEraseComplete block suspended => exact execFlashEraseComplete_keeps (hw.of rfl) block suspended s hk
  | hostReadCompletion r => exact execHostReadCompletion_keeps (hw.of rfl) r s hk
  | suppliesRemoved aonToo => exact execSuppliesRemoved_keeps (hw.of rfl) aonToo s hk

end Sys2Proof.Machine
end

