-- ==== Sys2Proof/Laws/Pieces.lean ====
section
/-! SUPPORT. Lists of pieces: every piece is in the whole list, and where the whole list may differ every list may. -/

set_option Elab.async false

namespace Sys2Proof.Machine

/-- Every piece is in the list of all. -/
theorem Piece.mem_all (p : Piece) : p ∈ Piece.all := by
  cases p with
  | reg r => exact List.mem_append_right _ (List.mem_map_of_mem r.mem_all)
  | _ => exact List.mem_append_left _ (by decide)

/-- The bits of a list's set are those of its pieces. -/
theorem maskOf_bit {l : List Piece} {n : Nat} (h : (maskOf l).testBit n = true) : ∃ p ∈ l, p.num = n := by
  induction l with
  | nil => simp [maskOf] at h
  | cons x l ih =>
    have e : maskOf (x :: l) = 2 ^ x.num ||| maskOf l := rfl
    rw [e, Nat.testBit_or, Bool.or_eq_true, Nat.testBit_two_pow, decide_eq_true_eq] at h
    rcases h with h | h
    · exact ⟨x, List.mem_cons_self .., h⟩
    · obtain ⟨p, hp, e⟩ := ih h
      exact ⟨p, List.mem_cons_of_mem _ hp, e⟩

/-- Where every piece may differ, those of a list may. -/
theorem Frees.of_all {z : Ref} (h : Frees z (maskOf Piece.all)) (l : List Piece) : Frees z (maskOf l) := by
  refine h.sub (Nat.eq_of_testBit_eq fun n => ?_)
  show Nat.testBit (maskOf l &&& maskOf Piece.all) n = _
  rw [Nat.testBit_and]
  cases k : (maskOf l).testBit n with
  | false => rfl
  | true =>
    obtain ⟨p, -, rfl⟩ := maskOf_bit k
    rw [testBit_maskOf.2 p.mem_all]
    rfl

end Sys2Proof.Machine
end

