-- ==== Sys2Proof/Laws/State.lean ====
section
/-! SUPPORT. What each named update of the state leaves as it was: one lemma per field. -/

set_option Elab.async false

namespace Sys2Proof.Machine

variable (s : State)

@[simp] theorem State.setReg_pending (r : Reg) (i : Nat) (v : BitVec 64) : (s.setReg r i v).pending = s.pending := rfl
@[simp] theorem State.setReg_now (r : Reg) (i : Nat) (v : BitVec 64) : (s.setReg r i v).now = s.now := rfl
@[simp] theorem State.setReg_freeCtr (r : Reg) (i : Nat) (v : BitVec 64) : (s.setReg r i v).freeCtr = s.freeCtr := rfl
@[simp] theorem State.setReg_msix (r : Reg) (i : Nat) (v : BitVec 64) : (s.setReg r i v).msix = s.msix := rfl
@[simp] theorem State.setReg_out (r : Reg) (i : Nat) (v : BitVec 64) : (s.setReg r i v).out = s.out := rfl
@[simp] theorem State.setReg_buhorn (r : Reg) (i : Nat) (v : BitVec 64) : (s.setReg r i v).buhorn = s.buhorn := rfl
@[simp] theorem State.setReg_handles (r : Reg) (i : Nat) (v : BitVec 64) : (s.setReg r i v).handles = s.handles := rfl
@[simp] theorem State.setReg_seqs (r : Reg) (i : Nat) (v : BitVec 64) : (s.setReg r i v).seqs = s.seqs := rfl
@[simp] theorem State.setReg_parts (r : Reg) (i : Nat) (v : BitVec 64) : (s.setReg r i v).parts = s.parts := rfl
@[simp] theorem State.setReg_tenants (r : Reg) (i : Nat) (v : BitVec 64) : (s.setReg r i v).tenants = s.tenants := rfl
@[simp] theorem State.setReg_weights (r : Reg) (i : Nat) (v : BitVec 64) : (s.setReg r i v).weights = s.weights := rfl
@[simp] theorem State.setReg_churn (r : Reg) (i : Nat) (v : BitVec 64) : (s.setReg r i v).churn = s.churn := rfl
@[simp] theorem State.setReg_tiers (r : Reg) (i : Nat) (v : BitVec 64) : (s.setReg r i v).tiers = s.tiers := rfl
@[simp] theorem State.setReg_ftl (r : Reg) (i : Nat) (v : BitVec 64) : (s.setReg r i v).ftl = s.ftl := rfl
@[simp] theorem State.setReg_dram (r : Reg) (i : Nat) (v : BitVec 64) : (s.setReg r i v).dram = s.dram := rfl
@[simp] theorem State.setReg_poison (r : Reg) (i : Nat) (v : BitVec 64) : (s.setReg r i v).poison = s.poison := rfl
@[simp] theorem State.setReg_staging (r : Reg) (i : Nat) (v : BitVec 64) : (s.setReg r i v).staging = s.staging := rfl
@[simp] theorem State.setReg_gen (r : Reg) (i : Nat) (v : BitVec 64) : (s.setReg r i v).gen = s.gen := rfl
@[simp] theorem State.setReg_prm (r : Reg) (i : Nat) (v : BitVec 64) : (s.setReg r i v).prm = s.prm := rfl
@[simp] theorem State.setReg_asf (r : Reg) (i : Nat) (v : BitVec 64) : (s.setReg r i v).asf = s.asf := rfl
@[simp] theorem State.setReg_tmb (r : Reg) (i : Nat) (v : BitVec 64) : (s.setReg r i v).tmb = s.tmb := rfl
@[simp] theorem State.setReg_shp (r : Reg) (i : Nat) (v : BitVec 64) : (s.setReg r i v).shp = s.shp := rfl
@[simp] theorem State.setReg_res (r : Reg) (i : Nat) (v : BitVec 64) : (s.setReg r i v).res = s.res := rfl
@[simp] theorem State.setReg_pwr (r : Reg) (i : Nat) (v : BitVec 64) : (s.setReg r i v).pwr = s.pwr := rfl
@[simp] theorem State.setReg_sec (r : Reg) (i : Nat) (v : BitVec 64) : (s.setReg r i v).sec = s.sec := rfl
@[simp] theorem State.setReg_trace (r : Reg) (i : Nat) (v : BitVec 64) : (s.setReg r i v).trace = s.trace := rfl
@[simp] theorem State.setReg_pln (r : Reg) (i : Nat) (v : BitVec 64) : (s.setReg r i v).pln = s.pln := rfl

@[simp] theorem State.setFld_pending (f : Field) (i v : Nat) : (s.setFld f i v).pending = s.pending := rfl
@[simp] theorem State.setFld_now (f : Field) (i v : Nat) : (s.setFld f i v).now = s.now := rfl
@[simp] theorem State.setFld_freeCtr (f : Field) (i v : Nat) : (s.setFld f i v).freeCtr = s.freeCtr := rfl
@[simp] theorem State.setFld_msix (f : Field) (i v : Nat) : (s.setFld f i v).msix = s.msix := rfl
@[simp] theorem State.setFld_out (f : Field) (i v : Nat) : (s.setFld f i v).out = s.out := rfl
@[simp] theorem State.setFld_buhorn (f : Field) (i v : Nat) : (s.setFld f i v).buhorn = s.buhorn := rfl
@[simp] theorem State.setFld_handles (f : Field) (i v : Nat) : (s.setFld f i v).handles = s.handles := rfl
@[simp] theorem State.setFld_seqs (f : Field) (i v : Nat) : (s.setFld f i v).seqs = s.seqs := rfl
@[simp] theorem State.setFld_parts (f : Field) (i v : Nat) : (s.setFld f i v).parts = s.parts := rfl
@[simp] theorem State.setFld_tenants (f : Field) (i v : Nat) : (s.setFld f i v).tenants = s.tenants := rfl
@[simp] theorem State.setFld_weights (f : Field) (i v : Nat) : (s.setFld f i v).weights = s.weights := rfl
@[simp] theorem State.setFld_churn (f : Field) (i v : Nat) : (s.setFld f i v).churn = s.churn := rfl
@[simp] theorem State.setFld_tiers (f : Field) (i v : Nat) : (s.setFld f i v).tiers = s.tiers := rfl
@[simp] theorem State.setFld_ftl (f : Field) (i v : Nat) : (s.setFld f i v).ftl = s.ftl := rfl
@[simp] theorem State.setFld_dram (f : Field) (i v : Nat) : (s.setFld f i v).dram = s.dram := rfl
@[simp] theorem State.setFld_poison (f : Field) (i v : Nat) : (s.setFld f i v).poison = s.poison := rfl
@[simp] theorem State.setFld_staging (f : Field) (i v : Nat) : (s.setFld f i v).staging = s.staging := rfl
@[simp] theorem State.setFld_gen (f : Field) (i v : Nat) : (s.setFld f i v).gen = s.gen := rfl
@[simp] theorem State.setFld_prm (f : Field) (i v : Nat) : (s.setFld f i v).prm = s.prm := rfl
@[simp] theorem State.setFld_asf (f : Field) (i v : Nat) : (s.setFld f i v).asf = s.asf := rfl
@[simp] theorem State.setFld_tmb (f : Field) (i v : Nat) : (s.setFld f i v).tmb = s.tmb := rfl
@[simp] theorem State.setFld_shp (f : Field) (i v : Nat) : (s.setFld f i v).shp = s.shp := rfl
@[simp] theorem State.setFld_res (f : Field) (i v : Nat) : (s.setFld f i v).res = s.res := rfl
@[simp] theorem State.setFld_pwr (f : Field) (i v : Nat) : (s.setFld f i v).pwr = s.pwr := rfl
@[simp] theorem State.setFld_sec (f : Field) (i v : Nat) : (s.setFld f i v).sec = s.sec := rfl
@[simp] theorem State.setFld_trace (f : Field) (i v : Nat) : (s.setFld f i v).trace = s.trace := rfl
@[simp] theorem State.setFld_pln (f : Field) (i v : Nat) : (s.setFld f i v).pln = s.pln := rfl

@[simp] theorem State.setFldInt_pending (f : Field) (i : Nat) (v : Int) : (s.setFldInt f i v).pending = s.pending := rfl
@[simp] theorem State.setFldInt_now (f : Field) (i : Nat) (v : Int) : (s.setFldInt f i v).now = s.now := rfl
@[simp] theorem State.setFldInt_freeCtr (f : Field) (i : Nat) (v : Int) : (s.setFldInt f i v).freeCtr = s.freeCtr := rfl
@[simp] theorem State.setFldInt_msix (f : Field) (i : Nat) (v : Int) : (s.setFldInt f i v).msix = s.msix := rfl
@[simp] theorem State.setFldInt_out (f : Field) (i : Nat) (v : Int) : (s.setFldInt f i v).out = s.out := rfl
@[simp] theorem State.setFldInt_buhorn (f : Field) (i : Nat) (v : Int) : (s.setFldInt f i v).buhorn = s.buhorn := rfl
@[simp] theorem State.setFldInt_handles (f : Field) (i : Nat) (v : Int) : (s.setFldInt f i v).handles = s.handles := rfl
@[simp] theorem State.setFldInt_seqs (f : Field) (i : Nat) (v : Int) : (s.setFldInt f i v).seqs = s.seqs := rfl
@[simp] theorem State.setFldInt_parts (f : Field) (i : Nat) (v : Int) : (s.setFldInt f i v).parts = s.parts := rfl
@[simp] theorem State.setFldInt_tenants (f : Field) (i : Nat) (v : Int) : (s.setFldInt f i v).tenants = s.tenants := rfl
@[simp] theorem State.setFldInt_weights (f : Field) (i : Nat) (v : Int) : (s.setFldInt f i v).weights = s.weights := rfl
@[simp] theorem State.setFldInt_churn (f : Field) (i : Nat) (v : Int) : (s.setFldInt f i v).churn = s.churn := rfl
@[simp] theorem State.setFldInt_tiers (f : Field) (i : Nat) (v : Int) : (s.setFldInt f i v).tiers = s.tiers := rfl
@[simp] theorem State.setFldInt_ftl (f : Field) (i : Nat) (v : Int) : (s.setFldInt f i v).ftl = s.ftl := rfl
@[simp] theorem State.setFldInt_dram (f : Field) (i : Nat) (v : Int) : (s.setFldInt f i v).dram = s.dram := rfl
@[simp] theorem State.setFldInt_poison (f : Field) (i : Nat) (v : Int) : (s.setFldInt f i v).poison = s.poison := rfl
@[simp] theorem State.setFldInt_staging (f : Field) (i : Nat) (v : Int) : (s.setFldInt f i v).staging = s.staging := rfl
@[simp] theorem State.setFldInt_gen (f : Field) (i : Nat) (v : Int) : (s.setFldInt f i v).gen = s.gen := rfl
@[simp] theorem State.setFldInt_prm (f : Field) (i : Nat) (v : Int) : (s.setFldInt f i v).prm = s.prm := rfl
@[simp] theorem State.setFldInt_asf (f : Field) (i : Nat) (v : Int) : (s.setFldInt f i v).asf = s.asf := rfl
@[simp] theorem State.setFldInt_tmb (f : Field) (i : Nat) (v : Int) : (s.setFldInt f i v).tmb = s.tmb := rfl
@[simp] theorem State.setFldInt_shp (f : Field) (i : Nat) (v : Int) : (s.setFldInt f i v).shp = s.shp := rfl
@[simp] theorem State.setFldInt_res (f : Field) (i : Nat) (v : Int) : (s.setFldInt f i v).res = s.res := rfl
@[simp] theorem State.setFldInt_pwr (f : Field) (i : Nat) (v : Int) : (s.setFldInt f i v).pwr = s.pwr := rfl
@[simp] theorem State.setFldInt_sec (f : Field) (i : Nat) (v : Int) : (s.setFldInt f i v).sec = s.sec := rfl
@[simp] theorem State.setFldInt_trace (f : Field) (i : Nat) (v : Int) : (s.setFldInt f i v).trace = s.trace := rfl
@[simp] theorem State.setFldInt_pln (f : Field) (i : Nat) (v : Int) : (s.setFldInt f i v).pln = s.pln := rfl

@[simp] theorem State.bump_pending (f : Field) (i n : Nat) : (s.bump f i n).pending = s.pending := rfl
@[simp] theorem State.bump_now (f : Field) (i n : Nat) : (s.bump f i n).now = s.now := rfl
@[simp] theorem State.bump_freeCtr (f : Field) (i n : Nat) : (s.bump f i n).freeCtr = s.freeCtr := rfl
@[simp] theorem State.bump_msix (f : Field) (i n : Nat) : (s.bump f i n).msix = s.msix := rfl
@[simp] theorem State.bump_out (f : Field) (i n : Nat) : (s.bump f i n).out = s.out := rfl
@[simp] theorem State.bump_buhorn (f : Field) (i n : Nat) : (s.bump f i n).buhorn = s.buhorn := rfl
@[simp] theorem State.bump_handles (f : Field) (i n : Nat) : (s.bump f i n).handles = s.handles := rfl
@[simp] theorem State.bump_seqs (f : Field) (i n : Nat) : (s.bump f i n).seqs = s.seqs := rfl
@[simp] theorem State.bump_parts (f : Field) (i n : Nat) : (s.bump f i n).parts = s.parts := rfl
@[simp] theorem State.bump_tenants (f : Field) (i n : Nat) : (s.bump f i n).tenants = s.tenants := rfl
@[simp] theorem State.bump_weights (f : Field) (i n : Nat) : (s.bump f i n).weights = s.weights := rfl
@[simp] theorem State.bump_churn (f : Field) (i n : Nat) : (s.bump f i n).churn = s.churn := rfl
@[simp] theorem State.bump_tiers (f : Field) (i n : Nat) : (s.bump f i n).tiers = s.tiers := rfl
@[simp] theorem State.bump_ftl (f : Field) (i n : Nat) : (s.bump f i n).ftl = s.ftl := rfl
@[simp] theorem State.bump_dram (f : Field) (i n : Nat) : (s.bump f i n).dram = s.dram := rfl
@[simp] theorem State.bump_poison (f : Field) (i n : Nat) : (s.bump f i n).poison = s.poison := rfl
@[simp] theorem State.bump_staging (f : Field) (i n : Nat) : (s.bump f i n).staging = s.staging := rfl
@[simp] theorem State.bump_gen (f : Field) (i n : Nat) : (s.bump f i n).gen = s.gen := rfl
@[simp] theorem State.bump_prm (f : Field) (i n : Nat) : (s.bump f i n).prm = s.prm := rfl
@[simp] theorem State.bump_asf (f : Field) (i n : Nat) : (s.bump f i n).asf = s.asf := rfl
@[simp] theorem State.bump_tmb (f : Field) (i n : Nat) : (s.bump f i n).tmb = s.tmb := rfl
@[simp] theorem State.bump_shp (f : Field) (i n : Nat) : (s.bump f i n).shp = s.shp := rfl
@[simp] theorem State.bump_res (f : Field) (i n : Nat) : (s.bump f i n).res = s.res := rfl
@[simp] theorem State.bump_pwr (f : Field) (i n : Nat) : (s.bump f i n).pwr = s.pwr := rfl
@[simp] theorem State.bump_sec (f : Field) (i n : Nat) : (s.bump f i n).sec = s.sec := rfl
@[simp] theorem State.bump_trace (f : Field) (i n : Nat) : (s.bump f i n).trace = s.trace := rfl
@[simp] theorem State.bump_pln (f : Field) (i n : Nat) : (s.bump f i n).pln = s.pln := rfl

@[simp] theorem State.bumpWrap_pending (f : Field) (i n : Nat) : (s.bumpWrap f i n).pending = s.pending := rfl
@[simp] theorem State.bumpWrap_now (f : Field) (i n : Nat) : (s.bumpWrap f i n).now = s.now := rfl
@[simp] theorem State.bumpWrap_freeCtr (f : Field) (i n : Nat) : (s.bumpWrap f i n).freeCtr = s.freeCtr := rfl
@[simp] theorem State.bumpWrap_msix (f : Field) (i n : Nat) : (s.bumpWrap f i n).msix = s.msix := rfl
@[simp] theorem State.bumpWrap_out (f : Field) (i n : Nat) : (s.bumpWrap f i n).out = s.out := rfl
@[simp] theorem State.bumpWrap_buhorn (f : Field) (i n : Nat) : (s.bumpWrap f i n).buhorn = s.buhorn := rfl
@[simp] theorem State.bumpWrap_handles (f : Field) (i n : Nat) : (s.bumpWrap f i n).handles = s.handles := rfl
@[simp] theorem State.bumpWrap_seqs (f : Field) (i n : Nat) : (s.bumpWrap f i n).seqs = s.seqs := rfl
@[simp] theorem State.bumpWrap_parts (f : Field) (i n : Nat) : (s.bumpWrap f i n).parts = s.parts := rfl
@[simp] theorem State.bumpWrap_tenants (f : Field) (i n : Nat) : (s.bumpWrap f i n).tenants = s.tenants := rfl
@[simp] theorem State.bumpWrap_weights (f : Field) (i n : Nat) : (s.bumpWrap f i n).weights = s.weights := rfl
@[simp] theorem State.bumpWrap_churn (f : Field) (i n : Nat) : (s.bumpWrap f i n).churn = s.churn := rfl
@[simp] theorem State.bumpWrap_tiers (f : Field) (i n : Nat) : (s.bumpWrap f i n).tiers = s.tiers := rfl
@[simp] theorem State.bumpWrap_ftl (f : Field) (i n : Nat) : (s.bumpWrap f i n).ftl = s.ftl := rfl
@[simp] theorem State.bumpWrap_dram (f : Field) (i n : Nat) : (s.bumpWrap f i n).dram = s.dram := rfl
@[simp] theorem State.bumpWrap_poison (f : Field) (i n : Nat) : (s.bumpWrap f i n).poison = s.poison := rfl
@[simp] theorem State.bumpWrap_staging (f : Field) (i n : Nat) : (s.bumpWrap f i n).staging = s.staging := rfl
@[simp] theorem State.bumpWrap_gen (f : Field) (i n : Nat) : (s.bumpWrap f i n).gen = s.gen := rfl
@[simp] theorem State.bumpWrap_prm (f : Field) (i n : Nat) : (s.bumpWrap f i n).prm = s.prm := rfl
@[simp] theorem State.bumpWrap_asf (f : Field) (i n : Nat) : (s.bumpWrap f i n).asf = s.asf := rfl
@[simp] theorem State.bumpWrap_tmb (f : Field) (i n : Nat) : (s.bumpWrap f i n).tmb = s.tmb := rfl
@[simp] theorem State.bumpWrap_shp (f : Field) (i n : Nat) : (s.bumpWrap f i n).shp = s.shp := rfl
@[simp] theorem State.bumpWrap_res (f : Field) (i n : Nat) : (s.bumpWrap f i n).res = s.res := rfl
@[simp] theorem State.bumpWrap_pwr (f : Field) (i n : Nat) : (s.bumpWrap f i n).pwr = s.pwr := rfl
@[simp] theorem State.bumpWrap_sec (f : Field) (i n : Nat) : (s.bumpWrap f i n).sec = s.sec := rfl
@[simp] theorem State.bumpWrap_trace (f : Field) (i n : Nat) : (s.bumpWrap f i n).trace = s.trace := rfl
@[simp] theorem State.bumpWrap_pln (f : Field) (i n : Nat) : (s.bumpWrap f i n).pln = s.pln := rfl

@[simp] theorem State.setFlag_pending (f : Field) (i : Nat) (b : Bool) : (s.setFlag f i b).pending = s.pending := rfl
@[simp] theorem State.setFlag_now (f : Field) (i : Nat) (b : Bool) : (s.setFlag f i b).now = s.now := rfl
@[simp] theorem State.setFlag_freeCtr (f : Field) (i : Nat) (b : Bool) : (s.setFlag f i b).freeCtr = s.freeCtr := rfl
@[simp] theorem State.setFlag_msix (f : Field) (i : Nat) (b : Bool) : (s.setFlag f i b).msix = s.msix := rfl
@[simp] theorem State.setFlag_out (f : Field) (i : Nat) (b : Bool) : (s.setFlag f i b).out = s.out := rfl
@[simp] theorem State.setFlag_buhorn (f : Field) (i : Nat) (b : Bool) : (s.setFlag f i b).buhorn = s.buhorn := rfl
@[simp] theorem State.setFlag_handles (f : Field) (i : Nat) (b : Bool) : (s.setFlag f i b).handles = s.handles := rfl
@[simp] theorem State.setFlag_seqs (f : Field) (i : Nat) (b : Bool) : (s.setFlag f i b).seqs = s.seqs := rfl
@[simp] theorem State.setFlag_parts (f : Field) (i : Nat) (b : Bool) : (s.setFlag f i b).parts = s.parts := rfl
@[simp] theorem State.setFlag_tenants (f : Field) (i : Nat) (b : Bool) : (s.setFlag f i b).tenants = s.tenants := rfl
@[simp] theorem State.setFlag_weights (f : Field) (i : Nat) (b : Bool) : (s.setFlag f i b).weights = s.weights := rfl
@[simp] theorem State.setFlag_churn (f : Field) (i : Nat) (b : Bool) : (s.setFlag f i b).churn = s.churn := rfl
@[simp] theorem State.setFlag_tiers (f : Field) (i : Nat) (b : Bool) : (s.setFlag f i b).tiers = s.tiers := rfl
@[simp] theorem State.setFlag_ftl (f : Field) (i : Nat) (b : Bool) : (s.setFlag f i b).ftl = s.ftl := rfl
@[simp] theorem State.setFlag_dram (f : Field) (i : Nat) (b : Bool) : (s.setFlag f i b).dram = s.dram := rfl
@[simp] theorem State.setFlag_poison (f : Field) (i : Nat) (b : Bool) : (s.setFlag f i b).poison = s.poison := rfl
@[simp] theorem State.setFlag_staging (f : Field) (i : Nat) (b : Bool) : (s.setFlag f i b).staging = s.staging := rfl
@[simp] theorem State.setFlag_gen (f : Field) (i : Nat) (b : Bool) : (s.setFlag f i b).gen = s.gen := rfl
@[simp] theorem State.setFlag_prm (f : Field) (i : Nat) (b : Bool) : (s.setFlag f i b).prm = s.prm := rfl
@[simp] theorem State.setFlag_asf (f : Field) (i : Nat) (b : Bool) : (s.setFlag f i b).asf = s.asf := rfl
@[simp] theorem State.setFlag_tmb (f : Field) (i : Nat) (b : Bool) : (s.setFlag f i b).tmb = s.tmb := rfl
@[simp] theorem State.setFlag_shp (f : Field) (i : Nat) (b : Bool) : (s.setFlag f i b).shp = s.shp := rfl
@[simp] theorem State.setFlag_res (f : Field) (i : Nat) (b : Bool) : (s.setFlag f i b).res = s.res := rfl
@[simp] theorem State.setFlag_pwr (f : Field) (i : Nat) (b : Bool) : (s.setFlag f i b).pwr = s.pwr := rfl
@[simp] theorem State.setFlag_sec (f : Field) (i : Nat) (b : Bool) : (s.setFlag f i b).sec = s.sec := rfl
@[simp] theorem State.setFlag_trace (f : Field) (i : Nat) (b : Bool) : (s.setFlag f i b).trace = s.trace := rfl
@[simp] theorem State.setFlag_pln (f : Field) (i : Nat) (b : Bool) : (s.setFlag f i b).pln = s.pln := rfl

@[simp] theorem State.emit_pending (o : Output) : (s.emit o).pending = s.pending := rfl
@[simp] theorem State.emit_now (o : Output) : (s.emit o).now = s.now := rfl
@[simp] theorem State.emit_freeCtr (o : Output) : (s.emit o).freeCtr = s.freeCtr := rfl
@[simp] theorem State.emit_regs (o : Output) : (s.emit o).regs = s.regs := rfl
@[simp] theorem State.emit_msix (o : Output) : (s.emit o).msix = s.msix := rfl
@[simp] theorem State.emit_buhorn (o : Output) : (s.emit o).buhorn = s.buhorn := rfl
@[simp] theorem State.emit_handles (o : Output) : (s.emit o).handles = s.handles := rfl
@[simp] theorem State.emit_seqs (o : Output) : (s.emit o).seqs = s.seqs := rfl
@[simp] theorem State.emit_parts (o : Output) : (s.emit o).parts = s.parts := rfl
@[simp] theorem State.emit_tenants (o : Output) : (s.emit o).tenants = s.tenants := rfl
@[simp] theorem State.emit_weights (o : Output) : (s.emit o).weights = s.weights := rfl
@[simp] theorem State.emit_churn (o : Output) : (s.emit o).churn = s.churn := rfl
@[simp] theorem State.emit_tiers (o : Output) : (s.emit o).tiers = s.tiers := rfl
@[simp] theorem State.emit_ftl (o : Output) : (s.emit o).ftl = s.ftl := rfl
@[simp] theorem State.emit_dram (o : Output) : (s.emit o).dram = s.dram := rfl
@[simp] theorem State.emit_poison (o : Output) : (s.emit o).poison = s.poison := rfl
@[simp] theorem State.emit_staging (o : Output) : (s.emit o).staging = s.staging := rfl
@[simp] theorem State.emit_gen (o : Output) : (s.emit o).gen = s.gen := rfl
@[simp] theorem State.emit_prm (o : Output) : (s.emit o).prm = s.prm := rfl
@[simp] theorem State.emit_asf (o : Output) : (s.emit o).asf = s.asf := rfl
@[simp] theorem State.emit_tmb (o : Output) : (s.emit o).tmb = s.tmb := rfl
@[simp] theorem State.emit_shp (o : Output) : (s.emit o).shp = s.shp := rfl
@[simp] theorem State.emit_res (o : Output) : (s.emit o).res = s.res := rfl
@[simp] theorem State.emit_pwr (o : Output) : (s.emit o).pwr = s.pwr := rfl
@[simp] theorem State.emit_sec (o : Output) : (s.emit o).sec = s.sec := rfl
@[simp] theorem State.emit_trace (o : Output) : (s.emit o).trace = s.trace := rfl
@[simp] theorem State.emit_pln (o : Output) : (s.emit o).pln = s.pln := rfl

@[simp] theorem State.workedUntil_pending (d : Nat) (t : Tick) : (s.workedUntil d t).pending = s.pending := rfl
@[simp] theorem State.workedUntil_now (d : Nat) (t : Tick) : (s.workedUntil d t).now = s.now := rfl
@[simp] theorem State.workedUntil_freeCtr (d : Nat) (t : Tick) : (s.workedUntil d t).freeCtr = s.freeCtr := rfl
@[simp] theorem State.workedUntil_regs (d : Nat) (t : Tick) : (s.workedUntil d t).regs = s.regs := rfl
@[simp] theorem State.workedUntil_msix (d : Nat) (t : Tick) : (s.workedUntil d t).msix = s.msix := rfl
@[simp] theorem State.workedUntil_out (d : Nat) (t : Tick) : (s.workedUntil d t).out = s.out := rfl
@[simp] theorem State.workedUntil_buhorn (d : Nat) (t : Tick) : (s.workedUntil d t).buhorn = s.buhorn := rfl
@[simp] theorem State.workedUntil_handles (d : Nat) (t : Tick) : (s.workedUntil d t).handles = s.handles := rfl
@[simp] theorem State.workedUntil_seqs (d : Nat) (t : Tick) : (s.workedUntil d t).seqs = s.seqs := rfl
@[simp] theorem State.workedUntil_parts (d : Nat) (t : Tick) : (s.workedUntil d t).parts = s.parts := rfl
@[simp] theorem State.workedUntil_tenants (d : Nat) (t : Tick) : (s.workedUntil d t).tenants = s.tenants := rfl
@[simp] theorem State.workedUntil_weights (d : Nat) (t : Tick) : (s.workedUntil d t).weights = s.weights := rfl
@[simp] theorem State.workedUntil_churn (d : Nat) (t : Tick) : (s.workedUntil d t).churn = s.churn := rfl
@[simp] theorem State.workedUntil_tiers (d : Nat) (t : Tick) : (s.workedUntil d t).tiers = s.tiers := rfl
@[simp] theorem State.workedUntil_ftl (d : Nat) (t : Tick) : (s.workedUntil d t).ftl = s.ftl := rfl
@[simp] theorem State.workedUntil_dram (d : Nat) (t : Tick) : (s.workedUntil d t).dram = s.dram := rfl
@[simp] theorem State.workedUntil_poison (d : Nat) (t : Tick) : (s.workedUntil d t).poison = s.poison := rfl
@[simp] theorem State.workedUntil_staging (d : Nat) (t : Tick) : (s.workedUntil d t).staging = s.staging := rfl
@[simp] theorem State.workedUntil_gen (d : Nat) (t : Tick) : (s.workedUntil d t).gen = s.gen := rfl
@[simp] theorem State.workedUntil_prm (d : Nat) (t : Tick) : (s.workedUntil d t).prm = s.prm := rfl
@[simp] theorem State.workedUntil_asf (d : Nat) (t : Tick) : (s.workedUntil d t).asf = s.asf := rfl
@[simp] theorem State.workedUntil_tmb (d : Nat) (t : Tick) : (s.workedUntil d t).tmb = s.tmb := rfl
@[simp] theorem State.workedUntil_shp (d : Nat) (t : Tick) : (s.workedUntil d t).shp = s.shp := rfl
@[simp] theorem State.workedUntil_res (d : Nat) (t : Tick) : (s.workedUntil d t).res = s.res := rfl
@[simp] theorem State.workedUntil_sec (d : Nat) (t : Tick) : (s.workedUntil d t).sec = s.sec := rfl
@[simp] theorem State.workedUntil_trace (d : Nat) (t : Tick) : (s.workedUntil d t).trace = s.trace := rfl
@[simp] theorem State.workedUntil_pln (d : Nat) (t : Tick) : (s.workedUntil d t).pln = s.pln := rfl

@[simp] theorem State.setPart_pending (p : Nat) (x : Part) : (s.setPart p x).pending = s.pending := rfl
@[simp] theorem State.setPart_now (p : Nat) (x : Part) : (s.setPart p x).now = s.now := rfl
@[simp] theorem State.setPart_freeCtr (p : Nat) (x : Part) : (s.setPart p x).freeCtr = s.freeCtr := rfl
@[simp] theorem State.setPart_regs (p : Nat) (x : Part) : (s.setPart p x).regs = s.regs := rfl
@[simp] theorem State.setPart_msix (p : Nat) (x : Part) : (s.setPart p x).msix = s.msix := rfl
@[simp] theorem State.setPart_out (p : Nat) (x : Part) : (s.setPart p x).out = s.out := rfl
@[simp] theorem State.setPart_buhorn (p : Nat) (x : Part) : (s.setPart p x).buhorn = s.buhorn := rfl
@[simp] theorem State.setPart_handles (p : Nat) (x : Part) : (s.setPart p x).handles = s.handles := rfl
@[simp] theorem State.setPart_seqs (p : Nat) (x : Part) : (s.setPart p x).seqs = s.seqs := rfl
@[simp] theorem State.setPart_tenants (p : Nat) (x : Part) : (s.setPart p x).tenants = s.tenants := rfl
@[simp] theorem State.setPart_weights (p : Nat) (x : Part) : (s.setPart p x).weights = s.weights := rfl
@[simp] theorem State.setPart_churn (p : Nat) (x : Part) : (s.setPart p x).churn = s.churn := rfl
@[simp] theorem State.setPart_tiers (p : Nat) (x : Part) : (s.setPart p x).tiers = s.tiers := rfl
@[simp] theorem State.setPart_ftl (p : Nat) (x : Part) : (s.setPart p x).ftl = s.ftl := rfl
@[simp] theorem State.setPart_dram (p : Nat) (x : Part) : (s.setPart p x).dram = s.dram := rfl
@[simp] theorem State.setPart_poison (p : Nat) (x : Part) : (s.setPart p x).poison = s.poison := rfl
@[simp] theorem State.setPart_staging (p : Nat) (x : Part) : (s.setPart p x).staging = s.staging := rfl
@[simp] theorem State.setPart_gen (p : Nat) (x : Part) : (s.setPart p x).gen = s.gen := rfl
@[simp] theorem State.setPart_prm (p : Nat) (x : Part) : (s.setPart p x).prm = s.prm := rfl
@[simp] theorem State.setPart_asf (p : Nat) (x : Part) : (s.setPart p x).asf = s.asf := rfl
@[simp] theorem State.setPart_tmb (p : Nat) (x : Part) : (s.setPart p x).tmb = s.tmb := rfl
@[simp] theorem State.setPart_shp (p : Nat) (x : Part) : (s.setPart p x).shp = s.shp := rfl
@[simp] theorem State.setPart_res (p : Nat) (x : Part) : (s.setPart p x).res = s.res := rfl
@[simp] theorem State.setPart_pwr (p : Nat) (x : Part) : (s.setPart p x).pwr = s.pwr := rfl
@[simp] theorem State.setPart_sec (p : Nat) (x : Part) : (s.setPart p x).sec = s.sec := rfl
@[simp] theorem State.setPart_trace (p : Nat) (x : Part) : (s.setPart p x).trace = s.trace := rfl
@[simp] theorem State.setPart_pln (p : Nat) (x : Part) : (s.setPart p x).pln = s.pln := rfl

@[simp] theorem State.modPart_pending (p : Nat) (f : Part → Part) : (s.modPart p f).pending = s.pending := rfl
@[simp] theorem State.modPart_now (p : Nat) (f : Part → Part) : (s.modPart p f).now = s.now := rfl
@[simp] theorem State.modPart_freeCtr (p : Nat) (f : Part → Part) : (s.modPart p f).freeCtr = s.freeCtr := rfl
@[simp] theorem State.modPart_regs (p : Nat) (f : Part → Part) : (s.modPart p f).regs = s.regs := rfl
@[simp] theorem State.modPart_msix (p : Nat) (f : Part → Part) : (s.modPart p f).msix = s.msix := rfl
@[simp] theorem State.modPart_out (p : Nat) (f : Part → Part) : (s.modPart p f).out = s.out := rfl
@[simp] theorem State.modPart_buhorn (p : Nat) (f : Part → Part) : (s.modPart p f).buhorn = s.buhorn := rfl
@[simp] theorem State.modPart_handles (p : Nat) (f : Part → Part) : (s.modPart p f).handles = s.handles := rfl
@[simp] theorem State.modPart_seqs (p : Nat) (f : Part → Part) : (s.modPart p f).seqs = s.seqs := rfl
@[simp] theorem State.modPart_tenants (p : Nat) (f : Part → Part) : (s.modPart p f).tenants = s.tenants := rfl
@[simp] theorem State.modPart_weights (p : Nat) (f : Part → Part) : (s.modPart p f).weights = s.weights := rfl
@[simp] theorem State.modPart_churn (p : Nat) (f : Part → Part) : (s.modPart p f).churn = s.churn := rfl
@[simp] theorem State.modPart_tiers (p : Nat) (f : Part → Part) : (s.modPart p f).tiers = s.tiers := rfl
@[simp] theorem State.modPart_ftl (p : Nat) (f : Part → Part) : (s.modPart p f).ftl = s.ftl := rfl
@[simp] theorem State.modPart_dram (p : Nat) (f : Part → Part) : (s.modPart p f).dram = s.dram := rfl
@[simp] theorem State.modPart_poison (p : Nat) (f : Part → Part) : (s.modPart p f).poison = s.poison := rfl
@[simp] theorem State.modPart_staging (p : Nat) (f : Part → Part) : (s.modPart p f).staging = s.staging := rfl
@[simp] theorem State.modPart_gen (p : Nat) (f : Part → Part) : (s.modPart p f).gen = s.gen := rfl
@[simp] theorem State.modPart_prm (p : Nat) (f : Part → Part) : (s.modPart p f).prm = s.prm := rfl
@[simp] theorem State.modPart_asf (p : Nat) (f : Part → Part) : (s.modPart p f).asf = s.asf := rfl
@[simp] theorem State.modPart_tmb (p : Nat) (f : Part → Part) : (s.modPart p f).tmb = s.tmb := rfl
@[simp] theorem State.modPart_shp (p : Nat) (f : Part → Part) : (s.modPart p f).shp = s.shp := rfl
@[simp] theorem State.modPart_res (p : Nat) (f : Part → Part) : (s.modPart p f).res = s.res := rfl
@[simp] theorem State.modPart_pwr (p : Nat) (f : Part → Part) : (s.modPart p f).pwr = s.pwr := rfl
@[simp] theorem State.modPart_sec (p : Nat) (f : Part → Part) : (s.modPart p f).sec = s.sec := rfl
@[simp] theorem State.modPart_trace (p : Nat) (f : Part → Part) : (s.modPart p f).trace = s.trace := rfl
@[simp] theorem State.modPart_pln (p : Nat) (f : Part → Part) : (s.modPart p f).pln = s.pln := rfl

@[simp] theorem State.modSeq_pending (h : Nat) (f : Seq → Seq) : (s.modSeq h f).pending = s.pending := rfl
@[simp] theorem State.modSeq_now (h : Nat) (f : Seq → Seq) : (s.modSeq h f).now = s.now := rfl
@[simp] theorem State.modSeq_freeCtr (h : Nat) (f : Seq → Seq) : (s.modSeq h f).freeCtr = s.freeCtr := rfl
@[simp] theorem State.modSeq_regs (h : Nat) (f : Seq → Seq) : (s.modSeq h f).regs = s.regs := rfl
@[simp] theorem State.modSeq_msix (h : Nat) (f : Seq → Seq) : (s.modSeq h f).msix = s.msix := rfl
@[simp] theorem State.modSeq_out (h : Nat) (f : Seq → Seq) : (s.modSeq h f).out = s.out := rfl
@[simp] theorem State.modSeq_buhorn (h : Nat) (f : Seq → Seq) : (s.modSeq h f).buhorn = s.buhorn := rfl
@[simp] theorem State.modSeq_handles (h : Nat) (f : Seq → Seq) : (s.modSeq h f).handles = s.handles := rfl
@[simp] theorem State.modSeq_parts (h : Nat) (f : Seq → Seq) : (s.modSeq h f).parts = s.parts := rfl
@[simp] theorem State.modSeq_tenants (h : Nat) (f : Seq → Seq) : (s.modSeq h f).tenants = s.tenants := rfl
@[simp] theorem State.modSeq_weights (h : Nat) (f : Seq → Seq) : (s.modSeq h f).weights = s.weights := rfl
@[simp] theorem State.modSeq_churn (h : Nat) (f : Seq → Seq) : (s.modSeq h f).churn = s.churn := rfl
@[simp] theorem State.modSeq_tiers (h : Nat) (f : Seq → Seq) : (s.modSeq h f).tiers = s.tiers := rfl
@[simp] theorem State.modSeq_ftl (h : Nat) (f : Seq → Seq) : (s.modSeq h f).ftl = s.ftl := rfl
@[simp] theorem State.modSeq_dram (h : Nat) (f : Seq → Seq) : (s.modSeq h f).dram = s.dram := rfl
@[simp] theorem State.modSeq_poison (h : Nat) (f : Seq → Seq) : (s.modSeq h f).poison = s.poison := rfl
@[simp] theorem State.modSeq_staging (h : Nat) (f : Seq → Seq) : (s.modSeq h f).staging = s.staging := rfl
@[simp] theorem State.modSeq_gen (h : Nat) (f : Seq → Seq) : (s.modSeq h f).gen = s.gen := rfl
@[simp] theorem State.modSeq_prm (h : Nat) (f : Seq → Seq) : (s.modSeq h f).prm = s.prm := rfl
@[simp] theorem State.modSeq_asf (h : Nat) (f : Seq → Seq) : (s.modSeq h f).asf = s.asf := rfl
@[simp] theorem State.modSeq_tmb (h : Nat) (f : Seq → Seq) : (s.modSeq h f).tmb = s.tmb := rfl
@[simp] theorem State.modSeq_shp (h : Nat) (f : Seq → Seq) : (s.modSeq h f).shp = s.shp := rfl
@[simp] theorem State.modSeq_res (h : Nat) (f : Seq → Seq) : (s.modSeq h f).res = s.res := rfl
@[simp] theorem State.modSeq_pwr (h : Nat) (f : Seq → Seq) : (s.modSeq h f).pwr = s.pwr := rfl
@[simp] theorem State.modSeq_sec (h : Nat) (f : Seq → Seq) : (s.modSeq h f).sec = s.sec := rfl
@[simp] theorem State.modSeq_trace (h : Nat) (f : Seq → Seq) : (s.modSeq h f).trace = s.trace := rfl
@[simp] theorem State.modSeq_pln (h : Nat) (f : Seq → Seq) : (s.modSeq h f).pln = s.pln := rfl

@[simp] theorem State.modQueue_pending (n : Nat) (f : Queue → Queue) : (s.modQueue n f).pending = s.pending := rfl
@[simp] theorem State.modQueue_now (n : Nat) (f : Queue → Queue) : (s.modQueue n f).now = s.now := rfl
@[simp] theorem State.modQueue_freeCtr (n : Nat) (f : Queue → Queue) : (s.modQueue n f).freeCtr = s.freeCtr := rfl
@[simp] theorem State.modQueue_regs (n : Nat) (f : Queue → Queue) : (s.modQueue n f).regs = s.regs := rfl
@[simp] theorem State.modQueue_msix (n : Nat) (f : Queue → Queue) : (s.modQueue n f).msix = s.msix := rfl
@[simp] theorem State.modQueue_out (n : Nat) (f : Queue → Queue) : (s.modQueue n f).out = s.out := rfl
@[simp] theorem State.modQueue_handles (n : Nat) (f : Queue → Queue) : (s.modQueue n f).handles = s.handles := rfl
@[simp] theorem State.modQueue_seqs (n : Nat) (f : Queue → Queue) : (s.modQueue n f).seqs = s.seqs := rfl
@[simp] theorem State.modQueue_parts (n : Nat) (f : Queue → Queue) : (s.modQueue n f).parts = s.parts := rfl
@[simp] theorem State.modQueue_tenants (n : Nat) (f : Queue → Queue) : (s.modQueue n f).tenants = s.tenants := rfl
@[simp] theorem State.modQueue_weights (n : Nat) (f : Queue → Queue) : (s.modQueue n f).weights = s.weights := rfl
@[simp] theorem State.modQueue_churn (n : Nat) (f : Queue → Queue) : (s.modQueue n f).churn = s.churn := rfl
@[simp] theorem State.modQueue_tiers (n : Nat) (f : Queue → Queue) : (s.modQueue n f).tiers = s.tiers := rfl
@[simp] theorem State.modQueue_ftl (n : Nat) (f : Queue → Queue) : (s.modQueue n f).ftl = s.ftl := rfl
@[simp] theorem State.modQueue_dram (n : Nat) (f : Queue → Queue) : (s.modQueue n f).dram = s.dram := rfl
@[simp] theorem State.modQueue_poison (n : Nat) (f : Queue → Queue) : (s.modQueue n f).poison = s.poison := rfl
@[simp] theorem State.modQueue_staging (n : Nat) (f : Queue → Queue) : (s.modQueue n f).staging = s.staging := rfl
@[simp] theorem State.modQueue_gen (n : Nat) (f : Queue → Queue) : (s.modQueue n f).gen = s.gen := rfl
@[simp] theorem State.modQueue_prm (n : Nat) (f : Queue → Queue) : (s.modQueue n f).prm = s.prm := rfl
@[simp] theorem State.modQueue_asf (n : Nat) (f : Queue → Queue) : (s.modQueue n f).asf = s.asf := rfl
@[simp] theorem State.modQueue_tmb (n : Nat) (f : Queue → Queue) : (s.modQueue n f).tmb = s.tmb := rfl
@[simp] theorem State.modQueue_shp (n : Nat) (f : Queue → Queue) : (s.modQueue n f).shp = s.shp := rfl
@[simp] theorem State.modQueue_res (n : Nat) (f : Queue → Queue) : (s.modQueue n f).res = s.res := rfl
@[simp] theorem State.modQueue_pwr (n : Nat) (f : Queue → Queue) : (s.modQueue n f).pwr = s.pwr := rfl
@[simp] theorem State.modQueue_sec (n : Nat) (f : Queue → Queue) : (s.modQueue n f).sec = s.sec := rfl
@[simp] theorem State.modQueue_trace (n : Nat) (f : Queue → Queue) : (s.modQueue n f).trace = s.trace := rfl
@[simp] theorem State.modQueue_pln (n : Nat) (f : Queue → Queue) : (s.modQueue n f).pln = s.pln := rfl

@[simp] theorem State.modCmd_pending (id : Nat) (f : Pend → Pend) : (s.modCmd id f).pending = s.pending := rfl
@[simp] theorem State.modCmd_now (id : Nat) (f : Pend → Pend) : (s.modCmd id f).now = s.now := rfl
@[simp] theorem State.modCmd_freeCtr (id : Nat) (f : Pend → Pend) : (s.modCmd id f).freeCtr = s.freeCtr := rfl
@[simp] theorem State.modCmd_regs (id : Nat) (f : Pend → Pend) : (s.modCmd id f).regs = s.regs := rfl
@[simp] theorem State.modCmd_msix (id : Nat) (f : Pend → Pend) : (s.modCmd id f).msix = s.msix := rfl
@[simp] theorem State.modCmd_out (id : Nat) (f : Pend → Pend) : (s.modCmd id f).out = s.out := rfl
@[simp] theorem State.modCmd_handles (id : Nat) (f : Pend → Pend) : (s.modCmd id f).handles = s.handles := rfl
@[simp] theorem State.modCmd_seqs (id : Nat) (f : Pend → Pend) : (s.modCmd id f).seqs = s.seqs := rfl
@[simp] theorem State.modCmd_parts (id : Nat) (f : Pend → Pend) : (s.modCmd id f).parts = s.parts := rfl
@[simp] theorem State.modCmd_tenants (id : Nat) (f : Pend → Pend) : (s.modCmd id f).tenants = s.tenants := rfl
@[simp] theorem State.modCmd_weights (id : Nat) (f : Pend → Pend) : (s.modCmd id f).weights = s.weights := rfl
@[simp] theorem State.modCmd_churn (id : Nat) (f : Pend → Pend) : (s.modCmd id f).churn = s.churn := rfl
@[simp] theorem State.modCmd_tiers (id : Nat) (f : Pend → Pend) : (s.modCmd id f).tiers = s.tiers := rfl
@[simp] theorem State.modCmd_ftl (id : Nat) (f : Pend → Pend) : (s.modCmd id f).ftl = s.ftl := rfl
@[simp] theorem State.modCmd_dram (id : Nat) (f : Pend → Pend) : (s.modCmd id f).dram = s.dram := rfl
@[simp] theorem State.modCmd_poison (id : Nat) (f : Pend → Pend) : (s.modCmd id f).poison = s.poison := rfl
@[simp] theorem State.modCmd_staging (id : Nat) (f : Pend → Pend) : (s.modCmd id f).staging = s.staging := rfl
@[simp] theorem State.modCmd_gen (id : Nat) (f : Pend → Pend) : (s.modCmd id f).gen = s.gen := rfl
@[simp] theorem State.modCmd_prm (id : Nat) (f : Pend → Pend) : (s.modCmd id f).prm = s.prm := rfl
@[simp] theorem State.modCmd_asf (id : Nat) (f : Pend → Pend) : (s.modCmd id f).asf = s.asf := rfl
@[simp] theorem State.modCmd_tmb (id : Nat) (f : Pend → Pend) : (s.modCmd id f).tmb = s.tmb := rfl
@[simp] theorem State.modCmd_shp (id : Nat) (f : Pend → Pend) : (s.modCmd id f).shp = s.shp := rfl
@[simp] theorem State.modCmd_res (id : Nat) (f : Pend → Pend) : (s.modCmd id f).res = s.res := rfl
@[simp] theorem State.modCmd_pwr (id : Nat) (f : Pend → Pend) : (s.modCmd id f).pwr = s.pwr := rfl
@[simp] theorem State.modCmd_sec (id : Nat) (f : Pend → Pend) : (s.modCmd id f).sec = s.sec := rfl
@[simp] theorem State.modCmd_trace (id : Nat) (f : Pend → Pend) : (s.modCmd id f).trace = s.trace := rfl
@[simp] theorem State.modCmd_pln (id : Nat) (f : Pend → Pend) : (s.modCmd id f).pln = s.pln := rfl

@[simp] theorem State.emit_out (o : Output) : (s.emit o).out = o :: s.out := rfl
@[simp] theorem State.setPart_parts (p : Nat) (x : Part) : (s.setPart p x).parts = mset s.parts p x := rfl
@[simp] theorem State.modSeq_seqs (h : Nat) (f : Seq → Seq) : (s.modSeq h f).seqs = mmod s.seqs h f := rfl

end Sys2Proof.Machine
end

