-- ==== Sys2Proof/Tests/Slice0.lean ====
section
/-! SUPPORT. Tests: ill-formed operands that WellFormed refuses, one step of some commands on small states, and for every statement
with hypotheses a state and operands that meet them, clause by clause. -/

set_option Elab.async false

namespace Sys2Proof.Tests

open Sys2Proof.Machine

/-- The device at stage READY. -/
def ready : State := State.reset.setFld plnBoot_stage 0 7

/-- A packet with a tag, an object and parameters. -/
def packet (op obj params : Nat) : Packet := ⟨BitVec.ofNat 8 op, 0, 1, BitVec.ofNat 32 obj, 0, 0, BitVec.ofNat 384 params⟩

/-- A command that queue 40 holds. -/
def cmd (op obj params : Nat) : Cmd := ⟨40, packet op obj params⟩

/-- A command queue of a function that holds one fetched packet. -/
def asker (fn : Nat) (k : Packet) : Queue := { Queue.fresh 0 0 fn 16 with fetched := [k], reply := 41 }

/-- A state with a queue added. -/
def withQueue (s : State) (n : Nat) (q : Queue) : State :=
  { s with buhorn := { s.buhorn with queues := mset s.buhorn.queues n q } }

/-- A state in which queue 40 of a function holds a command. -/
def asks (s : State) (fn : Nat) (c : Cmd) : State := withQueue s 40 (asker fn c.pkt)

/-- A command that is accepted and due is taken. -/
theorem takes_of {s : State} {op : Nat} {c : Cmd} {words : List (BitVec 32)} {code : BitVec 12} {fn : Nat}
    (h : ((asks s fn c).handsOn op c (asker fn c.pkt) && (asks s fn c).passes c (asker fn c.pkt) &&
      !(asks s fn c).flipHolds fn c.pkt && !(asks s fn c).defers fn c.pkt) = true) :
    (asks s fn c).takes op c words code ((asks s fn c).pend c fn words code)
      ((asks s fn c).enter c ((asks s fn c).pend c fn words code)) := by
  simp only [Bool.and_eq_true, Bool.not_eq_true'] at h
  exact ⟨asker fn c.pkt, h.1.1.1, h.1.1.2, h.1.2, h.2, rfl, rfl⟩

/-- An answer that is there. -/
theorem there {α : Type} {o : Option α} (h : o.isSome = true) : o = some (o.get h) := (Option.some_get h).symm

/-- An answer of two parts that is there. -/
theorem there_pair {α β : Type} {o : Option (α × β)} (h : o.isSome = true) : o = some ((o.get h).1, (o.get h).2) :=
  (Option.some_get h).symm

/-- The parts of an answer with a status of 0. -/
theorem ok_parts {α : Type} {x : α × Nat × Nat} (h : x.2.1 = 0) : x = (x.1, 0, x.2.2) := by
  rw [← h]

/-- A geometry of one layer, one head and a head dimension of 32. -/
def geo : List Cell := [(0, 1), (2, 1), (3, 1), (4, 32), (19, 0x3F), (276, 1), (2051, 0x3F), (2055, 0x3F)]

/-- A weight set of that geometry. -/
def weights : WeightSet := { WeightSet.empty with geometry := geo }

/-- A sequence of partition 0 in a state, of the weight set 0, with room for ten pages, the first assigned. -/
def seqIn (x : SeqState) : Seq :=
  { newSeq (ready.pend (cmd 0x10 0 0) 1 [] 0) geo (6, 2) with state := x, limit := 10240, tpp := 1024, pages := [(0, 256)] }

/-- A state with the weight set 0 and the sequence 7. -/
def holding (s : State) (q : Seq) : State := { s with seqs := [(7, q)], weights := [(0, weights)] }

/-- A state that is node 5 of a fabric of two nodes, with port 0 up, a slice at node 6 and node 6 its partner. -/
def joined : State :=
  let s := ((ready.setFld asfNode_node 0 5).setFlag resPartner_valid 4 true).setFld resPartner_node 4 6
  { s with
    asf := { s.asf with map := [(5, ⟨0, true, 255, 0, 0⟩), (6, ⟨2, true, 255, 0, 0⟩)], links := [0] }
    res := { s.res with grants := [(6, ⟨0, 100, []⟩)] } }

/-- A table of one entry. -/
def table : Table := ⟨[⟨0, 1000, 0, 0, 0, 1, false, 0, 0, 1⟩], 40000, 0⟩

/-- A state whose partition 0 has that table active. -/
def tabled (s : State) : State := s.modPart 0 fun x => { x with active := some table }

/-- An open connection of the management function to node 6. -/
def conn : Conn := { Conn.fresh 0 6 0 0 with state := .open_, remote := 9 }

/-- A state with connection 3. -/
def linked (s : State) (k : Conn) : State := { s with asf := { s.asf with conns := [(3, k)] } }

/-- A state 250 seconds on. -/
def later (s : State) : State := { s with now := 10 ^ 12 }

/-- A state whose partition 0 stands in a sync group of one member, at point 0. -/
def grouped : State :=
  (later ((tabled ready).setFld schGroup_members 0 1)).modPart 0 fun x =>
    { x with reached := [(0, 0)], syncs := [⟨0, 0, 65535, 0, 0, 0, 0, 0, 0, none⟩] }

/-- A move of the sequence 7. -/
def leavingMove : Move := Move.begun 6 0 0 7

/-- A move of node 6's sequence 9 to here. -/
def comingMove : Move := { Move.begun 6 0 0 9 with incoming := true, received := [0] }

/-- A state with sequence 7 moving. -/
def moving (m : Move) : State := holding joined { seqIn .moving with move := some m }

/-- A test descriptor of unit 31. -/
def testDesc : BitVec 256 := BitVec.ofNat 256 (6 + 2 ^ 95 + 2 ^ 224)

/-- What a near-bank operation brings when nothing went wrong. -/
def nothing : NbInput := ⟨[], 0, .bytes [], [], [], false, 0⟩

/-- A state in which channel 63 runs an operation of partition 15. -/
def running (now : Nat) : State :=
  let s := ready.modChan 63 fun x => { x with running := some (15, testDesc, 0) }
  { s with now := now }

/-- A state in which the entry of partition 0's table runs. -/
def kernelRuns : State :=
  (tabled ((ready.setFld prmGroup_state 0 1).setFld prmGroup_owner 0 0)).modPart 0 fun x => { x with runs := [(0, .running 0)] }

/-- A table of one near-bank attention entry. -/
def attention : Table := ⟨[⟨0, 1000, 0, 255, 0, 2, false, 0, 0, 2⟩], 40000, 0⟩

/-- A state in which that entry is due for sequence 7. -/
def attends (q : Seq) : State :=
  (later (holding joined q)).modPart 0 fun x => { x with active := some attention, batch := [7] }

/-- A state with a page of sequence 7 in frame 3 of tier 1. -/
def paged (s : State) : State :=
  { s with tiers := { s.tiers with
      frames := [(3, .home 256)], pressure := true, pages := [(256, ⟨1, false, 0, false, 0, 3⟩)]
      groups := [(256, ⟨7, 0, false, false, false, 1, some 40, true⟩)] } }

/-- A state whose flash layer is in service with one target of four blocks. -/
def flashed (blocks : AMap Block) : State :=
  let s := later ready
  { s with ftl := { s.ftl with inService := true, targets := [⟨0, 16384, 2048, 4, 256⟩], blocks := blocks } }

/-- A state in which page 256 moves between its granule 40 and tier `t`. -/
def pageMoves (s : State) (t loc : Nat) : State :=
  { s with tiers := { s.tiers with
      groups := [(256, ⟨7, 0, false, false, false, 1, some 40, true⟩)], moves := [(256, ⟨t, 0, loc, false, t = 3, none⟩)] } }

/-- A frame of node 6's connection 9 to connection 3. -/
def frame (op : BitVec 8) : Frame := { Frame.zero with op := op, srcNode := 6, dstNode := 5, dstConn := 3, srcConn := 9 }

/-- That frame with a payload of 32 bytes. -/
def beat (op : BitVec 8) (first : List (BitVec 8)) : Frame :=
  { frame op with payload := first ++ List.replicate (32 - first.length) 0 }

/-- A frame that port 0 takes. -/
def takes (f : Frame) : Rx := ⟨0, true, false, f⟩

/-- An operation that was sent at tick 0. -/
def sent : Sent := ⟨0, frame 3, .windowWrite, 0, true, false, false, []⟩

/-- A manager that watches node 6. -/
def watching (x : Watched) : State :=
  let s := ((later joined).setFlag resCtrl_enable 0 true).setFlag resStat_managing 0 true
  { s with res := { s.res with watch := [(6, x)] } }

/-- A deputy of manager 6. -/
def deputy (x : Watched) : State :=
  (((watching x).setFlag resStat_managing 0 false).setFld resMgr_acting 0 6).setFld resDeputy_dep0 0 5

/-- A state whose domain 100 wakes. -/
def wakes : State :=
  let s := (later ready).setFld pwrDomStat_state 100 3
  { s with pwr := { s.pwr with waking := [(100, (1, 0))], loops := [(25, 0)] } }

/-- A state with a voltage raise under way. -/
def raises (r : Raise) : State :=
  let s := later ready
  { s with pwr := { s.pwr with raise := some r } }

/-- A state whose rack manager is a node. -/
def racked (m : Nat) : State := (joined.setFld resMgr_manager 0 m).setFld resMgr_acting 0 m

/-- A state whose SPDM connection is at a phase. -/
def spdmAt (n : Nat) : State :=
  { ready with sec := { ready.sec with spdm := ⟨n, 0x13, 0, []⟩, identity := some ⟨[], 0, 0, []⟩ } }

/-- The block at a start-up stage. -/
def stageIs (n : Nat) : State := State.reset.setFld plnBoot_stage 0 n

/-- A state in which the SMBus alert stands and one record is unread. -/
def alerted : State :=
  let s := ready.setReg .resPlinthRec 127 9
  { s with pln := { s.pln with alert := true }, res := { s.res with unread := [9] } }

/-- A state in which an input is asserted since tick 0, with an event at tick 0. -/
def asserted (i : Nat) : State :=
  let s := later ready
  { s with pln := { s.pln with inputs := [(i, ⟨some 0, false, true, 0⟩)] } }

/-- A table of one near-bank weight entry, of layer 3 on channel 0. -/
def nearTable (cls : Nat) : Table := ⟨[⟨0, 1000, 0, 0, 3, cls, false, 0, 1, 2⟩], 40000, 0⟩

/-- A state in which that entry is due and its channel is held in memory mode. -/
def weighted : State :=
  let s := ((later (holding joined (seqIn .stepping))).setFlag genChmode_forceMem 0 true).modPart 0 fun x =>
    { x with active := some (nearTable 2), batch := [7], channelMask := 1, thin := [3] }
  { s with weights := [(0, { weights with nearAt := [(3 * 2 ^ 40, 0)] })] }

/-- A state in which the unit 0 of channel 0 runs that entry, and a replay sample is due. -/
def samples : State :=
  ((tabled ready).modPart 0 fun x =>
    { x with active := some (nearTable 2), channelMask := 1, runs := [(0, .running 0)] }).setFld prmReplay_interval 0 1

/-- A sample of that entry that gave 5. -/
def unitSample (out : BitVec 32) : Sample := ⟨0, 0, .unit 0 0, none, [5], [out], 0⟩

/-- A state with a table of one IDLE entry, where a sample waits. -/
def sampled (out : BitVec 32) : State :=
  let s := (tabled ready).modPart 0 fun x => { x with active := some (nearTable 5), channelMask := 1 }
  { s with prm := { s.prm with sample := some (unitSample out) } }

/-- A state with an IDLE slot, in which a test of tile 199 is owed and tests are on. -/
def idles : State :=
  let s := (((tabled ready).modPart 0 fun x => { x with active := some (nearTable 5), channelMask := 1 }).setFlag prmSelftest_enable 0 true
    ).setFld prmSelftest_patterns 0 1
  { s with prm := { s.prm with mustTest := [199] } }

/-- The weight set in the processor layout. -/
def nearWeights : WeightSet := { weights with layers := [(0, ⟨false, true⟩)] }

/-- A state in which sequence 7 holds the draft ring 0. -/
def drafts : State :=
  let s := holding ready { seqIn .stepping with ring := some (0, true) }
  { s with weights := [(0, nearWeights)], gen := { s.gen with draftGroup := 1, draftModel := 0 } }

/-- A MATVEC descriptor of unit 31. -/
def matvecDesc : BitVec 256 := BitVec.ofNat 256 (1 + 2 ^ 95 + 2 ^ 224)

/-- A state in which that operation reads a poisoned sector. -/
def reads : State :=
  let s := ready.modChan 63 fun x => { x with running := some (15, matvecDesc, 0) }
  { s with poison := [pairAddr 63 31 0 / 32] }

/-! ### What meets the hypotheses of each statement, clause by clause -/

theorem test_witness_AdminCommandsComplete :
    (∃ (s : State) (c : Cmd) (q : Queue), s.handsOn c.pkt.opcode.toNat c q = true ∧ listedOps.contains c.pkt.opcode.toNat =
      false) ∧
    (∃ (s : State) (c : Cmd) (d : Pend) (e : State), s.takes 0x00 c [] 0 d e) ∧
    (∃ (s : State) (c : Cmd) (d : Pend) (e : State), s.takes 0xF0 c [] 0 d e) ∧
    (∃ (s : State) (c : Cmd) (d : Pend) (e : State), s.takes 0x61 c [] 0 d e) ∧
    (∃ (s : State) (c : Cmd) (d : Pend) (e : State), s.takes 0x62 c [] 0 d e ∧ d.par 16 1 ≠ 1) ∧
    (∃ (s : State) (c : Cmd) (d : Pend) (e : State), s.takes 0x62 c [] 0 d e ∧ d.par 16 1 = 1) ∧
    (∃ (s : State) (c : Cmd) (d : Pend) (e : State), s.takes 0x60 c [] 0 d e) ∧
    (∃ (s : State) (c : Cmd) (d : Pend) (e : State), s.takes 0x70 c [] 0 d e ∧ e.tenantAllowed d.fn d.part d.obj = true) ∧
    (∃ (s : State) (c : Cmd) (d : Pend) (e : State), s.takes 0x71 c [] 0 d e ∧ e.tenantAllowed d.fn (e.fld schTenant_partition
      d.obj) d.obj = true) ∧
    (∃ (s : State) (c : Cmd) (d : Pend) (e : State), s.takes 0x04 c [] 0 d e ∧ (e.groupsOf d.obj).length + e.fld
      prmStatus_groupsFree 0 ≥ d.par 16 1 ∧ (d.par 17 1 = 1 → e.flag prmPart_privileged d.obj = true ∨ e.privileged.length < 4)
      ∧ (d.par 16 1 = (e.groupsOf d.obj).length ∨ e.seqs.all (fun q => !(q.2.part = d.obj && (q.2.state = .prefilling ||
      q.2.state = .stepping))) = true) ∧ tableExceeds (e.part d.obj).active (d.par 16 1) (d.par 24 8) = false ∧ tableExceeds
      (e.part d.obj).shadow (d.par 16 1) (d.par 24 8) = false ∧ e.queuesUsed (fnOf d.obj) ≤ d.par 18 1) :=
  ⟨⟨(asks ready 1 (cmd 0xFF 0 0)), (cmd 0xFF 0 0), (asker 1 (cmd 0xFF 0 0).pkt), by decide +kernel, by decide +kernel⟩,
    ⟨(asks ready 0 (cmd 0x00 0 0x0)), (cmd 0x00 0 0x0), _, _, takes_of (by decide +kernel)⟩,
    ⟨(asks ready 0 (cmd 0xF0 0 0x0)), (cmd 0xF0 0 0x0), _, _, takes_of (by decide +kernel)⟩,
    ⟨(asks ready 0 (cmd 0x61 0 0x64)), (cmd 0x61 0 0x64), _, _, takes_of (by decide +kernel)⟩,
    ⟨(asks ready 0 (cmd 0x62 0 0x0)), (cmd 0x62 0 0x0), _, _, takes_of (by decide +kernel), by decide +kernel⟩,
    ⟨(asks ready 0 (cmd 0x62 0 0x1)), (cmd 0x62 0 0x1), _, _, takes_of (by decide +kernel), by decide +kernel⟩,
    ⟨(asks ready 0 (cmd 0x60 0 0x706)), (cmd 0x60 0 0x706), _, _, takes_of (by decide +kernel)⟩,
    ⟨(asks ((ready.setFlag schTenant_valid 5 true).setFld schTenant_partition 5 3) 4 (cmd 0x70 5 0x0)), (cmd 0x70 5 0x0), _,
      _, takes_of (by decide +kernel), by decide +kernel⟩,
    ⟨(asks ((ready.setFlag schTenant_valid 5 true).setFld schTenant_partition 5 3) 4 (cmd 0x71 5 0x0)), (cmd 0x71 5 0x0), _,
      _, takes_of (by decide +kernel), by decide +kernel⟩,
    ⟨(asks ready 0 (cmd 0x04 15 0xde0000)), (cmd 0x04 15 0xde0000), _, _, takes_of (by decide +kernel), by decide +kernel,
      by decide +kernel, by decide +kernel, by decide +kernel, by decide +kernel, by decide +kernel⟩⟩

theorem test_witness_RoleChangesOnlyWithoutSequences :
    (∃ (s : State) (c : Cmd) (d : Pend) (e : State), s.takes 0x03 c [] 0 d e) :=
  ⟨(asks ready 0 (cmd 0x03 0 0x2)), (cmd 0x03 0 0x2), _, _, takes_of (by decide +kernel)⟩

theorem test_witness_RefusedCommandsReplyAndAreNotEntered :
    (∃ (s : State) (op : Nat) (c : Cmd) (q : Queue), s.handsOn op c q = true ∧ (reservedOk c.pkt && paramsOk s q.fn c.pkt) =
      false) ∧
    (∃ (s : State) (op : Nat) (c : Cmd) (q : Queue), s.handsOn op c q = true ∧ (reservedOk c.pkt && paramsOk s q.fn c.pkt) =
      true ∧ rightsOk s q.fn c.pkt = false) ∧
    (∃ (s : State) (c : Cmd) (q : Queue), s.handsOn 0xF0 c q = true ∧ (reservedOk c.pkt && paramsOk s q.fn c.pkt) = false) ∧
    (∃ (s : State) (c : Cmd) (q : Queue), s.handsOn 0x03 c q = true ∧ (reservedOk c.pkt && paramsOk s q.fn c.pkt) = true ∧
      rightsOk s q.fn c.pkt = false) ∧
    (∃ (s : State) (c : Cmd) (q : Queue), s.handsOn c.pkt.opcode.toNat c q = true ∧ listedOps.contains c.pkt.opcode.toNat =
      false) :=
  ⟨⟨(asks ready 1 (cmd 0xF0 0 1)), 0xF0, (cmd 0xF0 0 1), (asker 1 (cmd 0xF0 0 1).pkt), by decide +kernel, by decide +kernel⟩,
    ⟨(asks ready 1 (cmd 0x03 0 0)), 0x03, (cmd 0x03 0 0), (asker 1 (cmd 0x03 0 0).pkt), by decide +kernel, by decide +kernel,
      by decide +kernel⟩,
    ⟨(asks ready 1 (cmd 0xF0 0 1)), (cmd 0xF0 0 1), (asker 1 (cmd 0xF0 0 1).pkt), by decide +kernel, by decide +kernel⟩,
    ⟨(asks ready 1 (cmd 0x03 0 0)), (cmd 0x03 0 0), (asker 1 (cmd 0x03 0 0).pkt), by decide +kernel, by decide +kernel,
      by decide +kernel⟩,
    ⟨(asks ready 1 (cmd 0xFF 0 0)), (cmd 0xFF 0 0), (asker 1 (cmd 0xFF 0 0).pkt), by decide +kernel, by decide +kernel⟩⟩

theorem test_witness_QueueCommandsComplete :
    (∃ (s : State) (c : Cmd) (d : Pend) (e : State), s.takes 0x01 c [] 0 d e ∧ e.queue d.obj = none ∧ (d.newQueue.kind = 2 →
      e.tokenRing (d.newQueue.fn - 1) = none) ∧ e.queuesUsed d.newQueue.fn < (e.part (d.newQueue.fn - 1)).quota ∧
      (d.newQueue.kind = 0 → e.replyQueueOk d.newQueue.reply d.newQueue.fn = true)) ∧
    (∃ (s : State) (c : Cmd) (d : Pend) (e : State) (x : Queue), s.takes 0x02 c [] 0 d e ∧ e.queue d.obj = some x ∧ x.kind =
      3) ∧
    (∃ (s : State) (c : Cmd) (d : Pend) (e : State) (x : Queue), s.takes 0x02 c [] 0 d e ∧ e.queue d.obj = some x ∧ x.kind =
      0) ∧
    (∃ (s : State) (fn : Fn) (q : BitVec 8) (index : BitVec 16) (x : Queue), s.live = true ∧ s.queue q.toNat = some x ∧ x.fn =
      fnNum fn ∧ x.kind = 0 ∧ index.toNat < x.depth ∧ s.fld pwrDevStat_state 0 ≠ 1) ∧
    (∃ (s : State) (fn : Fn) (q : BitVec 8) (index : BitVec 16) (x : Queue), s.live = true ∧ s.queue q.toNat = some x ∧ x.fn =
      fnNum fn ∧ x.kind ≠ 0 ∧ index.toNat < x.depth) ∧
    (∃ (s : State) (fn : Fn) (writes : List SlotWrite) (q : Nat) (x : Queue) (t : State), s.live = true ∧ t = writes.foldl
      (fun t w => t.writeSlot (fnNum fn) w) s ∧ t.fetchStopped (fnNum fn) = false ∧ t.nextQueue (fnNum fn) = some (q, x)) ∧
    (∃ (s : State) (fn : Fn), s.bar0Keeps .cmdAdmqCtrl (fnNum fn) = true) ∧
    (∃ (s : State), s.live = true) :=
  ⟨⟨(asks (ready.modPart 0 fun x => { x with quota := 1 }) 0 (cmd 0x01 34 0x4000003)), (cmd 0x01 34 0x4000003), _, _,
      takes_of (by decide +kernel), by decide +kernel, by decide +kernel, by decide +kernel, by decide +kernel⟩,
    ⟨(asks (withQueue ready 255 (Queue.fresh 3 0 1 16)) 0 (cmd 0x02 255 0x0)), (cmd 0x02 255 0x0), _, _, Queue.fresh 3 0 1 16,
      takes_of (by decide +kernel), by decide +kernel, by decide +kernel⟩,
    ⟨(asks (withQueue ready 34 (Queue.fresh 0 0 1 16)) 0 (cmd 0x02 34 0x0)), (cmd 0x02 34 0x0), _, _, Queue.fresh 0 0 1 16,
      takes_of (by decide +kernel), by decide +kernel, by decide +kernel⟩,
    ⟨(withQueue ready 50 (Queue.fresh 0 0 1 16)), .vf 0, 50, 15, Queue.fresh 0 0 1 16, by decide +kernel, by decide +kernel,
      by decide +kernel, by decide +kernel, by decide +kernel, by decide +kernel⟩,
    ⟨(withQueue ready 50 (Queue.fresh 1 0 1 16)), .vf 0, 50, 15, Queue.fresh 1 0 1 16, by decide +kernel, by decide +kernel,
      by decide +kernel, by decide +kernel, by decide +kernel⟩,
    ⟨(withQueue ready 50 { Queue.fresh 0 0 1 16 with tail := 1 }), .vf 0, [], 50, { Queue.fresh 0 0 1 16 with tail := 1 }, _,
      by decide +kernel, rfl, by decide +kernel, by decide +kernel⟩,
    ⟨ready, .vf 15, by decide +kernel⟩,
    ⟨ready, by decide +kernel⟩⟩

theorem test_witness_ScheduleCommandsComplete :
    (∃ (s : State) (c : Cmd) (rows : List (BitVec 256)) (d : Pend) (e : State), s.takes 0x30 c [] 0 d e ∧ (e.part
      d.part).swapTick = none ∧ e.tableOk d.part (rows.take (d.par 24 2)) ⟨(rows.take (d.par 24 2)).map Entry.ofRow, d.par 32 8,
      tableDigest (rows.take (d.par 24 2)) (d.par 32 8)⟩ = true) ∧
    (∃ (s : State) (c : Cmd) (d : Pend) (e : State), s.takes 0x31 c [] 0 d e ∧ d.accTick ≤ d.par 16 8 ∧ (e.part
      d.part).shadow.isSome = true ∧ (e.part d.part).swapTick = none) ∧
    (∃ (s : State) (c : Cmd) (d : Pend) (e : State), s.takes 0x05 c [] 0 d e) ∧
    (∃ (s : State) (p : Fin 16), s.live = true ∧ s.flag schPart_resetting p.val = true) :=
  ⟨⟨(asks ready 1 (cmd 0x30 0 0x9c4000000000000000010000000000000000)), (cmd 0x30 0 0x9c4000000000000000010000000000000000),
      [0x300000000000003e800000000], _, _, takes_of (by decide +kernel), by decide +kernel, by decide +kernel⟩,
    ⟨(asks (ready.modPart 0 fun x => { x with shadow := some table }) 1 (cmd 0x31 0 0xffffffffffffffff)), (cmd 0x31 0
      0xffffffffffffffff), _, _, takes_of (by decide +kernel), by decide +kernel, by decide +kernel, by decide +kernel⟩,
    ⟨(asks ready 0 (cmd 0x05 15 0x0)), (cmd 0x05 15 0x0), _, _, takes_of (by decide +kernel)⟩,
    ⟨(ready.setFlag schPart_resetting 15 true), 15, by decide +kernel, by decide +kernel⟩⟩

theorem test_witness_WeightCommandsComplete :
    (∃ (s : State) (c : Cmd) (record : List Cell) (blocks : List RawBlock) (d : Pend) (e : State) (old : WeightSet) (g : List
      Cell) (w : WeightSet) (mine : List RawBlock) (near : List RawBlock), s.takes 0x40 c [] 0 d e ∧ old = (mget e.weights
      d.obj).getD WeightSet.empty ∧ g = (if d.par 16 2 = 0 then recordOf record else old.geometry) ∧ near = (if d.par 20 1 = 0
      then [] else mine) ∧ mine = blocks.filter (fun b => d.par 16 2 ≤ b.layer.toNat && b.layer.toNat < d.par 16 2 + d.par 18 2)
      ∧ geometryOk g = true ∧ d.par 16 2 + d.par 18 2 ≤ geoLayers g ∧ mine.all rawBlockOk = true ∧ old.busy = false ∧ e.churning
      d.obj = false ∧ w = ((({ old with geometry := g, durable := false }.dropLayers (d.par 16 2) 0).addLayers (d.par 16 2)
      (d.par 18 2) (d.par 20 1)).addBlocks d.obj (d.par 20 1) mine) ∧ w.frames ≤ e.freeFrames + old.frames ∧ near.all e.nearFits
      = true ∧ d.gaddr = false) ∧
    (∃ (s : State) (c : Cmd) (d : Pend) (e : State) (w : WeightSet), s.takes 0x41 c [] 0 d e ∧ mget e.weights d.obj = some w ∧
      d.par 16 2 + d.par 18 2 ≤ w.layerCount ∧ e.churnBarred d.obj = false ∧ e.churning d.obj = false ∧ w.busy = false ∧ d.par
      18 2 ≠ 0) :=
  ⟨⟨(asks (ready.setFld tirPool_pool 0 1) 0 (cmd 0x40 0 0x10000)), (cmd 0x40 0 0x10000), geo, [], _, _, _, _, _, _, _,
      takes_of (by decide +kernel), rfl, rfl, rfl, rfl, by decide +kernel, by decide +kernel, by decide +kernel,
      by decide +kernel, by decide +kernel, rfl, by decide +kernel, by decide +kernel, by decide +kernel⟩,
    ⟨(asks { ready with weights := [(3, weights)] } 0 (cmd 0x41 3 0x10000)), (cmd 0x41 3 0x10000), _, _, weights, takes_of
      (by decide +kernel), by decide +kernel, by decide +kernel, by decide +kernel, by decide +kernel, by decide +kernel,
      by decide +kernel⟩⟩

theorem test_witness_FabricCommandsComplete :
    (∃ (s : State) (c : Cmd) (d : Pend) (e : State) (t : State) (key : Nat), s.takes 0x50 c [] 0 d e ∧ e.addRegion ⟨0, d.par
      16 8, d.par 24 8, d.par 32 1, e.ownNode, d.fn, false, none, none⟩ = (t, 0, key)) ∧
    (∃ (s : State) (c : Cmd) (d : Pend) (e : State) (r : Region), s.takes 0x51 c [] 0 d e ∧ mget e.asf.regions (d.obj % 4096)
      = some r ∧ r.gen = d.obj / 4096 ∧ r.draining = false ∧ r.fn = d.fn) ∧
    (∃ (s : State) (c : Cmd) (d : Pend) (e : State) (n : Nat) (k : Conn), s.takes 0x52 c [] 0 d e ∧ e.freeConn = some n ∧
      e.reachable (d.par 16 2) = true ∧ k = e.binding n
      { Conn.fresh d.fn (d.par 16 2) (d.par 18 1) e.now with cmd := some d.id }) ∧
    (∃ (s : State) (c : Cmd) (d : Pend) (e : State) (k : Conn), s.takes 0x53 c [] 0 d e ∧ e.conn d.obj = some k ∧ k.fn = d.fn
      ∧ k.mine = true ∧ k.bulk = none ∧ k.state ≠ .closing ∧ k.state ≠ .opening) ∧
    (∃ (s : State) (c : Cmd) (map : List (BitVec 256)) (d : Pend) (e : State), s.takes 0x54 c [] 0 d e ∧ e.mapOk map = true ∧
      e.flag asfEpoch_prevLive 0 = false ∧ (e.flag asfEpoch_installed 0 = true → e.epochAhead (d.obj % 256) = true)) :=
  ⟨⟨(asks joined 0 (cmd 0x50 0 0x300000000000010000000400000000000)), (cmd 0x50 0 0x300000000000010000000400000000000), _, _,
      _, _, takes_of (by decide +kernel), ok_parts (by decide +kernel)⟩,
    ⟨(asks { joined with asf := { joined.asf with regions := [(4095, ⟨1, 0, 4096, 3, 5, 0, false, none, none⟩)] } } 0 (cmd
      0x51 8191 0x0)), (cmd 0x51 8191 0x0), _, _, ⟨1, 0, 4096, 3, 5, 0, false, none, none⟩, takes_of (by decide +kernel),
      by decide +kernel, by decide +kernel, by decide +kernel, by decide +kernel⟩,
    ⟨(asks joined 0 (cmd 0x52 0 0x70006)), (cmd 0x52 0 0x70006), _, _, 0, _, takes_of (by decide +kernel), by decide +kernel,
      by decide +kernel, rfl⟩,
    ⟨(asks (linked joined conn) 0 (cmd 0x53 3 0x0)), (cmd 0x53 3 0x0), _, _, conn, takes_of (by decide +kernel),
      by decide +kernel, by decide +kernel, by decide +kernel, by decide +kernel, by decide +kernel, by decide +kernel⟩,
    ⟨(asks joined 0 (cmd 0x54 1 0)), (cmd 0x54 1 0), [0x1000005], _, _, takes_of (by decide +kernel), by decide +kernel,
      by decide +kernel, by decide +kernel⟩⟩

theorem test_witness_SequenceLifeCommandsComplete :
    (∃ (s : State) (c : Cmd) (stops : List (BitVec 32)) (d : Pend) (e : State) (w : WeightSet) (m : Nat × Nat) (h : Nat) (t :
      State) (q : Seq), s.takes 0x10 c stops 0 d e ∧ e.tenantIn (d.par 16 2) d.part = true ∧ mget e.weights (d.par 24 2) = some
      w ∧ d.par 20 4 ≤ 262144 * tokensPerPage (geoKvHeads w.geometry) (geoHeadDim w.geometry) (d.par 19 1) ∧ e.defaultPartner =
      some m ∧ e.takeHandle = some (h, t) ∧ q = newSeq d w.geometry m) ∧
    (∃ (s : State) (c : Cmd) (tokens : List (BitVec 32)) (d : Pend) (e : State) (q : Seq) (t : State), s.takes 0x11 c tokens 0
      d e ∧ e.groupsOf d.part ≠ [] ∧ (e.tokenRing d.part).isSome = true ∧ e.named d = some q ∧ (q.state = .opened ∨ q.state =
      .done) ∧ e.churning q.model = false ∧ q.length + d.par 24 4 ≤ q.limit ∧ (q.mirror = none ∨ e.journalTakes q (q.length +
      d.par 24 4) = true) ∧ e.assignRun d.handle (q.block q.r) (q.block (q.length + d.par 24 4 - 1) + 1 - q.block q.r) = some t) ∧
    (∃ (s : State) (c : Cmd) (d : Pend) (e : State) (q : Seq), s.takes 0x17 c [] 0 d e ∧ d.par 16 1 ≠ 1 ∧ e.named d = some q) ∧
    (∃ (s : State) (c : Cmd) (d : Pend) (e : State) (l : List (Nat × Seq)), s.takes 0x17 c [] 0 d e ∧ d.par 16 1 = 1 ∧ l =
      e.queryList d.part (d.par 17 1) (d.par 20 4) ∧ l ≠ []) ∧
    (∃ (s : State) (c : Cmd) (d : Pend) (e : State) (q : Seq), s.takes 0x16 c [] 0 d e ∧ e.named d = some q ∧ q.state = .done) :=
  ⟨⟨(asks (({ joined with weights := [(0, weights)] }.setFlag schTenant_valid 3 true).setFld schTenant_partition 3 0) 1 (cmd
      0x10 0 0x3f80000000000000000000000000040000000003)), (cmd 0x10 0 0x3f80000000000000000000000000040000000003), [], _, _,
      weights, _, _, _, _, takes_of (by decide +kernel), by decide +kernel, by decide +kernel, by decide +kernel, there
      (by decide +kernel), there_pair (by decide +kernel), rfl⟩,
    ⟨(asks (((withQueue (holding joined (seqIn .opened)) 60 (Queue.fresh 2 0 1 16)).setFld prmGroup_state 0 1).setFld
      prmGroup_owner 0 0) 1 (cmd 0x11 7 0x10000000000000000)), (cmd 0x11 7 0x10000000000000000), [5], _, _, seqIn .opened, _,
      takes_of (by decide +kernel), by decide +kernel, by decide +kernel, by decide +kernel, by decide +kernel,
      by decide +kernel, by decide +kernel, by decide +kernel, there (by decide +kernel)⟩,
    ⟨(asks (holding joined (seqIn .opened)) 1 (cmd 0x17 7 0x0)), (cmd 0x17 7 0x0), _, _, seqIn .opened, takes_of
      (by decide +kernel), by decide +kernel, by decide +kernel⟩,
    ⟨(asks (holding joined (seqIn .opened)) 1 (cmd 0x17 0 0x100000101)), (cmd 0x17 0 0x100000101), _, _, _, takes_of
      (by decide +kernel), by decide +kernel, rfl, by decide +kernel⟩,
    ⟨(asks (holding joined (seqIn .done)) 1 (cmd 0x16 7 0x0)), (cmd 0x16 7 0x0), _, _, seqIn .done, takes_of
      (by decide +kernel), by decide +kernel, by decide +kernel⟩⟩

theorem test_witness_SteppingCommandsComplete :
    (∃ (s : State) (c : Cmd) (d : Pend) (e : State), s.takes 0x12 c [] 0 d e) ∧
    (∃ (s : State) (c : Cmd) (d : Pend) (e : State), s.takes 0x14 c [] 0 d e) ∧
    (∃ (e : State) (t : State) (d : Pend) (q : Seq), e.hasTable d.part = true ∧ (e.tokenRing d.part).isSome = true ∧ e.named d
      = some q ∧ (q.state = .ready ∨ q.state = .paused) ∧ e.thinBars d.part q.model = false ∧ e.churning q.model = false ∧
      e.startStepping d (fun q => q.setSpec (d.par 16 1)) = some t) ∧
    (∃ (e : State) (t : State) (d : Pend) (q : Seq), e.hasTable d.part = true ∧ e.named d = some q ∧ q.state = .paused ∧
      e.thinBars d.part q.model = false ∧ e.startStepping d id = some t) ∧
    (∃ (s : State) (c : Cmd) (d : Pend) (e : State) (q : Seq), s.takes 0x13 c [] 0 d e ∧ e.named d = some q ∧ q.state =
      .stepping) ∧
    (∃ (s : State) (c : Cmd) (d : Pend) (e : State) (q : Seq), s.takes 0x15 c [] 0 d e ∧ e.named d = some q ∧ q.state ≠ .done
      ∧ q.state ≠ .moving) :=
  ⟨⟨(asks (holding joined (seqIn .ready)) 1 (cmd 0x12 7 0x0)), (cmd 0x12 7 0x0), _, _, takes_of (by decide +kernel)⟩,
    ⟨(asks (holding joined (seqIn .paused)) 16 (cmd 0x14 7 0x0)), (cmd 0x14 7 0x0), _, _, takes_of (by decide +kernel)⟩,
    ⟨(withQueue (holding (tabled joined) (seqIn .ready)) 60 (Queue.fresh 2 0 1 16)), _, (joined.pend (cmd 0x12 7 0) 1 [] 0),
      seqIn .ready, by decide +kernel, by decide +kernel, by decide +kernel, by decide +kernel, by decide +kernel,
      by decide +kernel, there (by decide +kernel)⟩,
    ⟨(holding (tabled joined) (seqIn .paused)), _, (joined.pend (cmd 0x14 7 0) 1 [] 0), seqIn .paused, by decide +kernel,
      by decide +kernel, by decide +kernel, by decide +kernel, there (by decide +kernel)⟩,
    ⟨(asks (holding joined (seqIn .stepping)) 1 (cmd 0x13 7 0x0)), (cmd 0x13 7 0x0), _, _, seqIn .stepping, takes_of
      (by decide +kernel), by decide +kernel, by decide +kernel⟩,
    ⟨(asks (holding joined (seqIn .stepping)) 1 (cmd 0x15 7 0x0)), (cmd 0x15 7 0x0), _, _, seqIn .stepping, takes_of
      (by decide +kernel), by decide +kernel, by decide +kernel, by decide +kernel⟩⟩

theorem test_witness_StateCommandsComplete :
    (∃ (s : State) (c : Cmd) (d : Pend) (e : State) (q : Seq) (m : Move), s.takes 0x20 c [] 0 d e ∧ e.named d = some q ∧
      (q.state = .ready ∨ q.state = .paused) ∧ e.reachable (d.par 16 2) = true ∧ m = Move.begun (d.par 16 2) (d.par 18 1 % 16)
      (d.par 19 1 % 8) d.handle) ∧
    (∃ (s : State) (c : Cmd) (d : Pend) (e : State) (q : Seq) (n : Nat), s.takes 0x21 c [] 0 d e ∧ e.named d = some q ∧
      q.state ≠ .moving ∧ q.state ≠ .rebuild ∧ q.mirroring = false ∧ d.par 16 1 = 0 ∧ q.prot = false ∧ e.mirrorChoice q (d.par
      18 2) = some n) ∧
    (∃ (s : State) (c : Cmd) (d : Pend) (e : State) (q : Seq), s.takes 0x21 c [] 0 d e ∧ e.named d = some q ∧ q.state ≠
      .moving ∧ q.state ≠ .rebuild ∧ q.mirroring = false ∧ d.par 16 1 ≠ 0 ∧ q.prot = true) ∧
    (∃ (s : State) (c : Cmd) (code : BitVec 12) (d : Pend) (e : State) (q : Seq), s.takes 0x22 c [] code d e ∧ e.named d =
      some q ∧ q.state ≠ .moving ∧ q.state ≠ .rebuild ∧ d.par 16 1 ≠ 3 ∧ e.fetchPeerBad (d.par 16 1) (d.par 18 2) = false) ∧
    (∃ (s : State) (c : Cmd) (entries : List (BitVec 32)) (d : Pend) (e : State) (q : Seq) (es : List (Nat × Option Nat)) (t :
      State), s.takes 0x23 c entries 0 d e ∧ e.named d = some q ∧ (q.state = .opened ∨ q.state = .ready ∨ q.state = .paused ∨
      q.state = .done) ∧ es = listEntries (d.par 16 4) (d.words.take (d.par 20 4)) ∧ e.listBad q es = false ∧ ((q.changed
      es).foldl (fun s x => s.releaseAt d.handle x.1) e).placeAll d.handle (placements (q.changed es)) = some t) :=
  ⟨⟨(asks (holding joined (seqIn .paused)) 1 (cmd 0x20 7 0x6)), (cmd 0x20 7 0x6), _, _, seqIn .paused, _, takes_of
      (by decide +kernel), by decide +kernel, by decide +kernel, by decide +kernel, rfl⟩,
    ⟨(asks (holding joined (seqIn .ready)) 1 (cmd 0x21 7 0x60000)), (cmd 0x21 7 0x60000), _, _, seqIn .ready, 6, takes_of
      (by decide +kernel), by decide +kernel, by decide +kernel, by decide +kernel, by decide +kernel, by decide +kernel,
      by decide +kernel, by decide +kernel⟩,
    ⟨(asks (holding joined { seqIn .ready with prot := true }) 1 (cmd 0x21 7 0x1)), (cmd 0x21 7 0x1), _, _,
      { seqIn .ready with prot := true }, takes_of (by decide +kernel), by decide +kernel, by decide +kernel, by decide +kernel,
      by decide +kernel, by decide +kernel, by decide +kernel⟩,
    ⟨(asks (holding joined (seqIn .ready)) 1 (cmd 0x22 7 0xffff0001)), (cmd 0x22 7 0xffff0001), 0, _, _, seqIn .ready,
      takes_of (by decide +kernel), by decide +kernel, by decide +kernel, by decide +kernel, by decide +kernel,
      by decide +kernel⟩,
    ⟨(asks (holding joined (seqIn .ready)) 1 (cmd 0x23 7 0x100000009)), (cmd 0x23 7 0x100000009), [0xFFFFFFFF], _, _, seqIn
      .ready, _, _, takes_of (by decide +kernel), by decide +kernel, by decide +kernel, rfl, by decide +kernel, there
      (by decide +kernel)⟩⟩

theorem test_witness_BoundaryRowsComplete :
    (∃ (s : State) (p : Fin 16), s.boundaryDue p.val = true) ∧
    (∃ (s : State) (p : Fin 16), s.boundaryDue p.val = false ∧ s.firstTableDue p.val = true) ∧
    (∃ (s : State) (p : Fin 16), s.live = true ∧ (s.part p.val).active.isSome = true ∧ s.scheduledTick p.val ≤ s.now) ∧
    (∃ (s : State) (p : Fin 16) (node : BitVec 16) (step : BitVec 64), s.live = true ∧ (s.part p.val).commits.any (fun c =>
      c.step = step.toNat && c.waiting.contains node.toNat) = true) ∧
    (∃ (s : State), s.live = true) ∧
    (∃ (s : State) (p : Fin 16) (node : BitVec 16) (c : Commit), s.live = true ∧ (s.part p.val).commits.find? (fun c =>
      c.toSend.contains node.toNat) = some c ∧ s.appendsOut node.toNat c.step = false) :=
  ⟨⟨((later ready).modPart 15 fun x => { x with active := some ⟨[], 40000, 0⟩ }), 15, by decide +kernel⟩,
    ⟨(ready.modPart 15 fun x => { x with shadow := some table, swapTick := some 0 }), 15, by decide +kernel,
      by decide +kernel⟩,
    ⟨(later (tabled ready)), 0, by decide +kernel, by decide +kernel, by decide +kernel⟩,
    ⟨(ready.modPart 0 fun x => { x with commits := [⟨9, 0, [], [], [6], []⟩] }), 0, 6, 9, by decide +kernel,
      by decide +kernel⟩,
    ⟨ready, by decide +kernel⟩,
    ⟨(ready.modPart 0 fun x => { x with commits := [⟨9, 0, [], [6], [], []⟩] }), 0, 6, ⟨9, 0, [], [6], [], []⟩,
      by decide +kernel, by decide +kernel, by decide +kernel⟩⟩

theorem test_witness_EntryRowsComplete :
    (∃ (s : State) (p : Fin 16) (entry : Nat) (declared : Nat) (e : Entry), s.entry p.val entry = some e ∧ s.entryDue p.val
      entry e declared = true ∧ s.asleep p.val e = true) ∧
    (∃ (s : State) (p : Fin 16) (entry : Nat) (evicted : List (BitVec 18)) (declared : Nat) (e : Entry) (t : State), s.entry
      p.val entry = some e ∧ s.entryDue p.val entry e declared = true ∧ s.asleep p.val e = false ∧ t = s.walk p.val e
      (evicted.map BitVec.toNat) ∧ t.missing p.val e = [] ∧ t.weightsHeld e = false) ∧
    (∃ (s : State) (p : Fin 16) (entry : Nat) (evicted : List (BitVec 18)) (declared : Nat) (e : Entry) (t : State), s.entry
      p.val entry = some e ∧ s.entryDue p.val entry e declared = true ∧ s.asleep p.val e = false ∧ t = s.walk p.val e
      (evicted.map BitVec.toNat) ∧ t.missing p.val e = [] ∧ t.weightsHeld e = true) ∧
    (∃ (s : State) (p : Fin 16) (entry : Nat) (evicted : List (BitVec 18)) (declared : Nat) (e : Entry) (t : State) (key :
      Nat) (keys : List Nat), s.entry p.val entry = some e ∧ s.entryDue p.val entry e declared = true ∧ s.asleep p.val e = false
      ∧ t = s.walk p.val e (evicted.map BitVec.toNat) ∧ t.missing p.val e = key :: keys) ∧
    (∃ (s : State) (p : Fin 16) (entry : Nat) (work : KernelWork) (e : Entry) (since : Nat) (w : State), s.live = true ∧
      s.entry p.val entry = some e ∧ mget (s.part p.val).runs entry = some (.running since) ∧ w = ((s.endLayer p.val
      e).releaseRead p.val e).kernelWork p.val e work ∧ w.now ≤ w.budgetEnd p.val e) ∧
    (∃ (s : State) (p : Fin 16) (entry : Nat) (work : KernelWork) (e : Entry) (since : Nat) (w : State), s.live = true ∧
      s.entry p.val entry = some e ∧ mget (s.part p.val).runs entry = some (.running since) ∧ w = ((s.endLayer p.val
      e).releaseRead p.val e).kernelWork p.val e work ∧ w.budgetEnd p.val e < w.now) ∧
    (∃ (s : State) (p : Fin 16) (entry : Nat) (e : Entry) (since : Nat) (cause : Nat), s.live = true ∧ s.entry p.val entry =
      some e ∧ mget (s.part p.val).runs entry = some (.waiting since cause) ∧ since + s.fld tirCfg_stallMax 0 * ticksPerMs ≤
      s.now ∧ s.weightsHeld e = false) :=
  ⟨⟨((attends { seqIn .stepping with written := [(0, 4096)] }).setFld pwrDomStat_state 97 2), 0, 0, 0, ⟨0, 1000, 0, 255, 0,
      2, false, 0, 0, 2⟩, by decide +kernel, by decide +kernel, by decide +kernel⟩,
    ⟨(attends { seqIn .stepping with written := [(0, 4096)] }), 0, 0, [], 0, ⟨0, 1000, 0, 255, 0, 2, false, 0, 0, 2⟩, _,
      by decide +kernel, by decide +kernel, by decide +kernel, rfl, by decide +kernel, by decide +kernel⟩,
    ⟨weighted, 0, 0, [], 0, ⟨0, 1000, 0, 0, 3, 2, false, 0, 1, 2⟩, _, by decide +kernel, by decide +kernel, by decide +kernel,
      rfl, by decide +kernel, by decide +kernel⟩,
    ⟨(attends { seqIn .stepping with length := 1024, written := [(0, 4096)] }), 0, 0, [], 0, ⟨0, 1000, 0, 255, 0, 2, false, 0,
      0, 2⟩, _, 256, [], by decide +kernel, by decide +kernel, by decide +kernel, rfl, by decide +kernel⟩,
    ⟨kernelRuns, 0, 0, ⟨[], [], [], false, false⟩, ⟨0, 1000, 0, 0, 0, 1, false, 0, 0, 1⟩, 0, _, by decide +kernel,
      by decide +kernel, by decide +kernel, rfl, by decide +kernel⟩,
    ⟨(later kernelRuns), 0, 0, ⟨[], [], [], false, false⟩, ⟨0, 1000, 0, 0, 0, 1, false, 0, 0, 1⟩, 0, _, by decide +kernel,
      by decide +kernel, by decide +kernel, rfl, by decide +kernel⟩,
    ⟨((later (tabled ready)).modPart 0 fun x => { x with runs := [(0, .waiting 0 256)] }), 0, 0, ⟨0, 1000, 0, 0, 0, 1, false,
      0, 0, 1⟩, 0, 256, by decide +kernel, by decide +kernel, by decide +kernel, by decide +kernel, by decide +kernel⟩⟩

theorem test_witness_LockstepRowsComplete :
    (∃ (s : State) (p : Fin 16) (point : Fin 64), s.live = true ∧ s.inGroup p.val = true ∧ mhas (s.part p.val).reached
      point.val = false ∧ s.pointDone p.val point.val = true ∧ s.earlierPassed p.val point.val = true) ∧
    (∃ (s : State) (p : Fin 16) (m : SyncMsg), s.live = true ∧ s.inGroup p.val = true ∧ m.group.toNat = s.fld schGroup_groupId
      p.val ∧ m.member.toNat < s.fld schGroup_members p.val ∧ m.member.toNat ≠ s.fld schGroup_index p.val) ∧
    (∃ (s : State) (p : Fin 16) (point : Fin 64) (t : ℤ), s.live = true ∧ s.inGroup p.val = true ∧ mhas (s.part p.val).reached
      point.val = true ∧ (s.part p.val).passed.contains point.val = false ∧ s.releaseTick p.val point.val = some t ∧ t ≤ (s.now
      : Int)) ∧
    (∃ (s : State) (p : Fin 16) (k : Nat) (m : SyncMember), s.live = true ∧ s.inGroup p.val = true ∧ s.waitsAt p.val = some k
      ∧ (s.part p.val).resentAt + 50 * ticksPerUs ≤ s.now ∧ (s.part p.val).syncs.find? (fun m => m.node = s.ownNode && m.point =
      k && m.cycle = s.cycleNo p.val) = some m) ∧
    (∃ (s : State) (p : Fin 16) (k : Nat), s.live = true ∧ s.inGroup p.val = true ∧ s.waitsAt p.val = some k ∧ s.pointTick
      p.val k + s.fld schGroup_slack p.val * ticksPerUs ≤ s.now) :=
  ⟨⟨(((tabled ready).setFld schGroup_members 0 1)), 0, 0, by decide +kernel, by decide +kernel, by decide +kernel,
      by decide +kernel, by decide +kernel⟩,
    ⟨((tabled ready).setFld schGroup_members 0 2), 0, ⟨0, 1, 0, 0, false, false, false, false, 0, 0, 0, 0, 0⟩,
      by decide +kernel, by decide +kernel, by decide +kernel, by decide +kernel, by decide +kernel⟩,
    ⟨grouped, 0, 0, _, by decide +kernel, by decide +kernel, by decide +kernel, by decide +kernel, there (by decide +kernel),
      by decide +kernel⟩,
    ⟨grouped, 0, 0, ⟨0, 0, 65535, 0, 0, 0, 0, 0, 0, none⟩, by decide +kernel, by decide +kernel, by decide +kernel,
      by decide +kernel, by decide +kernel⟩,
    ⟨grouped, 0, 0, by decide +kernel, by decide +kernel, by decide +kernel, by decide +kernel⟩⟩

theorem test_witness_MoveRowsComplete :
    (∃ (s : State) (node : BitVec 16) (handle : BitVec 18) (h : Nat) (q : Seq) (m : Move), s.live = true ∧ s.arriving
      node.toNat handle.toNat = some (h, q, m) ∧ s.moveHeld h q m = true) ∧
    (∃ (s : State) (handle : BitVec 18) (q : Seq) (m : Move), s.live = true ∧ s.leaving handle.toNat = some (q, m) ∧ m.recast
      = false) ∧
    (∃ (s : State), s.live = true) ∧
    (∃ (s : State) (handle : BitVec 18) (q : Seq) (m : Move), s.live = true ∧ s.leaving handle.toNat = some (q, m) ∧
      m.abandonSent = false ∧ m.recast = false) ∧
    (∃ (s : State) (handle : BitVec 18) (q : Seq) (m : Move), s.live = true ∧ s.leaving handle.toNat = some (q, m) ∧
      m.abandonSent = false ∧ m.recast = true) ∧
    (∃ (s : State) (handle : BitVec 18) (q : Seq) (m : Move), s.live = true ∧ s.leaving handle.toNat = some (q, m) ∧
      m.abandonSent = true) ∧
    (∃ (s : State) (handle : BitVec 18) (q : Seq) (m : Move), s.live = true ∧ s.promotedSeq handle.toNat = some q ∧ q.move =
      some m ∧ m.incoming = false ∧ q.recastDue m.node = false) :=
  ⟨⟨(moving comingMove), 6, 9, 7, { seqIn .moving with move := some comingMove }, comingMove, by decide +kernel,
      by decide +kernel, by decide +kernel⟩,
    ⟨(moving leavingMove), 7, { seqIn .moving with move := some leavingMove }, leavingMove, by decide +kernel,
      by decide +kernel, by decide +kernel⟩,
    ⟨joined, by decide +kernel⟩,
    ⟨(moving leavingMove), 7, { seqIn .moving with move := some leavingMove }, leavingMove, by decide +kernel,
      by decide +kernel, by decide +kernel, by decide +kernel⟩,
    ⟨(moving { leavingMove with recast := true }), 7, { seqIn .moving with move := some { leavingMove with recast := true } },
      { leavingMove with recast := true }, by decide +kernel, by decide +kernel, by decide +kernel, by decide +kernel⟩,
    ⟨(moving { leavingMove with abandonSent := true }), 7,
      { seqIn .moving with move := some { leavingMove with abandonSent := true } }, { leavingMove with abandonSent := true },
      by decide +kernel, by decide +kernel, by decide +kernel⟩,
    ⟨(holding joined { seqIn .moving with promoted := some (6, 0), move := some { leavingMove with sent := 9 } }), 7,
      { seqIn .moving with promoted := some (6, 0), move := some { leavingMove with sent := 9 } },
      { leavingMove with sent := 9 }, by decide +kernel, by decide +kernel, by decide +kernel, by decide +kernel,
      by decide +kernel⟩⟩

theorem test_witness_NearBankOperationsComplete :
    (∃ (s : State) (ch : Fin 64) (p : Fin 16) (d : BitVec 256) (need : Nat), s.live = true ∧ s.flag schPart_resetting p.val =
      false ∧ descOk d = true ∧ s.descFits ch.val d need = true) ∧
    (∃ (s : State) (ch : Fin 64) (inp : NbInput) (p : Nat) (d : BitVec 256) (start : Nat) (t : State) (lost : List Nat),
      s.live = true ∧ (s.chan ch.val).running = some (p, d, start) ∧ start ≤ s.now ∧ s.now ≤ start + 8000 ∧ p < 16 ∧
      s.decodeReads ch.val d inp.upsets = (t, lost) ∧ lost ++ t.poisonedReads ch.val d = [] ∧ inp.parity = false) ∧
    (∃ (s : State) (ch : Fin 64) (inp : NbInput) (p : Nat) (d : BitVec 256) (start : Nat) (t : State) (lost : List Nat) (a :
      Nat) (as : List Nat), s.live = true ∧ (s.chan ch.val).running = some (p, d, start) ∧ start ≤ s.now ∧ s.now ≤ start + 8000
      ∧ p < 16 ∧ s.decodeReads ch.val d inp.upsets = (t, lost) ∧ lost ++ t.poisonedReads ch.val d = a :: as ∧ inp.parity =
      false) ∧
    (∃ (s : State) (ch : Fin 64) (u : Fin 32) (p : Nat) (d : BitVec 256) (start : Nat), s.live = true ∧ (s.chan
      ch.val).running = some (p, d, start) ∧ start + 8000 ≤ s.now ∧ descMask d / 2 ^ u.val % 2 = 1 ∧ p < 16) :=
  ⟨⟨ready, 63, 15, testDesc, 0, by decide +kernel, by decide +kernel, by decide +kernel, by decide +kernel⟩,
    ⟨(running 8000), 63, nothing, 15, testDesc, 0, _, _, by decide +kernel, by decide +kernel, by decide +kernel,
      by decide +kernel, by decide +kernel, rfl, by decide +kernel, by decide +kernel⟩,
    ⟨reads, 63, nothing, 15, matvecDesc, 0, _, _, (pairAddr 63 31 0), [], by decide +kernel, by decide +kernel,
      by decide +kernel, by decide +kernel, by decide +kernel, rfl, by decide +kernel, by decide +kernel⟩,
    ⟨(running 8000), 63, 31, 15, testDesc, 0, by decide +kernel, by decide +kernel, by decide +kernel, by decide +kernel,
      by decide +kernel⟩⟩

theorem test_witness_ChannelRowsComplete :
    (∃ (s : State) (ch : Fin 64), s.live = true ∧ (s.chan ch.val).switchAt + switchTicks ≤ s.now ∧ s.chMode ch.val = 2) ∧
    (∃ (s : State) (ch : Fin 64), s.live = true ∧ (s.chan ch.val).switchAt + switchTicks ≤ s.now ∧ s.chMode ch.val = 3) ∧
    (∃ (s : State) (ch : Fin 64) (a : LogicAccess), s.live = true ∧ s.holdPoint [deAddr ch.val a.bank.val a.offset.toNat] =
      none) ∧
    (∃ (s : State) (ch : Fin 64) (a : LogicAccess) (k : Nat), s.live = true ∧ s.holdPoint [deAddr ch.val a.bank.val
      a.offset.toNat] = some k) ∧
    (∃ (s : State), s.live = true) ∧
    (∃ (s : State) (ch : Fin 64), s.live = true ∧ (s.chan ch.val).refreshAt + (s.chan ch.val).refreshEvery ≤ s.now ∧ (s.chan
      ch.val).refreshOwed = false ∧ s.chMode ch.val = 1 ∧ (s.chan ch.val).running.isSome = true) ∧
    (∃ (s : State) (ch : Fin 64), s.live = true ∧ (s.chan ch.val).refreshAt + (s.chan ch.val).refreshEvery ≤ s.now ∧ (s.chan
      ch.val).refreshOwed = false ∧ (s.chMode ch.val ≠ 1 ∨ (s.chan ch.val).running = none)) ∧
    (∃ (s : State) (ch : Fin 64), s.bar0Keeps .genChmode ch.val = true ∧ s.rindHolds (chanDomain ch.val) = false) :=
  ⟨⟨((later ready).setFld genChmode_mode 63 2), 63, by decide +kernel, by decide +kernel, by decide +kernel⟩,
    ⟨((later ready).setFld genChmode_mode 63 3), 63, by decide +kernel, by decide +kernel, by decide +kernel⟩,
    ⟨ready, 63, ⟨false, 0, 0, 0⟩, by decide +kernel, by decide +kernel⟩,
    ⟨(ready.setFld genChmode_mode 63 1), 63, ⟨false, 0, 0, 0⟩, 63, by decide +kernel, by decide +kernel⟩,
    ⟨ready, by decide +kernel⟩,
    ⟨((later (running 0)).setFld genChmode_mode 63 1), 63, by decide +kernel, by decide +kernel, by decide +kernel,
      by decide +kernel, by decide +kernel⟩,
    ⟨(later ready), 63, by decide +kernel, by decide +kernel, by decide +kernel, by decide +kernel⟩,
    ⟨ready, 63, by decide +kernel, by decide +kernel⟩⟩

theorem test_witness_DraftRowsComplete :
    (∃ (s : State) (fn : Fn) (lane : Lane) (v : BitVec 64) (w : State), s.bar0Keeps .genDraftCfg 0 = true ∧ w = s.writeFields
      (fnNum fn) lane .genDraftCfg 0 v ∧ w.draftDiffers = true ∧ w.ringsHeld = 0) ∧
    (∃ (s : State) (fn : Fn) (lane : Lane) (v : BitVec 64) (w : State), s.bar0Keeps .genDraftCfg 0 = true ∧ w = s.writeFields
      (fnNum fn) lane .genDraftCfg 0 v ∧ w.draftDiffers = true ∧ w.ringsHeld ≠ 0) ∧
    (∃ (s : State), s.live = true ∧ s.flag genDraftCfg_busy 0 = true ∧ s.ringsHeld = 0) ∧
    (∃ (s : State) (handle : BitVec 18) (r : Nat × Bool) (w : WeightSet), s.live = true ∧ (s.seq handle.toNat).bind Seq.ring =
      some r ∧ s.draftSet = some w) :=
  ⟨⟨ready, .mgmt, .full, 0, _, by decide +kernel, rfl, by decide +kernel, by decide +kernel⟩,
    ⟨(holding ready { seqIn .stepping with ring := some (0, true) }), .mgmt, .full, 0, _, by decide +kernel, rfl,
      by decide +kernel, by decide +kernel⟩,
    ⟨(ready.setFlag genDraftCfg_busy 0 true), by decide +kernel, by decide +kernel, by decide +kernel⟩,
    ⟨drafts, 7, (0, true), nearWeights, by decide +kernel, by decide +kernel, by decide +kernel⟩⟩

theorem test_witness_TileRowsComplete :
    (∃ (s : State) (p : Fin 16) (tile : BitVec 8) (half : Bool) (panel : List BlockRead), s.live = true ∧ (s.tilesOf
      p.val).contains tile.toNat = true ∧ s.prm.quarantined.contains tile.toNat = false ∧ s.flag schPart_resetting p.val = false
      ∧ s.panelBytes panel ≤ 786432 ∧ s.isPanel panel = true ∧ s.fillable tile.toNat (if half then 1 else 0) = true ∧
      s.panelCorrected panel = [] ∧ s.panelError panel = none) ∧
    (∃ (s : State) (p : Fin 16) (tile : BitVec 8), s.live = true ∧ s.worksFor p.val tile.toNat = true) ∧
    (∃ (s : State) (p : Fin 16) (tile : BitVec 8) (t : State), s.live = true ∧ s.worksFor p.val tile.toNat = true ∧ t =
      s.sramError p.val tile.toNat ∧ s.recurs p.val tile.toNat = false) ∧
    (∃ (s : State) (p : Fin 16) (tile : BitVec 8) (e : Entry) (t : State), s.live = true ∧ s.worksFor p.val tile.toNat = true
      ∧ s.runningKernel p.val tile.toNat = some e ∧ t = s.sramError p.val tile.toNat ∧ s.recurs p.val tile.toNat = true) ∧
    (∃ (s : State) (p : Fin 16) (sample : KernelSample) (i : Nat) (e : Entry) (input : Option TileInput) (result : List
      (BitVec 32)) (r : TestUnit) (t : State) (x : Sample), s.live = true ∧ s.sampleDue p.val = true ∧ s.sampleEntry p.val
      sample.eligible = some (i, e) ∧ s.sampleOf p.val i e sample = some (input, result) ∧ t =
      { s with prm := { s.prm with replays := s.prm.replays + 1, sampled := mset s.prm.sampled p.val (s.fld schStep_count p.val) } }
      ∧ (t.replayers sample.ran).1 = some r ∧ x = (⟨p.val, e.id, sample.ran, input, result, faulty sample.faults result, s.fld
      schStep_count p.val⟩ : Sample)) ∧
    (∃ (s : State) (replay : Faults) (x : Sample) (slot : Nat) (r : TestUnit) (r3 : Option TestUnit), s.live = true ∧
      s.prm.sample = some x ∧ s.fld schStep_count x.part ≤ x.step + 4 ∧ s.openSlot x.part [4, 5] = some slot ∧ s.replayers x.ran
      = (some r, r3) ∧ faulty replay x.result = x.output) ∧
    (∃ (s : State) (replay : Faults) (x : Sample) (slot : Nat) (r : TestUnit) (r3 : Option TestUnit), s.live = true ∧
      s.prm.sample = some x ∧ s.fld schStep_count x.part ≤ x.step + 4 ∧ s.openSlot x.part [4, 5] = some slot ∧ s.replayers x.ran
      = (some r, r3) ∧ faulty replay x.result ≠ x.output) ∧
    (∃ (s : State) (t : BitVec 8) (pattern : Fin 10) (x : Nat × Nat), s.live = true ∧ s.testSlot t.toNat = some x ∧ s.mayTest
      t.toNat pattern.val x = true) ∧
    (∃ (s : State) (c : Fin 64) (u : Fin 32) (pattern : Fin 10), s.live = true ∧ s.unitQuarantined c.val u.val = false ∧
      s.unitSlot c.val = true ∧ (s.flag prmSelftest_enable 0 = true ∧ s.fld prmSelftest_patterns 0 / 2 ^ pattern.val % 2 = 1 ∨
      s.gen.testUnits.contains (c.val, u.val) = true)) :=
  ⟨⟨((ready.setFld prmGroup_state 0 1).setFld prmGroup_owner 0 0), 0, 0, true, [], by decide +kernel, by decide +kernel,
      by decide +kernel, by decide +kernel, by decide +kernel, by decide +kernel, by decide +kernel, by decide +kernel,
      by decide +kernel⟩,
    ⟨((ready.setFld prmGroup_state 0 1).setFld prmGroup_owner 0 0), 0, 0, by decide +kernel, by decide +kernel⟩,
    ⟨((ready.setFld prmGroup_state 0 1).setFld prmGroup_owner 0 0), 0, 0, _, by decide +kernel, by decide +kernel, rfl,
      by decide +kernel⟩,
    ⟨({ kernelRuns with prm := { kernelRuns.prm with errCycle := [(0, 0, 0, 0)] } }.modPart 0 fun x =>
      { x with active := some ⟨[⟨0, 1000, 0, 0, 0, 1, false, 1, 0, 1⟩], 40000, 0⟩ }), 0, 0, ⟨0, 1000, 0, 0, 0, 1, false, 1, 0,
      1⟩, _, by decide +kernel, by decide +kernel, by decide +kernel, rfl, by decide +kernel⟩,
    ⟨samples, 0, ⟨[0], .unit 0 0, .unit [5], []⟩, 0, ⟨0, 1000, 0, 0, 3, 2, false, 0, 1, 2⟩, none, [5], .unit 0 1, _, _,
      by decide +kernel, by decide +kernel, by decide +kernel, by decide +kernel, rfl, by decide +kernel, rfl⟩,
    ⟨(sampled 5), [], (unitSample 5), 0, .unit 0 1, some (.unit 0 0), by decide +kernel, by decide +kernel, by decide +kernel,
      by decide +kernel, by decide +kernel, by decide +kernel⟩,
    ⟨(sampled 4), [], (unitSample 4), 0, .unit 0 1, some (.unit 0 0), by decide +kernel, by decide +kernel, by decide +kernel,
      by decide +kernel, by decide +kernel, by decide +kernel⟩,
    ⟨idles, 199, 0, (0, 0), by decide +kernel, by decide +kernel, by decide +kernel⟩,
    ⟨idles, 0, 31, 0, by decide +kernel, by decide +kernel, by decide +kernel, by decide +kernel⟩⟩

theorem test_witness_TierRowsComplete :
    (∃ (s : State), s.live = true ∧ s.fld pwrDevStat_state 0 = 0) ∧
    (∃ (s : State), s.live = true) ∧
    (∃ (s : State) (k : Nat) (key : Nat) (t : State), s.live = true ∧ s.nextVisited = some (k, key) ∧ t =
      { s with tiers := { s.tiers with hand := k, pages := mmod s.tiers.pages key Page.visit } }.notePressure ∧ t.victim key =
      true ∧ t.moveBarred key = false) ∧
    (∃ (s : State) (k : Nat) (key : Nat) (t : State), s.live = true ∧ s.nextVisited = some (k, key) ∧ t =
      { s with tiers := { s.tiers with hand := k, pages := mmod s.tiers.pages key Page.visit } }.notePressure ∧ t.victim key =
      false) ∧
    (∃ (s : State), s.live = true ∧ s.tiers.ageAt + s.fld tirCfg_agePeriod 0 * 1000000000 ≤ s.now) ∧
    (∃ (s : State) (i : Fin 16), s.bar0Keeps .tirPeerCtrl i.val = true) :=
  ⟨⟨ready, by decide +kernel, by decide +kernel⟩,
    ⟨ready, by decide +kernel⟩,
    ⟨(paged (ready.setFld tirPool_pool 0 1)), 3, 256, _, by decide +kernel, by decide +kernel, rfl, by decide +kernel,
      by decide +kernel⟩,
    ⟨{ paged ready with tiers := { (paged ready).tiers with groups := [] } }, 3, 256, _, by decide +kernel, by decide +kernel,
      rfl, by decide +kernel⟩,
    ⟨(later ready), by decide +kernel, by decide +kernel⟩,
    ⟨ready, 15, by decide +kernel⟩⟩

theorem test_witness_FlashTransferRowsComplete :
    (∃ (s : State) (granule : BitVec 30) (levels : List DecodeLevel) (key : Nat), s.live = true ∧ s.pageReading granule.toNat
      = some key ∧ levels.any (fun l => l = .failed) = false) ∧
    (∃ (s : State) (granule : BitVec 30) (levels : List DecodeLevel) (key : Nat), s.live = true ∧ s.pageReading granule.toNat
      = some key ∧ levels.any (fun l => l = .failed) = true) ∧
    (∃ (s : State) (granule : BitVec 30) (m : Nat × Migration) (f : Ftl) (t : State), s.live = true ∧ s.tiers.moves.find? (fun
      m => m.2.tier = 3 && m.2.loc = granule.toNat && !mhas s.ftl.pending granule.toNat) = some m ∧ t = s.rouse 98 2 ∧
      s.rindHolds 98 = false ∧ t.ftl.program t.now false granule.toNat = some f) ∧
    (∃ (s : State) (granule : BitVec 30) (m : Nat × Migration), s.live = true ∧ s.tiers.moves.find? (fun m => m.2.tier = 3 &&
      m.2.loc = granule.toNat && !mhas s.ftl.pending granule.toNat) = some m) ∧
    (∃ (s : State), s.ftlWrites = true ∧ s.ftl.refusedAt = none ∧ s.commitDue = true) ∧
    (∃ (s : State) (t : Nat), s.ftlWrites = true ∧ s.ftl.refusedAt = some t ∧ t + ticksPerMs ≤ s.now) ∧
    (∃ (s : State) (block : Nat), s.live = true ∧ (s.ftl.block block).erasing = true ∧ (s.ftl.block block).suspended = true) ∧
    (∃ (s : State) (block : Nat), s.live = true ∧ (s.ftl.block block).erasing = true ∧ (s.ftl.block block).suspended = false) :=
  ⟨⟨(pageMoves ready 0 0), 40, [], 256, by decide +kernel, by decide +kernel, by decide +kernel⟩,
    ⟨(pageMoves ready 0 0), 40, [.failed], 256, by decide +kernel, by decide +kernel, by decide +kernel⟩,
    ⟨(pageMoves (flashed []) 3 40), 40, (256, ⟨3, 0, 40, false, true, none⟩), _, _, by decide +kernel, by decide +kernel, rfl,
      by decide +kernel, there (by decide +kernel)⟩,
    ⟨(pageMoves ready 3 40), 40, (256, ⟨3, 0, 40, false, true, none⟩), by decide +kernel, by decide +kernel⟩,
    ⟨{ flashed [] with ftl := { (flashed []).ftl with pendingSince := some 0 } }, by decide +kernel, by decide +kernel,
      by decide +kernel⟩,
    ⟨{ flashed [] with ftl := { (flashed []).ftl with refusedAt := some 0 } }, 0, by decide +kernel, by decide +kernel,
      by decide +kernel⟩,
    ⟨(flashed [(3, { Block.fresh with erasing := true, suspended := true })]), 3, by decide +kernel, by decide +kernel,
      by decide +kernel⟩,
    ⟨(flashed [(3, { Block.fresh with erasing := true })]), 3, by decide +kernel, by decide +kernel, by decide +kernel⟩⟩

theorem test_witness_FlashUpkeepRowsComplete :
    (∃ (s : State) (b : Nat), s.ftlWrites = true ∧ s.ftl.freeCount * 1024 < s.fld ftlPolicy_gcStart 0 * s.ftl.total ∧
      s.ftl.coming * 1024 < s.fld ftlPolicy_gcStop 0 * s.ftl.total ∧ (s.ftl.first fun x => x.granules.length) = some b) ∧
    (∃ (s : State), s.ftlWrites = true ∧ s.ftl.collecting = true ∧ s.fld ftlPolicy_gcStop 0 * s.ftl.total ≤ s.ftl.coming *
      1024) ∧
    (∃ (s : State) (b : Nat), s.ftlWrites = true ∧ s.staticVictim = some b) ∧
    (∃ (s : State) (block : Nat), s.ftlWrites = true ∧ (s.ftl.block block).settled = true ∧ (s.fld ftlPolicy2_readLimit 0 ≤
      (s.ftl.block block).reads ∨ (s.ftl.block block).refresh = true)) ∧
    (∃ (s : State) (block : Nat), s.live = true ∧ s.ftl.inService = true ∧ (s.ftl.block block).retired = false ∧ (s.ftl.block
      block).granules.isEmpty = false ∧ (s.ftl.block block).scrubbed + s.fld ftlPolicy_scrubDays 0 * 86400 * ticksPerS ≤ s.now) ∧
    (∃ (s : State) (block : Nat) (failed : Bool) (t : State), s.live = true ∧ s.ftl.inService = true ∧ block < s.ftl.total ∧
      (s.ftl.block block).retired = false ∧ (failed = true ∨ s.fld ftlPolicy_endurance 0 ≤ (s.ftl.block block).erases) ∧ t =
      { s with ftl := (s.ftl.relocate s.now block).modBlock block fun x => { x with retired := true, erasing := false, suspended := false } }) :=
  ⟨⟨(flashed [(0, { Block.fresh with used := 4, granules := [1] }), (1, { Block.fresh with used := 4, granules := [1] }), (2,
      { Block.fresh with used := 4, granules := [1] }), (3, { Block.fresh with used := 4, granules := [1] })]), 0,
      by decide +kernel, by decide +kernel, by decide +kernel, by decide +kernel⟩,
    ⟨{ flashed [] with ftl := { (flashed []).ftl with collecting := true } }, by decide +kernel, by decide +kernel,
      by decide +kernel⟩,
    ⟨(flashed [(0, { Block.fresh with used := 4, granules := [1] }), (3,
      { { Block.fresh with used := 4, granules := [1] } with erases := 3000 })]), 0, by decide +kernel, by decide +kernel⟩,
    ⟨(flashed [(3, { { Block.fresh with used := 4, granules := [1] } with refresh := true })]), 3, by decide +kernel,
      by decide +kernel, by decide +kernel⟩,
    ⟨{ flashed [(3, { Block.fresh with used := 4, granules := [1] })] with now := 10 ^ 17 }, 3, by decide +kernel,
      by decide +kernel, by decide +kernel, by decide +kernel, by decide +kernel⟩,
    ⟨(flashed [(3, { Block.fresh with erases := 3000 })]), 3, false, _, by decide +kernel, by decide +kernel,
      by decide +kernel, by decide +kernel, by decide +kernel, rfl⟩⟩

theorem test_witness_RequestFramesArrive :
    (∃ (s : State) (rx : Rx) (t : State), s.reaches rx 1 = true ∧ rx.tagOk = true ∧ t = s.rxWork rx.port.val) ∧
    (∃ (s : State) (rx : Rx) (t : State), s.reaches rx 3 = true ∧ rx.tagOk = true ∧ t = s.rxWork rx.port.val) ∧
    (∃ (s : State) (rx : Rx) (t : State), s.reaches rx 4 = true ∧ rx.tagOk = true ∧ t = s.rxWork rx.port.val) ∧
    (∃ (s : State) (rx : Rx) (t : State), s.reaches rx 5 = true ∧ rx.tagOk = true ∧ t = s.rxWork rx.port.val) ∧
    (∃ (s : State) (rx : Rx) (t : State), s.reaches rx 6 = true ∧ rx.tagOk = true ∧ t = s.rxWork rx.port.val) ∧
    (∃ (s : State) (rx : Rx) (t : State), s.reaches rx 7 = true ∧ rx.tagOk = true ∧ t = s.rxWork rx.port.val) :=
  ⟨⟨joined, (takes (frame 1)), _, by decide +kernel, by decide +kernel, rfl⟩,
    ⟨joined, (takes (frame 3)), _, by decide +kernel, by decide +kernel, rfl⟩,
    ⟨joined, (takes (frame 4)), _, by decide +kernel, by decide +kernel, rfl⟩,
    ⟨joined, (takes (frame 5)), _, by decide +kernel, by decide +kernel, rfl⟩,
    ⟨joined, (takes (frame 6)), _, by decide +kernel, by decide +kernel, rfl⟩,
    ⟨joined, (takes (frame 7)), _, by decide +kernel, by decide +kernel, rfl⟩⟩

theorem test_witness_ResponseFramesComplete :
    (∃ (s : State) (rx : Rx) (t : State) (u : State) (c : Nat) (k : Conn), s.reaches rx 2 = true ∧ rx.tagOk = true ∧ t =
      s.rxWork rx.port.val ∧ c = rx.frame.dstConn.toNat ∧ t.conn c = some k ∧ k.isOf rx.frame = true ∧ u = ((t.alive c).takeAck
      c rx).modConn c (fun k => { k with rnrRun := 0 }) ∧ rx.frame.flags.getLsbD 1 = true) ∧
    (∃ (s : State) (rx : Rx) (t : State) (u : State) (c : Nat) (k : Conn), s.reaches rx 2 = true ∧ rx.tagOk = true ∧ t =
      s.rxWork rx.port.val ∧ c = rx.frame.dstConn.toNat ∧ t.conn c = some k ∧ k.isOf rx.frame = true ∧ u = (((t.alive c).takeAck
      c rx).modConn c (fun k => { k with rnrRun := 0 })).modConn c (fun k =>
      { k with unacked := k.unacked.map fun x => if x.psn = rx.frame.psn.toNat && x.frame.op = 1 then x.joined rx.frame else x })
      ∧ rx.frame.flags.getLsbD 1 = false) ∧
    (∃ (s : State) (rx : Rx) (t : State) (u : State) (c : Nat) (k : Conn), s.reaches rx 8 = true ∧ rx.tagOk = true ∧ t =
      s.rxWork rx.port.val ∧ c = rx.frame.dstConn.toNat ∧ t.conn c = some k ∧ k.isOf rx.frame = true ∧ u = (((t.alive c).takeAck
      c rx).sampleRtt c rx).modConn c (fun k =>
      { k with rnrRun := 0, unacked := k.unacked.map fun x => if x.psn = rx.frame.psn.toNat && 5 ≤ x.frame.op.toNat then { x with got := rx.frame.payload } else x })) ∧
    (∃ (s : State) (rx : Rx) (t : State) (c : Nat) (k : Conn), s.reaches rx 9 = true ∧ rx.tagOk = true ∧ t = s.rxWork
      rx.port.val ∧ c = rx.frame.dstConn.toNat ∧ t.conn c = some k ∧ k.isOf rx.frame = true) ∧
    (∃ (s : State) (rx : Rx) (t : State) (c : Nat) (k : Conn), s.reaches rx 0x0A = true ∧ rx.tagOk = true ∧ t = s.rxWork
      rx.port.val ∧ c = rx.frame.dstConn.toNat ∧ t.conn c = some k ∧ k.state ≠ .opening ∧ k.isOf rx.frame = true) ∧
    (∃ (s : State) (rx : Rx) (t : State) (c : Nat) (k : Conn), s.reaches rx 0x0A = true ∧ rx.tagOk = true ∧ t = s.rxWork
      rx.port.val ∧ c = rx.frame.dstConn.toNat ∧ t.conn c = some k ∧ k.state = .opening ∧ k.node = rx.frame.srcNode.toNat) :=
  ⟨⟨(linked joined conn), (takes { frame 2 with flags := 2 }), _, _, _, conn, by decide +kernel, by decide +kernel, rfl, rfl,
      by decide +kernel, by decide +kernel, rfl, by decide +kernel⟩,
    ⟨(linked joined conn), (takes (frame 2)), _, _, _, conn, by decide +kernel, by decide +kernel, rfl, rfl,
      by decide +kernel, by decide +kernel, rfl, by decide +kernel⟩,
    ⟨(linked joined conn), (takes (frame 8)), _, _, _, conn, by decide +kernel, by decide +kernel, rfl, rfl,
      by decide +kernel, by decide +kernel, rfl⟩,
    ⟨(linked joined conn), (takes (frame 9)), _, _, conn, by decide +kernel, by decide +kernel, rfl, rfl, by decide +kernel,
      by decide +kernel⟩,
    ⟨(linked joined conn), (takes (frame 0x0A)), _, _, conn, by decide +kernel, by decide +kernel, rfl, rfl,
      by decide +kernel, by decide +kernel, by decide +kernel⟩,
    ⟨(linked joined { conn with state := .opening }), (takes (frame 0x0A)), _, _, { conn with state := .opening },
      by decide +kernel, by decide +kernel, rfl, rfl, by decide +kernel, by decide +kernel, by decide +kernel⟩⟩

theorem test_witness_ConnectionFramesComplete :
    (∃ (s : State) (rx : Rx) (t : State), s.reaches rx 0x0B = true ∧ rx.tagOk = true ∧ t = s.rxWork rx.port.val ∧ t.epochClass
      rx.frame.epoch.toNat = 0) ∧
    (∃ (s : State) (rx : Rx) (t : State), s.reaches rx 0x0B = true ∧ rx.tagOk = true ∧ t = s.rxWork rx.port.val ∧ t.epochClass
      rx.frame.epoch.toNat = 1) ∧
    (∃ (s : State) (rx : Rx) (t : State) (u : State) (c : Nat) (k : Conn) (id : Nat), s.reaches rx 0x0C = true ∧ rx.tagOk =
      true ∧ t = s.rxWork rx.port.val ∧ c = rx.frame.dstConn.toNat ∧ t.conn c = some k ∧ k.state = .opening ∧ k.node =
      rx.frame.srcNode.toNat ∧ k.cmd = some id ∧ u = t.modConn c (fun k =>
      { k with state := .open_, remote := rx.frame.srcConn.toNat, cmd := none, lastResponse := t.now, lastUse := t.now, rnrAt := none, retryAt := none, unacked := k.unacked.map fun x => { x with frame := { x.frame with dstConn := rx.frame.srcConn } } })) ∧
    (∃ (s : State) (rx : Rx) (t : State) (u : State) (c : Nat) (k : Conn), s.reaches rx 0x0D = true ∧ rx.tagOk = true ∧ t =
      s.rxWork rx.port.val ∧ c = rx.frame.dstConn.toNat ∧ t.conn c = some k ∧ k.isOf rx.frame = true ∧ u = ((t.takeWaiting
      c).1.respond rx 0x0E 0 0 Frame.zero).killConn c 1) ∧
    (∃ (s : State) (rx : Rx) (t : State) (c : Nat) (k : Conn), s.reaches rx 0x0E = true ∧ rx.tagOk = true ∧ t = s.rxWork
      rx.port.val ∧ c = rx.frame.dstConn.toNat ∧ t.conn c = some k ∧ k.isOf rx.frame = true ∧ k.state = .closing ∧ k.cmd = none) ∧
    (∃ (s : State) (rx : Rx) (t : State), reservedOp rx.frame.op.toNat = true ∧ s.reaches rx rx.frame.op.toNat = true ∧
      rx.tagOk = true ∧ t = s.rxWork rx.port.val) :=
  ⟨⟨joined, (takes (frame 0x0B)), _, by decide +kernel, by decide +kernel, rfl, by decide +kernel⟩,
    ⟨joined, (takes { frame 0x0B with epoch := 127 }), _, by decide +kernel, by decide +kernel, rfl, by decide +kernel⟩,
    ⟨(linked joined { conn with state := .opening, cmd := some 4 }), (takes (frame 0x0C)), _, _, _,
      { conn with state := .opening, cmd := some 4 }, 4, by decide +kernel, by decide +kernel, rfl, rfl, by decide +kernel,
      by decide +kernel, by decide +kernel, by decide +kernel, rfl⟩,
    ⟨(linked joined conn), (takes (frame 0x0D)), _, _, _, conn, by decide +kernel, by decide +kernel, rfl, rfl,
      by decide +kernel, by decide +kernel, rfl⟩,
    ⟨(linked joined { conn with state := .closing }), (takes (frame 0x0E)), _, _, { conn with state := .closing },
      by decide +kernel, by decide +kernel, rfl, rfl, by decide +kernel, by decide +kernel, by decide +kernel,
      by decide +kernel⟩,
    ⟨joined, (takes (frame 0xFF)), _, by decide +kernel, by decide +kernel, by decide +kernel, rfl⟩⟩

theorem test_witness_ConnectionTimersComplete :
    (∃ (s : State) (conn : BitVec 16) (k : Conn) (since : Nat) (last : BitVec 32), s.live = true ∧ s.conn conn.toNat = some k
      ∧ k.oldestRx = some since ∧ k.state ≠ .dead ∧ since + 2 * ticksPerUs ≤ s.now ∧ last = BitVec.ofNat 32 (psnBefore
      k.expect)) ∧
    (∃ (s : State) (conn : BitVec 16) (k : Conn) (x : Sent) (xs : List Sent), s.live = true ∧ s.conn conn.toNat = some k ∧
      k.unacked = x :: xs ∧ x.begun = true ∧ k.state ≠ .dead ∧ k.retryAt = none ∧ k.rnrAt = none ∧ x.sentAt + s.fld
      asfTimers_rtoUs 0 * ticksPerUs ≤ s.now) ∧
    (∃ (s : State) (conn : BitVec 16) (k : Conn) (t : Nat), s.live = true ∧ s.conn conn.toNat = some k ∧ k.rnrAt = some t ∧ t
      ≤ s.now) ∧
    (∃ (s : State) (conn : BitVec 16) (k : Conn) (t : Nat), s.live = true ∧ s.conn conn.toNat = some k ∧ k.retryAt = some t ∧
      t ≤ s.now) ∧
    (∃ (s : State), s.live = true) ∧
    (∃ (s : State) (conn : BitVec 16) (k : Conn) (x : Stall) (u : State), s.live = true ∧ s.conn conn.toNat = some k ∧
      k.stalled = some x ∧ x.forPage = true ∧ x.since + s.fld asfPaging_stallLimitUs 0 * ticksPerUs ≤ s.now ∧ u = (s.modConn
      conn.toNat fun k => { k with stalled := none }).retryAfter conn.toNat x.rx 10) ∧
    (∃ (s : State) (conn : BitVec 16) (k : Conn), s.live = true ∧ s.conn conn.toNat = some k ∧ k.waits = true ∧ k.state =
      .opening ∧ k.lastResponse + s.fld asfTimers_timeoutUs 0 * ticksPerUs ≤ s.now) ∧
    (∃ (s : State) (conn : BitVec 16) (k : Conn), s.live = true ∧ s.conn conn.toNat = some k ∧ k.waits = true ∧ k.state ≠
      .opening ∧ k.lastResponse + s.fld asfTimers_timeoutUs 0 * ticksPerUs ≤ s.now) :=
  ⟨⟨(linked (later joined) { conn with oldestRx := some 0 }), 3, { conn with oldestRx := some 0 }, 0, _, by decide +kernel,
      by decide +kernel, by decide +kernel, by decide +kernel, by decide +kernel, rfl⟩,
    ⟨(linked (later joined) { conn with unacked := [sent] }), 3, { conn with unacked := [sent] }, sent, [], by decide +kernel,
      by decide +kernel, by decide +kernel, by decide +kernel, by decide +kernel, by decide +kernel, by decide +kernel,
      by decide +kernel⟩,
    ⟨(linked (later joined) { conn with rnrAt := some 0 }), 3, { conn with rnrAt := some 0 }, 0, by decide +kernel,
      by decide +kernel, by decide +kernel, by decide +kernel⟩,
    ⟨(linked (later joined) { conn with retryAt := some 0 }), 3, { conn with retryAt := some 0 }, 0, by decide +kernel,
      by decide +kernel, by decide +kernel, by decide +kernel⟩,
    ⟨joined, by decide +kernel⟩,
    ⟨(linked (later joined)
      { conn with stalled := some ⟨takes (frame 3), .data, 256, ⟨1, 0, 4096, 3, 5, 0, false, none, none⟩, .page 256, 0⟩ }), 3,
      { conn with stalled := some ⟨takes (frame 3), .data, 256, ⟨1, 0, 4096, 3, 5, 0, false, none, none⟩, .page 256, 0⟩ },
      ⟨takes (frame 3), .data, 256, ⟨1, 0, 4096, 3, 5, 0, false, none, none⟩, .page 256, 0⟩, _, by decide +kernel,
      by decide +kernel, by decide +kernel, by decide +kernel, by decide +kernel, rfl⟩,
    ⟨(linked (later joined) { conn with state := .opening }), 3, { conn with state := .opening }, by decide +kernel,
      by decide +kernel, by decide +kernel, by decide +kernel, by decide +kernel⟩,
    ⟨(linked (later joined) { conn with unacked := [sent] }), 3, { conn with unacked := [sent] }, by decide +kernel,
      by decide +kernel, by decide +kernel, by decide +kernel, by decide +kernel⟩⟩

theorem test_witness_PortRowsComplete :
    (∃ (s : State) (port : Fin 8), s.live = true ∧ s.ownNode ≠ 0xFFFF ∧ s.asf.links.contains port.val = true ∧ mgetD
      s.shp.portFree port.val 0 ≤ s.now) ∧
    (∃ (s : State) (port : Fin 8), s.live = true ∧ s.asf.links.contains port.val = true) ∧
    (∃ (s : State) (port : Fin 8) (t : State), s.live = true ∧ s.asf.links.contains port.val = false ∧ s.portRef port.val =
      true ∧ t = (if s.domainState (89 + port.val) = 0 then s else s.comeUp (89 + port.val))) ∧
    (∃ (s : State), s.live = true ∧ s.flag asfEpoch_prevLive 0 = true ∧ (s.oldInflight = 0 ∨ s.asf.oldSince + 10 * ticksPerMs
      ≤ s.now)) ∧
    (∃ (s : State) (home : BitVec 16), s.live = true ∧ s.sliceHome home.toNat = true) :=
  ⟨⟨joined, 0, by decide +kernel, by decide +kernel, by decide +kernel, by decide +kernel⟩,
    ⟨joined, 0, by decide +kernel, by decide +kernel⟩,
    ⟨joined, 1, _, by decide +kernel, by decide +kernel, by decide +kernel, rfl⟩,
    ⟨((later joined).setFlag asfEpoch_prevLive 0 true), by decide +kernel, by decide +kernel, by decide +kernel⟩,
    ⟨joined, 6, by decide +kernel, by decide +kernel⟩⟩

theorem test_witness_WindowRowsComplete :
    (∃ (s : State) (fn : Fn) (w : Fin 16) (data : List (BitVec 8)) (i : Nat), s.live = true ∧ i = winOf (fnNum fn) w.val ∧
      s.flag asfRwinCtrl_enable i = true ∧ data ≠ []) ∧
    (∃ (s : State) (fn : Fn) (w : Fin 16) (len : Nat) (i : Nat), s.live = true ∧ i = winOf (fnNum fn) w.val ∧ s.flag
      asfRwinCtrl_enable i = true ∧ len ≠ 0) ∧
    (∃ (s : State) (fn : Fn) (w : Fin 16) (i : Nat), s.live = true ∧ i = winOf (fnNum fn) w.val ∧ s.flag asfRwinCtrl_enable i
      = false) ∧
    (∃ (s : State) (fn : Fn) (w : Fin 16) (op : AtomicOp) (i : Nat) (o : Nat) (bytes : List (BitVec 8)) (len : Nat), s.live =
      true ∧ i = winOf (fnNum fn) w.val ∧ s.flag asfRwinCtrl_enable i = true ∧ atomicFrame op = some (o, bytes, len)) ∧
    (∃ (s : State) (fn : Fn) (w : Fin 16) (lane : Lane) (i : Nat), s.live = true ∧ i = winOf (fnNum fn) w.val ∧ s.flag
      asfRwinCtrl_enable i = true ∧ lane ≠ .high) ∧
    (∃ (s : State) (fn : Fn) (v : BitVec 64) (i : Nat) (r : Region), s.live = true ∧ s.flag asfOwnStat_busy 0 = false ∧
      s.regionOf (fnNum fn) (asfOwnCmd_key.get v) = some (i, r)) :=
  ⟨⟨(ready.setFlag asfRwinCtrl_enable 15 true), .mgmt, 15, [0], _, by decide +kernel, rfl, by decide +kernel,
      by decide +kernel⟩,
    ⟨(ready.setFlag asfRwinCtrl_enable 15 true), .mgmt, 15, 1, _, by decide +kernel, rfl, by decide +kernel,
      by decide +kernel⟩,
    ⟨ready, .mgmt, 15, _, by decide +kernel, rfl, by decide +kernel⟩,
    ⟨(ready.setFlag asfRwinCtrl_enable 15 true), .mgmt, 15, .fetchAdd 0, _, 5, leBytes 8 0, 8, by decide +kernel, rfl,
      by decide +kernel, by decide +kernel⟩,
    ⟨(ready.setFlag asfRwinCtrl_enable 15 true), .mgmt, 15, .full, _, by decide +kernel, rfl, by decide +kernel,
      by decide +kernel⟩,
    ⟨{ ready with asf := { ready.asf with regions := [(0, ⟨1, 0, 4096, 3, 5, 0, false, none, none⟩)] } }, .mgmt,
      0x100000000000, 0, ⟨1, 0, 4096, 3, 5, 0, false, none, none⟩, by decide +kernel, by decide +kernel, by decide +kernel⟩⟩

theorem test_witness_ApertureRowsComplete :
    (∃ (s : State), s.hubRuns = true ∧ s.stage ≠ 7) ∧
    (∃ (s : State) (off : BitVec 38) (op : MemOp), s.hubRuns = true ∧ s.stage = 7 ∧ s.bar4 off.toNat ≠ .remote ∧ s.bar4
      off.toNat ≠ .hole ∧ s.bar4 (off.toNat + (MemOp.size op - 1)) ≠ .hole ∧ s.holdPoint (s.bar4Places off.toNat (MemOp.size
      op)) = none) ∧
    (∃ (s : State) (off : BitVec 38) (op : MemOp) (c : Nat), s.hubRuns = true ∧ s.stage = 7 ∧ s.bar4 off.toNat ≠ .remote ∧
      s.bar4 off.toNat ≠ .hole ∧ s.bar4 (off.toNat + (MemOp.size op - 1)) ≠ .hole ∧ s.holdPoint (s.bar4Places off.toNat
      (MemOp.size op)) = some c) ∧
    (∃ (s : State) (off : BitVec 38) (op : MemOp) (t : State), s.hubRuns = true ∧ s.stage = 7 ∧ s.bar4 off.toNat ≠ .remote ∧
      (s.bar4 off.toNat = .hole ∨ s.bar4 (off.toNat + (MemOp.size op - 1)) = .hole) ∧ t = s.bump genApertureHole_count 0 1 ∧
      t.holdPoint (t.bar4Places off.toNat (MemOp.size op)) = none) ∧
    (∃ (s : State), s.bar0Keeps .glbBar4Cfg 0 = true) :=
  ⟨⟨(ready.setFld plnBoot_stage 0 4), by decide +kernel, by decide +kernel⟩,
    ⟨ready, 0, .read 1, by decide +kernel, by decide +kernel, by decide +kernel, by decide +kernel, by decide +kernel,
      by decide +kernel⟩,
    ⟨(ready.setFld genChmode_mode 0 1), 0, .read 1, 0, by decide +kernel, by decide +kernel, by decide +kernel,
      by decide +kernel, by decide +kernel, by decide +kernel⟩,
    ⟨(ready.setFld glbBar4Cfg_intBaseGib 0 191), 0x3040000000, .read 1, _, by decide +kernel, by decide +kernel,
      by decide +kernel, by decide +kernel, rfl, by decide +kernel⟩,
    ⟨ready, by decide +kernel⟩⟩

theorem test_witness_TimeRowsComplete :
    (∃ (s : State) (copies : List (Nat × ℤ)) (off : List (Nat × ℤ)), s.live = true ∧ off = copies.filter (fun c => 2 <
      c.2.natAbs && !mhas s.pwr.copies c.1 && !s.tmb.drift.any fun d => d.1 = c.1)) ∧
    (∃ (s : State), s.live = true ∧ s.intervalOver = true ∧ s.asksTime = true) ∧
    (∃ (s : State), s.live = true ∧ s.intervalOver = true ∧ s.asksTime = false ∧ s.fld tmbCtrl_phaseSrc 0 = 2) ∧
    (∃ (s : State) (port : Fin 8), s.live = true ∧ s.ownNode ≠ 0xFFFF ∧ s.asf.links.contains port.val = true) ∧
    (∃ (s : State) (t1 : BitVec 64) (q : Nat), s.live = true ∧ s.fld tmbCtrl_phaseSrc 0 = 1 ∧ s.tmb.reqT1 = some (q,
      t1.toNat)) ∧
    (∃ (s : State), s.live = true ∧ s.fld tmbCtrl_freqSrc 0 = 1 ∧ s.tmb.fallback = false) ∧
    (∃ (s : State), s.live = true ∧ s.tmb.fallback = true) ∧
    (∃ (s : State) (port : Fin 8) (domain : BitVec 8), s.live = true ∧ s.fld tmbCtrl_phaseSrc 0 = 2 ∧ port.val = s.fld
      tmbPtpCfg_port 0 ∧ domain.toNat = s.fld tmbPtpCfg_domain 0) ∧
    (∃ (s : State) (port : Fin 8) (clock : BitVec 64) (domain : BitVec 8) (x : Nat × Nat), s.live = true ∧ s.fld
      tmbCtrl_phaseSrc 0 = 2 ∧ port.val = s.fld tmbPtpCfg_port 0 ∧ domain.toNat = s.fld tmbPtpCfg_domain 0 ∧ bestMaster
      s.tmb.masters = some x ∧ x.1 = clock.toNat) ∧
    (∃ (s : State) (t : State) (u : State), s.live = true ∧ t = s.ppsEvent ∧ (t.tmb.lastPps.any fun x => t.now < x + 9 *
      (ticksPerS / 10)) = false ∧ u = (({ t with tmb := { t.tmb with lastPps := some t.now } }).setFld tmbPpsInTs_tick 0
      t.now).setFlag tmbStat_ppsLost 0 false ∧ u.fld tmbCtrl_phaseSrc 0 ≠ 3) ∧
    (∃ (s : State) (t : State) (u : State), s.live = true ∧ t = s.ppsEvent ∧ (t.tmb.lastPps.any fun x => t.now < x + 9 *
      (ticksPerS / 10)) = false ∧ u = (({ t with tmb := { t.tmb with lastPps := some t.now } }).setFld tmbPpsInTs_tick 0
      t.now).setFlag tmbStat_ppsLost 0 false ∧ u.fld tmbCtrl_phaseSrc 0 = 3) ∧
    (∃ (s : State) (t : State), s.live = true ∧ t = s.ppsEvent ∧ (t.tmb.lastPps.any fun x => t.now < x + 9 * (ticksPerS / 10))
      = true) ∧
    (∃ (s : State) (t : State), s.live = true ∧ s.tmb.lastPps.getD 0 + 3 * (ticksPerS / 2) ≤ s.now ∧ t = s.setFlag
      tmbStat_ppsLost 0 true) ∧
    (∃ (s : State), s.live = true ∧ s.tmb.ppsHigh = none ∧ s.flag tmbPpsCfg_enable 0 = true ∧ ((s.now : Int) + s.fldInt
      tmbPpsCfg_outComp 0) % ticksPerS = 0) ∧
    (∃ (s : State) (t : Nat), s.live = true ∧ s.tmb.ppsHigh = some t ∧ (s.flag tmbPpsCfg_enable 0 = false ∨ t + s.fld
      tmbPpsCfg_width 0 * ticksPerUs ≤ s.now)) ∧
    (∃ (s : State) (fn : Fn) (lane : Lane) (v : BitVec 64) (w : Nat), s.bar0Keeps .tmbAdj 0 = true ∧ s.triggered (fnNum fn)
      lane tmbAdj_adj 0 v = some w ∧ s.overStep v.toInt = true ∧ s.mayStep = true) ∧
    (∃ (s : State) (fn : Fn) (lane : Lane) (v : BitVec 64) (w : Nat), s.bar0Keeps .tmbAdj 0 = true ∧ s.triggered (fnNum fn)
      lane tmbAdj_adj 0 v = some w ∧ (s.overStep v.toInt = false ∨ s.mayStep = false)) :=
  ⟨⟨ready, [(0, 5)], _, by decide +kernel, rfl⟩,
    ⟨((joined.setFld tmbCtrl_phaseSrc 0 1).setFld tmbCtrl_master 0 6), by decide +kernel, by decide +kernel,
      by decide +kernel⟩,
    ⟨(ready.setFld tmbCtrl_phaseSrc 0 2), by decide +kernel, by decide +kernel, by decide +kernel, by decide +kernel⟩,
    ⟨joined, 0, by decide +kernel, by decide +kernel, by decide +kernel⟩,
    ⟨{ ready.setFld tmbCtrl_phaseSrc 0 1 with tmb := { (ready.setFld tmbCtrl_phaseSrc 0 1).tmb with reqT1 := some (0, 0) } },
      0, 0, by decide +kernel, by decide +kernel, by decide +kernel⟩,
    ⟨(ready.setFld tmbCtrl_freqSrc 0 1), by decide +kernel, by decide +kernel, by decide +kernel⟩,
    ⟨{ ready with tmb := { (ready).tmb with fallback := true } }, by decide +kernel, by decide +kernel⟩,
    ⟨(ready.setFld tmbCtrl_phaseSrc 0 2), 0, 0, by decide +kernel, by decide +kernel, by decide +kernel, by decide +kernel⟩,
    ⟨({ ready with tmb := { ready.tmb with masters := [(5, 0)] } }.setFld tmbCtrl_phaseSrc 0 2), 0, 5, 0, (5, 0),
      by decide +kernel, by decide +kernel, by decide +kernel, by decide +kernel, by decide +kernel, by decide +kernel⟩,
    ⟨ready, _, _, by decide +kernel, rfl, by decide +kernel, rfl, by decide +kernel⟩,
    ⟨(ready.setFld tmbCtrl_phaseSrc 0 3), _, _, by decide +kernel, rfl, by decide +kernel, rfl, by decide +kernel⟩,
    ⟨{ ready with tmb := { (ready).tmb with lastPps := some 0 } }, _, by decide +kernel, rfl, by decide +kernel⟩,
    ⟨(later ready), _, by decide +kernel, by decide +kernel, rfl⟩,
    ⟨(ready.setFlag tmbPpsCfg_enable 0 true), by decide +kernel, by decide +kernel, by decide +kernel, by decide +kernel⟩,
    ⟨{ (later ready).setFlag tmbPpsCfg_enable 0 true with tmb := { ((later ready).setFlag tmbPpsCfg_enable 0 true).tmb with ppsHigh := some 0 } },
      0, by decide +kernel, by decide +kernel, by decide +kernel⟩,
    ⟨ready, .mgmt, .full, 0x10000000000, 0x10000000000, by decide +kernel, by decide +kernel, by decide +kernel,
      by decide +kernel⟩,
    ⟨ready, .mgmt, .full, 0, 0, by decide +kernel, by decide +kernel, by decide +kernel⟩⟩

theorem test_witness_ShapingRowsComplete :
    (∃ (s : State) (port : Fin 8) (g : GateList) (t : Nat), s.live = true ∧ mget s.shp.gates port.val = some g ∧ g.idxEnd =
      some t ∧ t ≤ s.now) ∧
    (∃ (s : State) (fn : Fn) (port : Fin 8) (lane : Lane) (v : BitVec 64) (w : State), s.bar0Keeps .shpGateCtrl port.val =
      true ∧ w = s.writeFields (fnNum fn) lane .shpGateCtrl port.val v ∧ s.pulled (fnNum fn) lane shpGateCtrl_arm port.val v =
      true ∧ s.pulled (fnNum fn) lane shpGateCtrl_cancel port.val v = false ∧ w.armRefused port.val = false) ∧
    (∃ (s : State) (fn : Fn) (port : Fin 8) (lane : Lane) (v : BitVec 64) (w : State), s.bar0Keeps .shpGateCtrl port.val =
      true ∧ w = s.writeFields (fnNum fn) lane .shpGateCtrl port.val v ∧ s.pulled (fnNum fn) lane shpGateCtrl_arm port.val v =
      true ∧ s.pulled (fnNum fn) lane shpGateCtrl_cancel port.val v = false ∧ w.armRefused port.val = true) ∧
    (∃ (s : State) (fn : Fn) (port : Fin 8) (lane : Lane) (v : BitVec 64), s.bar0Keeps .shpGateCtrl port.val = true ∧ s.pulled
      (fnNum fn) lane shpGateCtrl_arm port.val v = false ∧ s.pulled (fnNum fn) lane shpGateCtrl_cancel port.val v = true) ∧
    (∃ (s : State) (port : Fin 8) (t : Nat) (bind : Option Nat), s.live = true ∧ s.takeoverAt port.val = some t ∧ bind = (if
      s.flag shpGateCtrl_bind port.val then some (s.fld shpGateCtrl_partition port.val) else none)) ∧
    (∃ (s : State) (t : State), s.live = true ∧ 0 < s.refillsDue ∧ t = s.refillAll s.refillsDue) ∧
    (∃ (s : State) (b : BucketId), s.bar0Keeps (bucketReg b).1 (bucketReg b).2.1 = true) ∧
    (∃ (s : State) (t : State), s.live = true ∧ s.flag shpSampleCtrl_enable 0 = true ∧ s.now % 4000 = 0 ∧ s.shp.sampledAt <
      s.now ∧ t = ((List.range 8).filter fun q => s.fld shpSampleCtrl_ports 0 / 2 ^ q % 2 = 1).foldl State.samplePort s) :=
  ⟨⟨{ ready with shp := { ready.shp with gates := [(7, ⟨[], 4000, none, 0, 0, some 0⟩)] } }, 7, ⟨[], 4000, none, 0, 0, some
      0⟩, 0, by decide +kernel, by decide +kernel, by decide +kernel, by decide +kernel⟩,
    ⟨((ready.setFld shpGateSwap_tick 7 4000).setFld shpGateEntry_duration 1792 100), .mgmt, 7, .full, 0x1000000000000, _,
      by decide +kernel, rfl, by decide +kernel, by decide +kernel, by decide +kernel⟩,
    ⟨ready, .mgmt, 7, .full, 0x1000000000000, _, by decide +kernel, rfl, by decide +kernel, by decide +kernel,
      by decide +kernel⟩,
    ⟨ready, .mgmt, 7, .full, 0x2000000000000, by decide +kernel, by decide +kernel, by decide +kernel⟩,
    ⟨(ready.setFlag shpGateCtrl_armed 7 true), 7, 0, _, by decide +kernel, by decide +kernel, rfl⟩,
    ⟨(later ready), _, by decide +kernel, by decide +kernel, rfl⟩,
    ⟨ready, .group 16, by decide +kernel⟩,
    ⟨((later ready).setFlag shpSampleCtrl_enable 0 true), _, by decide +kernel, by decide +kernel, by decide +kernel,
      by decide +kernel, rfl⟩⟩

theorem test_witness_HeartbeatRowsComplete :
    (∃ (s : State) (t : State), s.live = true ∧ s.flag resCtrl_enable 0 = true ∧ (s.res.beats = 0 ∨ s.res.lastBeat + s.fld
      resCtrl_beatUs 0 * ticksPerUs ≤ s.now) ∧ t = s.watchers.foldl (fun t n => t.sendGroup n 0x14 s.beatBody) s) ∧
    (∃ (s : State) (rx : Rx) (t : State), s.reaches rx 0x14 = true ∧ rx.tagOk = true ∧ t = s.rxWork rx.port.val ∧
      rx.frame.payload.length = 32 ∧ frameNum rx.frame 3 1 < 8 ∧ frameNum rx.frame 9 7 = 0) ∧
    (∃ (s : State) (node : BitVec 16), s.live = true ∧ s.watches node.toNat = true ∧ s.overdue node.toNat = true) ∧
    (∃ (s : State) (node : BitVec 16), s.live = true ∧ s.flag resCtrl_enable 0 = true ∧ s.managing = true ∧ s.suspectedLong
      node.toNat = true) ∧
    (∃ (s : State) (rx : Rx) (t : State), s.reaches rx 0x15 = true ∧ rx.tagOk = true ∧ t = s.rxWork rx.port.val ∧
      rx.frame.payload.length = 32 ∧ frameNum rx.frame 2 1 = 0 ∧ frameNum rx.frame 3 29 = 0 ∧ frameNum rx.frame 0 2 = t.ownNode) ∧
    (∃ (s : State) (rx : Rx) (t : State), s.reaches rx 0x15 = true ∧ rx.tagOk = true ∧ t = s.rxWork rx.port.val ∧
      rx.frame.payload.length = 32 ∧ frameNum rx.frame 2 1 = 1 ∧ frameNum rx.frame 3 29 = 0) :=
  ⟨⟨(joined.setFlag resCtrl_enable 0 true), _, by decide +kernel, by decide +kernel, by decide +kernel, rfl⟩,
    ⟨joined, (takes (beat 0x14 [])), _, by decide +kernel, by decide +kernel, rfl, by decide +kernel, by decide +kernel,
      by decide +kernel⟩,
    ⟨(watching ⟨0, none, 0, 0, 2⟩), 6, by decide +kernel, by decide +kernel, by decide +kernel⟩,
    ⟨(watching ⟨0, some 0, 0, 0, 2⟩), 6, by decide +kernel, by decide +kernel, by decide +kernel, by decide +kernel⟩,
    ⟨joined, (takes (beat 0x15 [5])), _, by decide +kernel, by decide +kernel, rfl, by decide +kernel, by decide +kernel,
      by decide +kernel, by decide +kernel⟩,
    ⟨joined, (takes (beat 0x15 [6, 0, 1])), _, by decide +kernel, by decide +kernel, rfl, by decide +kernel,
      by decide +kernel, by decide +kernel⟩⟩

theorem test_witness_DecisionRowsComplete :
    (∃ (s : State) (rx : Rx) (t : State), s.reaches rx 0x16 = true ∧ rx.tagOk = true ∧ t = s.rxWork rx.port.val ∧
      rx.frame.payload.length = 32 ∧ frameNum rx.frame 7 1 < 2 ∧ frameNum rx.frame 10 6 = 0) ∧
    (∃ (s : State) (due : List Decision), s.live = true ∧ s.managing = true ∧ due = s.res.decisions.filter (fun d => d.sentAt
      + s.fld resCtrl_beatUs 0 * ticksPerUs ≤ s.now)) ∧
    (∃ (s : State) (d : Decision), s.lacking d = []) ∧
    (∃ (s : State) (t : State) (d : Decision), s.lacking d ≠ [] ∧ t = (d.node :: s.lacking d).foldl (fun s n => s.sendGroup n
      0x16 (decisionBody d.term d.node d.epoch 0 0 d.tick)) s) ∧
    (∃ (s : State) (i : Nat), s.live = true ∧ s.deputyIndex = some i ∧ s.flag resCtrl_enable 0 = true ∧ s.managing = false ∧
      isNode (s.fld resMgr_acting 0) = true ∧ s.lowerSilent i = true ∧ s.overdue (s.fld resMgr_acting 0) = true) ∧
    (∃ (s : State) (i : Nat), s.live = true ∧ s.deputyIndex = some i ∧ s.flag resCtrl_enable 0 = true ∧ s.managing = false ∧
      isNode (s.fld resMgr_acting 0) = true ∧ s.lowerSilent i = true ∧ s.overdue (s.fld resMgr_acting 0) = false ∧
      s.suspectedLong (s.fld resMgr_acting 0) = true) ∧
    (∃ (s : State) (rx : Rx) (t : State), s.reaches rx 0x17 = true ∧ rx.tagOk = true ∧ t = s.rxWork rx.port.val ∧
      rx.frame.payload.length = 32 ∧ frameNum rx.frame 8 24 = 0) ∧
    (∃ (s : State), s.live = true ∧ s.res.unspared ≠ [] ∧ s.res.sparedAt + ticksPerMs ≤ s.now) ∧
    (∃ (s : State) (handle : BitVec 18) (q : Seq), s.live = true ∧ s.seq handle.toNat = some q ∧ s.copyWanted handle.toNat q =
      true ∧ (if q.prot || q.copying then s.copyLanded handle.toNat q else s.appendsAcked handle.toNat) = true) ∧
    (∃ (s : State) (handle : BitVec 18) (q : Seq), s.live = true ∧ s.seq handle.toNat = some q ∧ s.copyWanted handle.toNat q =
      true) :=
  ⟨⟨joined, (takes (beat 0x16 [])), _, by decide +kernel, by decide +kernel, rfl, by decide +kernel, by decide +kernel,
      by decide +kernel⟩,
    ⟨(watching ⟨0, none, 0, 0, 2⟩), _, by decide +kernel, by decide +kernel, rfl⟩,
    ⟨joined, ⟨0, 7, 1, 0, 0⟩, by decide +kernel⟩,
    ⟨(watching ⟨0, none, 0, 0, 2⟩), _, ⟨0, 7, 1, 0, 0⟩, by decide +kernel, rfl⟩,
    ⟨(deputy ⟨0, none, 0, 0, 2⟩), 0, by decide +kernel, by decide +kernel, by decide +kernel, by decide +kernel,
      by decide +kernel, by decide +kernel, by decide +kernel⟩,
    ⟨(deputy ⟨0, some 0, 0, 0, 2⟩), 0, by decide +kernel, by decide +kernel, by decide +kernel, by decide +kernel,
      by decide +kernel, by decide +kernel, by decide +kernel, by decide +kernel⟩,
    ⟨joined, (takes (beat 0x17 [])), _, by decide +kernel, by decide +kernel, rfl, by decide +kernel, by decide +kernel⟩,
    ⟨{ later ready with res := { ready.res with unspared := [7] } }, by decide +kernel, by decide +kernel, by decide +kernel⟩,
    ⟨(holding joined { seqIn .ready with copying := true, copied := 2 }), 7,
      { seqIn .ready with copying := true, copied := 2 }, by decide +kernel, by decide +kernel, by decide +kernel,
      by decide +kernel⟩,
    ⟨(holding joined { seqIn .ready with copying := true }), 7, { seqIn .ready with copying := true }, by decide +kernel,
      by decide +kernel, by decide +kernel⟩⟩

theorem test_witness_ErrorRowsComplete :
    (∃ (s : State) (e : ErrorReport), s.takesErrors e.sev.toNat = true ∧ 1 ≤ e.unit.toNat ∧ e.unit.toNat ≤ 0x10) ∧
    (∃ (s : State) (u : BitVec 8) (code : BitVec 16) (location : BitVec 64) (m : ErrRec × Nat × Nat), s.res.merging.find? (fun
      m => m.1.unit = u.toNat && m.1.code = code.toNat && m.1.location = location) = some m ∧ m.2.1 + ticksPerMs ≤ s.now ∧ 0 <
      m.2.2) ∧
    (∃ (s : State), s.windowStart + s.fld resCeCfg_windowMs 0 * ticksPerMs ≤ s.now) ∧
    (∃ (s : State), s.bar0Keeps .glbErrlogCtrl 0 = true) ∧
    (∃ (s : State) (core : Fin 16) (p : Nat), s.live = true ∧ (List.range 16).filter (fun p => s.fld dbgHalt_cores p / 2 ^
      core.val % 2 = 1) = [p]) ∧
    (∃ (s : State) (core : Fin 16), s.live = true ∧ (List.range 16).filter (fun p => s.fld dbgHalt_cores p / 2 ^ core.val % 2
      = 1) = []) :=
  ⟨⟨ready, ⟨3, 0x10, 1, none, 0, 0, 0, none, 0⟩, by decide +kernel, by decide +kernel, by decide +kernel⟩,
    ⟨{ later ready with res := { ready.res with merging := [(⟨0, 0, 0, 1, 1, none, 1, 0, 0, 0, none, 0, 0⟩, 0, 5)] } }, 1, 1,
      0, (⟨0, 0, 0, 1, 1, none, 1, 0, 0, 0, none, 0, 0⟩, 0, 5), by decide +kernel, by decide +kernel, by decide +kernel⟩,
    ⟨(later ready), by decide +kernel⟩,
    ⟨ready, by decide +kernel⟩,
    ⟨(ready.setFld dbgHalt_cores 15 1), 0, 15, by decide +kernel, by decide +kernel⟩,
    ⟨ready, 0, by decide +kernel, by decide +kernel⟩⟩

theorem test_witness_SleepRowsComplete :
    (∃ (s : State), s.live = true ∧ s.fld pwrDevStat_state 0 = 0) ∧
    (∃ (s : State) (d : Fin 102) (source : BitVec 4), s.live = true ∧ 1 ≤ source.toNat ∧ source.toNat ≤ 10 ∧ s.domainState
      d.val ≠ 0 ∧ mget s.pwr.waking d.val = none) ∧
    (∃ (s : State) (d : Fin 102), s.live = true ∧ (s.neededBy d.val (s.now + wakeTicks (s.domainState d.val))).isSome = true) ∧
    (∃ (s : State) (d : Fin 102) (w : Nat × Nat), s.live = true ∧ mget s.pwr.waking d.val = some w ∧ w.2 + wakeTicks
      (s.domainState d.val) ≤ s.now ∧ s.locked d.val = true) ∧
    (∃ (s : State), s.live = true ∧ s.fld pwrDevStat_state 0 = 0 ∧ s.flag pwrDevCfg_c3En 0 = true ∧ mgetD s.pwr.lastWork 100 0
      + s.fld pwrDevCfg_c3IdleMs 0 * ticksPerMs ≤ s.now ∧ s.asithBusy = false ∧ s.c3Refuser = none) ∧
    (∃ (s : State) (source : BitVec 4), s.live = true ∧ s.fld pwrDevStat_state 0 = 1 ∧ 1 ≤ source.toNat ∧ source.toNat ≤ 10) ∧
    (∃ (s : State), s.live = true ∧ s.fld pwrDevStat_state 0 = 1 ∧ s.flag pwrDevCfg_c5En 0 = true ∧ s.pwr.c3Since + s.fld
      pwrDevCfg_c5IdleS 0 * 1000 * ticksPerMs ≤ s.now ∧ s.c5Refuser = none) ∧
    (∃ (s : State) (source : BitVec 4), s.stage = 7 ∧ s.fld pwrDevStat_state 0 = 2 ∧ s.pln.c6 = false ∧ 1 ≤ source.toNat ∧
      source.toNat ≤ 10) ∧
    (∃ (s : State) (source : BitVec 4), s.stage = 7 ∧ s.fld pwrDevStat_state 0 = 2 ∧ s.pln.c6 = false ∧ 1 ≤ source.toNat ∧
      source.toNat ≤ 10) :=
  ⟨⟨ready, by decide +kernel, by decide +kernel⟩,
    ⟨(ready.setFld pwrDomStat_state 100 1), 100, 10, by decide +kernel, by decide +kernel, by decide +kernel,
      by decide +kernel, by decide +kernel⟩,
    ⟨(tabled ready), 100, by decide +kernel, by decide +kernel⟩,
    ⟨wakes, 100, (1, 0), by decide +kernel, by decide +kernel, by decide +kernel, by decide +kernel⟩,
    ⟨((later ready).setFlag pwrDevCfg_c3En 0 true), by decide +kernel, by decide +kernel, by decide +kernel,
      by decide +kernel, by decide +kernel, by decide +kernel⟩,
    ⟨((later ready).setFld pwrDevStat_state 0 1), 10, by decide +kernel, by decide +kernel, by decide +kernel,
      by decide +kernel⟩,
    ⟨(((later ready).setFld pwrDevStat_state 0 1).setFlag pwrDevCfg_c5En 0 true), by decide +kernel, by decide +kernel,
      by decide +kernel, by decide +kernel, by decide +kernel⟩,
    ⟨(ready.setFld pwrDevStat_state 0 2), 10, by decide +kernel, by decide +kernel, by decide +kernel, by decide +kernel,
      by decide +kernel⟩,
    ⟨(ready.setFld pwrDevStat_state 0 2), 1, by decide +kernel, by decide +kernel, by decide +kernel, by decide +kernel,
      by decide +kernel⟩⟩

theorem test_witness_VoltageRowsComplete :
    (∃ (s : State) (point : Fin 8) (r : Raise), s.live = true ∧ s.fld pwrDevStat_state 0 = 0 ∧ s.pwr.raise = none ∧ point.val
      < s.pwr.confirmed ∧ topPoint s.pwr.plan = point.val ∧ s.fld pwrAvsStat_held 0 % 4 = 0 ∧ r = (⟨point.val, none, [1, 0],
      s.now, 0, 0⟩ : Raise)) ∧
    (∃ (s : State) (core : Bool) (sram : Bool) (mem : Bool) (r : Raise) (left : List Nat) (t : State), s.live = true ∧
      s.pwr.raise = some r ∧ left = r.waiting.filter (fun x => !((x = 0 && core) || (x = 1 && sram) || (x = 2 && mem))) ∧ t =
      s.emit (.avsStatus (if r.waiting.contains 2 then 1 else 0)) ∧ left = []) ∧
    (∃ (s : State) (core : Bool) (sram : Bool) (mem : Bool) (r : Raise) (left : List Nat) (t : State), s.live = true ∧
      s.pwr.raise = some r ∧ left = r.waiting.filter (fun x => !((x = 0 && core) || (x = 1 && sram) || (x = 2 && mem))) ∧ t =
      s.emit (.avsStatus (if r.waiting.contains 2 then 1 else 0)) ∧ left ≠ []) ∧
    (∃ (s : State) (r : Raise), s.live = true ∧ s.pwr.raise = some r ∧ r.started + s.fld pwrAvsCfg_vdoneTimeoutUs 0 *
      ticksPerUs ≤ s.now) ∧
    (∃ (s : State) (r : Raise), s.live = true ∧ s.pwr.raise = some r ∧ r.busy < 8) ∧
    (∃ (s : State) (r : Raise), s.live = true ∧ s.pwr.raise = some r ∧ 8 ≤ r.busy) ∧
    (∃ (s : State) (r : Raise), s.live = true ∧ s.pwr.raise = some r ∧ r.crc < 3) ∧
    (∃ (s : State) (r : Raise), s.live = true ∧ s.pwr.raise = some r) :=
  ⟨⟨{ ready with pwr := { (ready).pwr with plan := [1] } }, 1, _, by decide +kernel, by decide +kernel, by decide +kernel,
      by decide +kernel, by decide +kernel, by decide +kernel, rfl⟩,
    ⟨(raises ⟨1, none, [1, 0], 0, 0, 0⟩), true, true, false, ⟨1, none, [1, 0], 0, 0, 0⟩, _, _, by decide +kernel,
      by decide +kernel, rfl, rfl, rfl⟩,
    ⟨(raises ⟨1, none, [1, 0], 0, 0, 0⟩), true, false, false, ⟨1, none, [1, 0], 0, 0, 0⟩, _, _, by decide +kernel,
      by decide +kernel, rfl, rfl, by decide +kernel⟩,
    ⟨(raises ⟨1, none, [1, 0], 0, 0, 0⟩), ⟨1, none, [1, 0], 0, 0, 0⟩, by decide +kernel, by decide +kernel, by decide +kernel⟩,
    ⟨(raises ⟨1, none, [1, 0], 0, 7, 0⟩), ⟨1, none, [1, 0], 0, 7, 0⟩, by decide +kernel, by decide +kernel, by decide +kernel⟩,
    ⟨(raises ⟨1, none, [1, 0], 0, 8, 0⟩), ⟨1, none, [1, 0], 0, 8, 0⟩, by decide +kernel, by decide +kernel, by decide +kernel⟩,
    ⟨(raises ⟨1, none, [1, 0], 0, 0, 2⟩), ⟨1, none, [1, 0], 0, 0, 2⟩, by decide +kernel, by decide +kernel, by decide +kernel⟩,
    ⟨(raises ⟨1, none, [1, 0], 0, 8, 0⟩), ⟨1, none, [1, 0], 0, 8, 0⟩, by decide +kernel, by decide +kernel⟩⟩

theorem test_witness_CappingRowsComplete :
    (∃ (s : State), s.live = true ∧ (s.pwr.windowAt = 0 ∨ s.pwr.windowAt + ticksPerMs ≤ s.now)) ∧
    (∃ (s : State) (d : Fin 102) (n : Nat), s.live = true ∧ (d.val < 89 ∨ d.val = 100) ∧ n = mgetD s.pwr.droopWindow d.val 0 +
      1 ∧ n ≠ 1000) ∧
    (∃ (s : State) (d : Fin 102), s.live = true ∧ (d.val < 89 ∨ d.val = 100) ∧ mgetD s.pwr.droopWindow d.val 0 = 999) ∧
    (∃ (s : State) (t : Nat), s.live = true ∧ s.pwr.limitUntil = some t ∧ t ≤ s.now) ∧
    (∃ (s : State), s.live = true) ∧
    (∃ (s : State) (d : Fin 102) (n : Nat), s.live = true ∧ (d.val < 25 ∨ d.val = 100) ∧ mgetD s.pwr.throttled d.val 0 = n ∧
      (n = 0 ∨ mgetD s.pwr.stepAt d.val 0 + 100 * ticksPerUs ≤ s.now) ∧ s.domainPoint d.val < 7) ∧
    (∃ (s : State) (d : Fin 102) (n : Nat), s.live = true ∧ (d.val < 25 ∨ d.val = 100) ∧ s.besideHot d.val = false ∧ mgetD
      s.pwr.throttled d.val 0 = n ∧ 0 < n ∧ mgetD s.pwr.stepAt d.val 0 + ticksPerMs ≤ s.now) :=
  ⟨⟨ready, by decide +kernel, by decide +kernel⟩,
    ⟨ready, 100, _, by decide +kernel, by decide +kernel, rfl, by decide +kernel⟩,
    ⟨{ ready with pwr := { (ready).pwr with droopWindow := [(88, 999)] } }, 88, by decide +kernel, by decide +kernel,
      by decide +kernel⟩,
    ⟨{ ready with pwr := { (ready).pwr with limitUntil := some 0 } }, 0, by decide +kernel, by decide +kernel,
      by decide +kernel⟩,
    ⟨ready, by decide +kernel⟩,
    ⟨{ ready with pwr := { (ready).pwr with plan := [1, 1, 1, 1, 1, 1, 1] } }, 24, 0, by decide +kernel, by decide +kernel,
      by decide +kernel, by decide +kernel, by decide +kernel⟩,
    ⟨{ later ready with pwr := { (later ready).pwr with throttled := [(100, 1)] } }, 100, 1, by decide +kernel,
      by decide +kernel, by decide +kernel, by decide +kernel, by decide +kernel, by decide +kernel⟩⟩

theorem test_witness_RackRowsComplete :
    (∃ (s : State) (m : Nat) (n : Nat) (d : Nat) (f : Nat) (t : State), s.live = true ∧ s.manager = some m ∧ (s.pwr.period = 0
      ∨ s.pwr.demandAt + s.fld pwrRack_periodMs 0 * ticksPerMs ≤ s.now) ∧ d = min 65535 (s.predict s.preferredPlan).floor.toNat
      ∧ f = min 65535 (s.predict (List.replicate 7 7)).floor.toNat ∧ n = (s.pwr.period + 1) % 2 ^ 32 ∧ m = s.ownNode ∧ t =
      { s with pwr := { s.pwr with period := n, demandAt := s.now, lateFlag := false } }) ∧
    (∃ (s : State) (m : Nat) (n : Nat) (d : Nat) (f : Nat) (t : State), s.live = true ∧ s.manager = some m ∧ (s.pwr.period = 0
      ∨ s.pwr.demandAt + s.fld pwrRack_periodMs 0 * ticksPerMs ≤ s.now) ∧ d = min 65535 (s.predict s.preferredPlan).floor.toNat
      ∧ f = min 65535 (s.predict (List.replicate 7 7)).floor.toNat ∧ n = (s.pwr.period + 1) % 2 ^ 32 ∧ m ≠ s.ownNode ∧ t =
      { s with pwr := { s.pwr with period := n, demandAt := s.now, lateFlag := false } }) ∧
    (∃ (s : State) (t : State) (fresh : List (Nat × Nat × Nat × Nat × Nat)) (own : List (Nat × Nat × Nat × Nat × Nat)) (all :
      List (Nat × Nat × Nat × Nat × Nat)), s.live = true ∧ s.managing = true ∧ s.fld pwrRack_budget 0 ≠ 0 ∧ (s.pwr.sharedAt = 0
      ∨ s.pwr.sharedAt + s.fld pwrRack_periodMs 0 * ticksPerMs ≤ s.now) ∧ t =
      { s with pwr := { s.pwr with sharedAt := s.now } }.demandRegion ∧ fresh = (t.res.watch.map Prod.fst).filterMap (fun n =>
      (t.readDemand n).map fun d => (n, d)) ∧ own = ((mget t.pwr.demands t.ownNode).toList.filter fun d => d.2.2.2 =
      t.pwr.period && 0 < t.pwr.period).map (fun d => (t.ownNode, d)) ∧ all = fresh ++ own ∧ all ≠ []) ∧
    (∃ (s : State) (r : BitVec 128), s.live = true ∧ r.toNat % 2 ^ 16 = s.ownNode) ∧
    (∃ (s : State) (m : Nat), s.live = true ∧ s.manager = some m ∧ s.pwr.failsafe = false ∧ s.fld pwrCap_share 0 ≠ 0 ∧
      s.pwr.lastShare + 4 * s.fld pwrRack_periodMs 0 * ticksPerMs ≤ s.now) :=
  ⟨⟨(racked 5), 5, _, _, _, _, by decide +kernel, by decide +kernel, by decide +kernel, rfl, rfl, rfl, by decide +kernel,
      rfl⟩,
    ⟨(racked 6), 6, _, _, _, _, by decide +kernel, by decide +kernel, by decide +kernel, rfl, rfl, rfl, by decide +kernel,
      rfl⟩,
    ⟨{ (watching ⟨0, none, 0, 0, 2⟩).setFld pwrRack_budget 0 100 with pwr := { ready.pwr with demandBase := some 0 }, dram := [(192, 6), (204, 1)] },
      _, _, _, _, by decide +kernel, by decide +kernel, by decide +kernel, by decide +kernel, rfl, rfl, rfl, rfl,
      by decide +kernel⟩,
    ⟨joined, 5, by decide +kernel, by decide +kernel⟩,
    ⟨((later (racked 6)).setFld pwrCap_share 0 100), 6, by decide +kernel, by decide +kernel, by decide +kernel,
      by decide +kernel, by decide +kernel⟩⟩

theorem test_witness_RegisterWriteRowsComplete :
    (∃ (s : State) (fn : Fn) (lane : Lane) (v : BitVec 64) (w : Nat), s.bar0Keeps .cmpDramXts 0 = true ∧ s.triggered (fnNum
      fn) lane cmpDramXts_enable 0 v = some w) ∧
    (∃ (s : State) (fn : Fn) (t : BitVec 12) (lane : Lane) (v : BitVec 64) (w : State), s.bar0Keeps .schTenant t.toNat = true
      ∧ w = s.writeFields (fnNum fn) lane .schTenant t.toNat v ∧ s.seqs.any (fun q => q.2.tenant = t.toNat) = false) ∧
    (∃ (s : State) (fn : Fn) (t : BitVec 12) (lane : Lane) (v : BitVec 64), s.bar0Keeps .schTenant t.toNat = true ∧ s.seqs.any
      (fun q => q.2.tenant = t.toNat) = true ∧ s.reg .schTenant t.toNat ≠ (s.writeFields (fnNum fn) lane .schTenant t.toNat
      v).reg .schTenant t.toNat) ∧
    (∃ (s : State) (fn : Fn) (p : Fin 16) (lane : Lane) (v : BitVec 64) (w : State), s.bar0Keeps .schPart p.val = true ∧ w =
      s.writeFields (fnNum fn) lane .schPart p.val v ∧ w.fld schPart_cap p.val ≤ w.fld schPart_batchMax p.val) ∧
    (∃ (s : State) (fn : Fn) (p : Fin 16) (lane : Lane) (v : BitVec 64) (w : State), s.bar0Keeps .schPart p.val = true ∧ w =
      s.writeFields (fnNum fn) lane .schPart p.val v ∧ w.fld schPart_batchMax p.val < w.fld schPart_cap p.val) ∧
    (∃ (s : State) (fn : Fn) (off : BitVec 25) (size : Nat) (l : Lane) (r : Reg) (i : Nat), laneOf off.toNat size = some l ∧
      (off.toNat < 0x8000 ∨ 0x10000 ≤ off.toNat) ∧ findReg (fnNum fn) (off.toNat / 8 * 8) = some (r, i) ∧ sees s (fnNum fn) r i
      = true ∧ r ≠ .dbgGstop ∧ s.bar0Keeps r i = true) ∧
    (∃ (s : State) (off : BitVec 25) (size : Nat), laneOf off.toNat size = none ∧ s.hubRuns = true) :=
  ⟨⟨ready, .mgmt, .full, 0, 0, by decide +kernel, by decide +kernel⟩,
    ⟨ready, .mgmt, 4095, .full, 0, _, by decide +kernel, rfl, by decide +kernel⟩,
    ⟨(holding ready (seqIn .ready)), .mgmt, 0, .full, 0xFFFFFFFFFFFFFFFF, by decide +kernel, by decide +kernel,
      by decide +kernel⟩,
    ⟨ready, .mgmt, 15, .full, 0, _, by decide +kernel, rfl, by decide +kernel⟩,
    ⟨ready, .mgmt, 15, .full, 0x2000000000, _, by decide +kernel, rfl, by decide +kernel⟩,
    ⟨ready, .vf 0, 0, 8, .full, .glbId, 0, by decide +kernel, by decide +kernel, by decide +kernel, by decide +kernel,
      by decide +kernel, by decide +kernel⟩,
    ⟨ready, 0, 3, by decide +kernel, by decide +kernel⟩⟩

theorem test_witness_DebugRowsComplete :
    (∃ (s : State) (c : Cmd) (d : Pend) (e : State), s.takes 0x80 c [] 0 d e ∧ e.traceAllows (d.trace e.trace).payload
      (d.trace e.trace).stall = true) ∧
    (∃ (s : State) (c : Cmd) (d : Pend) (e : State), s.takes 0x81 c [] 0 d e ∧ e.trace.armedFor 0 = true) ∧
    (∃ (s : State) (c : Cmd) (d : Pend) (e : State), s.takes 0x82 c [] 0 d e ∧ e.mayHalt d.obj = true ∧ e.fld schGroup_members
      d.obj = 0 ∧ e.flag dbgHalt_drained d.obj = false) ∧
    (∃ (s : State) (c : Cmd) (d : Pend) (e : State) (t : State), s.takes 0x83 c [] 0 d e ∧ e.maySee d.obj (d.par 40 1) = true
      ∧ t = e.debugWakes d.obj (d.par 40 1) (d.par 16 8) (d.par 24 8)) ∧
    (∃ (s : State), s.live = true) ∧
    (∃ (s : State), s.live = true) ∧
    (∃ (s : State), s.live = true) ∧
    (∃ (s : State) (fn : Fn) (p : Fin 16) (lane : Lane) (v : BitVec 64), s.bar0Keeps .dbgHalt p.val = true ∧ s.pulled (fnNum
      fn) lane dbgHalt_resume p.val v = true ∧ s.mayHalt p.val = true) :=
  ⟨⟨(asks ready 0 (cmd 0x80 0 0xb000000000001000000000000000000000000)), (cmd 0x80 0
      0xb000000000001000000000000000000000000), _, _, takes_of (by decide +kernel), by decide +kernel⟩,
    ⟨(asks { ready with trace := { ready.trace with enable := true, armed := true, triggers := 1 } } 0 (cmd 0x81 0 0x0)), (cmd
      0x81 0 0x0), _, _, takes_of (by decide +kernel), by decide +kernel⟩,
    ⟨(asks ready 16 (cmd 0x82 15 0x0)), (cmd 0x82 15 0x0), _, _, takes_of (by decide +kernel), by decide +kernel,
      by decide +kernel, by decide +kernel⟩,
    ⟨(asks ready 16 (cmd 0x83 15 0x10000000000000000)), (cmd 0x83 15 0x10000000000000000), _, _, _, takes_of
      (by decide +kernel), by decide +kernel, rfl⟩,
    ⟨ready, by decide +kernel⟩,
    ⟨ready, by decide +kernel⟩,
    ⟨ready, by decide +kernel⟩,
    ⟨ready, .vf 15, 15, .full, 4, by decide +kernel, by decide +kernel, by decide +kernel⟩⟩

theorem test_witness_StopRowsComplete :
    (∃ (s : State) (fn : Fn) (lane : Lane) (v : BitVec 64), s.pln.stopped = false ∧ s.bar0Keeps .dbgGstop 0 = true ∧ s.pulled
      (fnNum fn) lane dbgGstop_assert 0 v = true) ∧
    (∃ (s : State), s.pln.stopped = true) ∧
    (∃ (s : State), s.jtagDebug = true ∧ s.mayStop = true) ∧
    (∃ (s : State), s.pln.stopped = true) ∧
    (∃ (s : State), s.pln.stopped = true ∧ s.jtagDebug = true) ∧
    (∃ (s : State), s.pln.boundaryScan = false ∧ s.pln.powered = true ∧ ({ s with pln := { s.pln with boundaryScan := true } }
      : State).mayStop = true) ∧
    (∃ (s : State), s.pln.boundaryScan = true ∧ 2 ≤ s.stage ∧ s.pln.c6 = false) :=
  ⟨⟨ready, .mgmt, .full, 1, by decide +kernel, by decide +kernel, by decide +kernel⟩,
    ⟨{ ready with pln := { ready.pln with stopped := true } }, by decide +kernel⟩,
    ⟨ready, by decide +kernel, by decide +kernel⟩,
    ⟨{ ready with pln := { ready.pln with stopped := true } }, by decide +kernel⟩,
    ⟨{ ready with pln := { ready.pln with stopped := true } }, by decide +kernel, by decide +kernel⟩,
    ⟨ready, by decide +kernel, by decide +kernel, by decide +kernel⟩,
    ⟨{ ready with pln := { ready.pln with boundaryScan := true } }, by decide +kernel, by decide +kernel, by decide +kernel⟩⟩

theorem test_witness_SecurityRowsComplete :
    (∃ (s : State) (c : Cmd) (image : List (BitVec 8)) (code : BitVec 12) (d : Pend) (e : State) (b : List (BitVec 8)),
      s.takes 0xE0 c [] code d e ∧ b = image.take (d.par 24 4) ∧ e.sec.bootFlash.isSome = true ∧ e.fld ftlHoldupCfg_cap 0 = 0 ∧
      e.pln.pfail = false) ∧
    (∃ (s : State) (c : Cmd) (token : List (BitVec 8)) (d : Pend) (e : State) (t : State), s.takes 0xE1 c [] 0 d e ∧
      e.lifecycle = 2 ∧ e.sec.fieldLock = false ∧ t = (((e.setFld glbLifecycle_state 0 3).setFlag secDebug_active 0 true).setFld
      secDebug_partition 0 (numberAt token 69 1)).setFld secDebug_features 0 (numberAt token 68 1)) ∧
    (∃ (s : State) (c : Cmd) (d : Pend) (e : State), s.takes 0xE2 c [] 0 d e ∧ d.par 16 1 = 1 ∧ e.lifecycle = 0) ∧
    (∃ (s : State) (c : Cmd) (d : Pend) (e : State), s.takes 0xE2 c [] 0 d e ∧ d.par 16 1 = 2 ∧ e.lifecycle = 1) ∧
    (∃ (s : State) (c : Cmd) (d : Pend) (e : State), s.takes 0xE2 c [] 0 d e ∧ d.par 16 1 = 4 ∧ e.lifecycle = 2) ∧
    (∃ (s : State) (c : Cmd) (d : Pend) (e : State), s.takes 0xE2 c [] 0 d e ∧ d.par 16 1 = 1 ∧ e.lifecycle = 2) ∧
    (∃ (s : State) (fn : Fn) (lane : Lane) (v : BitVec 64) (w : State), s.bar0Keeps .secRecovery 0 = true ∧ s.pulled (fnNum
      fn) lane secRecovery_go 0 v = true ∧ w = s.writeFields (fnNum fn) lane .secRecovery 0 v ∧ w.stage = 4 ∧ w.flag
      secRecovery_ready 0 = true ∧ w.fld secRecovery_length 0 ≠ 0) :=
  ⟨⟨(asks { ready with sec := { ready.sec with bootFlash := some [] } } 0 (cmd 0xE0 0 0)), (cmd 0xE0 0 0), [], 0, _, _, _,
      takes_of (by decide +kernel), rfl, by decide +kernel, by decide +kernel, by decide +kernel⟩,
    ⟨(asks (ready.setFld glbLifecycle_state 0 2) 0 (cmd 0xE1 0 0x4800000000000000000)), (cmd 0xE1 0 0x4800000000000000000),
      [], _, _, _, takes_of (by decide +kernel), by decide +kernel, by decide +kernel, rfl⟩,
    ⟨(asks (ready.setFld glbLifecycle_state 0 0) 0 (cmd 0xE2 0 0x1)), (cmd 0xE2 0 0x1), _, _, takes_of (by decide +kernel),
      by decide +kernel, by decide +kernel⟩,
    ⟨(asks (ready.setFld glbLifecycle_state 0 1) 0 (cmd 0xE2 0 0x2)), (cmd 0xE2 0 0x2), _, _, takes_of (by decide +kernel),
      by decide +kernel, by decide +kernel⟩,
    ⟨(asks (ready.setFld glbLifecycle_state 0 2) 0 (cmd 0xE2 0 0x4)), (cmd 0xE2 0 0x4), _, _, takes_of (by decide +kernel),
      by decide +kernel, by decide +kernel⟩,
    ⟨(asks (ready.setFld glbLifecycle_state 0 2) 0 (cmd 0xE2 0 0x1)), (cmd 0xE2 0 0x1), _, _, takes_of (by decide +kernel),
      by decide +kernel, by decide +kernel⟩,
    ⟨((stageIs 4).setFlag secRecovery_ready 0 true), .mgmt, .full, 0x200400002, _, by decide +kernel, by decide +kernel, rfl,
      by decide +kernel, by decide +kernel, by decide +kernel⟩⟩

theorem test_witness_SpdmNegotiationComplete :
    (∃ (s : State), s.hubRuns = true) ∧
    (∃ (s : State), s.hubRuns = true ∧ 1 ≤ s.sec.spdm.phase) ∧
    (∃ (s : State) (offer : SpdmOffer), s.hubRuns = true ∧ 2 ≤ s.sec.spdm.phase ∧ offer.rsassa4096 = true ∧ offer.sha384 =
      true ∧ offer.secp384r1 = true ∧ offer.aes256gcm = true) ∧
    (∃ (s : State) (c : List (BitVec 8)), s.hubRuns = true ∧ s.lifecycle ≠ 4 ∧ 3 ≤ s.sec.spdm.phase ∧ s.chain = some c) ∧
    (∃ (s : State) (slot : BitVec 8) (off : BitVec 16) (len : BitVec 16) (c : List (BitVec 8)) (part : List (BitVec 8)),
      s.hubRuns = true ∧ s.lifecycle ≠ 4 ∧ 3 ≤ s.sec.spdm.phase ∧ s.chain = some c ∧ slot = 0 ∧ part = (c.drop off.toNat).take
      len.toNat) ∧
    (∃ (s : State) (c : List (BitVec 8)), s.hubRuns = true ∧ s.lifecycle ≠ 4 ∧ 3 ≤ s.sec.spdm.phase ∧ s.sec.identity.isSome =
      true ∧ s.chain = some c) ∧
    (∃ (s : State) (index : BitVec 8), s.hubRuns = true ∧ s.lifecycle ≠ 4 ∧ 3 ≤ s.sec.spdm.phase ∧ (index.toNat ≤ 5 ∨ index =
      0xFF)) ∧
    (∃ (s : State) (index : BitVec 8), s.hubRuns = true ∧ s.lifecycle ≠ 4 ∧ 3 ≤ s.sec.spdm.phase ∧ (index.toNat ≤ 5 ∨ index =
      0xFF) ∧ s.sec.identity.isSome = true) :=
  ⟨⟨ready, by decide +kernel⟩,
    ⟨(spdmAt 1), by decide +kernel, by decide +kernel⟩,
    ⟨(spdmAt 2), ⟨true, true, true, true⟩, by decide +kernel, by decide +kernel, by decide +kernel, by decide +kernel,
      by decide +kernel, by decide +kernel⟩,
    ⟨(spdmAt 3), _, by decide +kernel, by decide +kernel, by decide +kernel, there (by decide +kernel)⟩,
    ⟨(spdmAt 3), 0, 0, 16, _, _, by decide +kernel, by decide +kernel, by decide +kernel, there (by decide +kernel),
      by decide +kernel, rfl⟩,
    ⟨(spdmAt 3), _, by decide +kernel, by decide +kernel, by decide +kernel, by decide +kernel, there (by decide +kernel)⟩,
    ⟨(spdmAt 3), 0xFF, by decide +kernel, by decide +kernel, by decide +kernel, by decide +kernel⟩,
    ⟨(spdmAt 3), 5, by decide +kernel, by decide +kernel, by decide +kernel, by decide +kernel, by decide +kernel⟩⟩

theorem test_witness_SpdmSessionComplete :
    (∃ (s : State), s.hubRuns = true ∧ s.lifecycle ≠ 4 ∧ 3 ≤ s.sec.spdm.phase ∧ s.sec.identity.isSome = true) ∧
    (∃ (s : State), s.hubRuns = true ∧ s.lifecycle ≠ 4 ∧ s.sec.spdm.phase = 4) ∧
    (∃ (s : State), s.hubRuns = true ∧ s.lifecycle ≠ 4 ∧ s.sec.spdm.phase = 4) ∧
    (∃ (s : State), s.hubRuns = true ∧ s.lifecycle ≠ 4 ∧ 5 ≤ s.sec.spdm.phase) ∧
    (∃ (s : State) (op : BitVec 8), s.hubRuns = true ∧ s.lifecycle ≠ 4 ∧ 5 ≤ s.sec.spdm.phase ∧ 1 ≤ op.toNat ∧ op.toNat ≤ 3) ∧
    (∃ (s : State), s.hubRuns = true ∧ s.lifecycle ≠ 4 ∧ 5 ≤ s.sec.spdm.phase) ∧
    (∃ (s : State) (chunk : BitVec 16) (n : Nat), s.hubRuns = true ∧ s.lifecycle ≠ 4 ∧ 3 ≤ s.sec.spdm.phase ∧ n = max 1
      Config.spdmTransfer ∧ (chunk.toNat + 1) * n < s.sec.spdm.large.length) ∧
    (∃ (s : State), s.hubRuns = true ∧ s.lifecycle ≠ 4 ∧ s.sec.spdm.phase = 5) ∧
    (∃ (s : State), s.hubRuns = true ∧ s.lifecycle ≠ 4) ∧
    (∃ (s : State), s.hubRuns = true ∧ s.lifecycle ≠ 4 ∧ s.sec.spdm.phase = 5) ∧
    (∃ (s : State) (stream : Fin 9), s.hubRuns = true ∧ s.lifecycle ≠ 4 ∧ s.sec.spdm.phase = 5 ∧ mhas s.sec.ide stream.val =
      true) ∧
    (∃ (s : State), s.hubRuns = true) :=
  ⟨⟨(spdmAt 3), by decide +kernel, by decide +kernel, by decide +kernel, by decide +kernel⟩,
    ⟨(spdmAt 4), by decide +kernel, by decide +kernel, by decide +kernel⟩,
    ⟨(spdmAt 4), by decide +kernel, by decide +kernel, by decide +kernel⟩,
    ⟨(spdmAt 5), by decide +kernel, by decide +kernel, by decide +kernel⟩,
    ⟨(spdmAt 5), 3, by decide +kernel, by decide +kernel, by decide +kernel, by decide +kernel, by decide +kernel⟩,
    ⟨(spdmAt 5), by decide +kernel, by decide +kernel, by decide +kernel⟩,
    ⟨{ ready with sec := { ready.sec with spdm := ⟨3, 0x13, 0, List.replicate (max 1 Config.spdmTransfer + 1) 0⟩ } }, 0, _,
      by decide +kernel, by decide +kernel, by decide +kernel, rfl, by
    simp only [List.length_replicate]; exact (Nat.one_mul
      _).trans_lt (Nat.lt_succ_self _)⟩,
    ⟨(spdmAt 5), by decide +kernel, by decide +kernel, by decide +kernel⟩,
    ⟨ready, by decide +kernel, by decide +kernel⟩,
    ⟨(spdmAt 5), by decide +kernel, by decide +kernel, by decide +kernel⟩,
    ⟨{ spdmAt 5 with sec := { (spdmAt 5).sec with ide := [(7, 1)] } }, 7, by decide +kernel, by decide +kernel,
      by decide +kernel, by decide +kernel⟩,
    ⟨ready, by decide +kernel⟩⟩

theorem test_witness_StartupRowsComplete :
    (∃ (s : State), (s.pln.powered = false ∨ s.stage = 0)) ∧
    (∃ (s : State), s.pln.powered = true ∧ s.stage = 0 ∧ s.pln.c6 = false ∧ s.pln.stayOff = false ∧ s.pln.aonAt + 1000 *
      ticksPerMs ≤ s.now) ∧
    (∃ (s : State), s.stage = 1 ∧ s.pln.rails.length < 6) ∧
    (∃ (s : State) (t : State), s.stage = 1 ∧ t = (s.writeRecord (errorRecord (errorOf 3 0x0F 1 (s.pln.rails.length - 1))
      s.now)).toC6 8) ∧
    (∃ (s : State), s.stage = 1 ∧ s.pln.rails.length = 6) ∧
    (∃ (s : State), 2 ≤ s.stage ∧ s.stage ≤ 6 ∧ s.pln.stopped = false) ∧
    (∃ (s : State), s.stage = 2 ∧ s.pln.stopped = false ∧ s.pln.perst = false) ∧
    (∃ (s : State), s.stage = 5 ∧ s.pln.stopped = false) ∧
    (∃ (s : State), s.stage = 5 ∧ s.pln.stopped = false) ∧
    (∃ (s : State), s.stage = 6 ∧ s.pln.stopped = false) ∧
    (∃ (s : State), s.live = true ∧ s.ftl.inService = false) ∧
    (∃ (s : State), s.pln.powered = true) ∧
    (∃ (s : State), s.pln.powered = true) :=
  ⟨⟨State.reset, by decide +kernel⟩,
    ⟨(later State.reset), by decide +kernel, by decide +kernel, by decide +kernel, by decide +kernel, by decide +kernel⟩,
    ⟨(stageIs 1), by decide +kernel, by decide +kernel⟩,
    ⟨(stageIs 1), _, by decide +kernel, rfl⟩,
    ⟨{ stageIs 1 with pln := { (stageIs 1).pln with rails := [0, 1, 2, 3, 4, 5] } }, by decide +kernel, by decide +kernel⟩,
    ⟨(stageIs 2), by decide +kernel, by decide +kernel, by decide +kernel⟩,
    ⟨(stageIs 2), by decide +kernel, by decide +kernel, by decide +kernel⟩,
    ⟨(stageIs 5), by decide +kernel, by decide +kernel⟩,
    ⟨(stageIs 5), by decide +kernel, by decide +kernel⟩,
    ⟨(stageIs 6), by decide +kernel, by decide +kernel⟩,
    ⟨ready, by decide +kernel, by decide +kernel⟩,
    ⟨ready, by decide +kernel⟩,
    ⟨ready, by decide +kernel⟩⟩

theorem test_witness_ReferenceAndPcieRowsComplete :
    (∃ (s : State), s.pln.powered = true ∧ s.flag plnBoot_xtalFault 0 = false) ∧
    (∃ (s : State), s.stage = 2) ∧
    (∃ (s : State) (refB : Bool) (t : State), s.hubRuns = true ∧ t =
      { s with pln := { s.pln with refA := s.pln.refA && refB, refB := s.pln.refB && !refB } }) ∧
    (∃ (s : State), s.pln.pcieUp = true ∧ s.pln.c6 = false) ∧
    (∃ (s : State) (t : State), s.pln.pcieUp = true ∧ t =
      { s with pln := { s.pln with pcieUp := false }, sec := { s.sec with ide := [] } } ∧ t.hubRuns = true) ∧
    (∃ (s : State), s.hubRuns = true ∧ s.pln.perst = false ∧ s.pln.pcieUp = false) ∧
    (∃ (s : State), s.hubRuns = true) :=
  ⟨⟨ready, by decide +kernel, by decide +kernel⟩,
    ⟨(stageIs 2), by decide +kernel⟩,
    ⟨ready, true, _, by decide +kernel, rfl⟩,
    ⟨{ ready with pln := { ready.pln with pcieUp := true } }, by decide +kernel, by decide +kernel⟩,
    ⟨{ ready with pln := { ready.pln with pcieUp := true } }, _, by decide +kernel, rfl, by decide +kernel⟩,
    ⟨ready, by decide +kernel, by decide +kernel, by decide +kernel⟩,
    ⟨ready, by decide +kernel⟩⟩

theorem test_witness_PinRowsComplete :
    (∃ (s : State) (i : Nat) (a : Bool), (s.input i).level = a) ∧
    (∃ (s : State) (i : Nat) (a : Bool), (s.input i).level ≠ a ∧ s.merges i = true) ∧
    (∃ (s : State) (i : Nat) (a : Bool), (s.input i).level ≠ a ∧ s.merges i = false) ∧
    (∃ (s : State) (i : Fin 8) (t : Nat), (s.input i.val).level ≠ (s.input i.val).reported ∧ (s.input i.val).lastEvent = some
      t ∧ t + mergeTicks ≤ s.now) ∧
    (∃ (s : State) (i : Fin 8) (n : Nat), stuckTicks i.val = some n ∧ (s.input i.val).level = true ∧ s.flag pinInput_stuck
      i.val = false ∧ (s.input i.val).since + n ≤ s.now) :=
  ⟨⟨(asserted 7), 7, true, by decide +kernel⟩,
    ⟨{ asserted 7 with now := 1 }, 7, false, by decide +kernel, by decide +kernel⟩,
    ⟨ready, 7, true, by decide +kernel, by decide +kernel⟩,
    ⟨(asserted 7), 7, 0, by decide +kernel, by decide +kernel, by decide +kernel⟩,
    ⟨(asserted 4), 4, 4000000000, by decide +kernel, by decide +kernel, by decide +kernel, by decide +kernel⟩⟩

theorem test_witness_SmbusReadsAnswer :
    (∃ (s : State), s.pln.powered = true ∧ s.pln.alert = false) ∧
    (∃ (s : State), s.pln.powered = true ∧ s.pln.alert = true) ∧
    (∃ (s : State), s.pln.powered = true) ∧
    (∃ (s : State), s.pln.powered = true) ∧
    (∃ (s : State), s.pln.powered = true) ∧
    (∃ (s : State) (id : Nat) (rest : List Nat) (j : Nat), s.pln.powered = true ∧ s.res.unread.dropWhile (fun id =>
      (s.recordOf id).isNone) = id :: rest ∧ s.recordOf id = some j) ∧
    (∃ (s : State), s.pln.powered = true ∧ s.pln.alert = true) :=
  ⟨⟨ready, by decide +kernel, by decide +kernel⟩,
    ⟨alerted, by decide +kernel, by decide +kernel⟩,
    ⟨ready, by decide +kernel⟩,
    ⟨ready, by decide +kernel⟩,
    ⟨ready, by decide +kernel⟩,
    ⟨alerted, 9, [], 15, by decide +kernel, by decide +kernel, by decide +kernel⟩,
    ⟨alerted, by decide +kernel, by decide +kernel⟩⟩

theorem test_witness_SmbusWritesAct :
    (∃ (s : State) (v : BitVec 16), s.pln.powered = true ∧ (v = 0 ∨ (100 ≤ v.toNat ∧ v.toNat ≤ 1800))) ∧
    (∃ (s : State) (v : BitVec 24), s.pln.powered = true ∧ pwrRack_budget.accepts v.toNat = true) ∧
    (∃ (s : State), s.pln.powered = true) ∧
    (∃ (s : State), s.pln.powered = true) ∧
    (∃ (s : State) (t : State), s.pln.powered = true ∧ s.pln.c6 = true ∧ s.pln.testEn = false ∧ t =
      { s with pln := { s.pln with thermalTrip := false, railFault := false, stayOff := false, resetAt := s.now } }) ∧
    (∃ (s : State), s.pln.powered = true ∧ s.pln.c6 = false) ∧
    (∃ (s : State), s.pln.powered = true ∧ s.pln.c6 = false) ∧
    (∃ (s : State), s.pln.powered = true ∧ s.pln.c6 = true) ∧
    (∃ (s : State) (t : State), s.pln.powered = true ∧ t = { s with pln := { s.pln with stayOff := true } } ∧ t.stage ≠ 0) ∧
    (∃ (s : State) (t : State), s.pln.powered = true ∧ t = { s with pln := { s.pln with stayOff := true } } ∧ t.stage = 0) ∧
    (∃ (s : State) (t : State), s.pln.powered = true ∧ t = { s with pln := { s.pln with stayOff := false } }) ∧
    (∃ (s : State) (v : BitVec 8), s.pln.powered = true ∧ 8 ≤ v.toNat ∧ v.toNat ≤ 0x77) ∧
    (∃ (s : State) (v : BitVec 16) (ok : Bool), s.pln.powered = true ∧ (ok = false ∨ (v ≠ 0 ∧ (v.toNat < 100 ∨ 1800 <
      v.toNat)))) ∧
    (∃ (s : State) (v : BitVec 24) (ok : Bool), s.pln.powered = true ∧ (ok = false ∨ pwrRack_budget.accepts v.toNat = false)) ∧
    (∃ (s : State) (v : BitVec 8) (ok : Bool), s.pln.powered = true ∧ (ok = false ∨ 1 < v.toNat)) ∧
    (∃ (s : State) (v : BitVec 8) (ok : Bool), s.pln.powered = true ∧ (ok = false ∨ v ≠ 1)) ∧
    (∃ (s : State) (v : BitVec 8) (ok : Bool), s.pln.powered = true ∧ (ok = false ∨ v.toNat < 8 ∨ 0x77 < v.toNat)) :=
  ⟨⟨ready, 1800, by decide +kernel, by decide +kernel⟩,
    ⟨ready, 0, by decide +kernel, by decide +kernel⟩,
    ⟨ready, by decide +kernel⟩,
    ⟨ready, by decide +kernel⟩,
    ⟨{ ready with pln := { ready.pln with c6 := true } }, _, by decide +kernel, by decide +kernel, by decide +kernel, rfl⟩,
    ⟨ready, by decide +kernel, by decide +kernel⟩,
    ⟨ready, by decide +kernel, by decide +kernel⟩,
    ⟨{ ready with pln := { ready.pln with c6 := true } }, by decide +kernel, by decide +kernel⟩,
    ⟨ready, _, by decide +kernel, rfl, by decide +kernel⟩,
    ⟨State.reset, _, by decide +kernel, rfl, by decide +kernel⟩,
    ⟨ready, _, by decide +kernel, rfl⟩,
    ⟨ready, 0x77, by decide +kernel, by decide +kernel, by decide +kernel⟩,
    ⟨ready, 99, true, by decide +kernel, by decide +kernel⟩,
    ⟨ready, 0xFFFFFF, false, by decide +kernel, by decide +kernel⟩,
    ⟨ready, 2, true, by decide +kernel, by decide +kernel⟩,
    ⟨ready, 2, true, by decide +kernel, by decide +kernel⟩,
    ⟨ready, 0x78, true, by decide +kernel, by decide +kernel⟩⟩

theorem test_witness_ReservedFieldsReadZeroAndIgnoreWrites :
    (∃ (r : Reg) (b : Nat), r.reserved b = true) ∧
    (∃ (s : State) (r : Reg) (b : Nat), mwf s.regs = true ∧ r.reserved b = true) :=
  ⟨⟨.glbFn, 63, by decide +kernel⟩,
    ⟨ready, .glbFn, 63, by decide +kernel, by decide +kernel⟩⟩

theorem test_witness_NoSequenceOpensWithoutAPartner :
    (∃ (s : State) (c : Cmd) (stops : List (BitVec 32)) (d : Pend) (e : State) (w : WeightSet), s.takes 0x10 c stops 0 d e ∧
      e.tenantIn (d.par 16 2) d.part = true ∧ mget e.weights (d.par 24 2) = some w ∧ d.par 20 4 ≤ 262144 * tokensPerPage
      (geoKvHeads w.geometry) (geoHeadDim w.geometry) (d.par 19 1) ∧ e.defaultPartner = none) ∧
    (∃ (s : State) (c : Cmd) (stops : List (BitVec 32)) (d : Pend) (e : State) (w : WeightSet) (m : Nat × Nat) (h : Nat) (t :
      State), s.takes 0x10 c stops 0 d e ∧ e.tenantIn (d.par 16 2) d.part = true ∧ mget e.weights (d.par 24 2) = some w ∧ d.par
      20 4 ≤ 262144 * tokensPerPage (geoKvHeads w.geometry) (geoHeadDim w.geometry) (d.par 19 1) ∧ e.defaultPartner = some m ∧
      e.takeHandle = some (h, t)) :=
  ⟨⟨(asks (({ ready with weights := [(0, weights)] }.setFlag schTenant_valid 3 true).setFld schTenant_partition 3 0) 1 (cmd
      0x10 0 0x3f80000000000000000000000000040000000003)), (cmd 0x10 0 0x3f80000000000000000000000000040000000003), [], _, _,
      weights, takes_of (by decide +kernel), by decide +kernel, by decide +kernel, by decide +kernel, by decide +kernel⟩,
    ⟨(asks (({ joined with weights := [(0, weights)] }.setFlag schTenant_valid 3 true).setFld schTenant_partition 3 0) 1 (cmd
      0x10 0 0x3f80000000000000000000000000040000000003)), (cmd 0x10 0 0x3f80000000000000000000000000040000000003), [], _, _,
      weights, _, _, _, takes_of (by decide +kernel), by decide +kernel, by decide +kernel, by decide +kernel, there
      (by decide +kernel), there_pair (by decide +kernel)⟩⟩

theorem test_witness_TheNinthRecordIsCountedAndFatal :
    (∃ (s : State) (e : ErrorReport) (r : ErrRec), s.takesErrors e.sev.toNat = true ∧ 1 ≤ e.unit.toNat ∧ e.unit.toNat ≤ 0x10 ∧
      e.sev ≠ 0 ∧ s.res.fatal = false ∧ 8 ≤ s.res.handling.length ∧ r = (⟨s.now, 3, 0, 0x0B, 1, none, 1, 0, 0, 0, none, 0, 0⟩ :
      ErrRec)) :=
  ⟨{ ready with res := { ready.res with handling := List.replicate 8 ⟨0, 0, 0, 1, 1, none, 1, 0, 0, 0, none, 0, 0⟩ } }, ⟨1,
      0x10, 1, none, 0, 0, 0, none, 0⟩, _, by decide +kernel, by decide +kernel, by decide +kernel, by decide +kernel,
      by decide +kernel, by decide +kernel, rfl⟩

theorem test_witness_FusesAreBlownBeforeFieldOnly :
    (∃ (s : State) (i : Fin 16) (lane : Lane) (v : BitVec 64) (w : Nat), s.bar0Keeps .secFuseProg i.val = true ∧ s.triggered 0
      lane secFuseProg_word i.val v = some w ∧ s.sec.fused ≤ 1) ∧
    (∃ (s : State), 2 ≤ s.sec.fused) :=
  ⟨⟨ready, 0, .full, 1, 1, by decide +kernel, by decide +kernel, by decide +kernel⟩,
    ⟨{ ready with sec := { ready.sec with fused := 2 } }, by decide +kernel⟩⟩

theorem test_witness_ApertureWritesStoreTheirBytesOnly :
    (∃ (s : State) (off : BitVec 38) (data : List (BitVec 8)) (places : List Nat), Memory.wf s = true ∧ s.hubRuns = true ∧
      s.stage = 7 ∧ s.bar4 off.toNat ≠ .remote ∧ s.bar4 off.toNat ≠ .hole ∧ places = s.bar4Places off.toNat data.length ∧
      s.holdPoint places = none) :=
  ⟨ready, 0, [1, 2], _, by decide +kernel, by decide +kernel, by decide +kernel, by decide +kernel, by decide +kernel, rfl,
      by decide +kernel⟩

/-- Class-B commands of a partition with a table, in each of the seven rows. -/
theorem test_witness_ClassBCommandsWaitForTheBoundary :
    ∀ x ∈ [(0x12, 1), (0x13, 1), (0x14, 1), (0x15, 1), (0x16, 1), (0x60, 0), (0x70, 0)], ∃ (s : State) (c : Cmd) (q : Queue),
      s.passes c q = true ∧ isClassB c.pkt.opcode.toNat = true ∧
      (c.pkt.opcode.toNat ≠ 0x70 ∨ q.fn ≠ 0 ∨ s.flag schTenant_valid c.pkt.object.toNat = true) ∧
      s.hasTable (s.boundaryPart q.fn c.pkt) = true ∧ s.handsOn x.1 c q = true := by
  intro x hx
  refine ⟨asks ((tabled joined).setFlag schTenant_valid 0 true) x.2 (cmd x.1 0 0), cmd x.1 0 0, asker x.2 (cmd x.1 0 0).pkt, ?_⟩
  revert x
  decide +kernel

/-- A frame with a wrong tag, of each of the opcodes, and of a reserved one. -/
theorem test_witness_WrongTagFramesAreDroppedAndCounted :
    (∀ x ∈ [3, 1, 2, 4, 5, 6, 7, 8, 9, 0x0A, 0x0B, 0x0C, 0x0D, 0x0E, 0x14, 0x15, 0x16, 0x17], ∃ (s : State) (rx : Rx),
      rx.tagOk = false ∧ s.reaches rx x = true) ∧
    ∃ (s : State) (rx : Rx), rx.tagOk = false ∧ reservedOp rx.frame.op.toNat = true ∧ s.reaches rx rx.frame.op.toNat = true := by
  refine ⟨fun x hx => ?_, joined, ⟨0, false, false, frame 0x20⟩, by decide +kernel⟩
  refine ⟨joined, ⟨0, false, false, frame (BitVec.ofNat 8 x)⟩, ?_⟩
  revert x
  decide +kernel

theorem test_witness_AStepRunsTheFrontCommandOrTicks : ∃ s : State, s.pending = [] := ⟨State.reset, rfl⟩

theorem test_witness_CommandsLeaveWhatTheyDoNotTouch :
    ∃ (i : Instr) (s t : State) (p : Piece), exec i s = .next t ∧ p ∉ touches i :=
  ⟨.pcieLinkUp, ready, _, .tmb, rfl, by decide +kernel⟩

theorem test_witness_StepsKeepTheCanonicalForm : ∃ s t : State, Canonical s ∧ step s = .next t :=
  ⟨{ State.reset with pending := [.pcieLinkUp] }, _, ⟨by decide +kernel, by decide +kernel⟩, rfl⟩

/-! ### Ill-formed operands -/

theorem test_wf_fetch : (Instr.commandFetch .mgmt (List.replicate 513 ⟨0, 0, packet 0 0 0⟩)).wf = false := by
  simp only [Instr.wf, List.length_replicate]; rfl
theorem test_wf_completion : (Instr.hostReadCompletion (.packets 0 (List.replicate 65 (packet 0 0 0)))).wf = false := by
  decide +kernel
theorem test_wf_table : (Instr.schTableLoad (cmd 0x30 0 0) (List.replicate 4097 0)).wf = false := by
  simp only [Instr.wf, List.length_replicate]; rfl
theorem test_wf_stops : (Instr.seqOpen (cmd 0x10 0 0) (List.replicate 65 0)).wf = false := by decide +kernel
theorem test_wf_prompt : (Instr.seqPrompt (cmd 0x11 0 0) (List.replicate 4194305 0)).wf = false := by
  simp only [Instr.wf, List.length_replicate]; rfl
theorem test_wf_page_list : (Instr.pageListSet (cmd 0x23 0 0) (List.replicate 262145 0)).wf = false := by
  simp only [Instr.wf, List.length_replicate]; rfl
theorem test_wf_block : (Instr.weightLoad (cmd 0x40 0 0) [] [⟨0, 0, 0, 0, List.replicate 16385 0, 0⟩]).wf = false := by
  simp only [Instr.wf, RawBlock.wf, List.all_cons, List.length_replicate]; rfl
theorem test_wf_entry : (Instr.armatureEntryStart 0 ⟨4096, [], 0⟩).wf = false ∧
    (Instr.kernelComplete 0 4096 ⟨[], [], [], false, false⟩).wf = false ∧ (Instr.stallMaxExpiry 0 4096).wf = false := by decide
theorem test_wf_frame : (Rx.wf ⟨0, true, false, { Frame.zero with payload := List.replicate 4097 0 }⟩) = false := by
  simp only [Rx.wf, Frame.wf, List.length_replicate]; rfl
theorem test_wf_offer_stops (o : MoveOffer) : MoveOffer.wf { o with stops := List.replicate 65 0 } = false := by
  simp only [MoveOffer.wf, List.length_replicate]
  simp only [Nat.reduceLeDiff, decide_false, Bool.false_and]
theorem test_wf_offer_journal (o : MoveOffer) : MoveOffer.wf { o with journal := List.replicate 4194305 0 } = false := by
  simp only [MoveOffer.wf, List.length_replicate]
  simp only [Nat.reduceLeDiff, decide_false, Bool.false_and, Bool.and_false]
theorem test_wf_offer_pages (o : MoveOffer) : MoveOffer.wf { o with pageIndices := List.replicate 262145 0 } = false := by
  simp only [MoveOffer.wf, List.length_replicate]
  simp only [Nat.reduceLeDiff, decide_false, Bool.and_false]
theorem test_wf_window_write : (Instr.hostWindowWrite .mgmt 0 0 []).wf = false := by decide
theorem test_wf_window_read : (Instr.hostWindowRead .mgmt 0 0 0).wf = false ∧ (Instr.hostWindowRead .mgmt 0 0 4097).wf = false := by
  decide
theorem test_wf_dram_access : (Instr.hostDramAccess 0 ⟨.read 0, []⟩).wf = false ∧ (Instr.hostDramAccess 0 ⟨.read 4097, []⟩).wf = false ∧
    (Instr.hostDramAccess 0 ⟨.write [], []⟩).wf = false := by decide
theorem test_wf_issue : (Instr.nearBankDescriptorIssue 0 0 ⟨0, 65537⟩).wf = false := by decide
theorem test_wf_unit_rows :
    (Instr.nearBankOpComplete 0 ⟨[⟨0, []⟩, ⟨0, []⟩], 0, .bytes [], [], [], false, 0⟩).wf = false := by decide
theorem test_wf_register_write : (Instr.registerWrite .mgmt 0 0 0).wf = false ∧ (Instr.registerWrite .mgmt 0 9 0).wf = false := by
  decide
theorem test_wf_thermal : (Instr.thermalSample (List.replicate 65 0) []).wf = false ∧
    (Instr.thermalSample [] (List.replicate 65 0)).wf = false := by decide +kernel
theorem test_wf_plaster : (Instr.plaster false (List.replicate 102 (0, 0, 0))).wf = false := by decide +kernel
theorem test_wf_trace (r : TraceRec) : (Instr.traceRecord { r with data := List.replicate 4097 0 }).wf = false := by
  simp only [Instr.wf, List.length_replicate]; rfl
theorem test_wf_key_exchange : (Instr.keyExchange []).wf = false := by decide

/-! ### One step, and the spec's own numbers -/

/-- The state after an outcome, and the reset state where there is none. -/
def after : Host.Outcome State Fault Refusal → State
  | .next s => s
  | _ => State.reset

/-- The spec's example below R127: DRAM address 0x12_3456_7800 lies in channel 59, bank 28, at offset 0x123_4500. -/
theorem test_interleave_example :
    interleave 0x1234567800 = (59, 28, 0x1234500) ∧ deinterleave 0x1234567800 = 0x2C95234500 := by decide

/-- The spec's example below R528: one byte through two offsets of a 256 GiB BAR4. -/
theorem test_bar4_example :
    let s := (ready.setFld glbBar4Cfg_sizeLog2 0 38).setFld glbBar4Cfg_intBaseGib 0 72
    s.bar4 0x3034567800 = .dram 0x2C95234500 ∧ s.bar4 0x2C95234500 = .dram 0x2C95234500 := by decide +kernel

/-- The same example with a BAR4 of 64 GiB. -/
theorem test_bar4_slide_example :
    ((ready.setFld glbBar4Cfg_sizeLog2 0 36).setFld glbBar4Cfg_slideGib 0 178).bar4 0x15234500 = .dram 0x2C95234500 := by
  decide +kernel

/-- The spec's EM-88 example: 32 tokens of FP8 state, 8 key-value heads of dimension 128, fill a page. -/
theorem test_tokens_per_page_example : tokensPerPage 8 128 0 = 32 := by decide

/-- A step takes the front command and leaves the rest waiting. -/
theorem test_step_front :
    let t := after (step { ready with pending := [.pcieLinkUp, .pcieLinkDown] })
    t.pln.pcieUp = true ∧ t.pending = [.pcieLinkDown] := by decide +kernel

/-- With nothing waiting one tick passes. -/
theorem test_idle_tick : (after (step State.reset)).now = 1 := by decide +kernel

/-- A role change is made without a sequence and not with one. -/
theorem test_role_set :
    let c := cmd 0x03 0 2
    (after (exec (.roleSet c) (asks ready 0 c))).role = 2 ∧
      (after (exec (.roleSet c) (asks (holding ready (seqIn .done)) 0 c))).role = 1 := by decide +kernel

/-- An atomic of a wrong tag is dropped and counted. -/
theorem test_wrong_tag :
    let t := after (exec (.fetchAdd ⟨0, false, false, frame 5⟩) joined)
    t.fld asfRxDrop_tagFail 0 = 1 ∧ t.asf.conns = joined.asf.conns := by decide +kernel

/-- A host write through the DRAM aperture stores its bytes, and a read of the byte beside them finds none. -/
theorem test_aperture_write :
    let t := after (exec (.hostDramAccess 0x1000 ⟨.write [7, 9], []⟩) ready)
    t.dramByte 0x1001 = 9 ∧ t.dramByte 0x1002 = 0 := by decide +kernel

/-- A write-only field reads 0. -/
theorem test_write_only_reads_zero : (ready.readReg 0 .tmbAdj 0) = 0 := by decide +kernel

/-- A voltage raise writes its rails, and its completion ends it. -/
theorem test_vdone : (after (exec (.vdonePoll true true true) (raises ⟨1, none, [1, 0], 0, 0, 0⟩))).pwr.raise = none := by
  decide +kernel

end Sys2Proof.Tests
end

section
/-! The statements of spec/00_scope.md: a role change (R3) and the reserved bits of registers (R12). -/

set_option Elab.async false

namespace Sys2Proof.Machine

/-! ### What entering and ending a command leaves as it was -/

/-- A piece that may not differ is the same, where no reset may have happened. -/
theorem Kept.same_of_shut {z : Ref} {t : State} (h : Kept z t) (hr : ¬ z.opens .restart) {p : Piece} (hp : ¬ z.opens p) :
    p.same z.base t := by
  obtain ⟨-, -, -, restarted | same⟩ := h
  · exact absurd restarted.1 hr
  · exact (same p).resolve_left hp

/-- The pieces that a command accepted and ended at once changes whatever its effect is: its queues, the packets that carry
them, and the hub's domain that they wake. -/
def bookkeeping : List Piece :=
  [.out, .buhorn, .asf, .pwr, .reg .cmdInflight, .reg .cmdReplyWait, .reg .asfCtxStat, .reg .pwrDomStat]

/-- Where a command is entered and ended with its reply alone, every piece beside its bookkeeping stays as it was. -/
theorem State.enter_finish_same (s : State) (c : Cmd) (d : Pend) (id status detail result : Nat) {p : Piece}
    (hp : p ∉ bookkeeping) : p.same s ((s.enter c d).finish id status detail result) := by
  have hw : Frees ⟨s, false, maskOf bookkeeping⟩ (maskOf bookkeeping) := frees_self s false _
  have kept : Kept ⟨s, false, maskOf bookkeeping⟩ ((s.enter c d).finish id status detail result) :=
    State.finish_keeps (hw.sub rfl) _ _ _ _ _ (State.enter_keeps (hw.of rfl) s c d (kept_self s false _ nofun))
  have shut {q : Piece} (hq : q ∉ bookkeeping) : ¬ Ref.opens ⟨s, false, maskOf bookkeeping⟩ q := by
    rw [Ref.opens, testBit_maskOf]
    exact hq
  exact kept.same_of_shut (shut (by decide)) (shut hp)

/-! ### ROLE_SET -/

/-- ROLE_SET, accepted and due, has its effect. -/
theorem execRoleSet_takes {s e : State} {c : Cmd} {d : Pend} (h : s.takes 0x03 c [] 0 d e) :
    exec (.roleSet c) s = .next (effRoleSet d e) :=
  congrArg _ (command_takes h effRoleSet)

/-- Settles O2: the effect branches on the open handles, and its refusing branch ends the command with a reply alone. -/
theorem roleChangesOnlyWithoutSequences : Obligations.RoleChangesOnlyWithoutSequences := by
  unfold Obligations.RoleChangesOnlyWithoutSequences
  intro s c d e h
  rw [execRoleSet_takes h, effRoleSet]
  refine ⟨fun free => by rw [if_pos free], fun held => ⟨by rw [if_neg (by simp [held])], ?_⟩⟩
  obtain ⟨q, -, -, -, -, -, rfl⟩ := h
  have role : Piece.same (.reg .glbFn) s ((s.enter c d).finish d.id 0x13 0 0) :=
    State.enter_finish_same s c d _ _ _ _ (by decide)
  exact congrArg glbFn_role.get (role 0 rfl)

/-! ### Reserved bits of a register's word -/

/-- Whether a bit lies in a field. -/
def Field.spans (f : Field) (b : Nat) : Bool := f.lo ≤ b && b < f.lo + f.width

/-- A bit outside a field lies below or above it. -/
theorem Field.spans_eq_false {f : Field} {b : Nat} : f.spans b = false ↔ b < f.lo ∨ f.lo + f.width ≤ b := by
  simp only [Field.spans, Bool.and_eq_false_iff, decide_eq_false_iff_not]
  omega

/-- A reserved bit lies in none of the register's fields. -/
theorem Reg.reserved_iff {r : Reg} {b : Nat} : r.reserved b = true ↔ ∀ f ∈ r.fields, f.spans b = false := by
  simp [Reg.reserved, Field.spans]

/-- A field lies within its register's 64 bits. -/
theorem Reg.fields_fit {r : Reg} {f : Field} (h : f ∈ r.fields) : f.lo + f.width ≤ 64 := by
  have k : r.fields.all (fun f => f.lo + f.width ≤ 64) = true := by cases r <;> rfl
  simpa using List.all_eq_true.1 k f h

/-- The mask of a field has no bit outside it. -/
theorem Field.mask_getLsbD {f : Field} {b : Nat} (h : f.spans b = false) :
    (BitVec.ofNat 64 ((2 ^ f.width - 1) * 2 ^ f.lo)).getLsbD b = false := by
  rw [BitVec.getLsbD_ofNat, Nat.testBit_mul_two_pow, Nat.testBit_two_pow_sub_one]
  have := Field.spans_eq_false.1 h
  simp only [Bool.and_eq_false_iff, decide_eq_false_iff_not]
  omega

/-- A read shows no reserved bit of the register. -/
theorem Reg.readable_getLsbD {r : Reg} {b : Nat} (h : r.reserved b = true) : r.readable.getLsbD b = false := by
  unfold Reg.readable
  refine List.foldlRecOn (motive := fun m : BitVec 64 => m.getLsbD b = false) _ _ BitVec.getLsbD_zero fun m hm f hf => ?_
  split
  · exact hm
  · rw [BitVec.getLsbD_or, hm, Field.mask_getLsbD (Reg.reserved_iff.1 h f hf), Bool.or_false]

/-- GLB_FN's word for a function, from a role of two bits, has no reserved bit of the register. -/
theorem glbFn_word_getLsbD {b : Nat} (h : Reg.glbFn.reserved b = true) {role : Nat} (hr : role < 4) (fn : Fn) :
    (BitVec.ofNat 64 (role * 2 ^ 6 + if fnNum fn = 0 then 2 ^ 5 else fnNum fn - 1)).getLsbD b = false := by
  rw [BitVec.getLsbD_ofNat]
  generalize hx : (if fnNum fn = 0 then 2 ^ 5 else fnNum fn - 1) = x
  have range : x = 32 ∨ x < 16 := by
    subst hx
    cases fn with
    | mgmt => exact .inl rfl
    | vf p => exact .inr p.isLt
  have place : b = 4 ∨ 8 ≤ b := by
    have outside (f : Field) (hf : f ∈ Reg.glbFn.fields) := Field.spans_eq_false.1 (Reg.reserved_iff.1 h f hf)
    have roleBits : b < 6 ∨ 8 ≤ b := outside glbFn_role (by decide)
    have mgmtBit : b < 5 ∨ 6 ≤ b := outside glbFn_mgmt (by decide)
    have partitionBits : b < 0 ∨ 4 ≤ b := outside glbFn_partition (by decide)
    omega
  rcases place with rfl | high
  · have : (role * 2 ^ 6 + x) / 2 ^ 4 % 2 = 0 := by omega
    rw [Nat.testBit_eq_decide_div_mod_eq, this]
    rfl
  · have : role * 2 ^ 6 + x < 2 ^ b := lt_of_lt_of_le (by omega) (Nat.pow_le_pow_right (by decide) high)
    rw [Nat.testBit_lt_two_pow this, Bool.and_false]

/-- A reserved bit reads 0: the live count has no reserved bit, GLB_FN's word is made of its fields, and every other read is
masked. -/
theorem State.readReg_getLsbD_reserved (s : State) (fn : Fn) {r : Reg} (i : Nat) {b : Nat} (h : r.reserved b = true) :
    (s.readReg (fnNum fn) r i).getLsbD b = false := by
  have masked (w : BitVec 64) : (w &&& r.readable).getLsbD b = false := by
    rw [BitVec.getLsbD_and, Reg.readable_getLsbD h, Bool.and_false]
  unfold State.readReg
  split
  next =>
    have beyond : b < 0 ∨ 64 ≤ b := Field.spans_eq_false.1 (Reg.reserved_iff.1 h tmbNow_count (by decide))
    exact BitVec.getLsbD_of_ge _ _ (by omega)
  next => exact glbFn_word_getLsbD h (Nat.mod_lt _ (by decide)) fn
  next => rw [BitVec.getLsbD_and, masked, Bool.false_and]
  next => exact masked _

/-! ### Reserved bits under a write -/

/-- One bit of a word as a field of one bit, so that the laws of fields speak of it. -/
def Reg.bitAt (r : Reg) (b : Nat) : Field := ⟨r, b, b, .ro, 0, []⟩

/-- The field of one bit reads that bit. -/
theorem Reg.bitAt_get (r : Reg) (b : Nat) (w : BitVec 64) : w.getLsbD b = decide ((r.bitAt b).get w = 1) := by
  simp [Reg.bitAt, Field.get, Field.width, BitVec.getLsbD, Nat.testBit_eq_decide_div_mod_eq]

/-- Writing a field leaves a bit outside it as it was. -/
theorem State.setFld_getLsbD {s : State} (hs : mwf s.regs = true) {f : Field} (hf : f.lo + f.width ≤ 64) {b : Nat}
    (hb : f.spans b = false) (i v : Nat) :
    ((s.setFld f i v).reg f.reg i).getLsbD b = (s.reg f.reg i).getLsbD b := by
  have same : (s.setFld f i v).fld (f.reg.bitAt b) i = s.fld (f.reg.bitAt b) i :=
    State.fld_setFld_beside (f := f) (g := f.reg.bitAt b) hs rfl hf
      (by simpa [Reg.bitAt, Field.width] using Field.spans_eq_false.1 hb) i v
  rw [Reg.bitAt_get f.reg, Reg.bitAt_get f.reg]
  exact congrArg (fun n => decide (n = 1)) same

/-- Writing a field keeps the bank canonical. -/
theorem State.setFld_mwf {s : State} (hs : mwf s.regs = true) (f : Field) (i v : Nat) : mwf (s.setFld f i v).regs = true := by
  unfold State.setFld State.setReg
  dsimp only
  split
  · split
    · exact mwf_mdel hs _
    · exact mwf_mset hs _ _
  · exact hs

/-- A write's effect on one field is that the field takes some value, or none. -/
theorem State.writeField_cases (old s : State) (fn : Nat) (l : Lane) (f : Field) (i : Nat) (w : BitVec 64) :
    State.writeField old s fn l f i w = s ∨ ∃ v, State.writeField old s fn l f i w = s.setFld f i v := by
  unfold State.writeField
  split
  · exact .inl rfl
  · cases f.acc with
    | rw =>
      by_cases h : old.fieldAccepts l f i w = true
      · exact .inr ⟨_, if_pos h⟩
      · exact .inl (if_neg h)
    | w1c => exact .inr ⟨_, rfl⟩
    | _ => exact .inl rfl

/-- A register write leaves the register's reserved bits as they were: so does each field's part of it, in a canonical bank. -/
theorem State.writeFields_getLsbD_reserved {s : State} (hs : mwf s.regs = true) (fn : Nat) (l : Lane) {r : Reg} (i : Nat)
    (v : BitVec 64) {b : Nat} (h : r.reserved b = true) :
    ((s.writeFields fn l r i v).reg r i).getLsbD b = (s.reg r i).getLsbD b := by
  unfold State.writeFields
  extract_lets w
  split
  · refine (List.foldlRecOn (motive := fun t : State => mwf t.regs = true ∧ (t.reg r i).getLsbD b = (s.reg r i).getLsbD b)
      _ _ ⟨hs, rfl⟩ fun t ⟨wf, bit⟩ f hf => ?_).2
    rcases State.writeField_cases s t fn l f i w with e | ⟨x, e⟩ <;> rw [e]
    · exact ⟨wf, bit⟩
    · have unchanged := State.setFld_getLsbD wf (Reg.fields_fit hf) (Reg.reserved_iff.1 h f hf) i x
      rw [Reg.fields_reg hf] at unchanged
      exact ⟨State.setFld_mwf wf f i x, unchanged.trans bit⟩
  · rfl

/-- Settles O51: a read is masked by the fields, and a write changes the bank field by field. -/
theorem reservedFieldsReadZeroAndIgnoreWrites : Obligations.ReservedFieldsReadZeroAndIgnoreWrites := by
  unfold Obligations.ReservedFieldsReadZeroAndIgnoreWrites
  exact ⟨fun s fn _ i _ h => s.readReg_getLsbD_reserved fn i h,
    fun _ fn l _ i v _ hs h => State.writeFields_getLsbD_reserved hs fn l i v h⟩

end Sys2Proof.Machine
end

section
/-! The statements of spec/11_resilience_and_recast.md: SEQ_OPEN and its mirror partner (R379), and the record that finds the
handling ring full (R404). -/

set_option Elab.async false

namespace Sys2Proof.Machine

/-! ### SEQ_OPEN -/

/-- SEQ_OPEN, accepted and due, has its effect. -/
theorem execSeqOpen_takes {s e : State} {c : Cmd} {stops : List (BitVec 32)} {d : Pend} (h : s.takes 0x10 c stops 0 d e) :
    exec (.seqOpen c stops) s = .next (effSeqOpen d e) :=
  congrArg _ (command_takes h effSeqOpen)

section
/-! The packet has passed the checks before the partner's: its tenant, its weight set and the longest reach (R87). -/

variable {s : State} {d : Pend} {w : WeightSet} (tenant : s.tenantIn (d.par 16 2) d.part = true)
  (weights : mget s.weights (d.par 24 2) = some w)
  (reach : d.par 20 4 ≤ 262144 * tokensPerPage (geoKvHeads w.geometry) (geoHeadDim w.geometry) (d.par 19 1))
include tenant weights reach

/-- With no usable partner SEQ_OPEN opens nothing, whether a handle is free or not. -/
theorem effSeqOpen_unmirrored (partner : s.defaultPartner = none) : effSeqOpen d s = s.finish d.id 0x12 0x12 0 := by
  simp only [effSeqOpen, tenant, weights, partner, Nat.not_lt.2 reach, Bool.not_true, Bool.false_eq_true, if_false]

/-- With a usable partner and a free handle SEQ_OPEN opens a sequence mirrored at that partner. -/
theorem effSeqOpen_mirrored {m : Nat × Nat} (partner : s.defaultPartner = some m) {h : Nat} {t : State}
    (handle : s.takeHandle = some (h, t)) :
    effSeqOpen d s =
      (t.openSeq h
        { newSeq d w.geometry m with hold := t.flag schTenant_hold (newSeq d w.geometry m).tenant }).finish d.id 0 0 h := by
  simp only [effSeqOpen, tenant, weights, partner, handle, Nat.not_lt.2 reach, Bool.not_true, Bool.false_eq_true, if_false]

end

/-- A new sequence is mirrored at the partner that it is given. -/
theorem newSeq_mirror (d : Pend) (g : List Cell) (m : Nat × Nat) : (newSeq d g m).mirror = some m := rfl

/-- Settles O52: the effect asks for a partner before it takes a handle, and the new sequence keeps the one it finds. -/
theorem noSequenceOpensWithoutAPartner : Obligations.NoSequenceOpensWithoutAPartner := by
  unfold Obligations.NoSequenceOpensWithoutAPartner
  constructor
  · intro s c stops d e w accepted tenant weights reach partner
    rw [execSeqOpen_takes accepted, effSeqOpen_unmirrored tenant weights reach partner]
  · intro s c stops d e w m h t accepted tenant weights reach partner handle
    have opened := effSeqOpen_mirrored tenant weights reach partner handle
    refine ⟨_, ?_, (execSeqOpen_takes accepted).trans (congrArg _ opened)⟩
    exact newSeq_mirror d w.geometry m

/-! ### The record that finds eight in handling -/

/-- The record of the nested Device-fatal error: unit 0x0B code 1, of no partition, handle or job (R404). -/
def overflowRecord (tick : Tick) : ErrRec := ⟨tick, 3, 0, 0x0B, 1, none, 1, 0, 0, 0, none, 0, 0⟩

/-- A report of a unit that exists is raised where the device takes errors. -/
theorem execErrorRaised_takes {s : State} {e : ErrorReport} (takes : s.takesErrors e.sev.toNat = true) (low : 1 ≤ e.unit.toNat)
    (high : e.unit.toNat ≤ 0x10) : exec (.errorRaised e) s = .next (s.raise e) :=
  congrArg Host.Outcome.next (if_pos (by simp [takes, low, high]))

/-- An error that is not Corrected is neither counted against a threshold nor merged: its record goes into handling (R402). -/
theorem State.raise_uncorrected (s : State) {e : ErrorReport} (h : e.sev ≠ 0) : s.raise e = s.handle (errorRecord e s.now) := by
  have sev : (errorRecord e s.now).sev ≠ 0 := fun k => h (BitVec.eq_of_toNat_eq k)
  have threshold : (errorRecord e s.now).isThreshold = false := by simp [ErrRec.isThreshold, sev]
  simp only [State.raise, threshold, sev, Bool.false_eq_true, if_false]

/-- With eight in handling a record leaves only its tick, in the Device-fatal error that takes its place (R404). -/
theorem State.handle_full {s : State} {r : ErrRec} (full : 8 ≤ s.res.handling.length) (fresh : r.id = 0) :
    s.handle r = (s.bump resErrStat_overflows 0 1).deviceFatal (overflowRecord r.tick) := by
  rw [State.handle, if_pos full, fresh, overflowRecord]

/-- The first Device-fatal error is kept beside the eight, stops the partitions, tells the group and is logged (R405). -/
theorem State.deviceFatal_first {s : State} {r : ErrRec} (first : s.res.fatal = false) :
    s.deviceFatal r =
      ({ s with res := { s.res with fatal := true, nested := some r } }.stopPartitions.failingBeat).writeRecord r := by
  rw [State.deviceFatal, if_neg (by simp [first])]

/-- Settles O53: a severity above Corrected goes straight into handling, which is full, and no Device-fatal error precedes. -/
theorem theNinthRecordIsCountedAndFatal : Obligations.TheNinthRecordIsCountedAndFatal := by
  unfold Obligations.TheNinthRecordIsCountedAndFatal
  rintro s e _ takes low high sev first full rfl
  refine ⟨_, rfl, by rw [State.bump_res], ?_⟩
  have still : (s.bump resErrStat_overflows 0 1).res.fatal = false := by rw [State.bump_res, first]
  rw [execErrorRaised_takes takes low high, State.raise_uncorrected s sev, State.handle_full full rfl,
    State.deviceFatal_first still]
  rfl

end Sys2Proof.Machine
end

section
/-! The statement of spec/13_security_debug_and_trace.md: the fuse programming words (R455). -/

set_option Elab.async false

namespace Sys2Proof.Machine

/-! ### A write that BAR0 keeps, and one that changes nothing -/

/-- A write that BAR0 keeps has its effect. -/
theorem State.whenKept_of_keeps {s : State} {r : Reg} {i : Nat} (h : s.bar0Keeps r i = true) (f : State → State) :
    s.whenKept r i f = f s := if_pos h

/-- A write without an effect leaves the state as it was, whether BAR0 keeps it or not. -/
theorem State.whenKept_of_fixed {s : State} {f : State → State} (h : f s = s) (r : Reg) (i : Nat) : s.whenKept r i f = s := by
  rw [State.whenKept, h, ite_self]

/-! ### SEC_FUSE_PROG -/

/-- No virtual function writes a fuse programming word (R523). -/
theorem State.triggered_secFuseProg_vf (s : State) (p : Fin 16) (lane : Lane) (i : Nat) (v : BitVec 64) :
    s.triggered (fnNum (.vf p)) lane secFuseProg_word i v = none := by
  have denied : mayWrite s (fnNum (.vf p)) secFuseProg_word i = false := by
    simp [mayWrite, fnNum, secFuseProg_word]
  rw [State.triggered, denied, Bool.and_false, if_neg Bool.false_ne_true]

/-- A programming word that reaches the register before FIELD is blown on top of what the fuses hold. -/
theorem execSecFuseProgWrite_blows {s : State} {fn : Fn} {i : Fin 16} {lane : Lane} {v : BitVec 64} {w : Nat}
    (kept : s.bar0Keeps .secFuseProg i.val = true)
    (word : s.triggered (fnNum fn) lane secFuseProg_word i.val v = some w) (early : s.sec.fused ≤ 1) :
    exec (.secFuseProgWrite fn i lane v) s = .next { s with sec := { s.sec with
      fuseWords := mset s.sec.fuseWords i.val (mgetD s.sec.fuseWords i.val 0 ||| BitVec.ofNat 64 w) } } := by
  refine congrArg Host.Outcome.next ((State.whenKept_of_keeps kept _).trans ?_)
  simp only [word, if_pos early]

/-- A write that triggers no programming word, or comes from FIELD onwards, is ignored. -/
theorem execSecFuseProgWrite_ignored {s : State} {fn : Fn} {i : Fin 16} {lane : Lane} {v : BitVec 64}
    (h : s.triggered (fnNum fn) lane secFuseProg_word i.val v = none ∨ 2 ≤ s.sec.fused) :
    exec (.secFuseProgWrite fn i lane v) s = .next s := by
  refine congrArg Host.Outcome.next (State.whenKept_of_fixed ?_ _ _)
  rcases h with untriggered | field
  · simp only [untriggered]
  · split
    · rw [if_neg (Nat.not_le.2 field)]
    · rfl

/-- Settles O54: before FIELD the management function's word is blown, and the lock from FIELD onwards and the function's rights each
leave a write without effect. -/
theorem fusesAreBlownBeforeFieldOnly : Obligations.FusesAreBlownBeforeFieldOnly := by
  unfold Obligations.FusesAreBlownBeforeFieldOnly
  refine ⟨fun s i lane v w kept word early => ?_, fun s fn i lane v field => ?_, fun s p i lane v => ?_⟩
  · exact execSecFuseProgWrite_blows kept word early
  · exact execSecFuseProgWrite_ignored (.inr field)
  · exact execSecFuseProgWrite_ignored (.inl (s.triggered_secFuseProg_vf p lane i.val v))

end Sys2Proof.Machine
end

section
/-! The statements about every command and every step: the frame (O58), the queue of waiting commands (O57), the canonical form
(O59, O60) and the front of the queue (O56). -/

set_option Elab.async false

namespace Sys2Proof.Machine

/-! ### Every command answers a next state -/

/-- Every command of the table has a meaning that answers a next state. -/
theorem exec_isNext (i : Instr) (s : State) : ∃ t, exec i s = .next t := by
  cases i <;> exact ⟨_, rfl⟩

/-- What a command keeps, of any set of pieces that has the row's own. -/
theorem Kept.of_exec {z : Ref} {i : Instr} {s t : State} (h : exec i s = .next t) (hw : Frees z (maskOf (touches i)))
    (hk : Kept z s) : Kept z t :=
  (exec_keeps i s hw hk).get h

/-- A command is kept against the state that it runs in, where its row's pieces may differ. -/
theorem exec_kept {i : Instr} {s t : State} (h : exec i s = .next t) : Kept ⟨s, false, maskOf (touches i)⟩ t :=
  Kept.of_exec h (frees_self s false _) (kept_self s false _ nofun)

/-- Settles O58: what a row keeps holds of every piece that its list does not name, unless it ends in a reset. -/
theorem commandsLeaveWhatTheyDoNotTouch : Obligations.CommandsLeaveWhatTheyDoNotTouch := by
  unfold Obligations.CommandsLeaveWhatTheyDoNotTouch
  intro i s t h
  have named (p : Piece) : Ref.opens ⟨s, false, maskOf (touches i)⟩ p ↔ p ∈ touches i := testBit_maskOf
  obtain ⟨queue, -, -, restarted | same⟩ := exec_kept h
  · obtain ⟨mayReset, moved⟩ := restarted
    rw [named] at mayReset moved
    exact ⟨queue, .inl ⟨mayReset, moved⟩⟩
  · exact ⟨queue, .inr fun p hp => (same p).resolve_left fun k => hp ((named p).1 k)⟩

/-- Settles O57: every meaning answers a next state, and the queue of waiting commands is no piece of any row. -/
theorem everyCommandCompletesAndLeavesTheQueue : Obligations.EveryCommandCompletesAndLeavesTheQueue := by
  unfold Obligations.EveryCommandCompletesAndLeavesTheQueue
  intro i s
  obtain ⟨t, h⟩ := exec_isNext i s
  obtain ⟨queue, -⟩ := exec_kept h
  exact ⟨t, h, queue⟩

/-! ### Steps -/

/-- A step runs the command in front on the state with the rest of the queue. -/
theorem step_front {s : State} {c : Instr} {cs : List Instr} (h : s.pending = c :: cs) :
    step s = exec c { s with pending := cs } := by
  rw [step, h]

/-- With no command waiting a step lets a tick pass. -/
theorem step_idle {s : State} (h : s.pending = []) : step s = .next (idle s) := by
  rw [step, h]

/-- Settles O56: the step is told apart by the queue of waiting commands alone. -/
theorem aStepRunsTheFrontCommandOrTicks : Obligations.AStepRunsTheFrontCommandOrTicks := by
  unfold Obligations.AStepRunsTheFrontCommandOrTicks
  exact ⟨fun _ _ _ => step_front rfl, fun _ => step_idle⟩

/-! ### The canonical form -/

/-- The canonical form is the four forms of what is kept, where they are asked. -/
theorem Kept.canonical {z : Ref} {t : State} (asked : z.canon = true) (h : Kept z t) : Canonical t := by
  obtain ⟨-, ⟨regs, dram, bytes, staging⟩, -⟩ := h
  exact ⟨by rw [Memory.wf, dram asked, bytes asked, staging asked]; rfl, regs asked⟩

/-- Where every piece may differ, a canonical state is kept against itself with its forms asked. -/
theorem Canonical.kept {s : State} (h : Canonical s) : Kept ⟨s, true, maskOf Piece.all⟩ s :=
  kept_self s true _ fun _ => h

/-- A command keeps the canonical form. -/
theorem Canonical.exec {i : Instr} {s t : State} (hs : Canonical s) (h : exec i s = .next t) : Canonical t :=
  (Kept.of_exec h (Frees.of_all (frees_self s true _) _) hs.kept).canonical rfl

/-- A tick keeps the canonical form. -/
theorem Canonical.idle {s : State} (hs : Canonical s) : Canonical (idle s) :=
  (idle_keeps ((frees_self s true _).sub rfl) s hs.kept).canonical rfl

/-- Settles O60: the command in front keeps the form, and so does the tick of an empty queue. -/
theorem stepsKeepTheCanonicalForm : Obligations.StepsKeepTheCanonicalForm := by
  unfold Obligations.StepsKeepTheCanonicalForm
  intro s t hs h
  cases queue : s.pending with
  | nil =>
    rw [step_idle queue] at h
    cases h
    exact hs.idle
  | cons c cs =>
    rw [step_front queue] at h
    have rest : Canonical { s with pending := cs } := hs
    exact rest.exec h

/-- Settles O59: after reset the memories are empty and the register bank holds no word that differs from its reset value. -/
theorem resetIsCanonical : Obligations.ResetIsCanonical := by
  unfold Obligations.ResetIsCanonical
  exact ⟨rfl, rfl⟩

end Sys2Proof.Machine
end

section
/-! The operations that the meanings of many rows begin with: what each does where its own condition holds. -/

set_option Elab.async false

namespace Sys2Proof.Machine

variable {s t : State} {f : State → State}

/-- In a live device a run-time row does its work. -/
theorem State.whenLive_of_live (live : s.live = true) : s.whenLive f = f s := if_pos live

/-- A run-time row in a live device answers what its work answers. -/
theorem live_row (live : s.live = true) (work : f s = t) : (.next (s.whenLive f) : Out) = .next t :=
  congrArg _ ((State.whenLive_of_live live).trans work)

/-- A write that BAR0 keeps answers what its effect answers. -/
theorem kept_row {r : Reg} {i : Nat} (kept : s.bar0Keeps r i = true) (work : f s = t) :
    (.next (s.whenKept r i f) : Out) = .next t :=
  congrArg _ ((State.whenKept_of_keeps kept f).trans work)

/-- A row whose condition holds does its work. -/
theorem due_row {c : Prop} [Decidable c] (due : c) {a : State} : (.next (if c then t else a) : Out) = .next t :=
  congrArg _ (if_pos due)

/-- Where the packet is not taken for a boundary, an accepted command answers what its effect answers. -/
theorem accepted_row {op : Nat} {c : Cmd} {w : List (BitVec 32)} {code : BitVec 12} {d : Pend} {e : State}
    {effect : Pend → State → State} (takes : s.takes op c w code d e) (work : effect d e = t) :
    (.next (s.command op c w code effect) : Out) = .next t :=
  congrArg _ ((command_takes takes effect).trans work)

/-- A frame with a good tag is taken in at its port. -/
theorem State.atPort_of_tag {rx : Rx} {op : Nat} (here : s.reaches rx op = true) (tag : rx.tagOk = true) :
    s.atPort rx op f = f (s.rxWork rx.port.val) := by
  rw [State.atPort, if_neg (by simp [here]), if_neg (by simp [tag])]

/-- A frame with a wrong tag is dropped and counted, whatever its opcode's work is (R233, R319). -/
theorem State.atPort_of_wrongTag {rx : Rx} {op : Nat} (here : s.reaches rx op = true) (tag : rx.tagOk = false) :
    s.atPort rx op f = s.bump asfRxDrop_tagFail 0 1 := by
  rw [State.atPort, if_neg (by simp [here]), if_pos (by simp [tag])]

/-- The row of a frame with a good tag answers what its opcode's work answers. -/
theorem port_row {rx : Rx} {op : Nat} (here : s.reaches rx op = true) (tag : rx.tagOk = true)
    (work : f (s.rxWork rx.port.val) = t) : (.next (s.atPort rx op f) : Out) = .next t :=
  congrArg _ ((State.atPort_of_tag here tag).trans work)

end Sys2Proof.Machine
end

section
/-! The statements of spec/02_buhorn_command_interface.md: the administration commands, what refuses a packet, the commands that
wait for a boundary, and the queues. -/

set_option Elab.async false

namespace Sys2Proof.Machine

variable {s : State} {c : Cmd} {q : Queue}

/-! ### The administration commands -/

/-- A packet that its queue hands on and whose opcode no table lists is refused with BAD_OPCODE. -/
theorem State.badOpcode_of_handsOn (h : s.handsOn c.pkt.opcode.toNat c q = true)
    (unlisted : listedOps.contains c.pkt.opcode.toNat = false) : s.badOpcode c = s.refuse c 0x10 := by
  simp only [State.handsOn, Bool.and_eq_true, decide_eq_true_eq, Bool.not_eq_true'] at h
  obtain ⟨⟨⟨⟨live, -⟩, queue⟩, offered⟩, free⟩ := h
  rw [State.badOpcode, if_neg (by rw [live, unlisted]; decide), queue]
  exact if_neg (by simp [offered, free])

/-- Settles O1: each row's effect, with the branch that its hypotheses choose. -/
theorem adminCommandsComplete : Obligations.AdminCommandsComplete := by
  unfold Obligations.AdminCommandsComplete
  refine ⟨?_, ?_, ?_, ?_, ?_, ?_, ?_, ?_, ?_, ?_⟩
  · intro s c q handed unlisted
    exact congrArg _ (State.badOpcode_of_handsOn handed unlisted)
  · intro s c d e takes
    exact accepted_row takes rfl
  · intro s c d e takes
    exact accepted_row takes rfl
  · intro s c d e takes
    exact accepted_row takes rfl
  · intro s c d e takes reads
    exact accepted_row takes (by rw [effJobEnergy, if_neg reads])
  · intro s c d e takes clears
    exact accepted_row takes (by rw [effJobEnergy, if_pos clears])
  · intro s c d e takes
    exact accepted_row takes rfl
  · intro s c d e takes allowed
    exact accepted_row takes (if_pos allowed)
  · intro s c d e takes allowed
    exact accepted_row takes (if_pos allowed)
  · intro s c d e takes groups privileged idle active shadow queues
    refine accepted_row takes ?_
    have room : ¬ ((e.groupsOf d.obj).length + e.fld prmStatus_groupsFree 0 < d.par 16 1 ∨
        (d.par 17 1 = 1 ∧ e.flag prmPart_privileged d.obj = false) ∧ 4 ≤ e.privileged.length) := by
      rintro (short | ⟨⟨asked, new⟩, full⟩)
      · omega
      · rcases privileged asked with already | few
        · rw [already] at new
          cases new
        · omega
    rw [← List.not_any_eq_all_not, Bool.not_eq_true'] at idle
    simp only [effPartitionConfig]
    rw [if_neg (by simpa only [Bool.or_eq_true, Bool.and_eq_true, decide_eq_true_eq, Bool.not_eq_true'] using room),
      if_neg]
    simp only [active, shadow, Nat.not_lt.2 queues, Bool.or_false, decide_false, Bool.and_eq_true, decide_eq_true_eq]
    rcases idle with same | quiet
    · exact fun busy => busy.1 same
    · exact fun busy => Bool.false_ne_true (quiet.symm.trans busy.2)

/-! ### What refuses a packet -/

/-- Settles O3: the checks of acceptance in their order, and a refusal is the reply alone. -/
theorem refusedCommandsReplyAndAreNotEntered : Obligations.RefusedCommandsReplyAndAreNotEntered := by
  unfold Obligations.RefusedCommandsReplyAndAreNotEntered
  refine ⟨?_, ?_, ?_, ?_, ?_⟩
  · intro s op c q words code effect after handed wrong
    exact commandThen_refuses handed wrong words code effect after
  · intro s op c q words code effect after handed formed barred
    exact commandThen_forbids handed formed barred words code effect after
  · intro s c q handed wrong
    exact congrArg Host.Outcome.next (commandThen_refuses handed wrong [] 0 effNop fun _ s => s)
  · intro s c q handed formed barred
    exact congrArg Host.Outcome.next (commandThen_forbids handed formed barred [] 0 effRoleSet fun _ s => s)
  · intro s c q handed unlisted
    exact congrArg _ (State.badOpcode_of_handsOn handed unlisted)

/-! ### The commands that wait for a boundary -/

/-- A class-B command of a partition with an active table is not due at its acceptance (R40, R64). -/
theorem State.defers_of_table {fn : Nat} {k : Packet} (classB : isClassB k.opcode.toNat = true)
    (own : k.opcode.toNat ≠ 0x70 ∨ fn ≠ 0 ∨ s.flag schTenant_valid k.object.toNat = true)
    (table : s.hasTable (s.boundaryPart fn k) = true) : s.defers fn k = true := by
  have valid : ¬ ((k.opcode.toNat = 0x70 ∧ fn = 0) ∧ s.flag schTenant_valid k.object.toNat = false) := by
    rintro ⟨⟨set, mgmt⟩, invalid⟩
    rcases own with other | vf | v
    · exact other set
    · exact vf mgmt
    · exact Bool.false_ne_true (invalid.symm.trans v)
  simp only [State.defers]
  rw [if_neg (by simpa only [Bool.and_eq_true, decide_eq_true_eq, Bool.not_eq_true'] using valid), if_pos classB, table]

/-- Settles O4: each row enters its command and leaves its effect to the boundary; the two that start stepping fetch on. -/
theorem classBCommandsWaitForTheBoundary : Obligations.ClassBCommandsWaitForTheBoundary := by
  unfold Obligations.ClassBCommandsWaitForTheBoundary
  intro s c q passes classB own table
  have defers : s.defers q.fn c.pkt = true := State.defers_of_table classB own table
  have waits {op : Nat} (handed : s.handsOn op c q = true) (effect after : Pend → State → State) :
      (.next (s.commandThen op c [] 0 effect after) : Out) =
        .next (after (s.pend c q.fn [] 0) (s.enter c (s.pend c q.fn [] 0))) :=
    congrArg _ (commandThen_defers handed passes defers [] 0 effect after)
  have enters {op : Nat} (handed : s.handsOn op c q = true) (effect : Pend → State → State) :
      (.next (s.command op c [] 0 effect) : Out) = .next (s.enter c (s.pend c q.fn [] 0)) :=
    waits handed effect fun _ s => s
  refine ⟨?_, ?_, ?_, ?_, ?_, ?_, ?_⟩
  · exact fun handed => waits handed effSeqStepEnable _
  · exact fun handed => enters handed effSeqPause
  · exact fun handed => waits handed effSeqResume _
  · exact fun handed => enters handed effSeqCancel
  · exact fun handed => enters handed effSeqClose
  · exact fun handed => enters handed effPwrClassPoint
  · exact fun handed => enters handed effTenantSet

/-! ### Queues -/

/-- Settles O5: the queue's kind, its depth and the function that the queue belongs to choose the branch of each row. -/
theorem queueCommandsComplete : Obligations.QueueCommandsComplete := by
  unfold Obligations.QueueCommandsComplete
  refine ⟨?_, ?_, ?_, ?_, ?_, ?_, ?_, ?_⟩
  · intro s c d e takes free ring quota reply
    have unused : ¬ ((e.queue d.obj).isSome = true ∨ d.newQueue.kind = 2 ∧ (e.tokenRing (d.newQueue.fn - 1)).isSome = true) := by
      rintro (used | ⟨kind, second⟩)
      · simp [free] at used
      · simp [ring kind] at second
    have room : ¬ ((e.part (d.newQueue.fn - 1)).quota ≤ e.queuesUsed d.newQueue.fn ∨
        d.newQueue.kind = 0 ∧ e.replyQueueOk d.newQueue.reply d.newQueue.fn = false) := by
      rintro (full | ⟨kind, bad⟩)
      · omega
      · simp [reply kind] at bad
    refine accepted_row takes ?_
    simp only [effQueueCreate]
    rw [if_neg (by simpa only [Bool.or_eq_true, Bool.and_eq_true, decide_eq_true_eq] using unused),
      if_neg (by simpa only [Bool.or_eq_true, Bool.and_eq_true, decide_eq_true_eq, Bool.not_eq_true'] using room)]
  · intro s c d e x takes queue kind
    exact accepted_row takes (by simp [effQueueDelete, queue, kind])
  · intro s c d e x takes queue kind
    exact accepted_row takes (by simp [effQueueDelete, queue, kind])
  · intro s fn q index x live queue own kind deep awake
    have decodes : s.decodesQueue (fnNum fn) q.toNat = true := by simp [State.decodesQueue, queue, own]
    exact live_row live (by simp [decodes, State.ringTail, queue, kind, Nat.not_le.2 deep, awake])
  · intro s fn q index x live queue own kind deep
    have decodes : s.decodesQueue (fnNum fn) q.toNat = true := by simp [State.decodesQueue, queue, own]
    exact live_row live (by simp [decodes, State.ringHead, queue, kind, Nat.not_le.2 deep])
  · rintro s fn writes q x _ live rfl free next
    exact live_row live (by simp [State.fetchNext, free, next])
  · intro s fn lane v kept
    exact kept_row kept rfl
  · intro s q ps live
    exact live_row live rfl

end Sys2Proof.Machine
end

section
/-! The statements of the commands of schedules, weight sets and the fabric (spec/06, spec/07, spec/09). -/

set_option Elab.async false

namespace Sys2Proof.Machine

/-- Settles O6: a load takes a table that passes its checks, a swap a tick ahead and a shadow table. -/
theorem scheduleCommandsComplete : Obligations.ScheduleCommandsComplete := by
  unfold Obligations.ScheduleCommandsComplete
  refine ⟨?_, ?_, ?_, ?_⟩
  · intro s c rows d e takes unswapped ok
    exact accepted_row takes (by
      simp only [effSchTableLoad, unswapped, ok]
      rfl)
  · intro s c d e takes ahead shadow unswapped
    have loaded : (e.part d.part).shadow.isNone = false := by rw [← Option.not_isSome, shadow]; rfl
    exact accepted_row takes (by simp [effSchTableSwap, Nat.not_lt.2 ahead, loaded, unswapped])
  · intro s c d e takes
    exact accepted_row takes rfl
  · intro s p live resetting
    exact live_row live (if_pos resetting)

/-- Settles O7: the checks of a load in their order, and those of a pass. -/
theorem weightCommandsComplete : Obligations.WeightCommandsComplete := by
  unfold Obligations.WeightCommandsComplete
  refine ⟨?_, ?_⟩
  · rintro s c record blocks d e _ _ _ _ _ takes rfl rfl rfl rfl geometry fits blocksOk free still rfl frames near here
    exact accepted_row takes (by
      simp only [effWeightLoad, geometry, blocksOk, still, near, here, Nat.not_lt.2 fits, Nat.not_lt.2 frames, decide_false,
        Bool.not_true, Bool.or_false, Bool.not_false, Bool.false_eq_true, if_false, if_true]
      exact if_neg (by simp [free]))
  · intro s c d e w takes set layers unbarred still free some
    exact accepted_row takes (by
      simp only [effChurnPass, set, unbarred, still, free, Nat.not_lt.2 layers, some, if_false]
      rfl)

/-- Settles O8: the table of regions, the connection and the group map answer each command's checks. -/
theorem fabricCommandsComplete : Obligations.FabricCommandsComplete := by
  unfold Obligations.FabricCommandsComplete
  refine ⟨?_, ?_, ?_, ?_, ?_⟩
  · intro s c d e t key takes added
    exact accepted_row takes (by rw [effRegionRegister, added])
  · intro s c d e r takes region gen still own
    exact accepted_row takes (by simp [effRegionRevoke, region, gen, still, own])
  · rintro s c d e n _ takes free reachable rfl
    exact accepted_row takes (by simp [effConnOpen, free, reachable])
  · intro s c d e k takes conn own mine whole unclosing unopening
    exact accepted_row takes (by simp [effConnClose, conn, own, mine, whole, unclosing, unopening])
  · intro s c map d e takes map' current ahead
    have next : ¬ (e.flag asfEpoch_installed 0 && !e.epochAhead (d.obj % 256)) = true := by
      rw [Bool.and_eq_true, Bool.not_eq_true']
      exact fun stale => Bool.false_ne_true (stale.2.symm.trans (ahead stale.1))
    exact accepted_row takes (by simp only [effEpochSet, map', current, if_neg next]; rfl)

end Sys2Proof.Machine
end

section
/-! The statements of the commands of sequences and of their state (spec/01, spec/03, spec/08). -/

set_option Elab.async false

namespace Sys2Proof.Machine

variable {s e t : State} {c : Cmd} {d : Pend}

/-! ### The life of a sequence -/

/-- Settles O9: each command's checks of the sequence it names, in their order. -/
theorem sequenceLifeCommandsComplete : Obligations.SequenceLifeCommandsComplete := by
  unfold Obligations.SequenceLifeCommandsComplete
  refine ⟨?_, ?_, ?_, ?_, ?_⟩
  · rintro s c stops d e w m h t _ takes tenant weights reach partner handle rfl
    exact accepted_row takes (effSeqOpen_mirrored tenant weights reach partner handle)
  · intro s c tokens d e q t takes groups ring named state still fits journal placed
    have hosted : (e.groupsOf d.part).isEmpty = false := by simpa using groups
    have listens : (e.tokenRing d.part).isNone = false := by rw [← Option.not_isSome, ring]; rfl
    have takesPrompt : (decide (q.state ≠ .opened) && decide (q.state ≠ .done) || e.churning q.model) = false := by
      rcases state with opened | done
      · simp [opened, still]
      · simp [done, still]
    have kept : (q.mirror.isSome && !e.journalTakes q (q.length + d.par 24 4)) = false := by
      rcases journal with alone | room
      · simp [alone]
      · simp [room]
    exact accepted_row takes (by
      simp only [effSeqPrompt, hosted, listens, named, takesPrompt, Nat.not_lt.2 fits, kept, placed]
      rfl)
  · intro s c d e q takes single named
    exact accepted_row takes (by simp [effSeqQuery, single, named])
  · rintro s c d e _ takes list rfl some
    exact accepted_row takes (by simp [effSeqQuery, list, some])
  · intro s c d e q takes named done
    exact accepted_row takes (by simp only [effSeqClose, named, done, if_true])

/-! ### Stepping -/

/-- Where a list of pieces without the device's reset is all that may differ, every other piece is the same. -/
theorem Kept.same_of_not_mem {l : List Piece} (h : Kept ⟨s, false, maskOf l⟩ t) (still : Piece.restart ∉ l) {p : Piece}
    (hp : p ∉ l) : p.same s t :=
  h.same_of_shut (mt testBit_maskOf.1 still) (mt testBit_maskOf.1 hp)

/-- Entering a command leaves the partitions as they were. -/
theorem State.enter_parts (s : State) (c : Cmd) (d : Pend) : (s.enter c d).parts = s.parts := by
  have hw : Frees ⟨s, false, maskOf bookkeeping⟩ (maskOf bookkeeping) := frees_self s false _
  have kept := State.enter_keeps (hw.of rfl) s c d (kept_self s false _ nofun)
  exact kept.same_of_not_mem (p := .parts) (by decide) (by decide)

/-- A class-B command that is due at its acceptance, other than TENANT_SET, is of a partition without an active table (R40). -/
theorem State.takes_classB_noTable {op : Nat} {words : List (BitVec 32)} {code : BitVec 12} (takes : s.takes op c words code d e)
    (classB : isClassB op = true) (own : op ≠ 0x70) : e.hasTable d.part = false := by
  obtain ⟨q, handed, -, -, due, rfl, rfl⟩ := takes
  simp only [State.handsOn, Bool.and_eq_true, decide_eq_true_eq] at handed
  obtain ⟨⟨⟨⟨-, rfl⟩, -⟩, -⟩, -⟩ := handed
  have table : s.hasTable (s.boundaryPart q.fn c.pkt) = false := by
    simpa [State.defers, classB, own] using due
  rwa [State.hasTable, State.part, State.enter_parts]

/-- Without an active table SEQ_STEP_ENABLE returns WRONG_STATE (R238). -/
theorem effSeqStepEnable_noTable (none : e.hasTable d.part = false) : effSeqStepEnable d e = e.finish d.id 0x13 0 0 := by
  simp [effSeqStepEnable, none]

/-- Without an active table SEQ_RESUME returns WRONG_STATE (R238). -/
theorem effSeqResume_noTable (none : e.hasTable d.part = false) : effSeqResume d e = e.finish d.id 0x13 0 0 := by
  simp [effSeqResume, none]

/-- Settles O10: at acceptance an enable or a resume finds no table; at the boundary it finds its sequence and starts it. -/
theorem steppingCommandsComplete : Obligations.SteppingCommandsComplete := by
  unfold Obligations.SteppingCommandsComplete
  have fetches {s e : State} {op : Nat} {c : Cmd} {d : Pend} {effect : Pend → State → State} (takes : s.takes op c [] 0 d e)
      (refused : effect d e = e.finish d.id 0x13 0 0) :
      (.next (s.plainFetch op c effect) : Out) = .next ((e.finish d.id 0x13 0 0).fetchNamed (d.fn - 1) d.handle) := by
    rw [State.plainFetch, commandThen_takes takes, refused]
  refine ⟨?_, ?_, ?_, ?_, ?_, ?_⟩
  · intro s c d e takes
    exact fetches takes (effSeqStepEnable_noTable (State.takes_classB_noTable takes rfl (by decide)))
  · intro s c d e takes
    exact fetches takes (effSeqResume_noTable (State.takes_classB_noTable takes rfl (by decide)))
  · intro e t d q table ring named state thick still started
    have listens : (e.tokenRing d.part).isNone = false := by rw [← Option.not_isSome, ring]; rfl
    rcases state with ready | paused
    · simp [effSeqStepEnable, table, listens, named, ready, thick, still, started]
    · simp [effSeqStepEnable, table, listens, named, paused, thick, still, started]
  · intro e t d q table named paused thick started
    simp [effSeqResume, table, named, paused, thick, started]
  · intro s c d e q takes named stepping
    exact accepted_row takes (by simp only [effSeqPause, named, stepping])
  · intro s c d e q takes named undone unmoved
    refine accepted_row takes ?_
    rw [effSeqCancel, named]
    dsimp only
    split
    case h_1 done => exact absurd done undone
    case h_2 moving => exact absurd moving unmoved
    case h_3 => rfl

/-! ### The state of a sequence -/

/-- Settles O11: each command's checks of the sequence it names and of the node or tier that it asks. -/
theorem stateCommandsComplete : Obligations.StateCommandsComplete := by
  unfold Obligations.StateCommandsComplete
  refine ⟨?_, ?_, ?_, ?_, ?_⟩
  · rintro s c d e q _ takes named state reachable rfl
    have settled : ¬ (decide (q.state ≠ .ready) && decide (q.state ≠ .paused)) = true := by
      rcases state with ready | paused
      · simp [ready]
      · simp [paused]
    exact accepted_row takes (by simp only [effStateMove, named, if_neg settled, reachable]; rfl)
  · intro s c d e q n takes named unmoved built whole begins bare choice
    exact accepted_row takes (by simp [effStateMirror, named, unmoved, built, whole, begins, bare, choice])
  · intro s c d e q takes named unmoved built whole ends prot
    exact accepted_row takes (by simp [effStateMirror, named, unmoved, built, whole, ends, prot])
  · intro s c code d e q takes named unmoved built tier peer
    exact accepted_row takes (by simp [effStateFetch, named, unmoved, built, tier, peer])
  · rintro s c entries d e q _ t takes named state rfl fine placed
    have settled : (decide (q.state ≠ .opened) && decide (q.state ≠ .ready) && decide (q.state ≠ .paused) &&
        decide (q.state ≠ .done)) = false := by
      rcases state with k | k | k | k <;> rw [k] <;> rfl
    exact accepted_row takes (by simp only [effPageListSet, named, settled, fine, placed]; rfl)

end Sys2Proof.Machine
end

section
/-! The statements of spec/04_generation_engine_near_bank.md: the near-bank units, the channels, the draft head and the DRAM
aperture. -/

set_option Elab.async false

namespace Sys2Proof.Machine

variable {s t : State}

/-! ### Near-bank operations -/

/-- An operation whose reads are decoded, of a partition, with no buffer parity error: it runs, its result poisoned where a read
was lost, and each lost sector is reported. -/
theorem State.doOp_of_reads {c p : Nat} {d : BitVec 256} {inp : NbInput} {lost : List Nat}
    (reads : s.decodeReads c d inp.upsets = (t, lost)) (parity : inp.parity = false) :
    s.doOp c p d inp = (lost ++ t.poisonedReads c d).foldl (fun s a => s.unreadable p d a)
      (t.runOp c p d inp (!(lost ++ t.poisonedReads c d).isEmpty)) := by
  simp [State.doOp, reads, parity]

/-- Settles O16: the descriptor's checks, an operation within its 8,000 ticks, and the watchdog at their end. -/
theorem nearBankOperationsComplete : Obligations.NearBankOperationsComplete := by
  unfold Obligations.NearBankOperationsComplete
  refine ⟨?_, ?_, ?_, ?_⟩
  · intro s ch p d need live running ok fits
    exact live_row live (by simp [running, ok, fits])
  · intro s ch inp p d start t lost live running begun late part reads clean parity
    exact live_row live (by
      simp [running, Nat.not_lt.2 begun, Nat.not_lt.2 late, part, State.doOp_of_reads reads parity, clean])
  · intro s ch inp p d start t lost a as live running begun late part reads poisoned parity
    exact live_row live (by
      simp [running, Nat.not_lt.2 begun, Nat.not_lt.2 late, part, State.doOp_of_reads reads parity, poisoned])
  · intro s ch u tag temp p d start live running elapsed named part
    exact live_row live (by simp [running, Nat.not_lt.2 elapsed, named, part])

/-! ### The modes of a channel -/

/-- Settles O17: the channel's mode and its refresh's tick choose the branch of each row. -/
theorem channelRowsComplete : Obligations.ChannelRowsComplete := by
  unfold Obligations.ChannelRowsComplete
  refine ⟨?_, ?_, ?_, ?_, ?_, ?_, ?_, ?_⟩
  · intro s ch live elapsed mode
    exact live_row live (by simp [Nat.not_lt.2 elapsed, mode])
  · intro s ch live elapsed mode
    exact live_row live (by simp [Nat.not_lt.2 elapsed, mode])
  · intro s ch a live free
    exact live_row live (by simp [free])
  · intro s ch a k live held
    exact live_row live (by simp [held])
  · intro s ch live
    exact live_row live rfl
  · intro s ch live elapsed paid mode runs
    exact live_row live (by simp [Nat.not_lt.2 elapsed, paid, mode, runs])
  · intro s ch live elapsed paid idle
    have takesNow : (decide (s.chMode ch.val = 1) && (s.chan ch.val).running.isSome) = false := by
      rcases idle with mode | none
      · simp [mode]
      · simp [none]
    exact live_row live (by simp only [Nat.not_lt.2 elapsed, paid, takesNow]; rfl)
  · intro s fn ch lane v kept awake
    exact kept_row kept (by simp [awake])

/-! ### The draft head -/

/-- Settles O18: the rings held decide when a configuration applies. -/
theorem draftRowsComplete : Obligations.DraftRowsComplete := by
  unfold Obligations.DraftRowsComplete
  refine ⟨?_, ?_, ?_, ?_⟩
  · rintro s fn lane v _ kept rfl differs free
    exact kept_row kept (by simp [State.writeDraftCfg, differs, free])
  · rintro s fn lane v _ kept rfl differs held
    exact kept_row kept (by simp [State.writeDraftCfg, differs, held])
  · intro s live busy free
    exact live_row live (by simp [busy, free])
  · intro s handle rows r w live ring set
    exact live_row live (by simp [ring, set])

end Sys2Proof.Machine
end

section
/-! The statements of the DRAM aperture (spec/04 R124 to R127, spec/15 R526 to R528): what an access in service does, and which
bytes a write stores. -/

set_option Elab.async false

namespace Sys2Proof.Machine

variable {s t : State}

/-! ### What counting an access beyond the DRAM leaves as it was -/

/-- Counting in one register leaves the fields of every other as they were. -/
theorem State.fld_bump_other (s : State) {f g : Field} (h : f.reg ≠ g.reg) (i n : Nat) {j : Nat} (hj : g.reg.has j = true) :
    (s.bump f i n).fld g j = s.fld g j :=
  congrArg g.get (State.reg_setReg_other s h i _ hj)

/-- A register of one row per channel, or of the 64 and more power domains, has the channel's. -/
theorem Reg.has_below {r : Reg} {n i : Nat} (first : r.layout.first = 0) (rows : n ≤ r.layout.n1 * r.layout.n2) (h : i < n) :
    r.has i = true := by
  simp only [Reg.has, first, Nat.zero_le, decide_true, Bool.true_and, decide_eq_true_eq]
  omega

/-- Counting a hole leaves what holds a channel's accesses as it was. -/
theorem State.busy_bumpHole (s : State) {c : Nat} (h : c < 64) :
    let t := s.bump genApertureHole_count 0 1
    t.chMode c = s.chMode c ∧ t.windowOver c = s.windowOver c ∧ t.rindHolds (chanDomain c) = s.rindHolds (chanDomain c) := by
  have force : (s.bump genApertureHole_count 0 1).fld genChmode_forceMem c = s.fld genChmode_forceMem c :=
    s.fld_bump_other (by decide) 0 1 (Reg.has_below rfl (n := 64) (by decide) h)
  have only : (s.bump genApertureHole_count 0 1).fld genChUnits_memOnly c = s.fld genChUnits_memOnly c :=
    s.fld_bump_other (by decide) 0 1 (Reg.has_below rfl (n := 64) (by decide) h)
  have max : (s.bump genApertureHole_count 0 1).fld genMmwin_max 0 = s.fld genMmwin_max 0 :=
    s.fld_bump_other (by decide) 0 1 rfl
  refine ⟨?_, ?_, ?_⟩
  · exact s.fld_bump_other (by decide) 0 1 (Reg.has_below rfl (n := 64) (by decide) h)
  · simp only [State.windowOver, State.keptMemory, State.flag, force, only, max]
    rfl
  · have state : (s.bump genApertureHole_count 0 1).domainState (chanDomain c) = s.domainState (chanDomain c) :=
      s.fld_bump_other (by decide) 0 1 (Reg.has_below rfl (n := 89) (by decide) (by unfold chanDomain; omega))
    rw [State.rindHolds, state, State.rindHolds]

/-- Counting a hole leaves where an access must wait as it was. -/
theorem State.holdPoint_bumpHole (s : State) (places : List Nat) :
    (s.bump genApertureHole_count 0 1).holdPoint places = s.holdPoint places := by
  have busy : (s.bump genApertureHole_count 0 1).busyChannel places = s.busyChannel places := by
    refine congrArg (fun p => List.find? p (places.map fun d => d / 0xC000_0000)) (funext fun c => ?_)
    by_cases h : c < 64
    · obtain ⟨mode, window, rind⟩ := s.busy_bumpHole h
      simp only [mode, window, rind]
    · simp only [h, decide_false, Bool.false_and]
  rw [State.holdPoint, busy]
  rfl

/-- Counting a hole leaves the aperture's map as it was. -/
theorem State.bar4_bumpHole (s : State) (off : Nat) : (s.bump genApertureHole_count 0 1).bar4 off = s.bar4 off := by
  have cfg {g : Field} (h : g.reg = .glbBar4Cfg) : (s.bump genApertureHole_count 0 1).fld g 0 = s.fld g 0 :=
    s.fld_bump_other (by rw [h]; decide) 0 1 (by rw [h]; rfl)
  have size : (s.bump genApertureHole_count 0 1).fld glbBar4Cfg_sizeLog2 0 = s.fld glbBar4Cfg_sizeLog2 0 := cfg rfl
  have base : (s.bump genApertureHole_count 0 1).fld glbBar4Cfg_intBaseGib 0 = s.fld glbBar4Cfg_intBaseGib 0 := cfg rfl
  have slide : (s.bump genApertureHole_count 0 1).fld glbBar4Cfg_slideGib 0 = s.fld glbBar4Cfg_slideGib 0 := cfg rfl
  have view : (s.bump genApertureHole_count 0 1).fld glbBar4Cfg_view 0 = s.fld glbBar4Cfg_view 0 := cfg rfl
  simp only [State.bar4, State.flag, size, base, slide, view]

/-- Counting a hole leaves the places of an access as they were. -/
theorem State.bar4Places_bumpHole (s : State) (off n : Nat) :
    (s.bump genApertureHole_count 0 1).bar4Places off n = s.bar4Places off n := by
  simp only [State.bar4Places, State.bar4_bumpHole]

/-! ### An access in service -/

/-- The device that serves an access in service: one that begins or ends beyond the DRAM has been counted (R127). -/
def State.countHole (s : State) (off : Nat) (op : MemOp) : State :=
  if s.bar4 off = .hole ∨ s.bar4 (off + (MemOp.size op - 1)) = .hole then s.bump genApertureHole_count 0 1 else s

/-- An access that lies in the DRAM whole is not counted. -/
theorem State.countHole_inside {off : Nat} {op : MemOp} (first : s.bar4 off ≠ .hole)
    (last : s.bar4 (off + (MemOp.size op - 1)) ≠ .hole) : s.countHole off op = s :=
  if_neg (not_or.2 ⟨first, last⟩)

/-- An access as its channels take it: served at once, or held at the first that must wait (R126, R132). -/
def State.takeAccess (s : State) (off : Nat) (op : MemOp) (ups : List Upset) : State :=
  match s.holdPoint (s.bar4Places off (MemOp.size op)) with
  | some c => (s.hold c (.host off (s.bar4Places off (MemOp.size op)) op ups)).sequence c
  | none => s.serveHost off (s.bar4Places off (MemOp.size op)) op ups

/-- An access that no channel holds is served. -/
theorem State.takeAccess_free {off : Nat} {op : MemOp} (ups : List Upset)
    (free : s.holdPoint (s.bar4Places off (MemOp.size op)) = none) :
    s.takeAccess off op ups = s.serveHost off (s.bar4Places off (MemOp.size op)) op ups := by
  rw [State.takeAccess, free]

/-- An access that a channel holds waits there. -/
theorem State.takeAccess_held {off c : Nat} {op : MemOp} (ups : List Upset)
    (held : s.holdPoint (s.bar4Places off (MemOp.size op)) = some c) :
    s.takeAccess off op ups = (s.hold c (.host off (s.bar4Places off (MemOp.size op)) op ups)).sequence c := by
  rw [State.takeAccess, held]

/-- HOST_DRAM_ACCESS in service, within the aperture's DRAM, is counted where it leaves the DRAM and taken by its channels. -/
theorem execHostDramAccess_inService {off : BitVec 38} {op : MemOp} (ups : List Upset) (runs : s.hubRuns = true)
    (ready : s.stage = 7) (here : s.bar4 off.toNat ≠ .remote) :
    exec (.hostDramAccess off ⟨op, ups⟩) s = .next ((s.countHole off.toNat op).takeAccess off.toNat op ups) := by
  refine congrArg Host.Outcome.next ?_
  rw [if_neg (by simp [runs]), if_neg (by simp [ready])]
  split
  case h_1 remote => exact absurd remote here
  case h_2 =>
    simp only [Bool.or_eq_true, decide_eq_true_eq]
    rfl

/-! ### The rows of the aperture -/

/-- Settles O30: the stage, the aperture's map and the channels choose what an access does. -/
theorem apertureRowsComplete : Obligations.ApertureRowsComplete := by
  unfold Obligations.ApertureRowsComplete
  refine ⟨?_, ?_, ?_, ?_, ?_⟩
  · intro s off op ups runs early
    refine congrArg Host.Outcome.next ?_
    rw [if_neg (by simp [runs]), if_pos early]
  · intro s off op ups runs ready here first last free
    rw [execHostDramAccess_inService ups runs ready here, State.countHole_inside first last, State.takeAccess_free ups free]
  · intro s off op ups c runs ready here first last held
    rw [execHostDramAccess_inService ups runs ready here, State.countHole_inside first last, State.takeAccess_held ups held]
  · rintro s off op ups _ runs ready here hole rfl free
    rw [execHostDramAccess_inService ups runs ready here, State.countHole, if_pos hole, State.takeAccess_free ups free]
  · intro s fn lane v kept
    exact kept_row kept rfl

end Sys2Proof.Machine
end

section
/-! What a write of places stores: its own bytes, and nothing else (R125, R126). -/

set_option Elab.async false

namespace Sys2Proof.Machine

variable {s t : State}

/-! ### One byte -/

/-- Where no page is at home, a byte of DRAM reads as the banks hold it. -/
theorem State.dramByte_bare {d : Nat} (bare : s.homePage (frameAt d).1 = none) : s.dramByte d = Cells.read s.dram d := by
  simp only [State.dramByte, bare]

/-- A byte written where no page is at home goes to the banks. -/
theorem State.putDramByte_bare {d : Nat} (bare : s.homePage (frameAt d).1 = none) (v : BitVec 8) :
    s.putDramByte d v = { s with dram := Cells.write s.dram d v } := by
  simp only [State.putDramByte, bare]

/-- The plain bytes of a sector are 32. -/
theorem State.plainOf_length (s : State) (p sec : Nat) {bytes : List (BitVec 8)} (h : bytes.length = 32) :
    (s.plainOf p sec bytes).length = 32 := by
  unfold State.plainOf
  split
  · simp [wordSector, leBytes]
  · exact h

/-- The bytes of a sector as DRAM stores it are 32. -/
theorem State.stored_length (s : State) (p sec : Nat) {bytes : List (BitVec 8)} (h : bytes.length = 32) :
    (s.stored p sec bytes).length = 32 := by
  unfold State.stored
  split
  · simp [wordSector, leBytes]
  · exact h

/-- A byte written in a page's home goes to the page's contents, with the 32 bytes of its sector. -/
theorem State.putDramByte_home {d page : Nat} (home : s.homePage (frameAt d).1 = some page) (v : BitVec 8) :
    ∃ new, new.length = 32 ∧ s.putDramByte d v =
      { s with tiers := { s.tiers with
        bytes := Cells.writeList s.tiers.bytes (pageByte page ((frameAt d).2 / 32 * 32)) new } } := by
  refine ⟨_, ?_, by simp only [State.putDramByte, home]; rfl⟩
  refine s.plainOf_length _ _ ?_
  rw [List.length_set]
  exact s.stored_length _ _ (by simp [Cells.readList])

/-! ### A write of places -/

/-- The byte that a write of places puts at one place; a place beyond the DRAM takes none. -/
def State.putPlace (s : State) (x : Nat × BitVec 8) : State := if x.1 < dramBytes then s.putDramByte x.1 x.2 else s

/-- A write of places puts its bytes one after the other, and ends the poison of the sectors that it covers. -/
theorem State.writePlaces_eq (s : State) (places : List Nat) (bs : List (BitVec 8)) :
    s.writePlaces places bs = (wholeSectors places).foldl State.cleanSector ((places.zip bs).foldl State.putPlace s) := rfl

/-- What putting one byte can do: nothing beyond the DRAM, one byte of the banks, or the 32 bytes of a page's sector. -/
theorem State.putPlace_cases (s : State) (x : Nat × BitVec 8) :
    (dramBytes ≤ x.1 ∧ s.putPlace x = s) ∨
    (s.homePage (frameAt x.1).1 = none ∧ s.putPlace x = { s with dram := Cells.write s.dram x.1 x.2 }) ∨
    ∃ page new, s.homePage (frameAt x.1).1 = some page ∧ new.length = 32 ∧ s.putPlace x = { s with tiers := { s.tiers with
      bytes := Cells.writeList s.tiers.bytes (pageByte page ((frameAt x.1).2 / 32 * 32)) new } } := by
  by_cases inside : x.1 < dramBytes
  · have put : s.putPlace x = s.putDramByte x.1 x.2 := if_pos inside
    rw [put]
    cases home : s.homePage (frameAt x.1).1 with
    | none => exact .inr (.inl ⟨rfl, State.putDramByte_bare home x.2⟩)
    | some page =>
      obtain ⟨new, length, eq⟩ := State.putDramByte_home home x.2
      exact .inr (.inr ⟨page, new, rfl, length, eq⟩)
  · exact .inl ⟨Nat.not_lt.1 inside, if_neg inside⟩

/-- A state on the way of a write that began in `s`: the pages at home are those of `s`, and both memories are canonical. -/
structure Homed (s t : State) : Prop where
  home : ∀ k, t.homePage k = s.homePage k
  dram : Cells.wf t.dram = true
  bytes : Cells.wf t.tiers.bytes = true

/-- Putting a byte moves no page and keeps the canonical forms. -/
theorem Homed.putPlace (h : Homed s t) (x : Nat × BitVec 8) : Homed s (t.putPlace x) := by
  rcases t.putPlace_cases x with ⟨-, eq⟩ | ⟨-, eq⟩ | ⟨page, new, -, -, eq⟩ <;> rw [eq]
  · exact h
  · exact ⟨h.home, cells_wf_write h.dram _ _, h.bytes⟩
  · exact ⟨h.home, h.dram, cells_wf_writeList h.bytes _ _⟩

/-- Putting bytes moves no page and keeps the canonical forms. -/
theorem Homed.putPlaces (h : Homed s t) (l : List (Nat × BitVec 8)) : Homed s (l.foldl State.putPlace t) := by
  induction l generalizing t with
  | nil => exact h
  | cons x l ih => exact ih (h.putPlace x)

/-- A byte put at another place leaves the banks' byte as it was. -/
theorem Homed.read_dram_putPlace (h : Homed s t) {x : Nat × BitVec 8} {a : Nat} (other : x.1 ≠ a) :
    Cells.read (t.putPlace x).dram a = Cells.read t.dram a := by
  rcases t.putPlace_cases x with ⟨-, eq⟩ | ⟨-, eq⟩ | ⟨page, new, -, -, eq⟩ <;> rw [eq]
  exact (cells_read_write h.dram _ _ _).trans (if_neg other)

/-- A byte put where no page is at home reads as it was put. -/
theorem Homed.read_dram_putPlace_self (h : Homed s t) {x : Nat × BitVec 8} (inside : x.1 < dramBytes)
    (bare : s.homePage (frameAt x.1).1 = none) : Cells.read (t.putPlace x).dram x.1 = x.2 := by
  rcases t.putPlace_cases x with ⟨beyond, -⟩ | ⟨-, eq⟩ | ⟨page, new, home, -, -⟩
  · exact absurd inside (Nat.not_lt.2 beyond)
  · rw [eq]
    exact (cells_read_write h.dram _ _ _).trans (if_pos rfl)
  · rw [h.home, bare] at home
    cases home

/-- A byte put in another sector leaves a byte of page contents as it was. -/
theorem Homed.read_bytes_putPlace (h : Homed s t) {x : Nat × BitVec 8} {a : Nat}
    (other : ∀ page, s.homePage (frameAt x.1).1 = some page →
      a < pageByte page ((frameAt x.1).2 / 32 * 32) ∨ pageByte page ((frameAt x.1).2 / 32 * 32) + 32 ≤ a) :
    Cells.read (t.putPlace x).tiers.bytes a = Cells.read t.tiers.bytes a := by
  rcases t.putPlace_cases x with ⟨-, eq⟩ | ⟨-, eq⟩ | ⟨page, new, home, length, eq⟩ <;> rw [eq]
  refine cells_read_writeList_out h.bytes _ _ new ?_
  rw [length]
  exact other page ((h.home _).symm.trans home)

/-- Bytes put at other places leave the banks' byte as it was. -/
theorem Homed.read_dram_putPlaces (h : Homed s t) {l : List (Nat × BitVec 8)} {a : Nat} (other : ∀ x ∈ l, x.1 ≠ a) :
    Cells.read (l.foldl State.putPlace t).dram a = Cells.read t.dram a := by
  induction l generalizing t with
  | nil => rfl
  | cons x l ih =>
    obtain ⟨first, rest⟩ := List.forall_mem_cons.1 other
    exact (ih (h.putPlace x) rest).trans (h.read_dram_putPlace first)

/-- Bytes put in other sectors leave a byte of page contents as it was. -/
theorem Homed.read_bytes_putPlaces (h : Homed s t) {l : List (Nat × BitVec 8)} {a : Nat}
    (other : ∀ x ∈ l, ∀ page, s.homePage (frameAt x.1).1 = some page →
      a < pageByte page ((frameAt x.1).2 / 32 * 32) ∨ pageByte page ((frameAt x.1).2 / 32 * 32) + 32 ≤ a) :
    Cells.read (l.foldl State.putPlace t).tiers.bytes a = Cells.read t.tiers.bytes a := by
  induction l generalizing t with
  | nil => rfl
  | cons x l ih =>
    obtain ⟨first, rest⟩ := List.forall_mem_cons.1 other
    exact (ih (h.putPlace x) rest).trans (h.read_bytes_putPlace first)

/-- Of bytes put at places of which none is named twice, each reads as it was put where no page is at home. -/
theorem Homed.read_dram_putPlaces_mem (h : Homed s t) {l : List (Nat × BitVec 8)} (once : (l.map Prod.fst).Nodup)
    {x : Nat × BitVec 8} (mem : x ∈ l) (inside : x.1 < dramBytes) (bare : s.homePage (frameAt x.1).1 = none) :
    Cells.read (l.foldl State.putPlace t).dram x.1 = x.2 := by
  induction l generalizing t with
  | nil => cases mem
  | cons y l ih =>
    obtain ⟨fresh, once⟩ := List.nodup_cons.1 once
    rcases List.mem_cons.1 mem with rfl | mem
    · have later : ∀ y ∈ l, y.1 ≠ x.1 := fun y hy same => fresh (same ▸ List.mem_map_of_mem hy)
      exact ((h.putPlace x).read_dram_putPlaces later).trans (h.read_dram_putPlace_self inside bare)
    · exact ih (h.putPlace y) once mem

/-! ### The end of poison -/

/-- Two states hold the same bytes in the same places. -/
def SameBytes (s t : State) : Prop :=
  t.dram = s.dram ∧ t.tiers.bytes = s.tiers.bytes ∧ ∀ k, t.homePage k = s.homePage k

/-- The end of a sector's poison changes no byte. -/
theorem SameBytes.cleanSector (h : SameBytes s t) (d : Nat) : SameBytes s (t.cleanSector d) := by
  simp only [State.cleanSector]
  split <;> exact h

/-- The end of sectors' poison changes no byte. -/
theorem SameBytes.cleanSectors (h : SameBytes s t) (l : List Nat) : SameBytes s (l.foldl State.cleanSector t) := by
  induction l generalizing t with
  | nil => exact h
  | cons d l ih => exact ih (h.cleanSector d)

/-! ### The bytes that a write of places stores -/

section
variable {places : List Nat} {bs : List (BitVec 8)} (wf : Memory.wf s = true)
include wf

/-- A state is on its own way where its memories are canonical. -/
theorem Homed.refl : Homed s s := by
  simp only [Memory.wf, Bool.and_eq_true] at wf
  obtain ⟨⟨dram, bytes⟩, -⟩ := wf
  exact ⟨fun _ => rfl, dram, bytes⟩

/-- A write of places moves no page, and its memories are those of its bytes put one after the other. -/
theorem State.writePlaces_same (places : List Nat) (bs : List (BitVec 8)) :
    (s.writePlaces places bs).dram = ((places.zip bs).foldl State.putPlace s).dram ∧
    (s.writePlaces places bs).tiers.bytes = ((places.zip bs).foldl State.putPlace s).tiers.bytes ∧
    ∀ k, (s.writePlaces places bs).homePage k = s.homePage k := by
  rw [State.writePlaces_eq]
  have put := (Homed.refl wf).putPlaces (places.zip bs)
  obtain ⟨dram, bytes, home⟩ := SameBytes.cleanSectors
    (s := (places.zip bs).foldl State.putPlace s) ⟨rfl, rfl, fun _ => rfl⟩ (wholeSectors places)
  exact ⟨dram, bytes, fun k => (home k).trans (put.home k)⟩

/-- A byte of DRAM outside page homes that is none of the places reads as before. -/
theorem State.dramByte_writePlaces_other {d : Nat} (other : d ∉ places) (bare : s.homePage (frameAt d).1 = none) :
    (s.writePlaces places bs).dramByte d = s.dramByte d := by
  obtain ⟨dram, -, home⟩ := State.writePlaces_same wf places bs
  rw [State.dramByte_bare ((home _).trans bare), State.dramByte_bare bare, dram]
  refine (Homed.refl wf).read_dram_putPlaces fun x mem same => other ?_
  exact same ▸ (List.of_mem_zip mem).1

/-- A byte of page contents outside the sectors written reads as before. -/
theorem State.read_bytes_writePlaces {a : Nat} (other : ∀ d ∈ places, ∀ page, s.homePage (frameAt d).1 = some page →
      a < pageByte page ((frameAt d).2 / 32 * 32) ∨ pageByte page ((frameAt d).2 / 32 * 32) + 32 ≤ a) :
    Cells.read (s.writePlaces places bs).tiers.bytes a = Cells.read s.tiers.bytes a := by
  obtain ⟨-, bytes, -⟩ := State.writePlaces_same wf places bs
  rw [bytes]
  exact (Homed.refl wf).read_bytes_putPlaces fun x mem => other x.1 (List.of_mem_zip mem).1

/-- Where no place is named twice, each byte written outside page homes reads as written. -/
theorem State.dramByte_writePlaces_mem {i d : Nat} {b : BitVec 8} (once : places.Nodup) (full : places.length ≤ bs.length)
    (place : places[i]? = some d) (byte : bs[i]? = some b) (inside : d < dramBytes)
    (bare : s.homePage (frameAt d).1 = none) : (s.writePlaces places bs).dramByte d = b := by
  obtain ⟨dram, -, home⟩ := State.writePlaces_same wf places bs
  rw [State.dramByte_bare ((home _).trans bare), dram]
  have mem : (d, b) ∈ places.zip bs :=
    List.mem_of_getElem? (List.getElem?_zip_eq_some.2 ⟨place, byte⟩)
  exact (Homed.refl wf).read_dram_putPlaces_mem (by rwa [List.map_fst_zip full]) mem inside bare

end

/-! ### A write through the aperture -/

/-- Whether it is counted or not, an access is taken with the same map, the same channels and the same memories. -/
theorem State.countHole_same (s : State) (off : Nat) (op : MemOp) :
    (∀ o n, (s.countHole off op).bar4Places o n = s.bar4Places o n) ∧
    (∀ places, (s.countHole off op).holdPoint places = s.holdPoint places) ∧
    (s.countHole off op).dram = s.dram ∧ (s.countHole off op).tiers = s.tiers ∧
    Memory.wf (s.countHole off op) = Memory.wf s := by
  unfold State.countHole
  split
  · exact ⟨s.bar4Places_bumpHole, s.holdPoint_bumpHole, rfl, rfl, rfl⟩
  · exact ⟨fun _ _ => rfl, fun _ => rfl, rfl, rfl, rfl⟩

/-- Settles O55: the access is served as a write of its places, by a device that holds the same bytes. -/
theorem apertureWritesStoreTheirBytesOnly : Obligations.ApertureWritesStoreTheirBytesOnly := by
  unfold Obligations.ApertureWritesStoreTheirBytesOnly
  rintro s off data ups _ wf runs ready here - rfl free
  obtain ⟨map, hold, dram, tiers, counted⟩ := s.countHole_same off.toNat (.write data)
  have stands : Memory.wf (s.countHole off.toNat (.write data)) = true := counted.trans wf
  have home : ∀ k, (s.countHole off.toNat (.write data)).homePage k = s.homePage k := fun k => by
    simp only [State.homePage, tiers]
  have served : exec (.hostDramAccess off ⟨.write data, ups⟩) s =
      .next ((s.countHole off.toNat (.write data)).writePlaces (s.bar4Places off.toNat data.length) data) := by
    rw [execHostDramAccess_inService ups runs ready here, State.takeAccess_free ups, map]
    · rfl
    · rw [hold, map]
      exact free
  refine ⟨_, served, fun d other bare => ?_, fun a other => ?_, fun i d b once place byte inside bare => ?_⟩
  · have bare' := (home _).trans bare
    rw [State.dramByte_writePlaces_other stands other bare', State.dramByte_bare bare', State.dramByte_bare bare, dram]
  · rw [State.read_bytes_writePlaces stands fun d mem page at_ => other d mem page ((home _).symm.trans at_), tiers]
  · have full : (s.bar4Places off.toNat data.length).length ≤ data.length := by simp [State.bar4Places]
    exact State.dramByte_writePlaces_mem stands once full place byte inside ((home _).trans bare)

end Sys2Proof.Machine
end

section
/-! The statements of spec/09_asith_memory_transport.md: frames at a port, the connections and their timers, the ports and the
remote windows. -/

set_option Elab.async false

namespace Sys2Proof.Machine

variable {s t : State} {rx : Rx}

/-! ### Requests, and frames with a wrong tag -/

/-- Settles O23: the six requests are taken in alike, a write with its use. -/
theorem requestFramesArrive : Obligations.RequestFramesArrive := by
  unfold Obligations.RequestFramesArrive
  have arrives {op : Nat} (use : WriteUse) {s t : State} {rx : Rx} (here : s.reaches rx op = true) (tag : rx.tagOk = true)
      (work : t = s.rxWork rx.port.val) :
      (.next (s.atPort rx op fun s => s.takeRequest rx use) : Out) = .next (t.takeRequest rx use) :=
    port_row here tag (by rw [work])
  refine ⟨?_, ?_, ?_, ?_, ?_, ?_⟩
  · exact fun s rx t here tag work => arrives .data here tag work
  · exact fun s rx use t here tag work => arrives use here tag work
  · exact fun s rx t here tag work => arrives .data here tag work
  · exact fun s rx t here tag work => arrives .data here tag work
  · exact fun s rx t here tag work => arrives .data here tag work
  · exact fun s rx t here tag work => arrives .data here tag work

/-- Settles O24: every row of a frame takes it at its port, where a wrong tag ends it. -/
theorem wrongTagFramesAreDroppedAndCounted : Obligations.WrongTagFramesAreDroppedAndCounted := by
  unfold Obligations.WrongTagFramesAreDroppedAndCounted
  intro s rx tag
  have dropped {op : Nat} (f : State → State) (here : s.reaches rx op = true) :
      (.next (s.atPort rx op f) : Out) = .next (s.bump asfRxDrop_tagFail 0 1) :=
    congrArg _ (State.atPort_of_wrongTag here tag)
  refine ⟨fun use => dropped _, fun reserved here => ?_, dropped _, dropped _, dropped _, dropped _, dropped _, dropped _,
    dropped _, dropped _, dropped _, dropped _, dropped _, dropped _, dropped _, dropped _, dropped _, dropped _, dropped _⟩
  exact (congrArg Host.Outcome.next (if_pos reserved)).trans (dropped _ here)

/-! ### Responses -/

/-- A response of a live connection's peer is taken in by its connection, which then settles (R335, R344). -/
theorem peer_row {op c : Nat} {k : Conn} {u : State} {f : State → Nat → Conn → State} (here : s.reaches rx op = true)
    (tag : rx.tagOk = true) (port : t = s.rxWork rx.port.val) (dst : c = rx.frame.dstConn.toNat) (conn : t.conn c = some k)
    (own : k.isOf rx.frame = true) (work : f (t.alive c) c k = u) :
    (.next (s.fromPeer rx op f) : Out) = .next (((u.settleClose c).tellFailures).noteEpoch) := by
  subst port dst work
  exact port_row here tag (by simp only [conn, own, if_true])

/-- Settles O25: what each response does at its connection. -/
theorem responseFramesComplete : Obligations.ResponseFramesComplete := by
  unfold Obligations.ResponseFramesComplete
  refine ⟨?_, ?_, ?_, ?_, ?_, ?_⟩
  · rintro s rx t _ c k here tag port dst conn own rfl refused
    exact peer_row here tag port dst conn own (if_pos refused)
  · rintro s rx t _ c k here tag port dst conn own rfl granted
    exact peer_row here tag port dst conn own (if_neg (Bool.not_eq_true _ ▸ granted))
  · rintro s rx t _ c k here tag port dst conn own rfl
    exact peer_row here tag port dst conn own rfl
  · intro s rx t c k here tag port dst conn own
    exact peer_row here tag port dst conn own rfl
  · rintro s rx _ _ k here tag rfl rfl conn state own
    exact port_row here tag (by simp [conn, state, own])
  · rintro s rx _ _ k here tag rfl rfl conn state node
    exact port_row here tag (by simp [conn, state, node])

/-! ### Connections -/

/-- Settles O26: the epoch's class, the connection's state and its peer choose what a connection frame does. -/
theorem connectionFramesComplete : Obligations.ConnectionFramesComplete := by
  unfold Obligations.ConnectionFramesComplete
  refine ⟨?_, ?_, ?_, ?_, ?_, ?_⟩
  · rintro s rx _ here tag rfl current
    exact port_row here tag (by simp only [current])
  · rintro s rx _ here tag rfl previous
    exact port_row here tag (by simp only [previous])
  · rintro s rx _ _ _ k id here tag rfl rfl conn state node cmd rfl
    exact port_row here tag (by simp [conn, state, node, cmd])
  · rintro s rx _ _ _ k here tag rfl rfl conn own rfl
    exact port_row here tag (by simp only [conn, own, if_true])
  · rintro s rx _ _ k here tag rfl rfl conn own state cmd
    exact port_row here tag (by simp [conn, own, state, cmd])
  · rintro s rx _ reserved here tag rfl
    exact (congrArg Host.Outcome.next (if_pos reserved)).trans (port_row here tag rfl)

/-- Settles O27: each timer finds its connection and its own due time. -/
theorem connectionTimersComplete : Obligations.ConnectionTimersComplete := by
  unfold Obligations.ConnectionTimersComplete
  refine ⟨?_, ?_, ?_, ?_, ?_, ?_, ?_, ?_⟩
  · rintro s c k since _ live conn owed state due rfl
    exact live_row live (by simp [conn, owed, state, due])
  · intro s c k x xs live conn sent begun state retry rnr due
    exact live_row live (by simp [conn, sent, begun, state, retry, rnr, due])
  · intro s c k t live conn wait due
    exact live_row live (by simp [conn, wait, due])
  · intro s c k t live conn wait due
    exact live_row live (by simp [conn, wait, due])
  · intro s c ok live
    exact live_row live rfl
  · rintro s c k x _ live conn stalled page due rfl
    exact live_row live (by simp [conn, stalled, page, due])
  · intro s c k live conn waits state due
    exact live_row live (by simp [conn, waits, state, due])
  · intro s c k live conn waits state due
    exact live_row live (by simp [conn, waits, due])

/-! ### Ports and windows -/

/-- Settles O28: a free port of a joined device sends, and a change of its link is one that the device does not know yet. -/
theorem portRowsComplete : Obligations.PortRowsComplete := by
  unfold Obligations.PortRowsComplete
  refine ⟨?_, ?_, ?_, ?_, ?_⟩
  · intro s port live joined up free
    exact live_row live (if_pos (by rw [up]; simp [joined, free]))
  · intro s port live up
    exact live_row live (if_pos up)
  · rintro s port _ live down clocked rfl
    exact live_row live (if_neg (by rw [down, clocked]; decide))
  · intro s live previous drained
    exact live_row live (by simp [previous, drained])
  · intro s home live wanted
    exact live_row live (if_pos wanted)

/-- Settles O29: an enabled window issues its operation, and the register of ownership finds its region. -/
theorem windowRowsComplete : Obligations.WindowRowsComplete := by
  unfold Obligations.WindowRowsComplete
  refine ⟨?_, ?_, ?_, ?_, ?_, ?_⟩
  · rintro s fn w off data _ live rfl enabled some
    exact live_row live (by simp [State.windowWrite, enabled, some])
  · rintro s fn w off len _ live rfl enabled some
    exact live_row live (by simp [State.windowRead, enabled, some])
  · rintro s fn w off len _ live rfl disabled
    exact live_row live (by simp [State.windowRead, disabled, State.emit])
  · rintro s fn w off op _ o bytes len live rfl enabled atomic
    exact live_row live (by simp [State.windowAtomic, enabled, atomic])
  · rintro s fn w lane v _ live rfl enabled low
    exact live_row live (by simp [State.windowImm, enabled, low])
  · intro s fn v i r live free region
    exact live_row live (by simp [State.moveOwner, free, region])

end Sys2Proof.Machine
end

section
/-! The statements of spec/01 and spec/07 about a step: its boundary, its entries, its lockstep and the moves of sequences. -/

set_option Elab.async false

namespace Sys2Proof.Machine

variable {s : State}

/-- Settles O12: a boundary comes first, then the first table; the acknowledgements find their commit. -/
theorem boundaryRowsComplete : Obligations.BoundaryRowsComplete := by
  unfold Obligations.BoundaryRowsComplete
  refine ⟨?_, ?_, ?_, ?_, ?_, ?_⟩
  · exact fun s p due => due_row due
  · intro s p undue first
    exact congrArg Host.Outcome.next ((if_neg (by simp [undue])).trans (if_pos first))
  · intro s p live table due
    exact live_row live (if_pos (by simp [table, due]))
  · intro s p node step live waits
    exact live_row live (if_pos waits)
  · intro s p step live
    exact live_row live rfl
  · intro s p node c live found landed
    exact live_row live (by simp only [found, landed, Bool.false_eq_true, if_false])

/-- Settles O13: an entry that is due finds its domains awake or not, its pages here or not, its weights free or held. -/
theorem entryRowsComplete : Obligations.EntryRowsComplete := by
  unfold Obligations.EntryRowsComplete
  refine ⟨?_, ?_, ?_, ?_, ?_, ?_, ?_⟩
  · intro s p entry evicted declared e here due asleep
    exact congrArg Host.Outcome.next (by simp [here, due, asleep])
  · rintro s p entry evicted declared e _ here due awake rfl pages free
    exact congrArg Host.Outcome.next (by simp [here, due, awake, pages, free])
  · rintro s p entry evicted declared e _ here due awake rfl pages held
    exact congrArg Host.Outcome.next (by simp [here, due, awake, pages, held])
  · rintro s p entry evicted declared e _ key keys here due awake rfl missing
    exact congrArg Host.Outcome.next (by simp [here, due, awake, missing])
  · rintro s p entry work e since _ live here runs rfl within
    exact live_row live (by simp only [here, runs, Nat.not_lt.2 within, if_false])
  · rintro s p entry work e since _ live here runs rfl late
    exact live_row live (by simp only [here, runs, late, if_true, State.bump_now])
  · intro s p entry e since cause live here waits elapsed free
    exact live_row live (by simp [here, waits, elapsed, free])

/-- Settles O14: a member of a group, and what its point still lacks. -/
theorem lockstepRowsComplete : Obligations.LockstepRowsComplete := by
  unfold Obligations.LockstepRowsComplete
  refine ⟨?_, ?_, ?_, ?_, ?_⟩
  · intro s p point live member fresh done earlier
    exact live_row live (if_pos (by simp [member, fresh, done, earlier]))
  · intro s p src m live member group index other
    exact live_row live (if_pos (by simp [member, group, index, other]))
  · intro s p point t live member reached unpassed tick due
    exact live_row live (by simp only [member, reached, unpassed, tick, due]; rfl)
  · intro s p k m live member waits due found
    exact live_row live (by simp only [member, waits, found, Nat.not_lt.2 due, if_true, if_false])
  · intro s p k live member waits due
    exact live_row live (by simp only [member, waits, Nat.not_lt.2 due, if_true, if_false])

/-- Settles O15: the sequence that a move's row names, and the state of its move. -/
theorem moveRowsComplete : Obligations.MoveRowsComplete := by
  unfold Obligations.MoveRowsComplete
  refine ⟨?_, ?_, ?_, ?_, ?_, ?_, ?_⟩
  · intro s node handle h q m live arrives held
    exact live_row live (by simp only [arrives, held, if_true])
  · intro s handle new flip q m live leaves plain
    exact live_row live (by simp only [leaves, plain, Bool.false_eq_true, if_false])
  · intro s node handle live
    exact live_row live rfl
  · intro s handle q m live leaves unasked plain
    exact live_row live (by simp only [leaves, unasked, plain, Bool.false_eq_true, if_false])
  · intro s handle q m live leaves unasked recast
    exact live_row live (by simp only [leaves, unasked, recast, Bool.false_eq_true, if_false, if_true])
  · intro s handle q m live leaves asked
    exact live_row live (by simp only [leaves, asked, if_true])
  · intro s handle new q m live promoted move leaving undue
    exact live_row live (by simp only [promoted, move, leaving, undue]; rfl)

end Sys2Proof.Machine
end

section
/-! The statements of spec/05 about the tiles, and of spec/08 about the tiers and the flash. -/

set_option Elab.async false

namespace Sys2Proof.Machine

variable {s : State}

/-! ### Tiles -/

/-- Settles O19: the tile's own conditions, and what the reads, the replay and the test answer. -/
theorem tileRowsComplete : Obligations.TileRowsComplete := by
  unfold Obligations.TileRowsComplete
  refine ⟨?_, ?_, ?_, ?_, ?_, ?_, ?_, ?_, ?_⟩
  · intro s p tile half panel live own sound still fits readable free clean good
    exact live_row live (by simp only [own, sound, still, Nat.not_lt.2 fits, readable, free, clean, good, decide_false,
      Bool.not_true, Bool.or_false, Bool.false_eq_true, if_false, List.foldl_nil])
  · intro s p tile acc temp live works
    exact live_row live (by simp [works])
  · rintro s p tile acc temp _ live works rfl once
    exact live_row live (by simp [works, once])
  · rintro s p tile acc temp e _ live works kernel rfl again
    exact live_row live (by simp [works, kernel, again])
  · rintro s p sample i e input result r _ _ live due entry sampled rfl free rfl
    exact live_row live (by simp [due, entry, sampled, free])
  · intro s replay third temp x slot r r3 live sample recent slotOpen free same
    exact live_row live (by simp [sample, Nat.not_lt.2 recent, slotOpen, State.replay, State.endSample, free, same])
  · intro s replay third temp x slot r r3 live sample recent slotOpen free differs
    exact live_row live (by simp [sample, Nat.not_lt.2 recent, slotOpen, State.replay, State.endSample, free, differs])
  · intro s t pattern ok temp x live slot may
    exact live_row live (by simp only [slot, may, if_true])
  · intro s c u pattern ok temp live sound slot wanted
    have asked : (s.flag prmSelftest_enable 0 && decide (s.fld prmSelftest_patterns 0 / 2 ^ pattern.val % 2 = 1) ||
        s.gen.testUnits.contains (c.val, u.val)) = true := by
      simpa only [Bool.or_eq_true, Bool.and_eq_true, decide_eq_true_eq] using wanted
    exact live_row live (if_neg (by rw [sound, slot, asked]; decide))

/-! ### Tiers -/

/-- Settles O20: the device's state, the frame that the hand visits and the ages' period. -/
theorem tierRowsComplete : Obligations.TierRowsComplete := by
  unfold Obligations.TierRowsComplete
  refine ⟨?_, ?_, ?_, ?_, ?_, ?_⟩
  · intro s job live awake
    exact due_row (by simp [live, awake])
  · intro s p page live
    exact live_row live rfl
  · rintro s k key _ live next rfl victim free
    exact live_row live (by simp [next, victim, free])
  · rintro s k key _ live next rfl spared
    exact live_row live (by simp [next, spared])
  · intro s live due
    exact due_row (by simp [live, due])
  · intro s fn i lane v kept
    exact kept_row kept rfl

/-! ### Flash -/

/-- Settles O21: what a read, a program, a commit or an erase finds when it ends, with the flash domain's work around it. -/
theorem flashTransferRowsComplete : Obligations.FlashTransferRowsComplete := by
  unfold Obligations.FlashTransferRowsComplete
  refine ⟨?_, ?_, ?_, ?_, ?_, ?_, ?_, ?_⟩
  · intro s granule levels key live reading good
    exact live_row live (by simp only [reading, good]; rfl)
  · intro s granule levels key live reading failed
    exact live_row live (by simp only [reading, failed, if_true])
  · rintro s granule m f _ live move rfl awake placed
    exact live_row live (by simp [move, State.flashWork, awake, placed])
  · intro s granule m live move
    exact live_row live (by simp [move])
  · intro s code writes unrefused due
    exact due_row (by simp [writes, unrefused, due])
  · intro s code t writes refused due
    exact congrArg Host.Outcome.next (by simp [writes, refused, due])
  · intro s block live erasing suspended
    exact live_row live (by simp [erasing, suspended])
  · intro s block live erasing running
    exact live_row live (by simp [erasing, running])

/-- Settles O22: each row's own mark, and a flash layer that writes. -/
theorem flashUpkeepRowsComplete : Obligations.FlashUpkeepRowsComplete := by
  unfold Obligations.FlashUpkeepRowsComplete
  refine ⟨?_, ?_, ?_, ?_, ?_, ?_⟩
  · intro s b writes low short first
    exact congrArg Host.Outcome.next (by simp [writes, low, Nat.not_le.2 short, first])
  · intro s writes collecting enough
    exact congrArg Host.Outcome.next (by simp [writes, collecting, enough])
  · intro s b writes victim
    exact congrArg Host.Outcome.next (by simp [writes, victim])
  · intro s block writes settled wanted
    exact due_row (by simp [writes, settled, wanted])
  · intro s block weak bits live service sound used due
    exact due_row (by rw [used]; simp [live, service, sound, due])
  · rintro s block failed _ live service there sound worn rfl
    exact due_row (by simp [live, service, there, sound, worn])

end Sys2Proof.Machine
end

section
/-! The statements of spec/10 and spec/11: the time base, the gates and buckets, the beats of the group, its decisions, and
errors. -/

set_option Elab.async false

namespace Sys2Proof.Machine

variable {s : State}

/-! ### The time base -/

/-- Settles O31: the phase source, the port and the ticks of the last edge choose the branch of each row. -/
theorem timeRowsComplete : Obligations.TimeRowsComplete := by
  unfold Obligations.TimeRowsComplete
  refine ⟨?_, ?_, ?_, ?_, ?_, ?_, ?_, ?_, ?_, ?_, ?_, ?_, ?_, ?_, ?_, ?_, ?_⟩
  · rintro s copies _ live rfl
    exact live_row live rfl
  · intro s live ended asks
    exact live_row live (by simp [ended, asks])
  · intro s live ended asks ptp
    exact live_row live (by simp [ended, asks, ptp])
  · intro s node port t1 live joined up
    exact live_row live (if_neg (by rw [up]; simp [joined]))
  · intro s port t1 t2 t3 q live group asked
    exact live_row live (by simp [asked, group])
  · intro s live reference locked
    exact live_row live (if_pos (by simp [reference, locked]))
  · intro s live lost
    exact live_row live (if_pos lost)
  · intro s port clock domain priority live ptp here own
    exact live_row live (by simp [ptp, here, own])
  · intro s port clock domain t1 t2 t3 t4 x live ptp here own best same
    exact live_row live (by simp [ptp, here, own, best, same])
  · rintro s _ _ live rfl apart rfl other
    exact live_row live (by simp only [apart, other, Bool.false_eq_true, if_false])
  · rintro s _ _ live rfl apart rfl pps
    exact live_row live (by simp only [apart, pps, Bool.false_eq_true, if_false, if_true])
  · rintro s _ live rfl soon
    exact live_row live (if_pos soon)
  · rintro s _ live due rfl
    exact live_row live (if_pos due)
  · intro s live low enabled due
    exact live_row live (by simp only [low, enabled, due]; rfl)
  · intro s t live high due
    exact live_row live (by simp [high, due])
  · intro s fn lane v w kept triggered step may
    exact kept_row kept (by simp only [triggered, step, may]; rfl)
  · intro s fn lane v w kept triggered barred
    have refused : ¬ (s.overStep v.toInt && s.mayStep) = true := by
      rcases barred with small | held
      · simp [small]
      · simp [held]
    exact kept_row kept (by simp only [triggered, if_neg refused])

/-! ### Gates, buckets and samples -/

/-- Settles O32: what the write of the gate's control arms or cancels, and the ticks of the lists and samples. -/
theorem shapingRowsComplete : Obligations.ShapingRowsComplete := by
  unfold Obligations.ShapingRowsComplete
  refine ⟨?_, ?_, ?_, ?_, ?_, ?_, ?_, ?_⟩
  · intro s port g t live list ends due
    exact live_row live (by simp only [list, ends, due, if_true])
  · rintro s fn port lane v _ kept rfl arm cancel ok
    exact kept_row kept (by simp [State.writeGateCtrl, State.armGate, arm, cancel, ok])
  · rintro s fn port lane v _ kept rfl arm cancel refused
    exact kept_row kept (by simp [State.writeGateCtrl, State.armGate, arm, cancel, refused])
  · intro s fn port lane v kept arm cancel
    exact kept_row kept (by simp [State.writeGateCtrl, arm, cancel])
  · rintro s port t _ live due rfl
    exact live_row live (by simp only [due])
  · rintro s _ live due rfl
    exact live_row live (if_pos due)
  · intro s fn b lane v kept
    exact kept_row kept rfl
  · rintro s _ live enabled due fresh rfl
    exact live_row live (if_pos (by simp [enabled, due, fresh]))

/-! ### Beats -/

/-- A group message with a good tag and a well-formed body is taken in (R386 to R389). -/
theorem group_row {rx : Rx} {op : Nat} {ok : Frame → Bool} {f : Frame → State → State} {t u : State}
    (here : s.reaches rx op = true) (tag : rx.tagOk = true) (port : t = s.rxWork rx.port.val)
    (length : rx.frame.payload.length = 32) (body : ok rx.frame = true) (work : f rx.frame t = u) :
    (.next (s.groupAt rx op ok f) : Out) = .next u := by
  subst port work
  exact port_row here tag (if_pos (by simp [length, body]))

/-- Settles O33: the beat's period, the body's form, and what the watch of a node says. -/
theorem heartbeatRowsComplete : Obligations.HeartbeatRowsComplete := by
  unfold Obligations.HeartbeatRowsComplete
  refine ⟨?_, ?_, ?_, ?_, ?_, ?_⟩
  · rintro s _ live enabled due rfl
    exact live_row live (if_pos (by simp [enabled, due]))
  · intro s rx t here tag port length state zero
    exact group_row here tag port length (by simp [state, zero]) rfl
  · intro s node live watched late
    exact live_row live (if_pos (by simp [watched, late]))
  · intro s node live enabled manages long
    exact live_row live (if_pos (by simp [enabled, manages, long]))
  · intro s rx t here tag port length ask zero own
    exact group_row here tag port length (by simp [ask, zero]) (by simp [State.probed, ask, own])
  · intro s rx t here tag port length answer zero
    exact group_row here tag port length (by simp [answer, zero]) (by simp [State.probed, answer])

/-! ### Decisions -/

/-- Settles O34: a decision's nodes that lack it, the deputy's view of its manager, and what a copy's end leaves. -/
theorem decisionRowsComplete : Obligations.DecisionRowsComplete := by
  unfold Obligations.DecisionRowsComplete
  refine ⟨?_, ?_, ?_, ?_, ?_, ?_, ?_, ?_, ?_, ?_⟩
  · intro s rx t here tag port length kind zero
    exact group_row here tag port length (by simp [kind, zero]) rfl
  · rintro s _ live manages rfl
    exact live_row live (by simp [manages])
  · intro s d none
    simp [State.resendDecision, none]
  · rintro s _ d some rfl
    simp [State.resendDecision, some]
  · intro s i live deputy enabled below node lower late
    exact live_row live (by simp [deputy, enabled, below, node, lower, late])
  · intro s i live deputy enabled below node lower heard long
    exact live_row live (by simp [deputy, enabled, below, node, lower, heard, long])
  · intro s rx t here tag port length zero
    exact group_row here tag port length (by simp [zero]) rfl
  · intro s live wanting due
    exact live_row live (if_pos (by simp [wanting, due]))
  · intro s handle q live seq wanted landed
    exact live_row live (by simp only [seq, wanted, landed]; rfl)
  · intro s handle q live seq wanted
    exact live_row live (by simp [seq, wanted])

/-! ### Errors -/

/-- Settles O35: a report's unit, a merging record's window and the partitions of a core. -/
theorem errorRowsComplete : Obligations.ErrorRowsComplete := by
  unfold Obligations.ErrorRowsComplete
  refine ⟨?_, ?_, ?_, ?_, ?_, ?_⟩
  · intro s e takes low high
    exact execErrorRaised_takes takes low high
  · intro s u code location m found due counted
    exact congrArg Host.Outcome.next (by simp only [found, due, counted, if_true])
  · intro s due
    exact congrArg Host.Outcome.next (by simp [State.rollWindow, due])
  · intro s fn lane v kept
    exact kept_row kept rfl
  · intro s core p live one
    exact live_row live (by simp only [one])
  · intro s core live none
    exact live_row live (by simp only [none])

end Sys2Proof.Machine
end

section
/-! The statements of spec/12_power_clocks_and_capping.md: sleep, voltage, capping and the rack. -/

set_option Elab.async false

namespace Sys2Proof.Machine

variable {s : State}

/-! ### Sleep -/

/-- Settles O36: each row's state of the device or of the domain, and its source or refuser. -/
theorem sleepRowsComplete : Obligations.SleepRowsComplete := by
  unfold Obligations.SleepRowsComplete
  refine ⟨?_, ?_, ?_, ?_, ?_, ?_, ?_, ?_, ?_⟩
  · intro s d live awake
    exact due_row (by simp [live, awake])
  · intro s d source live low high asleep idle
    exact live_row live (by simp [low, high, State.beginWake, asleep, idle, State.countWake])
  · intro s d live needed
    exact live_row live (if_pos needed)
  · intro s d ok w live waking due locked
    exact live_row live (by simp [waking, due, locked])
  · intro s live awake enabled idle free unrefused
    exact live_row live (by simp [awake, enabled, Nat.not_lt.2 idle, free, unrefused])
  · intro s source live c3 low high
    exact live_row live (if_pos (by simp [c3, low, high]))
  · intro s live c3 enabled idle unrefused
    exact live_row live (by simp [c3, enabled, Nat.not_lt.2 idle, unrefused])
  · intro s source ready c5 powered low high
    exact congrArg Host.Outcome.next (by simp [ready, c5, powered, low, high])
  · intro s source ready c5 powered low high
    exact congrArg Host.Outcome.next (by simp [ready, c5, powered, low, high])

/-! ### Voltage -/

/-- Settles O37: whether a raise is under way, and its counts of busy and damaged answers. -/
theorem voltageRowsComplete : Obligations.VoltageRowsComplete := by
  unfold Obligations.VoltageRowsComplete
  refine ⟨?_, ?_, ?_, ?_, ?_, ?_, ?_, ?_⟩
  · rintro s point _ live awake none below top free rfl
    exact live_row live (by simp [awake, none, below, top, free])
  · rintro s core sram mem r _ _ live raise rfl rfl done
    exact live_row live (by simp only [raise, done]; rfl)
  · rintro s core sram mem r _ _ live raise rfl rfl left
    exact live_row live (by simp only [raise]; exact if_neg (by simpa using left))
  · intro s r live raise due
    exact live_row live (by simp [raise, due])
  · intro s r live raise few
    exact live_row live (by simp [raise, few])
  · intro s r live raise many
    exact live_row live (by simp [raise, Nat.not_lt.2 many])
  · intro s r live raise few
    exact live_row live (by simp [raise, few])
  · intro s r live raise
    exact live_row live (by simp [raise])

/-! ### Capping -/

/-- Settles O38: the window's period, the droops counted, and the hot sensors beside a domain. -/
theorem cappingRowsComplete : Obligations.CappingRowsComplete := by
  unfold Obligations.CappingRowsComplete
  refine ⟨?_, ?_, ?_, ?_, ?_, ?_, ?_⟩
  · intro s sample live due
    exact live_row live (if_pos (by simpa using due))
  · rintro s d _ live domain rfl few
    exact live_row live (by simp [domain, few])
  · intro s d live domain count
    exact live_row live (by simp [domain, count])
  · intro s t live hold due
    exact live_row live (by simp only [hold, due, if_true])
  · intro s logic dram live
    exact live_row live rfl
  · rintro s d _ live domain rfl late point
    have near : (decide (d.val < 25) || decide (d.val = 100)) = true := by simpa using domain
    exact live_row live (by simp [near, late, point])
  · rintro s d _ live domain cool rfl some late
    have near : (decide (d.val < 25) || decide (d.val = 100)) = true := by simpa using domain
    exact live_row live (by simp [near, cool, some, late])

/-! ### The rack -/

/-- The member's own demand, where it is of the period that runs (R436). -/
def State.ownDemand (s : State) : List (Nat × Nat × Nat × Nat × Nat) :=
  match mget s.pwr.demands s.ownNode with
  | some d => if d.2.2.2 = s.pwr.period && 0 < s.pwr.period then [(s.ownNode, d)] else []
  | none => []

/-- The own demand is the one kept, where it is of the period that runs. -/
theorem State.ownDemand_eq (s : State) :
    ((mget s.pwr.demands s.ownNode).toList.filter fun d => d.2.2.2 = s.pwr.period && 0 < s.pwr.period).map
      (fun d => (s.ownNode, d)) = s.ownDemand := by
  unfold State.ownDemand
  cases mget s.pwr.demands s.ownNode with
  | none => rfl
  | some d =>
    simp only [Option.toList_some, List.filter_cons, List.filter_nil]
    split <;> rfl

/-- Settles O39: a member's period and its manager, and the budget that the manager shares. -/
theorem rackRowsComplete : Obligations.RackRowsComplete := by
  unfold Obligations.RackRowsComplete
  have ended {n a b : Nat} (due : n = 0 ∨ a ≤ b) : ¬ (decide (n ≠ 0) && decide (b < a)) = true := by
    simp only [Bool.and_eq_true, decide_eq_true_eq, not_and, Nat.not_lt]
    exact due.resolve_left
  refine ⟨?_, ?_, ?_, ?_, ?_⟩
  · rintro s _ _ _ _ _ live manager due rfl rfl rfl rfl rfl
    exact live_row live (by simp only [manager]; exact (if_neg (ended due)).trans (if_pos rfl))
  · rintro s m _ _ _ _ live manager due rfl rfl rfl other rfl
    exact live_row live (by simp only [manager]; exact (if_neg (ended due)).trans (if_neg other))
  · rintro s _ _ _ _ live manages budget due rfl rfl rfl rfl some
    refine ⟨_, live_row live ?_, rfl⟩
    rw [if_neg (by simpa [manages, budget] using ended due)]
    rw [State.ownDemand_eq] at some ⊢
    exact if_neg (mt List.isEmpty_iff.1 some)
  · intro s r live own
    exact live_row live (if_pos own)
  · intro s m live manager served shared late
    exact live_row live (by simp [manager, served, shared, Nat.not_lt.2 late])

end Sys2Proof.Machine
end

section
/-! The statements of spec/13 and spec/15: register writes, trace and debug, the global stop, images and tokens, and the SPDM
mailbox. -/

set_option Elab.async false

namespace Sys2Proof.Machine

variable {s t : State} {f : State → State}

/-! ### Register writes -/

/-- Settles O40: BAR0 keeps each write, and the lane, the offset and the written value choose what it changes. -/
theorem registerWriteRowsComplete : Obligations.RegisterWriteRowsComplete := by
  unfold Obligations.RegisterWriteRowsComplete
  refine ⟨?_, ?_, ?_, ?_, ?_, ?_, ?_⟩
  · intro s fn lane v w kept triggered
    exact kept_row kept (by simp only [State.writeXts, triggered])
  · rintro s fn t lane v _ kept rfl unused
    exact kept_row kept (if_neg (by simp [unused]))
  · intro s fn t lane v kept used differs
    exact kept_row kept (if_pos (by simp [used, differs]))
  · rintro s fn p lane v _ kept rfl fits
    exact kept_row kept (if_neg (Nat.not_lt.2 fits))
  · rintro s fn p lane v _ kept rfl exceeds
    exact kept_row kept (if_pos exceeds)
  · intro s fn off size v l r i aligned outside found seen other kept
    have plain : (decide (0x8000 ≤ off.toNat) && decide (off.toNat < 0x10000)) = false := by
      rcases outside with below | above
      · simp [Nat.not_le.2 below]
      · simp [Nat.not_lt.2 above]
    refine congrArg Host.Outcome.next ?_
    simp only [aligned, plain, found, seen, other, Bool.false_eq_true, if_false, Bool.not_true, decide_false, Bool.false_and]
    exact State.whenKept_of_keeps kept _
  · intro s fn off size v odd runs
    exact congrArg Host.Outcome.next (by simp only [odd, runs, if_true, State.badAccess])

/-! ### Trace and debug -/

/-- Settles O41: a command of debug acts where the device may debug, and a record is taken while the device is live. -/
theorem debugRowsComplete : Obligations.DebugRowsComplete := by
  unfold Obligations.DebugRowsComplete
  refine ⟨?_, ?_, ?_, ?_, ?_, ?_, ?_, ?_⟩
  · intro s c d e takes allowed
    exact accepted_row takes (by simp [effTraceConfig, allowed])
  · intro s c d e takes armed
    exact accepted_row takes (if_pos armed)
  · intro s c d e takes may alone undrained
    exact accepted_row takes (by simp [effDebugHalt, may, alone, undrained])
  · rintro s c d e _ takes may rfl
    exact accepted_row takes (by simp [effDebugMemRead, may])
  · intro s core live
    exact live_row live rfl
  · intro s live
    exact live_row live rfl
  · intro s r live
    exact live_row live rfl
  · intro s fn p lane v kept pulled may
    exact kept_row kept (if_pos (by simp [pulled, may]))

/-! ### The global stop -/

/-- Settles O42: each row's own gate is the register's trigger, the JTAG's right, the stop itself or the boundary register. -/
theorem stopRowsComplete : Obligations.StopRowsComplete := by
  unfold Obligations.StopRowsComplete
  refine ⟨?_, ?_, ?_, ?_, ?_, ?_, ?_⟩
  · intro s fn lane v running kept pulled
    refine congrArg Host.Outcome.next ?_
    rw [if_neg (by simp [running]), State.whenKept_of_keeps kept]
    exact if_pos pulled
  · intro s fn lane v stopped
    exact due_row stopped
  · intro s jtag may
    exact due_row (by simp [jtag, may])
  · intro s chains stopped
    exact due_row (by simp [stopped])
  · intro s chains stopped jtag
    exact due_row (by simp [stopped, jtag])
  · intro s free powered may
    refine congrArg Host.Outcome.next ?_
    rw [if_neg (by simp [free, powered])]
    exact if_pos may
  · intro s taken clocked powered
    exact congrArg Host.Outcome.next (by simp [taken, clocked, powered])

/-! ### Images, tokens and the lifecycle -/

/-- Settles O43: an image and a token are split by whether they verify, and the lifecycle moves by its target and origin. -/
theorem securityRowsComplete : Obligations.SecurityRowsComplete := by
  unfold Obligations.SecurityRowsComplete
  refine ⟨?_, ?_, ?_, ?_, ?_, ?_, ?_⟩
  · rintro s c image code d e _ takes rfl flash bare power
    have stored : e.sec.bootFlash.isNone = false := by rw [← Option.not_isSome, flash]; rfl
    refine accepted_row takes ?_
    by_cases good : e.sec.imageResult (image.take (d.par 24 4)) false = 0
    · simp [effFwImage, good, stored, bare, power]
    · simp [effFwImage, good]
  · rintro s c token d e _ takes field unlocked rfl
    refine accepted_row takes ?_
    by_cases good : e.tokenOk token = true
    · simp [effDebugToken, field, unlocked, good]
    · simp [effDebugToken, field, unlocked, good]
  · intro s c d e takes target origin
    exact accepted_row takes (by simp only [effLifecycleSet, target, origin])
  · intro s c d e takes target origin
    exact accepted_row takes (by simp only [effLifecycleSet, target, origin])
  · intro s c d e takes target origin
    exact accepted_row takes (by simp only [effLifecycleSet, target, origin])
  · intro s c d e takes target origin
    exact accepted_row takes (by simp only [effLifecycleSet, target, origin])
  · rintro s fn lane v _ kept pulled rfl stage ready length
    exact kept_row kept (if_pos (by simp [pulled, stage, ready, length]))

/-! ### The SPDM mailbox -/

/-- A request that the hub takes is answered by its work (R465). -/
theorem mailbox_row (runs : s.hubRuns = true) (work : f s = t) : (.next (s.mailbox f) : Out) = .next t :=
  congrArg _ ((if_pos runs).trans work)

/-- Before RETIRED, a request of a phase that the negotiation has reached is answered by its work (R465). -/
theorem negotiated_row {phase : Nat} (runs : s.hubRuns = true) (inUse : s.lifecycle ≠ 4) (reached : phase ≤ s.sec.spdm.phase)
    (work : f s = t) : (.next (s.afterNegotiate phase f) : Out) = .next t :=
  mailbox_row runs (((if_neg inUse).trans (if_neg (Nat.not_lt.2 reached))).trans work)

/-- An index of at most 5, or that of all, names measurements that the device holds. -/
theorem measurement_listed {index : BitVec 8} (known : index.toNat ≤ 5 ∨ index = 0xFF) :
    ¬ (decide (5 < index.toNat) && decide (index ≠ 0xFF)) = true := by
  rcases known with low | all
  · simp [Nat.not_lt.2 low]
  · simp [all]

/-- Settles O44: the hub takes each request, and its phase lies within what the negotiation has reached. -/
theorem spdmNegotiationComplete : Obligations.SpdmNegotiationComplete := by
  unfold Obligations.SpdmNegotiationComplete
  refine ⟨?_, ?_, ?_, ?_, ?_, ?_, ?_, ?_⟩
  · intro s runs
    exact mailbox_row runs rfl
  · intro s runs begun
    exact mailbox_row runs (if_neg (Nat.not_lt.2 begun))
  · intro s offer runs begun rsa sha secp aes
    exact mailbox_row runs ((if_neg (Nat.not_lt.2 begun)).trans (if_pos (by simp [rsa, sha, secp, aes])))
  · intro s c runs inUse reached chain
    exact negotiated_row runs inUse reached (by simp only [chain])
  · rintro s slot off len c _ runs inUse reached chain rfl rfl
    refine negotiated_row runs inUse reached ?_
    by_cases inside : off.toNat < c.length
    · simp [chain, inside]
    · simp [chain, inside]
  · intro s nonce c runs inUse reached identity chain
    exact negotiated_row runs inUse reached (by simp only [State.withAlias, identity, chain, if_true])
  · intro s index runs inUse reached known
    exact negotiated_row runs inUse reached ((if_neg (measurement_listed known)).trans (if_neg Bool.false_ne_true))
  · intro s index runs inUse reached known identity
    exact negotiated_row runs inUse reached
      ((if_neg (measurement_listed known)).trans ((if_pos rfl).trans (if_pos identity)))

/-- Settles O45: the session's phase admits each request, and a chunk that is not the last leaves the large answer kept. -/
theorem spdmSessionComplete : Obligations.SpdmSessionComplete := by
  unfold Obligations.SpdmSessionComplete
  refine ⟨?_, ?_, ?_, ?_, ?_, ?_, ?_, ?_, ?_, ?_, ?_, ?_⟩
  · intro s key runs inUse reached identity
    exact negotiated_row runs inUse reached (if_pos identity)
  · intro s runs inUse phase
    exact negotiated_row runs inUse phase.ge (by simp [phase])
  · intro s runs inUse phase
    exact negotiated_row runs inUse phase.ge (by simp [phase])
  · intro s runs inUse reached
    exact negotiated_row runs inUse reached rfl
  · intro s op runs inUse reached low high
    exact negotiated_row runs inUse reached (if_pos (by simp [low, high]))
  · intro s runs inUse reached
    exact negotiated_row runs inUse reached rfl
  · rintro s chunk _ runs inUse reached rfl more
    have begins : ¬ s.sec.spdm.large.length ≤ chunk.toNat * max 1 Config.spdmTransfer :=
      Nat.not_le.2 (Nat.lt_of_le_of_lt (Nat.mul_le_mul_right _ (Nat.le_succ _)) more)
    exact negotiated_row runs inUse reached ((if_neg begins).trans (if_neg (Nat.not_le.2 more)))
  · intro s node gen key runs inUse phase
    exact mailbox_row runs (by simp [inUse, phase])
  · intro s op node gen key runs inUse
    exact mailbox_row runs (by simp [inUse])
  · intro s stream runs inUse phase
    exact mailbox_row runs (by simp [inUse, phase])
  · intro s stream runs inUse phase begun
    exact mailbox_row runs (by simp [inUse, phase, begun])
  · intro s code runs
    exact mailbox_row runs rfl

end Sys2Proof.Machine
end

section
/-! The statements of spec/14: the start-up sequence, the references and the PCIe link, the input pins, and the SMBus. -/

set_option Elab.async false

namespace Sys2Proof.Machine

variable {s t : State} {f : State → State}

/-! ### Start-up -/

/-- Settles O46: the stage of the start-up sequence, and what holds it, gate each row. -/
theorem startupRowsComplete : Obligations.StartupRowsComplete := by
  unfold Obligations.StartupRowsComplete
  refine ⟨?_, ?_, ?_, ?_, ?_, ?_, ?_, ?_, ?_, ?_, ?_, ?_, ?_⟩
  · intro s inp off
    exact due_row (by simpa using off)
  · intro s powered stage c6 stayOff due
    exact due_row (by simp [powered, stage, c6, stayOff, due])
  · intro s stage more
    exact due_row (by simp [stage, more])
  · rintro s _ stage rfl
    exact due_row stage
  · intro s stage all
    exact due_row (by simp [stage, all])
  · intro s low high running
    exact due_row (by simp [low, high, running])
  · intro s answers image stage running out
    exact due_row (by simp [stage, running, out])
  · intro s stage running
    exact due_row (by simp [stage, running])
  · intro s stage running
    exact congrArg Host.Outcome.next ((if_pos (by simp [stage, running])).trans (if_neg Bool.false_ne_true))
  · intro s inp stage running
    exact due_row (by simp [stage, running])
  · intro s targets live waiting
    exact live_row live (if_neg (by simp [waiting]))
  · intro s powered
    exact congrArg Host.Outcome.next (if_neg (by simp [powered]))
  · intro s powered
    exact congrArg Host.Outcome.next (if_neg (by simp [powered]))

/-! ### References and PCIe -/

/-- Settles O47: each row acts where its reference or its link is in the state that the row changes. -/
theorem referenceAndPcieRowsComplete : Obligations.ReferenceAndPcieRowsComplete := by
  unfold Obligations.ReferenceAndPcieRowsComplete
  refine ⟨?_, ?_, ?_, ?_, ?_, ?_, ?_⟩
  · intro s powered present
    exact due_row (by simp [powered, present])
  · intro s stage
    exact due_row (by simp [stage])
  · rintro s refB _ runs rfl
    exact due_row runs
  · intro s up awake
    exact due_row (by simp [up, awake])
  · rintro s _ up rfl runs
    exact congrArg Host.Outcome.next ((if_pos up).trans (if_pos runs))
  · intro s runs released down
    exact due_row (by simp [runs, released, down])
  · intro s p runs
    exact due_row runs

/-! ### The input pins -/

/-- Settles O48: a change of level is an event or merged into the last one (R503), and a due window or limit ends (R504). -/
theorem pinRowsComplete : Obligations.PinRowsComplete := by
  unfold Obligations.PinRowsComplete
  refine ⟨?_, ?_, ?_, ?_, ?_, ?_, ?_, ?_, ?_, ?_, ?_, ?_⟩
  · intro s i a act same
    exact if_pos same
  · intro s i a act changes merges
    exact (if_neg changes).trans (if_pos merges)
  · intro s i a act changes apart
    exact (if_neg changes).trans (if_neg (Bool.not_eq_true _ ▸ apart))
  · exact fun _ _ => rfl
  · exact fun _ _ => rfl
  · exact fun _ _ => rfl
  · exact fun _ _ => rfl
  · exact fun _ _ => rfl
  · exact fun _ _ => rfl
  · exact fun _ _ => rfl
  · intro s i t differs last ended
    have merged : (s.input i.val).lastEvent.any (fun t => decide (t + mergeTicks ≤ s.now)) = true := by
      rw [last, Option.any_some]
      exact decide_eq_true ended
    exact congrArg Host.Outcome.next (if_pos (by rw [merged, decide_eq_true differs]; rfl))
  · intro s i n limit asserted unstuck due
    exact congrArg Host.Outcome.next (by simp [limit, asserted, unstuck, due])

/-! ### The SMBus -/

/-- A powered device answers an SMBus transaction as its work does. -/
theorem smbus_row (powered : s.pln.powered = true) (work : f s = t) : (.next (s.smbusTo f) : Out) = .next t :=
  congrArg _ ((if_pos powered).trans work)

/-- A write with a good PEC and a value in its range has its effect. -/
theorem smbusWrite_row {ok : Bool} (powered : s.pln.powered = true) (good : ok = true) (work : f s = t) :
    (.next (s.smbusWrite ok f) : Out) = .next t :=
  smbus_row powered ((if_pos good).trans work)

/-- A write with a bad PEC or a value outside its range is answered with NACK alone. -/
theorem smbusNack_row {ok : Bool} (powered : s.pln.powered = true) (bad : ok = false) :
    (.next (s.smbusWrite ok f) : Out) = .next { s with out := .nack :: s.out } :=
  smbus_row powered (if_neg (by simp [bad]))

/-- Settles O49: the device is powered, and an alert or an unread record chooses what is answered. -/
theorem smbusReadsAnswer : Obligations.SmbusReadsAnswer := by
  unfold Obligations.SmbusReadsAnswer
  refine ⟨?_, ?_, ?_, ?_, ?_, ?_, ?_⟩
  · intro s powered quiet
    exact smbus_row powered (if_neg (Bool.not_eq_true _ ▸ quiet))
  · intro s powered alert
    exact smbus_row powered (if_pos alert)
  · exact fun s powered => smbus_row powered rfl
  · exact fun s powered => smbus_row powered rfl
  · exact fun s powered => smbus_row powered rfl
  · intro s id rest j powered unread held
    exact smbus_row powered (by simp only [unread, held]; rfl)
  · intro s powered alert
    exact smbus_row powered (if_pos alert)

/-- Settles O50: the PEC and the range of R513 and R514 decide between a write's effect and NACK. -/
theorem smbusWritesAct : Obligations.SmbusWritesAct := by
  unfold Obligations.SmbusWritesAct
  refine ⟨?_, ?_, ?_, ?_, ?_, ?_, ?_, ?_, ?_, ?_, ?_, ?_, ?_, ?_, ?_, ?_, ?_⟩
  · intro s v powered range
    exact smbusWrite_row powered (by simpa using range) rfl
  · intro s v powered fits
    exact smbusWrite_row powered fits rfl
  · exact fun s powered => smbusWrite_row powered rfl rfl
  · exact fun s powered => smbusWrite_row powered rfl rfl
  · rintro s _ powered off untested rfl
    exact smbusWrite_row powered rfl (if_neg (by simp [off, untested]))
  · intro s powered on
    exact smbusWrite_row powered rfl (if_pos (by simp [on]))
  · intro s powered on
    exact smbusWrite_row powered rfl (if_neg (by simp [on]))
  · intro s powered off
    exact smbusWrite_row powered rfl (if_pos off)
  · rintro s _ powered rfl begun
    exact smbusWrite_row powered rfl ((if_neg (by simpa using begun)).trans (if_neg (by simp)))
  · rintro s _ powered rfl waits
    exact smbusWrite_row powered rfl (if_pos (by simpa using waits))
  · rintro s _ powered rfl
    refine smbusWrite_row powered rfl ((if_neg (by simp)).trans ?_)
    simp
  · intro s v powered low high
    exact smbusWrite_row powered (by simp [low, high]) rfl
  · intro s v ok powered bad
    refine smbusNack_row powered ?_
    rcases bad with pec | ⟨given, range⟩
    · simp [pec]
    · have outside : ¬ (100 ≤ v.toNat ∧ v.toNat ≤ 1800) := by omega
      simp_all
  · intro s v ok powered bad
    refine smbusNack_row powered ?_
    rcases bad with pec | range
    · simp [pec]
    · simp [range]
  · intro s v ok powered bad
    have refused : (ok && decide (v.toNat ≤ 1)) = false := by
      rcases bad with pec | range
      · simp [pec]
      · simp [Nat.not_le.2 range]
    exact ⟨smbusNack_row powered refused, smbusNack_row powered refused⟩
  · intro s v ok powered bad
    have refused : (ok && decide (v = 1)) = false := by
      rcases bad with pec | other
      · simp [pec]
      · simpa using fun _ => other
    exact ⟨smbusNack_row powered refused, smbusNack_row powered refused⟩
  · intro s v ok powered bad
    refine smbusNack_row powered ?_
    rcases bad with pec | low | high
    · simp [pec]
    · simp [Nat.not_le.2 low]
    · simp [Nat.not_le.2 high]

end Sys2Proof.Machine
end
